-- ==== Sys2Proof/Word.lean ====
section
/-! DEFINITION. The words of the machine (00 R1): a word is 32 bits, a byte 8, a scalar register 64, a vector register 512. -/

namespace Sys2Proof

/-- A byte (00 R1). -/
abbrev Byte := BitVec 8

/-- A word: 32 bits (00 R1). -/
abbrev Word := BitVec 32

/-- A scalar register, a device address or a program counter (01 R7). -/
abbrev W64 := BitVec 64

/-- A vector register: sixteen 32-bit lanes (01 R7). -/
abbrev VReg := BitVec 512

end Sys2Proof
end

