-- ==== Sys2Proof/Syntax.lean ====
section
/-! DEFINITION. The instruction set of the VK-1536: one constructor per row of spec/opcode_table.json.
Slot words (02 R50-R57) carry their encoded fields as bit vectors, named as the table names them
(d destination, a b sources, p guard predicate, k predicate or handle, i immediate, x index-extension or stride register).
The rows without a word (spec/95) are the steps that engines, the die scheduler, the host, the power controller
and the fabric take. They carry no field: which unit acts, and what comes in from outside, stands beside the step in
State (Machine/State.lean: StepArgs; notes/assumptions/2). -/

namespace Sys2Proof

/-- The eight slots of a bundle, numbered as hdr.presence numbers them (02 R41). -/
inductive Slot where
  | sa | sb | va | vb | mx | ls | cp | nw
  deriving DecidableEq, Repr

/-- Slot number of hdr.presence (02 R41). -/
def Slot.num : Slot → Nat
  | .sa => 0 | .sb => 1 | .va => 2 | .vb => 3 | .mx => 4 | .ls => 5 | .cp => 6 | .nw => 7

/-- The slot with a given number (02 R41). -/
def Slot.ofNum : Nat → Option Slot
  | 0 => some .sa | 1 => some .sb | 2 => some .va | 3 => some .vb
  | 4 => some .mx | 5 => some .ls | 6 => some .cp | 7 => some .nw
  | _ => none

/-- Where an instruction may stand (02 R52-R57). `event` rows have no word. -/
inductive SlotKind where
  | any | scalar | control | vector | ls | mx | cp | nw | event
  deriving DecidableEq, Repr

/-- One constructor per row of spec/opcode_table.json. -/
inductive Instr where
  /-- NOP (R41; any slot). Explicit no-operation slot word; executes nothing in any slot. -/
  | nop
  /-- ADD (R105; SA, SB). Sets sd to sa plus sb modulo 2^64. -/
  | add (d : BitVec 6) (a : BitVec 6) (b : BitVec 6) (p : BitVec 4)
  /-- SUB (R105; SA, SB). Sets sd to sa minus sb modulo 2^64. -/
  | sub (d : BitVec 6) (a : BitVec 6) (b : BitVec 6) (p : BitVec 4)
  /-- AND (R105; SA, SB). Sets sd to the bitwise AND of sa and sb. -/
  | and (d : BitVec 6) (a : BitVec 6) (b : BitVec 6) (p : BitVec 4)
  /-- OR (R105; SA, SB). Sets sd to the bitwise OR of sa and sb. -/
  | or (d : BitVec 6) (a : BitVec 6) (b : BitVec 6) (p : BitVec 4)
  /-- XOR (R105; SA, SB). Sets sd to the bitwise XOR of sa and sb. -/
  | xor (d : BitVec 6) (a : BitVec 6) (b : BitVec 6) (p : BitVec 4)
  /-- ANDN (R105; SA, SB). Sets sd to sa AND NOT sb. -/
  | andn (d : BitVec 6) (a : BitVec 6) (b : BitVec 6) (p : BitVec 4)
  /-- SHL (R105; SA, SB). Shifts sa left by sb[5:0] into sd. -/
  | shl (d : BitVec 6) (a : BitVec 6) (b : BitVec 6) (p : BitVec 4)
  /-- SHR (R105; SA, SB). Shifts sa right logically by sb[5:0] into sd. -/
  | shr (d : BitVec 6) (a : BitVec 6) (b : BitVec 6) (p : BitVec 4)
  /-- SAR (R105; SA, SB). Shifts sa right arithmetically by sb[5:0] into sd. -/
  | sar (d : BitVec 6) (a : BitVec 6) (b : BitVec 6) (p : BitVec 4)
  /-- ROL (R105; SA, SB). Rotates sa left by sb[5:0] into sd. -/
  | rol (d : BitVec 6) (a : BitVec 6) (b : BitVec 6) (p : BitVec 4)
  /-- MIN (R105; SA, SB). Sets sd to the signed minimum of sa and sb. -/
  | min (d : BitVec 6) (a : BitVec 6) (b : BitVec 6) (p : BitVec 4)
  /-- MAX (R105; SA, SB). Sets sd to the signed maximum of sa and sb. -/
  | max (d : BitVec 6) (a : BitVec 6) (b : BitVec 6) (p : BitVec 4)
  /-- MINU (R105; SA, SB). Sets sd to the unsigned minimum of sa and sb. -/
  | minu (d : BitVec 6) (a : BitVec 6) (b : BitVec 6) (p : BitVec 4)
  /-- MAXU (R105; SA, SB). Sets sd to the unsigned maximum of sa and sb. -/
  | maxu (d : BitVec 6) (a : BitVec 6) (b : BitVec 6) (p : BitVec 4)
  /-- MUL (R106; SA, SB). Writes the low 64 bits of sa times sb to sd. -/
  | mul (d : BitVec 6) (a : BitVec 6) (b : BitVec 6) (p : BitVec 4)
  /-- MULH (R106; SA, SB). Writes the high 64 bits of the signed product to sd. -/
  | mulh (d : BitVec 6) (a : BitVec 6) (b : BitVec 6) (p : BitVec 4)
  /-- MULHU (R106; SA, SB). Writes the high 64 bits of the unsigned product to sd. -/
  | mulhu (d : BitVec 6) (a : BitVec 6) (b : BitVec 6) (p : BitVec 4)
  /-- DIV (R107; SA, SB). Marks sd empty and later fills it with the signed truncated quotient. -/
  | div (d : BitVec 6) (a : BitVec 6) (b : BitVec 6) (p : BitVec 4)
  /-- DIVU (R107; SA, SB). Marks sd empty and later fills it with the unsigned quotient. -/
  | divu (d : BitVec 6) (a : BitVec 6) (b : BitVec 6) (p : BitVec 4)
  /-- REM (R107; SA, SB). Marks sd empty and later fills it with the signed remainder. -/
  | rem (d : BitVec 6) (a : BitVec 6) (b : BitVec 6) (p : BitVec 4)
  /-- REMU (R107; SA, SB). Marks sd empty and later fills it with the unsigned remainder. -/
  | remu (d : BitVec 6) (a : BitVec 6) (b : BitVec 6) (p : BitVec 4)
  /-- CLZ (R108; SA, SB). Counts leading zero bits of sa into sd. -/
  | clz (d : BitVec 6) (a : BitVec 6) (p : BitVec 4)
  /-- CTZ (R108; SA, SB). Counts trailing zero bits of sa into sd. -/
  | ctz (d : BitVec 6) (a : BitVec 6) (p : BitVec 4)
  /-- POPC (R108; SA, SB). Counts one bits of sa into sd. -/
  | popc (d : BitVec 6) (a : BitVec 6) (p : BitVec 4)
  /-- SXB (R108; SA, SB). Sign-extends the low byte of sa into sd. -/
  | sxb (d : BitVec 6) (a : BitVec 6) (p : BitVec 4)
  /-- SXH (R108; SA, SB). Sign-extends the low 16 bits of sa into sd. -/
  | sxh (d : BitVec 6) (a : BitVec 6) (p : BitVec 4)
  /-- SXW (R108; SA, SB). Sign-extends the low 32 bits of sa into sd. -/
  | sxw (d : BitVec 6) (a : BitVec 6) (p : BitVec 4)
  /-- ZXB (R108; SA, SB). Zero-extends the low byte of sa into sd. -/
  | zxb (d : BitVec 6) (a : BitVec 6) (p : BitVec 4)
  /-- ZXH (R108; SA, SB). Zero-extends the low 16 bits of sa into sd. -/
  | zxh (d : BitVec 6) (a : BitVec 6) (p : BitVec 4)
  /-- ZXW (R108; SA, SB). Zero-extends the low 32 bits of sa into sd. -/
  | zxw (d : BitVec 6) (a : BitVec 6) (p : BitVec 4)
  /-- CMP_EQ (R109; SA, SB). Writes a whole predicate true when sa equals sb. -/
  | cmpEq (k : BitVec 4) (a : BitVec 6) (b : BitVec 6) (p : BitVec 4)
  /-- CMP_NE (R109; SA, SB). Writes a whole predicate true when sa differs from sb. -/
  | cmpNe (k : BitVec 4) (a : BitVec 6) (b : BitVec 6) (p : BitVec 4)
  /-- CMP_LT (R109; SA, SB). Writes a whole predicate true when sa is less than sb, signed. -/
  | cmpLt (k : BitVec 4) (a : BitVec 6) (b : BitVec 6) (p : BitVec 4)
  /-- CMP_LE (R109; SA, SB). Writes a whole predicate true when sa is at most sb, signed. -/
  | cmpLe (k : BitVec 4) (a : BitVec 6) (b : BitVec 6) (p : BitVec 4)
  /-- CMP_LTU (R109; SA, SB). Writes a whole predicate true when sa is less than sb, unsigned. -/
  | cmpLtu (k : BitVec 4) (a : BitVec 6) (b : BitVec 6) (p : BitVec 4)
  /-- CMP_LEU (R109; SA, SB). Writes a whole predicate true when sa is at most sb, unsigned. -/
  | cmpLeu (k : BitVec 4) (a : BitVec 6) (b : BitVec 6) (p : BitVec 4)
  /-- SEL (R110; SA, SB). Selects sa or sb into sd by bit 0 of a predicate. -/
  | sel (d : BitVec 6) (a : BitVec 6) (b : BitVec 6) (k : BitVec 4) (p : BitVec 4)
  /-- ADDI (R111; SA, SB). Adds a sign-extended 14-bit immediate to sa into sd. -/
  | addi (d : BitVec 6) (a : BitVec 6) (i : BitVec 14)
  /-- ANDI (R111; SA, SB). ANDs sa with a sign-extended immediate into sd. -/
  | andi (d : BitVec 6) (a : BitVec 6) (i : BitVec 14)
  /-- ORI (R111; SA, SB). ORs sa with a sign-extended immediate into sd. -/
  | ori (d : BitVec 6) (a : BitVec 6) (i : BitVec 14)
  /-- XORI (R111; SA, SB). XORs sa with a sign-extended immediate into sd. -/
  | xori (d : BitVec 6) (a : BitVec 6) (i : BitVec 14)
  /-- SHLI (R111; SA, SB). Shifts sa left by an immediate amount into sd. -/
  | shli (d : BitVec 6) (a : BitVec 6) (i : BitVec 6)
  /-- SHRI (R111; SA, SB). Shifts sa right logically by an immediate amount into sd. -/
  | shri (d : BitVec 6) (a : BitVec 6) (i : BitVec 6)
  /-- SARI (R111; SA, SB). Shifts sa right arithmetically by an immediate amount into sd. -/
  | sari (d : BitVec 6) (a : BitVec 6) (i : BitVec 6)
  /-- CMPEQI (R112; SA, SB). Writes a whole predicate true when sa equals the immediate. -/
  | cmpeqi (k : BitVec 4) (a : BitVec 6) (i : BitVec 14)
  /-- CMPLTI (R112; SA, SB). Writes a whole predicate true when sa is below the immediate, signed. -/
  | cmplti (k : BitVec 4) (a : BitVec 6) (i : BitVec 14)
  /-- CMPLTUI (R112; SA, SB). Writes a whole predicate true when sa is below the immediate, unsigned. -/
  | cmpltui (k : BitVec 4) (a : BitVec 6) (i : BitVec 14)
  /-- MOVI (R113; SA, SB). Places a shifted 16-bit constant in sd, zeroing the rest. -/
  | movi (d : BitVec 6) (h : BitVec 2) (i : BitVec 16)
  /-- MOVK (R113; SA, SB). Replaces one 16-bit field of sd with a constant. -/
  | movk (d : BitVec 6) (h : BitVec 2) (i : BitVec 16)
  /-- MOVSR (R114; SA, SB). Reads a special register into sd. -/
  | movsr (d : BitVec 6) (n : BitVec 12)
  /-- MOVRS (R114; SA, SB). Writes sa to a special register at commit. -/
  | movrs (a : BitVec 6) (n : BitVec 12)
  /-- IBSET (R115; SA, SB). Sets index base ib0 or ib1 to sa plus an immediate modulo 128. -/
  | ibset (k : BitVec 1) (a : BitVec 6) (i : BitVec 14)
  /-- ALLOT (R116; SA, SB). Requests a new vector allotment and writes the outcome to sd. -/
  | allot (d : BitVec 6) (a : BitVec 6) (i : BitVec 14)
  /-- BR (R117; SA only). Branches by a word displacement when the condition predicate holds. -/
  | br (p : BitVec 4) (i : BitVec 22)
  /-- BRL (R117; SA only). Branches conditionally and writes the return word address to s63. -/
  | brl (p : BitVec 4) (i : BitVec 22)
  /-- JR (R118; SA only). Jumps to the word address in sa when the guard holds. -/
  | jr (a : BitVec 6) (p : BitVec 4)
  /-- JRL (R118; SA only). Jumps through sa and writes the return address to s63. -/
  | jrl (a : BitVec 6) (p : BitVec 4)
  /-- LOOP (R121; SA only). Pushes a hardware loop level with the count in sa, or skips the body when it is zero. -/
  | loop (a : BitVec 6) (i : BitVec 16)
  /-- LOOPR (R121; SA only). Pushes a rotating loop level with S stages and initialises the stage predicates. -/
  | loopr (a : BitVec 6) (s : BitVec 4) (i : BitVec 16)
  /-- BRTOP (R122; SA only). Supplies the go bit to the closure of a rotating loop body. -/
  | brtop (p : BitVec 4) (i : BitVec 22)
  /-- LEXIT (R123; SA only). Pops the innermost loop level and branches when taken. -/
  | lexit (p : BitVec 4) (i : BitVec 22)
  /-- TRAP (R124; SA only). Commits the bundle and then raises a SOFTWARE trap with a code and operand. -/
  | trap (a : BitVec 6) (i : BitVec 14)
  /-- END (R125; SA only). Holds until the task's stores, copies and matrix entries complete, then ends the task and returns its resources. -/
  | endTask
  /-- ERET (R126; SA only). Completes a forwarded trap with the disposition in s1 and waits for the next one. -/
  | eret
  /-- FADD_F32 (R130; VA, VB). Adds FP32 lanes with one rounding under FPMODE.rm. -/
  | faddF32 (d : BitVec 7) (a : BitVec 7) (b : BitVec 7) (p : BitVec 4) (x : BitVec 1)
  /-- FSUB_F32 (R130; VA, VB). Subtracts FP32 lanes. -/
  | fsubF32 (d : BitVec 7) (a : BitVec 7) (b : BitVec 7) (p : BitVec 4) (x : BitVec 1)
  /-- FMUL_F32 (R130; VA, VB). Multiplies FP32 lanes. -/
  | fmulF32 (d : BitVec 7) (a : BitVec 7) (b : BitVec 7) (p : BitVec 4) (x : BitVec 1)
  /-- FFMA_F32 (R130; VA, VB). Fused multiply-add of FP32 lanes into vd. -/
  | ffmaF32 (d : BitVec 7) (a : BitVec 7) (b : BitVec 7) (p : BitVec 4) (x : BitVec 1)
  /-- FMIN_F32 (R130; VA, VB). FP32 minimumNumber per lane. -/
  | fminF32 (d : BitVec 7) (a : BitVec 7) (b : BitVec 7) (p : BitVec 4) (x : BitVec 1)
  /-- FMAX_F32 (R130; VA, VB). FP32 maximumNumber per lane. -/
  | fmaxF32 (d : BitVec 7) (a : BitVec 7) (b : BitVec 7) (p : BitVec 4) (x : BitVec 1)
  /-- FCMP_F32 (R131; VA, VB). Compares FP32 lanes into predicate bits under a condition code. -/
  | fcmpF32 (c : BitVec 3) (k : BitVec 4) (a : BitVec 7) (b : BitVec 7) (p : BitVec 4) (x : BitVec 1)
  /-- FADD_F64 (R130; VA, VB). Adds FP64 elements. -/
  | faddF64 (d : BitVec 7) (a : BitVec 7) (b : BitVec 7) (p : BitVec 4) (x : BitVec 1)
  /-- FSUB_F64 (R130; VA, VB). Subtracts FP64 elements. -/
  | fsubF64 (d : BitVec 7) (a : BitVec 7) (b : BitVec 7) (p : BitVec 4) (x : BitVec 1)
  /-- FMUL_F64 (R130; VA, VB). Multiplies FP64 elements. -/
  | fmulF64 (d : BitVec 7) (a : BitVec 7) (b : BitVec 7) (p : BitVec 4) (x : BitVec 1)
  /-- FFMA_F64 (R130; VA, VB). Fused multiply-add of FP64 elements. -/
  | ffmaF64 (d : BitVec 7) (a : BitVec 7) (b : BitVec 7) (p : BitVec 4) (x : BitVec 1)
  /-- FMIN_F64 (R130; VA, VB). FP64 minimumNumber per element. -/
  | fminF64 (d : BitVec 7) (a : BitVec 7) (b : BitVec 7) (p : BitVec 4) (x : BitVec 1)
  /-- FMAX_F64 (R130; VA, VB). FP64 maximumNumber per element. -/
  | fmaxF64 (d : BitVec 7) (a : BitVec 7) (b : BitVec 7) (p : BitVec 4) (x : BitVec 1)
  /-- FCMP_F64 (R131; VA, VB). Compares FP64 elements into predicate bit pairs. -/
  | fcmpF64 (c : BitVec 3) (k : BitVec 4) (a : BitVec 7) (b : BitVec 7) (p : BitVec 4) (x : BitVec 1)
  /-- ABS_F32 (R132; VA, VB). Absolute value of FP32 lanes. -/
  | absF32 (d : BitVec 7) (a : BitVec 7) (p : BitVec 4) (x : BitVec 1)
  /-- NEG_F32 (R132; VA, VB). Negation of FP32 lanes. -/
  | negF32 (d : BitVec 7) (a : BitVec 7) (p : BitVec 4) (x : BitVec 1)
  /-- SQRT_F32 (R132; VA, VB). Correctly rounded square root of FP32 lanes. -/
  | sqrtF32 (d : BitVec 7) (a : BitVec 7) (p : BitVec 4) (x : BitVec 1)
  /-- RCP_F32 (R132; VA, VB). Reciprocal of FP32 lanes. -/
  | rcpF32 (d : BitVec 7) (a : BitVec 7) (p : BitVec 4) (x : BitVec 1)
  /-- RSQ_F32 (R132; VA, VB). Reciprocal square root of FP32 lanes. -/
  | rsqF32 (d : BitVec 7) (a : BitVec 7) (p : BitVec 4) (x : BitVec 1)
  /-- EXP2_F32 (R132; VA, VB). Two to the power of FP32 lanes. -/
  | exp2F32 (d : BitVec 7) (a : BitVec 7) (p : BitVec 4) (x : BitVec 1)
  /-- LOG2_F32 (R132; VA, VB). Base-2 logarithm of FP32 lanes. -/
  | log2F32 (d : BitVec 7) (a : BitVec 7) (p : BitVec 4) (x : BitVec 1)
  /-- FLOOR_F32 (R132; VA, VB). Rounds FP32 lanes down to an integer. -/
  | floorF32 (d : BitVec 7) (a : BitVec 7) (p : BitVec 4) (x : BitVec 1)
  /-- CEIL_F32 (R132; VA, VB). Rounds FP32 lanes up to an integer. -/
  | ceilF32 (d : BitVec 7) (a : BitVec 7) (p : BitVec 4) (x : BitVec 1)
  /-- RINT_F32 (R132; VA, VB). Rounds FP32 lanes to an integer under FPMODE.rm. -/
  | rintF32 (d : BitVec 7) (a : BitVec 7) (p : BitVec 4) (x : BitVec 1)
  /-- TRUNC_F32 (R132; VA, VB). Rounds FP32 lanes toward zero to an integer. -/
  | truncF32 (d : BitVec 7) (a : BitVec 7) (p : BitVec 4) (x : BitVec 1)
  /-- FCVT_BF16_F32 (R133; VA, VB). Converts FP32 lanes to BF16. -/
  | fcvtBf16F32 (d : BitVec 7) (a : BitVec 7) (p : BitVec 4) (x : BitVec 1)
  /-- FCVT_F16_F32 (R133; VA, VB). Converts FP32 lanes to FP16. -/
  | fcvtF16F32 (d : BitVec 7) (a : BitVec 7) (p : BitVec 4) (x : BitVec 1)
  /-- FCVT_F32_BF16 (R133; VA, VB). Widens BF16 lanes to FP32 exactly. -/
  | fcvtF32Bf16 (d : BitVec 7) (a : BitVec 7) (p : BitVec 4) (x : BitVec 1)
  /-- FCVT_F32_F16 (R133; VA, VB). Widens FP16 lanes to FP32 exactly. -/
  | fcvtF32F16 (d : BitVec 7) (a : BitVec 7) (p : BitVec 4) (x : BitVec 1)
  /-- FCVT_F64_F32 (R133; VA, VB). Widens FP32 in even lanes to FP64 elements. -/
  | fcvtF64F32 (d : BitVec 7) (a : BitVec 7) (p : BitVec 4) (x : BitVec 1)
  /-- FCVT_F32_F64 (R133; VA, VB). Narrows FP64 elements to FP32 in even lanes. -/
  | fcvtF32F64 (d : BitVec 7) (a : BitVec 7) (p : BitVec 4) (x : BitVec 1)
  /-- FCVT_I32_F32 (R133; VA, VB). Converts FP32 lanes to saturated I32. -/
  | fcvtI32F32 (d : BitVec 7) (a : BitVec 7) (p : BitVec 4) (x : BitVec 1)
  /-- FCVT_F32_I32 (R133; VA, VB). Converts I32 lanes to FP32. -/
  | fcvtF32I32 (d : BitVec 7) (a : BitVec 7) (p : BitVec 4) (x : BitVec 1)
  /-- FCVT_I64_F64 (R133; VA, VB). Converts FP64 elements to saturated I64. -/
  | fcvtI64F64 (d : BitVec 7) (a : BitVec 7) (p : BitVec 4) (x : BitVec 1)
  /-- FCVT_F64_I64 (R133; VA, VB). Converts I64 elements to FP64. -/
  | fcvtF64I64 (d : BitVec 7) (a : BitVec 7) (p : BitVec 4) (x : BitVec 1)
  /-- FCVT_I32_F32_RTZ (R133; VA, VB). Converts FP32 lanes to I32 toward zero. -/
  | fcvtI32F32Rtz (d : BitVec 7) (a : BitVec 7) (p : BitVec 4) (x : BitVec 1)
  /-- IADD (R134; VA, VB). 32-bit lane addition. -/
  | iadd (d : BitVec 7) (a : BitVec 7) (b : BitVec 7) (p : BitVec 4) (x : BitVec 1)
  /-- ISUB (R134; VA, VB). 32-bit lane subtraction. -/
  | isub (d : BitVec 7) (a : BitVec 7) (b : BitVec 7) (p : BitVec 4) (x : BitVec 1)
  /-- IMUL (R134; VA, VB). 32-bit lane multiply keeping the low bits. -/
  | imul (d : BitVec 7) (a : BitVec 7) (b : BitVec 7) (p : BitVec 4) (x : BitVec 1)
  /-- IMIN (R134; VA, VB). Signed 32-bit lane minimum. -/
  | imin (d : BitVec 7) (a : BitVec 7) (b : BitVec 7) (p : BitVec 4) (x : BitVec 1)
  /-- IMAX (R134; VA, VB). Signed 32-bit lane maximum. -/
  | imax (d : BitVec 7) (a : BitVec 7) (b : BitVec 7) (p : BitVec 4) (x : BitVec 1)
  /-- IMINU (R134; VA, VB). Unsigned 32-bit lane minimum. -/
  | iminu (d : BitVec 7) (a : BitVec 7) (b : BitVec 7) (p : BitVec 4) (x : BitVec 1)
  /-- IMAXU (R134; VA, VB). Unsigned 32-bit lane maximum. -/
  | imaxu (d : BitVec 7) (a : BitVec 7) (b : BitVec 7) (p : BitVec 4) (x : BitVec 1)
  /-- IAND (R134; VA, VB). Lane bitwise AND. -/
  | iand (d : BitVec 7) (a : BitVec 7) (b : BitVec 7) (p : BitVec 4) (x : BitVec 1)
  /-- IOR (R134; VA, VB). Lane bitwise OR. -/
  | ior (d : BitVec 7) (a : BitVec 7) (b : BitVec 7) (p : BitVec 4) (x : BitVec 1)
  /-- IXOR (R134; VA, VB). Lane bitwise XOR. -/
  | ixor (d : BitVec 7) (a : BitVec 7) (b : BitVec 7) (p : BitVec 4) (x : BitVec 1)
  /-- ISHL (R134; VA, VB). Lane left shift. -/
  | ishl (d : BitVec 7) (a : BitVec 7) (b : BitVec 7) (p : BitVec 4) (x : BitVec 1)
  /-- ISHR (R134; VA, VB). Lane logical right shift. -/
  | ishr (d : BitVec 7) (a : BitVec 7) (b : BitVec 7) (p : BitVec 4) (x : BitVec 1)
  /-- ISAR (R134; VA, VB). Lane arithmetic right shift. -/
  | isar (d : BitVec 7) (a : BitVec 7) (b : BitVec 7) (p : BitVec 4) (x : BitVec 1)
  /-- ICMP (R135; VA, VB). Compares integer lanes into predicate bits under a condition code. -/
  | icmp (c : BitVec 3) (k : BitVec 4) (a : BitVec 7) (b : BitVec 7) (p : BitVec 4) (x : BitVec 1)
  /-- VMOV (R136; VA, VB). Copies va into the active lanes of vd. -/
  | vmov (d : BitVec 7) (a : BitVec 7) (p : BitVec 4) (x : BitVec 1)
  /-- VSEL (R136; VA, VB). Merges va and vb lane by lane by a predicate. -/
  | vsel (d : BitVec 7) (a : BitVec 7) (b : BitVec 7) (k : BitVec 4) (x : BitVec 1)
  /-- VPERM (R137; VA, VB). Permutes the lanes of va by the indices in vb. -/
  | vperm (d : BitVec 7) (a : BitVec 7) (b : BitVec 7) (p : BitVec 4) (x : BitVec 1)
  /-- VBCAST (R138; VA, VB). Broadcasts one lane of va to every active lane. -/
  | vbcast (d : BitVec 7) (a : BitVec 7) (l : BitVec 4) (p : BitVec 4) (x : BitVec 1)
  /-- VBCAST_D (R138; VA, VB). Broadcasts one 64-bit element of va to every active element. -/
  | vbcastD (d : BitVec 7) (a : BitVec 7) (e : BitVec 3) (p : BitVec 4) (x : BitVec 1)
  /-- VBCAST_SCALAR (R138; VA, VB). Broadcasts the low 32 bits of a scalar register to every active lane. -/
  | vbcastScalar (d : BitVec 7) (a : BitVec 6) (p : BitVec 4)
  /-- VBCAST_D_SCALAR (R138; VA, VB). Broadcasts a 64-bit scalar register to every active element. -/
  | vbcastDScalar (d : BitVec 7) (a : BitVec 6) (p : BitVec 4)
  /-- VEXT (R137; VA, VB). Extracts sixteen lanes from the concatenation of va and vb at offset k. -/
  | vext (d : BitVec 7) (a : BitVec 7) (b : BitVec 7) (k : BitVec 4) (x : BitVec 1)
  /-- VRED_FADD_F32 (R139; VA, VB). Tree-sums FP32 lanes and writes the result to every lane. -/
  | vredFaddF32 (d : BitVec 7) (a : BitVec 7) (p : BitVec 4) (x : BitVec 1)
  /-- VRED_FMAX_F32 (R139; VA, VB). Tree-maximum of FP32 lanes into every lane. -/
  | vredFmaxF32 (d : BitVec 7) (a : BitVec 7) (p : BitVec 4) (x : BitVec 1)
  /-- VRED_FMIN_F32 (R139; VA, VB). Tree-minimum of FP32 lanes into every lane. -/
  | vredFminF32 (d : BitVec 7) (a : BitVec 7) (p : BitVec 4) (x : BitVec 1)
  /-- VRED_IADD (R139; VA, VB). Tree-sum of integer lanes into every lane. -/
  | vredIadd (d : BitVec 7) (a : BitVec 7) (p : BitVec 4) (x : BitVec 1)
  /-- VRED_IMAX (R139; VA, VB). Tree signed maximum of integer lanes. -/
  | vredImax (d : BitVec 7) (a : BitVec 7) (p : BitVec 4) (x : BitVec 1)
  /-- VRED_IMIN (R139; VA, VB). Tree signed minimum of integer lanes. -/
  | vredImin (d : BitVec 7) (a : BitVec 7) (p : BitVec 4) (x : BitVec 1)
  /-- VRED_FADD_F64 (R139; VA, VB). Tree-sum of FP64 elements into every element. -/
  | vredFaddF64 (d : BitVec 7) (a : BitVec 7) (p : BitVec 4) (x : BitVec 1)
  /-- VIOTA (R140; VA, VB). Writes to each active lane the count of predicate bits below it. -/
  | viota (d : BitVec 7) (k : BitVec 4) (p : BitVec 4)
  /-- VPLANE_PACK (R141; VA, VB). Packs sixteen lanes into n plane half-words of a PN block. -/
  | vplanePack (d : BitVec 7) (a : BitVec 7) (h : BitVec 1) (n : BitVec 4) (x : BitVec 1)
  /-- VPLANE_UNPACK (R141; VA, VB). Unpacks plane words into sixteen sign-extended lanes. -/
  | vplaneUnpack (d : BitVec 7) (a : BitVec 7) (h : BitVec 1) (n : BitVec 4) (x : BitVec 1)
  /-- PAND (R142; VA, VB). Predicate AND under the guard. -/
  | pand (d : BitVec 4) (a : BitVec 4) (b : BitVec 4) (p : BitVec 4)
  /-- POR (R142; VA, VB). Predicate OR under the guard. -/
  | por (d : BitVec 4) (a : BitVec 4) (b : BitVec 4) (p : BitVec 4)
  /-- PXOR (R142; VA, VB). Predicate XOR under the guard. -/
  | pxor (d : BitVec 4) (a : BitVec 4) (b : BitVec 4) (p : BitVec 4)
  /-- PANDN (R142; VA, VB). Predicate AND NOT under the guard. -/
  | pandn (d : BitVec 4) (a : BitVec 4) (b : BitVec 4) (p : BitVec 4)
  /-- PNOT (R142; VA, VB). Predicate NOT under the guard. -/
  | pnot (d : BitVec 4) (a : BitVec 4) (p : BitVec 4)
  /-- PMOV (R142; VA, VB). Predicate copy under the guard. -/
  | pmov (d : BitVec 4) (a : BitVec 4) (p : BitVec 4)
  /-- PSET (R142; VA, VB). Sets guarded predicate bits to one. -/
  | pset (d : BitVec 4) (p : BitVec 4)
  /-- PCLR (R142; VA, VB). Clears guarded predicate bits. -/
  | pclr (d : BitVec 4) (p : BitVec 4)
  /-- PCNT (R140; VA, VB). Writes the predicate's popcount to every active lane. -/
  | pcnt (d : BitVec 7) (k : BitVec 4) (p : BitVec 4)
  /-- LD (R152; LS). Loads 1 to 8 bytes sign-extended into a scalar register. -/
  | ld (d : BitVec 6) (b : BitVec 6) (s : BitVec 2) (i : BitVec 11)
  /-- LDZ (R152; LS). Loads 1 to 8 bytes zero-extended into a scalar register. -/
  | ldz (d : BitVec 6) (b : BitVec 6) (s : BitVec 2) (i : BitVec 11)
  /-- ST (R152; LS). Stores 1 to 8 bytes of a scalar register. -/
  | st (d : BitVec 6) (b : BitVec 6) (s : BitVec 2) (i : BitVec 11)
  /-- VLD (R153; LS). Loads one 64-byte row into a vector register. -/
  | vld (d : BitVec 7) (b : BitVec 6) (i : BitVec 11)
  /-- VST (R153; LS). Stores a vector register as one 64-byte row. -/
  | vst (d : BitVec 7) (b : BitVec 6) (i : BitVec 11)
  /-- VLDS (R154; LS). Loads sixteen lanes at a constant stride. -/
  | vlds (d : BitVec 7) (b : BitVec 6) (x : BitVec 6) (i : BitVec 7)
  /-- VSTS (R154; LS). Stores sixteen lanes at a constant stride in ascending lane order. -/
  | vsts (d : BitVec 7) (b : BitVec 6) (x : BitVec 6) (i : BitVec 7)
  /-- VGTH (R155; LS). Gathers sixteen lanes through an index vector. -/
  | vgth (d : BitVec 7) (b : BitVec 6) (x : BitVec 6) (s : BitVec 2)
  /-- VSCT (R155; LS). Scatters sixteen lanes through an index vector. -/
  | vsct (d : BitVec 7) (b : BitVec 6) (x : BitVec 6) (s : BitVec 2)
  /-- FIL (R157; LS). Fills a scalar register from the task's niche window. -/
  | fil (d : BitVec 6) (b : BitVec 6) (s : BitVec 2) (i : BitVec 11)
  /-- SPL (R157; LS). Spills a scalar register to the niche window. -/
  | spl (d : BitVec 6) (b : BitVec 6) (s : BitVec 2) (i : BitVec 11)
  /-- VFIL (R157; LS). Fills a vector register from the niche window. -/
  | vfil (d : BitVec 7) (b : BitVec 6) (i : BitVec 11)
  /-- VSPL (R157; LS). Spills a vector register to the niche window. -/
  | vspl (d : BitVec 7) (b : BitVec 6) (i : BitVec 11)
  /-- OCLAIM (R161; LS). Claims and zero-fills the lowest free alcove and binds it to a handle. -/
  | oclaim (k : BitVec 4) (d : BitVec 6) (f : BitVec 7)
  /-- ORELEASE (R162; LS). Unbinds a handle; its alcove becomes FREE once queued reads drain. -/
  | orelease (k : BitVec 4)
  /-- OFILL (R163; LS). Starts filling an alcove row by row from the core's own scratchpad. -/
  | ofill (k : BitVec 4) (b : BitVec 6) (x : BitVec 6)
  /-- OSTAT (R164; LS). Reads the state word of a handle's alcove. -/
  | ostat (d : BitVec 6) (k : BitVec 4)
  /-- SCLD (R167; LS). Pushes scale words from own scratchpad onto the task's scale queue. -/
  | scld (b : BitVec 6) (s : BitVec 2) (i : BitVec 11)
  /-- BFMT (R148; LS). Reads a bank format register and writes a new valid value. -/
  | bfmt (d : BitVec 6) (a : BitVec 6) (n : BitVec 4)
  /-- AADD (R170; LS). Atomic add at the home, returning the old value by full/empty. -/
  | aadd (d : BitVec 6) (b : BitVec 6) (x : BitVec 6) (u : BitVec 1) (s : BitVec 2)
  /-- AMIN (R170; LS). Atomic minimum at the home. -/
  | amin (d : BitVec 6) (b : BitVec 6) (x : BitVec 6) (u : BitVec 1) (s : BitVec 2)
  /-- AMAX (R170; LS). Atomic maximum at the home. -/
  | amax (d : BitVec 6) (b : BitVec 6) (x : BitVec 6) (u : BitVec 1) (s : BitVec 2)
  /-- AAND (R170; LS). Atomic AND at the home. -/
  | aand (d : BitVec 6) (b : BitVec 6) (x : BitVec 6) (u : BitVec 1) (s : BitVec 2)
  /-- AOR (R170; LS). Atomic OR at the home. -/
  | aor (d : BitVec 6) (b : BitVec 6) (x : BitVec 6) (u : BitVec 1) (s : BitVec 2)
  /-- AXCHG (R170; LS). Atomic exchange at the home. -/
  | axchg (d : BitVec 6) (b : BitVec 6) (x : BitVec 6) (u : BitVec 1) (s : BitVec 2)
  /-- ACAS (R170; LS). Atomic compare-and-swap against sd at the home. -/
  | acas (d : BitVec 6) (b : BitVec 6) (x : BitVec 6) (u : BitVec 1) (s : BitVec 2)
  /-- AADDF (R170; LS). Atomic floating-point add at the home. -/
  | aaddf (d : BitVec 6) (b : BitVec 6) (x : BitVec 6) (s : BitVec 2)
  /-- FENCE_PACKAGE (R171; LS). Holds until earlier LS stores and atomics are acknowledged at package scope. -/
  | fencePackage
  /-- FENCE_SYSTEM (R171; LS). Holds until earlier stores are complete at package scope and host writes completed by the host. -/
  | fenceSystem
  /-- FENCEX (R172; LS). Orders earlier accesses of one class set before later accesses of another, adjusting clocks. -/
  | fencex (e : BitVec 7) (l : BitVec 7)
  /-- MSET (R176; MX). Enqueues a mode setting and zeroing of one or more tiles. -/
  | mset (a : BitVec 6) (m : BitVec 8)
  /-- MMA (R180; MX). Enqueues one dense K-step of multiply-accumulate into a tile. -/
  | mma (c : BitVec 3) (a : BitVec 4) (b : BitVec 4) (z : BitVec 1) (s : BitVec 1)
  /-- MMAS (R180; MX). Enqueues one N:32-sparse K-step with metadata from an M alcove. -/
  | mmas (c : BitVec 3) (a : BitVec 4) (b : BitVec 4) (m : BitVec 4) (z : BitVec 1) (s : BitVec 1)
  /-- MRET (R186; MX). Enqueues a retirement of a tile to memory with a status register. -/
  | mret (c : BitVec 3) (a : BitVec 6) (d : BitVec 6) (f : BitVec 4) (k : BitVec 1)
  /-- MRETV (R188; MX). Enqueues a retirement of a tile into a vector register group. -/
  | mretv (c : BitVec 3) (v : BitVec 6) (d : BitVec 6) (f : BitVec 4) (k : BitVec 1)
  /-- MZERO (R189; MX). Enqueues the zeroing of a tile. -/
  | mzero (c : BitVec 3)
  /-- MDRAIN (R190; MX). Holds until every earlier matrix entry of the task has completed. -/
  | mdrain
  /-- MLDA (R191; MX). Enqueues a load of a tile's whole state from an image. -/
  | mlda (c : BitVec 3) (a : BitVec 6)
  /-- MSTA (R191; MX). Enqueues a store of a tile's whole state as an image. -/
  | msta (c : BitVec 3) (a : BitVec 6)
  /-- RFWD (R192; MX). Converts an integer to its residues in all 21 channels. -/
  | rfwd (d : BitVec 7) (a : BitVec 7)
  /-- RREV (R194; MX). Reads back and checks eight elements of an I64 tile. -/
  | rrev (d : BitVec 7) (h : BitVec 1) (r : BitVec 6) (c : BitVec 3)
  /-- RCHK (R193; MX). Runs the check procedure on a vector of residues for a lane. -/
  | rchk (d : BitVec 7) (a : BitVec 7) (l : BitVec 2)
  /-- MCHAN_SCRUB (R197; MX). Enqueues a scrub of every in-service slice with known vectors. -/
  | mchanScrub
  /-- MCHAN_THRESH (R197; MX). Enqueues a new corrected-event threshold for every slice. -/
  | mchanThresh (a : BitVec 6)
  /-- MCHAN_CLEAR (R197; MX). Enqueues clearing of the counters of selected slices. -/
  | mchanClear (a : BitVec 6)
  /-- MCHAN_FAIL (R197; MX). Enqueues marking one slice failed. -/
  | mchanFail (a : BitVec 6) (s : BitVec 5)
  /-- MINJ (R199; MX). Enqueues a test injection of a residue error on a tile. -/
  | minj (a : BitVec 6) (w : BitVec 1) (c : BitVec 3) (h : BitVec 5)
  /-- CSET (R248; CP). Writes a copy-channel field. -/
  | cset (q : BitVec 2) (f : BitVec 6) (a : BitVec 6)
  /-- CSHAPE (R249; CP). Sets the address of a channel's shape record. -/
  | cshape (q : BitVec 2) (a : BitVec 6)
  /-- CGO (R250; CP). Launches a copy command on an idle channel. -/
  | cgo (q : BitVec 2) (a : BitVec 6) (b : BitVec 6)
  /-- CWP (R251; CP). Marks sd empty and fills it with WP once WP reaches a threshold. -/
  | cwp (q : BitVec 2) (d : BitVec 6) (a : BitVec 6)
  /-- CWAIT (R252; CP). Marks sd empty and fills it with the channel's last record when its command ends. -/
  | cwait (q : BitVec 2) (d : BitVec 6)
  /-- CREC (R253; CP). Reads the next completion record from the channel's ring. -/
  | crec (q : BitVec 2) (d : BitVec 6)
  /-- CCAN (R254; CP). Cancels the task's copy commands carrying a given handle. -/
  | ccan (a : BitVec 6)
  /-- FORK (R288; NW). Pushes a task record onto the core's deque with a join increment. -/
  | fork (a : BitVec 6)
  /-- JOIN (R289; NW). Marks sd empty and fills it when a join counter's outstanding count is zero. -/
  | join (d : BitVec 6) (a : BitVec 6)
  /-- NEXT (R290; NW). Draws the next tile value from the region's tile source. -/
  | next (d : BitVec 6)
  /-- YIELD (R291; NW). Commits and offers the core to other resident tasks. -/
  | yield
  /-- WATCH (R292; NW). Marks sd empty and fills it when a memory word differs from an expected value. -/
  | watch (d : BitVec 6) (a : BitVec 6) (b : BitVec 6) (t : BitVec 7)
  /-- BARA (R257; NW). Arrives at a barrier after earlier stores are performed. -/
  | bara (n : BitVec 7)
  /-- BARW (R258; NW). Marks sd empty and fills it when the barrier generation changes. -/
  | barw (d : BitVec 6) (a : BitVec 6) (n : BitVec 7)
  /-- BARI (R256; NW). Arms a barrier with a target and resets its phase. -/
  | bari (a : BitVec 6) (n : BitVec 7)
  /-- XENQ (R321; NW). Enqueues one token record into a sump. -/
  | xenq (d : BitVec 6) (a : BitVec 6) (b : BitVec 6)
  /-- XCFG_LOAD (R322; NW). Loads a sump descriptor and turns the sump ON. -/
  | xcfgLoad (d : BitVec 6) (a : BitVec 6) (b : BitVec 6)
  /-- XCFG_HALT (R322; NW). Halts firing of an ON sump. -/
  | xcfgHalt (d : BitVec 6) (a : BitVec 6)
  /-- XCFG_RESUME (R322; NW). Returns a HALTED sump to ON. -/
  | xcfgResume (d : BitVec 6) (a : BitVec 6)
  /-- XCFG_PURGE (R322; NW). Discards a HALTED sump's unfired entries. -/
  | xcfgPurge (d : BitVec 6) (a : BitVec 6)
  /-- XCFG_OFF (R322; NW). Turns an empty HALTED sump OFF and releases its pins. -/
  | xcfgOff (d : BitVec 6) (a : BitVec 6)
  /-- XSTAT (R323; NW). Reads a sump counter or state word. -/
  | xstat (d : BitVec 6) (a : BitVec 6) (f : BitVec 7)
  /-- XDISP (R325; NW). Sets a sump's flush mark and returns its count. -/
  | xdisp (d : BitVec 6) (a : BitVec 6)
  /-- XPREF (R327; NW). Starts a speculative prefetch of a weight range into L2 and optionally the cluster cache. -/
  | xpref (a : BitVec 6) (b : BitVec 6) (l : BitVec 7)
  /-- XCAN (R328; NW). Cancels prefetches and copy commands carrying a handle. -/
  | xcan (a : BitVec 6)
  /-- TCREATE (R389; NW). Creates a collective tree from a descriptor and reserves router slots. -/
  | tcreate (d : BitVec 6) (a : BitVec 6)
  /-- TDESTROY (R389; NW). Destroys a tree, discarding in-flight data and freeing its handle. -/
  | tdestroy (d : BitVec 6) (a : BitVec 6)
  /-- TEDIT (R389; NW). Applies a membership edit from a boundary segment. -/
  | tedit (d : BitVec 6) (a : BitVec 6) (b : BitVec 6)
  /-- TPOST (R390; NW). Posts one segment of a member's contribution. -/
  | tpost (a : BitVec 6) (b : BitVec 6)
  /-- TWAIT (R391; NW). Marks sd empty and fills it when a segment is done at a member. -/
  | twait (d : BitVec 6) (a : BitVec 6)
  /-- TFREEZE (R383; NW). Freezes an ACTIVE tree and drains admitted posts. -/
  | tfreeze (d : BitVec 6) (a : BitVec 6)
  /-- TSAVE (R384; NW). Writes a FROZEN tree and its partials to a save area and releases slots. -/
  | tsave (d : BitVec 6) (a : BitVec 6) (b : BitVec 6)
  /-- TRESTORE (R386; NW). Restores a SAVED tree from a save area, optionally onto new members. -/
  | trestore (d : BitVec 6) (a : BitVec 6) (b : BitVec 6)
  /-- TQRY (R392; NW). Reads one field of a tree. -/
  | tqry (d : BitVec 6) (a : BitVec 6) (f : BitVec 7)
  /-- RLD (R442; NW). Loads 128 remote bytes into two vector registers and parks the task. -/
  | rld (d : BitVec 6) (a : BitVec 5)
  /-- RST (R442; NW). Stores two vector registers as 128 remote bytes and parks the task. -/
  | rst (d : BitVec 6) (a : BitVec 5)
  /-- RATOM (R443; NW). Performs an atomic at another package's home. -/
  | ratom (d : BitVec 6) (a : BitVec 5) (b : BitVec 6) (u : BitVec 1) (z : BitVec 2) (o : BitVec 3)
  /-- RFENCE (R444; NW). Waits for remote operations to one package and reads the remote-error word. -/
  | rfence (d : BitVec 6) (a : BitVec 6)
  /-- RFENCE_ALL (R444; NW). Waits for all remote operations and reads the remote-error word. -/
  | rfenceAll (d : BitVec 6)
  /-- FSEND (R445; NW). Queues a scheduled send transfer to another package. -/
  | fsend (d : BitVec 6) (a : BitVec 6)
  /-- FCLK (R446; NW). Reads fabric time or slot state. -/
  | fclk (d : BitVec 6) (a : BitVec 6) (f : BitVec 7)
  /-- HSIG (R293; NW). Posts an event to the host event queue and interrupts on vector v. -/
  | hsig (a : BitVec 6) (v : BitVec 7)
  /-- RGNCTL_CREATE (R294; NW). Requests creation of a child region with its grants. -/
  | rgnctlCreate (a : BitVec 6) (b : BitVec 6)
  /-- RGNCTL_DESTROY (R294; NW). Requests destruction of a region. -/
  | rgnctlDestroy (a : BitVec 6) (b : BitVec 6)
  /-- RGNCTL_LAUNCH (R294; NW). Rings the doorbell of a region's launch list. -/
  | rgnctlLaunch (a : BitVec 6) (b : BitVec 6)
  /-- RGNCTL_PREEMPT (R294; NW). Pre-empts every resident task of a region. -/
  | rgnctlPreempt (a : BitVec 6) (b : BitVec 6)
  /-- RGNCTL_PARK (R294; NW). Pre-empts a region's tasks and stops placing them. -/
  | rgnctlPark (a : BitVec 6) (b : BitVec 6)
  /-- RGNCTL_RESUME (R294; NW). Returns a region to ACTIVE and re-executes trap-parked bundles. -/
  | rgnctlResume (a : BitVec 6) (b : BitVec 6)
  /-- RGNCTL_KILL (R294; NW). Kills a region's subtree tasks and discards its queued work. -/
  | rgnctlKill (a : BitVec 6) (b : BitVec 6)
  /-- RGNCTL_RELOAD (R294; NW). Re-reads a region's reloadable RCB fields. -/
  | rgnctlReload (a : BitVec 6) (b : BitVec 6)
  /-- RGNCTL_QUERY (R294; NW). Writes a 128-byte usage and grant block for a region. -/
  | rgnctlQuery (a : BitVec 6) (b : BitVec 6)
  /-- XLINV (R356; NW). Removes translations of a range from every translation cache of the partition. -/
  | xlinv (d : BitVec 6) (a : BitVec 6) (b : BitVec 6)
  /-- XLINV_FORCE (R357; NW). Forcibly invalidates pinned pages by parking holders and reopening faults. -/
  | xlinvForce (d : BitVec 6) (a : BitVec 6) (b : BitVec 6)
  /-- XLPIN (R354; NW). Pins the translations of a range for the region. -/
  | xlpin (d : BitVec 6) (a : BitVec 6) (b : BitVec 6)
  /-- XLUNPIN (R355; NW). Releases one pin of the region on each page of a range. -/
  | xlunpin (d : BitVec 6) (a : BitVec 6) (b : BitVec 6)
  /-- IDLE_BUNDLE (R43; step of an engine, the scheduler, the host or the fabric). One wholly empty bundle of a header's idle run issues, counting as a task bundle for exposed offsets. -/
  | idleBundle
  /-- OFILL_ROW (R163; step of an engine, the scheduler, the host or the fabric). One source row of an OFILL is read and written into the alcove; the last makes it FULL. -/
  | ofillRow
  /-- MSET_EXECUTE (R176; step of an engine, the scheduler, the host or the fabric). An MSET queue entry gives its tiles the mode and zeroes them. -/
  | msetExecute
  /-- KSTEP_START (R200; step of an engine, the scheduler, the host or the fabric). A K-step entry starts in the array, reading its alcove operands. -/
  | kstepStart
  /-- KSTEP_MERGE (R184; step of an engine, the scheduler, the host or the fabric). A K-step's sums are checked and merged or added to residues when its occupancy ends. -/
  | kstepMerge
  /-- RETIREMENT (R186; step of an engine, the scheduler, the host or the fabric). The reverse converters execute an MRET or MRETV entry: address checks, element checks, writes and status. -/
  | retirement
  /-- MZERO_EXECUTE (R189; step of an engine, the scheduler, the host or the fabric). An MZERO entry zeroes its tile. -/
  | mzeroExecute
  /-- MLDA_EXECUTE (R191; step of an engine, the scheduler, the host or the fabric). An MLDA entry reads the image and replaces the tile, poisoning it if the image is bad. -/
  | mldaExecute
  /-- MSTA_EXECUTE (R191; step of an engine, the scheduler, the host or the fabric). An MSTA entry writes the tile image. -/
  | mstaExecute
  /-- MCHAN_EXECUTE (R197; step of an engine, the scheduler, the host or the fabric). An MCHAN entry applies its scrub, threshold, clear or fail effect. -/
  | mchanExecute
  /-- MINJ_EXECUTE (R199; step of an engine, the scheduler, the host or the fabric). A MINJ entry records a pending injection on its tile. -/
  | minjExecute
  /-- COPY_RECORD_READ (R230; step of an engine, the scheduler, the host or the fabric). The engine reads a command's shape record and checks it before data moves. -/
  | copyRecordRead
  /-- SELECT_TILE_READ (R238; step of an engine, the scheduler, the host or the fabric). A SELECT command reads its tile after earlier matrix entries complete and writes top-k pairs. -/
  | selectTileRead
  /-- COPY_SECTOR_WRITE (R231; step of an engine, the scheduler, the host or the fabric). The engine writes one destination sector in iteration order and advances WP. -/
  | copySectorWrite
  /-- COPY_FAULT_RESOLVED (R242; step of an engine, the scheduler, the host or the fabric). The fault service resolves a faulted channel, which resumes or ends. -/
  | copyFaultResolved
  /-- FOLLOW_ON_PRESENT (R240; step of an engine, the scheduler, the host or the fabric). A completed command's follow-on matrix word is presented to the matrix queue. -/
  | followOnPresent
  /-- COPY_COMPLETION (R234; step of an engine, the scheduler, the host or the fabric). A command's completion record is written and the channel returns to IDLE. -/
  | copyCompletion
  /-- WATCH_TIMEOUT (R292; step of an engine, the scheduler, the host or the fabric). A WATCH with t ≥ 1 fills with the word's value when 2^(t+8) cycles expire. -/
  | watchTimeout
  /-- XPREF_UNIT (R327; step of an engine, the scheduler, the host or the fabric). One 4 KiB unit of a prefetch is fetched or skipped. -/
  | xprefUnit
  /-- SUMP_ADMIT (R308; step of an engine, the scheduler, the host or the fabric). The sump engine admits a record, checks its key and appends or refuses it. -/
  | sumpAdmit
  /-- SUMP_AGE_DUE (R310; step of an engine, the scheduler, the host or the fabric). A sump's oldest entry reaches its age limit and the sump becomes due. -/
  | sumpAgeDue
  /-- FIRING_DECISION (R311; step of an engine, the scheduler, the host or the fabric). The sump engine picks one eligible sump and fires it. -/
  | firingDecision
  /-- TREE_SOURCE_READ (R378; step of an engine, the scheduler, the host or the fabric). A posted segment's source sectors are read into the tree. -/
  | treeSourceRead
  /-- TREE_CHUNK_ARRIVE (R375; step of an engine, the scheduler, the host or the fabric). A contribution chunk reaches a router and is combined or forwarded. -/
  | treeChunkArrive
  /-- TREE_SLOT_REFILL (R379; step of an engine, the scheduler, the host or the fabric). The tree service loads a slot and the router replays held packets. -/
  | treeSlotRefill
  /-- TREE_REPLICATE (R376; step of an engine, the scheduler, the host or the fabric). A downward flit is replicated to branches with space or parked in a holding slot. -/
  | treeReplicate
  /-- TREE_DELIVERY (R377; step of an engine, the scheduler, the host or the fabric). A segment result is written to a receiver's delivery slot in sectors. -/
  | treeDelivery
  /-- TREE_DATA_ERROR (R380; step of an engine, the scheduler, the host or the fabric). An uncorrectable error in a tree buffer fails its segment. -/
  | treeDataError
  /-- RESULT_ARRIVAL (R10; step of an engine, the scheduler, the host or the fabric). A full/empty producer's result arrives and fills its register. -/
  | resultArrival
  /-- HOLD_SUSPEND (R32; step of an engine, the scheduler, the host or the fabric). A bundle held for 64 cycles suspends its task. -/
  | holdSuspend
  /-- REPLAY_ENTRY_INJECT (R210; step of an engine, the scheduler, the host or the fabric). A replay-buffer entry is written to its register when its bundle count comes due. -/
  | replayEntryInject
  /-- TRAP_ACTION (R281; step of an engine, the scheduler, the host or the fabric). The scheduler applies the region's action table to a trapped task. -/
  | trapAction
  /-- REPLAY_RESUME (R281; step of an engine, the scheduler, the host or the fabric). After the scheduler-side fix a replayed task re-issues its faulting bundle. -/
  | replayResume
  /-- FORWARD_DELIVERY (R281; step of an engine, the scheduler, the host or the fabric). A queued trap record is delivered to the region's handler task. -/
  | forwardDelivery
  /-- PREEMPT_REQUEST (R214; step of an engine, the scheduler, the host or the fabric). The die scheduler requests pre-emption of a task. -/
  | preemptRequest
  /-- FREEZE (R214; step of an engine, the scheduler, the host or the fabric). A task reaches its freeze point with step count zero and stops. -/
  | freeze
  /-- LATE_FREEZE (R215; step of an engine, the scheduler, the host or the fabric). The pre-emption deadline expires and the task is frozen mid-accumulation. -/
  | lateFreeze
  /-- TASK_SAVE (R216; step of an engine, the scheduler, the host or the fabric). After drains, the task is written to a save area and its resources return. -/
  | taskSave
  /-- TASK_RESTORE (R221; step of an engine, the scheduler, the host or the fabric). A saved task is installed on a qualifying core from its save area. -/
  | taskRestore
  /-- TASK_PLACEMENT (R270; step of an engine, the scheduler, the host or the fabric). The scheduler places a waiting task on an eligible core. -/
  | taskPlacement
  /-- QUANTUM_EXPIRY (R273; step of an engine, the scheduler, the host or the fabric). An equal-priority quantum expires and a resident task is pre-empted. -/
  | quantumExpiry
  /-- JOIN_RELIEF (R277; step of an engine, the scheduler, the host or the fabric). A task waiting on JOIN for 4,096 cycles may be pre-empted to place its region's work. -/
  | joinRelief
  /-- TILE_REFILL (R286; step of an engine, the scheduler, the host or the fabric). A core's tile-source buffer is refilled by one fetch-add on the counter. -/
  | tileRefill
  /-- CONTROL_DIVERGE (R287; step of an engine, the scheduler, the host or the fabric). A control-core pair's signatures mismatch and the pair leaves service. -/
  | controlDiverge
  /-- LS_ACCESS_SEND (R337; step of an engine, the scheduler, the host or the fabric). The task's LS queue sends its next access once the previous is performed. -/
  | lsAccessSend
  /-- PAGE_WALK (R346; step of an engine, the scheduler, the host or the fabric). A walker translates a virtual address through the four-level table. -/
  | pageWalk
  /-- PCLK_TICK (R332; step of an engine, the scheduler, the host or the fabric). The partition lease clock advances by one every 256 cycles. -/
  | pclkTick
  /-- PCLK_RAISE (R332; step of an engine, the scheduler, the host or the fabric). PCLK is raised to W − L after a home assigns write timestamp W. -/
  | pclkRaise
  /-- TASK_CLOCK_TICK (R332; step of an engine, the scheduler, the host or the fabric). Every 256 cycles a resident task's pts becomes max(pts + 1, PCLK). -/
  | taskClockTick
  /-- L2_EVICTION (R336; step of an engine, the scheduler, the host or the fabric). An L2 line is evicted to HBM, raising the die's MTS. -/
  | l2Eviction
  /-- BACK_INVALIDATION_RESPONSE (R359; step of an engine, the scheduler, the host or the fabric). The host's back-invalidation response arrives and the pending write is performed. -/
  | backInvalidationResponse
  /-- HOST_READ (R360; step of an engine, the scheduler, the host or the fabric). A host CXL.mem read is performed at the home under hpts. -/
  | hostRead
  /-- HOST_WRITE (R360; step of an engine, the scheduler, the host or the fabric). A host CXL.mem write is performed at the home under hpts. -/
  | hostWrite
  /-- FAULT_SLOT_OPEN (R349; step of an engine, the scheduler, the host or the fabric). A translation fault reaches the fault service and opens or joins a page slot. -/
  | faultSlotOpen
  /-- FAULT_DISPOSITION (R351; step of an engine, the scheduler, the host or the fabric). The service acts on a slot's disposition and closes it. -/
  | faultDisposition
  /-- REMOTE_REQUEST (R434; step of an engine, the scheduler, the host or the fabric). A remote operation is performed at the destination package's home. -/
  | remoteRequest
  /-- REMOTE_ERROR_REPLY (R435; step of an engine, the scheduler, the host or the fabric). A remote request fails and the source records it in the remote-error word. -/
  | remoteErrorReply
  /-- REMOTE_UNREACHABLE (R435; step of an engine, the scheduler, the host or the fabric). A destination silent for 10 ms while grouped is given up as UNREACHABLE. -/
  | remoteUnreachable
  /-- SEND_FLIT (R439; step of an engine, the scheduler, the host or the fabric). The head transfer of a send queue starts a scheduled-class flit. -/
  | sendFlit
  /-- SEND_LINE_PERFORM (R439; step of an engine, the scheduler, the host or the fabric). A transferred line is performed at its destination home in order. -/
  | sendLinePerform
  /-- SNOTE_ADD (R440; step of an engine, the scheduler, the host or the fabric). After the dnote acknowledgement, the source increments snote. -/
  | snoteAdd
  /-- FLIT_RECEIVE (R420; step of an engine, the scheduler, the host or the fabric). A port rebuilds a flit from its beats and hands it over in sequence. -/
  | flitReceive
  /-- STOP_GO_SIGNAL (R430; step of an engine, the scheduler, the host or the fabric). A receiver's stop/go sideband changes a sender's channel permission. -/
  | stopGoSignal
  /-- WAVELENGTH_WINDOW (R422; step of an engine, the scheduler, the host or the fabric). A 1 ms FTIME window ends and wavelength counters restart. -/
  | wavelengthWindow
  /-- RETRAIN_TRIGGER (R422; step of an engine, the scheduler, the host or the fabric). A wavelength's counters reach their thresholds and retraining starts or waits. -/
  | retrainTrigger
  /-- STRIPE_SWITCH (R422; step of an engine, the scheduler, the host or the fabric). At announced flit B the spare takes the retraining wavelength's place. -/
  | stripeSwitch
  /-- WAVELENGTH_WITHDRAW (R422; step of an engine, the scheduler, the host or the fabric). A wavelength is removed from the stripe map at a flit boundary. -/
  | wavelengthWithdraw
  /-- RETRAIN_ADAPTATION_END (R422; step of an engine, the scheduler, the host or the fabric). 120 µs of adaptation end and the test starts. -/
  | retrainAdaptationEnd
  /-- RETRAIN_TEST_END (R422; step of an engine, the scheduler, the host or the fabric). The 100 µs test ends; pass, retry or retirement of the wavelength. -/
  | retrainTestEnd
  /-- WAVELENGTH_HANDBACK (R422; step of an engine, the scheduler, the host or the fabric). At announced flit H the wavelength retakes its place and the spare idles. -/
  | wavelengthHandback
  /-- SLOT_BOUNDARY (R427; step of an engine, the scheduler, the host or the fabric). A slot of the table begins; ports with new peers enter GUARD. -/
  | slotBoundary
  /-- GUARD_END (R427; step of an engine, the scheduler, the host or the fabric). A port's guard interval ends and its circuit comes up. -/
  | guardEnd
  /-- WINDOW_CLOSE (R427; step of an engine, the scheduler, the host or the fabric). A port stops starting flits flight + 40 ns before its slot ends. -/
  | windowClose
  /-- TRANSIT_REINJECT (R431; step of an engine, the scheduler, the host or the fabric). Stranded packets are injected again when their destination is grouped. -/
  | transitReinject
  /-- FTIME_LOCK (R424; step of an engine, the scheduler, the host or the fabric). The module locks to the fabric timing channel. -/
  | ftimeLock
  /-- LOCK_LOSS (R424; step of an engine, the scheduler, the host or the fabric). Lock lost for over 1 ms empties the current group. -/
  | lockLoss
  /-- SLOT_TABLE (R426; step of an engine, the scheduler, the host or the fabric). A slot table image arrives from the fabric manager and is checked. -/
  | slotTable
  /-- TABLE_ACTIVATION (R426; step of an engine, the scheduler, the host or the fabric). An accepted slot table takes effect at its activation time T0. -/
  | tableActivation
  /-- PACKAGE_IDENTIFIER (R425; step of an engine, the scheduler, the host or the fabric). The fabric manager sends the package its identifier. -/
  | packageIdentifier
  /-- PEER_TABLE (R428; step of an engine, the scheduler, the host or the fabric). A partition's peer table is written by Acvimi message. -/
  | peerTable
  /-- LAUNCH (R267; step of an engine, the scheduler, the host or the fabric). Mailbox doorbell for a region's launch list. -/
  | launch
  /-- CREATE_ROOT (R396; step of an engine, the scheduler, the host or the fabric). Mailbox command creating a root region from the partition. -/
  | createRoot
  /-- CONTROL_DESTROY (R396; step of an engine, the scheduler, the host or the fabric). Mailbox CONTROL carrying RGNCTL DESTROY. -/
  | controlDestroy
  /-- CONTROL_LAUNCH (R396; step of an engine, the scheduler, the host or the fabric). Mailbox CONTROL carrying RGNCTL LAUNCH. -/
  | controlLaunch
  /-- CONTROL_PREEMPT (R396; step of an engine, the scheduler, the host or the fabric). Mailbox CONTROL carrying RGNCTL PREEMPT. -/
  | controlPreempt
  /-- CONTROL_PARK (R396; step of an engine, the scheduler, the host or the fabric). Mailbox CONTROL carrying RGNCTL PARK. -/
  | controlPark
  /-- CONTROL_RESUME (R396; step of an engine, the scheduler, the host or the fabric). Mailbox CONTROL carrying RGNCTL RESUME. -/
  | controlResume
  /-- CONTROL_KILL (R396; step of an engine, the scheduler, the host or the fabric). Mailbox CONTROL carrying RGNCTL KILL. -/
  | controlKill
  /-- CONTROL_RELOAD (R396; step of an engine, the scheduler, the host or the fabric). Mailbox CONTROL carrying RGNCTL RELOAD. -/
  | controlReload
  /-- PARAM_PTROOT (R397; step of an engine, the scheduler, the host or the fabric). Sets the partition's page-table root. -/
  | paramPtroot
  /-- PARAM_FQBASE (R397; step of an engine, the scheduler, the host or the fabric). Sets the base of the fault slots. -/
  | paramFqbase
  /-- PARAM_TTBASE (R397; step of an engine, the scheduler, the host or the fabric). Sets the base of the tree table. -/
  | paramTtbase
  /-- PARAM_LEASE (R397; step of an engine, the scheduler, the host or the fabric). Sets the partition lease length L. -/
  | paramLease
  /-- PARAM_EVQBASE (R397; step of an engine, the scheduler, the host or the fabric). Sets the host event-queue base and resets its indices. -/
  | paramEvqbase
  /-- PARAM_EVQLEN (R397; step of an engine, the scheduler, the host or the fabric). Sets the event-queue length and resets its indices. -/
  | paramEvqlen
  /-- PARAM_ERRBASE (R397; step of an engine, the scheduler, the host or the fabric). Sets the error-log base and restarts the log. -/
  | paramErrbase
  /-- PARAM_ERRLEN (R397; step of an engine, the scheduler, the host or the fabric). Sets the error-log length and restarts the log. -/
  | paramErrlen
  /-- PARAM_SEVMAT (R397; step of an engine, the scheduler, the host or the fabric). Reads a new severity matrix. -/
  | paramSevmat
  /-- PARAM_PCAP (R397; step of an engine, the scheduler, the host or the fabric). Sets the partition's own power cap. -/
  | paramPcap
  /-- RESYNC (R413; step of an engine, the scheduler, the host or the fabric). Writes the 1,024-byte summary block to host memory. -/
  | resync
  /-- RESET (R412; step of an engine, the scheduler, the host or the fabric). Mailbox command performing a partition reset, optionally clearing memory. -/
  | reset
  /-- CHECKPOINT (R417; step of an engine, the scheduler, the host or the fabric). Parks a quiescent partition and writes its shard to host memory. -/
  | checkpoint
  /-- RESTORE (R418; step of an engine, the scheduler, the host or the fabric). Reloads a shard into an empty partition and recreates its regions parked. -/
  | restore
  /-- ATTEST (R403; step of an engine, the scheduler, the host or the fabric). Writes a signed attestation report for a verifier's nonce. -/
  | attest
  /-- REGISTER_WRITE (R395; step of an engine, the scheduler, the host or the fabric). Host write of a BAR0 register without behaviour of its own, such as MBARG or EVQTAIL. -/
  | registerWrite
  /-- MODULE_BOOT (R399; step of an engine, the scheduler, the host or the fabric). The module boots through verified stages, resets cores and runs self-tests. -/
  | moduleBoot
  /-- RECOVERY_IMAGE (R400; step of an engine, the scheduler, the host or the fabric). In RECOVERY, function 0 accepts a replacement image through its mailbox. -/
  | recoveryImage
  /-- CAP_BROADCAST (R414; step of an engine, the scheduler, the host or the fabric). An Acvimi cap broadcast arrives and new power limits are applied. -/
  | capBroadcast
  /-- RANK_SET (R414; step of an engine, the scheduler, the host or the fabric). An Acvimi management message sets the module's RANK. -/
  | rankSet
  /-- CLOCK_LIMIT (R416; step of an engine, the scheduler, the host or the fabric). Thermal protection or the current limit lowers a die's clock. -/
  | clockLimit
  /-- LINK_RETRY (R393; step of an engine, the scheduler, the host or the fabric). A host-link retry occurs, counted as LINK-CORRECTED. -/
  | linkRetry
  /-- LINK_DOWN (R393; step of an engine, the scheduler, the host or the fabric). The host link is lost. -/
  | linkDown
  /-- CLUSTER_FAILURE (R411; step of an engine, the scheduler, the host or the fabric). A cluster reports an uncorrectable internal error and is declared failed. -/
  | clusterFailure
  /-- MEMORY_ERROR (R410; step of an engine, the scheduler, the host or the fabric). A device-memory symbol error is detected, corrected or not. -/
  | memoryError
  /-- REDUN_COMPARE (R409; step of an engine, the scheduler, the host or the fabric). When both redundant runs end their digests are compared and a vote taken. -/
  | redunCompare
  /-- LINK_RECOVERY (R393; step of an engine, the scheduler, the host or the fabric). The host link trains again after loss or falls back to a lower width or rate, after which LINK-DOWN is reported through RESYNC. -/
  | linkRecovery
  /-- HOST_WRITE_COMPLETION (R361; step of an engine, the scheduler, the host or the fabric). The host reports completion of a device write to host memory over CXL.cache, releasing FENCE system and HSIG holds. -/
  | hostWriteCompletion
  /-- REMOTE_ACKNOWLEDGEMENT (R442; step of an engine, the scheduler, the host or the fabric). The acknowledgement of an RST's last line reaches the source and releases the parked task and RFENCE waits. -/
  | remoteAcknowledgement
  /-- REGULATOR_PHASE_FAILURE (R410; step of an engine, the scheduler, the host or the fabric). A regulator phase of the power stage fails and the power controller brings in a spare phase at once. -/
  | regulatorPhaseFailure
  /-- OWN_CAP (R415; step of an engine, the scheduler, the host or the fabric). The Acvimi own cap of the module changes, and the module limit and partition allowances are recomputed. -/
  | ownCap
  deriving DecidableEq, Repr

/-- The slot kind of each instruction (02 R52-R57). -/
def Instr.slotKind : Instr → SlotKind
  | .nop => .any
  | .add _ _ _ _ => .scalar
  | .sub _ _ _ _ => .scalar
  | .and _ _ _ _ => .scalar
  | .or _ _ _ _ => .scalar
  | .xor _ _ _ _ => .scalar
  | .andn _ _ _ _ => .scalar
  | .shl _ _ _ _ => .scalar
  | .shr _ _ _ _ => .scalar
  | .sar _ _ _ _ => .scalar
  | .rol _ _ _ _ => .scalar
  | .min _ _ _ _ => .scalar
  | .max _ _ _ _ => .scalar
  | .minu _ _ _ _ => .scalar
  | .maxu _ _ _ _ => .scalar
  | .mul _ _ _ _ => .scalar
  | .mulh _ _ _ _ => .scalar
  | .mulhu _ _ _ _ => .scalar
  | .div _ _ _ _ => .scalar
  | .divu _ _ _ _ => .scalar
  | .rem _ _ _ _ => .scalar
  | .remu _ _ _ _ => .scalar
  | .clz _ _ _ => .scalar
  | .ctz _ _ _ => .scalar
  | .popc _ _ _ => .scalar
  | .sxb _ _ _ => .scalar
  | .sxh _ _ _ => .scalar
  | .sxw _ _ _ => .scalar
  | .zxb _ _ _ => .scalar
  | .zxh _ _ _ => .scalar
  | .zxw _ _ _ => .scalar
  | .cmpEq _ _ _ _ => .scalar
  | .cmpNe _ _ _ _ => .scalar
  | .cmpLt _ _ _ _ => .scalar
  | .cmpLe _ _ _ _ => .scalar
  | .cmpLtu _ _ _ _ => .scalar
  | .cmpLeu _ _ _ _ => .scalar
  | .sel _ _ _ _ _ => .scalar
  | .addi _ _ _ => .scalar
  | .andi _ _ _ => .scalar
  | .ori _ _ _ => .scalar
  | .xori _ _ _ => .scalar
  | .shli _ _ _ => .scalar
  | .shri _ _ _ => .scalar
  | .sari _ _ _ => .scalar
  | .cmpeqi _ _ _ => .scalar
  | .cmplti _ _ _ => .scalar
  | .cmpltui _ _ _ => .scalar
  | .movi _ _ _ => .scalar
  | .movk _ _ _ => .scalar
  | .movsr _ _ => .scalar
  | .movrs _ _ => .scalar
  | .ibset _ _ _ => .scalar
  | .allot _ _ _ => .scalar
  | .br _ _ => .control
  | .brl _ _ => .control
  | .jr _ _ => .control
  | .jrl _ _ => .control
  | .loop _ _ => .control
  | .loopr _ _ _ => .control
  | .brtop _ _ => .control
  | .lexit _ _ => .control
  | .trap _ _ => .control
  | .endTask => .control
  | .eret => .control
  | .faddF32 _ _ _ _ _ => .vector
  | .fsubF32 _ _ _ _ _ => .vector
  | .fmulF32 _ _ _ _ _ => .vector
  | .ffmaF32 _ _ _ _ _ => .vector
  | .fminF32 _ _ _ _ _ => .vector
  | .fmaxF32 _ _ _ _ _ => .vector
  | .fcmpF32 _ _ _ _ _ _ => .vector
  | .faddF64 _ _ _ _ _ => .vector
  | .fsubF64 _ _ _ _ _ => .vector
  | .fmulF64 _ _ _ _ _ => .vector
  | .ffmaF64 _ _ _ _ _ => .vector
  | .fminF64 _ _ _ _ _ => .vector
  | .fmaxF64 _ _ _ _ _ => .vector
  | .fcmpF64 _ _ _ _ _ _ => .vector
  | .absF32 _ _ _ _ => .vector
  | .negF32 _ _ _ _ => .vector
  | .sqrtF32 _ _ _ _ => .vector
  | .rcpF32 _ _ _ _ => .vector
  | .rsqF32 _ _ _ _ => .vector
  | .exp2F32 _ _ _ _ => .vector
  | .log2F32 _ _ _ _ => .vector
  | .floorF32 _ _ _ _ => .vector
  | .ceilF32 _ _ _ _ => .vector
  | .rintF32 _ _ _ _ => .vector
  | .truncF32 _ _ _ _ => .vector
  | .fcvtBf16F32 _ _ _ _ => .vector
  | .fcvtF16F32 _ _ _ _ => .vector
  | .fcvtF32Bf16 _ _ _ _ => .vector
  | .fcvtF32F16 _ _ _ _ => .vector
  | .fcvtF64F32 _ _ _ _ => .vector
  | .fcvtF32F64 _ _ _ _ => .vector
  | .fcvtI32F32 _ _ _ _ => .vector
  | .fcvtF32I32 _ _ _ _ => .vector
  | .fcvtI64F64 _ _ _ _ => .vector
  | .fcvtF64I64 _ _ _ _ => .vector
  | .fcvtI32F32Rtz _ _ _ _ => .vector
  | .iadd _ _ _ _ _ => .vector
  | .isub _ _ _ _ _ => .vector
  | .imul _ _ _ _ _ => .vector
  | .imin _ _ _ _ _ => .vector
  | .imax _ _ _ _ _ => .vector
  | .iminu _ _ _ _ _ => .vector
  | .imaxu _ _ _ _ _ => .vector
  | .iand _ _ _ _ _ => .vector
  | .ior _ _ _ _ _ => .vector
  | .ixor _ _ _ _ _ => .vector
  | .ishl _ _ _ _ _ => .vector
  | .ishr _ _ _ _ _ => .vector
  | .isar _ _ _ _ _ => .vector
  | .icmp _ _ _ _ _ _ => .vector
  | .vmov _ _ _ _ => .vector
  | .vsel _ _ _ _ _ => .vector
  | .vperm _ _ _ _ _ => .vector
  | .vbcast _ _ _ _ _ => .vector
  | .vbcastD _ _ _ _ _ => .vector
  | .vbcastScalar _ _ _ => .vector
  | .vbcastDScalar _ _ _ => .vector
  | .vext _ _ _ _ _ => .vector
  | .vredFaddF32 _ _ _ _ => .vector
  | .vredFmaxF32 _ _ _ _ => .vector
  | .vredFminF32 _ _ _ _ => .vector
  | .vredIadd _ _ _ _ => .vector
  | .vredImax _ _ _ _ => .vector
  | .vredImin _ _ _ _ => .vector
  | .vredFaddF64 _ _ _ _ => .vector
  | .viota _ _ _ => .vector
  | .vplanePack _ _ _ _ _ => .vector
  | .vplaneUnpack _ _ _ _ _ => .vector
  | .pand _ _ _ _ => .vector
  | .por _ _ _ _ => .vector
  | .pxor _ _ _ _ => .vector
  | .pandn _ _ _ _ => .vector
  | .pnot _ _ _ => .vector
  | .pmov _ _ _ => .vector
  | .pset _ _ => .vector
  | .pclr _ _ => .vector
  | .pcnt _ _ _ => .vector
  | .ld _ _ _ _ => .ls
  | .ldz _ _ _ _ => .ls
  | .st _ _ _ _ => .ls
  | .vld _ _ _ => .ls
  | .vst _ _ _ => .ls
  | .vlds _ _ _ _ => .ls
  | .vsts _ _ _ _ => .ls
  | .vgth _ _ _ _ => .ls
  | .vsct _ _ _ _ => .ls
  | .fil _ _ _ _ => .ls
  | .spl _ _ _ _ => .ls
  | .vfil _ _ _ => .ls
  | .vspl _ _ _ => .ls
  | .oclaim _ _ _ => .ls
  | .orelease _ => .ls
  | .ofill _ _ _ => .ls
  | .ostat _ _ => .ls
  | .scld _ _ _ => .ls
  | .bfmt _ _ _ => .ls
  | .aadd _ _ _ _ _ => .ls
  | .amin _ _ _ _ _ => .ls
  | .amax _ _ _ _ _ => .ls
  | .aand _ _ _ _ _ => .ls
  | .aor _ _ _ _ _ => .ls
  | .axchg _ _ _ _ _ => .ls
  | .acas _ _ _ _ _ => .ls
  | .aaddf _ _ _ _ => .ls
  | .fencePackage => .ls
  | .fenceSystem => .ls
  | .fencex _ _ => .ls
  | .mset _ _ => .mx
  | .mma _ _ _ _ _ => .mx
  | .mmas _ _ _ _ _ _ => .mx
  | .mret _ _ _ _ _ => .mx
  | .mretv _ _ _ _ _ => .mx
  | .mzero _ => .mx
  | .mdrain => .mx
  | .mlda _ _ => .mx
  | .msta _ _ => .mx
  | .rfwd _ _ => .mx
  | .rrev _ _ _ _ => .mx
  | .rchk _ _ _ => .mx
  | .mchanScrub => .mx
  | .mchanThresh _ => .mx
  | .mchanClear _ => .mx
  | .mchanFail _ _ => .mx
  | .minj _ _ _ _ => .mx
  | .cset _ _ _ => .cp
  | .cshape _ _ => .cp
  | .cgo _ _ _ => .cp
  | .cwp _ _ _ => .cp
  | .cwait _ _ => .cp
  | .crec _ _ => .cp
  | .ccan _ => .cp
  | .fork _ => .nw
  | .join _ _ => .nw
  | .next _ => .nw
  | .yield => .nw
  | .watch _ _ _ _ => .nw
  | .bara _ => .nw
  | .barw _ _ _ => .nw
  | .bari _ _ => .nw
  | .xenq _ _ _ => .nw
  | .xcfgLoad _ _ _ => .nw
  | .xcfgHalt _ _ => .nw
  | .xcfgResume _ _ => .nw
  | .xcfgPurge _ _ => .nw
  | .xcfgOff _ _ => .nw
  | .xstat _ _ _ => .nw
  | .xdisp _ _ => .nw
  | .xpref _ _ _ => .nw
  | .xcan _ => .nw
  | .tcreate _ _ => .nw
  | .tdestroy _ _ => .nw
  | .tedit _ _ _ => .nw
  | .tpost _ _ => .nw
  | .twait _ _ => .nw
  | .tfreeze _ _ => .nw
  | .tsave _ _ _ => .nw
  | .trestore _ _ _ => .nw
  | .tqry _ _ _ => .nw
  | .rld _ _ => .nw
  | .rst _ _ => .nw
  | .ratom _ _ _ _ _ _ => .nw
  | .rfence _ _ => .nw
  | .rfenceAll _ => .nw
  | .fsend _ _ => .nw
  | .fclk _ _ _ => .nw
  | .hsig _ _ => .nw
  | .rgnctlCreate _ _ => .nw
  | .rgnctlDestroy _ _ => .nw
  | .rgnctlLaunch _ _ => .nw
  | .rgnctlPreempt _ _ => .nw
  | .rgnctlPark _ _ => .nw
  | .rgnctlResume _ _ => .nw
  | .rgnctlKill _ _ => .nw
  | .rgnctlReload _ _ => .nw
  | .rgnctlQuery _ _ => .nw
  | .xlinv _ _ _ => .nw
  | .xlinvForce _ _ _ => .nw
  | .xlpin _ _ _ => .nw
  | .xlunpin _ _ _ => .nw
  | .idleBundle => .event
  | .ofillRow => .event
  | .msetExecute => .event
  | .kstepStart => .event
  | .kstepMerge => .event
  | .retirement => .event
  | .mzeroExecute => .event
  | .mldaExecute => .event
  | .mstaExecute => .event
  | .mchanExecute => .event
  | .minjExecute => .event
  | .copyRecordRead => .event
  | .selectTileRead => .event
  | .copySectorWrite => .event
  | .copyFaultResolved => .event
  | .followOnPresent => .event
  | .copyCompletion => .event
  | .watchTimeout => .event
  | .xprefUnit => .event
  | .sumpAdmit => .event
  | .sumpAgeDue => .event
  | .firingDecision => .event
  | .treeSourceRead => .event
  | .treeChunkArrive => .event
  | .treeSlotRefill => .event
  | .treeReplicate => .event
  | .treeDelivery => .event
  | .treeDataError => .event
  | .resultArrival => .event
  | .holdSuspend => .event
  | .replayEntryInject => .event
  | .trapAction => .event
  | .replayResume => .event
  | .forwardDelivery => .event
  | .preemptRequest => .event
  | .freeze => .event
  | .lateFreeze => .event
  | .taskSave => .event
  | .taskRestore => .event
  | .taskPlacement => .event
  | .quantumExpiry => .event
  | .joinRelief => .event
  | .tileRefill => .event
  | .controlDiverge => .event
  | .lsAccessSend => .event
  | .pageWalk => .event
  | .pclkTick => .event
  | .pclkRaise => .event
  | .taskClockTick => .event
  | .l2Eviction => .event
  | .backInvalidationResponse => .event
  | .hostRead => .event
  | .hostWrite => .event
  | .faultSlotOpen => .event
  | .faultDisposition => .event
  | .remoteRequest => .event
  | .remoteErrorReply => .event
  | .remoteUnreachable => .event
  | .sendFlit => .event
  | .sendLinePerform => .event
  | .snoteAdd => .event
  | .flitReceive => .event
  | .stopGoSignal => .event
  | .wavelengthWindow => .event
  | .retrainTrigger => .event
  | .stripeSwitch => .event
  | .wavelengthWithdraw => .event
  | .retrainAdaptationEnd => .event
  | .retrainTestEnd => .event
  | .wavelengthHandback => .event
  | .slotBoundary => .event
  | .guardEnd => .event
  | .windowClose => .event
  | .transitReinject => .event
  | .ftimeLock => .event
  | .lockLoss => .event
  | .slotTable => .event
  | .tableActivation => .event
  | .packageIdentifier => .event
  | .peerTable => .event
  | .launch => .event
  | .createRoot => .event
  | .controlDestroy => .event
  | .controlLaunch => .event
  | .controlPreempt => .event
  | .controlPark => .event
  | .controlResume => .event
  | .controlKill => .event
  | .controlReload => .event
  | .paramPtroot => .event
  | .paramFqbase => .event
  | .paramTtbase => .event
  | .paramLease => .event
  | .paramEvqbase => .event
  | .paramEvqlen => .event
  | .paramErrbase => .event
  | .paramErrlen => .event
  | .paramSevmat => .event
  | .paramPcap => .event
  | .resync => .event
  | .reset => .event
  | .checkpoint => .event
  | .restore => .event
  | .attest => .event
  | .registerWrite => .event
  | .moduleBoot => .event
  | .recoveryImage => .event
  | .capBroadcast => .event
  | .rankSet => .event
  | .clockLimit => .event
  | .linkRetry => .event
  | .linkDown => .event
  | .clusterFailure => .event
  | .memoryError => .event
  | .redunCompare => .event
  | .linkRecovery => .event
  | .hostWriteCompletion => .event
  | .remoteAcknowledgement => .event
  | .regulatorPhaseFailure => .event
  | .ownCap => .event

end Sys2Proof
end

