-- ==== Sys2Proof/WellFormed.lean ====
section
/-! DEFINITION. Which instruction terms are well formed: the field values that an entry of spec/ defines
(02 R51: any other value raises ILLEGAL-SLOT at decode stage 3). The engine steps have
no field, so each is well formed. -/

namespace Sys2Proof

/-- The numbers of 01 R29. -/
def isSpecialRegister (n : Nat) : Bool :=
  [0x000, 0x001, 0x002, 0x003, 0x004, 0x005, 0x008, 0x010, 0x011, 0x012, 0x013, 0x014, 0x015, 0x018, 0x019, 0x01A, 0x01B, 0x01C, 0x01D, 0x020, 0x021, 0x028, 0x029, 0x02A, 0x030, 0x040, 0x041, 0x042, 0x043, 0x044, 0x045, 0x046, 0x047, 0x050, 0x051].contains n

/-- A COREID (01 R29): die 0-3 in [13:12], logical cluster 0-23 in [11:4], core in [3:0]. -/
def isCore (c : Nat) : Bool :=
  decide (c < 16384 ∧ c / 16 % 256 < 24)

/-- The check of each instruction, one arm per constructor. -/
def Instr.wellFormed : Instr → Bool
  | .nop => true
  | .add _ _ _ _ => true
  | .sub _ _ _ _ => true
  | .and _ _ _ _ => true
  | .or _ _ _ _ => true
  | .xor _ _ _ _ => true
  | .andn _ _ _ _ => true
  | .shl _ _ _ _ => true
  | .shr _ _ _ _ => true
  | .sar _ _ _ _ => true
  | .rol _ _ _ _ => true
  | .min _ _ _ _ => true
  | .max _ _ _ _ => true
  | .minu _ _ _ _ => true
  | .maxu _ _ _ _ => true
  | .mul _ _ _ _ => true
  | .mulh _ _ _ _ => true
  | .mulhu _ _ _ _ => true
  | .div _ _ _ _ => true
  | .divu _ _ _ _ => true
  | .rem _ _ _ _ => true
  | .remu _ _ _ _ => true
  | .clz _ _ _ => true
  | .ctz _ _ _ => true
  | .popc _ _ _ => true
  | .sxb _ _ _ => true
  | .sxh _ _ _ => true
  | .sxw _ _ _ => true
  | .zxb _ _ _ => true
  | .zxh _ _ _ => true
  | .zxw _ _ _ => true
  | .cmpEq _ _ _ _ => true
  | .cmpNe _ _ _ _ => true
  | .cmpLt _ _ _ _ => true
  | .cmpLe _ _ _ _ => true
  | .cmpLtu _ _ _ _ => true
  | .cmpLeu _ _ _ _ => true
  | .sel _ _ _ _ _ => true
  | .addi _ _ _ => true
  | .andi _ _ _ => true
  | .ori _ _ _ => true
  | .xori _ _ _ => true
  | .shli _ _ _ => true
  | .shri _ _ _ => true
  | .sari _ _ _ => true
  | .cmpeqi _ _ _ => true
  | .cmplti _ _ _ => true
  | .cmpltui _ _ _ => true
  | .movi _ _ _ => true
  | .movk _ _ _ => true
  | .movsr _ n => isSpecialRegister n.toNat
  | .movrs _ n => isSpecialRegister n.toNat
  | .ibset _ _ _ => true
  | .allot _ _ _ => true
  | .br _ _ => true
  | .brl _ _ => true
  | .jr _ _ => true
  | .jrl _ _ => true
  | .loop _ i => decide (i ≠ 0)
  | .loopr _ s i => decide (i ≠ 0 ∧ 1 ≤ s.toNat ∧ s.toNat ≤ 8)
  | .brtop _ _ => true
  | .lexit _ _ => true
  | .trap _ _ => true
  | .endTask => true
  | .eret => true
  | .faddF32 _ _ _ _ _ => true
  | .fsubF32 _ _ _ _ _ => true
  | .fmulF32 _ _ _ _ _ => true
  | .ffmaF32 _ _ _ _ _ => true
  | .fminF32 _ _ _ _ _ => true
  | .fmaxF32 _ _ _ _ _ => true
  | .fcmpF32 _ _ _ _ _ _ => true
  | .faddF64 _ _ _ _ _ => true
  | .fsubF64 _ _ _ _ _ => true
  | .fmulF64 _ _ _ _ _ => true
  | .ffmaF64 _ _ _ _ _ => true
  | .fminF64 _ _ _ _ _ => true
  | .fmaxF64 _ _ _ _ _ => true
  | .fcmpF64 _ _ _ _ _ _ => true
  | .absF32 _ _ _ _ => true
  | .negF32 _ _ _ _ => true
  | .sqrtF32 _ _ _ _ => true
  | .rcpF32 _ _ _ _ => true
  | .rsqF32 _ _ _ _ => true
  | .exp2F32 _ _ _ _ => true
  | .log2F32 _ _ _ _ => true
  | .floorF32 _ _ _ _ => true
  | .ceilF32 _ _ _ _ => true
  | .rintF32 _ _ _ _ => true
  | .truncF32 _ _ _ _ => true
  | .fcvtBf16F32 _ _ _ _ => true
  | .fcvtF16F32 _ _ _ _ => true
  | .fcvtF32Bf16 _ _ _ _ => true
  | .fcvtF32F16 _ _ _ _ => true
  | .fcvtF64F32 _ _ _ _ => true
  | .fcvtF32F64 _ _ _ _ => true
  | .fcvtI32F32 _ _ _ _ => true
  | .fcvtF32I32 _ _ _ _ => true
  | .fcvtI64F64 _ _ _ _ => true
  | .fcvtF64I64 _ _ _ _ => true
  | .fcvtI32F32Rtz _ _ _ _ => true
  | .iadd _ _ _ _ _ => true
  | .isub _ _ _ _ _ => true
  | .imul _ _ _ _ _ => true
  | .imin _ _ _ _ _ => true
  | .imax _ _ _ _ _ => true
  | .iminu _ _ _ _ _ => true
  | .imaxu _ _ _ _ _ => true
  | .iand _ _ _ _ _ => true
  | .ior _ _ _ _ _ => true
  | .ixor _ _ _ _ _ => true
  | .ishl _ _ _ _ _ => true
  | .ishr _ _ _ _ _ => true
  | .isar _ _ _ _ _ => true
  | .icmp _ _ _ _ _ _ => true
  | .vmov _ _ _ _ => true
  | .vsel _ _ _ _ _ => true
  | .vperm _ _ _ _ _ => true
  | .vbcast _ _ _ _ _ => true
  | .vbcastD _ _ _ _ _ => true
  | .vbcastScalar _ _ _ => true
  | .vbcastDScalar _ _ _ => true
  | .vext _ _ _ _ _ => true
  | .vredFaddF32 _ _ _ _ => true
  | .vredFmaxF32 _ _ _ _ => true
  | .vredFminF32 _ _ _ _ => true
  | .vredIadd _ _ _ _ => true
  | .vredImax _ _ _ _ => true
  | .vredImin _ _ _ _ => true
  | .vredFaddF64 _ _ _ _ => true
  | .viota _ _ _ => true
  | .vplanePack _ _ _ n _ => decide (2 ≤ n.toNat ∧ n.toNat ≤ 8)
  | .vplaneUnpack _ _ _ n _ => decide (2 ≤ n.toNat ∧ n.toNat ≤ 8)
  | .pand _ _ _ _ => true
  | .por _ _ _ _ => true
  | .pxor _ _ _ _ => true
  | .pandn _ _ _ _ => true
  | .pnot _ _ _ => true
  | .pmov _ _ _ => true
  | .pset _ _ => true
  | .pclr _ _ => true
  | .pcnt _ _ _ => true
  | .ld _ _ _ _ => true
  | .ldz _ _ _ _ => true
  | .st _ _ _ _ => true
  | .vld _ _ _ => true
  | .vst _ _ _ => true
  | .vlds _ _ _ _ => true
  | .vsts _ _ _ _ => true
  | .vgth _ _ _ _ => true
  | .vsct _ _ _ _ => true
  | .fil _ _ _ _ => true
  | .spl _ _ _ _ => true
  | .vfil _ _ _ => true
  | .vspl _ _ _ => true
  | .oclaim _ _ f => decide (f.toNat ≤ 2)
  | .orelease _ => true
  | .ofill _ _ _ => true
  | .ostat _ _ => true
  | .scld _ _ _ => true
  | .bfmt _ _ _ => true
  | .aadd _ _ _ _ s => decide (2 ≤ s.toNat)
  | .amin _ _ _ _ s => decide (2 ≤ s.toNat)
  | .amax _ _ _ _ s => decide (2 ≤ s.toNat)
  | .aand _ _ _ _ s => decide (2 ≤ s.toNat)
  | .aor _ _ _ _ s => decide (2 ≤ s.toNat)
  | .axchg _ _ _ _ s => decide (2 ≤ s.toNat)
  | .acas _ _ _ _ s => decide (2 ≤ s.toNat)
  | .aaddf _ _ _ s => decide (2 ≤ s.toNat)
  | .fencePackage => true
  | .fenceSystem => true
  | .fencex e l => decide (e ≠ 0 ∧ l ≠ 0)
  | .mset _ m => decide (m ≠ 0)
  | .mma _ _ _ _ _ => true
  | .mmas _ _ _ _ _ _ => true
  | .mret _ _ _ f _ => decide (f.toNat ≤ 5)
  | .mretv _ _ _ f _ => decide (f.toNat = 0 ∨ f.toNat = 2 ∨ f.toNat = 3 ∨ f.toNat = 4)
  | .mzero _ => true
  | .mdrain => true
  | .mlda _ _ => true
  | .msta _ _ => true
  | .rfwd _ _ => true
  | .rrev _ _ _ _ => true
  | .rchk _ _ _ => true
  | .mchanScrub => true
  | .mchanThresh _ => true
  | .mchanClear _ => true
  | .mchanFail _ s => decide (s.toNat ≤ 21)
  | .minj _ _ _ h => decide (h.toNat ≤ 20)
  | .cset _ f _ => decide (f.toNat ≤ 7)
  | .cshape _ _ => true
  | .cgo _ _ _ => true
  | .cwp _ _ _ => true
  | .cwait _ _ => true
  | .crec _ _ => true
  | .ccan _ => true
  | .fork _ => true
  | .join _ _ => true
  | .next _ => true
  | .yield => true
  | .watch _ _ _ t => decide (t.toNat ≤ 40)
  | .bara n => decide (n.toNat ≤ 31)
  | .barw _ _ n => decide (n.toNat ≤ 31)
  | .bari _ n => decide (n.toNat ≤ 31)
  | .xenq _ _ _ => true
  | .xcfgLoad _ _ _ => true
  | .xcfgHalt _ _ => true
  | .xcfgResume _ _ => true
  | .xcfgPurge _ _ => true
  | .xcfgOff _ _ => true
  | .xstat _ _ f => decide (f.toNat ≤ 10)
  | .xdisp _ _ => true
  | .xpref _ _ l => decide (l.toNat ≤ 1)
  | .xcan _ => true
  | .tcreate _ _ => true
  | .tdestroy _ _ => true
  | .tedit _ _ _ => true
  | .tpost _ _ => true
  | .twait _ _ => true
  | .tfreeze _ _ => true
  | .tsave _ _ _ => true
  | .trestore _ _ _ => true
  | .tqry _ _ f => decide (f.toNat ≤ 8)
  | .rld _ _ => true
  | .rst _ _ => true
  | .ratom _ _ _ u z o => decide (2 ≤ z.toNat ∧ ¬ (u = 1 ∧ o = 7))
  | .rfence _ _ => true
  | .rfenceAll _ => true
  | .fsend _ _ => true
  | .fclk _ a f => decide (f.toNat ≤ 6 ∧ (f = 4 ∨ f = 5 ∨ a = 0))
  | .hsig _ v => decide (v.toNat ≤ 63)
  | .rgnctlCreate _ _ => true
  | .rgnctlDestroy _ _ => true
  | .rgnctlLaunch _ _ => true
  | .rgnctlPreempt _ _ => true
  | .rgnctlPark _ _ => true
  | .rgnctlResume _ _ => true
  | .rgnctlKill _ _ => true
  | .rgnctlReload _ _ => true
  | .rgnctlQuery _ _ => true
  | .xlinv _ _ _ => true
  | .xlinvForce _ _ _ => true
  | .xlpin _ _ _ => true
  | .xlunpin _ _ _ => true
  | .idleBundle => true
  | .ofillRow => true
  | .msetExecute => true
  | .kstepStart => true
  | .kstepMerge => true
  | .retirement => true
  | .mzeroExecute => true
  | .mldaExecute => true
  | .mstaExecute => true
  | .mchanExecute => true
  | .minjExecute => true
  | .copyRecordRead => true
  | .selectTileRead => true
  | .copySectorWrite => true
  | .copyFaultResolved => true
  | .followOnPresent => true
  | .copyCompletion => true
  | .watchTimeout => true
  | .xprefUnit => true
  | .sumpAdmit => true
  | .sumpAgeDue => true
  | .firingDecision => true
  | .treeSourceRead => true
  | .treeChunkArrive => true
  | .treeSlotRefill => true
  | .treeReplicate => true
  | .treeDelivery => true
  | .treeDataError => true
  | .resultArrival => true
  | .holdSuspend => true
  | .replayEntryInject => true
  | .trapAction => true
  | .replayResume => true
  | .forwardDelivery => true
  | .preemptRequest => true
  | .freeze => true
  | .lateFreeze => true
  | .taskSave => true
  | .taskRestore => true
  | .taskPlacement => true
  | .quantumExpiry => true
  | .joinRelief => true
  | .tileRefill => true
  | .controlDiverge => true
  | .lsAccessSend => true
  | .pageWalk => true
  | .pclkTick => true
  | .pclkRaise => true
  | .taskClockTick => true
  | .l2Eviction => true
  | .backInvalidationResponse => true
  | .hostRead => true
  | .hostWrite => true
  | .faultSlotOpen => true
  | .faultDisposition => true
  | .remoteRequest => true
  | .remoteErrorReply => true
  | .remoteUnreachable => true
  | .sendFlit => true
  | .sendLinePerform => true
  | .snoteAdd => true
  | .flitReceive => true
  | .stopGoSignal => true
  | .wavelengthWindow => true
  | .retrainTrigger => true
  | .stripeSwitch => true
  | .wavelengthWithdraw => true
  | .retrainAdaptationEnd => true
  | .retrainTestEnd => true
  | .wavelengthHandback => true
  | .slotBoundary => true
  | .guardEnd => true
  | .windowClose => true
  | .transitReinject => true
  | .ftimeLock => true
  | .lockLoss => true
  | .slotTable => true
  | .tableActivation => true
  | .packageIdentifier => true
  | .peerTable => true
  | .launch => true
  | .createRoot => true
  | .controlDestroy => true
  | .controlLaunch => true
  | .controlPreempt => true
  | .controlPark => true
  | .controlResume => true
  | .controlKill => true
  | .controlReload => true
  | .paramPtroot => true
  | .paramFqbase => true
  | .paramTtbase => true
  | .paramLease => true
  | .paramEvqbase => true
  | .paramEvqlen => true
  | .paramErrbase => true
  | .paramErrlen => true
  | .paramSevmat => true
  | .paramPcap => true
  | .resync => true
  | .reset => true
  | .checkpoint => true
  | .restore => true
  | .attest => true
  | .registerWrite => true
  | .moduleBoot => true
  | .recoveryImage => true
  | .capBroadcast => true
  | .rankSet => true
  | .clockLimit => true
  | .linkRetry => true
  | .linkDown => true
  | .clusterFailure => true
  | .memoryError => true
  | .redunCompare => true
  | .linkRecovery => true
  | .hostWriteCompletion => true
  | .remoteAcknowledgement => true
  | .regulatorPhaseFailure => true
  | .ownCap => true

end Sys2Proof
end

