-- ==== Sys2Proof/Decode.lean ====
section
/-! DEFINITION. Decoding of slot words and the encoder, from the formats and opcode maps of 02 R50-R57.
A slot word means different instructions in different slots, so decoding takes the slot. -/

namespace Sys2Proof

/-- Why a slot word is refused at decode stage 3 (02 R51, R52): the cause is ILLEGAL-SLOT for each. -/
inductive DecodeError where
  /-- the opcode is not in the slot's map -/
  | opcode
  /-- an SA-only opcode stands in SB (02 R52) -/
  | saOnly
  /-- a field holds a value that the entry does not define, or a must-be-zero field is set (02 R51) -/
  | field
  deriving DecidableEq, Repr

/-- Field [lo+len-1 : lo] of a slot word. -/
def fld (w : BitVec 32) (lo len : Nat) : BitVec len :=
  BitVec.ofNat len (w.toNat / 2 ^ lo)

/-- One row of an opcode map: the opcode in [31:26], the other fixed fields as (lo, length, value), and the term. -/
structure Row where
  op    : Nat
  fixed : List (Nat × Nat × Nat)
  build : BitVec 32 → Instr

/-- Whether a word has the opcode and the fixed fields of a row. -/
def Row.fits (r : Row) (w : BitVec 32) : Bool :=
  w.toNat / 2 ^ 26 == r.op && r.fixed.all fun f => w.toNat / 2 ^ f.1 % 2 ^ f.2.1 == f.2.2

/-- Rows of SA and SB (02 R52). -/
def scalarRows1 : List Row := [
  ⟨0x01, [(4, 4, 0)], fun w => .add (fld w 20 6) (fld w 14 6) (fld w 8 6) (fld w 0 4)⟩,
  ⟨0x01, [(4, 4, 1)], fun w => .sub (fld w 20 6) (fld w 14 6) (fld w 8 6) (fld w 0 4)⟩,
  ⟨0x01, [(4, 4, 2)], fun w => .and (fld w 20 6) (fld w 14 6) (fld w 8 6) (fld w 0 4)⟩,
  ⟨0x01, [(4, 4, 3)], fun w => .or (fld w 20 6) (fld w 14 6) (fld w 8 6) (fld w 0 4)⟩,
  ⟨0x01, [(4, 4, 4)], fun w => .xor (fld w 20 6) (fld w 14 6) (fld w 8 6) (fld w 0 4)⟩,
  ⟨0x01, [(4, 4, 5)], fun w => .andn (fld w 20 6) (fld w 14 6) (fld w 8 6) (fld w 0 4)⟩,
  ⟨0x01, [(4, 4, 6)], fun w => .shl (fld w 20 6) (fld w 14 6) (fld w 8 6) (fld w 0 4)⟩,
  ⟨0x01, [(4, 4, 7)], fun w => .shr (fld w 20 6) (fld w 14 6) (fld w 8 6) (fld w 0 4)⟩,
  ⟨0x01, [(4, 4, 8)], fun w => .sar (fld w 20 6) (fld w 14 6) (fld w 8 6) (fld w 0 4)⟩,
  ⟨0x01, [(4, 4, 9)], fun w => .rol (fld w 20 6) (fld w 14 6) (fld w 8 6) (fld w 0 4)⟩,
  ⟨0x01, [(4, 4, 10)], fun w => .min (fld w 20 6) (fld w 14 6) (fld w 8 6) (fld w 0 4)⟩,
  ⟨0x01, [(4, 4, 11)], fun w => .max (fld w 20 6) (fld w 14 6) (fld w 8 6) (fld w 0 4)⟩,
  ⟨0x01, [(4, 4, 12)], fun w => .minu (fld w 20 6) (fld w 14 6) (fld w 8 6) (fld w 0 4)⟩,
  ⟨0x01, [(4, 4, 13)], fun w => .maxu (fld w 20 6) (fld w 14 6) (fld w 8 6) (fld w 0 4)⟩,
  ⟨0x02, [(4, 4, 0)], fun w => .mul (fld w 20 6) (fld w 14 6) (fld w 8 6) (fld w 0 4)⟩,
  ⟨0x02, [(4, 4, 1)], fun w => .mulh (fld w 20 6) (fld w 14 6) (fld w 8 6) (fld w 0 4)⟩,
  ⟨0x02, [(4, 4, 2)], fun w => .mulhu (fld w 20 6) (fld w 14 6) (fld w 8 6) (fld w 0 4)⟩,
  ⟨0x03, [(4, 4, 0)], fun w => .div (fld w 20 6) (fld w 14 6) (fld w 8 6) (fld w 0 4)⟩,
  ⟨0x03, [(4, 4, 1)], fun w => .divu (fld w 20 6) (fld w 14 6) (fld w 8 6) (fld w 0 4)⟩,
  ⟨0x03, [(4, 4, 2)], fun w => .rem (fld w 20 6) (fld w 14 6) (fld w 8 6) (fld w 0 4)⟩]

/-- Rows of SA and SB (02 R52). -/
def scalarRows2 : List Row := [
  ⟨0x03, [(4, 4, 3)], fun w => .remu (fld w 20 6) (fld w 14 6) (fld w 8 6) (fld w 0 4)⟩,
  ⟨0x04, [(4, 10, 0)], fun w => .clz (fld w 20 6) (fld w 14 6) (fld w 0 4)⟩,
  ⟨0x04, [(4, 10, 1)], fun w => .ctz (fld w 20 6) (fld w 14 6) (fld w 0 4)⟩,
  ⟨0x04, [(4, 10, 2)], fun w => .popc (fld w 20 6) (fld w 14 6) (fld w 0 4)⟩,
  ⟨0x04, [(4, 10, 3)], fun w => .sxb (fld w 20 6) (fld w 14 6) (fld w 0 4)⟩,
  ⟨0x04, [(4, 10, 4)], fun w => .sxh (fld w 20 6) (fld w 14 6) (fld w 0 4)⟩,
  ⟨0x04, [(4, 10, 5)], fun w => .sxw (fld w 20 6) (fld w 14 6) (fld w 0 4)⟩,
  ⟨0x04, [(4, 10, 6)], fun w => .zxb (fld w 20 6) (fld w 14 6) (fld w 0 4)⟩,
  ⟨0x04, [(4, 10, 7)], fun w => .zxh (fld w 20 6) (fld w 14 6) (fld w 0 4)⟩,
  ⟨0x04, [(4, 10, 8)], fun w => .zxw (fld w 20 6) (fld w 14 6) (fld w 0 4)⟩,
  ⟨0x05, [(4, 4, 0), (24, 2, 0)], fun w => .cmpEq (fld w 20 4) (fld w 14 6) (fld w 8 6) (fld w 0 4)⟩,
  ⟨0x05, [(4, 4, 1), (24, 2, 0)], fun w => .cmpNe (fld w 20 4) (fld w 14 6) (fld w 8 6) (fld w 0 4)⟩,
  ⟨0x05, [(4, 4, 2), (24, 2, 0)], fun w => .cmpLt (fld w 20 4) (fld w 14 6) (fld w 8 6) (fld w 0 4)⟩,
  ⟨0x05, [(4, 4, 3), (24, 2, 0)], fun w => .cmpLe (fld w 20 4) (fld w 14 6) (fld w 8 6) (fld w 0 4)⟩,
  ⟨0x05, [(4, 4, 4), (24, 2, 0)], fun w => .cmpLtu (fld w 20 4) (fld w 14 6) (fld w 8 6) (fld w 0 4)⟩,
  ⟨0x05, [(4, 4, 5), (24, 2, 0)], fun w => .cmpLeu (fld w 20 4) (fld w 14 6) (fld w 8 6) (fld w 0 4)⟩,
  ⟨0x06, [], fun w => .sel (fld w 20 6) (fld w 14 6) (fld w 8 6) (fld w 4 4) (fld w 0 4)⟩,
  ⟨0x08, [], fun w => .addi (fld w 20 6) (fld w 14 6) (fld w 0 14)⟩,
  ⟨0x09, [], fun w => .andi (fld w 20 6) (fld w 14 6) (fld w 0 14)⟩,
  ⟨0x0A, [], fun w => .ori (fld w 20 6) (fld w 14 6) (fld w 0 14)⟩]

/-- Rows of SA and SB (02 R52). -/
def scalarRows3 : List Row := [
  ⟨0x0B, [], fun w => .xori (fld w 20 6) (fld w 14 6) (fld w 0 14)⟩,
  ⟨0x0C, [(6, 8, 0)], fun w => .shli (fld w 20 6) (fld w 14 6) (fld w 0 6)⟩,
  ⟨0x0D, [(6, 8, 0)], fun w => .shri (fld w 20 6) (fld w 14 6) (fld w 0 6)⟩,
  ⟨0x0E, [(6, 8, 0)], fun w => .sari (fld w 20 6) (fld w 14 6) (fld w 0 6)⟩,
  ⟨0x0F, [(24, 2, 0)], fun w => .cmpeqi (fld w 20 4) (fld w 14 6) (fld w 0 14)⟩,
  ⟨0x10, [(24, 2, 0)], fun w => .cmplti (fld w 20 4) (fld w 14 6) (fld w 0 14)⟩,
  ⟨0x11, [(24, 2, 0)], fun w => .cmpltui (fld w 20 4) (fld w 14 6) (fld w 0 14)⟩,
  ⟨0x12, [(16, 2, 0)], fun w => .movi (fld w 20 6) (fld w 18 2) (fld w 0 16)⟩,
  ⟨0x13, [(16, 2, 0)], fun w => .movk (fld w 20 6) (fld w 18 2) (fld w 0 16)⟩,
  ⟨0x14, [(12, 8, 0)], fun w => .movsr (fld w 20 6) (fld w 0 12)⟩,
  ⟨0x15, [(12, 2, 0), (20, 6, 0)], fun w => .movrs (fld w 14 6) (fld w 0 12)⟩,
  ⟨0x16, [(21, 5, 0)], fun w => .ibset (fld w 20 1) (fld w 14 6) (fld w 0 14)⟩,
  ⟨0x17, [], fun w => .allot (fld w 20 6) (fld w 14 6) (fld w 0 14)⟩]

/-- Every row of SA and SB (02 R52). -/
def scalarRows : List Row := scalarRows1 ++ scalarRows2 ++ scalarRows3

/-- Rows of SA alone (02 R52). -/
def controlRows : List Row := [
  ⟨0x20, [], fun w => .br (fld w 22 4) (fld w 0 22)⟩,
  ⟨0x21, [], fun w => .brl (fld w 22 4) (fld w 0 22)⟩,
  ⟨0x22, [(4, 10, 0), (20, 6, 0)], fun w => .jr (fld w 14 6) (fld w 0 4)⟩,
  ⟨0x23, [(4, 10, 0), (20, 6, 0)], fun w => .jrl (fld w 14 6) (fld w 0 4)⟩,
  ⟨0x24, [(16, 4, 0)], fun w => .loop (fld w 20 6) (fld w 0 16)⟩,
  ⟨0x25, [], fun w => .loopr (fld w 20 6) (fld w 16 4) (fld w 0 16)⟩,
  ⟨0x26, [], fun w => .brtop (fld w 22 4) (fld w 0 22)⟩,
  ⟨0x27, [], fun w => .lexit (fld w 22 4) (fld w 0 22)⟩,
  ⟨0x28, [(20, 6, 0)], fun w => .trap (fld w 14 6) (fld w 0 14)⟩,
  ⟨0x29, [(0, 26, 0)], fun _ => .endTask⟩,
  ⟨0x2A, [(0, 26, 0)], fun _ => .eret⟩]

/-- Rows of VA and VB (02 R53). -/
def vectorRows1 : List Row := [
  ⟨0x01, [], fun w => .faddF32 (fld w 19 7) (fld w 12 7) (fld w 5 7) (fld w 1 4) (fld w 0 1)⟩,
  ⟨0x02, [], fun w => .fsubF32 (fld w 19 7) (fld w 12 7) (fld w 5 7) (fld w 1 4) (fld w 0 1)⟩,
  ⟨0x03, [], fun w => .fmulF32 (fld w 19 7) (fld w 12 7) (fld w 5 7) (fld w 1 4) (fld w 0 1)⟩,
  ⟨0x04, [], fun w => .ffmaF32 (fld w 19 7) (fld w 12 7) (fld w 5 7) (fld w 1 4) (fld w 0 1)⟩,
  ⟨0x05, [], fun w => .fminF32 (fld w 19 7) (fld w 12 7) (fld w 5 7) (fld w 1 4) (fld w 0 1)⟩,
  ⟨0x06, [], fun w => .fmaxF32 (fld w 19 7) (fld w 12 7) (fld w 5 7) (fld w 1 4) (fld w 0 1)⟩,
  ⟨0x07, [], fun w => .fcmpF32 (fld w 23 3) (fld w 19 4) (fld w 12 7) (fld w 5 7) (fld w 1 4) (fld w 0 1)⟩,
  ⟨0x09, [], fun w => .faddF64 (fld w 19 7) (fld w 12 7) (fld w 5 7) (fld w 1 4) (fld w 0 1)⟩,
  ⟨0x0A, [], fun w => .fsubF64 (fld w 19 7) (fld w 12 7) (fld w 5 7) (fld w 1 4) (fld w 0 1)⟩,
  ⟨0x0B, [], fun w => .fmulF64 (fld w 19 7) (fld w 12 7) (fld w 5 7) (fld w 1 4) (fld w 0 1)⟩,
  ⟨0x0C, [], fun w => .ffmaF64 (fld w 19 7) (fld w 12 7) (fld w 5 7) (fld w 1 4) (fld w 0 1)⟩,
  ⟨0x0D, [], fun w => .fminF64 (fld w 19 7) (fld w 12 7) (fld w 5 7) (fld w 1 4) (fld w 0 1)⟩,
  ⟨0x0E, [], fun w => .fmaxF64 (fld w 19 7) (fld w 12 7) (fld w 5 7) (fld w 1 4) (fld w 0 1)⟩,
  ⟨0x0F, [], fun w => .fcmpF64 (fld w 23 3) (fld w 19 4) (fld w 12 7) (fld w 5 7) (fld w 1 4) (fld w 0 1)⟩,
  ⟨0x08, [(5, 7, 0)], fun w => .absF32 (fld w 19 7) (fld w 12 7) (fld w 1 4) (fld w 0 1)⟩,
  ⟨0x08, [(5, 7, 1)], fun w => .negF32 (fld w 19 7) (fld w 12 7) (fld w 1 4) (fld w 0 1)⟩,
  ⟨0x08, [(5, 7, 2)], fun w => .sqrtF32 (fld w 19 7) (fld w 12 7) (fld w 1 4) (fld w 0 1)⟩,
  ⟨0x08, [(5, 7, 3)], fun w => .rcpF32 (fld w 19 7) (fld w 12 7) (fld w 1 4) (fld w 0 1)⟩,
  ⟨0x08, [(5, 7, 4)], fun w => .rsqF32 (fld w 19 7) (fld w 12 7) (fld w 1 4) (fld w 0 1)⟩,
  ⟨0x08, [(5, 7, 5)], fun w => .exp2F32 (fld w 19 7) (fld w 12 7) (fld w 1 4) (fld w 0 1)⟩]

/-- Rows of VA and VB (02 R53). -/
def vectorRows2 : List Row := [
  ⟨0x08, [(5, 7, 6)], fun w => .log2F32 (fld w 19 7) (fld w 12 7) (fld w 1 4) (fld w 0 1)⟩,
  ⟨0x08, [(5, 7, 7)], fun w => .floorF32 (fld w 19 7) (fld w 12 7) (fld w 1 4) (fld w 0 1)⟩,
  ⟨0x08, [(5, 7, 8)], fun w => .ceilF32 (fld w 19 7) (fld w 12 7) (fld w 1 4) (fld w 0 1)⟩,
  ⟨0x08, [(5, 7, 9)], fun w => .rintF32 (fld w 19 7) (fld w 12 7) (fld w 1 4) (fld w 0 1)⟩,
  ⟨0x08, [(5, 7, 10)], fun w => .truncF32 (fld w 19 7) (fld w 12 7) (fld w 1 4) (fld w 0 1)⟩,
  ⟨0x10, [(5, 7, 0)], fun w => .fcvtBf16F32 (fld w 19 7) (fld w 12 7) (fld w 1 4) (fld w 0 1)⟩,
  ⟨0x10, [(5, 7, 1)], fun w => .fcvtF16F32 (fld w 19 7) (fld w 12 7) (fld w 1 4) (fld w 0 1)⟩,
  ⟨0x10, [(5, 7, 2)], fun w => .fcvtF32Bf16 (fld w 19 7) (fld w 12 7) (fld w 1 4) (fld w 0 1)⟩,
  ⟨0x10, [(5, 7, 3)], fun w => .fcvtF32F16 (fld w 19 7) (fld w 12 7) (fld w 1 4) (fld w 0 1)⟩,
  ⟨0x10, [(5, 7, 4)], fun w => .fcvtF64F32 (fld w 19 7) (fld w 12 7) (fld w 1 4) (fld w 0 1)⟩,
  ⟨0x10, [(5, 7, 5)], fun w => .fcvtF32F64 (fld w 19 7) (fld w 12 7) (fld w 1 4) (fld w 0 1)⟩,
  ⟨0x10, [(5, 7, 6)], fun w => .fcvtI32F32 (fld w 19 7) (fld w 12 7) (fld w 1 4) (fld w 0 1)⟩,
  ⟨0x10, [(5, 7, 7)], fun w => .fcvtF32I32 (fld w 19 7) (fld w 12 7) (fld w 1 4) (fld w 0 1)⟩,
  ⟨0x10, [(5, 7, 8)], fun w => .fcvtI64F64 (fld w 19 7) (fld w 12 7) (fld w 1 4) (fld w 0 1)⟩,
  ⟨0x10, [(5, 7, 9)], fun w => .fcvtF64I64 (fld w 19 7) (fld w 12 7) (fld w 1 4) (fld w 0 1)⟩,
  ⟨0x10, [(5, 7, 10)], fun w => .fcvtI32F32Rtz (fld w 19 7) (fld w 12 7) (fld w 1 4) (fld w 0 1)⟩,
  ⟨0x20, [], fun w => .iadd (fld w 19 7) (fld w 12 7) (fld w 5 7) (fld w 1 4) (fld w 0 1)⟩,
  ⟨0x21, [], fun w => .isub (fld w 19 7) (fld w 12 7) (fld w 5 7) (fld w 1 4) (fld w 0 1)⟩,
  ⟨0x22, [], fun w => .imul (fld w 19 7) (fld w 12 7) (fld w 5 7) (fld w 1 4) (fld w 0 1)⟩,
  ⟨0x23, [], fun w => .imin (fld w 19 7) (fld w 12 7) (fld w 5 7) (fld w 1 4) (fld w 0 1)⟩]

/-- Rows of VA and VB (02 R53). -/
def vectorRows3 : List Row := [
  ⟨0x24, [], fun w => .imax (fld w 19 7) (fld w 12 7) (fld w 5 7) (fld w 1 4) (fld w 0 1)⟩,
  ⟨0x25, [], fun w => .iminu (fld w 19 7) (fld w 12 7) (fld w 5 7) (fld w 1 4) (fld w 0 1)⟩,
  ⟨0x26, [], fun w => .imaxu (fld w 19 7) (fld w 12 7) (fld w 5 7) (fld w 1 4) (fld w 0 1)⟩,
  ⟨0x27, [], fun w => .iand (fld w 19 7) (fld w 12 7) (fld w 5 7) (fld w 1 4) (fld w 0 1)⟩,
  ⟨0x28, [], fun w => .ior (fld w 19 7) (fld w 12 7) (fld w 5 7) (fld w 1 4) (fld w 0 1)⟩,
  ⟨0x29, [], fun w => .ixor (fld w 19 7) (fld w 12 7) (fld w 5 7) (fld w 1 4) (fld w 0 1)⟩,
  ⟨0x2A, [], fun w => .ishl (fld w 19 7) (fld w 12 7) (fld w 5 7) (fld w 1 4) (fld w 0 1)⟩,
  ⟨0x2B, [], fun w => .ishr (fld w 19 7) (fld w 12 7) (fld w 5 7) (fld w 1 4) (fld w 0 1)⟩,
  ⟨0x2C, [], fun w => .isar (fld w 19 7) (fld w 12 7) (fld w 5 7) (fld w 1 4) (fld w 0 1)⟩,
  ⟨0x2D, [], fun w => .icmp (fld w 23 3) (fld w 19 4) (fld w 12 7) (fld w 5 7) (fld w 1 4) (fld w 0 1)⟩,
  ⟨0x30, [(5, 7, 0)], fun w => .vmov (fld w 19 7) (fld w 12 7) (fld w 1 4) (fld w 0 1)⟩,
  ⟨0x31, [], fun w => .vsel (fld w 19 7) (fld w 12 7) (fld w 5 7) (fld w 1 4) (fld w 0 1)⟩,
  ⟨0x32, [], fun w => .vperm (fld w 19 7) (fld w 12 7) (fld w 5 7) (fld w 1 4) (fld w 0 1)⟩,
  ⟨0x33, [(9, 3, 0)], fun w => .vbcast (fld w 19 7) (fld w 12 7) (fld w 5 4) (fld w 1 4) (fld w 0 1)⟩,
  ⟨0x33, [(8, 4, 2)], fun w => .vbcastD (fld w 19 7) (fld w 12 7) (fld w 5 3) (fld w 1 4) (fld w 0 1)⟩,
  ⟨0x33, [(0, 1, 0), (5, 7, 64), (18, 1, 0)], fun w => .vbcastScalar (fld w 19 7) (fld w 12 6) (fld w 1 4)⟩,
  ⟨0x33, [(0, 1, 0), (5, 7, 80), (18, 1, 0)], fun w => .vbcastDScalar (fld w 19 7) (fld w 12 6) (fld w 1 4)⟩,
  ⟨0x34, [], fun w => .vext (fld w 19 7) (fld w 12 7) (fld w 5 7) (fld w 1 4) (fld w 0 1)⟩,
  ⟨0x35, [(5, 7, 0)], fun w => .vredFaddF32 (fld w 19 7) (fld w 12 7) (fld w 1 4) (fld w 0 1)⟩,
  ⟨0x35, [(5, 7, 1)], fun w => .vredFmaxF32 (fld w 19 7) (fld w 12 7) (fld w 1 4) (fld w 0 1)⟩]

/-- Rows of VA and VB (02 R53). -/
def vectorRows4 : List Row := [
  ⟨0x35, [(5, 7, 2)], fun w => .vredFminF32 (fld w 19 7) (fld w 12 7) (fld w 1 4) (fld w 0 1)⟩,
  ⟨0x35, [(5, 7, 3)], fun w => .vredIadd (fld w 19 7) (fld w 12 7) (fld w 1 4) (fld w 0 1)⟩,
  ⟨0x35, [(5, 7, 4)], fun w => .vredImax (fld w 19 7) (fld w 12 7) (fld w 1 4) (fld w 0 1)⟩,
  ⟨0x35, [(5, 7, 5)], fun w => .vredImin (fld w 19 7) (fld w 12 7) (fld w 1 4) (fld w 0 1)⟩,
  ⟨0x35, [(5, 7, 6)], fun w => .vredFaddF64 (fld w 19 7) (fld w 12 7) (fld w 1 4) (fld w 0 1)⟩,
  ⟨0x36, [(0, 1, 0), (5, 7, 0), (16, 3, 0)], fun w => .viota (fld w 19 7) (fld w 12 4) (fld w 1 4)⟩,
  ⟨0x37, [(1, 4, 0), (9, 1, 0), (11, 1, 0)], fun w => .vplanePack (fld w 19 7) (fld w 12 7) (fld w 10 1) (fld w 5 4) (fld w 0 1)⟩,
  ⟨0x37, [(1, 4, 0), (9, 1, 0), (11, 1, 1)], fun w => .vplaneUnpack (fld w 19 7) (fld w 12 7) (fld w 10 1) (fld w 5 4) (fld w 0 1)⟩,
  ⟨0x38, [(0, 1, 0), (9, 3, 0), (16, 3, 0), (23, 3, 0)], fun w => .pand (fld w 19 4) (fld w 12 4) (fld w 5 4) (fld w 1 4)⟩,
  ⟨0x38, [(0, 1, 0), (9, 3, 0), (16, 3, 0), (23, 3, 1)], fun w => .por (fld w 19 4) (fld w 12 4) (fld w 5 4) (fld w 1 4)⟩,
  ⟨0x38, [(0, 1, 0), (9, 3, 0), (16, 3, 0), (23, 3, 2)], fun w => .pxor (fld w 19 4) (fld w 12 4) (fld w 5 4) (fld w 1 4)⟩,
  ⟨0x38, [(0, 1, 0), (9, 3, 0), (16, 3, 0), (23, 3, 3)], fun w => .pandn (fld w 19 4) (fld w 12 4) (fld w 5 4) (fld w 1 4)⟩,
  ⟨0x38, [(0, 1, 0), (5, 7, 0), (16, 3, 0), (23, 3, 4)], fun w => .pnot (fld w 19 4) (fld w 12 4) (fld w 1 4)⟩,
  ⟨0x38, [(0, 1, 0), (5, 7, 0), (16, 3, 0), (23, 3, 5)], fun w => .pmov (fld w 19 4) (fld w 12 4) (fld w 1 4)⟩,
  ⟨0x38, [(0, 1, 0), (5, 14, 0), (23, 3, 6)], fun w => .pset (fld w 19 4) (fld w 1 4)⟩,
  ⟨0x38, [(0, 1, 0), (5, 14, 0), (23, 3, 7)], fun w => .pclr (fld w 19 4) (fld w 1 4)⟩,
  ⟨0x39, [(0, 1, 0), (5, 7, 0), (16, 3, 0)], fun w => .pcnt (fld w 19 7) (fld w 12 4) (fld w 1 4)⟩]

/-- Every row of VA and VB (02 R53). -/
def vectorRows : List Row := vectorRows1 ++ vectorRows2 ++ vectorRows3 ++ vectorRows4

/-- Rows of LS (02 R54). -/
def lsRows1 : List Row := [
  ⟨0x01, [(25, 1, 0)], fun w => .ld (fld w 19 6) (fld w 13 6) (fld w 11 2) (fld w 0 11)⟩,
  ⟨0x02, [(25, 1, 0)], fun w => .ldz (fld w 19 6) (fld w 13 6) (fld w 11 2) (fld w 0 11)⟩,
  ⟨0x03, [(25, 1, 0)], fun w => .st (fld w 19 6) (fld w 13 6) (fld w 11 2) (fld w 0 11)⟩,
  ⟨0x04, [(11, 2, 0)], fun w => .vld (fld w 19 7) (fld w 13 6) (fld w 0 11)⟩,
  ⟨0x05, [(11, 2, 0)], fun w => .vst (fld w 19 7) (fld w 13 6) (fld w 0 11)⟩,
  ⟨0x06, [], fun w => .vlds (fld w 19 7) (fld w 13 6) (fld w 7 6) (fld w 0 7)⟩,
  ⟨0x07, [], fun w => .vsts (fld w 19 7) (fld w 13 6) (fld w 7 6) (fld w 0 7)⟩,
  ⟨0x08, [(2, 5, 0)], fun w => .vgth (fld w 19 7) (fld w 13 6) (fld w 7 6) (fld w 0 2)⟩,
  ⟨0x09, [(2, 5, 0)], fun w => .vsct (fld w 19 7) (fld w 13 6) (fld w 7 6) (fld w 0 2)⟩,
  ⟨0x0A, [(25, 1, 0)], fun w => .fil (fld w 19 6) (fld w 13 6) (fld w 11 2) (fld w 0 11)⟩,
  ⟨0x0B, [(25, 1, 0)], fun w => .spl (fld w 19 6) (fld w 13 6) (fld w 11 2) (fld w 0 11)⟩,
  ⟨0x0C, [(11, 2, 0)], fun w => .vfil (fld w 19 7) (fld w 13 6) (fld w 0 11)⟩,
  ⟨0x0D, [(11, 2, 0)], fun w => .vspl (fld w 19 7) (fld w 13 6) (fld w 0 11)⟩,
  ⟨0x10, [(7, 6, 0), (23, 3, 0)], fun w => .oclaim (fld w 19 4) (fld w 13 6) (fld w 0 7)⟩,
  ⟨0x11, [(0, 19, 0), (23, 3, 0)], fun w => .orelease (fld w 19 4)⟩,
  ⟨0x12, [(0, 7, 0), (23, 3, 0)], fun w => .ofill (fld w 19 4) (fld w 13 6) (fld w 7 6)⟩,
  ⟨0x13, [(4, 15, 0), (25, 1, 0)], fun w => .ostat (fld w 19 6) (fld w 0 4)⟩,
  ⟨0x14, [(19, 7, 0)], fun w => .scld (fld w 13 6) (fld w 11 2) (fld w 0 11)⟩,
  ⟨0x15, [(4, 3, 0), (13, 6, 0), (25, 1, 0)], fun w => .bfmt (fld w 19 6) (fld w 7 6) (fld w 0 4)⟩,
  ⟨0x18, [(3, 4, 0), (25, 1, 0)], fun w => .aadd (fld w 19 6) (fld w 13 6) (fld w 7 6) (fld w 2 1) (fld w 0 2)⟩]

/-- Rows of LS (02 R54). -/
def lsRows2 : List Row := [
  ⟨0x19, [(3, 4, 0), (25, 1, 0)], fun w => .amin (fld w 19 6) (fld w 13 6) (fld w 7 6) (fld w 2 1) (fld w 0 2)⟩,
  ⟨0x1A, [(3, 4, 0), (25, 1, 0)], fun w => .amax (fld w 19 6) (fld w 13 6) (fld w 7 6) (fld w 2 1) (fld w 0 2)⟩,
  ⟨0x1B, [(3, 4, 0), (25, 1, 0)], fun w => .aand (fld w 19 6) (fld w 13 6) (fld w 7 6) (fld w 2 1) (fld w 0 2)⟩,
  ⟨0x1C, [(3, 4, 0), (25, 1, 0)], fun w => .aor (fld w 19 6) (fld w 13 6) (fld w 7 6) (fld w 2 1) (fld w 0 2)⟩,
  ⟨0x1D, [(3, 4, 0), (25, 1, 0)], fun w => .axchg (fld w 19 6) (fld w 13 6) (fld w 7 6) (fld w 2 1) (fld w 0 2)⟩,
  ⟨0x1E, [(3, 4, 0), (25, 1, 0)], fun w => .acas (fld w 19 6) (fld w 13 6) (fld w 7 6) (fld w 2 1) (fld w 0 2)⟩,
  ⟨0x1F, [(2, 5, 0), (25, 1, 0)], fun w => .aaddf (fld w 19 6) (fld w 13 6) (fld w 7 6) (fld w 0 2)⟩,
  ⟨0x20, [(0, 26, 1)], fun _ => .fencePackage⟩,
  ⟨0x20, [(0, 26, 2)], fun _ => .fenceSystem⟩,
  ⟨0x21, [(7, 12, 0)], fun w => .fencex (fld w 19 7) (fld w 0 7)⟩]

/-- Every row of LS (02 R54). -/
def lsRows : List Row := lsRows1 ++ lsRows2

/-- Rows of MX (02 R55). -/
def mxRows : List Row := [
  ⟨0x01, [(8, 12, 0)], fun w => .mset (fld w 20 6) (fld w 0 8)⟩,
  ⟨0x02, [(0, 9, 0), (11, 4, 0)], fun w => .mma (fld w 23 3) (fld w 19 4) (fld w 15 4) (fld w 10 1) (fld w 9 1)⟩,
  ⟨0x03, [(0, 9, 0)], fun w => .mmas (fld w 23 3) (fld w 19 4) (fld w 15 4) (fld w 11 4) (fld w 10 1) (fld w 9 1)⟩,
  ⟨0x04, [(0, 6, 0)], fun w => .mret (fld w 23 3) (fld w 17 6) (fld w 11 6) (fld w 7 4) (fld w 6 1)⟩,
  ⟨0x05, [(0, 6, 0)], fun w => .mretv (fld w 23 3) (fld w 17 6) (fld w 11 6) (fld w 7 4) (fld w 6 1)⟩,
  ⟨0x06, [(0, 23, 0)], fun w => .mzero (fld w 23 3)⟩,
  ⟨0x07, [(0, 26, 0)], fun _ => .mdrain⟩,
  ⟨0x08, [(0, 17, 0)], fun w => .mlda (fld w 23 3) (fld w 17 6)⟩,
  ⟨0x09, [(0, 17, 0)], fun w => .msta (fld w 23 3) (fld w 17 6)⟩,
  ⟨0x0A, [(0, 12, 0)], fun w => .rfwd (fld w 19 7) (fld w 12 7)⟩,
  ⟨0x0B, [(0, 5, 0), (8, 4, 0)], fun w => .rrev (fld w 19 7) (fld w 18 1) (fld w 12 6) (fld w 5 3)⟩,
  ⟨0x0C, [(0, 5, 0), (7, 5, 0)], fun w => .rchk (fld w 19 7) (fld w 12 7) (fld w 5 2)⟩,
  ⟨0x0D, [(0, 26, 0)], fun _ => .mchanScrub⟩,
  ⟨0x0D, [(0, 20, 65536)], fun w => .mchanThresh (fld w 20 6)⟩,
  ⟨0x0D, [(0, 20, 131072)], fun w => .mchanClear (fld w 20 6)⟩,
  ⟨0x0D, [(5, 15, 6144)], fun w => .mchanFail (fld w 20 6) (fld w 0 5)⟩,
  ⟨0x0E, [(9, 11, 0)], fun w => .minj (fld w 20 6) (fld w 8 1) (fld w 5 3) (fld w 0 5)⟩]

/-- Rows of CP (02 R56). -/
def cpRows : List Row := [
  ⟨0x01, [(0, 12, 0)], fun w => .cset (fld w 24 2) (fld w 18 6) (fld w 12 6)⟩,
  ⟨0x02, [(0, 12, 0), (18, 6, 0)], fun w => .cshape (fld w 24 2) (fld w 12 6)⟩,
  ⟨0x03, [(0, 6, 0), (18, 6, 0)], fun w => .cgo (fld w 24 2) (fld w 12 6) (fld w 6 6)⟩,
  ⟨0x04, [(0, 12, 0)], fun w => .cwp (fld w 24 2) (fld w 18 6) (fld w 12 6)⟩,
  ⟨0x05, [(0, 18, 0)], fun w => .cwait (fld w 24 2) (fld w 18 6)⟩,
  ⟨0x06, [(0, 18, 0)], fun w => .crec (fld w 24 2) (fld w 18 6)⟩,
  ⟨0x07, [(0, 12, 0), (18, 8, 0)], fun w => .ccan (fld w 12 6)⟩]

/-- Rows of NW (02 R57). -/
def nwRows1 : List Row := [
  ⟨0x01, [(0, 13, 0), (19, 7, 0)], fun w => .fork (fld w 13 6)⟩,
  ⟨0x02, [(0, 13, 0), (25, 1, 0)], fun w => .join (fld w 19 6) (fld w 13 6)⟩,
  ⟨0x03, [(0, 19, 0), (25, 1, 0)], fun w => .next (fld w 19 6)⟩,
  ⟨0x04, [(0, 26, 0)], fun _ => .yield⟩,
  ⟨0x05, [(25, 1, 0)], fun w => .watch (fld w 19 6) (fld w 13 6) (fld w 7 6) (fld w 0 7)⟩,
  ⟨0x08, [(7, 19, 0)], fun w => .bara (fld w 0 7)⟩,
  ⟨0x09, [(7, 6, 0), (25, 1, 0)], fun w => .barw (fld w 19 6) (fld w 13 6) (fld w 0 7)⟩,
  ⟨0x0A, [(7, 6, 0), (19, 7, 0)], fun w => .bari (fld w 13 6) (fld w 0 7)⟩,
  ⟨0x10, [(0, 7, 0), (25, 1, 0)], fun w => .xenq (fld w 19 6) (fld w 13 6) (fld w 7 6)⟩,
  ⟨0x11, [(0, 7, 0), (25, 1, 0)], fun w => .xcfgLoad (fld w 19 6) (fld w 13 6) (fld w 7 6)⟩,
  ⟨0x11, [(0, 13, 1), (25, 1, 0)], fun w => .xcfgHalt (fld w 19 6) (fld w 13 6)⟩,
  ⟨0x11, [(0, 13, 2), (25, 1, 0)], fun w => .xcfgResume (fld w 19 6) (fld w 13 6)⟩,
  ⟨0x11, [(0, 13, 3), (25, 1, 0)], fun w => .xcfgPurge (fld w 19 6) (fld w 13 6)⟩,
  ⟨0x11, [(0, 13, 4), (25, 1, 0)], fun w => .xcfgOff (fld w 19 6) (fld w 13 6)⟩,
  ⟨0x12, [(7, 6, 0), (25, 1, 0)], fun w => .xstat (fld w 19 6) (fld w 13 6) (fld w 0 7)⟩,
  ⟨0x13, [(0, 13, 0), (25, 1, 0)], fun w => .xdisp (fld w 19 6) (fld w 13 6)⟩,
  ⟨0x14, [(19, 7, 0)], fun w => .xpref (fld w 13 6) (fld w 7 6) (fld w 0 7)⟩,
  ⟨0x15, [(0, 13, 0), (19, 7, 0)], fun w => .xcan (fld w 13 6)⟩,
  ⟨0x18, [(0, 13, 0), (25, 1, 0)], fun w => .tcreate (fld w 19 6) (fld w 13 6)⟩,
  ⟨0x19, [(0, 13, 0), (25, 1, 0)], fun w => .tdestroy (fld w 19 6) (fld w 13 6)⟩]

/-- Rows of NW (02 R57). -/
def nwRows2 : List Row := [
  ⟨0x1A, [(0, 7, 0), (25, 1, 0)], fun w => .tedit (fld w 19 6) (fld w 13 6) (fld w 7 6)⟩,
  ⟨0x1B, [(0, 7, 0), (19, 7, 0)], fun w => .tpost (fld w 13 6) (fld w 7 6)⟩,
  ⟨0x1C, [(0, 13, 0), (25, 1, 0)], fun w => .twait (fld w 19 6) (fld w 13 6)⟩,
  ⟨0x1D, [(0, 13, 0), (25, 1, 0)], fun w => .tfreeze (fld w 19 6) (fld w 13 6)⟩,
  ⟨0x1E, [(0, 7, 0), (25, 1, 0)], fun w => .tsave (fld w 19 6) (fld w 13 6) (fld w 7 6)⟩,
  ⟨0x1F, [(0, 7, 0), (25, 1, 0)], fun w => .trestore (fld w 19 6) (fld w 13 6) (fld w 7 6)⟩,
  ⟨0x20, [(7, 6, 0), (25, 1, 0)], fun w => .tqry (fld w 19 6) (fld w 13 6) (fld w 0 7)⟩,
  ⟨0x24, [(0, 14, 0), (19, 1, 0)], fun w => .rld (fld w 20 6) (fld w 14 5)⟩,
  ⟨0x25, [(0, 14, 0), (19, 1, 0)], fun w => .rst (fld w 20 6) (fld w 14 5)⟩,
  ⟨0x26, [(6, 1, 0), (13, 1, 0), (25, 1, 0)], fun w => .ratom (fld w 19 6) (fld w 14 5) (fld w 7 6) (fld w 5 1) (fld w 3 2) (fld w 0 3)⟩,
  ⟨0x27, [(0, 13, 0), (25, 1, 0)], fun w => .rfence (fld w 19 6) (fld w 13 6)⟩,
  ⟨0x27, [(0, 19, 1), (25, 1, 0)], fun w => .rfenceAll (fld w 19 6)⟩,
  ⟨0x28, [(0, 13, 0), (25, 1, 0)], fun w => .fsend (fld w 19 6) (fld w 13 6)⟩,
  ⟨0x29, [(7, 6, 0), (25, 1, 0)], fun w => .fclk (fld w 19 6) (fld w 13 6) (fld w 0 7)⟩,
  ⟨0x30, [(7, 6, 0), (19, 7, 0)], fun w => .hsig (fld w 13 6) (fld w 0 7)⟩,
  ⟨0x31, [(0, 7, 0), (19, 7, 0)], fun w => .rgnctlCreate (fld w 13 6) (fld w 7 6)⟩,
  ⟨0x31, [(0, 7, 1), (19, 7, 0)], fun w => .rgnctlDestroy (fld w 13 6) (fld w 7 6)⟩,
  ⟨0x31, [(0, 7, 2), (19, 7, 0)], fun w => .rgnctlLaunch (fld w 13 6) (fld w 7 6)⟩,
  ⟨0x31, [(0, 7, 3), (19, 7, 0)], fun w => .rgnctlPreempt (fld w 13 6) (fld w 7 6)⟩,
  ⟨0x31, [(0, 7, 4), (19, 7, 0)], fun w => .rgnctlPark (fld w 13 6) (fld w 7 6)⟩]

/-- Rows of NW (02 R57). -/
def nwRows3 : List Row := [
  ⟨0x31, [(0, 7, 5), (19, 7, 0)], fun w => .rgnctlResume (fld w 13 6) (fld w 7 6)⟩,
  ⟨0x31, [(0, 7, 6), (19, 7, 0)], fun w => .rgnctlKill (fld w 13 6) (fld w 7 6)⟩,
  ⟨0x31, [(0, 7, 7), (19, 7, 0)], fun w => .rgnctlReload (fld w 13 6) (fld w 7 6)⟩,
  ⟨0x31, [(0, 7, 8), (19, 7, 0)], fun w => .rgnctlQuery (fld w 13 6) (fld w 7 6)⟩,
  ⟨0x32, [(0, 7, 0), (25, 1, 0)], fun w => .xlinv (fld w 19 6) (fld w 13 6) (fld w 7 6)⟩,
  ⟨0x32, [(0, 7, 1), (25, 1, 0)], fun w => .xlinvForce (fld w 19 6) (fld w 13 6) (fld w 7 6)⟩,
  ⟨0x33, [(0, 7, 0), (25, 1, 0)], fun w => .xlpin (fld w 19 6) (fld w 13 6) (fld w 7 6)⟩,
  ⟨0x34, [(0, 7, 0), (25, 1, 0)], fun w => .xlunpin (fld w 19 6) (fld w 13 6) (fld w 7 6)⟩]

/-- Every row of NW (02 R57). -/
def nwRows : List Row := nwRows1 ++ nwRows2 ++ nwRows3

/-- The rows of a slot's opcode map (02 R52-R57). -/
def slotRows : Slot → List Row
  | .sa => scalarRows ++ controlRows
  | .sb => scalarRows
  | .va | .vb => vectorRows
  | .ls => lsRows
  | .mx => mxRows
  | .cp => cpRows
  | .nw => nwRows

/-- Whether an opcode stands in a slot's map. -/
def opcodeDefined (sl : Slot) (w : BitVec 32) : Bool :=
  (slotRows sl).any fun r => w.toNat / 2 ^ 26 == r.op

/-- Decoding of one slot word, total (02 R50-R57). The all-zero word is NOP in every slot (02 R41). -/
def decodeSlot (sl : Slot) (w : BitVec 32) : Except DecodeError Instr :=
  if w = 0 then .ok .nop
  else
    match (slotRows sl).find? fun r => r.fits w with
    | some r => if (r.build w).wellFormed then .ok (r.build w) else .error .field
    | none =>
      if opcodeDefined sl w then .error .field
      else if sl = .sb && controlRows.any (fun r => w.toNat / 2 ^ 26 == r.op) then .error .saOnly
      else .error .opcode

/-- Vector reads of a slot word for the port check (02 R45, R53-R57): counted by opcode, so that a defined opcode with an
undefined field still counts its row's reads, and an undefined opcode counts none. -/
def vectorReads (sl : Slot) (w : BitVec 32) : Nat :=
  let op := w.toNat / 2 ^ 26
  match sl with
  | .va | .vb =>
    if op = 0x04 ∨ op = 0x0C then 3
    else if op = 0x08 ∨ op = 0x10 ∨ op = 0x30 ∨ op = 0x33 ∨ op = 0x35 ∨ op = 0x37 then 1
    else if op = 0x00 ∨ op = 0x36 ∨ op = 0x38 ∨ op = 0x39 then 0
    else if opcodeDefined sl w then 2 else 0
  | .ls =>
    if op = 0x05 ∨ op = 0x07 ∨ op = 0x08 ∨ op = 0x0D then 1
    else if op = 0x09 then 2 else 0
  | .mx => if op = 0x0A ∨ op = 0x0C then 1 else 0
  | .nw => if op = 0x25 then 2 else 0
  | _ => 0

/-- The number of a word built from fields (value, position): the encoder's only shape (02 R50). -/
def encodeFields (fs : List (Nat × Nat)) : BitVec 32 :=
  BitVec.ofNat 32 (fs.foldr (fun f acc => f.1 * 2 ^ f.2 + acc) 0)

/-- The slot word of an instruction, from the same maps; the engine steps have none. -/
def encode : Instr → Option (BitVec 32)
  | .nop => some (encodeFields [])
  | .add d a b p => some (encodeFields [(0x01, 26), (d.toNat, 20), (a.toNat, 14), (b.toNat, 8), (p.toNat, 0)])
  | .sub d a b p => some (encodeFields [(0x01, 26), (1, 4), (d.toNat, 20), (a.toNat, 14), (b.toNat, 8), (p.toNat, 0)])
  | .and d a b p => some (encodeFields [(0x01, 26), (2, 4), (d.toNat, 20), (a.toNat, 14), (b.toNat, 8), (p.toNat, 0)])
  | .or d a b p => some (encodeFields [(0x01, 26), (3, 4), (d.toNat, 20), (a.toNat, 14), (b.toNat, 8), (p.toNat, 0)])
  | .xor d a b p => some (encodeFields [(0x01, 26), (4, 4), (d.toNat, 20), (a.toNat, 14), (b.toNat, 8), (p.toNat, 0)])
  | .andn d a b p => some (encodeFields [(0x01, 26), (5, 4), (d.toNat, 20), (a.toNat, 14), (b.toNat, 8), (p.toNat, 0)])
  | .shl d a b p => some (encodeFields [(0x01, 26), (6, 4), (d.toNat, 20), (a.toNat, 14), (b.toNat, 8), (p.toNat, 0)])
  | .shr d a b p => some (encodeFields [(0x01, 26), (7, 4), (d.toNat, 20), (a.toNat, 14), (b.toNat, 8), (p.toNat, 0)])
  | .sar d a b p => some (encodeFields [(0x01, 26), (8, 4), (d.toNat, 20), (a.toNat, 14), (b.toNat, 8), (p.toNat, 0)])
  | .rol d a b p => some (encodeFields [(0x01, 26), (9, 4), (d.toNat, 20), (a.toNat, 14), (b.toNat, 8), (p.toNat, 0)])
  | .min d a b p => some (encodeFields [(0x01, 26), (10, 4), (d.toNat, 20), (a.toNat, 14), (b.toNat, 8), (p.toNat, 0)])
  | .max d a b p => some (encodeFields [(0x01, 26), (11, 4), (d.toNat, 20), (a.toNat, 14), (b.toNat, 8), (p.toNat, 0)])
  | .minu d a b p => some (encodeFields [(0x01, 26), (12, 4), (d.toNat, 20), (a.toNat, 14), (b.toNat, 8), (p.toNat, 0)])
  | .maxu d a b p => some (encodeFields [(0x01, 26), (13, 4), (d.toNat, 20), (a.toNat, 14), (b.toNat, 8), (p.toNat, 0)])
  | .mul d a b p => some (encodeFields [(0x02, 26), (d.toNat, 20), (a.toNat, 14), (b.toNat, 8), (p.toNat, 0)])
  | .mulh d a b p => some (encodeFields [(0x02, 26), (1, 4), (d.toNat, 20), (a.toNat, 14), (b.toNat, 8), (p.toNat, 0)])
  | .mulhu d a b p => some (encodeFields [(0x02, 26), (2, 4), (d.toNat, 20), (a.toNat, 14), (b.toNat, 8), (p.toNat, 0)])
  | .div d a b p => some (encodeFields [(0x03, 26), (d.toNat, 20), (a.toNat, 14), (b.toNat, 8), (p.toNat, 0)])
  | .divu d a b p => some (encodeFields [(0x03, 26), (1, 4), (d.toNat, 20), (a.toNat, 14), (b.toNat, 8), (p.toNat, 0)])
  | .rem d a b p => some (encodeFields [(0x03, 26), (2, 4), (d.toNat, 20), (a.toNat, 14), (b.toNat, 8), (p.toNat, 0)])
  | .remu d a b p => some (encodeFields [(0x03, 26), (3, 4), (d.toNat, 20), (a.toNat, 14), (b.toNat, 8), (p.toNat, 0)])
  | .clz d a p => some (encodeFields [(0x04, 26), (d.toNat, 20), (a.toNat, 14), (p.toNat, 0)])
  | .ctz d a p => some (encodeFields [(0x04, 26), (1, 4), (d.toNat, 20), (a.toNat, 14), (p.toNat, 0)])
  | .popc d a p => some (encodeFields [(0x04, 26), (2, 4), (d.toNat, 20), (a.toNat, 14), (p.toNat, 0)])
  | .sxb d a p => some (encodeFields [(0x04, 26), (3, 4), (d.toNat, 20), (a.toNat, 14), (p.toNat, 0)])
  | .sxh d a p => some (encodeFields [(0x04, 26), (4, 4), (d.toNat, 20), (a.toNat, 14), (p.toNat, 0)])
  | .sxw d a p => some (encodeFields [(0x04, 26), (5, 4), (d.toNat, 20), (a.toNat, 14), (p.toNat, 0)])
  | .zxb d a p => some (encodeFields [(0x04, 26), (6, 4), (d.toNat, 20), (a.toNat, 14), (p.toNat, 0)])
  | .zxh d a p => some (encodeFields [(0x04, 26), (7, 4), (d.toNat, 20), (a.toNat, 14), (p.toNat, 0)])
  | .zxw d a p => some (encodeFields [(0x04, 26), (8, 4), (d.toNat, 20), (a.toNat, 14), (p.toNat, 0)])
  | .cmpEq k a b p => some (encodeFields [(0x05, 26), (k.toNat, 20), (a.toNat, 14), (b.toNat, 8), (p.toNat, 0)])
  | .cmpNe k a b p => some (encodeFields [(0x05, 26), (1, 4), (k.toNat, 20), (a.toNat, 14), (b.toNat, 8), (p.toNat, 0)])
  | .cmpLt k a b p => some (encodeFields [(0x05, 26), (2, 4), (k.toNat, 20), (a.toNat, 14), (b.toNat, 8), (p.toNat, 0)])
  | .cmpLe k a b p => some (encodeFields [(0x05, 26), (3, 4), (k.toNat, 20), (a.toNat, 14), (b.toNat, 8), (p.toNat, 0)])
  | .cmpLtu k a b p => some (encodeFields [(0x05, 26), (4, 4), (k.toNat, 20), (a.toNat, 14), (b.toNat, 8), (p.toNat, 0)])
  | .cmpLeu k a b p => some (encodeFields [(0x05, 26), (5, 4), (k.toNat, 20), (a.toNat, 14), (b.toNat, 8), (p.toNat, 0)])
  | .sel d a b k p => some (encodeFields [(0x06, 26), (d.toNat, 20), (a.toNat, 14), (b.toNat, 8), (k.toNat, 4), (p.toNat, 0)])
  | .addi d a i => some (encodeFields [(0x08, 26), (d.toNat, 20), (a.toNat, 14), (i.toNat, 0)])
  | .andi d a i => some (encodeFields [(0x09, 26), (d.toNat, 20), (a.toNat, 14), (i.toNat, 0)])
  | .ori d a i => some (encodeFields [(0x0A, 26), (d.toNat, 20), (a.toNat, 14), (i.toNat, 0)])
  | .xori d a i => some (encodeFields [(0x0B, 26), (d.toNat, 20), (a.toNat, 14), (i.toNat, 0)])
  | .shli d a i => some (encodeFields [(0x0C, 26), (d.toNat, 20), (a.toNat, 14), (i.toNat, 0)])
  | .shri d a i => some (encodeFields [(0x0D, 26), (d.toNat, 20), (a.toNat, 14), (i.toNat, 0)])
  | .sari d a i => some (encodeFields [(0x0E, 26), (d.toNat, 20), (a.toNat, 14), (i.toNat, 0)])
  | .cmpeqi k a i => some (encodeFields [(0x0F, 26), (k.toNat, 20), (a.toNat, 14), (i.toNat, 0)])
  | .cmplti k a i => some (encodeFields [(0x10, 26), (k.toNat, 20), (a.toNat, 14), (i.toNat, 0)])
  | .cmpltui k a i => some (encodeFields [(0x11, 26), (k.toNat, 20), (a.toNat, 14), (i.toNat, 0)])
  | .movi d h i => some (encodeFields [(0x12, 26), (d.toNat, 20), (h.toNat, 18), (i.toNat, 0)])
  | .movk d h i => some (encodeFields [(0x13, 26), (d.toNat, 20), (h.toNat, 18), (i.toNat, 0)])
  | .movsr d n => some (encodeFields [(0x14, 26), (d.toNat, 20), (n.toNat, 0)])
  | .movrs a n => some (encodeFields [(0x15, 26), (a.toNat, 14), (n.toNat, 0)])
  | .ibset k a i => some (encodeFields [(0x16, 26), (k.toNat, 20), (a.toNat, 14), (i.toNat, 0)])
  | .allot d a i => some (encodeFields [(0x17, 26), (d.toNat, 20), (a.toNat, 14), (i.toNat, 0)])
  | .br p i => some (encodeFields [(0x20, 26), (p.toNat, 22), (i.toNat, 0)])
  | .brl p i => some (encodeFields [(0x21, 26), (p.toNat, 22), (i.toNat, 0)])
  | .jr a p => some (encodeFields [(0x22, 26), (a.toNat, 14), (p.toNat, 0)])
  | .jrl a p => some (encodeFields [(0x23, 26), (a.toNat, 14), (p.toNat, 0)])
  | .loop a i => some (encodeFields [(0x24, 26), (a.toNat, 20), (i.toNat, 0)])
  | .loopr a s i => some (encodeFields [(0x25, 26), (a.toNat, 20), (s.toNat, 16), (i.toNat, 0)])
  | .brtop p i => some (encodeFields [(0x26, 26), (p.toNat, 22), (i.toNat, 0)])
  | .lexit p i => some (encodeFields [(0x27, 26), (p.toNat, 22), (i.toNat, 0)])
  | .trap a i => some (encodeFields [(0x28, 26), (a.toNat, 14), (i.toNat, 0)])
  | .endTask => some (encodeFields [(0x29, 26)])
  | .eret => some (encodeFields [(0x2A, 26)])
  | .faddF32 d a b p x => some (encodeFields [(0x01, 26), (d.toNat, 19), (a.toNat, 12), (b.toNat, 5), (p.toNat, 1), (x.toNat, 0)])
  | .fsubF32 d a b p x => some (encodeFields [(0x02, 26), (d.toNat, 19), (a.toNat, 12), (b.toNat, 5), (p.toNat, 1), (x.toNat, 0)])
  | .fmulF32 d a b p x => some (encodeFields [(0x03, 26), (d.toNat, 19), (a.toNat, 12), (b.toNat, 5), (p.toNat, 1), (x.toNat, 0)])
  | .ffmaF32 d a b p x => some (encodeFields [(0x04, 26), (d.toNat, 19), (a.toNat, 12), (b.toNat, 5), (p.toNat, 1), (x.toNat, 0)])
  | .fminF32 d a b p x => some (encodeFields [(0x05, 26), (d.toNat, 19), (a.toNat, 12), (b.toNat, 5), (p.toNat, 1), (x.toNat, 0)])
  | .fmaxF32 d a b p x => some (encodeFields [(0x06, 26), (d.toNat, 19), (a.toNat, 12), (b.toNat, 5), (p.toNat, 1), (x.toNat, 0)])
  | .fcmpF32 c k a b p x => some (encodeFields [(0x07, 26), (c.toNat, 23), (k.toNat, 19), (a.toNat, 12), (b.toNat, 5), (p.toNat, 1), (x.toNat, 0)])
  | .faddF64 d a b p x => some (encodeFields [(0x09, 26), (d.toNat, 19), (a.toNat, 12), (b.toNat, 5), (p.toNat, 1), (x.toNat, 0)])
  | .fsubF64 d a b p x => some (encodeFields [(0x0A, 26), (d.toNat, 19), (a.toNat, 12), (b.toNat, 5), (p.toNat, 1), (x.toNat, 0)])
  | .fmulF64 d a b p x => some (encodeFields [(0x0B, 26), (d.toNat, 19), (a.toNat, 12), (b.toNat, 5), (p.toNat, 1), (x.toNat, 0)])
  | .ffmaF64 d a b p x => some (encodeFields [(0x0C, 26), (d.toNat, 19), (a.toNat, 12), (b.toNat, 5), (p.toNat, 1), (x.toNat, 0)])
  | .fminF64 d a b p x => some (encodeFields [(0x0D, 26), (d.toNat, 19), (a.toNat, 12), (b.toNat, 5), (p.toNat, 1), (x.toNat, 0)])
  | .fmaxF64 d a b p x => some (encodeFields [(0x0E, 26), (d.toNat, 19), (a.toNat, 12), (b.toNat, 5), (p.toNat, 1), (x.toNat, 0)])
  | .fcmpF64 c k a b p x => some (encodeFields [(0x0F, 26), (c.toNat, 23), (k.toNat, 19), (a.toNat, 12), (b.toNat, 5), (p.toNat, 1), (x.toNat, 0)])
  | .absF32 d a p x => some (encodeFields [(0x08, 26), (d.toNat, 19), (a.toNat, 12), (p.toNat, 1), (x.toNat, 0)])
  | .negF32 d a p x => some (encodeFields [(0x08, 26), (1, 5), (d.toNat, 19), (a.toNat, 12), (p.toNat, 1), (x.toNat, 0)])
  | .sqrtF32 d a p x => some (encodeFields [(0x08, 26), (2, 5), (d.toNat, 19), (a.toNat, 12), (p.toNat, 1), (x.toNat, 0)])
  | .rcpF32 d a p x => some (encodeFields [(0x08, 26), (3, 5), (d.toNat, 19), (a.toNat, 12), (p.toNat, 1), (x.toNat, 0)])
  | .rsqF32 d a p x => some (encodeFields [(0x08, 26), (4, 5), (d.toNat, 19), (a.toNat, 12), (p.toNat, 1), (x.toNat, 0)])
  | .exp2F32 d a p x => some (encodeFields [(0x08, 26), (5, 5), (d.toNat, 19), (a.toNat, 12), (p.toNat, 1), (x.toNat, 0)])
  | .log2F32 d a p x => some (encodeFields [(0x08, 26), (6, 5), (d.toNat, 19), (a.toNat, 12), (p.toNat, 1), (x.toNat, 0)])
  | .floorF32 d a p x => some (encodeFields [(0x08, 26), (7, 5), (d.toNat, 19), (a.toNat, 12), (p.toNat, 1), (x.toNat, 0)])
  | .ceilF32 d a p x => some (encodeFields [(0x08, 26), (8, 5), (d.toNat, 19), (a.toNat, 12), (p.toNat, 1), (x.toNat, 0)])
  | .rintF32 d a p x => some (encodeFields [(0x08, 26), (9, 5), (d.toNat, 19), (a.toNat, 12), (p.toNat, 1), (x.toNat, 0)])
  | .truncF32 d a p x => some (encodeFields [(0x08, 26), (10, 5), (d.toNat, 19), (a.toNat, 12), (p.toNat, 1), (x.toNat, 0)])
  | .fcvtBf16F32 d a p x => some (encodeFields [(0x10, 26), (d.toNat, 19), (a.toNat, 12), (p.toNat, 1), (x.toNat, 0)])
  | .fcvtF16F32 d a p x => some (encodeFields [(0x10, 26), (1, 5), (d.toNat, 19), (a.toNat, 12), (p.toNat, 1), (x.toNat, 0)])
  | .fcvtF32Bf16 d a p x => some (encodeFields [(0x10, 26), (2, 5), (d.toNat, 19), (a.toNat, 12), (p.toNat, 1), (x.toNat, 0)])
  | .fcvtF32F16 d a p x => some (encodeFields [(0x10, 26), (3, 5), (d.toNat, 19), (a.toNat, 12), (p.toNat, 1), (x.toNat, 0)])
  | .fcvtF64F32 d a p x => some (encodeFields [(0x10, 26), (4, 5), (d.toNat, 19), (a.toNat, 12), (p.toNat, 1), (x.toNat, 0)])
  | .fcvtF32F64 d a p x => some (encodeFields [(0x10, 26), (5, 5), (d.toNat, 19), (a.toNat, 12), (p.toNat, 1), (x.toNat, 0)])
  | .fcvtI32F32 d a p x => some (encodeFields [(0x10, 26), (6, 5), (d.toNat, 19), (a.toNat, 12), (p.toNat, 1), (x.toNat, 0)])
  | .fcvtF32I32 d a p x => some (encodeFields [(0x10, 26), (7, 5), (d.toNat, 19), (a.toNat, 12), (p.toNat, 1), (x.toNat, 0)])
  | .fcvtI64F64 d a p x => some (encodeFields [(0x10, 26), (8, 5), (d.toNat, 19), (a.toNat, 12), (p.toNat, 1), (x.toNat, 0)])
  | .fcvtF64I64 d a p x => some (encodeFields [(0x10, 26), (9, 5), (d.toNat, 19), (a.toNat, 12), (p.toNat, 1), (x.toNat, 0)])
  | .fcvtI32F32Rtz d a p x => some (encodeFields [(0x10, 26), (10, 5), (d.toNat, 19), (a.toNat, 12), (p.toNat, 1), (x.toNat, 0)])
  | .iadd d a b p x => some (encodeFields [(0x20, 26), (d.toNat, 19), (a.toNat, 12), (b.toNat, 5), (p.toNat, 1), (x.toNat, 0)])
  | .isub d a b p x => some (encodeFields [(0x21, 26), (d.toNat, 19), (a.toNat, 12), (b.toNat, 5), (p.toNat, 1), (x.toNat, 0)])
  | .imul d a b p x => some (encodeFields [(0x22, 26), (d.toNat, 19), (a.toNat, 12), (b.toNat, 5), (p.toNat, 1), (x.toNat, 0)])
  | .imin d a b p x => some (encodeFields [(0x23, 26), (d.toNat, 19), (a.toNat, 12), (b.toNat, 5), (p.toNat, 1), (x.toNat, 0)])
  | .imax d a b p x => some (encodeFields [(0x24, 26), (d.toNat, 19), (a.toNat, 12), (b.toNat, 5), (p.toNat, 1), (x.toNat, 0)])
  | .iminu d a b p x => some (encodeFields [(0x25, 26), (d.toNat, 19), (a.toNat, 12), (b.toNat, 5), (p.toNat, 1), (x.toNat, 0)])
  | .imaxu d a b p x => some (encodeFields [(0x26, 26), (d.toNat, 19), (a.toNat, 12), (b.toNat, 5), (p.toNat, 1), (x.toNat, 0)])
  | .iand d a b p x => some (encodeFields [(0x27, 26), (d.toNat, 19), (a.toNat, 12), (b.toNat, 5), (p.toNat, 1), (x.toNat, 0)])
  | .ior d a b p x => some (encodeFields [(0x28, 26), (d.toNat, 19), (a.toNat, 12), (b.toNat, 5), (p.toNat, 1), (x.toNat, 0)])
  | .ixor d a b p x => some (encodeFields [(0x29, 26), (d.toNat, 19), (a.toNat, 12), (b.toNat, 5), (p.toNat, 1), (x.toNat, 0)])
  | .ishl d a b p x => some (encodeFields [(0x2A, 26), (d.toNat, 19), (a.toNat, 12), (b.toNat, 5), (p.toNat, 1), (x.toNat, 0)])
  | .ishr d a b p x => some (encodeFields [(0x2B, 26), (d.toNat, 19), (a.toNat, 12), (b.toNat, 5), (p.toNat, 1), (x.toNat, 0)])
  | .isar d a b p x => some (encodeFields [(0x2C, 26), (d.toNat, 19), (a.toNat, 12), (b.toNat, 5), (p.toNat, 1), (x.toNat, 0)])
  | .icmp c k a b p x => some (encodeFields [(0x2D, 26), (c.toNat, 23), (k.toNat, 19), (a.toNat, 12), (b.toNat, 5), (p.toNat, 1), (x.toNat, 0)])
  | .vmov d a p x => some (encodeFields [(0x30, 26), (d.toNat, 19), (a.toNat, 12), (p.toNat, 1), (x.toNat, 0)])
  | .vsel d a b k x => some (encodeFields [(0x31, 26), (d.toNat, 19), (a.toNat, 12), (b.toNat, 5), (k.toNat, 1), (x.toNat, 0)])
  | .vperm d a b p x => some (encodeFields [(0x32, 26), (d.toNat, 19), (a.toNat, 12), (b.toNat, 5), (p.toNat, 1), (x.toNat, 0)])
  | .vbcast d a l p x => some (encodeFields [(0x33, 26), (d.toNat, 19), (a.toNat, 12), (l.toNat, 5), (p.toNat, 1), (x.toNat, 0)])
  | .vbcastD d a e p x => some (encodeFields [(0x33, 26), (2, 8), (d.toNat, 19), (a.toNat, 12), (e.toNat, 5), (p.toNat, 1), (x.toNat, 0)])
  | .vbcastScalar d a p => some (encodeFields [(0x33, 26), (64, 5), (d.toNat, 19), (a.toNat, 12), (p.toNat, 1)])
  | .vbcastDScalar d a p => some (encodeFields [(0x33, 26), (80, 5), (d.toNat, 19), (a.toNat, 12), (p.toNat, 1)])
  | .vext d a b k x => some (encodeFields [(0x34, 26), (d.toNat, 19), (a.toNat, 12), (b.toNat, 5), (k.toNat, 1), (x.toNat, 0)])
  | .vredFaddF32 d a p x => some (encodeFields [(0x35, 26), (d.toNat, 19), (a.toNat, 12), (p.toNat, 1), (x.toNat, 0)])
  | .vredFmaxF32 d a p x => some (encodeFields [(0x35, 26), (1, 5), (d.toNat, 19), (a.toNat, 12), (p.toNat, 1), (x.toNat, 0)])
  | .vredFminF32 d a p x => some (encodeFields [(0x35, 26), (2, 5), (d.toNat, 19), (a.toNat, 12), (p.toNat, 1), (x.toNat, 0)])
  | .vredIadd d a p x => some (encodeFields [(0x35, 26), (3, 5), (d.toNat, 19), (a.toNat, 12), (p.toNat, 1), (x.toNat, 0)])
  | .vredImax d a p x => some (encodeFields [(0x35, 26), (4, 5), (d.toNat, 19), (a.toNat, 12), (p.toNat, 1), (x.toNat, 0)])
  | .vredImin d a p x => some (encodeFields [(0x35, 26), (5, 5), (d.toNat, 19), (a.toNat, 12), (p.toNat, 1), (x.toNat, 0)])
  | .vredFaddF64 d a p x => some (encodeFields [(0x35, 26), (6, 5), (d.toNat, 19), (a.toNat, 12), (p.toNat, 1), (x.toNat, 0)])
  | .viota d k p => some (encodeFields [(0x36, 26), (d.toNat, 19), (k.toNat, 12), (p.toNat, 1)])
  | .vplanePack d a h n x => some (encodeFields [(0x37, 26), (d.toNat, 19), (a.toNat, 12), (h.toNat, 10), (n.toNat, 5), (x.toNat, 0)])
  | .vplaneUnpack d a h n x => some (encodeFields [(0x37, 26), (1, 11), (d.toNat, 19), (a.toNat, 12), (h.toNat, 10), (n.toNat, 5), (x.toNat, 0)])
  | .pand d a b p => some (encodeFields [(0x38, 26), (d.toNat, 19), (a.toNat, 12), (b.toNat, 5), (p.toNat, 1)])
  | .por d a b p => some (encodeFields [(0x38, 26), (1, 23), (d.toNat, 19), (a.toNat, 12), (b.toNat, 5), (p.toNat, 1)])
  | .pxor d a b p => some (encodeFields [(0x38, 26), (2, 23), (d.toNat, 19), (a.toNat, 12), (b.toNat, 5), (p.toNat, 1)])
  | .pandn d a b p => some (encodeFields [(0x38, 26), (3, 23), (d.toNat, 19), (a.toNat, 12), (b.toNat, 5), (p.toNat, 1)])
  | .pnot d a p => some (encodeFields [(0x38, 26), (4, 23), (d.toNat, 19), (a.toNat, 12), (p.toNat, 1)])
  | .pmov d a p => some (encodeFields [(0x38, 26), (5, 23), (d.toNat, 19), (a.toNat, 12), (p.toNat, 1)])
  | .pset d p => some (encodeFields [(0x38, 26), (6, 23), (d.toNat, 19), (p.toNat, 1)])
  | .pclr d p => some (encodeFields [(0x38, 26), (7, 23), (d.toNat, 19), (p.toNat, 1)])
  | .pcnt d k p => some (encodeFields [(0x39, 26), (d.toNat, 19), (k.toNat, 12), (p.toNat, 1)])
  | .ld d b s i => some (encodeFields [(0x01, 26), (d.toNat, 19), (b.toNat, 13), (s.toNat, 11), (i.toNat, 0)])
  | .ldz d b s i => some (encodeFields [(0x02, 26), (d.toNat, 19), (b.toNat, 13), (s.toNat, 11), (i.toNat, 0)])
  | .st d b s i => some (encodeFields [(0x03, 26), (d.toNat, 19), (b.toNat, 13), (s.toNat, 11), (i.toNat, 0)])
  | .vld d b i => some (encodeFields [(0x04, 26), (d.toNat, 19), (b.toNat, 13), (i.toNat, 0)])
  | .vst d b i => some (encodeFields [(0x05, 26), (d.toNat, 19), (b.toNat, 13), (i.toNat, 0)])
  | .vlds d b x i => some (encodeFields [(0x06, 26), (d.toNat, 19), (b.toNat, 13), (x.toNat, 7), (i.toNat, 0)])
  | .vsts d b x i => some (encodeFields [(0x07, 26), (d.toNat, 19), (b.toNat, 13), (x.toNat, 7), (i.toNat, 0)])
  | .vgth d b x s => some (encodeFields [(0x08, 26), (d.toNat, 19), (b.toNat, 13), (x.toNat, 7), (s.toNat, 0)])
  | .vsct d b x s => some (encodeFields [(0x09, 26), (d.toNat, 19), (b.toNat, 13), (x.toNat, 7), (s.toNat, 0)])
  | .fil d b s i => some (encodeFields [(0x0A, 26), (d.toNat, 19), (b.toNat, 13), (s.toNat, 11), (i.toNat, 0)])
  | .spl d b s i => some (encodeFields [(0x0B, 26), (d.toNat, 19), (b.toNat, 13), (s.toNat, 11), (i.toNat, 0)])
  | .vfil d b i => some (encodeFields [(0x0C, 26), (d.toNat, 19), (b.toNat, 13), (i.toNat, 0)])
  | .vspl d b i => some (encodeFields [(0x0D, 26), (d.toNat, 19), (b.toNat, 13), (i.toNat, 0)])
  | .oclaim k d f => some (encodeFields [(0x10, 26), (k.toNat, 19), (d.toNat, 13), (f.toNat, 0)])
  | .orelease k => some (encodeFields [(0x11, 26), (k.toNat, 19)])
  | .ofill k b x => some (encodeFields [(0x12, 26), (k.toNat, 19), (b.toNat, 13), (x.toNat, 7)])
  | .ostat d k => some (encodeFields [(0x13, 26), (d.toNat, 19), (k.toNat, 0)])
  | .scld b s i => some (encodeFields [(0x14, 26), (b.toNat, 13), (s.toNat, 11), (i.toNat, 0)])
  | .bfmt d a n => some (encodeFields [(0x15, 26), (d.toNat, 19), (a.toNat, 7), (n.toNat, 0)])
  | .aadd d b x u s => some (encodeFields [(0x18, 26), (d.toNat, 19), (b.toNat, 13), (x.toNat, 7), (u.toNat, 2), (s.toNat, 0)])
  | .amin d b x u s => some (encodeFields [(0x19, 26), (d.toNat, 19), (b.toNat, 13), (x.toNat, 7), (u.toNat, 2), (s.toNat, 0)])
  | .amax d b x u s => some (encodeFields [(0x1A, 26), (d.toNat, 19), (b.toNat, 13), (x.toNat, 7), (u.toNat, 2), (s.toNat, 0)])
  | .aand d b x u s => some (encodeFields [(0x1B, 26), (d.toNat, 19), (b.toNat, 13), (x.toNat, 7), (u.toNat, 2), (s.toNat, 0)])
  | .aor d b x u s => some (encodeFields [(0x1C, 26), (d.toNat, 19), (b.toNat, 13), (x.toNat, 7), (u.toNat, 2), (s.toNat, 0)])
  | .axchg d b x u s => some (encodeFields [(0x1D, 26), (d.toNat, 19), (b.toNat, 13), (x.toNat, 7), (u.toNat, 2), (s.toNat, 0)])
  | .acas d b x u s => some (encodeFields [(0x1E, 26), (d.toNat, 19), (b.toNat, 13), (x.toNat, 7), (u.toNat, 2), (s.toNat, 0)])
  | .aaddf d b x s => some (encodeFields [(0x1F, 26), (d.toNat, 19), (b.toNat, 13), (x.toNat, 7), (s.toNat, 0)])
  | .fencePackage => some (encodeFields [(0x20, 26), (1, 0)])
  | .fenceSystem => some (encodeFields [(0x20, 26), (2, 0)])
  | .fencex e l => some (encodeFields [(0x21, 26), (e.toNat, 19), (l.toNat, 0)])
  | .mset a m => some (encodeFields [(0x01, 26), (a.toNat, 20), (m.toNat, 0)])
  | .mma c a b z s => some (encodeFields [(0x02, 26), (c.toNat, 23), (a.toNat, 19), (b.toNat, 15), (z.toNat, 10), (s.toNat, 9)])
  | .mmas c a b m z s => some (encodeFields [(0x03, 26), (c.toNat, 23), (a.toNat, 19), (b.toNat, 15), (m.toNat, 11), (z.toNat, 10), (s.toNat, 9)])
  | .mret c a d f k => some (encodeFields [(0x04, 26), (c.toNat, 23), (a.toNat, 17), (d.toNat, 11), (f.toNat, 7), (k.toNat, 6)])
  | .mretv c v d f k => some (encodeFields [(0x05, 26), (c.toNat, 23), (v.toNat, 17), (d.toNat, 11), (f.toNat, 7), (k.toNat, 6)])
  | .mzero c => some (encodeFields [(0x06, 26), (c.toNat, 23)])
  | .mdrain => some (encodeFields [(0x07, 26)])
  | .mlda c a => some (encodeFields [(0x08, 26), (c.toNat, 23), (a.toNat, 17)])
  | .msta c a => some (encodeFields [(0x09, 26), (c.toNat, 23), (a.toNat, 17)])
  | .rfwd d a => some (encodeFields [(0x0A, 26), (d.toNat, 19), (a.toNat, 12)])
  | .rrev d h r c => some (encodeFields [(0x0B, 26), (d.toNat, 19), (h.toNat, 18), (r.toNat, 12), (c.toNat, 5)])
  | .rchk d a l => some (encodeFields [(0x0C, 26), (d.toNat, 19), (a.toNat, 12), (l.toNat, 5)])
  | .mchanScrub => some (encodeFields [(0x0D, 26)])
  | .mchanThresh a => some (encodeFields [(0x0D, 26), (65536, 0), (a.toNat, 20)])
  | .mchanClear a => some (encodeFields [(0x0D, 26), (131072, 0), (a.toNat, 20)])
  | .mchanFail a s => some (encodeFields [(0x0D, 26), (6144, 5), (a.toNat, 20), (s.toNat, 0)])
  | .minj a w c h => some (encodeFields [(0x0E, 26), (a.toNat, 20), (w.toNat, 8), (c.toNat, 5), (h.toNat, 0)])
  | .cset q f a => some (encodeFields [(0x01, 26), (q.toNat, 24), (f.toNat, 18), (a.toNat, 12)])
  | .cshape q a => some (encodeFields [(0x02, 26), (q.toNat, 24), (a.toNat, 12)])
  | .cgo q a b => some (encodeFields [(0x03, 26), (q.toNat, 24), (a.toNat, 12), (b.toNat, 6)])
  | .cwp q d a => some (encodeFields [(0x04, 26), (q.toNat, 24), (d.toNat, 18), (a.toNat, 12)])
  | .cwait q d => some (encodeFields [(0x05, 26), (q.toNat, 24), (d.toNat, 18)])
  | .crec q d => some (encodeFields [(0x06, 26), (q.toNat, 24), (d.toNat, 18)])
  | .ccan a => some (encodeFields [(0x07, 26), (a.toNat, 12)])
  | .fork a => some (encodeFields [(0x01, 26), (a.toNat, 13)])
  | .join d a => some (encodeFields [(0x02, 26), (d.toNat, 19), (a.toNat, 13)])
  | .next d => some (encodeFields [(0x03, 26), (d.toNat, 19)])
  | .yield => some (encodeFields [(0x04, 26)])
  | .watch d a b t => some (encodeFields [(0x05, 26), (d.toNat, 19), (a.toNat, 13), (b.toNat, 7), (t.toNat, 0)])
  | .bara n => some (encodeFields [(0x08, 26), (n.toNat, 0)])
  | .barw d a n => some (encodeFields [(0x09, 26), (d.toNat, 19), (a.toNat, 13), (n.toNat, 0)])
  | .bari a n => some (encodeFields [(0x0A, 26), (a.toNat, 13), (n.toNat, 0)])
  | .xenq d a b => some (encodeFields [(0x10, 26), (d.toNat, 19), (a.toNat, 13), (b.toNat, 7)])
  | .xcfgLoad d a b => some (encodeFields [(0x11, 26), (d.toNat, 19), (a.toNat, 13), (b.toNat, 7)])
  | .xcfgHalt d a => some (encodeFields [(0x11, 26), (1, 0), (d.toNat, 19), (a.toNat, 13)])
  | .xcfgResume d a => some (encodeFields [(0x11, 26), (2, 0), (d.toNat, 19), (a.toNat, 13)])
  | .xcfgPurge d a => some (encodeFields [(0x11, 26), (3, 0), (d.toNat, 19), (a.toNat, 13)])
  | .xcfgOff d a => some (encodeFields [(0x11, 26), (4, 0), (d.toNat, 19), (a.toNat, 13)])
  | .xstat d a f => some (encodeFields [(0x12, 26), (d.toNat, 19), (a.toNat, 13), (f.toNat, 0)])
  | .xdisp d a => some (encodeFields [(0x13, 26), (d.toNat, 19), (a.toNat, 13)])
  | .xpref a b l => some (encodeFields [(0x14, 26), (a.toNat, 13), (b.toNat, 7), (l.toNat, 0)])
  | .xcan a => some (encodeFields [(0x15, 26), (a.toNat, 13)])
  | .tcreate d a => some (encodeFields [(0x18, 26), (d.toNat, 19), (a.toNat, 13)])
  | .tdestroy d a => some (encodeFields [(0x19, 26), (d.toNat, 19), (a.toNat, 13)])
  | .tedit d a b => some (encodeFields [(0x1A, 26), (d.toNat, 19), (a.toNat, 13), (b.toNat, 7)])
  | .tpost a b => some (encodeFields [(0x1B, 26), (a.toNat, 13), (b.toNat, 7)])
  | .twait d a => some (encodeFields [(0x1C, 26), (d.toNat, 19), (a.toNat, 13)])
  | .tfreeze d a => some (encodeFields [(0x1D, 26), (d.toNat, 19), (a.toNat, 13)])
  | .tsave d a b => some (encodeFields [(0x1E, 26), (d.toNat, 19), (a.toNat, 13), (b.toNat, 7)])
  | .trestore d a b => some (encodeFields [(0x1F, 26), (d.toNat, 19), (a.toNat, 13), (b.toNat, 7)])
  | .tqry d a f => some (encodeFields [(0x20, 26), (d.toNat, 19), (a.toNat, 13), (f.toNat, 0)])
  | .rld d a => some (encodeFields [(0x24, 26), (d.toNat, 20), (a.toNat, 14)])
  | .rst d a => some (encodeFields [(0x25, 26), (d.toNat, 20), (a.toNat, 14)])
  | .ratom d a b u z o => some (encodeFields [(0x26, 26), (d.toNat, 19), (a.toNat, 14), (b.toNat, 7), (u.toNat, 5), (z.toNat, 3), (o.toNat, 0)])
  | .rfence d a => some (encodeFields [(0x27, 26), (d.toNat, 19), (a.toNat, 13)])
  | .rfenceAll d => some (encodeFields [(0x27, 26), (1, 0), (d.toNat, 19)])
  | .fsend d a => some (encodeFields [(0x28, 26), (d.toNat, 19), (a.toNat, 13)])
  | .fclk d a f => some (encodeFields [(0x29, 26), (d.toNat, 19), (a.toNat, 13), (f.toNat, 0)])
  | .hsig a v => some (encodeFields [(0x30, 26), (a.toNat, 13), (v.toNat, 0)])
  | .rgnctlCreate a b => some (encodeFields [(0x31, 26), (a.toNat, 13), (b.toNat, 7)])
  | .rgnctlDestroy a b => some (encodeFields [(0x31, 26), (1, 0), (a.toNat, 13), (b.toNat, 7)])
  | .rgnctlLaunch a b => some (encodeFields [(0x31, 26), (2, 0), (a.toNat, 13), (b.toNat, 7)])
  | .rgnctlPreempt a b => some (encodeFields [(0x31, 26), (3, 0), (a.toNat, 13), (b.toNat, 7)])
  | .rgnctlPark a b => some (encodeFields [(0x31, 26), (4, 0), (a.toNat, 13), (b.toNat, 7)])
  | .rgnctlResume a b => some (encodeFields [(0x31, 26), (5, 0), (a.toNat, 13), (b.toNat, 7)])
  | .rgnctlKill a b => some (encodeFields [(0x31, 26), (6, 0), (a.toNat, 13), (b.toNat, 7)])
  | .rgnctlReload a b => some (encodeFields [(0x31, 26), (7, 0), (a.toNat, 13), (b.toNat, 7)])
  | .rgnctlQuery a b => some (encodeFields [(0x31, 26), (8, 0), (a.toNat, 13), (b.toNat, 7)])
  | .xlinv d a b => some (encodeFields [(0x32, 26), (d.toNat, 19), (a.toNat, 13), (b.toNat, 7)])
  | .xlinvForce d a b => some (encodeFields [(0x32, 26), (1, 0), (d.toNat, 19), (a.toNat, 13), (b.toNat, 7)])
  | .xlpin d a b => some (encodeFields [(0x33, 26), (d.toNat, 19), (a.toNat, 13), (b.toNat, 7)])
  | .xlunpin d a b => some (encodeFields [(0x34, 26), (d.toNat, 19), (a.toNat, 13), (b.toNat, 7)])
  | .idleBundle => none
  | .ofillRow => none
  | .msetExecute => none
  | .kstepStart => none
  | .kstepMerge => none
  | .retirement => none
  | .mzeroExecute => none
  | .mldaExecute => none
  | .mstaExecute => none
  | .mchanExecute => none
  | .minjExecute => none
  | .copyRecordRead => none
  | .selectTileRead => none
  | .copySectorWrite => none
  | .copyFaultResolved => none
  | .followOnPresent => none
  | .copyCompletion => none
  | .watchTimeout => none
  | .xprefUnit => none
  | .sumpAdmit => none
  | .sumpAgeDue => none
  | .firingDecision => none
  | .treeSourceRead => none
  | .treeChunkArrive => none
  | .treeSlotRefill => none
  | .treeReplicate => none
  | .treeDelivery => none
  | .treeDataError => none
  | .resultArrival => none
  | .holdSuspend => none
  | .replayEntryInject => none
  | .trapAction => none
  | .replayResume => none
  | .forwardDelivery => none
  | .preemptRequest => none
  | .freeze => none
  | .lateFreeze => none
  | .taskSave => none
  | .taskRestore => none
  | .taskPlacement => none
  | .quantumExpiry => none
  | .joinRelief => none
  | .tileRefill => none
  | .controlDiverge => none
  | .lsAccessSend => none
  | .pageWalk => none
  | .pclkTick => none
  | .pclkRaise => none
  | .taskClockTick => none
  | .l2Eviction => none
  | .backInvalidationResponse => none
  | .hostRead => none
  | .hostWrite => none
  | .faultSlotOpen => none
  | .faultDisposition => none
  | .remoteRequest => none
  | .remoteErrorReply => none
  | .remoteUnreachable => none
  | .sendFlit => none
  | .sendLinePerform => none
  | .snoteAdd => none
  | .flitReceive => none
  | .stopGoSignal => none
  | .wavelengthWindow => none
  | .retrainTrigger => none
  | .stripeSwitch => none
  | .wavelengthWithdraw => none
  | .retrainAdaptationEnd => none
  | .retrainTestEnd => none
  | .wavelengthHandback => none
  | .slotBoundary => none
  | .guardEnd => none
  | .windowClose => none
  | .transitReinject => none
  | .ftimeLock => none
  | .lockLoss => none
  | .slotTable => none
  | .tableActivation => none
  | .packageIdentifier => none
  | .peerTable => none
  | .launch => none
  | .createRoot => none
  | .controlDestroy => none
  | .controlLaunch => none
  | .controlPreempt => none
  | .controlPark => none
  | .controlResume => none
  | .controlKill => none
  | .controlReload => none
  | .paramPtroot => none
  | .paramFqbase => none
  | .paramTtbase => none
  | .paramLease => none
  | .paramEvqbase => none
  | .paramEvqlen => none
  | .paramErrbase => none
  | .paramErrlen => none
  | .paramSevmat => none
  | .paramPcap => none
  | .resync => none
  | .reset => none
  | .checkpoint => none
  | .restore => none
  | .attest => none
  | .registerWrite => none
  | .moduleBoot => none
  | .recoveryImage => none
  | .capBroadcast => none
  | .rankSet => none
  | .clockLimit => none
  | .linkRetry => none
  | .linkDown => none
  | .clusterFailure => none
  | .memoryError => none
  | .redunCompare => none
  | .linkRecovery => none
  | .hostWriteCompletion => none
  | .remoteAcknowledgement => none
  | .regulatorPhaseFailure => none
  | .ownCap => none

/-- A slot in which an instruction may stand: SA for the scalar and control ones, VA for the vector ones. -/
def Instr.homeSlot (i : Instr) : Option Slot :=
  match i.slotKind with
  | .any | .scalar | .control => some .sa
  | .vector => some .va
  | .ls => some .ls
  | .mx => some .mx
  | .cp => some .cp
  | .nw => some .nw
  | .event => none

/-- The first slot, in the order SA, VA, LS, MX, CP, NW, whose map takes a word, with its instruction
(notes/assumptions/3: a bare word has no slot, so the order is the model's). -/
def firstSlot (w : BitVec 32) : Option (Slot × Instr) :=
  [Slot.sa, .va, .ls, .mx, .cp, .nw].findSome? fun sl =>
    match decodeSlot sl w with
    | .ok i => some (sl, i)
    | .error _ => none

/-- The instruction the decoder reads from a table word of `nbits` bits (bit 0 least significant). -/
def decodeTableWord (nbits w : Nat) : Option Instr :=
  if nbits = 32 then (firstSlot (BitVec.ofNat 32 w)).map (·.2) else none

end Sys2Proof
end

