-- ==== Sys2Proof/Machine/Tab.lean ====
section
/-! DEFINITION. Tables as plain data: a list of (key, value) pairs in strictly rising key order.
The machine's memory is such a table of bytes that lists no byte equal to what an unlisted address reads as
(notes/assumptions/8). -/

namespace Sys2Proof.Machine

/-- A table: pairs in strictly rising key order. -/
abbrev Tab (α : Type) := List (Nat × α)

/-- The value listed at a key. -/
def tabFind {α : Type} (t : Tab α) (k : Nat) : Option α :=
  match t with
  | [] => none
  | (j, v) :: r => if j = k then some v else tabFind r k

/-- The value at a key, or the default where the table lists none. -/
def tabGet {α : Type} (t : Tab α) (d : α) (k : Nat) : α :=
  (tabFind t k).getD d

/-- The table with one key set. -/
def tabPut {α : Type} (t : Tab α) (k : Nat) (v : α) : Tab α :=
  match t with
  | [] => [(k, v)]
  | (j, w) :: r => if k < j then (k, v) :: (j, w) :: r else if j = k then (k, v) :: r else (j, w) :: tabPut r k v

/-- The table with one key no longer listed. -/
def tabDel {α : Type} (t : Tab α) (k : Nat) : Tab α :=
  match t with
  | [] => []
  | (j, w) :: r => if j = k then tabDel r k else (j, w) :: tabDel r k

/-- The table with one key set to a value, unlisted when the value is the default. -/
def tabSet {α : Type} [DecidableEq α] (t : Tab α) (d : α) (k : Nat) (v : α) : Tab α :=
  if v = d then tabDel t k else tabPut t k v

/-- The keys rise strictly. -/
def tabSorted {α : Type} (t : Tab α) : Bool :=
  match t with
  | [] => true
  | [_] => true
  | (a, _) :: (b, w) :: r => decide (a < b) && tabSorted ((b, w) :: r)

/-- Memory: one byte per listed location, in the canonical form of `Memory.wf`. -/
abbrev Memory := List Host.Cell

/-- What a location that nothing has written reads as (notes/assumptions/8: DESIGN CHOICE, unsafe). -/
def blankByte : Byte := 0

/-- The canonical form of a memory: locations strictly rising, no byte equal to `blankByte`. -/
def Memory.wf (m : Memory) : Bool :=
  tabSorted m && m.all (fun c => decide (c.2 ≠ blankByte))

/-- One byte of memory. -/
def memByte (m : Memory) (a : Nat) : Byte := tabGet m blankByte a

/-- Memory with one byte written. -/
def memPut (m : Memory) (a : Nat) (b : Byte) : Memory := tabSet m blankByte a b

/-- The `n` bytes from a location upwards. -/
def memBytes (m : Memory) (a n : Nat) : List Byte :=
  match n with
  | 0 => []
  | k + 1 => memByte m a :: memBytes m (a + 1) k

/-- Memory with bytes written from a location upwards. -/
def memPutBytes (m : Memory) (a : Nat) (bs : List Byte) : Memory :=
  match bs with
  | [] => m
  | b :: r => memPutBytes (memPut m a b) (a + 1) r

/-- Bytes as a number, the first the least significant (00 R1). -/
def leNat (bs : List Byte) : Nat :=
  match bs with
  | [] => 0
  | b :: r => b.toNat + 256 * leNat r

/-- The `n` bytes of a number, the least significant first (00 R1). -/
def natLe (n v : Nat) : List Byte :=
  match n with
  | 0 => []
  | k + 1 => BitVec.ofNat 8 v :: natLe k (v / 256)

/-- A little-endian number in memory (00 R1). -/
def memNat (m : Memory) (a n : Nat) : Nat := leNat (memBytes m a n)

end Sys2Proof.Machine
end

