-- ==== Sys2Proof/Machine/Hash.lean ====
section
/-! DEFINITION. SHAKE256 (FIPS 202) and CRC-32 (IEEE 802.3, reflected), which 08 R245 and 13 R399-R418 name. -/

namespace Sys2Proof.Machine

/-- The bits of the feedback register x^8 + x^6 + x^5 + x^4 + 1 from a state on: the round constants are made of them. -/
def feedbackBits : Nat → Nat → List Bool
  | 0, _ => []
  | n + 1, r => (r % 2 == 1) :: feedbackBits n (if r < 128 then 2 * r else (2 * r) ^^^ 0x171)

/-- A round's constant from its seven bits: the j-th stands at place 2^j - 1. -/
def roundConst (bs : List Bool) : Nat := (bs.zip (List.range 7)).foldl (fun n x => if x.1 then n + 2 ^ (2 ^ x.2 - 1) else n) 0

/-- The constants of `n` rounds. -/
def roundConsts : Nat → List Bool → List Nat
  | 0, _ => []
  | n + 1, bs => roundConst (bs.take 7) :: roundConsts n (bs.drop 7)

/-- A 64-bit rotation to the left. -/
def rotl64 (x n : Nat) : Nat := x * 2 ^ n % 2 ^ 64 + x / 2 ^ (64 - n)

/-- Lane (x, y) of the 5 by 5 array. -/
def laneAt (a : List Nat) (x y : Nat) : Nat := a.getD (x % 5 + 5 * (y % 5)) 0

/-- The array of a function of the lanes. -/
def lanesBy (f : Nat → Nat → Nat) : List Nat := (List.range 25).map fun i => f (i % 5) (i / 5)

/-- theta: every lane takes the parities of two columns beside its own. -/
def mixColumns (a : List Nat) : List Nat :=
  let ps := (List.range 5).map fun x => (List.range 5).foldl (fun p y => p ^^^ laneAt a x y) 0
  lanesBy fun x y => laneAt a x y ^^^ ps.getD ((x + 4) % 5) 0 ^^^ rotl64 (ps.getD ((x + 1) % 5) 0) 1

/-- rho and pi, as one walk over the 24 lanes beside the origin: the t-th is turned by t(t + 1)/2 and goes to the lane met next. -/
def walkLanes (a : List Nat) : Nat → Nat → Nat → Nat → List (Nat × Nat)
  | 0, _, _, _ => []
  | n + 1, t, x, y =>
    let y1 := (2 * x + 3 * y) % 5
    (y + 5 * y1, rotl64 (laneAt a x y) (t * (t + 1) / 2 % 64)) :: walkLanes a n (t + 1) y y1

/-- The array after the walk; the origin keeps its lane. -/
def turnLanes (a : List Nat) : List Nat :=
  let w := (0, laneAt a 0 0) :: walkLanes a 24 1 1 0
  (List.range 25).map fun i => ((w.find? fun p => p.1 == i).map Prod.snd).getD 0

/-- One round: theta, rho and pi, then chi, with the constant added at the origin. -/
def keccakRound (a : List Nat) (rc : Nat) : List Nat :=
  let b := turnLanes (mixColumns a)
  lanesBy fun x y =>
    (laneAt b x y ^^^ (laneAt b (x + 2) y - (laneAt b (x + 1) y &&& laneAt b (x + 2) y))) ^^^ (if x + y = 0 then rc else 0)

/-- The permutation: 24 rounds. -/
def keccakF (a : List Nat) : List Nat := (roundConsts 24 (feedbackBits 168 1)).foldl keccakRound a

/-- Eight bytes a lane. -/
def lanesOf : List Byte → Nat → List Nat
  | _, 0 => []
  | bs, n + 1 => leNat (bs.take 8) :: lanesOf (bs.drop 8) n

/-- A block absorbed. -/
def absorb (a : List Nat) (blk : List Byte) : List Nat :=
  keccakF ((a.zip (lanesOf blk 17 ++ List.replicate 8 0)).map fun p => p.1 ^^^ p.2)

/-- Every block of a padded message absorbed. -/
def absorbAll : Nat → List Nat → List Byte → List Nat
  | 0, a, _ => a
  | n + 1, a, bs => absorbAll n (absorb a (bs.take 136)) (bs.drop 136)

/-- Output blocks. -/
def squeeze : Nat → List Nat → List Byte
  | 0, _ => []
  | n + 1, a => ((a.take 17).foldr (fun l acc => natLe 8 l ++ acc) []) ++ squeeze n (keccakF a)

/-- SHAKE256 with n bytes of output. -/
def shake256 (msg : List Byte) (n : Nat) : List Byte :=
  let blocks := msg.length / 136 + 1
  let padLen := blocks * 136 - msg.length
  let pad : List Byte := if padLen = 1 then [0x9F] else 0x1F :: (List.replicate (padLen - 2) 0 ++ [0x80])
  (squeeze (n / 136 + 1) (absorbAll blocks (List.replicate 25 0) (msg ++ pad))).take n

/-- CRC-32 of one byte more. -/
def crcByte (c : Nat) (b : Byte) : Nat :=
  (List.range 8).foldl (fun c _ => if c % 2 = 1 then (c / 2) ^^^ 0xEDB88320 else c / 2) (c ^^^ b.toNat)

/-- CRC-32 of bytes (08 R244). -/
def crc32 (bs : List Byte) : Nat := (bs.foldl crcByte 0xFFFFFFFF) ^^^ 0xFFFFFFFF

end Sys2Proof.Machine
end

