-- ==== Sys2Proof/Machine/Flags.lean ====
section
/-! DEFINITION. Number formats, rounding and the floating-point flags (03 R67-R77; 04 R128-R133), in exact integer arithmetic.
Flags are the bits of FPFLAGS (01 R30): 16 invalid, 8 division by zero, 4 overflow, 2 underflow, 1 inexact. -/

namespace Sys2Proof.Machine

/-- A floating-point format (03 R67): width, exponent bits, fraction bits. -/
structure Fmt where
  w  : Nat
  eb : Nat
  fb : Nat
  deriving DecidableEq, Repr

def Fmt.f64 : Fmt := ⟨64, 11, 52⟩
def Fmt.f32 : Fmt := ⟨32, 8, 23⟩
def Fmt.f16 : Fmt := ⟨16, 5, 10⟩
def Fmt.bf16 : Fmt := ⟨16, 8, 7⟩

/-- Bias and largest exponent. -/
def Fmt.bias (f : Fmt) : Nat := 2 ^ (f.eb - 1) - 1
/-- Precision s. -/
def Fmt.prec (f : Fmt) : Nat := f.fb + 1
/-- Smallest normal exponent. -/
def Fmt.emin (f : Fmt) : Int := 1 - (f.bias : Int)
/-- Exponent field of infinities and NaNs. -/
def Fmt.eall (f : Fmt) : Nat := 2 ^ f.eb - 1
/-- The canonical quiet NaN (03 R67, R68). -/
def Fmt.nan (f : Fmt) : Nat := f.eall * 2 ^ f.fb + 2 ^ (f.fb - 1)
/-- An infinity. -/
def Fmt.inf (f : Fmt) (neg : Bool) : Nat := (if neg then 2 ^ (f.w - 1) else 0) + f.eall * 2 ^ f.fb
/-- A zero. -/
def Fmt.zero (f : Fmt) (neg : Bool) : Nat := if neg then 2 ^ (f.w - 1) else 0
/-- The largest finite value. -/
def Fmt.big (f : Fmt) (neg : Bool) : Nat := f.inf neg - 1

/-- A decoded value: finite values are (-1)^neg m 2^e. -/
inductive Fp where
  | nan (signalling : Bool)
  | inf (neg : Bool)
  | fin (neg : Bool) (m : Nat) (e : Int)
  deriving DecidableEq, Repr

/-- The value of an encoding (03 R67). -/
def Fmt.decode (f : Fmt) (b : Nat) : Fp :=
  let neg := b / 2 ^ (f.w - 1) % 2 == 1
  let ex := b / 2 ^ f.fb % 2 ^ f.eb
  let fr := b % 2 ^ f.fb
  if ex = f.eall then
    if fr = 0 then .inf neg else .nan (fr / 2 ^ (f.fb - 1) == 0)
  else if ex = 0 then .fin neg fr (f.emin - (f.fb : Int))
  else .fin neg (fr + 2 ^ f.fb) ((ex : Int) - f.bias - f.fb)

/-- Whether a truncated magnitude goes up: rounding mode 0 RNE, 1 RTZ, 2 RUP, 3 RDN (01 R30); lowest kept bit odd; the discarded
part compared with one half (-1, 0, 1) or exact zero. -/
def goesUp (rm : Nat) (neg odd : Bool) (rem half : Nat) : Bool :=
  if rem = 0 then false
  else match rm with
    | 0 => decide (half < rem) || (rem == half && odd)
    | 1 => false
    | 2 => !neg
    | _ => neg

/-- m 2^e rounded to the multiple of 2^q at or next to it: the multiple, and whether it is inexact. -/
def roundAt (rm : Nat) (neg : Bool) (m : Nat) (e q : Int) : Nat × Bool :=
  if q ≤ e then (m * 2 ^ (e - q).toNat, false)
  else
    let sh := (q - e).toNat
    let t := m / 2 ^ sh
    let r := m % 2 ^ sh
    (if goesUp rm neg (t % 2 == 1) r (2 ^ (sh - 1)) then t + 1 else t, r != 0)

/-- (-1)^neg m 2^e, m nonzero, rounded once into a format (03 R77; 04 R128): encoding and flags. `stick` adds a positive part
smaller than one unit of m. Tininess is detected after rounding. -/
def Fmt.round (f : Fmt) (rm : Nat) (neg : Bool) (m0 : Nat) (e0 : Int) (stick : Bool) : Nat × Nat :=
  let m := if stick then 2 * m0 + 1 else m0
  let e := if stick then e0 - 1 else e0
  let top : Int := (Nat.log2 m : Int) + e
  let q := max (top - f.fb) (f.emin - f.fb)
  let (t, nx) := roundAt rm neg m e q
  let enc := if t < 2 ^ f.fb then t else (q + f.fb + f.bias).toNat * 2 ^ f.fb + (t - 2 ^ f.fb)
  -- a carry out of the fraction lands in the exponent field of its own accord
  let tiny := decide (top < f.emin) && decide ((roundAt rm neg m e (top - f.fb)).1 < 2 ^ (f.emin - (top - f.fb)).toNat)
  let sgn := if neg then 2 ^ (f.w - 1) else 0
  if f.eall * 2 ^ f.fb ≤ enc then
    let toInf := rm == 0 || (rm == 2 && !neg) || (rm == 3 && neg)
    (if toInf then f.inf neg else f.big neg, 5)
  else (sgn + enc, (if nx then 1 else 0) + (if nx && tiny then 2 else 0))

/-- A finite value rounded into a format; zeros keep their sign. -/
def Fmt.ofFin (f : Fmt) (rm : Nat) (neg : Bool) (m : Nat) (e : Int) : Nat × Nat :=
  if m = 0 then (f.zero neg, 0) else f.round rm neg m e false

/-- An exact signed value n 2^e rounded into a format; an exact zero is +0, or -0 when rounding down (04 R128). -/
def Fmt.ofInt (f : Fmt) (rm : Nat) (n : Int) (e : Int) : Nat × Nat :=
  if n = 0 then (f.zero (rm == 3), 0) else f.round rm (decide (n < 0)) n.natAbs e false

/-- The signed integer of a finite magnitude. -/
def sgnInt (neg : Bool) (m : Nat) : Int := if neg then -(m : Int) else m

/-- m 2^e as a multiple of 2^q, q at most e. -/
def scaleInt (n : Int) (e q : Int) : Int := n * (2 ^ (e - q).toNat : Nat)

/-- Exact sum of two finite values, rounded once (04 R128); equal signs of two zeros are kept. -/
def Fmt.addFin (f : Fmt) (rm : Nat) (n1 : Bool) (m1 : Nat) (e1 : Int) (n2 : Bool) (m2 : Nat) (e2 : Int) : Nat × Nat :=
  if m1 = 0 ∧ m2 = 0 ∧ n1 = n2 then (f.zero n1, 0)
  else
    let q := min e1 e2
    f.ofInt rm (scaleInt (sgnInt n1 m1) e1 q + scaleInt (sgnInt n2 m2) e2 q) q

/-- A signalling NaN raises invalid (03 R68). -/
def Fp.snan : Fp → Bool
  | .nan g => g
  | _ => false
/-- A NaN. -/
def Fp.isNan : Fp → Bool
  | .nan _ => true
  | _ => false
/-- The sign. -/
def Fp.sign : Fp → Bool
  | .nan _ => false
  | .inf n => n
  | .fin n _ _ => n
/-- The value negated. -/
def Fp.neg : Fp → Fp
  | .nan g => .nan g
  | .inf n => .inf !n
  | .fin n m e => .fin (!n) m e

/-- Invalid flag. -/
def nvIf (b : Bool) : Nat := if b then 16 else 0

/-- Addition (04 R130). -/
def Fmt.add (f : Fmt) (rm : Nat) (a b : Fp) : Nat × Nat :=
  match a, b with
  | .nan _, _ => (f.nan, nvIf (a.snan || b.snan))
  | _, .nan _ => (f.nan, nvIf (a.snan || b.snan))
  | .inf n, .inf k => if n = k then (f.inf n, 0) else (f.nan, 16)
  | .inf n, _ => (f.inf n, 0)
  | _, .inf n => (f.inf n, 0)
  | .fin n1 m1 e1, .fin n2 m2 e2 => f.addFin rm n1 m1 e1 n2 m2 e2

/-- Multiplication (04 R130). -/
def Fmt.mul (f : Fmt) (rm : Nat) (a b : Fp) : Nat × Nat :=
  match a, b with
  | .nan _, _ => (f.nan, nvIf (a.snan || b.snan))
  | _, .nan _ => (f.nan, nvIf (a.snan || b.snan))
  | .inf n, .inf k => (f.inf (n != k), 0)
  | .inf n, .fin k m _ => if m = 0 then (f.nan, 16) else (f.inf (n != k), 0)
  | .fin k m _, .inf n => if m = 0 then (f.nan, 16) else (f.inf (n != k), 0)
  | .fin n1 m1 e1, .fin n2 m2 e2 => f.ofFin rm (n1 != n2) (m1 * m2) (e1 + e2)

/-- Infinity times zero. -/
def infZero : Fp → Fp → Bool
  | .inf _, .fin _ m _ => m == 0
  | .fin _ m _, .inf _ => m == 0
  | _, _ => false

/-- a + b x c with one rounding (04 R128, R130). -/
def Fmt.fma (f : Fmt) (rm : Nat) (a b c : Fp) : Nat × Nat :=
  if a.isNan || b.isNan || c.isNan || infZero b c then
    (f.nan, nvIf (a.snan || b.snan || c.snan || infZero b c))
  else
    let pn := b.sign != c.sign
    match b, c with
    | .fin _ m1 e1, .fin _ m2 e2 => f.add rm a (.fin pn (m1 * m2) (e1 + e2))
    | _, _ => f.add rm a (.inf pn)

/-- Order of two values that are no NaN; zeros are equal. -/
def fpLt : Fp → Fp → Bool
  | .inf n, .inf k => n && !k
  | .inf n, .fin _ _ _ => n
  | .fin _ _ _, .inf n => !n
  | .fin n1 m1 e1, .fin n2 m2 e2 =>
    decide (scaleInt (sgnInt n1 m1) e1 (min e1 e2) < scaleInt (sgnInt n2 m2) e2 (min e1 e2))
  | _, _ => false

/-- A zero. -/
def Fp.isZero : Fp → Bool
  | .fin _ m _ => m == 0
  | _ => false

/-- minimumNumber and maximumNumber on encodings (04 R130): -0 lies below +0. -/
def Fmt.minmax (f : Fmt) (wantMax : Bool) (x y : Nat) : Nat × Nat :=
  let a := f.decode x
  let b := f.decode y
  let fl := nvIf (a.snan || b.snan)
  if a.isNan && b.isNan then (f.nan, fl)
  else if a.isNan then (y, fl)
  else if b.isNan then (x, fl)
  else
    let aLess := fpLt a b || (a.isZero && b.isZero && a.sign && !b.sign)
    (if aLess != wantMax then x else y, fl)

/-- FCMP's conditions (04 R131): outcome and flags. -/
def Fmt.cmp (f : Fmt) (cond x y : Nat) : Bool × Nat :=
  let a := f.decode x
  let b := f.decode y
  let nan := a.isNan || b.isNan
  let quiet := cond < 2 || cond ≥ 6
  let fl := nvIf (if quiet then a.snan || b.snan else nan)
  let lt := !nan && fpLt a b
  let gt := !nan && fpLt b a
  let eq := !nan && !lt && !gt
  (match cond with
    | 0 => eq
    | 1 => !eq
    | 2 => lt
    | 3 => lt || eq
    | 4 => gt
    | 5 => gt || eq
    | 6 => nan
    | _ => !nan, fl)

/-! ### Square roots and functions (04 R132) -/

/-- Newton's descent to the integer square root, from above. -/
def isqrtFrom (n : Nat) : Nat → Nat → Nat
  | 0, x => x
  | k + 1, x => let y := (x + n / x) / 2
                if y < x then isqrtFrom n k y else x

/-- The integer square root. -/
def isqrt (n : Nat) : Nat := if n = 0 then 0 else isqrtFrom n (Nat.log2 n + 2) (2 ^ (Nat.log2 n / 2 + 1))

/-- Square root of m 2^e, m nonzero, with room for rounding: the root's truncated magnitude, its exponent, and whether
anything was cut. -/
def sqrtParts (m : Nat) (e : Int) : Nat × Int × Bool :=
  let sh : Nat := if e % 2 = 0 then 160 else 161
  let n := m * 2 ^ sh
  let r := isqrt n
  (r, (e - (sh : Int)) / 2, r * r != n)

/-- SQRT (04 R132). -/
def Fmt.sqrt (f : Fmt) (rm : Nat) (a : Fp) : Nat × Nat :=
  match a with
  | .nan g => (f.nan, nvIf g)
  | .inf n => if n then (f.nan, 16) else (f.inf false, 0)
  | .fin n m e =>
    if m = 0 then (f.zero n, 0)
    else if n then (f.nan, 16)
    else let (r, q, st) := sqrtParts m e
         f.round rm false r q st

/-- RCP (04 R132). -/
def Fmt.rcp (f : Fmt) (rm : Nat) (a : Fp) : Nat × Nat :=
  match a with
  | .nan g => (f.nan, nvIf g)
  | .inf n => (f.zero n, 0)
  | .fin n m e =>
    if m = 0 then (f.inf n, 8)
    else f.round rm n (2 ^ 160 / m) (-e - 160) (2 ^ 160 % m != 0)

/-- RSQ (04 R132): 1 / sqrt(m 2^e) is sqrt(2^k / m) 2^((-e-k)/2). -/
def Fmt.rsq (f : Fmt) (rm : Nat) (a : Fp) : Nat × Nat :=
  match a with
  | .nan g => (f.nan, nvIf g)
  | .inf n => if n then (f.nan, 16) else (f.zero false, 0)
  | .fin n m e =>
    if m = 0 then (f.inf n, 8)
    else if n then (f.nan, 16)
    else
      let k : Nat := if e % 2 = 0 then 320 else 321
      let r := isqrt (2 ^ k / m)
      f.round rm false r ((-e - (k : Int)) / 2) (r * r * m != 2 ^ k)

/-- 2^(2^-j) for j = 1, 2, ... by repeated square roots, in units of 2^-320, multiplied in where bit j of the fraction is set.
`fr` is the fraction in units of 2^-n. -/
def exp2Frac (fr : Nat) : Nat → Nat → Nat → Nat
  | 0, _, acc => acc
  | n + 1, root, acc =>
    let root' := isqrt (root * 2 ^ 320)
    exp2Frac fr n root' (if fr / 2 ^ n % 2 = 1 then acc * root' / 2 ^ 320 else acc)

/-- EXP2 (04 R132): correctly rounded from a value cut at 2^-320 (notes/assumptions/18). -/
def Fmt.exp2 (f : Fmt) (rm : Nat) (a : Fp) : Nat × Nat :=
  match a with
  | .nan g => (f.nan, nvIf g)
  | .inf n => (if n then f.zero false else f.inf false, 0)
  | .fin n m e =>
    if m = 0 then f.round rm false 1 0 false
    else
      let top : Int := (Nat.log2 m : Int) + e
      if top ≥ 11 then
        if n then f.round rm false 1 (-4000) false else f.round rm false 1 4000 false
      else
        let x := scaleInt (sgnInt n m) e (min e (-160)) -- in units of 2^(min e -160)
        let u := (-(min e (-160))).toNat
        let i := x / (2 ^ u : Nat)
        let fr := (x - i * (2 ^ u : Nat)).toNat
        if fr = 0 then f.round rm false 1 i false
        else f.round rm false (exp2Frac fr u (2 * 2 ^ 320) (2 ^ 320)) (i - 320) true

/-- Bits of log2 of y, 1 ≤ y < 2 in units of 2^-320, by repeated squaring. -/
def log2Bits : Nat → Nat → Nat → Nat
  | 0, _, acc => acc
  | n + 1, y, acc =>
    let z := y * y / 2 ^ 320
    if 2 ^ 321 ≤ z then log2Bits n (z / 2) (2 * acc + 1) else log2Bits n z (2 * acc)

/-- LOG2 (04 R132): correctly rounded from a value cut at 2^-128 (notes/assumptions/18). -/
def Fmt.log2 (f : Fmt) (rm : Nat) (a : Fp) : Nat × Nat :=
  match a with
  | .nan g => (f.nan, nvIf g)
  | .inf n => if n then (f.nan, 16) else (f.inf false, 0)
  | .fin n m e =>
    if m = 0 then (f.inf true, 8)
    else if n then (f.nan, 16)
    else
      let top : Int := (Nat.log2 m : Int) + e
      if m = 2 ^ Nat.log2 m then
        if top = 0 then (f.zero false, 0) else f.round rm (decide (top < 0)) top.natAbs 0 false
      else
        let x := top * (2 ^ 128 : Nat) + log2Bits 128 (m * 2 ^ 320 / 2 ^ Nat.log2 m) 0
        if 0 ≤ x then f.round rm false x.toNat (-128) true
        else f.round rm true (-x - 1).toNat (-128) true

/-- A value rounded to an integral value of its own format (FLOOR, CEIL, RINT, TRUNC; 04 R132); `nxFlag` reports a change. -/
def Fmt.integral (f : Fmt) (rm : Nat) (nxFlag : Bool) (x : Nat) : Nat × Nat :=
  match f.decode x with
  | .nan g => (f.nan, nvIf g)
  | .inf _ => (x, 0)
  | .fin n m e =>
    let (t, nx) := roundAt rm n m e (max e 0)
    let fl := if nx && nxFlag then 1 else 0
    if e ≥ 0 then (x, 0) else ((f.ofFin 0 n t 0).1, fl)

/-- FUN.f32's eleven functions (04 R132). -/
def funF32 (sel rm x : Nat) : Nat × Nat :=
  let f := Fmt.f32
  let a := f.decode x
  match sel with
  | 0 => if a.isNan then (f.nan, nvIf a.snan) else (x % 2 ^ 31, 0)
  | 1 => if a.isNan then (f.nan, nvIf a.snan) else ((x + 2 ^ 31) % 2 ^ 32, 0)
  | 2 => f.sqrt rm a
  | 3 => f.rcp rm a
  | 4 => f.rsq rm a
  | 5 => f.exp2 rm a
  | 6 => f.log2 rm a
  | 7 => f.integral 3 false x
  | 8 => f.integral 2 false x
  | 9 => f.integral rm true x
  | _ => f.integral 1 false x

/-! ### Conversions (03 R69, R77; 04 R133) -/

/-- An encoding of one format in another. -/
def Fmt.conv (f g : Fmt) (rm x : Nat) : Nat × Nat :=
  match f.decode x with
  | .nan s => (g.nan, nvIf s)
  | .inf n => (g.inf n, 0)
  | .fin n m e => g.ofFin rm n m e

/-- Saturation to w-bit two's complement (03 R69): the value, and whether it was saturated. -/
def satInt (w : Nat) (x : Int) : Int × Bool :=
  if x < -(2 ^ (w - 1) : Nat) then (-(2 ^ (w - 1) : Nat), true)
  else if (2 ^ (w - 1) : Nat) ≤ x then ((2 ^ (w - 1) : Nat) - 1, true)
  else (x, false)

/-- A finite value rounded to an integer, and whether it is inexact. -/
def finToInt (rm : Nat) (n : Bool) (m : Nat) (e : Int) : Int × Bool :=
  let (t, nx) := roundAt rm n m e (max e 0)
  (sgnInt n (if 0 ≤ e then m * 2 ^ e.toNat else t), nx && decide (e < 0))

/-- FP to a w-bit integer (03 R77; 04 R133): NaN gives 0 and invalid, saturation raises invalid. -/
def Fmt.toInt (f : Fmt) (w rm x : Nat) : Int × Nat :=
  match f.decode x with
  | .nan _ => (0, 16)
  | .inf n => ((if n then -(2 ^ (w - 1) : Nat) else (2 ^ (w - 1) : Nat) - 1), 16)
  | .fin n m e =>
    let (i, nx) := finToInt rm n m e
    let (v, s) := satInt w i
    (v, if s then 16 else if nx then 1 else 0)

/-- The low w bits of an integer. -/
def intBits (w : Nat) (x : Int) : Nat := (x % (2 ^ w : Nat)).toNat

/-- The two's-complement value of w bits. -/
def signed (w x : Nat) : Int := if x % 2 ^ w < 2 ^ (w - 1) then ((x % 2 ^ w : Nat) : Int) else ((x % 2 ^ w : Nat) : Int) - (2 ^ w : Nat)

/-- A signed integer in a format. -/
def Fmt.fromInt (f : Fmt) (rm : Nat) (x : Int) : Nat × Nat :=
  if x = 0 then (0, 0) else f.round rm (decide (x < 0)) x.natAbs 0 false

/-- FCVT's conversions (04 R133), on the source bits: result bits and flags. -/
def fcvt (sel rm x : Nat) : Nat × Nat :=
  match sel with
  | 0 => Fmt.f32.conv .bf16 rm x
  | 1 => Fmt.f32.conv .f16 rm x
  | 2 => Fmt.bf16.conv .f32 rm (x % 2 ^ 16)
  | 3 => Fmt.f16.conv .f32 rm (x % 2 ^ 16)
  | 4 => Fmt.f32.conv .f64 rm x
  | 5 => Fmt.f64.conv .f32 rm x
  | 6 => let r := Fmt.f32.toInt 32 rm x; (intBits 32 r.1, r.2)
  | 7 => Fmt.f32.fromInt rm (signed 32 x)
  | 8 => let r := Fmt.f64.toInt 64 rm x; (intBits 64 r.1, r.2)
  | 9 => Fmt.f64.fromInt rm (signed 64 x)
  | _ => let r := Fmt.f32.toInt 32 1 x; (intBits 32 r.1, r.2)

/-! ### Scale words and plane-nested integers (03 R70-R76) -/

/-- A scale word's value (03 R72): `none` when invalid; m 2^e, m = 0 when e = 0. -/
def scaleVal (w : Nat) : Option (Nat × Int) :=
  let e := w / 256 % 256
  if e = 255 then none else if e = 0 then some (0, 0) else some (256 + w % 256, (e : Int) - 127 - 8)

/-- round_rne of the exact quotient of n 2^e and d 2^g, d nonzero (03 R75). -/
def quotRne (n : Int) (e : Int) (d : Nat) (g : Int) : Int :=
  let num := if g ≤ e then n.natAbs * 2 ^ (e - g).toNat else n.natAbs
  let den := if g ≤ e then d else d * 2 ^ (g - e).toNat
  let t := num / den
  let r := num % den
  let t' := if 2 * r > den ∨ (2 * r = den ∧ t % 2 = 1) then t + 1 else t
  if n < 0 then -(t' : Int) else t'

/-- A real value of a block to be quantised: NaN or infinity, or n 2^e. -/
abbrev Real' := Option (Int × Int)

/-- R75: a block quantised to n planes under a given scale word: the scale word kept or replaced, and the values. -/
def quantScaled (n word : Nat) (xs : List Real') : Nat × List Int :=
  if xs.any Option.isNone then (0xFF00, xs.map fun _ => 0)
  else match scaleVal word with
    | none => (word, xs.map fun _ => 0)
    | some (m, g) =>
      if m = 0 then (word, xs.map fun _ => 0)
      else (word, xs.map fun x => match x with
        | some (v, e) => (satInt n (quotRne v e m g)).1
        | none => 0)

/-- floor(log2 |n| 2^e), n nonzero. -/
def topBit (n : Int) (e : Int) : Int := (Nat.log2 n.natAbs : Int) + e

/-- R76: a block quantised to n planes under a power-of-two scale of its own. -/
def quantAuto (n : Nat) (xs : List Real') : Nat × List Int :=
  if xs.any Option.isNone then (0xFF00, xs.map fun _ => 0)
  else
    let tops := xs.filterMap fun x => match x with
      | some (v, e) => if v = 0 then none else some (topBit v e)
      | none => none
    match tops with
    | [] => (0, xs.map fun _ => 0)
    | t0 :: tr =>
      let k := min (max ((tr.foldl max t0) - ((n : Int) - 2)) (-126)) 127
      ((k + 127).toNat * 256, xs.map fun x => match x with
        | some (v, e) => (satInt n (quotRne v e 1 k)).1
        | none => 0)

/-- A decoded value as a real of a block. -/
def Fp.real : Fp → Real'
  | .fin n m e => some (sgnInt n m, e)
  | _ => none

end Sys2Proof.Machine
end

