-- ==== Sys2Proof/Config.lean ====
section
/-! DEFINITION. What the part fixes (00 of spec/), and the values the spec leaves open, as constants with no body: nothing can
be proved of which value they take. -/

namespace Sys2Proof.Config

/-- Value of the n-th draw where the spec leaves a byte open: rows of an MRET whose write path failed (06 R186), the bytes of
an attestation report the spec gives no position (13 R403; notes/assumptions/20). -/
opaque freeByte : Nat → BitVec 8

/-- The n-th draw where the spec leaves a choice open. -/
opaque freeBit : Nat → Bool

/-- The n-th free choice among several, as a number to be taken modulo how many there are. -/
opaque freeNat : Nat → Nat

/-- The n-th byte of the digest of the public key that the module's fuses hold, and the fused security version (13 R399). -/
opaque fuseDigest : Nat → BitVec 8
opaque fuseVersion : Nat

/-- The verdict of a Falcon-1024 verification: public key, digest, signature (13 R399; the spec names the scheme and does not
define it; notes/assumptions/20). -/
opaque falconVerify : List (BitVec 8) → List (BitVec 8) → List (BitVec 8) → Bool

/-- A Falcon-1024 signature of a digest under the device identity key: its n-th byte (13 R402, R403). -/
opaque falconSign : List (BitVec 8) → Nat → BitVec 8

/-- The n-th byte of the device identity's public key (13 R402). -/
opaque identityKey : Nat → BitVec 8

/-- Hops between two packages in the group graph of a slot of a table, by the table's generation and the slot: the table tells a package
its own ports' peers only, and not the rest of the graph (14 R429; notes/assumptions/117). -/
opaque groupHops : Nat → Nat → Nat → Nat → Nat

/-- Moduli of the 21 logical channels (03 R78). -/
def modulus (j : Nat) : Nat :=
  [239, 211, 197, 181, 167, 251, 256, 233, 223, 193, 179, 163, 247, 255, 229, 227, 199, 191, 173, 241, 253].getD j 1

/-- Half-range H of the narrow lanes (03 R80). -/
def halfNarrow (g : Nat) : Nat := [150145262225, 146294747199, 170908589765].getD g 0

/-- Half-range H of the wide lane (03 R80): (M_P - 1) / 2 over its eighteen primaries. -/
def halfWide : Nat :=
  (([0, 1, 2, 3, 4, 5, 7, 8, 9, 10, 11, 12, 14, 15, 16, 17, 18, 19].foldl (fun m j => m * modulus j) 1) - 1) / 2

end Sys2Proof.Config
end

