-- ==== Sys2Proof/Machine/StateCore.lean ====
section
/-! DEFINITION. The state of a task and of a core (01, 05, 06, 07, 08 of spec/), as plain data.
A table unlisted at a key holds the default of its entry. -/

namespace Sys2Proof.Machine

/-- Where a result goes, after resolution: a scalar register, a vector storage index (01 R21), a predicate, an index base. -/
inductive Dest where
  | s (n : Nat) | v (n : Nat) | p (n : Nat) | ib (n : Nat)
  deriving DecidableEq, Repr

/-- A fixed-latency result not yet visible (01 R15; 07 R209): it lands before the task's bundle number `due` issues.
`ord` orders results by issue; `mask` holds the lanes (for a predicate, the bits) that the guard admits. -/
structure Flight where
  dst  : Dest
  due  : Nat
  ord  : Nat
  val  : VReg
  mask : BitVec 16
  replay : Bool := false              -- held in the replay buffer since a stop (07 R209)
  deriving DecidableEq, Repr

/-- One level of the loop stack (01 R25). `rot` is set for LOOPR. -/
structure LoopLevel where
  first : Nat
  last  : Nat
  lc    : Nat
  li    : Nat
  s     : Nat
  mask  : Nat
  rot   : Bool
  deriving DecidableEq, Repr

/-- What a full/empty producer (01 R10) waits for. -/
inductive Wait where
  | ready (vals : List VReg)                      -- the result is known; it has not reached the register yet
  | failed                                        -- it arrived with an uncorrectable error (05 R151; 14 R435)
  | ls                                            -- its access in the task's LS queue
  | join (a : Nat)                                -- 09 R289: the word's device address
  | watch (a exp deadline : Nat)                  -- 09 R292; deadline 0: none
  | barw (bar gen : Nat)                          -- 08 R258
  | cwp (q thr : Nat)                             -- 08 R251
  | cwait (q n : Nat)                             -- 08 R252: until channel q has ended more than n commands
  | crec (q : Nat)                                -- 08 R253
  | nextTile (usable at_ : Nat) (left : Bool)     -- 09 R290: not yet drawn (R285); usable from the task's bundle `usable`,
                                                  -- committed at cycle `at_`; `left`: its task has left the core
  | drawn (usable : Nat) (v : W64)                -- 09 R285: drawn; it fills before bundle `usable` issues
  | mret                                          -- 06 R186: its matrix entry
  | xenq                                          -- 10 R321: its admission
  | twait (tree mem seg : Nat)                    -- 12 R391
  | remote                                        -- 14 R442, R443: its reply
  deriving DecidableEq, Repr

/-- A pending full/empty producer. A register that an ALLOT released since is no longer named. -/
structure Prod where
  tok  : Nat
  dsts : List Dest
  wait : Wait
  deriving DecidableEq, Repr

/-- Kinds of LS-queue access (11 R337). Atomic: function number of 05 R170, size, operand, compare value. -/
inductive LsKind where
  | load (sext : Bool) (n : Nat)
  | vload
  | store
  | atomic (f : Nat) (u : Bool) (n y e : Nat)
  | await
  deriving DecidableEq, Repr

/-- One committed access of a task's LS queue: its parts still to be performed (location, bytes), each one access of the
global order; the data still to store, or gathered so far. -/
structure LsAcc where
  kind  : LsKind
  tok   : Nat
  parts : List (Nat × Nat)
  data  : List Byte
  vas   : List Nat := []              -- device addresses of its pieces, as the bundle gave them (11 R356)
  deriving DecidableEq, Repr

/-- Why a bundle is held (01 R11 and every "held as under R11"), as data that says when the hold clears. -/
inductive Hold where
  | regs (ds : List Dest)                         -- empty registers that the bundle reads (01 R11)
  | shrink (ds : List Dest)                       -- empty registers that an ALLOT releases (01 R19)
  | mlda (c : Nat)                                -- a pending MLDA of the tile (06 R175)
  | walk (va : Nat)                               -- a walk after a miss of the translation caches (05 R150)
  | alcove (a : Nat)                              -- FILLING-OFILL (05 R159)
  | mqueue (n : Nat)                              -- matrix-queue space (06 R174)
  | mxDone                                        -- every matrix entry of the task (06 R190)
  | tile (c : Nat)                                -- every entry of the tile (06 R194)
  | scq (n : Nat)                                 -- scale-queue space (05 R167)
  | lsq                                           -- the LS queue is empty (11 R337)
  | lsRoom                                        -- LS-queue space (11 R337)
  | rows (lo hi : Nat)                            -- source rows of an OFILL not yet read (05 R163)
  | stores                                        -- LS stores and atomics performed at package scope (05 R171)
  | system                                        -- ... and completed by the host (05 R171)
  | classes (m : Nat)                             -- every access of the classes (05 R172)
  | chan (q : Nat)                                -- the copy channel is IDLE (08 R250)
  | xlatTurn                                      -- another XLPIN, XLUNPIN or XLINV of the partition is under way (11 R353)
  | invDrain (lo len : Nat)                       -- accesses translated with the range's entries (11 R356)
  | forceDrain (lo len : Nat)                     -- XLINV with force: parked tasks and drained channels (11 R357)
  | ended                                         -- the conditions of END (04 R125)
  | forkRoom                                      -- deque and overflow space (09 R275)
  | event                                         -- HSIG: system scope and event-queue space (09 R293)
  | window (tree seg : Nat)                       -- TPOST's window (12 R390)
  | drain (tree : Nat)                            -- TFREEZE's drain (12 R383)
  | remoteDone (all : Bool) (pkg : Nat)           -- RFENCE (14 R444)
  | sendRoom (pkg : Nat)                          -- FSEND (14 R445)
  | enqueued (sump : Nat)                         -- the task's own enqueues to the sump admitted (10 R318, R322, R323, R325)
  deriving DecidableEq, Repr

/-- What a task is doing (01 R32; 07 R207, R213-R216; 09 R280, R281; 11 R357). -/
inductive TStatus where
  | ready | suspended | remote | trapped | replay | parked | forwarded | await | forced | frozen | saved
  deriving DecidableEq, Repr

/-- What stays with a saved task of a channel beyond the 128 bytes of R244: bytes 0-7 of its last record and the number of commands it has
ended (08 R252), CSETs that wait for the command's record, the fields and the record address that later CSET and CSHAPE have set
(R225), the command's clock (11 R340), whether the sector it faulted on was a write (R242), what it has written over and the choices made
there (R232), the tile it has read (R238) and how it ended (R226). -/
structure Kept where
  last   : Nat := 0
  ended  : Nat := 0
  ringSet : List (Nat × Nat) := []
  fields : Tab Nat := []
  shape  : Nat := 0
  clk    : Nat := 0
  fwrite : Bool := false
  old    : Tab (Nat × Byte) := []
  pick   : Nat := 0
  sel    : List Byte := []
  selRead : Bool := false
  ends   : Option (Nat × Nat × Nat) := none
  deriving DecidableEq, Repr

/-- A task (01 R7): registers, control state, results in flight, LS queue, clock, and its place in the scheduler. -/
structure Task where
  tid      : Nat := 0
  part     : Nat := 0
  region   : Nat := 0
  core     : Nat := 0
  status   : TStatus := .ready
  pc       : Nat := 0
  started  : Bool := false            -- its first bundle has issued
  idle     : Nat := 0                 -- idle bundles still to issue (02 R43)
  nb       : Nat := 0                 -- bundles issued
  seqno    : Nat := 0                 -- results issued (order of R15)
  loops    : List LoopLevel := []
  sregs    : Tab W64 := []
  vregs    : Tab VReg := []
  preds    : Tab (BitVec 16) := []
  ib0      : Nat := 0
  ib1      : Nat := 0
  rotBase  : Nat := 0
  rotSize  : Nat := 0
  vn       : Nat := 32
  cmask    : Nat := 0
  qmask    : Nat := 0
  fpmode   : Nat := 0
  fpflags  : Nat := 0
  sEmpty   : BitVec 64 := 0
  sFail    : BitVec 64 := 0
  vEmpty   : BitVec 128 := 0
  vFail    : BitVec 128 := 0
  flights  : List Flight := []
  prods    : List Prod := []
  ntok     : Nat := 0
  niche    : Memory := []
  nicheKiB : Nat := 0
  handles  : Tab Nat := []            -- bound handle -> physical alcove
  lsq      : List LsAcc := []
  hostPend : Nat := 0                 -- posted host-memory writes the host has not completed (11 R361)
  steps    : Nat := 0                 -- step count (06 R183)
  pts      : Nat := 0                 -- task clock (11 R332)
  kept     : Tab Kept := []           -- saved: by channel
  clks     : Tab Nat := []            -- class -> largest final clock of its ended commands (11 R341)
  prio     : Nat := 0
  handler  : Bool := false
  trec     : List W64 := []           -- trap record (07 R205), empty when none
  rec8     : List W64 := []           -- record forwarded to this handler, TRAPREC0-7
  subject  : Nat := 0                 -- the task whose record it holds; 0 for none
  hold     : Option Hold := none
  held     : Nat := 0                 -- cycles held
  preempt  : Option Nat := none       -- pending request, with its deadline (07 R215)
  late     : Bool := false
  area     : Nat := 0                 -- its save area, when saved
  areaPin  : Bool := false            -- that area's pages are pinned for it (07 R219)
  placed   : Nat := 0                 -- cycle of placement
  tickAt   : Nat := 0                 -- cycle from which its clock's next 256 cycles count (11 R332)
  waitFrom : Nat := 0                 -- cycle at which it began to wait
  since    : Nat := 0                 -- saved: cycle from which it has waited with no eligible core (09 R273)
  join     : Nat := 0
  firing   : Option (Nat × Nat × Nat) := none   -- sump, firing slot and firing (10 R305)
  raddr    : Nat := 0                 -- the address its record was read from (09 R265)
  run      : Nat := 0                 -- redundant run 1-3, 0 when not redundant (13 R407)
  twin     : Nat := 0                 -- the TASKID that names the redundant task
  digest   : Nat := 0                 -- 13 R408
  written  : List (Nat × Nat) := []   -- redundant run: addresses and lengths it has written (13 R409)
  srec     : List Byte := []          -- its task record (09 R265)
  verdict  : Nat := 0                 -- disposition of its fault, 0 pending (11 R351; 09 R281)
  need     : Nat := 0                 -- sump or package that a REPLAY waits for (09 R281)
  after    : TStatus := .ready        -- what it is once restored (07 R218, R222)
  redo     : Option Nat := none       -- disposed of by ERET while saved: where it resumes
  barred   : Bool := false            -- parked by a forced invalidation (11 R357)
  doomed   : Bool := false            -- killed by an order, at once or when its freeze completes (09 R264, R294, R295)
  fresh    : Bool := false            -- handler: the first bundle after a delivery has still to issue (07 R208)
  untried  : Bool := false            -- handler: no memory access of its own since the last delivery (07 R208)
  ending   : Bool := false            -- its END has committed; the accesses and commands of that bundle are still under way (04 R125)
  trapAt   : Nat := 0                 -- cycle at which its last trap was taken: the order of forwarding (09 R281)
  frozeAt  : Nat := 0                 -- CYCLE of its core at its freeze (07 R220)
  walks    : List Nat := []           -- pages whose walk has ended for the bundle that waits (05 R150)
  deriving DecidableEq, Repr

/-- An alcove (05 R158): state 0 FREE, 1 EMPTY, 2 FILLING-COPY, 3 FILLING-OFILL, 4 FULL. -/
structure Alcove where
  st      : Nat := 0
  kind    : Nat := 0
  reads   : Nat := 0
  tid     : Nat := 0
  handle  : Nat := 0
  data    : Memory := []
  src     : Nat := 0                  -- OFILL: next source location
  rows    : Nat := 0                  -- OFILL: rows still to read
  row     : Nat := 0                  -- OFILL: rows read
  from_   : Nat := 0                  -- OFILL: cycle of its commit, then of its last row
  clk     : Nat := 0                  -- OFILL: the clock of its task, once that has left the core
  release : Bool := false             -- released, waiting for queued reads or its OFILL (05 R160, R162)
  deriving DecidableEq, Repr

/-- A matrix-queue entry's operation (06 R174). -/
inductive MxOp where
  | mset (mask mode : Nat)
  | mma (cd : Nat) (z neg : Bool) (ha hb : Nat) (hm : Option Nat) (words : List Nat)
  | mret (cd addr fmt : Nat) (keep : Bool)
  | mretv (cd fmt : Nat) (keep : Bool)
  | mzero (cd : Nat)
  | mlda (cd addr : Nat) (parts : List (Nat × Nat))      -- the image's address, and its pieces as translated at issue
  | msta (cd addr : Nat) (parts : List (Nat × Nat))
  | mchan (fn arg : Nat)
  | minj (cd ch delta when_ : Nat)
  deriving DecidableEq, Repr

/-- A matrix-queue entry: `phase` 0 waiting, 1 in the array; `a`, `b`, `m` the operand bytes read at its start; `due` the cycle before
which it does not start or, in the array, take effect (06 R200). -/
structure MxEnt where
  id    : Nat
  tid   : Nat
  op    : MxOp
  tok   : Nat := 0
  clk   : Nat := 0
  phase : Nat := 0
  due   : Nat := 0
  a     : Memory := []
  b     : Memory := []
  m     : Memory := []
  deriving DecidableEq, Repr

/-- An accumulator tile (06 R173). An element holds 8 bytes in the image form of 06 R191. -/
structure Tile where
  owner    : Nat := 0
  issue    : Option Nat := none       -- issue mode (06 R175)
  mode     : Option Nat := none
  data     : Tab W64 := []
  depth    : Nat := 0
  inv      : Bool := false
  ovf      : Bool := false
  nx       : Bool := false
  poison   : Bool := false
  cmask    : Nat := 0
  corr     : List Nat := []           -- elements corrected since the last report
  failed   : List Nat := []           -- elements failed since the last report
  inj      : Option (Nat × Nat × Nat) := none   -- channel, delta, when
  struck   : Bool := false            -- an injection has changed its residues since the last report (06 R199: the injected bit)
  code     : Nat := 0                 -- kept failure: 0, 2 UNLOCATED, 3 OVERFLOW
  reported : Bool := false
  deriving DecidableEq, Repr

/-- A copy command as its CGO took it (08 R225, R250), and where it stands (R242, R244). -/
structure Cmd where
  id     : Nat := 0
  handle : Nat := 0
  slack  : Nat := 0
  mode   : Nat := 0
  mcast  : Nat := 0
  select : Nat := 0
  index  : Nat := 0
  follow : Nat := 0
  dsth   : Nat := 0
  shape  : Nat := 0
  fmts   : Tab Nat := []              -- BANKFMT of the issuing core's banks at the CGO (05 R147)
  ofmts  : Tab (Tab Nat) := []        -- core -> BANKFMT of its banks: those at the CGO, then, once the record is read, those that the
                                      -- command goes by (05 R147)
  idx    : List Byte := []            -- INDEXED: the index list, read with the record (08 R239)
  pick   : Nat := 0                   -- first draw of the choices that 05 R147 and 08 R232 leave open
  old    : Tab (Nat × Byte) := []     -- locations the command has written over -> the run that did, the byte before (08 R232)
  core   : Nat := 0                   -- the issuing core
  image  : List Byte := []            -- the record's 160 bytes, empty before they are read
  sf     : Nat := 0                   -- source-side format
  df     : Nat := 0
  iter   : Nat := 0                   -- runs delivered
  off    : Nat := 0                   -- destination bytes of the run delivered
  bytes  : Nat := 0
  clk    : Nat := 0
  since  : Nat := 0                   -- cycle of its CGO, or of its restore
  aged   : Nat := 0                   -- its age at that cycle (08 R233, R245)
  faddr  : Nat := 0
  fwrite : Bool := false              -- the faulting sector is written, not read
  stopAt : Option Nat := none         -- MULTICAST: stream position of a sector that cannot be completed, while slower cores come up to it
  data   : Bool := false              -- every byte delivered
  faulted : Bool := false             -- state FAULTED (08 R226)
  ends   : Option (Nat × Nat × Nat) := none   -- COMPLETING: status, code, addr
  shown  : Bool := false              -- its follow-on word has been presented
  mid    : Nat := 0                   -- matrix entries made before the CGO (R238)
  marr   : List Nat := []             -- cores whose barrier arrival has been made (R237)
  prog   : Tab Nat := []              -- MULTICAST: core -> destination bytes it has received
  mbuf   : Tab (List Byte) := []      -- MULTICAST: holding buffer, stream position -> bytes read
  sel    : List Byte := []            -- SELECT: the pairs read from the tile
  selRead : Bool := false
  crc    : Option (Nat × List Nat) := none   -- restored: CRC-32 the record must have, and the saved indices (R245)
  verdict : Nat := 0                  -- disposition of its fault, 0 pending (11 R351)
  deriving DecidableEq, Repr

/-- A copy channel (08 R224-R226). -/
structure Chan where
  fields : Tab Nat := []              -- R225, by field number
  shape  : Nat := 0                   -- CSHAPE
  wp     : Nat := 0
  head   : Nat := 0
  tail   : Nat := 0
  last   : Nat := 0                   -- bytes 0-7 of the last record
  ended  : Nat := 0                   -- commands ended
  cmd    : Option Cmd := none
  ringSet : List (Nat × Nat) := []    -- CSETs of ring and ringn that wait for the command's record (R225)
  deriving DecidableEq, Repr

/-- A buffer of tile-source values (09 R285). -/
structure Draw where
  vals : List Nat := []
  done : Bool := false                -- exhausted
  deriving DecidableEq, Repr

/-- A task record waiting in a deque, overflow area or ranking: its 64 bytes, its address and its clock (11 R342). -/
structure Rec where
  bytes : List Byte
  addr  : Nat
  clk   : Nat
  part  : Nat
  firing : Option (Nat × Nat × Nat) := none
  since : Nat := 0                    -- cycle from which it has waited with no eligible core (09 R273)
  deriving DecidableEq, Repr

/-- A core. -/
structure Core where
  tasks   : List Nat := []            -- resident TASKIDs, in order of placement
  cur     : Nat := 0                  -- the task it issues from; 0 for none
  last    : Nat := 0                  -- the task that it stopped issuing from, while `cur` is 0 (01 R33)
  wait    : Nat := 0                  -- cycles before the next bundle, idle ones included: bank conflicts, a switch (01 R33; 05 R144)
  stall   : Nat := 0                  -- stall cycles of taken transfers, after the idle run (02 R44, R61)
  cycle0  : Nat := 0                  -- cycle of the last core reset (R95)
  bankfmt : Tab Nat := []             -- 05 R146
  alcoves : Tab Alcove := []
  scq     : List (Nat × Nat) := []    -- scale queue, oldest first: TASKID, word
  mq      : List MxEnt := []
  mid     : Nat := 0                  -- matrix entries made
  mxFree  : Nat := 0                  -- cycle from which the array is free (06 R200)
  cvFree  : Nat := 0                  -- cycle from which the reverse converters are free (06 R200)
  tdone   : Tab Nat := []             -- cycle at which a tile's last complete entry was complete (06 R200)
  tiles   : Tab Tile := []
  chans   : Tab Chan := []
  slcount : Tab Nat := []             -- slice counters (06 R196)
  slfail  : Nat := 0                  -- CHSTAT.failed
  slinj   : Nat := 0                  -- bit j: slice j was marked failed by an event with an injection (06 R199)
  thresh  : Nat := 1
  spare   : Option Nat := none        -- the channel slice 21 serves (CHMAP)
  outmask : Nat := 0
  thrcause : Nat := 0
  deque   : List Rec := []            -- head first
  draws   : Tab Draw := []            -- region -> buffer
  tlb     : Tab (Nat × Nat) := []     -- translation cache: page key -> (leaf entry, level)
  deriving DecidableEq, Repr

/-- A barrier (08 R255), with the largest arrival clocks of the phase (11 R342). -/
structure Barrier where
  target  : Nat := 0
  arrived : Nat := 0
  gen     : Nat := 0
  clk     : Nat := 0
  mclk    : Nat := 0
  doneClk  : Nat := 0                 -- clocks of the phase last completed
  doneMclk : Nat := 0
  deriving DecidableEq, Repr

end Sys2Proof.Machine
end

