-- ==== Sys2Proof/Machine/StateEngine.lean ====
section
/-! DEFINITION. The state of the die's and the package's engines (09-14 of spec/), as plain data. -/

namespace Sys2Proof.Machine

/-- A region (09 R259-R264): the effective values taken at CREATE or RELOAD and the scheduler's own state of it.
`parent` and `actOwner` are region keys (partition x 65536 + identifier). -/
structure Region where
  id       : Nat := 0
  part     : Nat := 0
  rcb      : Nat := 0
  parent   : Nat := 0
  own      : Nat := 0
  prio     : Nat := 0
  flags    : Nat := 0
  domain   : Nat := 0
  maxk     : Nat := 4096
  dies     : Nat := 0
  act      : List Byte := []          -- the scheduler's copy of the action table (R279)
  actOwner : Nat := 0
  bcores   : Nat := 0
  balc     : Nat := 0
  bspad    : Nat := 0
  bsump    : Nat := 0
  bbar     : Nat := 0
  btree    : Nat := 0
  share    : Nat := 1
  lbase    : Nat := 0
  ln       : Nat := 0
  ltail    : Nat := 0
  ltarget  : Nat := 0                 -- the lhead the last doorbell read (R266)
  lclks    : List (Nat × Nat) := []   -- doorbells whose records are not all consumed: the lhead read, the ringer's clock (11 R342)
  tsrc     : List Byte := []
  ovbase   : Nat := 0
  ovcap    : Nat := 0
  oflow     : List Rec := []           -- overflow area, oldest first (R275)
  spbase   : Nat := 0
  spcount  : Nat := 0
  actAddr  : Nat := 0                 -- address of the effective action table
  ovn      : Nat := 0                 -- records the overflow area has taken
  lhold    : Option Rec := none       -- the list's head-of-line task (R268)
  state    : Nat := 0                 -- 0 ACTIVE, 1 PARKED, 2 DEAD
  returns  : Tab (List Nat) := []     -- die -> return list (R285)
  handler  : Nat := 0                 -- TASKID of the handler task
  traps    : List Nat := []           -- trapped tasks whose records wait for the handler (R281)
  waiting  : List (Nat × Bool × List Nat) := []   -- PREEMPT, PARK, KILL not yet complete: function, mailbox?, tasks (R296)
  deriving DecidableEq, Repr

/-- A pinned page (11 R352): its leaf entry and size as first walked, its counts by region. -/
structure Pin where
  entry    : Nat
  k        : Nat
  counts   : Tab Nat := []
  deferred : Bool := false
  pending  : Bool := false            -- forced out, waiting for its slot's disposition (R357)
  deriving DecidableEq, Repr

/-- Operands of an engine step, and what the outside world brings with it; each step's definition names those it reads. -/
structure StepArgs where
  unit  : Nat := 0
  sub   : Nat := 0
  addr  : Nat := 0
  num   : Nat := 0
  aux   : Nat := 0
  flag  : Bool := false
  bytes : List Byte := []
  deriving DecidableEq, Repr

/-- Who waits on a fault slot (11 R349). -/
inductive Requester where
  | task (tid : Nat)
  | chan (core q tid n : Nat)         -- of a task, after n commands ended
  | send (queue no : Nat)             -- a transfer of a queue, by its number
  | remote (line : Bool) (a : StepArgs)   -- a remote request, or (`line`) a line of a transfer, as its step brought it
  | page (va : Nat)
  deriving DecidableEq, Repr

/-- An open fault slot of a die (11 R349, R350). -/
structure FSlot where
  va      : Nat
  access  : Nat
  cause   : Nat
  waiters : Nat
  part    : Nat
  reqs    : List Requester
  deriving DecidableEq, Repr

/-- A prefetch (10 R327). -/
structure Xpref where
  region  : Nat
  cluster : Nat
  lvl     : Nat
  handle  : Nat
  addr    : Nat
  left    : Nat
  priv    : Bool := false
  deriving DecidableEq, Repr

/-- An entry of a sump (10 R301). -/
structure SumpEnt where
  bytes : List Byte
  arr   : Nat
  time  : Nat
  deriving DecidableEq, Repr

/-- A sump (10 R297-R328): state 0 OFF, 1 ON, 2 HALTED. -/
structure Sump where
  st       : Nat := 0
  desc     : List Byte := []
  part     : Nat := 0
  ents     : List SumpEnt := []
  next     : Nat := 0
  accepted : Nat := 0
  dups     : Nat := 0
  firings  : Nat := 0
  lost     : Nat := 0
  purged   : Nat := 0
  waited   : Nat := 0
  overdue  : Nat := 0                 -- the decision at which it became overdue (R311)
  flush    : Option Nat := none
  slots    : Tab (Nat × Nat) := []    -- firing slots in use: slot -> tasks not yet ended, and the firing
  clk      : Nat := 0
  pinned   : Bool := false
  due      : Bool := false            -- its age limit has been detected (R310)
  deriving DecidableEq, Repr

/-- A record on its way to a sump engine (10 R308). -/
structure Enq where
  sump  : Nat
  tid   : Nat
  tok   : Nat
  bytes : List Byte
  clk   : Nat
  deriving DecidableEq, Repr

/-- A membership of a tree, in force from segment `e` (12 R381). -/
structure Membership where
  e    : Nat
  root : Nat
  mems : List Nat
  deriving DecidableEq, Repr

/-- An admitted post whose source is still being read (12 R378). -/
structure Post where
  mem   : Nat
  seg   : Nat
  src   : Nat
  tid   : Nat
  clk   : Nat
  chunk : Nat := 0
  data  : List Byte := []             -- the source of a PNADD post, once read
  deriving DecidableEq, Repr

/-- A chunk of a tree: travelling up to router `at_` from input `from_`, buffered there, or travelling down. -/
structure Chunk where
  at_   : Nat
  from_ : Nat
  seg   : Nat
  chunk : Nat
  mask  : Nat                         -- members covered
  ins   : List Nat := []              -- going down: branches served
  fmt   : Nat := 0                    -- 0 combine format, 1 BF16, 2 PN with its scale word
  data  : List Byte := []
  clk   : Nat := 0
  held  : Bool := false               -- held by a slot miss (R379)
  pool  : Bool := false               -- its buffer comes from the router's pool; going down: it lies in holding slots
  deriving DecidableEq, Repr

/-- A chunk of a segment result on its way into a receiver (12 R377). -/
structure Deliv where
  core   : Nat
  seg    : Nat
  chunk  : Nat
  data   : List Byte
  clk    : Nat
  deriving DecidableEq, Repr

/-- A collective tree (12 R363-R392): state 0 FREE, 1 ACTIVE, 2 FROZEN, 3 SAVED. -/
structure Tree where
  st       : Nat := 0
  desc     : List Byte := []
  region   : Nat := 0
  ships    : List Membership := []    -- memberships whose boundary is admitted, ascending, the past ones with them (12 R382)
  pending  : Option Membership := none
  c        : Nat := 0
  bound    : Nat := 0                 -- next boundary (R381)
  next     : Tab Nat := []            -- member word -> next segment
  posts    : List Post := []
  up       : List Chunk := []
  bufs     : List Chunk := []
  down     : List Chunk := []
  delivs   : List Deliv := []
  got      : Tab Nat := []            -- receiver core -> segments delivered
  written  : Tab Nat := []            -- receiver core -> bytes of its next segment written
  outs     : Tab (Nat × Nat) := []    -- node -> segment and chunk that leave it next (12 R375)
  base     : Tab Nat := []            -- segment -> members that its restored partial covers
  slots    : Tab Bool := []           -- router -> loaded
  misses   : Nat := 0
  failed   : List Nat := []
  nfailed  : Nat := 0
  admitted : Nat := 0
  freezing : Nat := 0                 -- TASKID of the TFREEZE under way; 0 for none
  clkOf    : Tab Nat := []            -- segment -> clock of its delivery
  farGot   : Tab Nat := []            -- other package -> segments delivered to every receiver there
  farAt    : Nat := 0                 -- FTIME at which a level-4 packet last left or came (14 R441)
  deriving DecidableEq, Repr

/-- A wavelength of a port (14 R422). `st`: 0 in service, 1 adapting, 2 in test, 3 waiting, 4 retired, 5 test passed. -/
structure Wave where
  cc    : Nat := 0
  ub    : Nat := 0
  st    : Nat := 0
  fails : Nat := 0
  timer : Nat := 0                    -- FTIME at which its phase ends
  tcc   : Nat := 0                    -- its counters at the trigger of its retraining
  tub   : Nat := 0
  deriving DecidableEq, Repr

/-- A packet of the fabric: class 0 request, 1 reply, 2 tree, 3 scheduled (14 R429). -/
structure FPkt where
  cls  : Nat
  dst  : Nat
  src  : Nat
  data : List Byte
  pos  : Nat := 0                     -- its flits already sent
  esc  : Bool := false                -- it travels in its class's escape channel (R429)
  through : Bool := false             -- on its way through this package, not injected here (R431)
  hop  : Option (Nat × Nat) := none   -- port and channel of its class that its flits leave by, once the first has (R429)
  via  : Option (Nat × Nat) := none   -- port whose receive buffer holds it, and its channel there (R430)
  deriving DecidableEq, Repr

/-- A flit sent, kept to be sent again (14 R420, R421): its number on the circuit, channel, destination and source package, the wavelengths
of its eight beats, and how often it was sent. -/
structure SentFlit where
  seq   : Nat
  chan  : Nat
  dst   : Nat
  src   : Nat
  data  : List Byte
  on    : List Nat
  times : Nat := 1
  deriving DecidableEq, Repr

/-- An optical port (14 R419-R432): state coded as 14 R423. -/
structure Port where
  st      : Nat := 4
  peer    : Nat := 0
  pport   : Nat := 0
  flight  : Nat := 0
  guard_  : Nat := 0                  -- FTIME at which the guard ends
  map     : List Nat := [0, 1, 2, 3, 4, 5, 6, 7]   -- stripe map that this port receives under (R420)
  was     : List (Nat × List Nat) := []   -- earlier maps of this circuit, newest first, each with the flit before which it held
  tmap    : List Nat := [0, 1, 2, 3, 4, 5, 6, 7]   -- stripe map that this port sends under
  tnew    : Option (Nat × List Nat) := none        -- announced by the peer: the map it is to send under from a flit on
  waves   : Tab Wave := []
  retr    : Option Nat := none        -- wavelength retraining
  spare   : Option Nat := none        -- wavelength that λ8 stands in for
  sw      : Option (Nat × Nat) := none   -- announced switch flit and wavelength
  hb      : Option (Nat × Nat) := none   -- announced hand-back flit and wavelength
  wd      : Option (Nat × Nat) := none   -- announced withdrawal flit and wavelength
  tx      : Nat := 0                  -- next flit sequence sent
  rx      : Nat := 0                  -- next flit sequence handed over
  beats   : Tab (List (Nat × List Byte)) := []   -- sequence -> beats received
  sent    : List SentFlit := []       -- last 256 flits sent
  free_   : Nat := 0                  -- when its lanes are free for the next flit, in 1/5880 ns of FTIME (R419)
  inbox   : List (Nat × List Byte) := []         -- flits in the receive buffer, with their channel
  retries : Nat := 0
  fails   : Tab Nat := []             -- flit -> transmissions in a row that failed; it has been asked for again as often (R421)
  down    : Bool := false             -- taken down for the rest of its slot
  closed  : Bool := false             -- its open window has ended
  stops   : Nat := 0                  -- channels the peer has stopped, bit 4 x class + channel
  rstops  : Nat := 0                  -- channels this port has stopped (R430)
  cls     : Nat := 3                  -- class served last (R432)
  sq      : Nat := 64                 -- scheduled queue served last, 64 for packets on their way through (R432)
  deriving DecidableEq, Repr

/-- An outstanding remote operation: kind 1 RLD, 2 RST, 3 RATOM (14 R433-R436). -/
structure ROp where
  tid   : Nat
  tok   : Nat
  kind  : Nat
  pkg   : Nat
  addr  : Nat
  data  : List Byte := []
  aux   : Nat := 0
  part  : Nat := 0
  sent  : Bool := false
  since : Nat := 0
  deriving DecidableEq, Repr

/-- A scheduled transfer (14 R437-R440). -/
structure Send where
  ticket : Nat
  no     : Nat := 0                   -- its number among the package's transfers, from 1
  tid    : Nat
  part   : Nat
  src    : Nat
  dst    : Nat
  len    : Nat
  dnote  : Option Nat
  snote  : Option Nat
  priv   : Bool := false
  pos    : Nat := 0                   -- bytes sent
  acked  : Nat := 0                   -- bytes acknowledged
  clk    : Nat := 0
  fault  : Bool := false
  verdict : Nat := 0                  -- disposition of its fault
  core    : Nat := 0                  -- the issuing core
  since   : Nat := 0                  -- grouped time of its destination from which it has been silent (R435)
  broken  : Bool := false             -- it has failed: it sends no more, and only its snote is left (R440)
  deriving DecidableEq, Repr

/-- What a package has taken of the transfers of another (14 R436, R439): the transfer it takes now or took last, numbered from 1 as the
source's FSENDs committed, the line it takes next, and 0 none under way, 1 one under way, 2 a line or the note waits for a page. -/
structure Recv where
  no   : Nat := 0
  line : Nat := 0
  st   : Nat := 0
  deriving DecidableEq, Repr

/-- A scheduled send queue. -/
structure SendQ where
  pkg  : Nat
  next : Nat := 0
  list : List Send := []
  deriving DecidableEq, Repr

/-- A forced invalidation from its step 1 until its last page has been disposed of (11 R357): who issued it, its range, and whether
step 3 is done. -/
structure Forced where
  tid  : Nat
  lo   : Nat
  len  : Nat
  done : Bool := false
  deriving DecidableEq, Repr

/-- A partition: its parameters (13 R397), clocks, pins, host function and counts. -/
structure Part where
  dies    : Nat := 0
  ptroot  : Nat := 0
  fqbase  : Nat := 0
  ttbase  : Nat := 0
  lease   : Nat := 16
  evqbase : Nat := 0
  evqlen  : Nat := 4
  errbase : Nat := 0
  errlen  : Nat := 4
  sevmat  : List Byte := []           -- empty: the defaults of 13 R405
  pcap    : Nat := 0
  pclk    : Nat := 0
  ptick   : Nat := 0                  -- cycle from which PCLK's next 256 cycles count (11 R332)
  raise   : Nat := 0                  -- largest write timestamp a home has assigned (11 R332)
  hpts    : Nat := 0
  pins    : Tab Pin := []             -- page base -> pin
  forces  : List Forced := []         -- forced invalidations under way, oldest first
  peers   : Tab (Nat × Nat) := []     -- package -> partition index, flags (14 R428)
  ckseq   : Nat := 0
  st      : Nat := 0                  -- 0 RUNNING, 1 RESETTING, 2 CHECKPOINTING, 3 RESTORING
  mbarg   : Nat := 0
  mbseq   : Nat := 0
  mbcmd   : Nat := 0
  mbst    : Nat := 0
  busy    : Bool := false
  code    : Nat := 0                  -- code of the command in progress, while busy
  rclear  : Bool := false             -- the partition reset under way clears memory (13 R412)
  rcmd    : Bool := false             -- it was asked for by RESET
  refused : Nat := 0
  evqhead : Nat := 0
  evqtail : Nat := 0
  evlost  : Nat := 0
  msix    : List Nat := []            -- MSI-X vectors signalled, oldest first
  errs    : Nat := 0                  -- error-log records written
  unmasked : Nat := 0
  allow   : Nat := 0                  -- power allowance (13 R415)
  lim     : Nat := 0                  -- partition limit lp; 0 none
  ck      : Option (Nat × Nat × List Nat) := none   -- checkpoint under way: target, length, RCB list
  deriving DecidableEq, Repr

/-- A run of a redundant task that has ended (13 R408, R409). -/
structure RunEnd where
  twin   : Nat
  run    : Nat
  digest : Nat
  killed : Bool
  cut    : Bool := false               -- killed by an order: KILL, DESTROY, KILL-CONTEXT, a reset (09 R264, R294)
  region : Nat
  core   : Nat
  join   : Nat
  clk    : Nat
  src    : Rec
  written : List (Nat × Nat) := []     -- addresses and lengths it wrote
  deriving DecidableEq, Repr

/-- A die. -/
structure Die where
  mts     : Nat := 0                  -- memory timestamp (11 R336)
  slots   : Tab FSlot := []           -- open fault slots
  fseq    : Nat := 0
  waitq   : List (FSlot) := []        -- requesters waiting for a free slot
  enq     : List Enq := []
  decN    : Nat := 0                  -- firing decisions taken
  decAt   : Nat := 0                  -- ns of the last one
  ready   : List Rec := []            -- firing records waiting for placement, in order (10 R316)
  rr      : Tab Nat := []             -- priority -> the last of its regions served, for round-robin (09 R271)
  xprefs  : List Xpref := []
  pairs   : Nat := 4                  -- control-core pairs in service (09 R287)
  failed  : List Nat := []            -- failed logical clusters (13 R411)
  spareFor : Option Nat := none       -- logical cluster the spare serves
  dead    : List Nat := []            -- logical numbers that name no cluster
  mhz     : Nat := 4000
  tlimit  : Nat := 4000               -- thermal limit of the clock
  climit  : Nat := 4000               -- current limit of the clock
  draw    : Nat := 0                  -- unconstrained draw in W
  bound   : Nat := 0                  -- causes that bind its clock, as THRCAUSE codes them (13 R416)
  deriving DecidableEq, Repr

/-- A cached copy of a device-memory line (11 R331): `cache` is a cluster (die x 256 + logical cluster) or 65536 + die for
a remote-data cache. Its lease covers the line; `secs` holds the 32-byte sectors filled, 0 and 1. -/
structure Copy where
  cache : Nat
  line  : Nat
  wts   : Nat
  rts   : Nat
  secs  : Tab (List Byte)
  deriving DecidableEq, Repr

end Sys2Proof.Machine
end

