-- ==== Sys2Proof/Machine/State.lean ====
section
/-! DEFINITION. The state of one VK-1536 package, as plain data: tasks and cores (StateCore.lean), engines (StateEngine.lean),
the context of the bundle being executed, and the agenda, which says which agent acts next (notes/assumptions/4). -/

namespace Sys2Proof.Machine

/-- What one slot instruction asks of the machine at the commit of its bundle (04 R103). Values are those read before the
bundle's first write (02 R47). -/
inductive Effect where
  | wr (d : Dest) (off : Nat) (val : VReg) (mask : BitVec 16)      -- a result of fixed latency (02 R60)
  | produce (ds : List Dest) (w : Wait)                             -- a full/empty producer (01 R10)
  | sr (n : Nat) (v : W64)                                          -- MOVRS (04 R114)
  | flags (f : Nat)                                                 -- floating-point flags raised (01 R30)
  | allot (a : Nat)                                                 -- the new allotment (01 R19)
  | jump (target : Nat)                                             -- a taken transfer
  | push (lv : LoopLevel)                                           -- LOOP, LOOPR (01 R26)
  | lexit (target : Nat)
  | go (g : Bool)                                                   -- BRTOP (04 R122)
  | trap (code : Nat) (v : W64)
  | endTask
  | eret (disp target : W64)
  | local_ (k : LsKind) (parts : List (Nat × Nat)) (data : List Byte) (d : List Dest)   -- an own-scratchpad access
  | access (k : LsKind) (vas : List Nat) (parts : List (Nat × Nat)) (data : List Byte) (ds : List Dest)  -- an access of the LS queue
  | hash (a : Nat) (bytes : List Byte)                              -- a redundant run's write, for its digest (13 R408)
  | niche (off : Nat) (bytes : List Byte)
  | oclaim (h kind a : Nat)
  | orelease (h : Nat)
  | ofill (h src rows : Nat)
  | bfmt (b v : Nat)
  | scld (words : List Nat)
  | fencex (e l : Nat)
  | mx (op : MxOp) (ds : List Dest)
  | cset (q f : Nat) (v : W64)
  | cshape (q : Nat) (v : W64)
  | cgo (q id handle : Nat)
  | ccan (handle : Nat)
  | fork (bytes : List Byte) (addr : Nat)
  | yield
  | bara (b : Nat)
  | bari (b n : Nat)
  | hsig (v : Nat) (x : W64)
  | rgnctl (fn : Nat) (a b : W64)
  | xenq (sump : Nat) (bytes : List Byte) (d : Dest)
  | xcfg (sump fn : Nat) (addr : Nat)
  | xdisp (sump : Nat)
  | xpref (addr len handle lvl : Nat)
  | xcan (handle : Nat)
  | tree (fn : Nat) (handle addr : Nat)                             -- 0 TCREATE 1 TDESTROY 2 TEDIT 3 TFREEZE 4 TSAVE 5 TRESTORE
  | freeze (handle : Nat)                                           -- TFREEZE taken; its drain begins
  | tpost (handle mem seg src : Nat)
  | remote (kind pkg addr : Nat) (data : List Byte) (aux : Nat) (ds : List Dest)
  | rfence
  | fsend (bytes : List Byte)
  | xlat (fn : Nat) (addr len : Nat)                                -- 0 XLPIN 1 XLUNPIN 2 XLINV 3 XLINV.force 4 its parking
  deriving DecidableEq, Repr

/-- What the decode stages of 02 R59 look at in one slot: the operands it reads and writes, in the model's resolution. -/
structure Shape where
  ports  : Nat := 0                   -- vector reads counted (R45)
  sr     : List Nat := []             -- scalar registers read
  vr     : List Nat := []             -- vector names read
  sw     : List Nat := []             -- scalar destinations
  vw     : List Nat := []             -- vector destinations, by name
  pw     : List Nat := []             -- predicate destinations
  xw     : List Nat := []             -- special registers written
  ib     : List Nat := []             -- index bases written
  allot  : Bool := false
  bad    : Bool := false              -- stage 3
  priv   : Bool := false              -- stage 4: PRIVILEGE
  noreg  : Option (Bool × Nat) := none   -- stage 4: REG-ALLOT, vector? and register
  pend   : Option Nat := none         -- tile whose pending MLDA holds the bundle (06 R175)
  vsct   : Bool := false              -- borrows the MX port (R46)
  target : Option Nat := none         -- a taken transfer's target (04 R119)
  deriving DecidableEq, Repr

/-- What one slot's execution comes to: a fault (cause, detail byte, address), a hold with what it does meanwhile,
or effects at commit. `need`: the sump or package that a REPLAY of the fault waits for (09 R281). -/
inductive SlotOut where
  | fault (cause detail : Nat) (addr : Option Nat) (need : Nat)
  | hold (h : Hold) (meanwhile : List Effect)
  | go (es : List Effect)
  deriving DecidableEq, Repr

/-- One slot of the bundle being executed. -/
structure SlotLog where
  slot  : Nat
  shape : Shape
  out   : SlotOut
  deriving DecidableEq, Repr

/-- The bundle being executed: its header, its address, the next bundle's address, slot words still to come after this one,
this one's slot, and what the slots before it came to. -/
structure Bundle where
  hdr  : Nat := 0
  pc   : Nat := 0
  next : Nat := 0
  left : Nat := 0
  slot : Nat := 0
  logs : List SlotLog := []
  deriving DecidableEq, Repr

/-- Boot and attestation (13 R399-R403). -/
structure Boot where
  stage   : Nat := 0                  -- 0 ROM, 1 package firmware, 2 die firmware, 3 READY, 7 RECOVERY
  error   : Nat := 0
  unprot  : Bool := false
  meas    : Tab (List Byte) := []     -- measurement registers M_0-M_2; an unlisted one is 64 zero bytes
  layout  : List Byte := []           -- partition layout: dies mask of partitions 0-3
  mbarg   : Nat := 0                  -- registers of function 0 (R395)
  evqhead : Nat := 0
  evqtail : Nat := 0
  mbseq   : Nat := 0
  mbcmd   : Nat := 0
  mbst    : Nat := 0
  busy    : Option Nat := none        -- the MBARG of the ATTEST in progress
  refused : Nat := 0
  deriving DecidableEq, Repr

/-- The host link (13 R393). -/
structure Link where
  gts    : Nat := 128
  width  : Nat := 16
  up     : Bool := true
  replays : Nat := 0
  downs  : Nat := 0
  deriving DecidableEq, Repr

/-- Power (13 R414-R416). -/
structure Power where
  rank    : Nat := 0
  own     : Nat := 0                  -- Acvimi own cap, 0 none
  rankMod : Nat := 0                  -- rank module cap, 0 none
  rankPart : List Nat := [0, 0, 0, 0]
  seq     : Option Nat := none        -- last broadcast applied
  limit   : Nat := 4000
  phases  : Tab Nat := []             -- die -> regulator phases spared
  deriving DecidableEq, Repr

/-- Fabric time and the slot table (14 R424-R428). -/
structure Fabric where
  pkg     : Nat := 0xFFF              -- own package identifier; 0xFFF: none sent yet
  locked  : Bool := false
  synced  : Bool := false             -- it has locked since boot (R424)
  ftime0  : Nat := 0                  -- FTIME = ns + ftime0, modulo 2^64
  lost    : Nat := 0                  -- ns at which lock was lost, 0 while locked
  table   : List Byte := []           -- the table in force; empty for none
  pend    : List Byte := []           -- the accepted table not yet in force
  slot    : Option Nat := none        -- current slot
  start   : Nat := 0                  -- FTIME at which it began
  win     : Nat := 0                  -- window of the wavelength counters (R422)
  past    : Tab Nat := []             -- package -> ns it has been in the current group, until FTIME `base` (R435)
  base    : Nat := 0
  sends   : Nat := 0                  -- transfers queued since boot; each has its number (R437)
  deriving DecidableEq, Repr

/-- The package. -/
structure State where
  cycle   : Nat := 0                  -- core cycles since module boot (01 R29)
  ns      : Nat := 0                  -- die time base, ns (10 R301)
  frac    : Nat := 0                  -- part of a nanosecond that has passed, in units of 1 / timeUnit; the model's own field
  free    : Nat := 0                  -- draws of free values (Config); the model's own field
  agenda  : List (Instr × StepArgs) := []   -- steps to take next, each with its operands; the model's own field
  arg     : StepArgs := {}            -- operands of the step being taken; the model's own field
  turn    : Nat := 0                  -- steps taken with an empty agenda; whose turn it is follows from it; the model's own field
  cur     : Nat := 0                  -- the core that issues next; the model's own field
  bun     : Bundle := {}
  mem     : Memory := []              -- by location: physical address, or scratchpad device address
  cores   : Tab Core := []            -- by COREID
  tasks   : Tab Task := []            -- by TASKID
  ntid    : Nat := 1                  -- next TASKID
  bars    : Tab Barrier := []         -- cluster x 32 + barrier
  ctlb    : Tab (Tab (Nat × Nat)) := []   -- cluster translation caches
  served  : Tab (Nat × List Nat) := []    -- cluster -> a cycle, and the channels (core x 4 + q) its copy engine wrote a sector for in it (08 R233)
  rowAt   : Tab (Nat × Nat) := []     -- COREID x 16 + bank -> 1 + the cycle in which it last served a row, and that row (05 R144)
  dies    : Tab Die := []
  parts   : Tab Part := []            -- configured partitions
  regions : Tab Region := []          -- partition x 65536 + identifier
  banks   : Tab Nat := []             -- bank grants: COREID x 16 + bank -> region key
  algr    : Tab Nat := []             -- alcove grants: COREID x 32 + alcove -> region key
  bargr   : Tab Nat := []             -- barrier grants: cluster x 32 + barrier -> region key
  sumpgr  : Tab Nat := []             -- sump grants: sump identifier -> region key
  sumps   : Tab Sump := []
  trees   : Tab Tree := []            -- partition x 65536 + handle
  refills : List (Nat × Nat) := []    -- slot refills asked for, oldest first: tree and router (12 R379)
  stamps  : Tab (Nat × Nat) := []     -- line -> (wts, rts) at its home
  copies  : List Copy := []
  dirty   : List Nat := []            -- 32-byte sectors modified in their L2 and not yet written back to HBM, ascending (11 R331)
  snoop   : List Nat := []            -- device-memory lines the host may hold (11 R359)
  binv    : List (Nat × Nat) := []    -- back-invalidations sent: line, waiting TASKID (0: an engine)
  putOff  : List (Instr × StepArgs) := []   -- steps of the agenda put off until the host gives up a line; the model's own field
  recalls : List Nat := []            -- lines the host holds that the step being taken would write; empty between steps; the model's own field
  ports   : Tab Port := []
  fab     : Fabric := {}
  rops    : List ROp := []
  sendqs  : Tab SendQ := []
  recvs   : Tab Recv := []            -- source package -> its transfers taken here (14 R439)
  outbox  : List FPkt := []           -- packets to inject
  transit : List FPkt := []           -- transit store (14 R431)
  xpts    : Tab Nat := []             -- source package -> xpts
  rerr    : Tab Nat := []             -- TASKID -> remote-error word (14 R435)
  bad     : List Nat := []            -- 32-byte sectors that hold an uncorrectable error (13 R410)
  runs    : List RunEnd := []         -- ended runs of redundant tasks (13 R409)
  doom    : List (Nat × Nat) := []    -- severity actions still to carry out: 3 and a domain key, 4 and a partition (13 R406)
  boot    : Boot := {}
  link    : Link := {}
  power   : Power := {}
  deriving DecidableEq, Repr

/-- How a step can stop. -/
inductive Fault where
  /-- Raised by `runSlot`: a slot instruction when the core whose turn it is runs no task. 01: a program counter and every register
  belong to a task, so the spec gives such a word no effect. Safe. -/
  | noTask
  deriving DecidableEq, Repr

/-- Why the model gives no meaning. -/
inductive Refusal where
  /-- Raised by an arm of `exec` whose instruction has no meaning yet; no arm is left so. Safe. -/
  | notModelled (mnemonic : String)
  deriving DecidableEq, Repr

/-- The machine right after reset: nothing booted (13 R400: BOOTSTAT 0), no partition configured, every table empty, so that
every entry of every table holds its default. Reset values the spec does not give: notes/assumptions/7. -/
def State.reset : State := {}

end Sys2Proof.Machine
end

