-- ==== Sys2Proof/Machine/Ops.lean ====
section
/-! DEFINITION. The named operations over registers, addresses, memory and clocks, and the taking of a trap and the return
from one. Everything else in Machine/ is written over these. -/

namespace Sys2Proof.Machine

open Host (Outcome)

/-! ### Entries of tables -/

/-- The core of a COREID. -/
def State.core (s : State) (c : Nat) : Core := tabGet s.cores {} c
/-- The state with a core replaced. -/
def State.putCore (s : State) (c : Nat) (k : Core) : State := { s with cores := tabPut s.cores c k }
/-- The task of a TASKID. -/
def State.task (s : State) (t : Nat) : Task := tabGet s.tasks {} t
/-- The state with a task replaced. -/
def State.putTask (s : State) (t : Nat) (k : Task) : State := { s with tasks := tabPut s.tasks t k }
/-- The die of a number. -/
def State.die (s : State) (d : Nat) : Die := tabGet s.dies {} d
/-- The state with a die replaced. -/
def State.putDie (s : State) (d : Nat) (k : Die) : State := { s with dies := tabPut s.dies d k }
/-- The partition of a number. -/
def State.part (s : State) (p : Nat) : Part := tabGet s.parts {} p
/-- The state with a partition replaced. -/
def State.putPart (s : State) (p : Nat) (k : Part) : State := { s with parts := tabPut s.parts p k }
/-- The region of a key. -/
def State.region (s : State) (r : Nat) : Region := tabGet s.regions {} r
/-- The state with a region replaced. -/
def State.putRegion (s : State) (r : Nat) (k : Region) : State := { s with regions := tabPut s.regions r k }
/-- The sump of an identifier. -/
def State.sump (s : State) (x : Nat) : Sump := tabGet s.sumps {} x
/-- The state with a sump replaced. -/
def State.putSump (s : State) (x : Nat) (k : Sump) : State := { s with sumps := tabPut s.sumps x k }
/-- The tree of a key. -/
def State.tree (s : State) (x : Nat) : Tree := tabGet s.trees {} x
/-- The state with a tree replaced. -/
def State.putTree (s : State) (x : Nat) (k : Tree) : State := { s with trees := tabPut s.trees x k }
/-- The port of a number. -/
def State.port (s : State) (x : Nat) : Port := tabGet s.ports {} x
/-- The state with a port replaced. -/
def State.putPort (s : State) (x : Nat) (k : Port) : State := { s with ports := tabPut s.ports x k }
/-- The alcove of a core. -/
def Core.alcove (k : Core) (a : Nat) : Alcove := tabGet k.alcoves {} a
/-- The tile of a core. -/
def Core.tile (k : Core) (c : Nat) : Tile := tabGet k.tiles {} c
/-- The copy channel of a core. -/
def Core.chan (k : Core) (q : Nat) : Chan := tabGet k.chans {} q
/-- The core with an alcove replaced. -/
def Core.putAlcove (k : Core) (a : Nat) (x : Alcove) : Core := { k with alcoves := tabPut k.alcoves a x }
/-- The core with a tile replaced. -/
def Core.putTile (k : Core) (c : Nat) (x : Tile) : Core := { k with tiles := tabPut k.tiles c x }
/-- The core with a channel replaced. -/
def Core.putChan (k : Core) (q : Nat) (x : Chan) : Core := { k with chans := tabPut k.chans q x }

/-- The TASKID that the core whose turn it is issues from; 0 for none. -/
def State.tid (s : State) : Nat := (s.core s.cur).cur
/-- The task that the core whose turn it is issues from. -/
def State.now (s : State) : Task := s.task s.tid
/-- The state with the current task replaced. -/
def State.putNow (s : State) (t : Task) : State := s.putTask s.tid t

/-! ### Places (01 R29; 00 R3) -/

/-- The die of a COREID. -/
def dieOf (core : Nat) : Nat := core / 4096 % 4
/-- The cluster of a COREID: die x 256 + logical cluster. -/
def clusterOf (core : Nat) : Nat := core / 16
/-- The device address of a byte of a core's scratchpad (00 R3). -/
def spadAddr (core off : Nat) : Nat :=
  0xC5 * 2 ^ 56 + dieOf core * 2 ^ 42 + core / 16 % 256 * 2 ^ 32 + core % 16 * 2 ^ 24 + off
/-- The partition that holds a die. -/
def State.partOfDie (s : State) (d : Nat) : Option Nat :=
  (s.parts.find? fun p => p.2.dies / 2 ^ d % 2 == 1).map Prod.fst
/-- The lowest-numbered die of a mask. -/
def firstDie (m : Nat) : Nat := if m % 2 = 1 then 0 else if m / 2 % 2 = 1 then 1 else if m / 4 % 2 = 1 then 2 else 3

/-- What a device address names (00 R3-R6). -/
inductive Place where
  | global (va : Nat)
  | spad (core off : Nat)
  | alcove (core handle : Nat)
  deriving DecidableEq, Repr

/-- The place a device address names; `none` where it is malformed (00 R3, R5). -/
def place (a : Nat) : Option Place :=
  if a / 2 ^ 56 = 0x00 then
    if a < 2 ^ 48 then some (.global a) else none
  else if a / 2 ^ 56 = 0xC5 then
    let die := a / 2 ^ 42 % 4
    let cl := a / 2 ^ 32 % 256
    let co := a / 2 ^ 24 % 16
    let off := a % 2 ^ 19
    if cl < 24 ∧ a = 0xC5 * 2 ^ 56 + die * 2 ^ 42 + cl * 2 ^ 32 + co * 2 ^ 24 + off then
      some (.spad (die * 4096 + cl * 16 + co) off) else none
  else if a / 2 ^ 56 = 0xA1 then
    let co := a / 2 ^ 24 % 16
    let h := a % 256
    if h < 16 ∧ a = 0xA1 * 2 ^ 56 + co * 2 ^ 24 + h then some (.alcove co h) else none
  else none

/-- The place of `n` bytes that lie wholly in the global or the scratchpad space (00 R5, R6). -/
def placeN (a n : Nat) : Option Place :=
  match place a with
  | some (.global va) => if va + n ≤ 2 ^ 48 then some (.global va) else none
  | some (.spad c off) => if off + n ≤ 2 ^ 19 then some (.spad c off) else none
  | _ => none

/-- The home die of a location. -/
def homeDie (loc : Nat) : Nat := if loc / 2 ^ 56 = 0xC5 then loc / 2 ^ 42 % 4 else loc / 2 ^ 37 % 4
/-- A location of a scratchpad. -/
def isSpad (loc : Nat) : Bool := loc / 2 ^ 56 == 0xC5
/-- A location of host memory (11 R329). -/
def isHost (loc : Nat) : Bool := decide (loc / 2 ^ 51 = 1)

/-! ### Regions and reach (05 R143; 09 R259-R263) -/

/-- A region's parent, and its parent's, ..., nearest first. -/
def State.ancestors (s : State) (r : Nat) : Nat → List Nat
  | 0 => []
  | n + 1 => if r = 0 ∨ (tabFind s.regions r).isNone then []
             else if (s.region r).parent = 0 then [] else (s.region r).parent :: s.ancestors (s.region r).parent n

/-- Region `a` is region `r` or an ancestor of it. -/
def State.covers (s : State) (a r : Nat) : Bool :=
  a == r || (s.ancestors r (s.regions.length + 1)).contains a

/-- The region key that holds a bank of a core; `none` where no region does. -/
def State.bankOwner (s : State) (core bank : Nat) : Option Nat := tabFind s.banks (core * 16 + bank)

/-- The logical cluster number names no cluster, or a failed one (13 R411). -/
def State.clusterOut (s : State) (cluster : Nat) : Bool :=
  (s.die (cluster / 256)).failed.contains (cluster % 256) || (s.die (cluster / 256)).dead.contains (cluster % 256)

/-- A task of region `r` may reach a bank (05 R143). -/
def State.reach (s : State) (r core bank : Nat) : Bool :=
  !s.clusterOut (clusterOf core) &&
  match s.bankOwner core bank with
  | some o => s.covers o r || s.covers r o
  | none => false

/-- A task of region `r` may reach every bank that `n` bytes of a scratchpad touch. -/
def State.reachN (s : State) (r core off n : Nat) : Bool :=
  (List.range ((off + n - 1) / 32768 + 1 - off / 32768)).all fun i => s.reach r core (off / 32768 + i)

/-- The key of a task's region. -/
def Task.rkey (t : Task) : Nat := t.part * 65536 + t.region

/-- A task of a privileged region (09 R261). -/
def State.privileged (s : State) (t : Task) : Bool := (s.region t.rkey).flags / 4 % 2 == 1

/-! ### Translation (11 R344-R348) -/

/-- A translation: granted, or the cause of R350: 0 NO-MAPPING, 1 PERMISSION, 2 FORMAT. -/
inductive Xlat where
  | ok (loc : Nat)
  | bad (cause : Nat)
  deriving DecidableEq, Repr

/-- Page size of a leaf (11 R344). -/
def pageSize (k : Nat) : Nat := 4 ^ k * 4096

/-- Leaf sizes a level allows (11 R344). -/
def leafAllowed (level k : Nat) : Bool :=
  match level with
  | 3 => k == 14 || k == 15
  | 2 => decide (9 ≤ k ∧ k ≤ 13)
  | 1 => decide (5 ≤ k ∧ k ≤ 8)
  | _ => decide (k ≤ 4)

/-- A physical address a partition may map: its own dies' device memory, or host memory (11 R329, R330). -/
def physOk (dies pa : Nat) : Bool :=
  if pa / 2 ^ 51 = 1 then true else decide (pa < 2 ^ 39) && dies / 2 ^ (pa / 2 ^ 37) % 2 == 1

/-- The leaf entry of a virtual address, walked from the table at `t` (11 R346); levels left `n`, level `n - 1` first.
The result: entry and page size, or the cause. -/
def walkFrom (mem : Memory) (dies va : Nat) : Nat → Nat → Except Nat (Nat × Nat)
  | 0, _ => .error 2
  | n + 1, t =>
    let e := memNat mem (t + 8 * (va / 2 ^ (12 + 9 * n) % 512)) 8
    if e % 2 = 0 then .error 0
    else if e / 2 ^ 60 ≠ 0 ∨ e / 2 ^ 52 % 16 ≠ 0 ∨ e / 2 ^ 6 % 64 ≠ 0 then .error 2
    else if e / 2 % 2 = 0 then
      if n = 0 ∨ e / 2 ^ 56 % 16 ≠ 0 ∨ e / 4 % 16 ≠ 0 then .error 2
      else walkFrom mem dies va n (e / 4096 % 2 ^ 40 * 4096)
    else
      let k := e / 2 ^ 56 % 16
      let pa := e / 4096 % 2 ^ 40 * 4096
      if leafAllowed n k && pa % pageSize k == 0 && physOk dies pa then .ok (e, k) else .error 2

/-- The leaf entry of a virtual address in a partition's page table (11 R344, R346). -/
def State.walk (s : State) (p va : Nat) : Except Nat (Nat × Nat) :=
  walkFrom s.mem (s.part p).dies va 4 (s.part p).ptroot

/-- A translation cache's entry for a virtual address: entries are kept by page base (11 R348). -/
def tlbFind (t : Tab (Nat × Nat)) (va : Nat) : Option (Nat × Nat) :=
  (t.find? fun x => decide (x.1 ≤ va ∧ va < x.1 + pageSize x.2.2)).map Prod.snd

/-- The pin of a virtual address (11 R352). -/
def State.pinOf (s : State) (p va : Nat) : Option (Nat × Pin) :=
  (s.part p).pins.find? fun x => decide (x.1 ≤ va ∧ va < x.1 + pageSize x.2.k) && !x.2.pending

/-- The leaf entry a translation uses: the pin table, the core's cache, the cluster's, then a walk (11 R348, R352). -/
def State.leaf (s : State) (p core va : Nat) : Except Nat (Nat × Nat) :=
  match s.pinOf p va with
  | some x => .ok (x.2.entry, x.2.k)
  | none =>
    match tlbFind (s.core core).tlb va with
    | some x => .ok x
    | none =>
      match tlbFind (tabGet s.ctlb [] (clusterOf core)) va with
      | some x => .ok x
      | none => s.walk p va

/-- Kinds of access for the permission bits: bit 0 read, bit 1 write, bit 2 execute (11 R347, R350). -/
def permitted (e need : Nat) (priv : Bool) : Bool :=
  (need % 2 == 0 || e / 4 % 2 == 1) && (need / 2 % 2 == 0 || e / 8 % 2 == 1) && (need / 4 % 2 == 0 || e / 16 % 2 == 1) &&
  (priv || e / 32 % 2 == 0)

/-- The virtual address that a device address names in the global space. -/
def globalOf (a : Nat) : Option Nat := match place a with | some (.global va) => some va | _ => none

/-- A translation of a task's access misses: no pin and neither cache holds it, and no walk for the waiting bundle has ended
(05 R150; 11 R348, R352). -/
def State.misses (s : State) (t : Task) (va : Nat) : Bool :=
  (s.pinOf t.part va).isNone && (tlbFind (s.core t.core).tlb va).isNone && (tlbFind (tabGet s.ctlb [] (clusterOf t.core)) va).isNone &&
  !t.walks.contains (va / 4096)

/-- The physical address of a virtual one for an access (11 R347, R348). -/
def State.xlat (s : State) (p core va need : Nat) (priv : Bool) : Xlat :=
  match s.leaf p core va with
  | .error c => .bad c
  | .ok (e, k) =>
    if permitted e need priv then .ok (e / 4096 % 2 ^ 40 * 4096 + va % pageSize k) else .bad 1

/-- A copy engine's translation: the pin table, its cluster's cache, a walk (11 R348, R352). -/
def State.clusterXlat (s : State) (p cluster va need : Nat) (priv : Bool) : Xlat :=
  let r : Except Nat (Nat × Nat) := match s.pinOf p va with
    | some x => .ok (x.2.entry, x.2.k)
    | none => match tlbFind (tabGet s.ctlb [] cluster) va with
      | some x => .ok x
      | none => s.walk p va
  match r with
  | .error c => .bad c
  | .ok (e, k) => if permitted e need priv then .ok (e / 4096 % 2 ^ 40 * 4096 + va % pageSize k) else .bad 1

/-- The translation of an engine that belongs to no cluster, and has no translation cache: the pin table, else a walk (11 R348). -/
def State.homeXlat (s : State) (p va need : Nat) (priv : Bool) : Xlat := s.clusterXlat p 0xFFFFFF va need priv

/-- Bytes of a save area (07 R219). -/
def areaSize : Nat := 0x1A000

/-- Bytes at a virtual address touch the save pool of a task's region, and the task is not privileged (05 R158; 07 R219). -/
def State.inPool (s : State) (t : Task) (va n : Nat) : Bool :=
  let g := s.region t.rkey
  decide (va < g.spbase + areaSize * g.spcount ∧ g.spbase < va + n) && !s.privileged t

/-! ### Clocks and homes (11 R330-R336, R360, R361) -/

/-- The line, or scratchpad row, of a location. -/
def lineOf (loc : Nat) : Nat := loc / 64

/-- Write timestamp and read lease of a line at its home; a device-memory line not in the L2 is filled with the die's
MTS (11 R332, R336). -/
def State.stamp (s : State) (line : Nat) : Nat × Nat :=
  (tabFind s.stamps line).getD
    (if isSpad (line * 64) then (0, 0) else ((s.die (homeDie (line * 64))).mts, (s.die (homeDie (line * 64))).mts))

/-- Lease length at a location's home. -/
def State.leaseAt (s : State) (loc : Nat) : Nat :=
  match s.partOfDie (homeDie loc) with
  | some p => (s.part p).lease
  | none => 16

/-- Insertion of a value into an ascending list. -/
def insertNat (a : Nat) : List Nat → List Nat
  | [] => [a]
  | b :: r => if a ≤ b then a :: b :: r else b :: insertNat a r

/-- A line leaves the L2: its home die's MTS takes in its read lease, and its modified sectors are written back (11 R331, R336). -/
def State.evict (s : State) (line : Nat) : State :=
  let d := homeDie (line * 64)
  { s with stamps := tabDel s.stamps line, dirty := s.dirty.filter fun x => x / 2 != line }.putDie d
    { s.die d with mts := max (s.die d).mts (s.stamp line).2 }

/-- Lines that the L2 of a die holds. -/
def State.linesOf (s : State) (die : Nat) : List Nat :=
  (s.stamps.filter fun x => !isSpad (x.1 * 64) && homeDie (x.1 * 64) == die).map Prod.fst

/-- A line brought into the L2 of its home die, which takes it from HBM with the die's MTS; a full L2 gives up a line first, of its free
choice (11 R331, R336: 96 MiB of 64-byte lines). Scratchpad rows and host lines have no place there. -/
def State.fillL2 (s : State) (loc : Nat) : State :=
  if isSpad loc || isHost loc || (tabFind s.stamps (lineOf loc)).isSome then s
  else
    let ls := s.linesOf (homeDie loc)
    let s1 := if ls.length < 0x180000 then s
              else { s with free := s.free + 1 }.evict (ls.getD (Config.freeNat s.free % ls.length) 0)
    { s1 with stamps := tabPut s1.stamps (lineOf loc) (s1.stamp (lineOf loc)) }

/-- The 32-byte sectors, 0 and 1, of a line that `n` bytes from a location in it touch (11 R331). -/
def sectorsIn (loc n : Nat) : List Nat := [0, 1].filter fun k => decide (loc % 64 < 32 * k + 32 ∧ 32 * k < loc % 64 + n)

/-- A copy that can serve `n` bytes at a location to a reader at a clock: its lease covers the clock and it holds their sectors
(11 R331, R333). -/
def Copy.serves (c : Copy) (cache pts loc n : Nat) : Bool :=
  c.cache == cache && c.line == lineOf loc && decide (pts ≤ c.rts) && (sectorsIn loc n).all fun k => (tabFind c.secs k).isSome

/-- The copy that serves a cluster: its cluster cache's, or else its die's remote-data cache's (11 R333). -/
def State.copyFor (s : State) (cluster pts loc n : Nat) : Option Copy :=
  match s.copies.find? fun c => c.serves cluster pts loc n with
  | some c => some c
  | none => s.copies.find? fun c => c.serves (65536 + cluster / 256) pts loc n

/-- The 64 bytes of a copy, zero where a sector is not filled. -/
def Copy.bytes (c : Copy) : List Byte := tabGet c.secs (List.replicate 32 0) 0 ++ tabGet c.secs (List.replicate 32 0) 1

/-- Lines that a cache holds: 2 MiB for a cluster cache, 32 MiB for a remote-data cache (11 R331). -/
def copyCap (cache : Nat) : Nat := if cache < 65536 then 0x8000 else 0x80000

/-- The copies with one replaced or added; a full cache gives up the copy it took longest ago, which no timestamp shows. -/
def putCopy (cs : List Copy) (c : Copy) : List Copy :=
  let rest := cs.filter fun x => !(x.cache == c.cache && x.line == c.line)
  c :: if (rest.filter fun x => x.cache == c.cache).length < copyCap c.cache then rest
       else (rest.reverse.eraseP fun x => x.cache == c.cache).reverse

/-- A copy of the sectors that a load fetches from the home, placed in a cache. Sectors that the cache holds already stay where no write
has come between (11 R331, R333). -/
def State.placeCopy (s : State) (cache loc n w r : Nat) : State :=
  let line := lineOf loc
  let old := ((s.copies.find? fun c => c.cache == cache && c.line == line && c.wts == w).map Copy.secs).getD []
  let secs := (sectorsIn loc n).foldl (fun t k => tabPut t k (memBytes s.mem (line * 64 + 32 * k) 32)) old
  { s with copies := putCopy s.copies { cache := cache, line := line, wts := w, rts := r, secs := secs } }

/-- The key of the bank that a scratchpad location lies in: COREID x 16 + bank (05 R143). -/
def bankKey (loc : Nat) : Nat := (loc / 2 ^ 42 % 4 * 4096 + loc / 2 ^ 32 % 256 * 16 + loc / 2 ^ 24 % 16) * 16 + loc % 2 ^ 19 / 32768

/-- The bank of a location has served no other row in this cycle (05 R144); a location outside the scratchpads has none. -/
def State.bankFree (s : State) (loc : Nat) : Bool :=
  !isSpad loc || (let x := tabGet s.rowAt (0, 0) (bankKey loc)
                  x.1 != s.cycle + 1 || x.2 == loc % 2 ^ 19 / 64)

/-- The bank of a location serves its row in this cycle. -/
def State.serveRow (s : State) (loc : Nat) : State := { s with rowAt := tabPut s.rowAt (bankKey loc) (s.cycle + 1, loc % 2 ^ 19 / 64) }

/-- A load of bytes of one line under a clock (11 R333, R335, R361): the clock after it, the bytes, the state. -/
def State.loadLine (s : State) (cluster pts loc n : Nat) : Nat × List Byte × State :=
  let line := lineOf loc
  if isHost loc then (pts, memBytes s.mem loc n, s)
  else if isSpad loc then
    let (w, r) := s.stamp line
    let ts := max pts w
    (ts, memBytes s.mem loc n, { s with stamps := tabPut s.stamps line (w, max r ts) }.serveRow loc)
  else
    match s.copyFor cluster pts loc n with
    | some c => (max pts c.wts, (c.bytes.drop (loc % 64)).take n, s)
    | none =>
      let s0 := s.fillL2 loc
      let (w, r) := s0.stamp line
      let ts := max pts w
      let r' := max r (ts + s.leaseAt loc)
      let s1 := { s0 with stamps := tabPut s0.stamps line (w, r') }.placeCopy cluster loc n w r'
      (ts, memBytes s.mem loc n, if homeDie loc = cluster / 256 then s1 else s1.placeCopy (65536 + cluster / 256) loc n w r')

/-- The partition's largest write timestamp raised (11 R332: PCLK follows W - L). -/
def State.noteWrite (s : State) (loc w : Nat) : State :=
  match s.partOfDie (homeDie loc) with
  | some p => s.putPart p { s.part p with raise := max (s.part p).raise w }
  | none => s

/-- A write of bytes of one line under a clock at its home (11 R334, R335, R361): the clock after it and the state.
`cluster` is the storing cluster, whose copies take the value. -/
def State.writeLine (s : State) (cluster pts loc : Nat) (bs : List Byte) : Nat × State :=
  let line := lineOf loc
  if isHost loc then (pts, { s with mem := memPutBytes s.mem loc bs })
  else
    let s0 := s.fillL2 loc
    let (_, r) := s0.stamp line
    let w := max pts (r + 1)
    let mem := memPutBytes s.mem loc bs
    let own (c : Copy) : Bool := c.line == line && (c.cache == cluster || c.cache == 65536 + cluster / 256)
    let now (c : Copy) : Tab (List Byte) := c.secs.map fun k => (k.1, memBytes mem (line * 64 + 32 * k.1) 32)
    let s1 := { s0 with mem := mem, stamps := tabPut s0.stamps line (w, w) }
    (w, (if isSpad loc then s1.serveRow loc else
      { s1 with copies := s1.copies.map (fun c => if own c then { c with wts := w, rts := w, secs := now c } else c),
                dirty := (sectorsIn loc bs.length).foldl (fun l k => if l.contains (2 * line + k) then l else insertNat (2 * line + k) l) s1.dirty }).noteWrite loc w)

/-- The bytes of one access, split at line boundaries. -/
def splitLines (loc n : Nat) : Nat → List (Nat × Nat)
  | 0 => []
  | f + 1 => if n = 0 then []
             else if n ≤ 64 - loc % 64 then [(loc, n)]
             else (loc, 64 - loc % 64) :: splitLines (loc + (64 - loc % 64)) (n - (64 - loc % 64)) f

/-- A load of several pieces in order. -/
def State.loadAll (s : State) (cluster pts : Nat) : List (Nat × Nat) → Nat × List Byte × State
  | [] => (pts, [], s)
  | (a, n) :: r =>
    let (p1, b1, s1) := s.loadLine cluster pts a n
    let (p2, b2, s2) := s1.loadAll cluster p1 r
    (p2, b1 ++ b2, s2)

/-- A write of several pieces in order, the bytes taken from the front. -/
def State.writeAll (s : State) (cluster pts : Nat) (bs : List Byte) : List (Nat × Nat) → Nat × State
  | [] => (pts, s)
  | (a, n) :: r =>
    let (p1, s1) := s.writeLine cluster pts a (bs.take n)
    s1.writeAll cluster p1 (bs.drop n) r

/-- A load of any length at consecutive locations. -/
def State.load (s : State) (cluster pts loc n : Nat) : Nat × List Byte × State :=
  s.loadAll cluster pts (splitLines loc n (n / 64 + 2))

/-- A write of any length at consecutive locations. -/
def State.store (s : State) (cluster pts loc : Nat) (bs : List Byte) : Nat × State :=
  s.writeAll cluster pts bs (splitLines loc bs.length (bs.length / 64 + 2))

/-- The lines of a write that the host may hold (11 R359). -/
def State.hostHeld (s : State) (loc n : Nat) : List Nat :=
  if isHost loc || isSpad loc then [] else
    ((splitLines loc n (n / 64 + 2)).map fun x => lineOf x.1).filter fun l => s.snoop.contains l

/-- The state with a write noted whose lines the host may hold: the step that makes it is taken only once they are free (11 R359;
notes/assumptions/32). -/
def State.noteHeld (s : State) (loc n : Nat) : State := { s with recalls := s.recalls ++ s.hostHeld loc n }

/-- Back-invalidations sent for the lines of a write, on behalf of a task or (0) an engine. -/
def State.backInv (s : State) (tid : Nat) (ls : List Nat) : State :=
  { s with binv := s.binv ++ (ls.filter fun l => !s.binv.any fun b => b.1 == l).map fun l => (l, tid) }

/-- A read of these bytes meets an uncorrectable error (13 R410). -/
def State.badAt (s : State) (loc n : Nat) : Bool := s.bad.any fun x => decide (loc < 32 * x + 32 ∧ 32 * x < loc + n)

/-- A table with every key of a range unlisted. -/
def tabClear {α : Type} (t : Tab α) (lo n : Nat) : Tab α := t.filter fun x => !decide (lo ≤ x.1 ∧ x.1 < lo + n)

/-! ### Registers (01 R7-R9, R21, R22) -/

/-- A scalar register; s0 reads as zero (01 R8). -/
def Task.getS (t : Task) (n : Nat) : W64 := if n = 0 then 0 else tabGet t.sregs 0 n
/-- A vector register by storage index. -/
def Task.getV (t : Task) (n : Nat) : VReg := tabGet t.vregs 0 n
/-- A predicate; p0 reads as all ones (01 R9). Reset and start value of p1-p15: 0. -/
def Task.getP (t : Task) (n : Nat) : BitVec 16 := if n = 0 then 0xFFFF else tabGet t.preds 0 n
/-- A write of a scalar register; to s0 it is discarded (01 R8). -/
def Task.putS (t : Task) (n : Nat) (v : W64) : Task := if n = 0 then t else { t with sregs := tabPut t.sregs n v }
/-- A write of a vector register by storage index. -/
def Task.putV (t : Task) (n : Nat) (v : VReg) : Task := { t with vregs := tabPut t.vregs n v }
/-- A write of a predicate; to p0 it is discarded (01 R9). -/
def Task.putP (t : Task) (n : Nat) (v : BitVec 16) : Task := if n = 0 then t else { t with preds := tabPut t.preds n v }

/-- Rotation of a vector name already reduced by its index base (01 R21). -/
def Task.rotate (t : Task) (n : Nat) : Nat :=
  if n < t.rotSize then (n + t.rotSize - t.rotBase) % t.rotSize else n

/-- The name a vector field has after its index base (01 R21): `base` is ib0, ib1, or 0 where no base applies. -/
def Task.indexed (t : Task) (field base : Nat) (ix : Bool) : Nat :=
  if ix then (field + base) % t.vn else field

/-- Lane i of a vector register (04 R127). -/
def lane (v : VReg) (i : Nat) : Word := BitVec.ofNat 32 (v.toNat / 2 ^ (32 * i))
/-- Element j, 64 bits (04 R127). -/
def elem (v : VReg) (j : Nat) : W64 := BitVec.ofNat 64 (v.toNat / 2 ^ (64 * j))
/-- A vector register from its sixteen lanes. -/
def fromLanes (f : Nat → Word) : VReg :=
  BitVec.ofNat 512 ((List.range 16).foldr (fun i acc => (f i).toNat + 2 ^ 32 * acc) 0)
/-- A vector register from its eight elements. -/
def fromElems (f : Nat → W64) : VReg :=
  BitVec.ofNat 512 ((List.range 8).foldr (fun i acc => (f i).toNat + 2 ^ 64 * acc) 0)
/-- The lanes of `new` where the mask has a one, and of `old` elsewhere (04 R127). -/
def mergeLanes (mask : BitVec 16) (old new : VReg) : VReg :=
  if mask = 0xFFFF then new else fromLanes fun i => if mask.getLsbD i then lane new i else lane old i
/-- The guard bits of 64-bit elements, spread over their lanes (04 R127: bit 2j decides). -/
def elemMask (m : BitVec 16) : BitVec 16 :=
  BitVec.ofNat 16 ((List.range 8).foldr (fun j acc => (if m.getLsbD (2 * j) then 3 else 0) + 4 * acc) 0)

/-- A destination register is empty. -/
def Task.isEmpty (t : Task) : Dest → Bool
  | .s n => n != 0 && t.sEmpty.getLsbD n
  | .v n => t.vEmpty.getLsbD n
  | _ => false
/-- A register is empty and marked failed (05 R151). -/
def Task.isFailed (t : Task) : Dest → Bool
  | .s n => n != 0 && t.sFail.getLsbD n
  | .v n => t.vFail.getLsbD n
  | _ => false
/-- A register marked empty (01 R10, R13). -/
def Task.setEmpty (t : Task) : Dest → Task
  | .s n => if n = 0 then t else { t with sEmpty := t.sEmpty ||| BitVec.ofNat 64 (2 ^ n) }
  | .v n => { t with vEmpty := t.vEmpty ||| BitVec.ofNat 128 (2 ^ n) }
  | _ => t
/-- A register marked full, and no longer failed. -/
def Task.setFull (t : Task) : Dest → Task
  | .s n => { t with sEmpty := t.sEmpty &&& ~~~ BitVec.ofNat 64 (2 ^ n), sFail := t.sFail &&& ~~~ BitVec.ofNat 64 (2 ^ n) }
  | .v n => { t with vEmpty := t.vEmpty &&& ~~~ BitVec.ofNat 128 (2 ^ n), vFail := t.vFail &&& ~~~ BitVec.ofNat 128 (2 ^ n) }
  | _ => t
/-- A register marked failed; it stays empty (05 R151). -/
def Task.setFailed (t : Task) : Dest → Task
  | .s n => if n = 0 then t else { t with sFail := t.sFail ||| BitVec.ofNat 64 (2 ^ n) }
  | .v n => { t with vFail := t.vFail ||| BitVec.ofNat 128 (2 ^ n) }
  | _ => t

/-- A value written to a destination under a lane mask. -/
def Task.put (t : Task) (d : Dest) (val : VReg) (mask : BitVec 16) : Task :=
  match d with
  | .s n => t.putS n (BitVec.ofNat 64 val.toNat)
  | .v n => t.putV n (mergeLanes mask (t.getV n) val)
  | .p n => t.putP n ((t.getP n &&& ~~~ mask) ||| (BitVec.ofNat 16 val.toNat &&& mask))
  | .ib n => if n = 0 then { t with ib0 := val.toNat % 128 } else { t with ib1 := val.toNat % 128 }

/-- A fixed-latency result becomes visible; one whose register a later producer has made empty is discarded (01 R15). -/
def Task.landOne (t : Task) (f : Flight) : Task :=
  if t.isEmpty f.dst then t else t.put f.dst f.val f.mask

/-- Results in order of the bundle they are due for, and of issue (01 R15). -/
def insertFlight (f : Flight) : List Flight → List Flight
  | [] => [f]
  | g :: r => if f.due < g.due ∨ (f.due = g.due ∧ f.ord < g.ord) then f :: g :: r else g :: insertFlight f r

/-- A producer's result fills its registers (01 R12, R13). -/
def Task.fill (t : Task) (p : Prod) (vals : List VReg) : Task :=
  let t1 := { t with prods := t.prods.filter fun q => q.tok != p.tok }
  (p.dsts.zip vals).foldl (fun t x => (t.put x.1 x.2 0xFFFF).setFull x.1) t1

/-- Every result due for the task's next bundle becomes visible (01 R15; 07 R210). -/
def Task.land (t : Task) : Task :=
  let due := t.flights.filter fun f => decide (f.due ≤ t.nb)
  let t1 := { t with flights := t.flights.filter fun f => decide (t.nb < f.due) }
  due.foldl Task.landOne t1

/-- Every drawn tile value due for the task's next bundle fills its register (09 R285). -/
def Task.landDrawn (t : Task) : Task :=
  t.prods.foldl (fun t p => match p.wait with
    | .drawn u v => if u ≤ t.nb then t.fill p [BitVec.setWidth 512 v] else t
    | _ => t) t

/-- The task holds a replay-buffer entry that its next bundle must see (07 R210). -/
def Task.replayDue (t : Task) : Bool := t.flights.any fun f => f.replay && decide (f.due ≤ t.nb)

/-- One more bundle of the task has issued; results now due land, unless replay entries are to be injected first. -/
def Task.bump (t : Task) : Task :=
  let t1 := { t with nb := t.nb + 1 }
  if t1.replayDue then t1.landDrawn else t1.landDrawn.land

/-- A result of fixed latency leaves for its register (02 R60). -/
def Task.launch (t : Task) (d : Dest) (off : Nat) (val : VReg) (mask : BitVec 16) : Task :=
  match d with
  | .s 0 => t
  | .p 0 => t
  | _ => { t with seqno := t.seqno + 1,
                  flights := insertFlight { dst := d, due := t.nb + off, ord := t.seqno, val := val, mask := mask } t.flights }

/-- A full/empty producer issues: its registers become empty at the commit (01 R10, R13); a replay entry that names one of them is
discarded (07 R210). -/
def Task.produce (t : Task) (ds : List Dest) (w : Wait) : Task :=
  ds.foldl Task.setEmpty { t with
    ntok := t.ntok + 1, prods := t.prods ++ [{ tok := t.ntok, dsts := ds, wait := w }]
    flights := t.flights.filter fun f => !(f.replay && ds.contains f.dst) }

/-- What a producer waits for has changed. -/
def Task.setWait (t : Task) (tok : Nat) (w : Wait) : Task :=
  { t with prods := t.prods.map fun p => if p.tok == tok then { p with wait := w } else p }

/-- A task's clock of a class raised (11 R341). -/
def Task.classClock (t : Task) (c clk : Nat) : Task := { t with clks := tabPut t.clks c (max (tabGet t.clks 0 c) clk) }

/-- A producer's result arrives with an uncorrectable error, or a remote operation failed: its registers become failed
(05 R151; 14 R435). -/
def Task.fillFailed (t : Task) (p : Prod) : Task :=
  p.dsts.foldl Task.setFailed { t with prods := t.prods.filter fun q => q.tok != p.tok }

/-! ### Taking a trap, and the return from one (07 R203-R210; 04 R126) -/

/-- The parts of a trap record (07 R205). -/
structure Trap where
  pc      : Nat
  stage   : Nat := 0
  entry   : Bool := false
  fetch   : Bool := false
  mask    : Nat := 0
  causes  : Nat := 0
  addr    : Nat := 0
  detail  : Nat := 0
  operand : W64 := 0
  vec     : Bool := false
  reg     : Nat := 0
  code    : Nat := 0
  deriving DecidableEq, Repr

/-- One if true. -/
def b2n (b : Bool) : Nat := if b then 1 else 0

/-- The record's eight words (07 R205). -/
def Trap.words (x : Trap) (tid cycle : Nat) : List W64 :=
  [BitVec.ofNat 64 x.pc,
   BitVec.ofNat 64 (tid % 2 ^ 32 * 2 ^ 32 + x.stage * 2 ^ 16 + b2n x.entry * 2 ^ 9 + b2n x.fetch * 2 ^ 8 + x.mask),
   BitVec.ofNat 64 x.causes,
   BitVec.ofNat 64 x.addr,
   BitVec.ofNat 64 x.detail,
   x.operand,
   BitVec.ofNat 64 (b2n x.vec * 2 ^ 23 + x.reg * 2 ^ 16 + x.code),
   BitVec.ofNat 64 cycle]

/-- A task stops issuing: a result due for its next bundle is written to its register; the others are caught, and land at their
offsets when it issues again, but for those whose register a later producer has made empty (07 R207, R209, R210). -/
def Task.catchFlights (t : Task) : Task :=
  let t1 := t.land
  { t1 with flights := (t1.flights.filter fun f => !t1.isEmpty f.dst).map fun f => { f with replay := true } }

/-- A task leaves the issue logic of its core. -/
def State.stopIssue (s : State) (tid : Nat) : State :=
  let k := s.core (s.task tid).core
  if k.cur = tid then s.putCore (s.task tid).core { k with cur := 0, last := tid } else s

/-- A task that may go on: parked on a remote operation that is still outstanding, or ready (01 R32; 14 R433). -/
def State.goStatus (s : State) (tid : Nat) : TStatus := if s.rops.any fun o => o.tid == tid then .remote else .ready

/-- TAKING A TRAP: the task stops issuing with the record of R205, its in-flight results caught (07 R207); its resume point
stands in the record and in its pc. The action table decides what follows (TRAP_ACTION). -/
def State.takeTrap (s : State) (tid : Nat) (x : Trap) : State :=
  let t := s.task tid
  let w := x.words tid (s.cycle - (s.core t.core).cycle0)
  (s.putTask tid { t.catchFlights with
    status := .trapped, trec := w, trapAt := s.cycle, pc := x.pc, idle := 0, hold := none, held := 0, walks := [] }).stopIssue tid

/-- THE RETURN FROM A TRAP: the trapped task issues again at a word address (04 R126; 07 R207); every register marked failed
becomes zero and full (05 R151). -/
def State.trapReturn (s : State) (tid pc : Nat) : State :=
  let t := s.task tid
  let clearS (t : Task) : Task := (List.range 64).foldl (fun t n => if t.isFailed (.s n) then (t.putS n 0).setFull (.s n) else t) t
  let clearV (t : Task) : Task := (List.range 128).foldl (fun t n => if t.isFailed (.v n) then (t.putV n 0).setFull (.v n) else t) t
  s.putTask tid { clearV (clearS t) with status := s.goStatus tid, trec := [], pc := pc, hold := none, held := 0 }

/-! ### Time -/

/-- Parts of a nanosecond that the model counts: a number that every clock of 100 MHz to 4,000 MHz in steps of 100 divides. -/
def timeUnit : Nat := 5342931457063200

/-- Cycles pass on the arithmetic clock; the die time base goes on at 1 GHz whatever that clock is, so a cycle of the die whose core has
its turn is worth 1000 / MHz nanoseconds (10 R301; notes/assumptions/6). -/
def State.tick (s : State) (n : Nat) : State :=
  let f := s.frac + n * (timeUnit * 1000 / max (s.die (dieOf s.cur)).mhz 1)
  { s with cycle := s.cycle + n, ns := s.ns + f / timeUnit, frac := f % timeUnit }

/-- FTIME (14 R424). -/
def State.ftime (s : State) : Nat := (s.ns + s.fab.ftime0) % 2 ^ 64

/-- CYCLE of a core (01 R29). -/
def State.cycleOf (s : State) (core : Nat) : Nat := s.cycle - (s.core core).cycle0

end Sys2Proof.Machine
end

