-- ==== Sys2Proof/Machine/MxMath.lean ====
section
/-! DEFINITION. The arithmetic of the residue array (03 R78-R101): residues, reverse conversion, the check, block alignment, the
side path and the merges, and the lane states of a degraded core. -/

namespace Sys2Proof.Machine

open Config (modulus halfNarrow halfWide)

/-- The inverse of a modulo m by search; 0 where there is none (03 R82). -/
def modInv (a m : Nat) : Nat := ((List.range m).find? fun b => decide (a % m * b % m = 1 % m)).getD 0

/-- Reverse conversion, mixed-radix (03 R82): from channels still to use, X and M so far. -/
def reconFrom (r : Nat → Nat) : List Nat → Nat → Nat → Nat × Nat
  | [], x, m => (x, m)
  | j :: js, x, m =>
    let mj := modulus j
    let d := (r j + mj - x % mj) % mj * modInv (m % mj) mj % mj
    reconFrom r js (x + d * m) (m * mj)

/-- The integer rebuilt from the residues of a set of channels, in the symmetric range (03 R82). -/
def reconstruct (r : Nat → Nat) (cs : List Nat) : Int :=
  let (x, m) := reconFrom r cs 0 1
  if x > (m - 1) / 2 then (x : Int) - m else x

/-- What a check comes to (03 R92). -/
inductive Check where
  | ok (x : Int)
  | corrected (i : Nat) (x : Int)
  | unlocated
  | overflow
  deriving DecidableEq, Repr

/-- The check procedure (03 R92): channels in service, how many of them are checks, half-range. -/
def checkLane (r : Nat → Nat) (a : List Nat) (nq : Nat) (h : Nat) : Check :=
  let x := reconstruct r a
  if x.natAbs ≤ h then .ok x
  else if nq < 2 then .unlocated
  else
    match (a.filterMap fun i =>
        let xi := reconstruct r (a.filter fun j => j != i)
        if xi.natAbs ≤ h then some (i, xi) else none) with
    | [(i, xi)] => .corrected i xi
    | [] => .overflow
    | _ => .unlocated

/-- The residue of an integer in a channel (03 R79). -/
def residue (x : Int) (j : Nat) : Nat := (x % (modulus j : Int)).toNat

/-- Channels of a lane: narrow g, or wide (3), ascending (03 R80). -/
def laneChans (l : Nat) : List Nat :=
  if l = 3 then List.range 21 else (List.range 7).map (· + 7 * l)

/-- A wide primary (03 R78, R80). -/
def widePrimary (j : Nat) : Bool := j % 7 != 6

/-- Half-range of a lane. -/
def half (l : Nat) : Nat := if l = 3 then halfWide else halfNarrow l

/-- A lane's channels lost to service. -/
def lost (outmask l : Nat) : List Nat := (laneChans l).filter fun j => outmask / 2 ^ j % 2 == 1

/-- State of a lane, coded as CHSTAT has it: 0 FULL, 1 REDUCED (wide), 2 DETECT (narrow), 3 OUT (03 R98, R99; 06 R195). -/
def laneState (outmask l : Nat) : Nat :=
  let ls := lost outmask l
  if l = 3 then
    if ls.any widePrimary then 3 else if ls.length = 0 then 0 else if ls.length = 1 then 1 else 3
  else
    match ls with
    | [] => 0
    | [_] => 2
    | _ => 3

/-- Channels of a lane in service and how many of them check (03 R92, R98, R99). -/
def inService (outmask l : Nat) : List Nat × Nat :=
  let a := (laneChans l).filter fun j => outmask / 2 ^ j % 2 == 0
  if l = 3 then (a, (a.filter fun j => !widePrimary j).length)
  else
    match lost outmask l with
    | [] => (a, 2)
    | _ => (a, 1)

/-- Capability bits, narrow and wide (03 R100). -/
def capable (outmask : Nat) (wide : Bool) : Bool :=
  if wide then laneState outmask 3 != 3 else [0, 1, 2].all fun l => laneState outmask l != 3

/-! ### The mode word (06 R177, R178) -/

def mLane (w : Nat) : Nat := w % 4
def mAf (w : Nat) : Nat := w / 4 % 16
def mBf (w : Nat) : Nat := w / 2 ^ 6 % 16
def mAn (w : Nat) : Nat := w / 2 ^ 10 % 16
def mAq (w : Nat) : Nat := w / 2 ^ 14 % 16
def mBn (w : Nat) : Nat := w / 2 ^ 18 % 16
def mBq (w : Nat) : Nat := w / 2 ^ 22 % 16
def mAcc (w : Nat) : Nat := w / 2 ^ 26 % 4
def mSp (w : Nat) : Nat := w / 2 ^ 28 % 4
def mMaxk (w : Nat) : Nat := w / 2 ^ 32 % 2 ^ 16
def mDlim (w : Nat) : Nat := w / 2 ^ 48 % 32

/-- A plane-nested format's stored and read counts are in range (06 R177). -/
def planesOk (f n q : Nat) : Bool :=
  if f ≤ 3 then n == 0 && q == 0 else decide (2 ≤ n ∧ n ≤ 8 ∧ 1 ≤ q ∧ q ≤ n)

/-- A valid mode word (06 R178). -/
def modeValid (w : Nat) : Bool :=
  decide (w < 2 ^ 53) && w / 2 ^ 30 % 4 == 0 && decide (mLane w ≤ 1) && decide (mAcc w ≤ 2) && decide (mAf w ≤ 5) &&
  decide (mBf w ≤ 5) && planesOk (mAf w) (mAn w) (mAq w) && planesOk (mBf w) (mBn w) (mBq w) &&
  (mDlim w == 0 || decide (5 ≤ mDlim w ∧ mDlim w ≤ 23)) &&
  (if mLane w = 0 then
    ((mAf w == 2 || mAf w == 3) && (mBf w == 2 || mBf w == 3) && mAcc w == 1 && mSp w != 1) ||
    (mAf w == 4 && mBf w == 4 && mAcc w == 1) ||
    (mAf w == 5 && mBf w == 5 && mAcc w == 0)
   else decide (mAf w ≤ 1) && decide (mBf w ≤ 1) && (mAcc w == 1 || mAcc w == 2) && mSp w == 0)

/-- Rows of a tile: 48 narrow, 16 wide. -/
def mRows (w : Nat) : Nat := if mLane w = 0 then 48 else 16
/-- The lane of a row (03 R80; 06 R180). -/
def rowLane (w m : Nat) : Nat := if mLane w = 0 then m / 16 else 3
/-- N of N:32, 32 for dense. -/
def mN (w : Nat) : Nat := match mSp w with | 1 => 4 | 2 => 8 | 3 => 16 | _ => 32
/-- The K-span of B (06 R181). -/
def mSpan (w : Nat) : Nat := match mSp w with | 1 => 256 | 2 => 128 | 3 => 64 | _ => 32
/-- K-steps an MMA or MMAS counts as (06 R181, R183). -/
def mSteps (w : Nat) : Nat := if mSp w = 1 then 2 else 1
/-- Scale words popped (06 R182). -/
def mWords (w : Nat) : Nat := if mAf w = 4 then 48 + 16 * (mSpan w / 32) else 0
/-- The floating-point format of an operand code (06 R177). -/
def opFmt (f : Nat) : Fmt := match f with | 0 => .f64 | 1 => .f32 | 2 => .f16 | _ => .bf16
/-- The accumulator's format. -/
def accFmt (w : Nat) : Fmt := if mAcc w = 2 then .f64 else .f32

/-! ### Operands (06 R179; 03 R70-R74, R83-R85) -/

/-- Element (m, k) of A, kept position k < 32, as its integer or its encoding. -/
def opA (w : Nat) (a : Memory) (m k : Nat) : Nat :=
  if mAf w ≤ 3 then memNat a ((32 * m + k) * ((opFmt (mAf w)).w / 8)) ((opFmt (mAf w)).w / 8)
  else (List.range (mAq w)).foldl (fun v j => 2 * v + memNat a (4 * (j * mRows w + m)) 4 / 2 ^ k % 2) 0

/-- Element (k, n) of B. -/
def opB (w : Nat) (b : Memory) (k n : Nat) : Nat :=
  if mBf w ≤ 3 then memNat b ((mSpan w * n + k) * ((opFmt (mBf w)).w / 8)) ((opFmt (mBf w)).w / 8)
  else (List.range (mBq w)).foldl
    (fun v j => 2 * v + memNat b (4 * ((j * (mSpan w / 32) + k / 32) * 16 + n)) 4 / 2 ^ (k % 32) % 2) 0

/-- Words of metadata a group holds (03 R73). -/
def metaWords (n : Nat) : Nat := (5 * n + 31) / 32

/-- The metadata bit string of a row's group (03 R73; 06 R179). -/
def metaBits (w : Nat) (md : Memory) (m g : Nat) : Nat :=
  memNat md (4 * metaWords (mN w) * (m * (32 / mN w) + g)) (4 * metaWords (mN w))

/-- Index j of a group. -/
def metaIdx (bits j : Nat) : Nat := bits / 2 ^ (5 * j) % 32

/-- A group's indices rise strictly and nothing stands above them (03 R74). -/
def metaOk (n bits : Nat) : Bool :=
  decide (bits < 2 ^ (5 * n)) && (List.range (n - 1)).all fun j => decide (metaIdx bits j < metaIdx bits (j + 1))

/-- Every group that an MMAS reads is well formed. -/
def metaAllOk (w : Nat) (md : Memory) : Bool :=
  (List.range 48).all fun m => (List.range (32 / mN w)).all fun g => metaOk (mN w) (metaBits w md m g)

/-- One K-block's 32 pairs for an output element: A values, B values (encodings or plane integers), zeros where A keeps none.
`dense` blocks pair position k with position k; sparse floating-point blocks are one group; sparse plane-nested steps pair kept
elements with their rows of B and form one block per 32 rows of B (06 R181). -/
def blockPairs (w : Nat) (a b md : Memory) (m n blk : Nat) : List (Nat × Nat) :=
  if mSp w = 0 then (List.range 32).map fun k => (opA w a m k, opB w b k n)
  else
    let nn := mN w
    let bits := metaBits w md m blk
    (List.range 32).map fun k =>
      match (List.range nn).find? fun j => metaIdx bits j == k with
      | some j => (opA w a m (nn * blk + j), opB w b (32 * blk + k) n)
      | none => (0, opB w b (32 * blk + k) n)

/-- Blocks of a step: groups where A is sparse, one otherwise. -/
def stepBlocks (w : Nat) : Nat := if mSp w = 0 then 1 else 32 / mN w

/-- Block alignment (03 R84): the aligned integers and E. -/
def alignBlock (f : Fmt) (win : Nat) (xs : List Nat) : List Int × Int :=
  let ds := xs.map f.decode
  -- e of R67: the value is sig x 2^(e - s + 1)
  let es := ds.filterMap fun d => match d with
    | .fin _ m e => some (if m = 0 then f.emin else e + f.fb)
    | _ => none
  let emax := es.foldl max f.emin
  (ds.map fun d => match d with
    | .fin n m e =>
      let t : Int := (win : Int) - f.prec - (emax - (if m = 0 then f.emin else e + f.fb))
      sgnInt n (if 0 ≤ t then m * 2 ^ t.toNat else m / 2 ^ (-t).toNat)
    | _ => 0, emax + 1 - win)

/-- The side path (03 R85): the special result of a block, if any. A NaN made from operands that are none is marked, for the
merge flag invalid (03 R88). -/
def special (fa fb : Fmt) (ps : List (Nat × Nat)) : Option Fp :=
  let ds := ps.map fun p => (fa.decode p.1, fb.decode p.2)
  let signs := ds.filterMap fun p => match p.1, p.2 with
    | .inf n, .inf k => some (n != k)
    | .inf n, .fin k m _ => if m = 0 then none else some (n != k)
    | .fin k m _, .inf n => if m = 0 then none else some (n != k)
    | _, _ => none
  if ds.any fun p => p.1.isNan || p.2.isNan then some (.nan false)
  else if (ds.any fun p => infZero p.1 p.2) || (signs.contains true && signs.contains false) then some (.nan true)
  else match signs with
    | [] => none
    | n :: _ => some (.inf n)

/-- A block's exact sum and its exponent. -/
def blockSum (as bs : List Int) : Int := (as.zip bs).foldl (fun acc p => acc + p.1 * p.2) 0

/-- What a block brings to an output element: its exact integer sum; the special result; the exact scale of the sum as
m 2^e (floating point: 1 2^(E_A + E_B); scaled: 03 R87), `none` where a scale word is invalid. -/
structure BlockRes where
  sum   : Int
  spec  : Option Fp
  scale : Option (Nat × Int)
  deriving DecidableEq, Repr

/-- A block's result for element (m, n) of a step (06 R180; 03 R83-R87). `words`: the popped scale words (06 R182). -/
def blockRes (w : Nat) (a b md : Memory) (words : List Nat) (m n blk : Nat) : BlockRes :=
  let ps := blockPairs w a b md m n blk
  if mAf w ≤ 3 then
    let win := if mLane w = 0 then 16 else 64
    let fa := opFmt (mAf w)
    let fb := opFmt (mBf w)
    let (xa, ea) := alignBlock fa win (ps.map Prod.fst)
    let (xb, eb) := alignBlock fb win (ps.map Prod.snd)
    -- positions A keeps no element at enter as zero, and a zero of A has the sign as encoded
    { sum := blockSum xa xb, spec := special fa fb ps, scale := some (1, ea + eb) }
  else
    let va := ps.map fun p => signed (mAq w) p.1
    let vb := ps.map fun p => signed (mBq w) p.2
    if mAf w = 5 then { sum := blockSum va vb, spec := none, scale := some (1, 0) }
    else
      let sa := scaleVal (words.getD m 0)
      let sb := scaleVal (words.getD (48 + 16 * blk + n) 0)
      match sa, sb with
      | some (ma, ea), some (mb, eb) =>
        { sum := if ma = 0 ∨ mb = 0 then 0 else blockSum va vb, spec := none,
          scale := some (ma * mb, ea + eb + (mAn w - mAq w : Nat) + (mBn w - mBq w : Nat)) }
      | _, _ => { sum := 0, spec := none, scale := none }

/-- A merge (03 R86, R87): new element, and merge flags invalid, overflow, inexact. `neg` is S (06 R180). Invalid is set by a NaN made
from operands that are none (03 R88): a signalling NaN among them sets it not (notes/assumptions/80). -/
def merge (w : Nat) (c : Nat) (x : Int) (neg : Bool) (r : BlockRes) : Nat × Bool × Bool × Bool :=
  let f := accFmt w
  match r.scale with
  | none => (f.nan, false, false, false)
  | some (m, e) =>
    match r.spec with
    | some sp =>
      let sp := if neg then sp.neg else sp
      let (v, fl) := f.add 0 sp (f.decode c)
      let made := match sp with
        | .nan fresh => fresh
        | _ => fl / 16 % 2 == 1 && !(f.decode c).isNan
      (v, made, false, false)
    | none =>
      if x = 0 ∨ m = 0 then (c, false, false, false)
      else
        let x := if neg then -x else x
        match f.decode c with
        | .fin n mc ec =>
          let y := x * (m : Int)
          let q := min e ec
          let (v, fl) := f.ofInt 0 (scaleInt y e q + scaleInt (sgnInt n mc) ec q) q
          (v, false, fl / 4 % 2 == 1, fl % 2 == 1)
        | .inf n => (f.inf n, false, false, false)
        | .nan _ => (f.nan, false, false, false)

end Sys2Proof.Machine
end

