-- ==== Sys2Proof/Machine/Errors.lean ====
section
/-! DEFINITION. Accesses that engines make to a partition's memory, the error log, the severity matrix and the host's event
queue (13 R398, R404-R406). -/

namespace Sys2Proof.Machine

/-- Every bank that `n` bytes of a scratchpad touch is granted to a region of a partition (05 R143). -/
def State.banksOf (s : State) (p core off n : Nat) : Bool :=
  !s.clusterOut (clusterOf core) &&
  (List.range ((off + n - 1) / 32768 + 1 - off / 32768)).all fun i => match s.bankOwner core (off / 32768 + i) with
    | some r => r / 65536 == p
    | none => false

/-- The location of `n` bytes that an engine of a partition reaches (00 R5, R6; 05 R143; 11 R347), with the needed permissions (bit 0 read,
bit 1 write); `none` where it is malformed, not translated or denied, or lies in a bank that none of its regions holds. Engines translate as privileged requesters; the scheduler, the services and
the sump and tree engines belong to no core or cluster, so they use the pin table and a walk (11 R348). -/
def State.engLoc (s : State) (p a n need : Nat) : Option Nat :=
  match placeN a n with
  | some (.spad c off) => if s.banksOf p c off n then some a else none
  | some (.global va) =>
    match s.homeXlat p va need true with
    | .ok loc => some loc
    | .bad _ => none
  | _ => none

/-- The pieces of `n` bytes at a device address, split at 4 KiB pages and translated one by one; `none` where any fails. -/
def State.engPieces (s : State) (p need : Nat) : Nat → Nat → Nat → Option (List (Nat × Nat))
  | 0, _, _ => some []
  | f + 1, a, n =>
    if n = 0 then some []
    else
      let k := min n (4096 - a % 4096)
      match s.engLoc p a k need with
      | none => none
      | some loc => (s.engPieces p need f (a + k) (n - k)).map fun r => (loc, k) :: r

/-- Bytes an engine reads at their homes (no lease, no copy); `none` where any cannot be read, or holds an uncorrectable error. -/
def State.engRead (s : State) (p a n : Nat) : Option (List Byte) :=
  match s.engPieces p 1 (n / 4096 + 2) a n with
  | none => none
  | some ps => if ps.any fun x => s.badAt x.1 x.2 then none else some (ps.foldr (fun x acc => memBytes s.mem x.1 x.2 ++ acc) [])

/-- Bytes written at their homes by an engine of a cluster, whose copies take them (11 R334, R340); lines that the host may hold are
noted (11 R359). -/
def State.clusterWrite (s : State) (cluster clk loc : Nat) (bs : List Byte) : Nat × State :=
  (s.noteHeld loc bs.length).store cluster clk loc bs

/-- Bytes written at their homes by the scheduler, a service or another engine that belongs to no cluster. -/
def State.homeWrite (s : State) (clk loc : Nat) (bs : List Byte) : Nat × State := s.clusterWrite 0xFFFFFF clk loc bs

/-- Bytes an engine writes at their homes under a clock: the clock after them; `none` where any cannot be written. -/
def State.engWriteClk (s : State) (p clk a : Nat) (bs : List Byte) : Option (Nat × State) :=
  (s.engPieces p 2 (bs.length / 4096 + 2) a bs.length).map fun ps =>
    let r := ps.foldl (fun (x : State × Nat × List Byte) y =>
      let (c, s1) := x.1.homeWrite x.2.1 y.1 (x.2.2.take y.2)
      (s1, c, x.2.2.drop y.2)) (s, clk, bs)
    (r.2.1, r.1)

/-- Bytes an engine writes at their homes under a clock; `none` where any cannot be written. -/
def State.engWrite (s : State) (p clk a : Nat) (bs : List Byte) : Option State := (s.engWriteClk p clk a bs).map Prod.snd

/-- The same, where a failed write leaves memory as it is. -/
def State.engWrite' (s : State) (p a : Nat) (bs : List Byte) : State :=
  (s.engWrite p (s.part p).pclk a bs).getD s

/-- Default action of an error class (13 R405): 0 IGNORE, 1 LOG, 2 INTERRUPT, 3 KILL-CONTEXT, 4 RESET-PARTITION. -/
def defaultAction (cls : Nat) : Nat :=
  if [0x06, 0x0A, 0x0B, 0x0D, 0x0F, 0x10, 0x11, 0x12, 0x16, 0x17, 0x19, 0x1D, 0x1F].contains cls then 2
  else if [0x08, 0x0C, 0x0E, 0x1A].contains cls then 3
  else if cls = 0x14 then 4 else 1

/-- Floor of an error class (13 R405). -/
def floorAction (cls : Nat) : Nat :=
  if [0x08, 0x0D, 0x0E, 0x0F, 0x19, 0x1A].contains cls then 2
  else if cls = 0x0C then 3
  else if [0x0A, 0x0B, 0x10, 0x11, 0x12, 0x14, 0x16, 0x17, 0x1D, 0x1F].contains cls then 1 else 0

/-- The action of a class and source kind in a partition (13 R405). -/
def Part.action (p : Part) (cls src : Nat) : Nat :=
  let v := ((p.sevmat[8 * cls + src]?).map BitVec.toNat).getD 5
  max (floorAction cls) (if v > 4 then defaultAction cls else v)

/-- Events written and not consumed, modulo 2^32 (13 R395). -/
def Part.events (q : Part) : Nat := (q.evqhead + 2 ^ 32 - q.evqtail) % 2 ^ 32

/-- An event record written to a partition's queue in host memory and its MSI-X vector signalled; dropped and counted when the
queue is full (13 R398). -/
def State.postEvent (s : State) (p : Nat) (rec : List Byte) (vec : Nat) : State :=
  let q := s.part p
  if q.events = 2 ^ q.evqlen then s.putPart p { q with evlost := q.evlost + 1 }
  else
    let a := 2 ^ 51 + q.evqbase + 32 * (q.evqhead % 2 ^ q.evqlen)
    { s with mem := memPutBytes s.mem a rec }.putPart p { q with evqhead := (q.evqhead + 1) % 2 ^ 32, msix := q.msix ++ [vec] }

/-- An event record's 32 bytes (13 R398). -/
def eventBytes (ns cls act src vec region die tid x20 x24 : Nat) : List Byte :=
  natLe 8 ns ++ natLe 1 cls ++ natLe 1 act ++ natLe 1 src ++ natLe 1 vec ++ natLe 2 region ++ natLe 2 die ++ natLe 4 tid ++
  natLe 4 x20 ++ natLe 8 x24

/-- An error as its detector reports it. -/
structure Err where
  part   : Nat
  cls    : Nat
  src    : Nat
  core   : Nat := 0
  tid    : Nat := 0
  region : Nat := 0                   -- region key, 0 for none
  b15    : Nat := 0                   -- byte 15 of a residue record; the source kind otherwise
  tail   : List Byte := []            -- bytes 16-31
  x20    : Option Nat := none         -- event bytes 20-23 where not the log index
  x24    : Nat := 0
  least  : Nat := 0                   -- the least action of this error, whatever the matrix (09 R287)
  deriving DecidableEq, Repr

/-- An error-log record (13 R404). -/
def State.logError (s : State) (x : Err) : State :=
  let q := s.part x.part
  let rec32 := natLe 8 (s.cycleOf x.core) ++ natLe 4 x.tid ++ natLe 2 x.core ++ natLe 1 x.cls ++
    natLe 1 (if x.cls ≤ 6 then x.b15 else x.src) ++ (x.tail ++ List.replicate 16 0).take 16
  let s1 := s.engWrite' x.part (q.errbase + 32 * (q.errs % 2 ^ q.errlen)) rec32
  s1.putPart x.part { s1.part x.part with errs := q.errs + 1 }

/-- A detected error: its log record, and what the severity matrix asks (13 R404-R406); with no region concerned KILL-CONTEXT
acts as INTERRUPT. KILL-CONTEXT and RESET-PARTITION are
carried out by `settle` before the step ends. -/
def State.error (s : State) (x : Err) : State :=
  let q := s.part x.part
  let want := max (q.action x.cls x.src) x.least
  let act := if want = 3 ∧ x.region = 0 then 2 else want
  if act = 0 then s
  else
    let idx := q.errs
    let s2 := s.logError x
    if act = 1 then s2
    else
      let vec := if x.cls = 0x0F then 65 else 64
      let s3 := if x.cls = 0x14 then s2 else s2.postEvent x.part
        (eventBytes s.ns x.cls act x.src vec (x.region % 65536) (dieOf x.core) x.tid (x.x20.getD idx) x.x24) vec
      let s3 := s3.putPart x.part { s3.part x.part with unmasked := (s3.part x.part).unmasked + 1 }
      if act = 3 then { s3 with doom := s3.doom ++ [(3, x.part * 65536 + (s3.region x.region).domain)] }
      else if act = 4 then { s3 with doom := s3.doom ++ [(4, x.part)] }
      else s3

/-- A walk found the page table malformed: class PAGE-TABLE-FORMAT (11 R346). `cause`: what the walk came to; `src`: the source kind. -/
def State.formatError (s : State) (cause src p region core tid va : Nat) : State :=
  if cause = 2 then s.error { part := p, cls := 0x10, src := src, core := core, tid := tid, region := region, tail := natLe 8 va } else s

/-- An engine's failed translation of an address reports a malformed page table (11 R346), with the engine's source kind. -/
def State.engFormat (s : State) (src p region core a : Nat) : State :=
  match globalOf a with
  | none => s
  | some va => match s.homeXlat p va 0 true with
    | .bad c => s.formatError c src p region core 0 va
    | .ok _ => s

/-- The pages that `n` bytes from an address touch, as addresses. -/
def pagesOf (a n : Nat) : List Nat :=
  (List.range (n / 4096 + 2)).filterMap fun i =>
    let x := if i = 0 then a else (a / 4096 + i) * 4096
    if x < a + n then some x else none

/-- A walk over a range found the page table malformed: class PAGE-TABLE-FORMAT for its first page that does not translate
(11 R346). -/
def State.pagesFormat (s : State) (src p region core tid a n : Nat) : State :=
  match (pagesOf a n).findSome? fun x => match s.homeXlat p x 0 true with
    | .bad c => some (c, x)
    | .ok _ => none with
  | some (c, x) => s.formatError c src p region core tid x
  | none => s

/-- The same for a structure in the global space that a service reads or writes for a region. -/
def State.structFormat (s : State) (src p region a n : Nat) : State :=
  match globalOf a with
  | none => s
  | some va => s.pagesFormat src p region (firstDie (s.part p).dies * 4096) 0 va n

/-- Bytes that the scheduler or a service writes for a region; where they cannot be written, memory stays, and a malformed page table is
reported (11 R346). -/
def State.svcWrite (s : State) (src p region a : Nat) (bs : List Byte) : State :=
  match s.engWrite p (s.part p).pclk a bs with
  | some s1 => s1
  | none => s.structFormat src p region a bs.length

/-- The report of a read that the scheduler or a service makes for a region, should the page table be malformed there (11 R346). -/
def State.svcRead (s : State) (src p region a n : Nat) : State :=
  if (s.engRead p a n).isNone then s.structFormat src p region a n else s

/-- An error of a task. -/
def State.taskError (s : State) (tid cls src : Nat) (tail : List Byte) : State :=
  let t := s.task tid
  s.error { part := t.part, cls := cls, src := src, core := t.core, tid := tid, region := t.rkey, tail := tail }

/-- An arrival at a barrier (08 R257), with its clock; a multicast arrival's clock is kept apart (11 R342). -/
def Barrier.arrive (b : Barrier) (clk : Nat) (multicast : Bool) : Barrier :=
  if b.target = 0 then b
  else
    let c := if multicast then b.clk else max b.clk clk
    let m := if multicast then max b.mclk clk else b.mclk
    if b.arrived + 1 = b.target then
      { b with gen := (b.gen + 1) % 2 ^ 32, arrived := 0, clk := 0, mclk := 0, doneClk := c, doneMclk := m }
    else { b with arrived := b.arrived + 1, clk := c, mclk := m }

/-- A barrier by cluster and number. -/
def State.bar (s : State) (cluster b : Nat) : Barrier := tabGet s.bars {} (cluster * 32 + b)
/-- The state with a barrier replaced. -/
def State.putBar (s : State) (cluster b : Nat) (x : Barrier) : State := { s with bars := tabPut s.bars (cluster * 32 + b) x }

/-- What a BARW for a barrier that waits comes to: the generation, once it differs, with the clocks of the phase completed (08 R258;
11 R342). -/
def State.barFill (s : State) (tid key gen : Nat) : Option (Nat × State) :=
  let x := tabGet s.bars {} key
  let t := s.task tid
  if x.gen = gen then none else some (x.gen, s.putTask tid ({ t with pts := max t.pts x.doneClk }.classClock 1 x.doneMclk))

/-- One pending producer of a task, should it be a BARW for the barrier, takes its value. -/
def State.barWake (s : State) (key tid : Nat) (p : Prod) : State :=
  match p.wait with
  | .barw b g =>
    if b = key then
      match s.barFill tid b g with
      | some (v, s1) => s1.putTask tid ((s1.task tid).setWait p.tok (.ready [BitVec.ofNat 512 v]))
      | none => s
    else s
  | _ => s

/-- A barrier after an operation on it: a BARW that waits fills with the generation at the first moment that differs from its own, which
may be one of several phases that one step completes (08 R258). -/
def State.setBar (s : State) (cluster b : Nat) (x : Barrier) : State :=
  let s1 := s.putBar cluster b x
  s1.tasks.foldl (fun s t => (s.task t.1).prods.foldl (fun s p => s.barWake (cluster * 32 + b) t.1 p) s) s1

/-- A barrier is granted to a region (08 R255). -/
def State.barGranted (s : State) (cluster b r : Nat) : Bool := tabFind s.bargr (cluster * 32 + b) == some r

end Sys2Proof.Machine
end

