-- ==== Sys2Proof/Machine/MxOps.lean ====
section
/-! DEFINITION. The matrix queue and what its entries do (06 R173, R174, R180-R199; 03 R94-R97). -/

namespace Sys2Proof.Machine

open Config (modulus)

/-- A tile zeroed (06 R173). -/
def Tile.zero (t : Tile) : Tile :=
  { t with data := [], depth := 0, inv := false, ovf := false, nx := false, poison := false, cmask := 0, corr := [], failed := [],
           inj := none, struck := false, code := 0, reported := false }

/-- The tiles an entry names. -/
def MxOp.tiles : MxOp → List Nat
  | .mset m _ => (List.range 8).filter fun c => m / 2 ^ c % 2 == 1
  | .mma cd _ _ _ _ _ _ => [cd]
  | .mret cd _ _ _ => [cd]
  | .mretv cd _ _ => [cd]
  | .mzero cd => [cd]
  | .mlda cd _ _ => [cd]
  | .msta cd _ _ => [cd]
  | .mchan _ _ => []
  | .minj cd _ _ _ => [cd]

/-- Entries the array takes; the reverse converters take the others (06 R174). -/
def MxOp.array : MxOp → Bool
  | .mset _ _ => true
  | .mma _ _ _ _ _ _ _ => true
  | .mzero _ => true
  | .mchan _ _ => true
  | .minj _ _ _ _ => true
  | _ => false

/-- A K-step entry. -/
def MxOp.isMma : MxOp → Bool
  | .mma _ _ _ _ _ _ _ => true
  | _ => false

/-- Entries of one kind each. -/
def MxOp.isMset : MxOp → Bool | .mset _ _ => true | _ => false
def MxOp.isMzero : MxOp → Bool | .mzero _ => true | _ => false
def MxOp.isMlda : MxOp → Bool | .mlda _ _ _ => true | _ => false
def MxOp.isMsta : MxOp → Bool | .msta _ _ _ => true | _ => false
def MxOp.isMchan : MxOp → Bool | .mchan _ _ => true | _ => false
def MxOp.isMinj : MxOp → Bool | .minj _ _ _ _ => true | _ => false
def MxOp.isScrub : MxOp → Bool | .mchan 0 _ => true | _ => false
def MxOp.isRet : MxOp → Bool | .mret _ _ _ _ => true | .mretv _ _ _ => true | _ => false

/-- An MLDA of a tile is in the queue (06 R175). -/
def Core.loading (k : Core) (c : Nat) : Bool :=
  k.mq.any fun e => match e.op with | .mlda cd _ _ => cd == c | _ => false

/-- Depth of a tile after every entry committed (06 R183). `kept`: for the case that the retirements still queued keep the tile, as
they do where they end at their address steps or on poison (06 R186). -/
def Core.issueDepth (k : Core) (c : Nat) (kept : Bool) : Nat :=
  k.mq.foldl (fun d e =>
    if !e.op.tiles.contains c then d
    else match e.op with
      | .mma _ z _ _ _ _ _ => (if z then 0 else d) + 32
      | .mret _ _ _ keep => if keep || kept then d else 0
      | .mretv _ _ keep => if keep || kept then d else 0
      | .mset _ _ => 0
      | .mzero _ => 0
      | _ => d) (k.tile c).depth

/-- A SELECT command whose CGO stands before an entry and that has still to read its tile (08 R238). -/
def Core.selectBlocks (k : Core) (e : MxEnt) : Bool :=
  k.chans.any fun x => match x.2.cmd with
    | some c => c.mode == 2 && c.ends.isNone && !c.selRead && decide (c.mid ≤ e.id) && e.op.tiles.contains (c.select % 8) && !e.op.isMsta
    | none => false

/-- An entry may be taken: its engine has taken every earlier entry of its own, and every earlier entry of its tiles is complete,
but for consecutive K-steps, which may overlap in the array (06 R174). -/
def Core.mxMayStart (k : Core) (e : MxEnt) : Bool :=
  let before := k.mq.takeWhile fun x => x.id != e.id
  e.phase == 0 &&
  (before.all fun x => x.op.array != e.op.array || x.phase == 1) &&
  (let same := before.filter fun x => x.op.tiles.any fun c => e.op.tiles.contains c
   same.isEmpty || (e.op.isMma && same.all fun x => x.op.isMma && x.phase == 1)) &&
  !k.selectBlocks e

/-- A started K-step may take effect: no earlier entry of its tile is left (06 R174). -/
def Core.mxMayMerge (k : Core) (e : MxEnt) : Bool :=
  e.phase == 1 &&
  !((k.mq.takeWhile fun x => x.id != e.id).any fun x => x.op.tiles.any fun c => e.op.tiles.contains c)

/-- The queue without an entry that is complete at a cycle: its tiles' later entries may start, and so may its engine's (06 R174, R200).
A K-step has left the array before its merge. -/
def Core.mxDrop (k : Core) (e : MxEnt) (now : Nat) : Core :=
  { k with
    mq := k.mq.filter fun x => x.id != e.id
    tdone := e.op.tiles.foldl (fun x c => tabPut x c now) k.tdone
    mxFree := if e.op.array && !e.op.isMma then now + (if e.op.isScrub then 0 else 1) else k.mxFree
    cvFree := if e.op.array || e.op.isMlda then k.cvFree else now - mRows (((k.tile (e.op.tiles.headD 0)).mode).getD 0) }

/-- An alcove loses its queued read; a release waiting for it frees it (05 R160). -/
def Alcove.readDone (a : Alcove) : Alcove :=
  let a1 := { a with reads := a.reads - 1 }
  if a1.release && a1.reads == 0 && a1.rows == 0 then {} else a1

/-- The slice that serves a channel (03 R94; 06 R195). -/
def Core.sliceOf (k : Core) (ch : Nat) : Nat := if k.spare = some ch then 21 else ch
/-- A slice serves a channel: it is mapped and has not left service. -/
def Core.serves (k : Core) (sl : Nat) : Option Nat :=
  if sl = 21 then k.spare.filter fun c => k.outmask / 2 ^ c % 2 == 0
  else if k.spare = some sl ∨ k.outmask / 2 ^ sl % 2 = 1 then none else some sl

/-- Error-log record of a slice event; `b15` is byte 15 of the check event that it comes from, else 0 (06 R198; 15 R448). -/
def State.sliceError (s : State) (core cls sl ch b15 : Nat) : State :=
  let k := s.core core
  match s.partOfDie (dieOf core) with
  | none => s
  | some p =>
    s.error { part := p, cls := cls, src := 1, core := core, b15 := b15, tail := natLe 8 0 ++ [BitVec.ofNat 8 sl, BitVec.ofNat 8 ch] ++ natLe 2 (tabGet k.slcount 0 sl) }

/-- Bit 4 of byte 15 of a residue record: an injection caused it (06 R198, R199). -/
def injectedBit (b15 : Nat) : Nat := b15 / 16 % 2

/-- A slice is marked failed (06 R196); it is kept whether an injection caused the event that marks it, for the record of its remap. -/
def State.markSlice (s : State) (core sl b15 : Nat) : State :=
  let k := s.core core
  if k.slfail / 2 ^ sl % 2 = 1 then s
  else (s.putCore core { k with slfail := k.slfail + 2 ^ sl, slinj := k.slinj + injectedBit b15 * 2 ^ sl }).sliceError core 4 sl ((k.serves sl).getD 0) b15

/-- One corrected event counted for a slice (06 R196). -/
def State.countSlice (s : State) (core sl : Nat) : State :=
  let k := s.core core
  s.putCore core { k with slcount := tabPut k.slcount sl (min 0xFFFF (tabGet k.slcount 0 sl + 1)) }

/-- A slice whose counter stands at or above a nonzero threshold is marked failed (06 R196). -/
def State.markAt (s : State) (core sl b15 : Nat) : State :=
  let k := s.core core
  if k.thresh ≠ 0 ∧ k.thresh ≤ tabGet k.slcount 0 sl then s.markSlice core sl b15 else s

/-- What a check event brings together (06 R196, R198). -/
structure CheckSum where
  cmask : Nat := 0
  corr  : Nat := 0
  fail  : Nat := 0
  oflow  : Bool := false
  deriving DecidableEq, Repr

/-- A check corrected a channel; the bit of that channel. -/
def Check.bit : Check → Nat
  | .corrected i _ => 2 ^ i
  | _ => 0

/-- A check failed. -/
def Check.failed : Check → Bool
  | .unlocated => true
  | .overflow => true
  | _ => false

/-- One element's outcomes added: it counts once as corrected and once as failed, however many of its blocks are (06 R198). -/
def CheckSum.add (x : CheckSum) (cs : List Check) : CheckSum :=
  let bits := cs.foldl (fun m c => m ||| c.bit) 0
  { cmask := x.cmask ||| bits, corr := x.corr + b2n (bits != 0), fail := x.fail + b2n (cs.any Check.failed),
    oflow := x.oflow || cs.contains .overflow }

/-- A check event: the counters of the slices that corrected, its log record, then their marks (06 R196, R198). -/
def State.checkEvent (s : State) (core tile owner : Nat) (x : CheckSum) (ret inj : Bool) : State :=
  if x.corr = 0 ∧ x.fail = 0 then s
  else
    let cls := if x.oflow then 3 else if x.fail ≠ 0 then 2 else 1
    let chs := (List.range 21).filter fun i => x.cmask / 2 ^ i % 2 == 1
    let s1 := chs.foldl (fun s i => s.countSlice core ((s.core core).sliceOf i)) s
    let cnt := match chs with
      | i :: _ => tabGet (s1.core core).slcount 0 ((s1.core core).sliceOf i)
      | [] => 0
    let bits := tile + 8 * b2n ret + 16 * b2n inj
    let s2 := match s.partOfDie (dieOf core) with
      | none => s1
      | some p =>
        s1.error { part := p, cls := cls, src := 1, core := core, tid := owner, region := (s.task owner).rkey, b15 := bits, tail := natLe 4 x.cmask ++ natLe 2 x.corr ++ natLe 2 x.fail ++ natLe 2 0 ++ natLe 2 cnt }
    chs.foldl (fun s i => s.markAt core ((s.core core).sliceOf i) bits) s2

/-- A tile whose element failed its check (06 R184): the kept code, OVERFLOW taking precedence. -/
def Tile.fail (t : Tile) (e : Nat) (oflow : Bool) : Tile :=
  { t with failed := if t.failed.contains e then t.failed else e :: t.failed, poison := true,
           code := if oflow ∨ t.code = 3 then 3 else 2 }

/-- A tile whose element was corrected in channel i (06 R184). -/
def Tile.correct (t : Tile) (e i : Nat) : Tile :=
  { t with corr := if t.corr.contains e then t.corr else e :: t.corr, cmask := t.cmask ||| 2 ^ i }

/-- The residue in byte i of an element. -/
def byteOf (v : W64) (i : Nat) : Nat := v.toNat / 2 ^ (8 * i) % 256

/-- An element's residues by logical channel, in its lane (06 R191). -/
def laneRes (v : W64) (l : Nat) (j : Nat) : Nat := byteOf v (j - 7 * l)

/-- Residues packed into an element. -/
def packRes (f : Nat → Nat) : W64 := BitVec.ofNat 64 ((List.range 7).foldr (fun i acc => f i + 256 * acc) 0)

/-- What a pending injection adds at an event: nothing for a delta of zero, or in a channel that its lane no longer includes
(06 R199; 15 R449). -/
def Tile.strike (t : Tile) (when_ outmask : Nat) : Option (Nat × Nat) :=
  match t.inj with
  | some (ch, d, wh) => if wh = when_ ∧ outmask / 2 ^ ch % 2 = 0 ∧ d % modulus ch ≠ 0 then some (ch, d % modulus ch) else none
  | none => none

/-- The same in one row, whose lane must include the channel. -/
def Tile.delta (t : Tile) (when_ outmask w m : Nat) : Option (Nat × Nat) :=
  (t.strike when_ outmask).filter fun x => mLane w == 1 || x.1 / 7 == m / 16

/-- A pending injection for an event, used up by it. -/
def Tile.used (t : Tile) (when_ : Nat) : Tile :=
  match t.inj with
  | some (_, _, wh) => if wh = when_ then { t with inj := none } else t
  | none => t

/-- Residues with an injection added. -/
def injected (r : Nat → Nat) (x : Option (Nat × Nat)) (j : Nat) : Nat :=
  match x with
  | some (ch, d) => if j = ch then (r j + d) % modulus j else r j
  | none => r j

/-- One element of one K-step, its blocks in ascending order (06 R180, R184), and the outcomes of its checks. An injection is added
once to the sum of an I64 tile, and to the sum of every block that is checked by itself (06 R199). A channel out of service goes on
accumulating in an I64 tile (DESIGN CHOICE, notes/assumptions/129). -/
def kstepElem (w outmask : Nat) (a b md : Memory) (words : List Nat) (neg : Bool) (m n : Nat) (t : Tile) : Tile × List Check :=
  let e := 16 * m + n
  let l := rowLane w m
  let rs := (List.range (stepBlocks w)).map fun blk => blockRes w a b md words m n blk
  let sign (x : Int) : Int := if neg then -x else x
  let inj := t.delta 0 outmask w m
  if mAcc w = 0 then
    let v := tabGet t.data 0 e
    let add := rs.foldl (fun (x : Int) r => x + sign r.sum) 0
    let f (i : Nat) : Nat := (injected (fun j => (byteOf v (j - 7 * l) + residue add j) % modulus j) inj) (7 * l + i)
    ({ t with data := tabSet t.data 0 e (packRes f) }, [])
  else
    let (chs, nq) := inService outmask l
    rs.foldl (fun (y : Tile × List Check) r =>
      let t := y.1
      let c := if laneState outmask l = 3 then Check.unlocated
               else checkLane (injected (residue (sign r.sum)) inj) chs nq (half l)
      let put (t : Tile) (s : Int) : Tile :=
        let (v, inv, ovf, nx) := merge w (tabGet t.data 0 e).toNat (sign s) neg r
        { t with data := tabSet t.data 0 e (BitVec.ofNat 64 v), inv := t.inv || inv, ovf := t.ovf || ovf, nx := t.nx || nx }
      (match c with
        | .ok s => put t s
        | .corrected i s => (put t s).correct e i
        | .unlocated => t.fail e false
        | .overflow => t.fail e true, y.2 ++ [c])) (t, [])

/-- KSTEP: the sums of a started K-step are checked and merged, or added to the residues (06 R180, R184; 03 R86-R89). -/
def State.kstepMerge (s : State) (core : Nat) (e : MxEnt) : State :=
  match e.op with
  | .mma cd z neg _ _ _ words =>
    let k := s.core core
    let t0 := if z then (k.tile cd).zero else k.tile cd
    match t0.mode with
    | none => s.putCore core (k.mxDrop e s.cycle)
    | some w =>
      let struck := (t0.strike 0 k.outmask).isSome
      let (t1, x) := (List.range (mRows w)).foldl (fun (y : Tile × CheckSum) m =>
        (List.range 16).foldl (fun (y : Tile × CheckSum) n =>
          let (t, cs) := kstepElem w k.outmask e.a e.b e.m words neg m n y.1
          (t, y.2.add cs)) y) (t0, {})
      let t2 := { t1.used 0 with struck := t1.struck || (struck && mAcc w == 0), depth := if mAcc w = 0 then t1.depth + 32 else t1.depth }
      let s1 := s.putCore core ((k.putTile cd t2).mxDrop e s.cycle)
      s1.checkEvent core cd t2.owner x false struck
  | _ => s

/-- A K-step starts in the array: its operands are read from the alcoves, the array is taken for 32 cycles, 64 at N = 4, and the
merge follows 12 cycles later (06 R180, R200; 05 R160). -/
def State.kstepStart (s : State) (core : Nat) (e : MxEnt) (ha hb : Nat) (hm : Option Nat) : State :=
  let k := s.core core
  let w := ((k.tile (e.op.tiles.headD 0)).mode).getD 0
  let free := s.cycle + (if mSp w = 1 then 64 else 32)
  let e1 := { e with phase := 1, due := free + 12, a := (k.alcove ha).data, b := (k.alcove hb).data,
                     m := match hm with | some h => (k.alcove h).data | none => [] }
  let k1 := { k with mxFree := free, mq := k.mq.map fun x => if x.id == e.id then e1 else x }
  let done (k : Core) (a : Nat) : Core := k.putAlcove a (k.alcove a).readDone
  let k2 := done (done k1 ha) hb
  s.putCore core (match hm with | some h => done k2 h | none => k2)

/-! ### Retirement (06 R185-R188; 03 R96, R97) -/

/-- The status word's fields that report a tile (06 R185). -/
def statusWord (cmask nfail ncorr : Nat) (sat inv ovf nx : Bool) (code : Nat) : Nat :=
  cmask * 2 ^ 43 + nfail * 2 ^ 30 + ncorr * 2 ^ 20 + b2n sat * 2 ^ 15 + b2n inv * 2 ^ 14 + b2n ovf * 2 ^ 13 + b2n nx * 2 ^ 12 + code

/-- An element converted to an output format (06 R187): bits and flags, with saturation apart. -/
def outElem (acc fmt : Nat) (v : Nat) (x : Int) : Nat × Nat × Bool :=
  if acc = 0 then
    match fmt with
    | 0 => let r := Fmt.f32.fromInt 0 x; (r.1, r.2, false)
    | 1 => let r := Fmt.f64.fromInt 0 x; (r.1, r.2, false)
    | 4 => let r := satInt 32 x; (intBits 32 r.1, 0, r.2)
    | _ => (intBits 64 x, 0, false)
  else
    let f := if acc = 2 then Fmt.f64 else Fmt.f32
    let g := match fmt with | 0 => Fmt.f32 | 1 => Fmt.f64 | 2 => Fmt.bf16 | _ => Fmt.f16
    let r := f.conv g 0 v
    (r.1, r.2, false)

/-- Bytes of an output element. -/
def outSize (fmt : Nat) : Nat := match fmt with | 0 => 4 | 1 => 8 | 2 => 2 | 3 => 2 | 4 => 4 | _ => 8

/-- The checks of an I64 tile at retirement, element by element, on the residues with an injection added to them, and with a corrected channel
rewritten (06 R186, R199): the tile, its values, and the event. An element of a lane that is OUT fails as unlocated (DESIGN CHOICE, notes/assumptions/88). -/
def retireChecks (w outmask : Nat) (t : Tile) : Tile × Tab Int × CheckSum :=
  (List.range (16 * mRows w)).foldl (fun (y : Tile × Tab Int × CheckSum) e =>
    let (t, vs, x) := y
    let l := rowLane w (e / 16)
    let (chs, nq) := inService outmask l
    let d := t.delta 1 outmask w (e / 16)
    let r := injected (laneRes (tabGet t.data 0 e) l) d
    let t := if d.isSome then { t with data := tabSet t.data 0 e (packRes fun b => r (7 * l + b)) } else t
    let c := if laneState outmask l = 3 then Check.unlocated else checkLane r chs nq (half l)
    match c with
    | .ok v => (t, tabPut vs e v, x)
    | .corrected i v =>
      let f (b : Nat) : Nat := if 7 * l + b = i then residue v i else r (7 * l + b)
      ({ t with data := tabSet t.data 0 e (packRes f) }.correct e i, tabPut vs e v, x.add [c])
    | .unlocated => (t.fail e false, vs, x.add [c])
    | .overflow => (t.fail e true, vs, x.add [c])) (t, [], {})

/-- The elements of an I64 tile that enter the exclusion loop of their check: illegitimate, with two checks in service (03 R92). -/
def excluded (w outmask : Nat) (t : Tile) : Nat :=
  ((List.range (16 * mRows w)).filter fun e =>
    let l := rowLane w (e / 16)
    let (chs, nq) := inService outmask l
    laneState outmask l != 3 && decide (2 ≤ nq) &&
      decide (half l < (reconstruct (injected (laneRes (tabGet t.data 0 e) l) (t.delta 1 outmask w (e / 16))) chs).natAbs)).length

/-- What a retirement comes to. -/
structure Retired where
  tile : Tile
  seen : Tile                          -- the tile after its checks and before its report: what an uncorrectable write leaves (06 R186)
  word : Nat
  rows : List (Nat × List Nat) := []   -- rows to write: row and its sixteen output elements; none where nothing is written
  ev   : CheckSum := {}
  deriving Repr

/-- A tile's report cleared (06 R186). -/
def Tile.reset (t : Tile) : Tile := { t with inv := false, ovf := false, nx := false, cmask := 0, corr := [], failed := [], struck := false }

/-- A retirement past its address steps (06 R186). Residues that an injection has changed and no check has corrected stay so in a kept tile
(06 R199). -/
def retireTile (w outmask : Nat) (t0 : Tile) (fmt : Nat) (keep : Bool) : Retired :=
  if t0.poison && t0.reported then { tile := t0, seen := t0, word := 0x04 }
  else
    let (t1, vs, x) := if mAcc w = 0 && !t0.poison then retireChecks w outmask t0 else (t0, [], {})
    let t1 := t1.used 1
    if t1.poison then
      { tile := { t1.reset with reported := true }, seen := t1,
        word := statusWord t1.cmask t1.failed.length t1.corr.length false t1.inv t1.ovf t1.nx t1.code, ev := x }
    else
      let outs := (List.range (mRows w)).map fun m =>
        (m, (List.range 16).map fun n =>
          outElem (mAcc w) fmt (tabGet t1.data 0 (16 * m + n)).toNat (tabGet vs 0 (16 * m + n)))
      let fl := outs.foldl (fun f r => r.2.foldl (fun f o => f ||| o.2.1) f) 0
      let sat := outs.any fun r => r.2.any fun o => o.2.2
      let code := if t1.cmask ≠ 0 then 1 else 0
      let word := statusWord t1.cmask 0 t1.corr.length sat (t1.inv || fl / 16 % 2 == 1) (t1.ovf || fl / 4 % 2 == 1)
        (t1.nx || fl % 2 == 1) code
      let stays := mAcc w == 0 && (t0.struck || (t0.strike 1 outmask).isSome) && t1.cmask == 0
      { tile := if keep then { t1.reset with struck := stays } else t1.reset.zero, seen := t1, word := word,
        rows := outs.map fun r => (r.1, r.2.map fun o => o.1), ev := x }

/-- One element of a residue tile rebuilt in the channel the spare takes over (03 R97). -/
def rebuildElem (w outmask i : Nat) (e : Nat) (t : Tile) : Tile :=
  let l := rowLane w (e / 16)
  if i / 7 ≠ l then t
  else
    let v := tabGet t.data 0 e
    let x := reconstruct (laneRes v l) ((inService outmask l).1.filter fun j => j != i)
    if x.natAbs ≤ half l then
      { t with data := tabSet t.data 0 e (packRes fun b => if 7 * l + b = i then residue x i else byteOf v b) }
    else t.fail e false

/-- At the end of a retirement a failed slice that still serves is replaced by the spare, or its channel leaves service
(03 R96, R97), the slices in ascending order (notes/assumptions/78). `cd` is the retiring tile, `due` the slices failed before its end. CHMAP goes on naming the channel that
a failed spare served (15 R449). -/
def State.remapSlices (s : State) (core cd due : Nat) : State :=
  (List.range 22).foldl (fun s sl =>
    let k := s.core core
    let b15 := cd + 8 + 16 * (k.slinj / 2 ^ sl % 2)
    match (if due / 2 ^ sl % 2 = 1 then k.serves sl else none) with
    | none => s
    | some ch =>
      if k.spare.isNone && k.slfail / 2 ^ 21 % 2 == 0 then
        let k1 := (List.range 8).foldl (fun (k : Core) c =>
          let t := k.tile c
          match t.mode with
          | some w => if c = cd ∨ mAcc w ≠ 0 then k
                      else k.putTile c ((List.range 768).foldl (fun t e => rebuildElem w k.outmask ch e t) t)
          | none => k) { k with spare := some ch }
        (s.putCore core k1).sliceError core 5 21 ch b15
      else
        let k1 := { k with outmask := k.outmask ||| 2 ^ ch }
        (s.putCore core k1).sliceError core 6 sl ch b15) s

/-- CHMAP (06 R195). -/
def Core.chmap (k : Core) : Nat :=
  k.outmask * 2 ^ 32 + (match k.spare with | some c => 32 + c | none => 0)

/-- CHSTAT (06 R195). -/
def Core.chstat (k : Core) : Nat :=
  k.thresh * 2 ^ 48 + laneState k.outmask 3 * 2 ^ 30 + laneState k.outmask 2 * 2 ^ 28 + laneState k.outmask 1 * 2 ^ 26 +
  laneState k.outmask 0 * 2 ^ 24 + b2n (capable k.outmask true) * 2 ^ 23 + b2n (capable k.outmask false) * 2 ^ 22 + k.slfail

/-! ### Tile images (06 R191) -/

/-- A tile's image: 64-byte header and body. The header of a tile whose mode is unset has mode word 0, which is no valid one, and no
body follows it (notes/assumptions/79). -/
def Tile.image (t : Tile) : List Byte :=
  natLe 8 (t.mode.getD 0) ++ natLe 4 t.depth ++
  natLe 4 (b2n t.nx + 2 * b2n t.ovf + 4 * b2n t.inv + 8 * b2n t.poison + 16 * t.code + 256 * b2n t.reported) ++
  natLe 4 t.cmask ++ List.replicate 44 0 ++
  match t.mode with
  | none => []
  | some w => (List.range (16 * mRows w)).foldr (fun e acc => natLe 8 (tabGet t.data 0 e).toNat ++ acc) []

/-- Bytes of an image with a mode word; a header alone where it is not valid. -/
def imageSize (w : Nat) : Nat := if modeValid w then 64 + 128 * mRows w else 64

/-- An entry that may be taken has had its time at a cycle (06 R200): an array entry from when the array is free, a SCRUB 64 cycles
later, a retirement or an image when its tile's earlier entries have been complete for the conversion and for a row a cycle. `rows` are
the rows of an image to be read. -/
def Core.mxTimed (k : Core) (now rows : Nat) (e : MxEnt) : Bool :=
  if e.op.array then decide (max e.due k.mxFree + (if e.op.isScrub then 64 else 0) ≤ now)
  else
    let c := e.op.tiles.headD 0
    let t := k.tile c
    let w := t.mode.getD 0
    let start := max e.due (tabGet k.tdone 0 c)
    if e.op.isMlda then decide (start + rows ≤ now)
    else
      decide (max start k.cvFree + 32 + mRows w ≤ now) &&
      (!(e.op.isRet && mAcc w == 0 && !t.poison) ||
        decide (max start k.cvFree + 32 + 8 * ((excluded w k.outmask t + 23) / 24) + mRows w ≤ now))

/-- An image's header and body are well formed for a valid mode (06 R191); its failure code is one that a tile can have (DEDUCED,
notes/assumptions/128). -/
def imageOk (w : Nat) (bs : List Byte) : Bool :=
  let b (i : Nat) : Nat := ((bs[i]?).map BitVec.toNat).getD 0
  let w12 := leNat ((bs.drop 12).take 4)
  decide (w12 < 512) && [0, 2, 3].contains (w12 / 16 % 16) && decide (leNat ((bs.drop 16).take 4) < 2 ^ 21) &&
  ((bs.drop 20).take 44).all (fun x => x == 0) &&
  (List.range (16 * mRows w)).all fun e =>
    if mAcc w = 0 then (List.range 7).all (fun i => decide (b (64 + 8 * e + i) < modulus (7 * rowLane w (e / 16) + i))) && b (71 + 8 * e) == 0
    else if mAcc w = 1 then (List.range 4).all fun i => b (68 + 8 * e + i) == 0
    else true

/-- The tile an image gives (06 R191); a rejected image leaves a zeroed, poisoned tile of its mode if that is valid, with no failure
code. -/
def loadImage (t : Tile) (bs : List Byte) (readErr : Bool) : Tile × Bool :=
  let w := leNat (bs.take 8)
  if !readErr && modeValid w && imageOk w bs then
    let x := leNat ((bs.drop 12).take 4)
    ({ t with
        mode := some w, issue := some w, depth := leNat ((bs.drop 8).take 4),
        data := (List.range (16 * mRows w)).foldr (fun e acc =>
          let v := leNat ((bs.drop (64 + 8 * e)).take 8)
          if v = 0 then acc else (e, BitVec.ofNat 64 v) :: acc) [],
        nx := x % 2 == 1, ovf := x / 2 % 2 == 1, inv := x / 4 % 2 == 1, poison := x / 8 % 2 == 1, code := x / 16 % 16,
        reported := x / 256 % 2 == 1, cmask := leNat ((bs.drop 16).take 4), corr := [], failed := [], inj := none, struck := false }, true)
  else
    let m := if modeValid w then some w else none
    ({ t.zero with mode := m, issue := m, poison := true, reported := true }, false)

/-- A tile out of a save area (07 R219): as an image gives it, or unset, poisoned or not. -/
def restoredTile (t : Tile) (bs : List Byte) : Tile :=
  let x := leNat ((bs.drop 12).take 4)
  if leNat (bs.take 8) = 0 then { t with poison := x / 8 % 2 == 1, reported := x / 256 % 2 == 1 } else (loadImage t bs false).1

end Sys2Proof.Machine
end

