-- ==== Sys2Proof/Machine/LsOps.lean ====
section
/-! DEFINITION. The load/store path: address checks (05 R149), own-scratchpad accesses, the LS queue (11 R337), atomics (05 R170),
alcove fills (05 R163), and how pending producers fill (01 R10). -/

namespace Sys2Proof.Machine

/-- The first three checks of 05 R149 on an access's address: malformed, alignment, reach of its scratchpad banks. The save areas of its
region's pool are out of a task's reach, but for a privileged one (05 R158; 07 R219; notes/assumptions/126). -/
def State.dcheck (s : State) (t : Task) (a n align : Nat) : Option Nat :=
  match placeN a n with
  | none => some 0x09
  | some pl =>
    if a % align ≠ 0 then some 0x0A
    else match pl with
      | .spad c off => if s.reachN t.rkey c off n then none else some 0x09
      | .global va => if s.inPool t va n then some 0x09 else none
      | .alcove _ _ => some 0x09

/-- An access's address checked in the order of 05 R149 steps 1-4 (malformed, alignment, reach, translation): its location, or
cause and detail byte (bit 2: a write). `need`: bit 0 read, bit 1 write. -/
def State.daccess (s : State) (t : Task) (a n align need : Nat) : Except (Nat × Nat) Nat :=
  let w := if need / 2 % 2 = 1 then 4 else 0
  match s.dcheck t a n align, globalOf a with
  | some c, _ => .error (c, w)
  | none, none => .ok a
  | none, some va =>
    match s.xlat t.part t.core va need (s.privileged t) with
    | .ok loc => .ok loc
    | .bad 1 => .error (0x09, w)
    | .bad _ => .error (0x08, w)

/-- A page of the global space that an access must be walked for first: it passes the checks before translation, and its translation misses
(05 R149, R150). -/
def State.awaitsWalk (s : State) (t : Task) (a n align : Nat) : Option Nat :=
  match s.dcheck t a n align, globalOf a with
  | none, some va => if s.misses t va then some va else none
  | _, _ => none

/-- Bytes that lie wholly in the issuing core's scratchpad (05 R145). -/
def Task.own (t : Task) (a n : Nat) : Bool :=
  match placeN a n with
  | some (.spad c _) => c == t.core
  | _ => false

/-- An atomic's function on n bytes (05 R170). -/
def atomicFn (f : Nat) (u : Bool) (n old y e : Nat) : Nat :=
  let w := 8 * n
  let less := if u then decide (old < y) else decide (signed w old < signed w y)
  match f with
  | 0 => (old + y) % 2 ^ w
  | 1 => if less then old else y
  | 2 => if less then y else old
  | 3 => old &&& y
  | 4 => old ||| y
  | 5 => y
  | 6 => if old = e then y else old
  | _ => let g := if n = 4 then Fmt.f32 else Fmt.f64
         (g.add 0 (g.decode old) (g.decode y)).1

/-- The register value of n bytes, sign- or zero-extended (05 R152). -/
def extend (sext : Bool) (n v : Nat) : Nat := if sext then intBits 64 (signed (8 * n) v) else v

/-- What an access's data give its destination. -/
def LsKind.value : LsKind → List Byte → VReg
  | .load sx n, bs => BitVec.ofNat 512 (extend sx n (leNat bs))
  | .atomic f u n _ _, bs => BitVec.ofNat 512 (extend (!(u || f == 7)) n (leNat bs))
  | _, bs => BitVec.ofNat 512 (leNat bs)

/-- A write of a redundant run added to its digest: SHAKE256 of address, length and bytes, 32 bytes, modulo 2^256 (13 R408;
notes/assumptions/21: the three are hashed as 8, 8 and the bytes themselves, little-endian). -/
def Task.digestAdd (t : Task) (a : Nat) (bs : List Byte) : Task :=
  if t.run = 0 ∨ bs.isEmpty then t
  else { t with digest := (t.digest + leNat (shake256 (natLe 8 a ++ natLe 8 bs.length ++ bs) 32)) % 2 ^ 256, written := (a, bs.length) :: t.written }

/-- One piece of an access performed under the task's clock: loads gather, stores and atomics write (11 R333-R335). -/
def State.doPiece (s : State) (t : Task) (k : LsKind) (data : List Byte) (p : Nat × Nat) : Task × List Byte × State :=
  match k with
  | .store =>
    let (c, s1) := s.writeLine (clusterOf t.core) t.pts p.1 (data.take p.2)
    ({ t with pts := c, hostPend := if isHost p.1 then t.hostPend + 1 else t.hostPend }, data.drop p.2, s1)
  | .atomic f u n y e =>
    let old := memNat s.mem p.1 n
    let (c, s1) := s.writeLine (clusterOf t.core) t.pts p.1 (natLe n (atomicFn f u n old y e))
    ({ t with pts := c, hostPend := if isHost p.1 then t.hostPend + 1 else t.hostPend }, natLe n old, s1)
  | .await => (t, data, s)
  | _ =>
    let (c, bs, s1) := s.loadLine (clusterOf t.core) t.pts p.1 p.2
    ({ t with pts := c }, data ++ bs, s1)

/-- Every piece of an access performed in order. -/
def State.doPieces (s : State) (t : Task) (k : LsKind) (data : List Byte) : List (Nat × Nat) → Task × List Byte × State
  | [] => (t, data, s)
  | p :: r => let (t1, d1, s1) := s.doPiece t k data p
              s1.doPieces t1 k d1 r

/-- An access in the queue counts against its sixteen places; the marks that later accesses follow do not (11 R337). -/
def LsAcc.counts (a : LsAcc) : Bool := match a.kind with | .await => false | _ => true

/-- The task's stores and atomics not yet performed at package scope (05 R171). -/
def Task.storesPending (t : Task) : Bool :=
  t.lsq.any fun a => match a.kind with
    | .store => true
    | .atomic _ _ _ _ _ => true
    | _ => false

/-- One piece of a queued access performed. Bytes that meet an uncorrectable error are reported; they fail a load (05 R151), and leave
an atomic's old value open (05 R151: the severity matrix alone). -/
def State.lsPiece (s : State) (tid : Nat) (a : LsAcc) (p : Nat × Nat) : List Byte × State :=
  let (t1, d1, s1) := s.doPiece (s.task tid) a.kind a.data p
  let s2 := s1.putTask tid t1
  if !s.badAt p.1 p.2 then (d1, s2)
  else
    let s3 := s2.taskError tid 0x08 2 (natLe 8 p.1)
    match a.kind with
    | .store => (d1, s3)
    | .atomic _ _ n _ _ => ((List.range n).map fun i => Config.freeByte (s3.free + i), { s3 with free := s3.free + n })
    | _ => (d1, s3.putTask tid ((s3.task tid).setWait a.tok .failed))

/-- An access's data are complete: its producer gets them, unless it has failed. -/
def Task.lsDone (t : Task) (a : LsAcc) (data : List Byte) : Task :=
  { t with prods := t.prods.map fun p => if p.tok == a.tok && p.wait == .ls then { p with wait := .ready [a.kind.value data] } else p }

/-- The remaining pieces of an access performed in order. -/
def State.lsPieces (s : State) (tid : Nat) (a : LsAcc) : List (Nat × Nat) → State
  | [] => s.putTask tid ((s.task tid).lsDone a a.data)
  | p :: r =>
    let (d, s1) := s.lsPiece tid a p
    s1.lsPieces tid { a with data := d } r

/-- LS_ACCESS_SEND: the queue's head sends its next piece (11 R337); a write to a line the host may hold first sends a
back-invalidation and waits for its response (11 R359). -/
def State.lsSend (s : State) (tid : Nat) : State :=
  let t := s.task tid
  match t.lsq with
  | [] => s
  | a :: rest =>
    let finish (s : State) (data : List Byte) : State := s.putTask tid ({ s.task tid with lsq := rest }.lsDone a data)
    match a.kind, a.parts with
    | .await, _ => if t.prods.any fun p => p.tok == a.tok then s else s.putTask tid { t with lsq := rest }
    | _, [] => finish s a.data
    | k, p :: ps =>
      let writes := match k with | .store => true | .atomic _ _ _ _ _ => true | _ => false
      let held := if writes then s.hostHeld p.1 p.2 else []
      if !held.isEmpty then s.backInv tid held
      else
        let (d, s1) := s.lsPiece tid a p
        if ps.isEmpty then finish s1 d
        else s1.putTask tid { s1.task tid with lsq := { a with parts := ps, data := d } :: rest }

/-- The LS queue's head can move: the bank that it goes to has a cycle for it (05 R144), and no response is outstanding (11 R359). -/
def State.lsCanSend (s : State) (tid : Nat) : Bool :=
  match (s.task tid).lsq with
  | [] => false
  | a :: _ =>
    (match a.parts with | p :: _ => s.bankFree p.1 | [] => true) &&
    match a.kind, a.parts with
    | .await, _ => !((s.task tid).prods.any fun p => p.tok == a.tok)
    | .store, p :: _ => (s.hostHeld p.1 p.2).all fun l => !s.binv.any fun b => b.1 == l
    | .atomic _ _ _ _ _, p :: _ => (s.hostHeld p.1 p.2).all fun l => !s.binv.any fun b => b.1 == l
    | _, _ => true

/-- OFILL_ROW: the next row of an OFILL is read and written into the alcove; the last makes it FULL (05 R163). A row waits for
a cycle after the commit and after the row before it, for its bank (05 R144) and for the alcove's queued reads (05 R160). -/
def State.ofillReady (s : State) (core a : Nat) : Bool :=
  let x := (s.core core).alcove a
  decide (0 < x.rows) && x.reads == 0 && decide (x.from_ < s.cycle) && s.bankFree x.src

/-- One row of an OFILL. -/
def State.ofillRow (s : State) (core a : Nat) : State :=
  let x := (s.core core).alcove a
  let here := (tabFind s.tasks x.tid).isSome
  let (c, bs, s1) := s.loadLine (clusterOf core) (if here then (s.task x.tid).pts else x.clk) x.src 64
  let x1 := { x with data := memPutBytes x.data (64 * x.row) bs, src := x.src + 64, rows := x.rows - 1, row := x.row + 1, from_ := s.cycle, clk := c,
                     st := if x.rows = 1 then 4 else 3 }
  let x2 := if x1.rows == 0 && x1.release then {} else x1
  let k := s1.core core
  let s2 := s1.putCore core (k.putAlcove a x2)
  if here then s2.putTask x.tid { s2.task x.tid with pts := max (s2.task x.tid).pts c } else s2

/-- The lowest-numbered FREE alcove of a core that is granted to a region (05 R161). -/
def State.freeAlcove (s : State) (core r : Nat) : Option Nat :=
  (List.range 32).find? fun a => ((s.core core).alcove a).st == 0 && tabFind s.algr (core * 32 + a) == some r

/-- A handle released: unbound at once, its alcove FREE when its queued reads and its OFILL have ended (05 R160, R162). -/
def State.release (s : State) (tid h : Nat) : State :=
  let t := s.task tid
  match tabFind t.handles h with
  | none => s
  | some a =>
    let k := s.core t.core
    let x := k.alcove a
    let x1 := if x.reads == 0 && x.rows == 0 then {} else { x with release := true }
    (s.putCore t.core (k.putAlcove a x1)).putTask tid { t with handles := tabDel t.handles h }

/-- A JOIN, WATCH or other fill that counts as a load of a word (09 R289, R292): the task's clock follows it. -/
def State.fillLoad (s : State) (t : Task) (loc n : Nat) : Task × Nat × State :=
  let v := memNat s.mem loc n
  if isHost loc then (t, v, s)
  else
    let s0 := s.fillL2 loc
    let (w, r) := s0.stamp (lineOf loc)
    let pts := max t.pts w
    ({ t with pts := pts }, v, { s0 with stamps := tabPut s0.stamps (lineOf loc) (w, max r (if isSpad loc then pts else pts + s.leaseAt loc)) })

end Sys2Proof.Machine
end

