-- ==== Sys2Proof/Machine/CopyOps.lean ====
section
/-! DEFINITION. The copy engine: shape records and their checks (08 R227-R230), conversions (R236), the write units of a command
and their delivery (R229, R231, R237-R239, R242), endings and records (R234, R235, R241, R246), saved channels (R244, R245). -/

namespace Sys2Proof.Machine

/-! ### Formats (05 R146; 08 R228) -/

/-- Format code and plane count. -/
def fCode (f : Nat) : Nat := f % 16
def fPlanes (f : Nat) : Nat := f / 16
/-- A valid BANKFMT value (05 R146). -/
def fmtValid (f : Nat) : Bool :=
  if fCode f ≤ 8 then fPlanes f == 0 else decide (fCode f ≤ 11 ∧ 2 ≤ fPlanes f ∧ fPlanes f ≤ 8)
/-- Plane-nested. -/
def fPn (f : Nat) : Bool := decide (9 ≤ fCode f)
def fFp (f : Nat) : Bool := decide (1 ≤ fCode f ∧ fCode f ≤ 4)
def fInt (f : Nat) : Bool := decide (5 ≤ fCode f ∧ fCode f ≤ 8)
/-- Element size in bytes (08 R228); 4, a plane word, for a plane-nested side. -/
def fSize (f : Nat) : Nat :=
  match fCode f with
  | 0 => 1 | 1 => 8 | 2 => 4 | 3 => 2 | 4 => 2 | 5 => 1 | 6 => 2 | 7 => 4 | 8 => 8 | _ => 4
/-- The floating-point format of a code 1-4. -/
def fFmt (f : Nat) : Fmt := match fCode f with | 1 => .f64 | 2 => .f32 | 3 => .f16 | _ => .bf16
/-- The plane-nested formats that carry scale words. -/
def fScaled (f : Nat) : Bool := fCode f == 9 || fCode f == 11

/-- A listed pair of differing formats (08 R236). -/
def pairOk (sf df : Nat) : Bool :=
  ((fFp sf || fInt sf) && (fFp df || fInt df || fPn df)) ||
  (fScaled sf && (fCode df == 2 || fCode df == 3 || fCode df == 4)) ||
  (fCode sf == 10 && (fFp df || fInt df || (fCode df == 10 && decide (fPlanes df ≤ fPlanes sf))))

/-! ### The shape record (08 R227) -/

/-- A shape record's fields; strides by level, level 1 first. -/
structure ShapeRec where
  sbase : Nat
  dbase : Nat
  sfmt  : Nat
  dfmt  : Nat
  e0    : Nat
  e     : List Nat
  ss    : List Int
  ds    : List Int
  sps   : Int
  dps   : Int
  scale : Nat
  deriving DecidableEq, Repr

/-- A little-endian field of bytes. -/
def fieldAt (bs : List Byte) (i n : Nat) : Nat := leNat ((bs.drop i).take n)

/-- The fields of a record's 160 bytes. -/
def shapeRec (bs : List Byte) : ShapeRec :=
  { sbase := fieldAt bs 0 8, dbase := fieldAt bs 8 8, sfmt := fieldAt bs 16 1, dfmt := fieldAt bs 17 1, e0 := fieldAt bs 20 4
    e := (List.range 5).map fun i => fieldAt bs (24 + 4 * i) 4
    ss := (List.range 5).map fun i => signed 64 (fieldAt bs (48 + 8 * i) 8)
    ds := (List.range 5).map fun i => signed 64 (fieldAt bs (88 + 8 * i) 8)
    sps := signed 64 (fieldAt bs 128 8), dps := signed 64 (fieldAt bs 136 8), scale := fieldAt bs 144 8 }

/-- The reserved bytes are zero. -/
def shapeReserved (bs : List Byte) : Bool :=
  fieldAt bs 18 2 == 0 && fieldAt bs 44 4 == 0 && fieldAt bs 152 8 == 0

/-- Iterations of a command: the product of E1-E5. -/
def ShapeRec.iters (r : ShapeRec) : Nat := r.e.foldl (· * ·) 1

/-- Iteration indices i1-i5 of an iteration number, level 1 fastest (08 R229); past the last iteration the outermost one stands at its
extent. -/
def splitIter : List Nat → Nat → List Nat
  | [], _ => []
  | [_], i => [i]
  | e :: r, i => i % e :: splitIter r (i / e)

/-- The sum of indices times strides. -/
def dotStride (is : List Nat) (ss : List Int) : Int := (is.zip ss).foldl (fun a x => a + x.1 * x.2) 0

/-- Iteration number of indices, level 1 fastest. -/
def joinIter : List Nat → List Nat → Nat
  | e :: es, i :: is => i + e * joinIter es is
  | _, _ => 0

/-- The converting formats of a command: RAW on either side makes both RAW (08 R228). -/
def Cmd.fmtPair (c : Cmd) : Nat × Nat := if fCode c.sf = 0 ∨ fCode c.df = 0 then (0, 0) else (c.sf, c.df)
/-- The command converts. -/
def Cmd.converts (c : Cmd) : Bool := c.fmtPair.1 != c.fmtPair.2
/-- The command uses scale words (08 R236). -/
def Cmd.scales (c : Cmd) : Bool := c.converts && (fScaled c.fmtPair.1 || fScaled c.fmtPair.2)
/-- The command writes a scale word after each block. -/
def Cmd.writesScale (c : Cmd) : Bool := c.converts && fScaled c.fmtPair.2

/-- Modes of the ctl field (08 R225). -/
def Cmd.multicast (c : Cmd) : Bool := c.mode == 1
def Cmd.selects (c : Cmd) : Bool := c.mode == 2
def Cmd.indexed (c : Cmd) : Bool := c.mode == 3
/-- Destination alcove handle, when enabled. -/
def Cmd.alcoveDst (c : Cmd) : Option Nat := if c.dsth / 16 % 2 = 1 then some (c.dsth % 16) else none
/-- A pending follow-on word. -/
def Cmd.followOn (c : Cmd) : Option Nat := if c.follow / 2 ^ 32 % 2 = 1 then some (c.follow % 2 ^ 32) else none
/-- Entries kept by SELECT. -/
def Cmd.kept (c : Cmd) : Nat := c.select / 8 % 32
/-- Cores a MULTICAST writes. -/
def Cmd.targets (c : Cmd) : List Nat := (List.range 16).filter fun i => c.mcast / 2 ^ i % 2 == 1

/-- Destination bytes of one run in one plane array (08 R229: w0). -/
def Cmd.segment (c : Cmd) (r : ShapeRec) : Nat :=
  if c.selects then 8 * c.kept
  else if fPn c.fmtPair.2 then 4 * (r.e0 / 32) else r.e0 * fSize c.fmtPair.2

/-- Plane arrays of a side. -/
def planesOf (f : Nat) : Nat := if fPn f then fPlanes f else 1

/-! ### Owner and translation -/

/-- The task that holds a channel (08 R224); 0 for none. -/
def State.chanOwner (s : State) (core q : Nat) : Nat :=
  ((s.core core).tasks.find? fun t => (s.task t).qmask / 2 ^ q % 2 == 1).getD 0

/-- Why a piece of a copy cannot be accessed. -/
inductive CopyBad where
  | prot (a : Nat)
  | miss (cause a : Nat)
  | uncorrectable (a : Nat)
  | shape
  deriving DecidableEq, Repr

/-- The pieces of a copy's access, split at pages: location and length. -/
def State.copyPieces (s : State) (t : Task) (cluster need : Nat) : Nat → Nat → Nat → Except CopyBad (List (Nat × Nat))
  | 0, _, _ => .ok []
  | f + 1, a, n =>
    if n = 0 then .ok []
    else
      let k := min n (4096 - a % 4096)
      let here : Except CopyBad Nat := match placeN a k with
        | some (.spad c off) => if s.reachN t.rkey c off k then .ok a else .error (.prot a)
        | some (.global va) =>
          if s.inPool t va k then .error (.prot a)
          else match s.clusterXlat t.part cluster va need (s.privileged t) with
            | .ok loc => .ok loc
            | .bad c => .error (.miss c a)
        | _ => .error (.prot a)
      match here with
      | .error e => .error e
      | .ok loc => match s.copyPieces t cluster need f (a + k) (n - k) with
        | .ok r => .ok ((loc, k) :: r)
        | .error e => .error e

/-- The device address of the first byte, of pieces that start at a device address, that lies in a sector with an uncorrectable error. -/
def State.badIn (s : State) : Nat → List (Nat × Nat) → Option Nat
  | _, [] => none
  | a, (loc, n) :: r =>
    match (List.range n).find? fun j => s.badAt (loc + j) 1 with
    | some j => some (a + j)
    | none => s.badIn (a + n) r

/-- The pieces of several ranges. -/
def State.copyRanges (s : State) (t : Task) (cluster need : Nat) : List (Nat × Nat) → Except CopyBad (List (Nat × Nat))
  | [] => .ok []
  | (a, n) :: r => match s.copyPieces t cluster need (n / 4096 + 2) a n, s.copyRanges t cluster need r with
    | .ok x, .ok y => .ok (x ++ y)
    | .error e, _ => .error e
    | .ok _, .error e => .error e

/-! ### The checks of a record (08 R230) -/

/-- How a command ends: status, code, address. -/
abbrev Ending := Nat × Nat × Nat

/-- The bank formats of other cores that a command goes by once its record is read (05 R147): the registers; where a BFMT has changed one
since the CGO, which of the two holds is free. -/
def State.copyFmts (s : State) (c : Cmd) : Tab (Tab Nat) :=
  s.cores.map fun x => (x.1, (List.range 16).filterMap fun b =>
    let was := tabGet (tabGet c.ofmts [] x.1) 0 b
    let now := tabGet x.2.bankfmt 0 b
    let v := if was = now then now else if Config.freeBit (s.free + 16 * x.1 + b) then now else was
    if v = 0 then none else some (b, v))

/-- The format of a bank as a command goes by it: the snapshot of its CGO for the issuing core's (05 R147). -/
def Cmd.bankFmt (c : Cmd) (core bank : Nat) : Nat :=
  if core = c.core then tabGet c.fmts 0 bank else tabGet (tabGet c.ofmts [] core) 0 bank

/-- The runs of a side: start address and bytes, by iteration and plane. -/
def sideRuns (base : Nat) (strides : List Int) (e : List Nat) (n planes : Nat) (ps : Int) (len : Nat) : List (Int × Nat) :=
  (List.range n).foldr (fun i acc =>
    ((List.range planes).map fun (p : Nat) => ((base : Int) + dotStride (splitIter e i) strides + (p : Int) * ps, len)) ++ acc) []

/-- A run lies wholly in one space. -/
def runOk (x : Int × Nat) : Bool := decide (0 ≤ x.1) && (placeN x.1.toNat x.2).isSome

/-- The bank formats a scratchpad run touches all equal a format. -/
def Cmd.runFmt (c : Cmd) (f : Nat) (x : Int × Nat) : Bool :=
  match placeN x.1.toNat x.2 with
  | some (.spad core off) =>
    (List.range ((off + x.2 - 1) / 32768 + 1 - off / 32768)).all fun i => c.bankFmt core (off / 32768 + i) == f
  | _ => true

/-- A run's scratchpad banks are reachable. -/
def State.runReach (s : State) (r : Nat) (x : Int × Nat) : Bool :=
  match placeN x.1.toNat x.2 with
  | some (.spad core off) => s.reachN r core off x.2
  | _ => true

/-- The device address of the first byte of a run that is malformed or lies in a bank out of reach (08 R230 step 4, R234). -/
def State.runFault (s : State) (r : Nat) (x : Int × Nat) : Nat :=
  let a := (BitVec.ofInt 64 x.1).toNat
  if x.1 < 0 then a
  else match placeN a 1 with
    | some (.spad core off) =>
      let shut := (List.range (min (off + x.2) (2 ^ 19) / 32768 + 1 - off / 32768)).find? fun i =>
        decide ((off / 32768 + i) * 32768 < min (off + x.2) (2 ^ 19)) && !s.reach r core (off / 32768 + i)
      match shut with
      | some i => a + ((off / 32768 + i) * 32768 - off)
      | none => a + (2 ^ 19 - off)
    | some (.global va) => a + (2 ^ 48 - va)
    | _ => a

/-- A side's format (08 R228): the record's, or that of the bank holding its base; `none` on a breach at the base. -/
def Cmd.sideFmt (c : Cmd) (base rec : Nat) : Option Nat :=
  match place base with
  | some (.spad core off) =>
    let f := c.bankFmt core (off / 32768)
    if rec = 0 ∨ rec = f then some f else none
  | _ => some rec

/-- The source start of a run: sbase and the strides, with the index list in place of i1 for INDEXED (08 R229, R239). -/
def Cmd.srcStart (c : Cmd) (r : ShapeRec) (iter : Nat) : Int :=
  let is := splitIter r.e iter
  (r.sbase : Int) + (if c.indexed then dotStride (fieldAt c.idx (4 * is.headD 0) 4 :: is.drop 1) r.ss else dotStride is r.ss)

/-- Bytes of a side's runs: source. -/
def Cmd.srcRuns (c : Cmd) (r : ShapeRec) : List (Int × Nat) :=
  let f := c.fmtPair.1
  let planes := if c.converts && fPn f && fPn c.fmtPair.2 then fPlanes c.fmtPair.2 else planesOf f
  let len := if fPn f then 4 * (r.e0 / 32) else r.e0 * fSize f
  (List.range r.iters).foldr (fun i acc => ((List.range planes).map fun (p : Nat) => (c.srcStart r i + (p : Int) * r.sps, len)) ++ acc) []

/-- Bytes of a side's runs: destination. -/
def Cmd.dstRuns (c : Cmd) (r : ShapeRec) : List (Int × Nat) :=
  sideRuns r.dbase r.ds r.e r.iters (if c.selects then 1 else planesOf c.fmtPair.2) r.dps (c.segment r)

/-- The scale words a command uses. -/
def Cmd.scaleRun (c : Cmd) (r : ShapeRec) : List (Int × Nat) :=
  if c.scales then [((r.scale : Int), 2 * (r.iters * (r.e0 / 32)))] else []

/-- A destination address moved to another core of its cluster. -/
def moveCore (a core : Nat) : Nat := a - a / 2 ^ 24 % 16 * 2 ^ 24 + core * 2 ^ 24

/-- The mode's constraints (08 R237, R238, R240) and the alcove rule (R250), step 0. -/
def Cmd.modeShape (c : Cmd) (bs : List Byte) (r : ShapeRec) : Bool :=
  let isAlc := match place r.dbase with | some (.alcove _ _) => true | _ => false
  (match c.alcoveDst with
    | some h => r.dbase == 0xA1 * 2 ^ 56 + c.core % 16 * 2 ^ 24 + h
    | none => !isAlc) &&
  (c.followOn.isNone || c.mode == 0 || c.indexed) &&
  (!c.multicast ||
    ((match place r.dbase with | some (.spad k _) => k % 16 == 0 | _ => false) && c.mcast % 2 ^ 16 != 0 && c.dsth == 0)) &&
  (!c.selects ||
    (r.sbase == 0 && r.sfmt == 0 && r.dfmt == 0 && r.ss.all (· == 0) && (r.ds.drop 1).all (· == 0) && r.sps == 0 && r.dps == 0 &&
     r.scale == 0 && decide (1 ≤ r.e0 ∧ r.e0 ≤ 16) && decide (r.e.headD 0 ≤ 48) && (r.e.drop 1).all (· == 1) &&
     decide (c.kept ≤ r.e0) && decide ((8 * c.kept : Int) ≤ r.ds.headD 0))) &&
  shapeReserved bs

/-- Step 3 of 08 R230: each level's stride covers the span below it; the spans from w0 on. -/
def strideCheck : List Nat → List Int → Int → Option Int
  | e :: es, d :: ds, w => if e > 1 && decide (d < w) then none else strideCheck es ds (d * ((e : Int) - 1) + w)
  | _, _, w => some w

/-- The index list of an INDEXED command lies in reachable banks (08 R239). -/
def State.idxReach (s : State) (t : Task) (c : Cmd) (r : ShapeRec) : Bool :=
  match placeN c.index (4 * r.e.headD 0) with
  | some (.spad k off) => s.reachN t.rkey k off (4 * r.e.headD 0)
  | _ => false

/-- The checks of 08 R230 after the record, and the index list of an INDEXED command, are read: the first that fails, or none. A malformed
address that an index gives is found at its run (08 R239). -/
def State.copyCheck (s : State) (t : Task) (c : Cmd) (bs : List Byte) : Option Ending :=
  let r := shapeRec bs
  let src := if c.selects || (c.indexed && !s.idxReach t c r) then [] else c.srcRuns r
  let dst0 := if c.alcoveDst.isSome then [] else c.dstRuns r
  let dst := if c.multicast then dst0.foldr (fun x acc => (c.targets.map fun k => ((moveCore x.1.toNat k : Int), x.2)) ++ acc) [] else dst0
  let plain (l : List (Int × Nat)) := l.filter fun x => runOk x
  let zero := r.e0 = 0 ∨ r.e.any (· == 0)
  let step0 :=
    c.modeShape bs r && fmtValid r.sfmt && fmtValid r.dfmt && fmtValid c.sf && fmtValid c.df &&
    (zero || (plain dst).all (c.runFmt (if c.selects then (c.sideFmt r.dbase 0).getD 0 else c.df))) &&
    (c.selects ||
      (((c.sideFmt r.sbase r.sfmt).isSome && (c.sideFmt r.dbase r.dfmt).isSome && (zero || (plain src).all (c.runFmt c.sf))) &&
       (!c.converts || ((c.mode == 0 || c.indexed) && pairOk c.fmtPair.1 c.fmtPair.2)) && (c.scales || r.scale == 0)))
  if !step0 then some (3, 0, 0)
  else if !(c.selects || (r.sbase % fSize c.fmtPair.1 == 0 && (c.alcoveDst.isSome || r.dbase % fSize c.fmtPair.2 == 0) &&
      (!c.scales || r.scale % 4 == 0) && ((!fPn c.fmtPair.1 && !fPn c.fmtPair.2) || r.e0 % 32 == 0))) then some (3, 1, 0)
  else if zero then some (1, 0, 0)
  else if !(match strideCheck r.e r.ds (c.segment r) with
      | some w5 => !(fPn c.fmtPair.2 && !c.selects) || decide (w5 ≤ r.dps)
      | none => false) then some (3, 3, 0)
  else
    let all := (if c.indexed then plain src else src) ++ dst ++ c.scaleRun r
    match all.find? (fun x => !(runOk x && s.runReach t.rkey x)) with
    | some x => some (5, 9, s.runFault t.rkey x)
    | none =>
      let idxBad := c.indexed && !s.idxReach t c r
      let barBad := c.multicast && c.mcast / 2 ^ 21 % 2 == 1 &&
        !(match place r.dbase with
          | some (.spad k _) => s.barGranted (clusterOf k) (c.mcast / 2 ^ 16 % 32) t.rkey
          | _ => false)
      if idxBad then some (5, 9, s.runFault t.rkey (c.index, 4 * r.e.headD 0))
      else if barBad then some (5, 9, 0)
      else if c.alcoveDst.isSome &&
        (c.dstRuns r).any (fun x => !decide ((x.1 - r.dbase) + x.2 ≤ 4096)) then some (3, 4, 0)
      else none

/-! ### Ending a command (08 R226, R230, R234, R237, R241) -/

/-- A MULTICAST arrival for one core (08 R237, R257; 11 R342). -/
def State.mcastArrive (s : State) (core q k : Nat) : State :=
  let ch := (s.core core).chan q
  match ch.cmd with
  | none => s
  | some c =>
    let r := shapeRec c.image
    match place r.dbase with
    | some (.spad d _) =>
      let b := c.mcast / 2 ^ 16 % 32
      let t := s.task (s.chanOwner core q)
      let s1 := s.putCore core ((s.core core).putChan q { ch with cmd := some { c with marr := k :: c.marr } })
      if c.multicast && c.mcast / 2 ^ 21 % 2 == 1 && !c.image.isEmpty && !c.marr.contains k && s.barGranted (clusterOf d) b t.rkey then
        s1.setBar (clusterOf d) b ((s1.bar (clusterOf d) b).arrive c.clk true)
      else s
    | _ => s

/-- A MULTICAST command that ends, not OK, before its record was read: the record, for its arrivals (08 R237). -/
def State.peekRecord (s : State) (core q : Nat) (c : Cmd) (status : Nat) : Cmd :=
  if c.multicast && status != 0 && c.image.isEmpty then
    { c with image := (s.engRead (s.task (s.chanOwner core q)).part c.shape 160).getD [] }
  else c

/-- A command ends: its status is fixed, a destination alcove becomes FULL or EMPTY, the remaining arrivals are made, and its
follow-on word is suppressed unless the status is OK. -/
def State.endCopy (s : State) (core q : Nat) (x : Ending) : State :=
  let ch := (s.core core).chan q
  match ch.cmd with
  | none => s
  | some c0 =>
    let c := s.peekRecord core q c0 x.1
    let sp := s.putCore core ((s.core core).putChan q { ch with cmd := some c })
    let s0 := if c.multicast && x.1 != 0 then c.targets.foldl (fun s k => s.mcastArrive core q k) sp else sp
    let k := s0.core core
    let t := s.task (s.chanOwner core q)
    let ch := k.chan q
    let c := ch.cmd.getD c
    let c1 := { c with ends := some x, faulted := false, shown := c.shown || x.1 != 0 || c.followOn.isNone }
    let k1 := k.putChan q { ch with cmd := some c1 }
    let k2 := match c.alcoveDst.bind fun h => tabFind t.handles h with
      | some a => if (k.alcove a).st = 2 then k1.putAlcove a { k.alcove a with st := if x.1 = 0 then 4 else 1 } else k1
      | none => k1
    s0.putCore core k2

/-- The next COPY/INDEXED/SELECT/MULTICAST byte position of a command's run stream: bytes one run delivers, scale words included. -/
def Cmd.runBytes (c : Cmd) (r : ShapeRec) : Nat :=
  (if c.selects then 1 else planesOf c.fmtPair.2) * c.segment r + (if c.writesScale then 2 * (r.e0 / 32) else 0)

/-- Position of a command in its destination stream. -/
def Cmd.position (c : Cmd) (r : ShapeRec) : Nat := c.iter * c.runBytes r + c.off

/-- Cancelling (08 R241). A command whose data are complete counts as completing, its follow-on word presented or not (DEDUCED,
notes/assumptions/104). -/
def State.cancelCopy (s : State) (core q : Nat) : State :=
  match ((s.core core).chan q).cmd with
  | some c => if c.ends.isSome || c.data then s else s.endCopy core q (2, 0, 0)
  | none => s

/-! ### COPY_RECORD_READ (08 R230, R245) -/

/-- A running command has still to read its record. -/
def Cmd.wantsRecord (c : Cmd) : Bool := c.image.isEmpty && c.ends.isNone

/-- Reading a command's record and checking the command. -/
def State.copyRecordRead (s : State) (core q : Nat) : State :=
  let k := s.core core
  let ch := k.chan q
  match ch.cmd with
  | none => s
  | some c =>
    let t := s.task (s.chanOwner core q)
    let fail (s : State) (x : Ending) : State := s.endCopy core q x
    match (if (placeN c.shape 160).isNone then .error (.prot c.shape) else s.copyPieces t (clusterOf core) 1 3 c.shape 160) with
    | .error (.prot a) => fail s (5, 9, a)
    | .error (.miss 1 a) => fail s (5, 9, a)
    | .error (.miss x a) => (fail s (4, 8, a)).formatError x 1 t.part t.rkey core t.tid a
    | .error (.uncorrectable a) => fail s (6, 0, a)
    | .error .shape => fail s (3, 0, 0)
    | .ok ps =>
      if c.shape % 32 ≠ 0 then fail s (3, 0, 0)
      else match s.badIn c.shape ps with
      | some a => (fail s (6, 0, a)).taskError t.tid 0x08 1 (natLe 8 a)
      | none =>
        let (clk0, bs, s0) := s.loadAll (clusterOf core) c.clk (ps.foldr (fun p acc => splitLines p.1 p.2 5 ++ acc) [])
        let r := shapeRec bs
        let (clk, idx, s1) := if c.indexed && s.idxReach t c r then s0.load (clusterOf core) clk0 c.index (4 * r.e.headD 0) else (clk0, [], s0)
        match c.crc with
        | some (v, is) =>
          let i := joinIter r.e is
          let cr := { c with image := bs, idx := idx, clk := clk, crc := none, iter := i, pick := if c.old.isEmpty then s1.free else c.pick, data := i == r.iters }
          let c1 := { cr with prog := if c.multicast then c.targets.map fun k => (k, cr.position r) else [] }
          let s2 := s1.putCore core ((s1.core core).putChan q { ch with cmd := some c1 })
          if crc32 bs = v then { s2 with free := s2.free + 2 ^ 20 + r.iters * r.e0 } else fail s2 (3, 0, 0)
        | none =>
          let cf := { c with pick := s1.free, ofmts := s1.copyFmts c, idx := idx }
          let c1 := { cf with image := bs, clk := clk, sf := if c.selects then 0 else (cf.sideFmt r.sbase r.sfmt).getD r.sfmt,
                              df := if c.selects then 0 else (cf.sideFmt r.dbase r.dfmt).getD r.dfmt }
          let s2 := { s1.putCore core ((s1.core core).putChan q { ch with cmd := some c1 }) with free := s1.free + 2 ^ 20 + r.iters * r.e0 }
          match s2.copyCheck t c1 bs with
          | some x => fail s2 x
          | none => s2

/-! ### SELECT (08 R238) -/

/-- Column order of a row: descending value, ties to the lower index, NaNs last (08 R238). -/
def selBefore (a b : Nat × Nat) : Bool :=
  let x := Fmt.f32.decode a.1
  let y := Fmt.f32.decode b.1
  if x.isNan then y.isNan && decide (a.2 < b.2)
  else if y.isNan then true
  else if fpLt y x then true
  else if fpLt x y then false
  else decide (a.2 < b.2)

/-- Insertion by that order. -/
def selInsert (a : Nat × Nat) : List (Nat × Nat) → List (Nat × Nat)
  | [] => [a]
  | b :: r => if selBefore a b then a :: b :: r else b :: selInsert a r

/-- The `k` pairs of a row. -/
def selRow (t : Tile) (row cols k : Nat) : List Byte :=
  (((List.range cols).foldr (fun n acc => selInsert ((tabGet t.data 0 (16 * row + n)).toNat, n) acc) []).take k).foldr
    (fun x acc => natLe 4 x.1 ++ natLe 4 x.2 ++ acc) []

/-- A SELECT command may read its tile: its record is read and every entry of the tile made before its CGO is complete. -/
def State.selectReady (s : State) (core q : Nat) : Bool :=
  match ((s.core core).chan q).cmd with
  | some c => c.selects && !c.image.isEmpty && c.ends.isNone && !c.faulted && !c.selRead &&
      !((s.core core).mq.any fun e => decide (e.id < c.mid) && e.op.tiles.contains (c.select % 8))
  | none => false

/-- SELECT_TILE_READ. -/
def State.selectRead (s : State) (core q : Nat) : State :=
  let k := s.core core
  let ch := k.chan q
  match ch.cmd with
  | none => s
  | some c =>
    let r := shapeRec c.image
    let t := k.tile (c.select % 8)
    match t.mode with
    | none => s.endCopy core q (3, 0, 0)
    | some w =>
      if mAcc w ≠ 1 ∨ r.e.headD 0 > mRows w then s.endCopy core q (3, 0, 0)
      else if t.poison then s.endCopy core q (7, 4, 0)
      else
        let bs := (List.range (r.e.headD 0)).foldr (fun m acc => selRow t m r.e0 c.kept ++ acc) []
        s.putCore core (k.putChan q { ch with cmd := some { c with sel := bs, selRead := true } })

/-! ### Write units (08 R229, R231, R236) -/

/-- One destination write: the plane (or scale) it belongs to, its byte position in that segment, its address, its bytes. -/
structure CUnit where
  plane : Nat
  pos   : Nat
  addr  : Nat
  n     : Nat
  scale : Option Nat := none          -- a scale word, of this block of the run
  deriving DecidableEq, Repr

/-- The 32-byte sectors of a segment; `org`: the address that offsets count from (08 R229, R231). -/
def sectors (plane org a pos : Nat) : Nat → Nat → List CUnit
  | 0, _ => []
  | f + 1, len =>
    if len = 0 then []
    else
      let k := min len (32 - (a - org) % 32)
      { plane := plane, pos := pos, addr := a, n := k } :: sectors plane org (a + k) (pos + k) f (len - k)

/-- The units of a run in order: plane by plane; where scale words are written, each follows its block's last plane word. -/
def Cmd.units (c : Cmd) (r : ShapeRec) (iter : Nat) : List CUnit :=
  let dst := ((r.dbase : Int) + dotStride (splitIter r.e iter) r.ds)
  let len := c.segment r
  let np := if c.selects then 1 else planesOf c.fmtPair.2
  let at_ (p : Nat) : Nat := (dst + p * r.dps).toNat
  let blocks := r.e0 / 32
  (List.range np).foldr (fun p acc =>
    (if c.writesScale && p + 1 == np then
      (List.range blocks).foldr (fun b acc =>
        { plane := p, pos := 4 * b, addr := at_ p + 4 * b, n := 4 : CUnit } ::
        { plane := p, pos := 0, addr := r.scale + 2 * (iter * blocks + b), n := 2, scale := some b } :: acc) []
     else sectors p (if c.alcoveDst.isSome then r.dbase else 0) (at_ p) 0 (len + 1) len) ++ acc) []

/-- The unit at a byte offset of a run. -/
def unitAt : List CUnit → Nat → Option CUnit
  | [], _ => none
  | u :: us, off => if off = 0 then some u else if u.n ≤ off then unitAt us (off - u.n) else none

/-- Bytes of the source that a unit depends on, as ranges of device addresses (08 R242). `src` is the run's start. -/
def Cmd.unitSrc (c : Cmd) (r : ShapeRec) (iter src : Nat) (u : CUnit) : List (Nat × Nat) :=
  let (sf, df) := c.fmtPair
  let blocks := r.e0 / 32
  let pl (p a n : Nat) : Nat × Nat := (((src : Int) + p * r.sps).toNat + a, n)
  let scaleRange (b n : Nat) : List (Nat × Nat) := [(r.scale + 2 * (iter * blocks + b), 2 * n)]
  if !c.converts || (fPn sf && fPn df) then [pl u.plane u.pos u.n]
  else if fPn df then
    let b0 := match u.scale with | some b => b | none => u.pos / 4
    let b1 := match u.scale with | some b => b | none => (u.pos + u.n - 1) / 4
    (src + 32 * b0 * fSize sf, 32 * (b1 - b0 + 1) * fSize sf) :: (if fCode df == 9 then scaleRange b0 (b1 - b0 + 1) else [])
  else
    let j0 := u.pos / fSize df
    let j1 := (u.pos + u.n - 1) / fSize df
    if fPn sf then
      let b0 := j0 / 32
      let nb := j1 / 32 - b0 + 1
      ((List.range (fPlanes sf)).map fun p => pl p (4 * b0) (4 * nb)) ++ (if fScaled sf then scaleRange b0 nb else [])
    else [(src + j0 * fSize sf, (j1 - j0 + 1) * fSize sf)]

/-- Element j of bytes in a format that is not plane-nested. -/
def elemAt (f : Nat) (bs : List Byte) (j : Nat) : Nat := fieldAt bs (j * fSize f) (fSize f)

/-- A plane-nested element from plane words: planes of `nb` blocks one after another; element j. -/
def pnElem (n nb : Nat) (bs : List Byte) (j : Nat) : Int :=
  signed n ((List.range n).foldl (fun v p => 2 * v + fieldAt bs (4 * (p * nb + j / 32)) 4 / 2 ^ (j % 32) % 2) 0)

/-- One value converted to a format that is not plane-nested (08 R236; 03 R77): source bits and format. -/
def convElem (sf df v : Nat) : Nat :=
  if fFp sf then
    if fFp df then ((fFmt sf).conv (fFmt df) 0 v).1
    else intBits (8 * fSize df) ((fFmt sf).toInt (8 * fSize df) 0 v).1
  else
    let x := signed (8 * fSize sf) v
    if fFp df then ((fFmt df).fromInt 0 x).1 else intBits (8 * fSize df) (satInt (8 * fSize df) x).1

/-- A plane-nested value converted (08 R236): its scale word if scaled. -/
def convPn (df : Nat) (word : Option Nat) (v : Int) : Nat :=
  match word with
  | none => if fFp df then ((fFmt df).fromInt 0 v).1 else intBits (8 * fSize df) (satInt (8 * fSize df) v).1
  | some w => match scaleVal w with
    | none => (fFmt df).nan
    | some (m, e) => ((fFmt df).ofInt 0 (v * m) e).1

/-- A value as a real of a block (03 R75). -/
def realOf (sf v : Nat) : Real' :=
  if fFp sf then ((fFmt sf).decode v).real else some (signed (8 * fSize sf) v, 0)

/-- A block quantised: scale word and values. -/
def quantBlock (sf df word : Nat) (vs : List Nat) : Nat × List Int :=
  let n := fPlanes df
  match fCode df with
  | 10 => (0, vs.map fun v => if fFp sf then ((fFmt sf).toInt n 0 v).1 else (satInt n (signed (8 * fSize sf) v)).1)
  | 9 => quantScaled n word (vs.map (realOf sf))
  | _ => quantAuto n (vs.map (realOf sf))

/-- A plane word of a block's values (03 R70). -/
def planeWord (n p : Nat) (vs : List Int) : Nat :=
  vs.foldr (fun v acc => intBits n v / 2 ^ (n - 1 - p) % 2 + 2 * acc) 0

/-- A unit's bytes from its source bytes; `none` where a scaled block's scale word stays as it was and is not written. -/
def Cmd.unitData (c : Cmd) (u : CUnit) (bs : List Byte) : Option (List Byte) :=
  let (sf, df) := c.fmtPair
  if !c.converts || (fPn sf && fPn df) then some bs
  else if fPn df then
    let b0 := match u.scale with | some b => b | none => u.pos / 4
    let b1 := match u.scale with | some b => b | none => (u.pos + u.n - 1) / 4
    let nb := b1 - b0 + 1
    let word (b : Nat) : Nat := if fCode df = 9 then fieldAt bs (32 * nb * fSize sf + 2 * b) 2 else 0
    let q (b : Nat) : Nat × List Int := quantBlock sf df (word b) ((List.range 32).map fun i => elemAt sf bs (32 * b + i))
    match u.scale with
    | some _ => if fCode df = 9 ∧ (q 0).1 = word 0 then none else some (natLe 2 (q 0).1)
    | none =>
      let ws := (List.range nb).foldr (fun b acc => natLe 4 (planeWord (fPlanes df) u.plane (q b).2) ++ acc) []
      some ((ws.drop (u.pos % 4)).take u.n)
  else
    let j0 := u.pos / fSize df
    let j1 := (u.pos + u.n - 1) / fSize df
    let b0 := j0 / 32
    let nb := j1 / 32 - b0 + 1
    let out (j : Nat) : List Byte :=
      if fPn sf then
        let w := if fScaled sf then some (fieldAt bs (4 * nb * fPlanes sf + 2 * (j / 32 - b0)) 2) else none
        natLe (fSize df) (convPn df w (pnElem (fPlanes sf) nb bs (j - 32 * b0)))
      else natLe (fSize df) (convElem sf df (elemAt sf bs (j - j0)))
    let es := (List.range (j1 - j0 + 1)).foldr (fun i acc => out (j0 + i) ++ acc) []
    some ((es.drop (u.pos % fSize df)).take u.n)

/-! ### COPY_SECTOR_WRITE (08 R231, R237, R239, R242, R243) -/

/-- A requester waits for the fault service of its die (11 R349). -/
def State.faultReq (s : State) (core : Nat) (part va access cause : Nat) (x : Requester) : State :=
  let d := s.die (dieOf core)
  s.putDie (dieOf core) { d with waitq := d.waitq ++ [{ va := va / 4096 * 4096, access := access, cause := cause, waiters := 1, part := part, reqs := [x] }] }

/-- A channel stops at a sector it cannot complete, and reports it (08 R242). -/
def State.copyFault (s : State) (core q cause a : Nat) (write : Bool) : State :=
  let k := s.core core
  let ch := k.chan q
  match ch.cmd with
  | none => s
  | some c =>
    let t := s.task (s.chanOwner core q)
    let s1 := s.putCore core (k.putChan q { ch with cmd := some { c with faulted := true, faddr := a, fwrite := write, verdict := 0, stopAt := none } })
    let s2 := s1.formatError cause 1 t.part t.rkey core t.tid a
    s2.faultReq core t.part a ((if write then 2 else 1) + 8 * b2n (s.privileged t)) cause (.chan core q t.tid ch.ended)

/-- A command in a state to move data. -/
def Cmd.moving (c : Cmd) : Bool :=
  !c.image.isEmpty && c.ends.isNone && !c.faulted && !c.data && (!c.selects || c.selRead)

/-- The destination alcove of a channel's command, if any. -/
def State.copyAlcove (s : State) (core q : Nat) (c : Cmd) : Option Nat :=
  c.alcoveDst.bind fun h => tabFind (s.task (s.chanOwner core q)).handles h

/-- A channel may be saved: it is idle, faulted, completing, or between two runs. -/
def Chan.atBoundary (c : Chan) : Bool :=
  match c.cmd with
  | none => true
  | some x =>
    let r := shapeRec x.image
    x.ends.isSome || (!x.image.isEmpty && x.crc.isNone && (x.faulted || (x.off == 0 &&
      (!x.multicast || x.targets.all fun k => tabGet x.prog 0 k == x.position r))))

/-- A task's channels are to stop at their next boundary: it is frozen (07 R216 step 5), parked by a forced invalidation or the issuer of
one whose pages are not yet disposed of (11 R357). -/
def State.chansStop (s : State) (tid : Nat) : Bool :=
  let t := s.task tid
  t.status == .frozen || t.barred || (s.part t.part).forces.any fun f => f.tid == tid

/-- Where a command's next write for a core of the mask stands in its stream. -/
def Cmd.placeFor (c : Cmd) (r : ShapeRec) (target : Nat) : Nat := if c.multicast then tabGet c.prog 0 target else c.position r

/-- The least position of a MULTICAST's cores. -/
def Cmd.lowest (c : Cmd) (r : ShapeRec) : Nat :=
  match c.targets.map fun k => tabGet c.prog 0 k with
  | [] => c.position r
  | x :: l => l.foldl min x

/-- A command that is to stop makes no further write for a core that stands at a run's start and behind none of the others. -/
def Cmd.stopsHere (c : Cmd) (r : ShapeRec) (target : Nat) : Bool :=
  let p := c.placeFor r target
  p % max 1 (c.runBytes r) == 0 && (!c.multicast || c.targets.all fun k => decide (tabGet c.prog 0 k ≤ p))

/-- The channel could make its next write (for a core of the mask, in MULTICAST): nothing but the engine's schedule holds it back. A
MULTICAST reads ahead while its holding buffer has fewer than eight sectors, and not past one that it cannot complete (08 R237, R242). -/
def State.copyReady (s : State) (core q target : Nat) : Bool :=
  match ((s.core core).chan q).cmd with
  | none => false
  | some c =>
    let r := shapeRec c.image
    let p := c.placeFor r target
    c.moving && c.crc.isNone && !(s.chansStop (s.chanOwner core q) && c.stopsHere r target) &&
    (match s.copyAlcove core q c with | some a => ((s.core core).alcove a).reads == 0 | none => true) &&
    (!c.multicast || (c.targets.contains target && decide (p < r.iters * c.runBytes r) &&
      ((tabFind c.mbuf p).isSome || decide (c.mbuf.length < 8)) &&
      (match c.stopAt with | some x => decide (p < x) || c.lowest r == x | none => true)))

/-- A channel's ready command, if any. -/
def State.readyCmd (s : State) (core q : Nat) : Option Cmd :=
  match ((s.core core).chan q).cmd with
  | none => none
  | some c => if (if c.multicast then c.targets else [0]).any fun x => s.copyReady core q x then some c else none

/-- The cycles since a command's CGO committed, its task's time in a save area apart (08 R233, R245). -/
def Cmd.age (c : Cmd) (cycle : Nat) : Nat := cycle - c.since + c.aged

/-- Effective slack (08 R233). -/
def Cmd.effSlack (c : Cmd) (cycle : Nat) : Nat := c.slack - c.age cycle / 4096

/-- The sectors that a cluster's engine has written in this cycle, by channel. -/
def State.servedNow (s : State) (cluster : Nat) : List Nat :=
  let x := tabGet s.served (0, []) cluster
  if x.1 = s.cycle then x.2 else []

/-- The channel is the one its cluster's engine serves next: fewer than four sectors this cycle, fewer than two of its own, and no ready
command that could be served has less effective slack, or as much and an earlier CGO (08 R233). -/
def State.copyTurn (s : State) (core q : Nat) : Bool :=
  let done := s.servedNow (clusterOf core)
  let room (c q : Nat) : Bool := decide ((done.filter fun x => x == 4 * c + q).length < 2)
  match s.readyCmd core q with
  | none => false
  | some me =>
    decide (done.length < 4) && room core q &&
    (s.cores.filter fun x => clusterOf x.1 == clusterOf core).all fun x => (List.range 4).all fun p =>
      (x.1 == core && p == q) || !room x.1 p ||
      (match s.readyCmd x.1 p with
        | none => true
        | some c =>
          let a := me.effSlack s.cycle
          let b := c.effSlack s.cycle
          decide (a < b) || (a == b && (decide (c.age s.cycle < me.age s.cycle) ||
            (me.age s.cycle == c.age s.cycle && decide (4 * core + q ≤ 4 * x.1 + p)))))

/-- The scratchpad banks that the channel's next write reads from and goes to serve it in this cycle (05 R144). -/
def State.copyBanksFree (s : State) (core q target : Nat) : Bool :=
  match ((s.core core).chan q).cmd with
  | none => true
  | some c =>
    let r := shapeRec c.image
    let p := c.placeFor r target
    let iter := p / c.runBytes r
    match unitAt (c.units r iter) (p % c.runBytes r) with
    | none => true
    | some u =>
      let reads := if c.selects || (c.multicast && (tabFind c.mbuf p).isSome) then [] else (c.unitSrc r iter (c.srcStart r iter).toNat u).map Prod.fst
      ((if c.multicast then moveCore u.addr target else u.addr) :: reads).all s.bankFree

/-- The channel can make its next write. -/
def State.copyCanWrite (s : State) (core q target : Nat) : Bool :=
  s.copyReady core q target && s.copyTurn core q && s.copyBanksFree core q target

/-- A sector of a channel's counted against its engine's cycle. -/
def State.serve (s : State) (core q : Nat) : State :=
  { s with served := tabPut s.served (clusterOf core) (s.cycle, (4 * core + q) :: s.servedNow (clusterOf core)) }

/-- After a write of `n` bytes at the head of the stream: WP, the byte count and the place; the end of data (08 R231, R240). -/
def State.copyAdvance (s : State) (core q n written : Nat) : State :=
  let k := s.core core
  let ch := k.chan q
  match ch.cmd with
  | none => s
  | some c =>
    let r := shapeRec c.image
    let off := c.off + n
    let c1 := if off < c.runBytes r then { c with off := off } else { c with off := 0, iter := c.iter + 1 }
    let c2 := { c1 with bytes := (c.bytes + written) % 2 ^ 32, data := decide (c1.iter = r.iters) }
    let s1 := s.putCore core (k.putChan q { ch with cmd := some c2, wp := (ch.wp + written) % 2 ^ 64 })
    if !c2.data then s1
    else if c2.followOn.isSome then
      match s1.copyAlcove core q c2 with
      | some a => s1.putCore core ((s1.core core).putAlcove a { (s1.core core).alcove a with st := 4 })
      | none => s1
    else s1.endCopy core q (0, 0, 0)

/-- The locations of pieces, byte by byte. -/
def pieceLocs (ps : List (Nat × Nat)) : List Nat := ps.foldr (fun p acc => (List.range p.2).map (p.1 + ·) ++ acc) []

/-- The free choice for a source element of a command, by its number: the value that stands now, or the one before the command. -/
def Cmd.takesNew (c : Cmd) (j : Nat) : Bool := Config.freeBit (c.pick + 2 ^ 20 + j)

/-- The first source element of a unit, in its run. -/
def Cmd.unitElem (c : Cmd) (u : CUnit) : Nat :=
  let (sf, df) := c.fmtPair
  if !c.converts || (fPn sf && fPn df) then (if fPn sf then 8 * u.pos else u.pos / fSize sf)
  else if fPn df then 32 * (match u.scale with | some b => b | none => u.pos / 4)
  else if fPn sf then 32 * (u.pos / fSize df / 32) else u.pos / fSize df

/-- A source byte as the engine uses it: in the bits of `m` the one before the command, where it has written over it. -/
def Cmd.mixByte (c : Cmd) (loc : Nat) (m b : Byte) : Byte :=
  match tabFind c.old loc with
  | none => b
  | some o => (o.2 &&& m) ||| (b &&& ~~~m)

/-- Source bytes as the engine uses them where the command has written over some of them: each element is the one that stood before the
command, or, where an earlier write has replaced all of it, either (08 R232). `other`: the locations of the same plane bytes in a
plane-nested source's other planes. An element of such a source counts as replaced once runs before this one have replaced it in every
plane, its block's scale word included. -/
def Cmd.overlapped (c : Cmd) (r : ShapeRec) (iter : Nat) (u : CUnit) (other : List (List Nat)) (ls : List Nat) (bs : List Byte) : List Byte :=
  let sf := c.fmtPair.1
  let e0 := iter * r.e0 + c.unitElem u
  let at_ (i : Nat) : Nat := ls.getD i 0
  let written (l : Nat) : Bool := (tabFind c.old l).isSome
  let earlier (l : Nat) : Bool := match tabFind c.old l with | some x => decide (x.1 < iter) | none => false
  if !fPn sf then
    let z := max 1 (fSize sf)
    (List.range bs.length).map fun i =>
      let j := i / z
      let new := ((List.range z).all fun b => written (at_ (z * j + b))) && c.takesNew (e0 + j)
      c.mixByte (at_ i) (if new then 0 else 0xFF) (bs.getD i 0)
  else
    let wide := c.converts && !fPn c.fmtPair.2
    let np := if wide then fPlanes sf else 1
    let scaled := wide && fScaled sf
    let nb := if scaled then bs.length / (4 * np + 2) else bs.length / (4 * np)
    let w := 4 * nb
    let column (x : Nat) : Bool := ((List.range np).all fun p => earlier (at_ (p * w + x))) && other.all fun l => earlier (l.getD x 0)
    let word (b i : Nat) : Bool := !scaled || earlier (at_ (np * w + 2 * b + i))
    let block (b : Nat) : Bool := ((List.range 4).all fun i => column (4 * b + i)) && word b 0 && word b 1 && c.takesNew (e0 + 32 * b)
    (List.range bs.length).map fun i =>
      let m : Byte :=
        if np * w ≤ i then (if block ((i - np * w) / 2) then 0 else 0xFF)
        else
          let x := i % w
          if scaled then (if block (x / 4) then 0 else 0xFF)
          else if column x then BitVec.ofNat 8 ((List.range 8).foldl (fun n b => n + (if c.takesNew (e0 + 8 * x + b) then 0 else 2 ^ b)) 0) else 0xFF
      c.mixByte (at_ i) m (bs.getD i 0)

/-- The bytes that a write of the command's run replaces, kept where they differ. -/
def State.noteOld (s : State) (c : Cmd) (iter : Nat) (ps : List (Nat × Nat)) (bs : List Byte) : Cmd :=
  { c with old := ((pieceLocs ps).zip bs).foldl (fun o x =>
      let b := memByte s.mem x.1
      if b = x.2 ∨ (tabFind o x.1).isSome then o else tabPut o x.1 (iter, b)) c.old }

/-- Where the bytes of a plane word lie in a plane-nested source's other planes, as far as they translate. -/
def State.otherPlanes (s : State) (core : Nat) (c : Cmd) (t : Task) (src : Nat) (u : CUnit) : List (List Nat) :=
  let r := shapeRec c.image
  if c.old.isEmpty || !fPn c.fmtPair.1 || (c.converts && !fPn c.fmtPair.2) then []
  else (List.range (fPlanes c.fmtPair.1)).map fun (p : Nat) =>
    match s.copyRanges t (clusterOf core) 1 [(((src : Int) + p * r.sps).toNat + u.pos, u.n)] with
    | .ok ps => pieceLocs ps
    | .error _ => []

/-- The source bytes a unit needs, read under the command's clock: bytes, clock, state; or why not. A malformed address that an index gives
ends the command at its run (08 R239). -/
def State.copySource (s : State) (core : Nat) (c : Cmd) (t : Task) (iter : Nat) (u : CUnit) :
    Except CopyBad (List Byte × Nat × State) :=
  let r := shapeRec c.image
  if c.selects then .ok ((c.sel.drop (8 * c.kept * iter + u.pos)).take u.n, c.clk, s)
  else
    let i1 := (splitIter r.e iter).headD 0
    let src := c.srcStart r iter
    let runs := sideRuns src.toNat [] [] 1 (planesOf c.fmtPair.1) r.sps (if fPn c.fmtPair.1 then 4 * (r.e0 / 32) else r.e0 * fSize c.fmtPair.1)
    if c.indexed && s.badAt (c.index + 4 * i1) 4 then .error (.uncorrectable (c.index + 4 * i1))
    else if src < 0 ∨ 2 ^ 64 ≤ src then .error (.prot (BitVec.ofInt 64 src).toNat)
    else if c.indexed && !runs.all runOk then .error (.prot src.toNat)
    else
      let rs := c.unitSrc r iter src.toNat u
      match s.copyRanges t (clusterOf core) 1 rs with
      | .error e => .error e
      | .ok ps =>
        match rs.findSome? fun x => match s.copyRanges t (clusterOf core) 1 [x] with | .ok qs => s.badIn x.1 qs | .error _ => none with
        | some a => .error (.uncorrectable a)
        | none =>
          let (clk, bs, s1) := s.loadAll (clusterOf core) c.clk (ps.foldr (fun p acc => splitLines p.1 p.2 (p.2 / 64 + 2) ++ acc) [])
          let ls := pieceLocs ps
          .ok (if c.old.isEmpty then bs else c.overlapped r iter u (s.otherPlanes core c t src.toNat u) ls bs, clk, s1)

/-- A write of an engine for a task, which adds to its digest if the task is a redundant run (13 R408). -/
def State.addDigest (s : State) (tid a : Nat) (bs : List Byte) : State :=
  if (s.task tid).run = 0 then s else s.putTask tid ((s.task tid).digestAdd a bs)

/-- Bytes written at a destination unit: into the alcove, or at their home under the command's clock, with the digest of a
redundant run, which takes a scale word too (13 R408). -/
def State.copyPut (s : State) (core q : Nat) (c : Cmd) (scale : Bool) (a clk : Nat) (ps : List (Nat × Nat)) (bs : List Byte) : Nat × State :=
  match (if scale then none else s.copyAlcove core q c) with
  | some al =>
    let r := shapeRec c.image
    let k := s.core core
    (clk, s.putCore core (k.putAlcove al { k.alcove al with data := memPutBytes (k.alcove al).data (a - r.dbase) bs }))
  | none =>
    let (clk1, s1) := s.writeAll (clusterOf core) clk bs (ps.foldr (fun p acc => splitLines p.1 p.2 (p.2 / 64 + 2) ++ acc) [])
    let t := s1.chanOwner core q
    (clk1, s1.addDigest t a bs)

/-- COPY_SECTOR_WRITE: the next unit of a channel's command is read, converted and written, for one core of the mask in MULTICAST;
or the channel stops at it, or the command ends there. -/
def State.copySector (s : State) (core q target : Nat) : State :=
  match ((s.core core).chan q).cmd with
  | none => s
  | some c =>
    let r := shapeRec c.image
    let t := s.task (s.chanOwner core q)
    let place_ := c.placeFor r target
    let iter := place_ / c.runBytes r
    match unitAt (c.units r iter) (place_ % c.runBytes r) with
    | none => s.endCopy core q (3, 0, 0)
    | some u =>
      let a := if c.multicast then moveCore u.addr target else u.addr
      let buffered := if c.multicast then tabFind c.mbuf place_ else none
      let got : Except CopyBad (List Byte × Nat × State) := match buffered with
        | some bs => .ok (bs, c.clk, s)
        | none => s.copySource core c t iter u
      match got with
      | .error e =>
        if c.multicast && decide (c.lowest r < place_) then
          s.putCore core ((s.core core).putChan q { (s.core core).chan q with cmd := some { c with stopAt := some place_ } })
        else match e with
          | .prot x => s.endCopy core q (5, 9, x)
          | .miss cause x => s.copyFault core q cause x false
          | .uncorrectable x => (s.endCopy core q (6, 0, x)).taskError t.tid 0x08 1 (natLe 8 x)
          | .shape => s.endCopy core q (3, 0, 0)
      | .ok (bs, clk, s1) =>
        match c.unitData u bs with
        | none => s1.copyAdvance core q u.n 0
        | some out =>
          let dst : Except CopyBad (List (Nat × Nat)) := if (s1.copyAlcove core q c).isSome && u.scale.isNone then .ok []
                     else s1.copyPieces t (clusterOf core) 2 2 a u.n
          match dst with
          | .error (.prot x) => s1.endCopy core q (5, 9, x)
          | .error (.miss cause x) => s1.copyFault core q cause x true
          | .error (.uncorrectable x) => s1.endCopy core q (6, 0, x)
          | .error .shape => s1.endCopy core q (3, 0, 0)
          | .ok ps =>
            let held := ps.foldr (fun p acc => s1.hostHeld p.1 p.2 ++ acc) []
            if !held.isEmpty then s.backInv 0 held
            else
              let co := s1.noteOld c iter ps out
              let (clk2, s2) := s1.copyPut core q c u.scale.isSome a clk ps out
              let k := s2.core core
              let ch := k.chan q
              if c.multicast then
                let prog := tabPut c.prog target (place_ + u.n)
                let low := (c.targets.map fun x => tabGet prog 0 x).foldl min (place_ + u.n)
                let mbuf := (tabPut c.mbuf place_ bs).filter fun x => decide (low ≤ x.1)
                let c1 := { co with clk := clk2, prog := prog, mbuf := mbuf, stopAt := if c.stopAt = some place_ then none else c.stopAt }
                let s3 := s2.putCore core (k.putChan q { ch with cmd := some c1 })
                let s4 := if place_ + u.n = r.iters * c.runBytes r then s3.mcastArrive core q target else s3
                if low = c.position r then s4 else s4.copyAdvance core q (low - c.position r) (low - c.position r)
              else
                (s2.putCore core (k.putChan q { ch with cmd := some { co with clk := clk2 } })).copyAdvance core q u.n u.n

/-! ### COPY_FAULT_RESOLVED and COPY_COMPLETION (08 R226, R234, R235) -/

/-- A FAULTED channel whose fault has a disposition goes on or ends. -/
def State.copyResolve (s : State) (core q : Nat) : State :=
  let k := s.core core
  let ch := k.chan q
  match ch.cmd with
  | none => s
  | some c =>
    if c.verdict = 1 then s.putCore core (k.putChan q { ch with cmd := some { c with faulted := false, faddr := 0, verdict := 0 } })
    else if c.verdict = 3 then s.endCopy core q (5, 9, c.faddr)
    else s.endCopy core q (4, 8, c.faddr)

/-- A completion record's 16 bytes (08 R234). -/
def Cmd.recordBytes (c : Cmd) (x : Ending) : List Byte :=
  natLe 2 c.id ++ natLe 1 x.1 ++ natLe 1 x.2.1 ++ natLe 4 c.bytes ++ natLe 8 x.2.2

/-- Channel field by number (08 R225). -/
def Chan.field (c : Chan) (f : Nat) : Nat := tabGet c.fields 0 f
/-- The ring is full. -/
def Chan.ringFull (c : Chan) : Bool := c.field 1 != 0 && c.head - c.tail == 2 ^ c.field 2

/-- A command's record can be written. -/
def Chan.canComplete (c : Chan) : Bool :=
  match c.cmd with
  | some x => x.ends.isSome && x.shown && !c.ringFull
  | none => false

/-- A field written, with the effect on the ring indices (08 R225). -/
def Chan.setField (c : Chan) (f v : Nat) : Chan :=
  let c1 := { c with fields := tabSet c.fields 0 f v }
  if f = 1 ∨ f = 2 then { c1 with head := 0, tail := 0 } else c1

/-- The address of a channel's next record (08 R235). -/
def Chan.ringAddr (c : Chan) : Nat := c.field 1 + 16 * (c.head % 2 ^ c.field 2)

/-- A ring is set, and its next record would run past the end of the scratchpad: the address is malformed (00 R6). -/
def Chan.ringOver (c : Chan) : Bool :=
  c.field 1 != 0 && (match placeN c.ringAddr 16 with | some (.spad _ _) => false | _ => true)

/-- How a command ends once its record is due: a malformed record address ends one that was OK with PROTECTION (00 R5). -/
def Chan.finalEnd (c : Chan) (x : Ending) : Ending := if c.ringOver && x.1 == 0 then (5, 9, c.ringAddr) else x

/-- A command's record written for its task in the channel's ring, if it has one and the address is not malformed: the clock after it. The
task's clock of class CP takes in the command's (11 R341, R342). -/
def State.writeRecord (s : State) (cluster tid : Nat) (ch : Chan) (c : Cmd) (x : Ending) : State :=
  let bs := c.recordBytes x
  let (clk, s1) := if ch.field 1 = 0 ∨ ch.ringOver = true then (c.clk, s) else
    let (k, s2) := s.store cluster c.clk ch.ringAddr bs
    (k, s2.addDigest tid ch.ringAddr bs)
  s1.putTask tid ((s1.task tid).classClock 1 clk)

/-- COPY_COMPLETION: the record is written and the channel becomes IDLE. CSETs of the ring that waited follow (`State.ringsFollow`). -/
def State.copyComplete (s : State) (core q : Nat) : State :=
  let k := s.core core
  let ch := k.chan q
  match ch.cmd with
  | none => s
  | some c =>
    match c.ends with
    | none => s
    | some x0 =>
      let x := ch.finalEnd x0
      let s1 := s.writeRecord (clusterOf core) (s.chanOwner core q) ch c x
      s1.putCore core ((s1.core core).putChan q { ch with
        cmd := none, last := leNat ((c.recordBytes x).take 8), ended := ch.ended + 1
        head := if ch.field 1 = 0 ∨ ch.ringOver = true then ch.head else ch.head + 1 })

/-- The CSETs of ring and ringn that waited for a channel's record take effect (08 R225). -/
def Chan.ringFollow (c : Chan) : Chan :=
  if c.cmd.isSome || c.ringSet.isEmpty then c else { c.ringSet.foldl (fun c y => c.setField y.1 y.2) c with ringSet := [] }

/-- The same for every channel. -/
def State.ringsFollow (s : State) : State :=
  if s.cores.any fun k => k.2.chans.any fun c => c.2.cmd.isNone && !c.2.ringSet.isEmpty then
    { s with cores := s.cores.map fun (k : Nat × Core) => (k.1, { k.2 with chans := k.2.chans.map fun (c : Nat × Chan) => (c.1, c.2.ringFollow) }) }
  else s

/-- A channel's command abandoned at its task's kill (08 R246): its record if the ring has space; the channel returns to the core. -/
def State.abandonCopy (s : State) (core q : Nat) : State :=
  let s1 := match ((s.core core).chan q).cmd with
    | none => s
    | some c =>
      let s0 := if c.ends.isSome then s else s.endCopy core q (8, 1, 0)
      let tid := s0.chanOwner core q
      if ((s0.core core).chan q).ringFull then s0.putTask tid ((s0.task tid).classClock 1 c.clk) else s0.copyComplete core q
  s1.putCore core ((s1.core core).putChan q {})

/-- A CGO's command (08 R250, R225): a snapshot of the channel's fields. -/
def State.cgoCmd (s : State) (core q id handle pts : Nat) : Cmd :=
  let k := s.core core
  let ch := k.chan q
  { id := id, handle := handle, slack := ch.field 0 / 16 % 16, mode := ch.field 0 % 8, mcast := ch.field 3, select := ch.field 4, index := ch.field 5, follow := ch.field 6, dsth := ch.field 7, shape := ch.shape, fmts := k.bankfmt, ofmts := s.cores.map fun x => (x.1, x.2.bankfmt), core := core, clk := pts, since := s.cycle, mid := k.mid }

/-! ### Saved channels (08 R244, R245) -/

/-- Iteration indices of a command's place. -/
def Cmd.indices (c : Cmd) : List Nat := splitIter (shapeRec c.image).e c.iter

/-- The CRC-32 of a command's record and its indices, as they are saved: those of the record it has read, or those it was restored with. -/
def Cmd.savedPlace (c : Cmd) : Nat × List Nat :=
  if c.image.isEmpty then c.crc.getD (0, []) else (crc32 c.image, c.indices)

/-- The 128 bytes of a saved channel. How a COMPLETING channel's command ended has no place in them and stays with the task
(notes/assumptions/31). -/
def Chan.saved (ch : Chan) (cycle : Nat) : List Byte :=
  match ch.cmd with
  | none =>
    natLe 1 0 ++ natLe 1 (ch.field 0) ++ natLe 6 0 ++ natLe 8 ch.wp ++ natLe 8 ch.shape ++ List.replicate 40 0 ++ natLe 8 (ch.field 1) ++ natLe 1 (ch.field 2) ++ natLe 3 0 ++
    natLe 4 ch.head ++ natLe 4 ch.tail ++ natLe 4 0 ++ natLe 8 (ch.field 3) ++ natLe 8 (ch.field 4) ++ natLe 8 (ch.field 5) ++
    natLe 8 (ch.field 6) ++ natLe 8 (ch.field 7)
  | some c =>
    let st := if c.ends.isSome then 3 else if c.faulted then 2 else 1
    natLe 1 st ++ natLe 1 (c.slack * 16 + c.mode) ++ natLe 2 c.id ++ natLe 2 c.handle ++ natLe 1 c.sf ++ natLe 1 c.df ++
    natLe 8 ch.wp ++ natLe 8 c.shape ++
    natLe 4 (if st = 2 then c.off else 0) ++ (List.range 5).foldr (fun i acc => natLe 4 (c.savedPlace.2.getD i 0) ++ acc) [] ++
    natLe 4 c.bytes ++ natLe 4 c.savedPlace.1 ++
    natLe 8 (if st = 2 then c.faddr else 0) ++ natLe 8 (ch.field 1) ++ natLe 1 (ch.field 2) ++ natLe 3 0 ++ natLe 4 ch.head ++
    natLe 4 ch.tail ++ natLe 4 (min (c.age cycle) 0xFFFFFFFF) ++ natLe 8 c.mcast ++ natLe 8 c.select ++ natLe 8 c.index ++
    natLe 8 c.follow ++ natLe 8 (c.dsth % 32)

/-- A channel installed from its saved 128 bytes on a new core, with what stayed with its task, if anything did. A RUNNING or FAULTED
command reads its record again; its clock goes on from where it stood (11 R340). `pick`: the draw of a COMPLETING command's ending where
nothing stayed with its task. -/
def restoredChan (bs : List Byte) (kept : Option Kept) (core pts cycle mid pick : Nat) : Chan :=
  let f (i n : Nat) : Nat := fieldAt bs i n
  let st := f 0 1
  let fields : Tab Nat := [(0, f 1 1), (1, f 64 8), (2, f 72 1), (3, f 88 8), (4, f 96 8), (5, f 104 8), (6, f 112 8), (7, f 120 8)]
  let fields := (fields.filter fun x => x.2 != 0).filter fun x => x.1 != 6 || st == 0
  let base0 : Chan := { fields := fields, shape := f 16 8, wp := f 8 8, head := f 76 4, tail := f 80 4 }
  let base := match kept with
    | some x => { base0 with fields := x.fields, shape := x.shape, last := x.last, ended := x.ended, ringSet := x.ringSet }
    | none => base0
  if st = 0 then base
  else
    let is := (List.range 5).map fun i => f (28 + 4 * i) 4
    let c : Cmd :=
      { id := f 2 2, handle := f 4 2, slack := f 1 1 / 16, mode := f 1 1 % 8, mcast := f 88 8, select := f 96 8, index := f 104 8, follow := f 112 8, dsth := f 120 8, shape := f 16 8, core := core, sf := f 6 1, df := f 7 1, bytes := f 48 4, clk := max pts ((kept.map Kept.clk).getD 0), since := cycle, aged := f 84 4, mid := mid, crc := some (f 52 4, is) }
    let x := kept.getD {}
    let lost : Ending := (Config.freeNat pick % 9, Config.freeNat (pick + 1) % 256, Config.freeNat (pick + 2) % 2 ^ 64)
    let c1 := if st = 3 then { c with ends := some (x.ends.getD lost), shown := true }
              else { c with off := f 24 4, faulted := st == 2, faddr := f 56 8, fwrite := x.fwrite, old := x.old, pick := x.pick, sel := x.sel, selRead := x.selRead }
    { base with cmd := some c1 }

end Sys2Proof.Machine
end

