-- ==== Sys2Proof/Machine/PinTable.lean ====
section
/-! DEFINITION. The pin table and the removal of cached translations (11 R348, R352, R354-R356). -/

namespace Sys2Proof.Machine

/-- Two ranges share a byte. -/
def overlaps (a n b m : Nat) : Bool := decide (a < b + m ∧ b < a + n)

/-- Entries of a translation cache that lie clear of a range, or are named by `keep`. -/
def tlbWithout (t : Tab (Nat × Nat)) (lo len : Nat) : Tab (Nat × Nat) :=
  t.filter fun x => !overlaps x.1 (pageSize x.2.2) lo len

/-- A core of a partition. -/
def State.coreIn (s : State) (p core : Nat) : Bool := (s.part p).dies / 2 ^ dieOf core % 2 == 1

/-- A range's translations removed from every translation cache of a partition (11 R356). -/
def State.invalidate (s : State) (p lo len : Nat) : State :=
  { s with
    cores := s.cores.map fun (c : Nat × Core) => if s.coreIn p c.1 then (c.1, { c.2 with tlb := tlbWithout c.2.tlb lo len }) else c
    ctlb := s.ctlb.map fun c => if (s.part p).dies / 2 ^ (c.1 / 256) % 2 = 1 then (c.1, tlbWithout c.2 lo len) else c }

/-- The pages a range touches, each at its size, in order: base, entry, size and whether it is pinned; or the
address whose walk faults and what it came to. -/
def State.rangePages (s : State) (p stop : Nat) : Nat → Nat → Except (Nat × Nat) (List (Nat × Nat × Nat × Bool))
  | 0, _ => .ok []
  | f + 1, va =>
    if stop ≤ va then .ok []
    else
      let hit : Except Nat (Nat × Nat × Nat × Bool) := match s.pinOf p va with
        | some x => .ok (x.1, x.2.entry, x.2.k, true)
        | none => match s.walk p va with
          | .ok (e, k) => .ok (va - va % pageSize k, e, k, false)
          | .error c => .error c
      match hit with
      | .error c => .error (c, va)
      | .ok x => (s.rangePages p stop f (x.1 + pageSize x.2.2.1)).map fun r => x :: r

/-- XLPIN (11 R354): every page of the range pinned for a region, or none: the state and the status. -/
def State.pinRange (s : State) (r lo len : Nat) : State × Nat :=
  let p := r / 65536
  match s.rangePages p (lo + len) (len / 4096 + 2) lo with
  | .error (c, va) => (s.formatError c 3 p r 0 0 va, 1)
  | .ok ps =>
    let q := s.part p
    let fresh := (ps.filter fun x => !x.2.2.2).length
    let oflow := ps.any fun x => match tabFind q.pins x.1 with
      | some y => decide (65535 ≤ tabGet y.counts 0 r)
      | none => false
    if q.pins.length + fresh > 4096 ∨ oflow = true then (s, 2)
    else
      let pins := ps.foldl (fun t x =>
        let y := tabGet t { entry := x.2.1, k := x.2.2.1 } x.1
        tabPut t x.1 { y with counts := tabPut y.counts r (tabGet y.counts 0 r + 1) }) q.pins
      (s.putPart p { q with pins := pins }, 0)

/-- Pins whose counts are all gone are removed, and their deferred invalidations carried out (11 R355). -/
def State.sweepPins (s : State) (p : Nat) : State :=
  let q := s.part p
  let gone := q.pins.filter fun x => x.2.counts.isEmpty
  let s1 := s.putPart p { q with pins := q.pins.filter fun x => !x.2.counts.isEmpty }
  gone.foldl (fun s x => if x.2.deferred then s.invalidate p x.1 (pageSize x.2.k) else s) s1

/-- XLUNPIN (11 R355): one fewer pin of a region on every page of the range; status 1 where a page had none. -/
def State.unpinFrom (s : State) (r stop : Nat) : Nat → Nat → Nat → State × Nat
  | 0, _, st => (s, st)
  | f + 1, va, st =>
    if stop ≤ va then (s, st)
    else
      let p := r / 65536
      match s.pinOf p va with
      | some (b, x) =>
        let n := tabGet x.counts 0 r
        let next := b + pageSize x.k
        if n = 0 then s.unpinFrom r stop f next 1
        else
          let q := s.part p
          let c := if n = 1 then tabDel x.counts r else tabPut x.counts r (n - 1)
          (s.putPart p { q with pins := tabPut q.pins b { x with counts := c } }).unpinFrom r stop f next st
      | none =>
        let next := match s.walk p va with
          | .ok (_, k) => va - va % pageSize k + pageSize k
          | .error _ => va - va % 4096 + 4096
        s.unpinFrom r stop f next 1

/-- XLUNPIN on a range. -/
def State.unpinRange (s : State) (r lo len : Nat) : State × Nat :=
  let (s1, st) := s.unpinFrom r (lo + len) (len / 4096 + 2) lo 0
  (s1.sweepPins (r / 65536), st)

/-- Pins of a region released (11 R352). -/
def State.dropPins (s : State) (r : Nat) : State :=
  let q := s.part (r / 65536)
  (s.putPart (r / 65536) { q with pins := q.pins.map fun (x : Nat × Pin) => (x.1, { x.2 with counts := tabDel x.2.counts r }) }).sweepPins (r / 65536)

end Sys2Proof.Machine
end

