-- ==== Sys2Proof/Machine/Tasks.lean ====
section
/-! DEFINITION. The end, the kill, the save and the restore of a task (01 R35; 06 R202; 07 R209-R223; 08 R246; 09 R283, R285). -/

namespace Sys2Proof.Machine

/-! ### A region's usage and draws (09 R259, R262, R285) -/

/-- A task is resident on a core. -/
def Task.resident (t : Task) : Bool := t.status != .saved

/-- The resident tasks of a region. -/
def State.residents (s : State) (r : Nat) : List (Nat × Task) := s.tasks.filter fun x => x.2.rkey == r && x.2.resident

/-- A list without repeats. -/
def nodups : List Nat → List Nat
  | [] => []
  | a :: r => if (nodups r).contains a then nodups r else a :: nodups r

/-- Distinct cores that hold a resident task of a region or of a descendant (09 R262). -/
def State.coresOf (s : State) (r : Nat) : List Nat :=
  nodups ((s.tasks.filter fun x => x.2.resident && s.covers r x.2.rkey).map fun x => x.2.core)

/-- The usage word (09 R259). -/
def State.usage (s : State) (r : Nat) : Nat :=
  let mine := s.residents r
  let saved := (s.tasks.filter fun x => x.2.rkey == r && !x.2.resident).length
  (nodups (mine.map fun x => x.2.core)).length + 2 ^ 16 * mine.length + 2 ^ 32 * saved

/-- A field of a region's RCB written by the scheduler. -/
def State.putRcb (s : State) (r off n v : Nat) : State :=
  if (tabFind s.regions r).isSome then s.svcWrite 3 (s.region r).part r ((s.region r).rcb + off) (natLe n v) else s

/-- The usage word brought up to date. -/
def State.writeUsage (s : State) (r : Nat) : State := s.putRcb r 144 8 (s.usage r)

/-- When a region has no resident task left on a core, its buffered values move to the die's return list (09 R285). -/
def State.moveDraws (s : State) (core r : Nat) : State :=
  if s.tasks.any fun x => x.2.rkey == r && x.2.core == core && x.2.resident then s
  else
    let k := s.core core
    match tabFind k.draws r with
    | none => s
    | some d =>
      let g := s.region r
      let l := d.vals.foldr insertNat (tabGet g.returns [] (dieOf core))
      let s1 := s.putCore core { k with draws := tabDel k.draws r }
      if (tabFind s.regions r).isSome then s1.putRegion r { g with returns := tabPut g.returns (dieOf core) l } else s1

/-! ### Join counters (09 R283) -/

/-- A join-counter update under a clock; one that cannot be made is dropped and reported. -/
def State.joinUpdate (s : State) (part r core tid addr addend clk : Nat) : State :=
  if addr = 0 then s
  else
    let drop := s.error { part := part, cls := 0x1F, src := 3, core := core, tid := tid, region := r, tail := natLe 8 addr ++ natLe 8 addend }
    match s.engLoc part addr 8 3 with
    | none => drop.engFormat 3 part r core addr
    | some loc => if s.badAt loc 8 then drop
                  else (s.homeWrite clk loc (natLe 8 ((memNat s.mem loc 8 + addend) % 2 ^ 64))).2

/-- Addend of a child that ends. -/
def joinEnd : Nat := 0xFFFFFFFFFFFFFFFF
/-- Addend of a child killed or discarded. -/
def joinKill : Nat := 0xFFFFFFFF

/-- A task record that is discarded unplaced (09 R283). -/
def State.discardRec (s : State) (r : Nat) (x : Rec) : State :=
  s.joinUpdate x.part r 0 0 (fieldAt x.bytes 8 8) joinKill x.clk

/-! ### Leaving a core (01 R35; 05 R165, R169) -/

/-- An alcove returned. -/
def Core.freeAlcoves (k : Core) (as : List Nat) : Core := as.foldl (fun k a => { k with alcoves := tabDel k.alcoves a }) k

/-- What a task holds on its core returns to it: registers, niche, tiles, channels, alcoves, queue entries. An alcove whose OFILL is under
way is released when that ends (05 R158, R162, R165). -/
def State.leaveCore (s : State) (tid : Nat) : State :=
  let t := s.task tid
  let k := s.core t.core
  let mine := (k.alcoves.filter fun x => x.2.tid == tid).map Prod.fst
  let filling := mine.filter fun a => (k.alcove a).rows != 0
  let k1 := filling.foldl (fun k a => k.putAlcove a { k.alcove a with release := true, clk := t.pts }) (k.freeAlcoves (mine.filter fun a => !filling.contains a))
  let k2 := { k1 with
    tasks := k.tasks.filter fun x => x != tid, cur := if k.cur = tid then 0 else k.cur, last := if k.cur = tid ∨ k.last = tid then 0 else k.last,
    scq := k.scq.filter fun x => x.1 != tid, mq := k.mq.filter fun x => x.tid != tid,
    tiles := k.tiles.filter fun x => x.2.owner != tid,
    chans := k.chans.filter fun x => t.qmask / 2 ^ x.1 % 2 == 0 }
  s.putCore t.core k2

/-- The command clocks of a task, with its own (11 R342). -/
def Task.finalClock (t : Task) : Nat := t.clks.foldl (fun m x => max m x.2) t.pts

/-- One task of a sump firing fewer (10 R305). -/
def State.firingDone (s : State) (f : Option (Nat × Nat × Nat)) : State :=
  match f with
  | none => s
  | some (x, i, g) =>
    let u := s.sump x
    match tabFind u.slots i with
    | none => s
    | some (n, h) =>
      if h ≠ g then s
      else s.putSump x { u with slots := if n ≤ 1 then tabDel u.slots i else tabPut u.slots i (n - 1, h) }

/-- Ended runs of a redundant task. -/
def State.runsOf (s : State) (twin : Nat) : List RunEnd := s.runs.filter fun r => r.twin == twin

/-- A redundant task is over: the join update of its child once, its firing slot once (13 R409; 09 R283). -/
def State.settleRuns (s : State) (x : RunEnd) (kill : Bool) : State :=
  ({ s with runs := s.runs.filter fun r => r.twin != x.twin }.joinUpdate x.src.part x.region x.core 0 x.join
    (if kill then joinKill else joinEnd) x.clk).firingDone x.src.firing

/-- A run of a redundant task that no run is left of, and one of which an order has killed: the task is killed with it; no third run follows
(09 R264, R283, R294). -/
def State.settleCut (s : State) (twin : Nat) : State :=
  let l := s.runsOf twin
  match l.find? RunEnd.cut with
  | some x =>
    if s.tasks.any fun t => t.2.run != 0 && t.2.twin == twin then s
    else s.settleRuns { x with clk := l.foldl (fun m r => max m r.clk) x.clk } true
  | none => s

/-- A task ceases to exist: the join update, or the end of a redundant run; its place, its firing slot, its handler role. -/
def State.finishTask (s : State) (tid cause : Nat) (killed : Bool) : State :=
  let t := s.task tid
  let clk := t.finalClock
  let join := fieldAt t.srec 8 8
  let s1 :=
    if t.run = 0 then s.joinUpdate t.part t.rkey t.core tid join (if killed then joinKill else joinEnd) clk
    else
      { s with runs := s.runs ++ [{ twin := t.twin, run := t.run, digest := (t.digest + cause) % 2 ^ 256, killed := killed, cut := t.doomed, region := t.rkey, core := t.core, join := join, clk := clk, src := { bytes := t.srec, addr := t.raddr, clk := t.pts, part := t.part, firing := t.firing }, written := t.written }] }
  let s2 := if t.resident then s1.leaveCore tid else s1
  let s3 := if t.run = 0 then s2.firingDone t.firing else s2
  let s4 := { s3 with tasks := tabDel s3.tasks tid, rerr := tabDel s3.rerr tid }.settleCut t.twin
  let g := s4.region t.rkey
  let s5 := if (tabFind s4.regions t.rkey).isSome && g.handler == tid then s4.putRegion t.rkey { g with handler := 0 } else s4
  let s6 := { s5 with regions := s5.regions.map fun (x : Nat × Region) => (x.1, { x.2 with traps := x.2.traps.filter fun y => y != tid }) }
  (if t.resident then s6.moveDraws t.core t.rkey else s6).writeUsage t.rkey

/-! ### Saved channels of a task that is killed (08 R237, R246) -/

/-- The 128 saved bytes of a channel of a saved task. -/
def State.savedChan (s : State) (t : Task) (q : Nat) : List Byte := (s.engRead t.part (t.area + 0x500 + 128 * q) 128).getD []

/-- A saved command is abandoned: its multicast arrivals, and its record if the ring has space. -/
def State.abandonSaved (s : State) (t : Task) (q : Nat) : State :=
  let bs := s.savedChan t q
  let s := s.svcRead 3 t.part t.rkey (t.area + 0x500 + 128 * q) 128
  let ch := restoredChan bs (tabFind t.kept q) t.core t.pts s.cycle 0 s.free
  match ch.cmd with
  | none => s
  | some c =>
    let x : Ending := c.ends.getD (8, 1, 0)
    let s1 :=
      if c.multicast && c.mcast / 2 ^ 21 % 2 == 1 && c.ends.isNone then
        let s := s.svcRead 1 t.part t.rkey c.shape 160
        match (s.engRead t.part c.shape 160).map fun b => place (fieldAt b 8 8) with
        | some (some (.spad d _)) =>
          let b := c.mcast / 2 ^ 16 % 32
          if s.barGranted (clusterOf d) b t.rkey then
            c.targets.foldl (fun s _ => s.setBar (clusterOf d) b ((s.bar (clusterOf d) b).arrive c.clk true)) s
          else s
        | _ => s
      else s
    let s2 := { s1 with free := s1.free + 3 }
    if ch.ringFull then s2.putTask t.tid ((s2.task t.tid).classClock 1 c.clk)
    else s2.writeRecord 0xFFFFFF t.tid ch c (ch.finalEnd x)

/-! ### KILL (06 R202; 08 R246; 09 R281; 14 R437) -/

/-- The regions that keep a forced invalidation's tasks parked: until step 3 those with a pin on its range, then those with a pending
pin (11 R357). -/
def State.forcedBy (s : State) (p : Nat) (f : Forced) : List Nat :=
  ((s.part p).pins.filter fun x => overlaps x.1 (pageSize x.2.k) f.lo f.len && (x.2.pending || !f.done)).foldr
    (fun x acc => x.2.counts.map Prod.fst ++ acc) []

/-- Forced invalidations with no pending pin left are over; the tasks that none keeps parked go on (11 R357 step 4). -/
def State.forceRelease (s : State) (p : Nat) : State :=
  let q := s.part p
  let s1 := s.putPart p { q with forces := q.forces.filter fun f => !f.done || !(s.forcedBy p f).isEmpty }
  let busy := (s1.part p).forces.foldr (fun f acc => s1.forcedBy p f ++ acc) []
  (s1.tasks.filter fun x => x.2.part == p && x.2.barred && !busy.contains x.2.rkey).foldl (fun s x =>
    let t := s.task x.1
    s.putTask x.1 { t with barred := false, status := if t.status = .forced then t.after else t.status }) s1

/-- A task ends whose forced invalidation has not reached its step 3: it is given up (11 R357). -/
def State.forceGiveUp (s : State) (p tid : Nat) : State :=
  let q := s.part p
  if q.forces.any fun f => f.tid == tid && !f.done then
    (s.putPart p { q with forces := q.forces.filter fun f => f.tid != tid || f.done }).forceRelease p
  else s

/-- Every access still in a task's LS queue is performed: each belongs to a committed bundle, and nothing waits for the words that the
task itself waited for (07 R203). -/
def State.drainLs (s : State) (tid : Nat) : State :=
  let s1 := (s.task tid).lsq.foldl (fun s a => match a.kind with
    | .await => s
    | .store => (a.parts.foldl (fun s p => s.noteHeld p.1 p.2) s).lsPieces tid a a.parts
    | .atomic _ _ _ _ _ => (a.parts.foldl (fun s p => s.noteHeld p.1 p.2) s).lsPieces tid a a.parts
    | _ => s.lsPieces tid a a.parts) s
  s1.putTask tid { s1.task tid with lsq := (s1.task tid).lsq.filter fun a => !a.counts }

/-- The K-steps of a killed task that have started in the array end there; its other entries are discarded (06 R202). -/
def State.mergeStarted (s : State) (core tid : Nat) : State :=
  ((s.core core).mq.filter fun e => e.tid == tid && e.op.isMma && e.phase == 1).foldl (fun s e => s.kstepMerge core e) s

/-- The pages of a task's save area, pinned while it is there, unpinned once it has left (07 R219). -/
def State.unpinArea (s : State) (t : Task) : State := if t.areaPin then (s.unpinRange t.rkey t.area areaSize).1 else s

/-- A task killed, with its engine commands. `cause` is the end cause of a redundant run (13 R408). -/
def State.killTask (s : State) (tid cause : Nat) : State :=
  match tabFind s.tasks tid with
  | none => s
  | some t0 =>
    let s1 := (if t0.resident then s.drainLs tid else s).forceGiveUp t0.part tid
    let t := s1.task tid
    let qs := (List.range 4).filter fun q => t.qmask / 2 ^ q % 2 == 1
    let s1 := if t.resident then s1.mergeStarted t.core tid else s1
    let s2 := qs.foldl (fun s q => if t.resident then s.abandonCopy t.core q else s.abandonSaved t q) s1
    let s3 := { s2 with
      rops := s2.rops.filter fun o => o.tid != tid
      sendqs := s2.sendqs.map fun (q : Nat × SendQ) => (q.1, { q.2 with list := q.2.list.filter fun x => x.tid != tid }) }
    let s3 := { s3 with sendqs := s3.sendqs.filter fun q => !q.2.list.isEmpty }
    (s3.unpinArea t).finishTask tid cause true

/-! ### The save area (07 R219, R220) -/

/-- A save area is free: no saved task is in it. -/
def State.areaFree (s : State) (part a : Nat) : Bool := !s.tasks.any fun x => x.2.part == part && x.2.area == a && !x.2.resident

/-- A free save area of a region's pool. -/
def State.freeArea (s : State) (r : Nat) : Option Nat :=
  let g := s.region r
  ((List.range g.spcount).find? fun i => s.areaFree g.part (g.spbase + areaSize * i)).map fun i => g.spbase + areaSize * i

/-- Insertion of a result by issue order. -/
def insertIssued (f : Flight) : List Flight → List Flight
  | [] => [f]
  | g :: r => if f.ord < g.ord then f :: g :: r else g :: insertIssued f r

/-- Replay entries of a stopped task: its results in flight, in issue order (07 R209). -/
def Task.entries (t : Task) : List Flight := t.flights.foldr insertIssued []

/-- A destination's code in a replay entry. -/
def Dest.code : Dest → Nat
  | .s n => n
  | .v n => 1 * 2 ^ 13 + n
  | .p n => 2 * 2 ^ 13 + n
  | .ib n => 3 * 2 ^ 13 + n

/-- The destination of a code. -/
def destOf (c : Nat) : Dest :=
  match c / 2 ^ 13 with
  | 0 => .s (c % 2 ^ 13)
  | 1 => .v (c % 2 ^ 13)
  | 2 => .p (c % 2 ^ 13)
  | _ => .ib (c % 2 ^ 13)

/-- A list of bytes padded with zeros, or cut, to a length. -/
def padTo (n : Nat) (bs : List Byte) : List Byte := (bs ++ List.replicate n 0).take n

/-- VALLOT (01 R16). -/
def Task.vallot (t : Task) : Nat := t.cmask * 2 ^ 16 + t.qmask * 2 ^ 8 + t.vn

/-- A loop level's 64 bytes. -/
def LoopLevel.bytes (l : LoopLevel) : List Byte :=
  natLe 8 l.first ++ natLe 8 l.last ++ natLe 8 l.li ++ natLe 8 l.lc ++ natLe 1 l.s ++ natLe 1 (if l.rot then l.mask else 0) ++
  natLe 1 (b2n l.rot) ++ List.replicate 29 0

/-- Handles a task has bound, ascending, with their alcoves. -/
def Task.bound (t : Task) : List (Nat × Nat) := t.handles

/-- The header (07 R220). -/
def State.saveHeader (s : State) (t : Task) : List Byte :=
  let k := s.core t.core
  let rec8 := if t.trec.isEmpty then List.replicate 64 0 else t.trec.foldr (fun w acc => natLe 8 w.toNat ++ acc) []
  let bind := t.bound.foldr (fun x acc => natLe 1 x.1 ++ natLe 1 (k.alcove x.2).kind ++ natLe 1 (k.alcove x.2).st ++ natLe 5 0 ++ acc) []
  natLe 4 0x00010001 ++ natLe 4 t.tid ++ natLe 8 t.pc ++ natLe 2 t.region ++ natLe 1 t.idle ++
  natLe 1 (b2n t.late + 2 * b2n (!t.trec.isEmpty) + 4 * b2n (t.status == .remote || t.after == .remote)) ++
  natLe 1 t.loops.length ++ natLe 1 t.rotBase ++ natLe 1 t.rotSize ++ natLe 1 t.ib0 ++ natLe 1 t.ib1 ++ natLe 1 t.fpmode ++
  natLe 1 t.fpflags ++ natLe 1 t.flights.length ++ natLe 8 t.vallot ++ natLe 4 t.steps ++ natLe 8 t.pts ++
  natLe 2 (k.scq.filter fun x => x.1 == t.tid).length ++ natLe 1 t.nicheKiB ++ natLe 1 0 ++ natLe 4 (t.frozeAt % 2 ^ 32) ++
  rec8 ++ padTo 64 bind ++ List.replicate 72 0

/-- A save area's bytes (07 R219). -/
def State.saveBytes (s : State) (t : Task) : List Byte :=
  let k := s.core t.core
  let cat {α : Type} (l : List α) (f : α → List Byte) : List Byte := l.foldr (fun x acc => f x ++ acc) []
  s.saveHeader t ++
  padTo 0x180 (cat t.loops LoopLevel.bytes) ++
  cat (List.range 64) (fun n => natLe 8 (t.getS n).toNat) ++
  cat (List.range 16) (fun n => natLe 2 (t.getP n).toNat) ++
  natLe 8 t.sEmpty.toNat ++ natLe 8 t.sFail.toNat ++ natLe 16 t.vEmpty.toNat ++ natLe 16 t.vFail.toNat ++ List.replicate 0x30 0 ++
  cat (List.range 4) (fun q => if t.qmask / 2 ^ q % 2 = 1 then (k.chan q).saved s.cycle else List.replicate 128 0) ++
  padTo 0xC80 (cat (t.entries.zip (List.range 40)) fun x =>
    natLe 64 x.1.val.toNat ++ natLe 2 x.1.dst.code ++ natLe 1 (x.1.due + 1 - t.nb) ++ natLe 1 x.2 ++ List.replicate 12 0) ++
  List.replicate 0x80 0 ++
  padTo 0x400 (cat (k.scq.filter fun x => x.1 == t.tid) fun x => natLe 2 x.2) ++
  padTo 0x2000 (cat (List.range t.vn) fun n => natLe 64 (t.getV n).toNat) ++
  memBytes t.niche 0 0x2000 ++
  padTo 0x8000 (cat t.bound fun x => memBytes (k.alcove x.2).data 0 4096) ++
  cat (List.range 8) (fun c => if t.cmask / 2 ^ c % 2 = 1 then padTo 6208 (k.tile c).image else List.replicate 6208 0) ++
  List.replicate 0x600 0

/-! ### Freezing and saving (07 R214-R218) -/

/-- A task stops at its freeze point, its results in flight caught. `after` is what it is when it issues again. -/
def State.freezeTask (s : State) (tid : Nat) (late : Bool) : State :=
  let t := s.task tid
  let after := match t.status with
    | .suspended => .ready
    | x => x
  (s.putTask tid { t.catchFlights with status := .frozen, after := after, late := late, frozeAt := s.cycleOf t.core, hold := none, held := 0, walks := [] }).stopIssue tid

/-- Steps 2 to 5 of 07 R216 are done for a frozen task. -/
def State.drained (s : State) (tid : Nat) : Bool :=
  let t := s.task tid
  let k := s.core t.core
  !(k.alcoves.any fun x => x.2.tid == tid && decide (0 < x.2.rows)) && !t.storesPending && !(k.mq.any fun e => e.tid == tid) &&
  (List.range 4).all fun q => t.qmask / 2 ^ q % 2 == 0 || ((k.chan q).atBoundary && !(k.chan q).canComplete)

/-- Bits of a mask below a width. -/
def bitsOf (m n : Nat) : List Nat := (List.range n).filter fun i => m / 2 ^ i % 2 == 1

/-- TASK_SAVE: the save area is pinned and written and the task's resources return to the core (07 R216 steps 6 and 7, R219). What the area has no
place for stays with the task: pending producers, LS loads still to send, lane masks of results in flight (notes/assumptions/33). -/
def State.saveTask (s : State) (tid area : Nat) : State :=
  let t := s.task tid
  let pin := s.pinRange t.rkey area areaSize
  let s1 := pin.1.engWrite' t.part area (s.saveBytes t)
  let s2 := s1.leaveCore tid
  let kept : Tab Kept := (bitsOf t.qmask 4).map fun q =>
    let ch := (s.core t.core).chan q
    (q, { last := ch.last, ended := ch.ended, ringSet := ch.ringSet, fields := ch.fields, shape := ch.shape,
          clk := (ch.cmd.map Cmd.clk).getD 0, fwrite := (ch.cmd.map Cmd.fwrite).getD false, old := (ch.cmd.map Cmd.old).getD []
          pick := (ch.cmd.map Cmd.pick).getD 0, sel := (ch.cmd.map Cmd.sel).getD [], selRead := (ch.cmd.map Cmd.selRead).getD false
          ends := ch.cmd.bind Cmd.ends })
  let t1 := { t with status := .saved, kept := kept, area := area, areaPin := pin.2 == 0, waitFrom := s.cycle, since := s.cycle, preempt := none, sregs := [], vregs := [], preds := [], niche := [], prods := t.prods.map fun p => match p.wait with | .nextTile u a _ => { p with wait := .nextTile u a true } | _ => p }
  ((s2.putTask tid t1).moveDraws t.core t.rkey).writeUsage t.rkey

/-! ### Restore (07 R221-R223) -/

/-- The level of 64 saved bytes. -/
def levelOf (bs : List Byte) : LoopLevel :=
  { first := fieldAt bs 0 8, last := fieldAt bs 8 8, li := fieldAt bs 16 8, lc := fieldAt bs 24 8, s := fieldAt bs 32 1, mask := fieldAt bs 33 1, rot := fieldAt bs 34 1 == 1 }

/-- A table from the nonzero values of a function. -/
def tabOf {α : Type} [DecidableEq α] (n : Nat) (d : α) (f : Nat → α) : Tab α :=
  (List.range n).foldr (fun i acc => if f i = d then acc else (i, f i) :: acc) []

/-- The first `n` FREE alcoves of a core granted to a region. -/
def State.freeAlcoves (s : State) (core r n : Nat) : List Nat :=
  ((List.range 32).filter fun a => ((s.core core).alcove a).st == 0 && tabFind s.algr (core * 32 + a) == some r).take n

/-- A saved task as its save area gives it: registers, control state, entries. -/
def Task.ofArea (t : Task) (bs : List Byte) (core nb : Nat) : Task :=
  let f (i n : Nat) : Nat := fieldAt bs i n
  let masks := t.entries
  let fl := (List.range (f 27 1)).map fun i =>
    let o := 0x700 + 80 * i
    { dst := destOf (f (o + 64) 2), due := nb + f (o + 66) 1 - 1, ord := f (o + 67) 1, val := BitVec.ofNat 512 (f o 64), mask := ((masks[i]?).map Flight.mask).getD 0xFFFF, replay := true : Flight }
  let fl1 := fl.foldr insertFlight []
  { t with
    core := core, pc := f 8 8, idle := f 18 1, late := false,
    loops := (List.range (f 20 1)).map fun i => levelOf ((bs.drop (0x100 + 64 * i)).take 64),
    rotBase := f 21 1, rotSize := f 22 1, ib0 := f 23 1, ib1 := f 24 1, fpmode := f 25 1, fpflags := f 26 1,
    vn := f 28 1, qmask := f 29 1, cmask := f 30 1, steps := f 36 4,
    sregs := tabOf 64 0 fun n => BitVec.ofNat 64 (f (0x280 + 8 * n) 8),
    preds := tabOf 16 0 fun n => if n = 0 then 0 else BitVec.ofNat 16 (f (0x480 + 2 * n) 2),
    sEmpty := BitVec.ofNat 64 (f 0x4A0 8), sFail := BitVec.ofNat 64 (f 0x4A8 8),
    vEmpty := BitVec.ofNat 128 (f 0x4B0 16), vFail := BitVec.ofNat 128 (f 0x4C0 16),
    vregs := tabOf (f 28 1) 0 fun n => BitVec.ofNat 512 (f (0x1800 + 64 * n) 64),
    niche := tabOf 0x2000 0 fun n => ((bs.drop (0x3800 + n)).headD 0), nicheKiB := f 50 1,
    flights := fl1, nb := nb, seqno := f 27 1,
    trec := if f 19 1 / 2 % 2 = 1 then (List.range 8).map fun i => BitVec.ofNat 64 (f (56 + 8 * i) 8) else [] }

/-- A saved task installed on a core that qualifies; one whose area does not read back is killed (07 R223). -/
def State.installSaved (s : State) (tid core : Nat) : State :=
  let t := s.task tid
  let kill : State :=
    ((s.svcRead 3 t.part t.rkey t.area areaSize).error
      { part := t.part, cls := 0x1A, src := 3, core := core, tid := tid, region := t.rkey, tail := natLe 8 t.area }).killTask tid 0
  match s.engRead t.part t.area areaSize with
  | none => kill
  | some bs =>
    if fieldAt bs 0 4 ≠ 0x00010001 ∨ fieldAt bs 4 4 ≠ tid % 2 ^ 32 then kill
    else
      let t1 := t.ofArea bs core t.nb
      let hs := (List.range 8).filterMap fun i =>
        let o := 120 + 8 * i
        if fieldAt bs (o + 2) 1 = 0 then none else some (fieldAt bs o 1, fieldAt bs (o + 1) 1, fieldAt bs (o + 2) 1, i)
      let as := s.freeAlcoves core t.rkey hs.length
      let k := s.core core
      let k1 := (hs.zip as).foldl (fun k x =>
        k.putAlcove x.2 { st := x.1.2.2.1, kind := x.1.2.1, tid := tid, handle := x.1.1, data := tabOf 4096 0 fun n => (bs.drop (0x5800 + 4096 * x.1.2.2.2 + n)).headD 0 }) k
      let k2 := (List.range 8).foldl (fun k c =>
        if t1.cmask / 2 ^ c % 2 = 0 then k
        else
          let im := (bs.drop (0xD800 + 6208 * c)).take 6208
          let own : Tile := { owner := tid }
          k.putTile c (restoredTile own im)) k1
      let pts := max t.pts (fieldAt bs 40 8 + (s.cycle - t.waitFrom) / 256)
      let k3 := (List.range 4).foldl (fun k q =>
        if t1.qmask / 2 ^ q % 2 = 0 then k
        else
          k.putChan q (restoredChan ((bs.drop (0x500 + 128 * q)).take 128) (tabFind t.kept q) core pts s.cycle k.mid (s.free + 4 * q))) k2
      let n := fieldAt bs 48 2
      let k4 := { k3 with
        scq := k3.scq ++ (List.range n).map fun i => (tid, fieldAt bs (0x1400 + 2 * i) 2)
        tasks := k3.tasks ++ [tid] }
      let t2 := { t1 with
        status := t.after, pts := pts, area := 0, areaPin := false, placed := s.cycle, tickAt := s.cycle, waitFrom := s.cycle, redo := none, kept := [],
        handles := ((hs.zip as).map fun x => (x.1.1, x.2)).foldl (fun h x => tabPut h x.1 x.2) [] }
      let s1 := ({ s with free := s.free + 16 }.putCore core k4).putTask tid t2
      let s2 := match t.redo with
        | some pc => s1.trapReturn tid pc
        | none => s1
      -- a FAULTED channel has its fault serviced first (07 R222; 08 R245)
      let s3 := (List.range 4).foldl (fun s q =>
        let ch := (s.core core).chan q
        match ch.cmd with
        | some c =>
          if !c.faulted || t1.qmask / 2 ^ q % 2 == 0 then s
          else
            let put (s : State) (v : Nat) : State := s.putCore core ((s.core core).putChan q { ch with cmd := some { c with verdict := v } })
            let priv := s.privileged t2
            let need := if c.fwrite then 2 else 1
            match s.clusterXlat t.part (clusterOf core) c.faddr need priv with
            | .bad x => (put s 0).faultReq core t.part c.faddr (need + 8 * b2n priv) x (.chan core q tid ch.ended)
            | .ok _ => put s 1
        | none => s) s2
      (s3.unpinArea t).writeUsage t.rkey

/-! ### Arriving results (07 R212) -/

/-- A producer's values fill its registers, in the save area when the task is saved. -/
def State.fillTask (s : State) (tid : Nat) (p : Prod) (vals : List VReg) : State :=
  let t := s.task tid
  if t.resident then s.putTask tid (t.fill p vals)
  else
    let s1 := s.putTask tid { t with prods := t.prods.filter fun q => q.tok != p.tok }
    (p.dsts.zip vals).foldl (fun s x =>
      let bits (a n i : Nat) (s : State) : State := match s.engRead t.part (t.area + a) n with
        | some b => s.svcWrite 3 t.part t.rkey (t.area + a) (natLe n (leNat b - (if leNat b / 2 ^ i % 2 = 1 then 2 ^ i else 0)))
        | none => s.svcRead 3 t.part t.rkey (t.area + a) n
      match x.1 with
      | .s 0 => s
      | .s n => bits 0x4A0 8 n (s.svcWrite 3 t.part t.rkey (t.area + 0x280 + 8 * n) (natLe 8 x.2.toNat))
      | .v n => bits 0x4B0 16 n (s.svcWrite 3 t.part t.rkey (t.area + 0x1800 + 64 * n) (natLe 64 x.2.toNat))
      | _ => s) s1

/-- A producer's result arrives failed (05 R151; 14 R435). -/
def State.failTask (s : State) (tid : Nat) (p : Prod) : State :=
  let t := s.task tid
  if t.resident then s.putTask tid (t.fillFailed p)
  else
    let s1 := s.putTask tid { t with prods := t.prods.filter fun q => q.tok != p.tok }
    p.dsts.foldl (fun s x =>
      let bits (a n i : Nat) (s : State) : State := match s.engRead t.part (t.area + a) n with
        | some b => s.svcWrite 3 t.part t.rkey (t.area + a) (natLe n (if leNat b / 2 ^ i % 2 = 1 then leNat b else leNat b + 2 ^ i))
        | none => s.svcRead 3 t.part t.rkey (t.area + a) n
      match x with
      | .s 0 => s
      | .s n => bits 0x4A8 8 n s
      | .v n => bits 0x4C0 16 n s
      | _ => s) s1

end Sys2Proof.Machine
end

