-- ==== Sys2Proof/Machine/Pins.lean ====
section
/-! DEFINITION. Invalidation with and without force, and what waits for it (11 R348, R353, R356, R357). -/

namespace Sys2Proof.Machine

/-- A device address lies in a page of the global space, as a core of the partition translates it, that a range touches. -/
def State.touches (s : State) (p core lo len a : Nat) : Bool :=
  match globalOf a with
  | none => false
  | some va => match s.leaf p core va with
    | .ok x => overlaps (va - va % pageSize x.2) (pageSize x.2) lo len
    | .error _ => overlaps (va - va % 4096) 4096 lo len

/-- An access of the partition that has been translated in the range and is not yet performed: in an LS queue or a matrix queue. Only
then is a removal complete (11 R356); a JOIN or WATCH that waits is translated when it reads its word. -/
def State.translatedIn (s : State) (p lo len : Nat) : Bool :=
  (s.tasks.any fun x => x.2.part == p && x.2.lsq.any fun a => a.vas.any fun v => s.touches p x.2.core lo len v) ||
  s.cores.any fun k => s.coreIn p k.1 && k.2.mq.any fun e =>
    let image (a : Nat) : Bool := [a, a + 2111, a + 4096, a + 6207].any fun v => s.touches p k.1 lo len v
    match e.op with
    | .mlda _ a _ => image a
    | .msta _ a _ => image a
    | _ => false

/-- Pinned pages of a partition that a range touches. -/
def State.pinsIn (s : State) (p lo len : Nat) : List (Nat × Pin) :=
  (s.part p).pins.filter fun x => overlaps x.1 (pageSize x.2.k) lo len && !x.2.pending

/-- XLINV without force (11 R356): the unpinned pages are removed, each pinned page is marked. -/
def State.invRange (s : State) (p lo len : Nat) : State × Nat :=
  let hit := s.pinsIn p lo len
  let s1 := s.invalidate p lo len
  let q := s1.part p
  let pins := hit.foldl (fun t x => tabPut t x.1 { tabGet t x.2 x.1 with deferred := true }) q.pins
  (s1.putPart p { q with pins := pins }, if hit.isEmpty then 0 else 1)

/-- A pinned page of the range lies in a handler range of some region's action table (11 R357). -/
def State.handlerPages (s : State) (p lo len : Nat) : Bool :=
  (s.pinsIn p lo len).any fun x => s.regions.any fun g =>
    g.2.part == p &&
    (overlaps x.1 (pageSize x.2.k) (fieldAt g.2.act 32 8) (fieldAt g.2.act 40 4) ||
     overlaps x.1 (pageSize x.2.k) (fieldAt g.2.act 48 8) (fieldAt g.2.act 56 4))

/-- Tasks that a forced invalidation parks: those of regions with a pin in the range, but for the issuing task. -/
def State.forcedTasks (s : State) (p lo len tid : Nat) : List Nat :=
  let rs := (s.pinsIn p lo len).foldr (fun x acc => x.2.counts.map Prod.fst ++ acc) []
  (s.tasks.filter fun x => x.2.part == p && rs.contains x.2.rkey && x.1 != tid).map Prod.fst

/-- Step 1 of 11 R357: the invalidation is under way, and its tasks are parked where they stand. -/
def State.forcePark (s : State) (p lo len tid : Nat) : State :=
  let q := s.part p
  let s1 := if q.forces.any fun f => f.tid == tid && !f.done then s
            else s.putPart p { q with forces := q.forces ++ [{ tid := tid, lo := lo, len := len }] }
  (s1.forcedTasks p lo len tid).foldl (fun s t =>
    let x := s.task t
    if x.barred then s
    else if x.resident then
      let after := match x.status with
        | .suspended => .ready
        | y => y
      (s.putTask t { x.catchFlights with status := .forced, after := after, barred := true, hold := none, held := 0 }).stopIssue t
    else s.putTask t { x with barred := true }) s1

/-- A task that step 1 parks, placed since, still issues. -/
def State.forceMore (s : State) (p lo len tid : Nat) : Bool := !(s.forcedTasks p lo len tid).all fun t => (s.task t).barred

/-- Steps 1 and 2 are done: every such task is parked, its channels and the issuer's stand at a boundary, and what has been translated in
the range is performed. -/
def State.forceReady (s : State) (p lo len tid : Nat) : Bool :=
  !s.forceMore p lo len tid && !s.translatedIn p lo len &&
  (tid :: s.forcedTasks p lo len tid).all fun t =>
    let x := s.task t
    !x.resident || (List.range 4).all fun q => x.qmask / 2 ^ q % 2 == 0 || ((s.core x.core).chan q).atBoundary

/-- Steps 3 and 4: the pins become pending, the cached translations are removed, and a fault slot is asked for on each page. -/
def State.forceInv (s : State) (p lo len core tid : Nat) : State :=
  let hit := s.pinsIn p lo len
  let s1 := s.invalidate p lo len
  let q := s1.part p
  let s2 := s1.putPart p { q with
    pins := hit.foldl (fun t x => tabPut t x.1 { tabGet t x.2 x.1 with pending := true }) q.pins
    forces := q.forces.map fun f => if f.tid = tid ∧ f.done = false then { f with done := true } else f }
  (hit.foldl (fun s x => s.faultReq core p x.1 0 3 (.page x.1)) s2).forceRelease p

/-- No other task's XLPIN, XLUNPIN or XLINV of the partition is under way (11 R353). -/
def State.xlatFree (s : State) (p tid : Nat) : Bool := (s.part p).forces.all fun f => f.done || f.tid == tid

/-- A forced page is disposed of: RETRY walks it, a valid translation becomes its pin; a denial drops the pending pins. -/
def State.forcedPage (s : State) (p core va verdict : Nat) : State :=
  let q := s.part p
  match tabFind q.pins va with
  | none => s
  | some x =>
    if verdict = 1 then
      match s.walk p va with
      | .ok (e, k) => (s.putPart p { q with pins := tabPut q.pins va { x with entry := e, k := k, pending := false } }).forceRelease p
      | .error c => (s.faultReq core p va 0 c (.page va)).formatError c 3 p 0 core 0 va
    else (s.putPart p { q with pins := tabDel q.pins va }).forceRelease p

end Sys2Proof.Machine
end

