-- ==== Sys2Proof/Machine/Regions.lean ====
section
/-! DEFINITION. Regions: the region control block and its checks (09 R259-R263, R278, R279), requests of the die scheduler
(R294-R296), launch lists (R265-R268), fault domains (R264). -/

namespace Sys2Proof.Machine

/-! ### Status codes (09 R296) -/

def stDone : Nat := 0x00
def stNoRegion : Nat := 0x01
def stNotSubtree : Nat := 0x02
def stBudget : Nat := 0x03
def stInvalid : Nat := 0x04
def stChildren : Nat := 0x05
def stUnpinned : Nat := 0x06
def stIdInUse : Nat := 0x07

/-! ### The RCB (09 R259, R260) -/

/-- Reserved bytes of an RCB are zero, and the fields outside every own group are valid. -/
def rcbFixed (b : List Byte) : Bool :=
  fieldAt b 22 2 == 0 && fieldAt b 57 3 == 0 && fieldAt b 68 4 == 0 && fieldAt b 116 4 == 0 && fieldAt b 132 4 == 0 &&
  fieldAt b 152 104 == 0 && fieldAt b 8 2 != 0 && decide (fieldAt b 12 4 < 2 ^ 11) && fieldAt b 48 8 % 64 == 0 && decide (fieldAt b 56 1 ≤ 12)

/-- A group of the own mask is given in the RCB. -/
def ownBit (own g : Nat) : Bool := own / 2 ^ g % 2 == 1

/-- The bytes of the groups given are valid. -/
def rcbGroups (b : List Byte) (own : Nat) (which : List Nat) : Bool :=
  let on (g : Nat) : Bool := which.contains g && ownBit own g
  (!on 0 || decide (fieldAt b 10 1 < 8)) && (!on 1 || decide (fieldAt b 11 1 < 32)) && (!on 4 || decide (fieldAt b 20 1 < 16)) &&
  (!on 5 || fieldAt b 24 8 % 64 == 0) && (!on 6 || (fieldAt b 36 4 % 32 == 0 && decide (fieldAt b 42 1 ≤ 32))) &&
  (!on 7 || fieldAt b 43 1 != 0) &&
  (!on 8 || (decide (fieldAt b 72 1 ≤ 2) && fieldAt b 73 7 == 0 && fieldAt b 80 8 % 8 == 0 &&
    (fieldAt b 72 1 != 1 || fieldAt b 96 8 == 0) && (fieldAt b 72 1 == 0 || decide (fieldAt b 80 8 < 2 ^ 48)))) &&
  (!on 9 || fieldAt b 104 8 % 64 == 0) &&
  (!on 10 || (fieldAt b 120 8 % 4096 == 0 && (fieldAt b 128 4 == 0 || fieldAt b 120 8 != 0)))

/-- The default action table (09 R278). -/
def defaultActions : List Byte :=
  (List.range 64).map fun c => if c = 0x08 ∨ c = 0x12 ∨ c = 0x14 then 1 else 0

/-- A region's values with the groups of `which` taken from an RCB's bytes where the own mask gives them, from the parent elsewhere. -/
def Region.take (g p : Region) (b : List Byte) (own : Nat) (which : List Nat) : Region :=
  let from_ (i : Nat) (f : Region → Region) (h : Region → Region) (x : Region) : Region :=
    if which.contains i then (if ownBit own i then f x else h x) else x
  let g := from_ 0 (fun x => { x with prio := fieldAt b 10 1 }) (fun x => { x with prio := p.prio }) g
  let g := from_ 1 (fun x => { x with flags := fieldAt b 11 1 % 32 }) (fun x => { x with flags := p.flags }) g
  let g := from_ 2 (fun x => { x with domain := fieldAt b 16 2 }) (fun x => { x with domain := p.domain }) g
  let mk := fieldAt b 18 2
  let g := from_ 3 (fun x => { x with maxk := if mk = 0 then 4096 else mk }) (fun x => { x with maxk := p.maxk }) g
  let g := from_ 4 (fun x => { x with dies := fieldAt b 20 1 }) (fun x => { x with dies := p.dies }) g
  let g := from_ 6 (fun x => { x with bcores := fieldAt b 32 2, balc := fieldAt b 34 2, bspad := fieldAt b 36 4, bsump := fieldAt b 40 2, bbar := fieldAt b 42 1, btree := fieldAt b 44 4 })
    (fun x => { x with bcores := p.bcores, balc := p.balc, bspad := p.bspad, bsump := p.bsump, bbar := p.bbar, btree := p.btree }) g
  let g := from_ 7 (fun x => { x with share := fieldAt b 43 1 }) (fun x => { x with share := p.share }) g
  let g := from_ 8 (fun x => { x with tsrc := (b.drop 72).take 32 }) (fun x => { x with tsrc := p.tsrc }) g
  let g := from_ 9 (fun x => { x with ovbase := fieldAt b 104 8, ovcap := fieldAt b 112 4 }) (fun x => { x with ovbase := p.ovbase, ovcap := p.ovcap }) g
  from_ 10 (fun x => { x with spbase := fieldAt b 120 8, spcount := fieldAt b 128 4 }) (fun x => { x with spbase := p.spbase, spcount := p.spcount }) g

/-- The action of a byte of a table. -/
def Region.action (g : Region) (cause : Nat) : Nat := ((g.act[cause]?).map BitVec.toNat).getD 0
/-- Region flags (09 R259). -/
def Region.redun (g : Region) : Bool := g.flags % 2 == 1
def Region.pinned (g : Region) : Bool := g.flags / 2 % 2 == 1
def Region.priv (g : Region) : Bool := g.flags / 4 % 2 == 1
def Region.needs (g : Region) : Nat := g.flags / 8 % 4

/-- Every page of a range has a pinned translation with permissions `need` (09 R279). -/
def State.pagesPinned (s : State) (p need base len : Nat) : Bool :=
  (List.range ((base + len - 1) / 4096 + 1 - base / 4096)).all fun i =>
    match s.pinOf p ((base / 4096 + i) * 4096) with
    | some x => permitted x.2.entry need true
    | none => false

/-- The effective action table read and checked (09 R279): its copy, or a status. -/
def State.readActions (s : State) (g : Region) (addr : Nat) : Except Nat (List Byte) :=
  if addr = 0 then .ok defaultActions
  else
    match s.engRead g.part addr 64 with
    | none => .error stInvalid
    | some b =>
      let causes := (List.range 21).map (· + 1)
      let bad := causes.any fun c => decide (3 < fieldAt b c 1) || (fieldAt b c 1 == 1 && !(c == 0x08 || c == 0x12 || c == 0x14))
      if bad || fieldAt b 0 1 != 0 || fieldAt b 22 10 != 0 || fieldAt b 44 4 != 0 || fieldAt b 60 4 != 0 then .error stInvalid
      else if (causes.any fun c => fieldAt b c 1 == 3) then
        let (cb, cl, db, dl) := (fieldAt b 32 8, fieldAt b 40 4, fieldAt b 48 8, fieldAt b 56 4)
        if !g.pinned || cl == 0 || dl == 0 || !s.pagesPinned g.part 4 cb cl || !s.pagesPinned g.part 3 db dl then .error stUnpinned
        else .ok b
      else .ok b

/-! ### Grants (09 R263; 10 R298) -/

/-- COREIDs of the dies of a mask, ascending, of clusters in service. -/
def State.coresOn (s : State) (dies : Nat) : List Nat :=
  (List.range 4).foldr (fun d acc =>
    if dies / 2 ^ d % 2 = 0 then acc
    else (List.range 384).foldr (fun i acc =>
      let c := d * 4096 + i / 16 * 16 + i % 16
      if s.clusterOut (clusterOf c) then acc else c :: acc) acc) []

/-- Banks a holder has not given away: `none` stands for the partition. -/
def State.heldBanks (s : State) (holder : Option Nat) (dies n : Nat) : List Nat :=
  ((s.coresOn dies).foldr (fun c acc =>
    (List.range 16).foldr (fun b acc => if tabFind s.banks (c * 16 + b) = holder then (c * 16 + b) :: acc else acc) acc) []).take n

/-- What CREATE takes for a region: banks, alcoves, barriers and sumps, or none where the holder cannot supply them. -/
def State.pickGrants (s : State) (holder : Option Nat) (g : Region) : Option (List Nat × List Nat × List Nat × List Nat) :=
  let banks := s.heldBanks holder g.dies (g.bspad / 32)
  let cores := nodups' (banks.map (· / 16))
  let alcs := (cores.foldr (fun c acc => (List.range 32).foldr (fun a acc =>
    if tabFind s.algr (c * 32 + a) = holder ∧ ((s.core c).alcove a).st = 0 then (c * 32 + a) :: acc else acc) acc) []).take g.balc
  let clusters := nodups' (cores.map clusterOf)
  let bars := clusters.map fun cl =>
    ((List.range 32).filter fun b => tabFind s.bargr (cl * 32 + b) == holder).take g.bbar |>.map (cl * 32 + ·)
  let sumps := ((List.range 2048).filter fun x => g.dies / 2 ^ (x / 512) % 2 == 1 && tabFind s.sumpgr x == holder).take g.bsump
  if banks.length < g.bspad / 32 ∨ alcs.length < g.balc ∨ (bars.any fun b => b.length < g.bbar) ∨ sumps.length < g.bsump then none
  else some (banks, alcs, bars.foldr (· ++ ·) [], sumps)
where
  /-- Without repeats, first occurrences kept. -/
  nodups' (l : List Nat) : List Nat := l.foldl (fun acc a => if acc.contains a then acc else acc ++ [a]) []

/-- The grants made, cleared under 01 R35 and 08 R255. -/
def State.grant (s : State) (r : Nat) (x : List Nat × List Nat × List Nat × List Nat) : State :=
  let (banks, alcs, bars, sumps) := x
  let s1 := banks.foldl (fun s b =>
    let k := s.core (b / 16)
    { s with mem := tabClear s.mem (spadAddr (b / 16) (b % 16 * 32768)) 32768, banks := tabPut s.banks b r }.putCore (b / 16)
      { k with bankfmt := tabDel k.bankfmt (b % 16) }) s
  let s2 := alcs.foldl (fun s a =>
    let k := s.core (a / 32)
    { s with algr := tabPut s.algr a r }.putCore (a / 32) (k.freeAlcoves [a % 32])) s1
  let s3 := bars.foldl (fun s b => { s with bargr := tabPut s.bargr b r, bars := tabPut s.bars b {} }) s2
  sumps.foldl (fun s y => { s with sumpgr := tabPut s.sumpgr y r, sumps := tabPut s.sumps y { part := (s.region r).part } }) s3

/-- Grants returned to the parent, or to the partition (09 R263; 10 R298). -/
def State.ungrant (s : State) (r : Nat) : State :=
  let up := (s.region r).parent
  let back (t : Tab Nat) : Tab Nat := if up = 0 then t.filter fun x => x.2 != r else t.map fun x => if x.2 == r then (x.1, up) else x
  { s with
    banks := back s.banks, algr := back s.algr, bargr := back s.bargr, sumpgr := back s.sumpgr
    sumps := s.sumps.filter fun x => tabFind s.sumpgr x.1 != some r
    trees := s.trees.map fun x => if x.2.region == r then (x.1, { x.2 with region := up }) else x }

/-! ### CREATE and RELOAD -/

/-- A region's RCB read. -/
def State.readRcb (s : State) (p addr : Nat) : Option (List Byte) :=
  if addr % 256 ≠ 0 ∨ 2 ^ 48 ≤ addr then none else s.engRead p addr 256

/-- Dies of a region: nonzero, and of its partition only (09 R259). -/
def diesOk (dies of_ : Nat) : Bool := dies != 0 && (List.range 4).all fun d => dies / 2 ^ d % 2 == 0 || of_ / 2 ^ d % 2 == 1

/-- CREATE (09 R294 fn 0), by a privileged task of a region or (`none`) for a root: the state and the status. -/
def State.createRegion (s : State) (p : Nat) (issuer : Option Nat) (addr : Nat) : State × Nat :=
  match s.readRcb p addr with
  | none => (s.structFormat 3 p (issuer.getD 0) addr 256, stInvalid)
  | some b =>
    let parentAddr := fieldAt b 0 8
    let parent := (s.regions.find? fun x => x.2.part == p && x.2.rcb == parentAddr && x.2.state != 2).map Prod.fst
    let who : Except Nat (Option Nat) := match issuer with
      | none => if parentAddr = 0 then .ok none else .error stInvalid
      | some i => match parent with
        | some q => if parentAddr != 0 && s.covers i q then .ok (some q) else .error stNotSubtree
        | none => .error stNotSubtree
    match who with
    | .error e => (s, e)
    | .ok up =>
      let own := fieldAt b 12 4
      let all := List.range 11
      if !rcbFixed b || !rcbGroups b own all || (up.isNone && own != 2 ^ 11 - 1) then (s, stInvalid)
      else
        let pg := match up with | some q => s.region q | none => {}
        let key := p * 65536 + fieldAt b 8 2
        let g0 : Region := { id := fieldAt b 8 2, part := p, rcb := addr, parent := up.getD 0, own := own, lbase := fieldAt b 48 8, ln := fieldAt b 56 1, ltail := fieldAt b 64 4, ltarget := fieldAt b 64 4 }
        let g1 := g0.take pg b own all
        let g2 := { g1 with actAddr := if ownBit own 5 then fieldAt b 24 8 else pg.actAddr, actOwner := if ownBit own 5 then key else pg.actOwner }
        if !diesOk g2.dies (s.part p).dies then (s, stInvalid)
        else
          match s.readActions g2 g2.actAddr with
          | .error e => (s.structFormat 3 p (issuer.getD 0) g2.actAddr 64, e)
          | .ok act =>
            if (tabFind s.regions key).isSome then (s, stIdInUse)
            else match s.pickGrants up g2 with
              | none => (s, stBudget)
              | some gr =>
                let s1 := (s.putRegion key { g2 with act := act }).grant key gr
                ((s1.putRcb key 21 1 0).writeUsage key, stDone)

/-- RELOAD (09 R294 fn 7), with the checks of CREATE: the dies too, which it does not take (09 R259). -/
def State.reloadRegion (s : State) (r : Nat) : State × Nat :=
  let g := s.region r
  match s.readRcb g.part g.rcb with
  | none => (s.structFormat 3 g.part r g.rcb 256, stInvalid)
  | some b =>
    let which := [0, 1, 3, 5, 6, 7, 8, 9, 10]
    let pg := if g.parent = 0 then {} else s.region g.parent
    if !rcbFixed b || !rcbGroups b g.own (4 :: which) || (ownBit g.own 4 && !diesOk (fieldAt b 20 1) (s.part g.part).dies) then (s, stInvalid)
    else
      let g1 := g.take pg b g.own which
      let g2 := { g1 with flags := g1.flags - g1.flags / 4 % 2 * 4 + g.flags / 4 % 2 * 4, actAddr := if ownBit g.own 5 then fieldAt b 24 8 else pg.actAddr, actOwner := if ownBit g.own 5 then r else pg.actOwner }
      match s.readActions g2 g2.actAddr with
      | .error e => (s.structFormat 3 g.part r g2.actAddr 64, e)
      | .ok act => (s.putRegion r { g2 with act := act }, stDone)

/-! ### Launch lists (09 R265-R268) -/

/-- A task record's reserved bits, shape and engines are valid, its join field well formed, and its handler bit and tiles allowed
in its region (09 R265, R268). -/
def State.recordOk (s : State) (r : Nat) (b : List Byte) (forked : Bool) : Bool :=
  let g := s.region r
  let shape := fieldAt b 18 1
  let pr := fieldAt b 19 1
  let en := fieldAt b 20 1
  let join := fieldAt b 8 8
  decide (shape % 16 ≤ 8) && shape / 64 == 0 && pr / 16 == 0 && decide (en % 16 ≤ 8) && decide (en / 16 ≤ 4) && fieldAt b 21 3 == 0 &&
  (if pr / 8 % 2 = 1 then !forked && g.handler == 0 && g.pinned else true) &&
  (en % 16 == 0 || g.needs != 0) &&
  (join == 0 || (join % 8 == 0 && (placeN join 8).isSome))

/-- The clock of the doorbell that told of a list's head record: the first that read beyond it (11 R342). -/
def Region.ringClock (g : Region) : Nat :=
  ((g.lclks.find? fun x => decide (0 < (x.1 + 2 ^ 32 - g.ltail) % 2 ^ 32 ∧ (x.1 + 2 ^ 32 - g.ltail) % 2 ^ 32 ≤ 2 ^ g.ln)).map Prod.snd).getD 0

/-- A list advanced by one record; doorbells whose records are all consumed are forgotten. -/
def Region.advance (g : Region) : Region :=
  let t := (g.ltail + 1) % 2 ^ 32
  { g with ltail := t, lhold := none, lclks := g.lclks.filter fun x => x.1 != t }

/-- The head of a launch list: records are validated in order, and rejected or held (09 R268). -/
def State.launchHead (s : State) (r : Nat) : Nat → State
  | 0 => s
  | n + 1 =>
    let g := s.region r
    if g.lhold.isSome ∨ g.ltail = g.ltarget then s
    else
      let a := g.lbase + 64 * (g.ltail % 2 ^ g.ln)
      let reject (s : State) : State :=
        let s1 := (s.putRegion r g.advance).putRcb r 64 4 g.advance.ltail
        (s1.error { part := g.part, cls := 0x0A, src := 3, region := r, tail := natLe 8 a ++ natLe 8 (g.ltail % 2 ^ g.ln) }).launchHead r n
      match s.engPieces g.part 1 2 a 64 with
      | none => reject (s.engFormat 3 g.part r 0 a)
      | some ps =>
        if ps.any fun x => s.badAt x.1 x.2 then
          reject (s.error { part := g.part, cls := 0x08, src := 2, region := r, tail := natLe 8 a })
        else
          match s.engRead g.part a 64 with
          | none => reject s
          | some b =>
            if fieldAt b 16 2 = g.id ∧ s.recordOk r b false = true then
              s.putRegion r { g with lhold := some { bytes := b, addr := a, clk := g.ringClock, part := g.part, since := s.cycle } }
            else reject s

/-- The doorbell of a region's list (09 R266), with the ringer's clock (11 R342). -/
def State.doorbell (s : State) (r clk : Nat) : State :=
  let g := s.region r
  match s.engRead g.part (g.rcb + 60) 4 with
  | none => s.svcRead 3 g.part r (g.rcb + 60) 4
  | some b => (s.putRegion r { g with ltarget := leNat b, lclks := g.lclks ++ [(leNat b, clk)] }).launchHead r (2 ^ g.ln + 1)

/-- The head record has been placed: ltail advances (09 R268). -/
def State.launchTaken (s : State) (r : Nat) : State :=
  let g := s.region r
  ((s.putRegion r g.advance).putRcb r 64 4 g.advance.ltail).launchHead r (2 ^ g.ln + 1)

/-! ### Requests on a region's tasks (09 R294, R295; 07 R214-R216) -/

/-- A pre-emption request with its deadline (07 R215). -/
def State.requestPreempt (s : State) (tid : Nat) : State :=
  let t := s.task tid
  if t.preempt.isSome ∨ t.status = .saved then s
  else s.putTask tid { t with preempt := some (s.cycle + 32 * ((s.region t.rkey).maxk + 32) + 4096) }

/-- A frozen task that found no area stays where it is (07 R216). -/
def State.stoppedInPlace (s : State) (tid : Nat) : Bool :=
  (s.task tid).status == .frozen && s.drained tid && (s.freeArea (s.task tid).rkey).isNone

/-- A request's task is not finished with. -/
def State.stillDue (s : State) (tid : Nat) : Bool :=
  match tabFind s.tasks tid with
  | none => false
  | some t => t.doomed || (t.preempt.isSome && !s.stoppedInPlace tid)

/-- ctlstat written at an RCB address for a region, its sequence incremented by one (09 R296). -/
def State.ctlstatAt (s : State) (p r addr fn st : Nat) : State :=
  let seq := match s.engRead p (addr + 136) 8 with | some b => (leNat b / 2 ^ 32 + 1) % 2 ^ 32 | none => 1
  s.svcWrite 3 p r (addr + 136) (natLe 8 (seq * 2 ^ 32 + fn * 2 ^ 24 + st))

/-- A freeze is under way: issue has stopped and the area is still to be written, or the task stands at its freeze point
(07 R214-R216; 09 R295). -/
def State.freezing (s : State) (tid : Nat) : Bool :=
  let t := s.task tid
  match t.status with
  | .frozen => !s.stoppedInPlace tid
  | .trapped => false
  | .forced => false
  | .saved => false
  | _ => match t.preempt with
    | some d => t.steps == 0 || decide (d ≤ s.cycle)
    | none => false

/-- A task killed, or marked to be killed when a freeze under way completes (09 R295). -/
def State.killOrMark (s : State) (tid : Nat) : State :=
  let s1 := s.putTask tid { s.task tid with doomed := true }
  if s.freezing tid then s1 else s1.killTask tid 0

/-- The redundant tasks of a region whose two runs have both ended and differ, so that a third is still to come, are killed with its tasks
(09 R264, R294; 13 R409). -/
def State.cutRuns (s : State) (r : Nat) : State :=
  s.runs.foldl (fun s x =>
    if x.region ≠ r then s
    else match s.runsOf x.twin with
      | [a, b] =>
        if a.digest = b.digest ∨ (s.tasks.any fun t => t.2.run != 0 && t.2.twin == x.twin) = true then s
        else s.settleRuns { a with clk := max a.clk b.clk } true
      | _ => s) s

/-- TASKIDs of a region. -/
def State.tasksOf (s : State) (r : Nat) : List Nat := (s.tasks.filter fun x => x.2.rkey == r).map Prod.fst

/-- A region's deque, overflow and firing records, and its buffered draws, discarded (09 R283, R294); a firing record so discarded counts
as a killed task of its firing (10 R305). -/
def State.discardQueues (s : State) (r : Nat) : State :=
  let mine (x : Rec) : Bool := x.part * 65536 + fieldAt x.bytes 16 2 == r
  let fired := s.dies.foldr (fun (d : Nat × Die) acc => d.2.ready.filter mine ++ acc) []
  let recs := (s.cores.foldr (fun c acc => (c.2.deque.filter mine) ++ acc) []) ++ (s.region r).oflow ++ fired
  let s1 := recs.foldl (fun s x => (s.discardRec r x).firingDone x.firing) s
  let s1 := { s1 with dies := s1.dies.map fun (d : Nat × Die) => (d.1, { d.2 with ready := d.2.ready.filter fun x => !mine x }) }
  let s2 := { s1 with cores := s1.cores.map fun (c : Nat × Core) => (c.1, { c.2 with deque := c.2.deque.filter fun x => !mine x, draws := tabDel c.2.draws r }) }
  s2.putRegion r { s2.region r with oflow := [], returns := [] }

/-- A region's unfired sump entries purged (10 R307). -/
def State.purgeSumps (s : State) (r : Nat) : State :=
  { s with sumps := s.sumps.map fun (x : Nat × Sump) =>
      if tabFind s.sumpgr x.1 == some r then (x.1, { x.2 with ents := [], purged := x.2.purged + x.2.ents.length, due := false }) else x }

/-- KILL's treatment of a launch list: ltail := lhead, each record skipped counted as discarded (09 R294). -/
def State.skipList (s : State) (r : Nat) : State :=
  let g := s.region r
  match s.engRead g.part (g.rcb + 60) 4 with
  | none => (s.putRegion r { g with lhold := none }).svcRead 3 g.part r (g.rcb + 60) 4
  | some b =>
    let head := leNat b
    let n := min ((head + 2 ^ 32 - g.ltail) % 2 ^ 32) (2 ^ g.ln)
    let s1 := (List.range n).foldl (fun s i =>
      let a := g.lbase + 64 * ((g.ltail + i) % 2 ^ g.ln)
      match s.engRead g.part a 64 with
      | some x => s.discardRec r { bytes := x, addr := 0, clk := g.ringClock, part := g.part }
      | none => s.svcRead 3 g.part r a 64) s
    (s1.putRegion r { g with ltail := head, ltarget := head, lhold := none, lclks := [] }).putRcb r 64 4 head

/-- Region keys of a region and its descendants. -/
def State.subtree (s : State) (r : Nat) : List Nat := (s.regions.filter fun x => s.covers r x.1).map Prod.fst

/-- The waiting tasks of a region begin to wait anew: PARKED is not the want of a core (09 R273). -/
def State.waitAnew (s : State) (r : Nat) : State :=
  let anew (x : Rec) : Rec := if x.part * 65536 + fieldAt x.bytes 16 2 = r then { x with since := s.cycle } else x
  { s with
    cores := s.cores.map fun (c : Nat × Core) => (c.1, { c.2 with deque := c.2.deque.map anew })
    dies := s.dies.map fun (d : Nat × Die) => (d.1, { d.2 with ready := d.2.ready.map anew })
    regions := s.regions.map fun (g : Nat × Region) => (g.1, { g.2 with oflow := g.2.oflow.map anew, lhold := g.2.lhold.map anew })
    tasks := s.tasks.map fun (t : Nat × Task) => if t.2.rkey = r ∧ t.2.status = .saved then (t.1, { t.2 with since := s.cycle }) else t }

/-- RESUME (09 R294 fn 5): parked tasks re-execute their faulting bundles; tasks stopped in place issue again (07 R216). -/
def State.resumeRegion (s : State) (r : Nat) : State :=
  let s0 := (s.putRegion r { s.region r with state := 0 }).putRcb r 21 1 0
  let s1 := (s0.subtree r).foldl State.waitAnew s0
  (s1.tasksOf r).foldl (fun s tid =>
    let t := s.task tid
    match t.status with
    | .parked => s.putTask tid { t with status := s.goStatus tid, trec := [] }
    | .frozen => s.putTask tid { t with status := if t.after = .parked then .ready else t.after, preempt := none, late := false }
    | .saved => s.putTask tid { t with after := if t.after = .parked then .ready else t.after }
    | _ => s) s1

/-- The QUERY block (09 R294 fn 8). -/
def State.queryBlock (s : State) (r : Nat) : List Byte :=
  let g := s.region r
  let n (t : Tab Nat) : Nat := (t.filter fun x => x.2 == r).length
  let trees := (s.trees.filter fun x => x.2.st != 0 && x.2.region == r).length
  natLe 8 (s.usage r) ++ natLe 8 (g.own + g.state * 2 ^ 32) ++ natLe 4 (n s.banks) ++ natLe 4 (n s.algr) ++ natLe 4 (n s.sumpgr) ++
  natLe 4 trees ++ (List.range 96).foldr (fun i acc =>
    natLe 1 ((List.range 32).filter fun b => s.barGranted (i / 24 * 256 + i % 24) b r).length ++ acc) []

/-- A DESTROY taken (09 R294 fn 1): the region is DEAD, its tasks are killed, those being frozen when their freeze completes
(09 R295), and its queues are discarded. -/
def State.startDestroy (s : State) (r : Nat) : State :=
  let s1 := ((s.tasksOf r).foldl State.killOrMark s).cutRuns r
  let s2 := (s1.discardQueues r).skipList r
  s2.putRegion r { s2.region r with state := 2 }

/-- A DESTROY completed: no task is left; the grants return. -/
def State.endDestroy (s : State) (r : Nat) : State :=
  let s1 := ((s.putRcb r 21 1 2).ungrant r).dropPins r
  { s1 with regions := tabDel s1.regions r }

/-- The mailbox's request is complete (13 R395). -/
def State.mailDone (s : State) (p code st : Nat) : State :=
  let q := s.part p
  s.putPart p { q with mbseq := (q.mbseq + 1) % 2 ^ 32, mbcmd := code, mbst := st, busy := false }

/-- Requests whose tasks are all saved, stopped or gone complete, in the order taken (09 R295, R296). -/
def State.finishWaiting (s : State) (r : Nat) : State :=
  (s.region r).waiting.foldl (fun s w =>
    let left := w.2.2.filter s.stillDue
    let g := s.region r
    let keep := g.waiting.filter fun x => x != w
    if left.isEmpty then
      let s0 := s.putRegion r { g with waiting := keep }
      let s1 := (if w.1 = 1 then s0.endDestroy r else s0).ctlstatAt g.part r g.rcb w.1 stDone
      if w.2.1 then s1.mailDone g.part 3 stDone else s1
    else s) s

/-- Requests by function on a region that exists and lies in the issuer's subtree: the state, the status, and the tasks that the
request still waits for. -/
def State.request (s : State) (fn r b clk : Nat) : State × Nat × List Nat :=
  let g := s.region r
  match fn with
  | 1 => if s.regions.any fun x => x.2.parent == r then (s, stChildren, []) else (s.startDestroy r, stDone, s.tasksOf r)
  | 2 => (s.doorbell r clk, stDone, [])
  | 3 =>
    let ts := (s.residents r).map Prod.fst
    (ts.foldl State.requestPreempt s, stDone, ts)
  | 4 =>
    let ts := (s.residents r).map Prod.fst
    let s1 := (s.putRegion r { g with state := 1 }).putRcb r 21 1 1
    (ts.foldl State.requestPreempt s1, stDone, ts)
  | 5 => (s.resumeRegion r, stDone, [])
  | 6 =>
    let rs := s.subtree r
    let ts := rs.foldr (fun x acc => s.tasksOf x ++ acc) []
    let s1 := rs.foldl State.cutRuns (ts.foldl State.killOrMark s)
    (rs.foldl (fun s x => (((s.discardQueues x).skipList x).purgeSumps x)) s1, stDone, ts)
  | 7 => let (s1, st) := s.reloadRegion r
         (s1, st, [])
  | _ => match s.engWrite g.part (s.part g.part).pclk b (s.queryBlock r) with
    | some s1 => (s1, stDone, [])
    | none => (s.structFormat 3 g.part r b 128, stInvalid, [])

/-- RGNCTL (09 R294-R296), or (`issuer` none) a mailbox request on the whole partition: the state, the status and, for the mailbox,
whether the request has completed. -/
def State.rgnctl (s : State) (p : Nat) (issuer : Option Nat) (fn a b clk : Nat) : State × Nat × Bool :=
  let mine := match issuer with | some i => (s.region i).rcb | none => 0
  let report (s : State) (addr st : Nat) : State := if addr = 0 then s else s.ctlstatAt p (issuer.getD 0) addr fn st
  if fn = 0 then
    let (s1, st) := s.createRegion p issuer a
    let target := if a % 256 = 0 ∧ (s.engLoc p (a + 136) 8 2).isSome then a else mine
    (report s1 target st, st, true)
  else
    let r := p * 65536 + a % 65536
    if a ≥ 65536 ∨ (tabFind s.regions r).isNone ∨ (s.region r).state = 2 then (report s mine stNoRegion, stNoRegion, true)
    else if !(match issuer with | some i => s.covers i r | none => true) then (report s (s.region r).rcb stNotSubtree, stNotSubtree, true)
    else
      let (s1, st, ts) := s.request fn r b clk
      let due := ts.filter s1.stillDue
      if due.isEmpty ∧ (fn ≠ 1 ∨ st ≠ stDone) then (report s1 (s.region r).rcb st, st, true)
      else
        let g := s1.region r
        (s1.putRegion r { g with waiting := g.waiting ++ [(fn, issuer.isNone, due)] }, st, false)

/-! ### Fault domains (09 R264) -/

/-- KILL-CONTEXT on a fault domain: a key of partition x 65536 + domain. -/
def State.killDomain (s : State) (dk : Nat) : State :=
  let rs := (s.regions.filter fun x => x.2.part * 65536 + x.2.domain == dk).map Prod.fst
  let s1 := rs.foldl (fun s r => ((s.tasksOf r).foldl (fun s t => (s.putTask t { s.task t with doomed := true }).killTask t 0) s).cutRuns r) s
  rs.foldl (fun s r => (s.putRegion r { s.region r with state := 1 }).putRcb r 21 1 1) s1

end Sys2Proof.Machine
end

