-- ==== Sys2Proof/Machine/Faults.lean ====
section
/-! DEFINITION. The die's fault service (11 R349-R351) and what the scheduler does with a trapped task (07 R207, R208; 09 R280-R282;
04 R126). -/

namespace Sys2Proof.Machine

/-! ### Fault slots -/

/-- Location of a fault slot of a die. -/
def State.slotAddr (s : State) (p die slot : Nat) : Nat := (s.part p).fqbase + 8192 * die + 32 * slot

/-- A slot's 32 bytes with state OPEN. -/
def FSlot.bytes (x : FSlot) (seq : Nat) : List Byte :=
  natLe 8 x.va ++ natLe 1 x.access ++ natLe 1 x.cause ++ natLe 2 0 ++ natLe 4 x.waiters ++ natLe 4 seq ++ natLe 1 0 ++ natLe 1 1 ++
  natLe 10 0

/-- The open slot of a requester's page. -/
def Die.openFor (d : Die) (x : FSlot) : Option (Nat × FSlot) := d.slots.find? fun y => y.2.va == x.va && y.2.part == x.part

/-- The requester that is taken next: the first whose page has an open slot, or that finds a slot free (11 R349). -/
def Die.nextWaiter (d : Die) : Option Nat :=
  (List.range d.waitq.length).find? fun i => match d.waitq[i]? with
    | some x => (d.openFor x).isSome || decide (d.slots.length < 256)
    | none => false

/-- The task that a requester asks for: the task itself, or the one whose command or transfer it is; 0 for none. -/
def State.asker (s : State) (r : Requester) : Nat :=
  match r with
  | .task t => t
  | .chan _ _ tid _ => tid
  | .send n no => ((tabGet s.sendqs { pkg := n } n).list.find? fun x => x.no == no).elim 0 Send.tid
  | _ => 0

/-- FAULT_SLOT_OPEN: a requester joins its page's open slot or opens one; while none is free, those that need one wait. -/
def State.slotOpen (s : State) (die : Nat) : State :=
  let d := s.die die
  match d.nextWaiter.bind fun i => (d.waitq[i]?).map fun x => (x, d.waitq.eraseIdx i) with
  | none => s
  | some (x, rest) =>
    match d.openFor x with
    | some (n, y) =>
      let z := { y with access := y.access ||| x.access, waiters := min (y.waiters + 1) 0xFFFFFFFF, reqs := y.reqs ++ x.reqs }
      let s1 := s.putDie die { d with slots := tabPut d.slots n z, waitq := rest }
      let a := s.slotAddr x.part die n
      (s1.svcWrite 3 x.part 0 (a + 8) (natLe 1 z.access)).svcWrite 3 x.part 0 (a + 12) (natLe 4 z.waiters)
    | none =>
      match (List.range 256).find? fun n => (tabFind d.slots n).isNone with
      | none => s
      | some n =>
        let seq := (d.fseq + 1) % 2 ^ 32
        let s1 := s.putDie die { d with slots := tabPut d.slots n x, waitq := rest, fseq := seq }
        let s2 := s1.svcWrite 3 x.part 0 (s.slotAddr x.part die n) (x.bytes seq)
        -- the record names the requester's task, its core and its region (R404, R406)
        let tid := (x.reqs.head?).elim 0 s.asker
        let t := tabFind s.tasks tid
        s2.error { part := x.part, cls := 0x0F, src := 3, core := t.elim (die * 4096) Task.core, tid := tid, region := t.elim 0 Task.rkey, tail := natLe 8 x.va ++ natLe 4 n ++ [BitVec.ofNat 8 x.cause, BitVec.ofNat 8 x.access], x20 := some n }

/-- A die's waiting requester can be taken. -/
def State.canOpen (s : State) (die : Nat) : Bool := (s.die die).nextWaiter.isSome

/-- A remote request, or a line of a transfer, that waited is answered with an error; the transfer is over here (14 R435, R440). -/
def State.refuseFar (s : State) (line : Bool) (a : StepArgs) (reason : Nat) : State :=
  let data := natLe 1 (if line then 4 else a.num % 4) ++ natLe 1 reason ++ natLe 4 (if line then 0 else a.num / 4)
  let r := tabGet s.recvs {} a.unit
  { s with
    outbox := s.outbox ++ [{ cls := 1, dst := a.unit, src := s.fab.pkg, data := data }]
    recvs := if line then tabPut s.recvs a.unit { r with st := 0 } else s.recvs }

/-- A requester told its fault's disposition; a remote request that waited is taken again once its page is there. -/
def State.tell (s : State) (p core v : Nat) (r : Requester) : State :=
  match r with
  | .task t => match tabFind s.tasks t with
    | some x => s.putTask t { x with verdict := v }
    | none => s
  | .chan c q tid n =>
    let k := s.core c
    let ch := k.chan q
    match ch.cmd with
    | some x => if x.faulted && s.chanOwner c q == tid && ch.ended == n then s.putCore c (k.putChan q { ch with cmd := some { x with verdict := v } }) else s
    | none => s
  | .send n no =>
    { s with sendqs := s.sendqs.map fun (q : Nat × SendQ) =>
      if q.1 = n then (n, { q.2 with list := q.2.list.map fun x => if x.no = no ∧ x.fault = true then { x with verdict := v } else x }) else q }
  | .remote line a =>
    if v ≤ 1 then { s with agenda := ((if line then .sendLinePerform else .remoteRequest), a) :: s.agenda } else s.refuseFar line a (v - 1)
  | .page va => s.forcedPage p core va v

/-- The disposition a slot's bytes hold, 0 while pending; above 3 it acts as DENY-TRANSLATION (11 R351). -/
def State.disposition (s : State) (die n : Nat) : Nat :=
  match tabFind (s.die die).slots n with
  | none => 0
  | some x => match s.engRead x.part (s.slotAddr x.part die n + 20) 1 with
    | some b => let v := leNat b
                if v > 3 then 2 else v
    | none => 0

/-- An open slot cannot be read. -/
def State.slotUnread (s : State) (die n : Nat) : Bool :=
  (tabFind (s.die die).slots n).any fun x => (s.engRead x.part (s.slotAddr x.part die n + 20) 1).isNone

/-- FAULT_DISPOSITION: the waiters are told, the slot is CLOSED and free again. A slot that cannot be read stays open, and a malformed page
table is reported (11 R346). -/
def State.slotClose (s : State) (die n : Nat) : State :=
  let v := s.disposition die n
  match tabFind (s.die die).slots n with
  | none => s
  | some x =>
    if v = 0 then s.svcRead 3 x.part 0 (s.slotAddr x.part die n + 20) 1
    else
      let d := s.die die
      let s1 := s.putDie die { d with slots := tabDel d.slots n }
      let s2 := s1.svcWrite 3 x.part 0 (s.slotAddr x.part die n + 21) (natLe 1 2)
      x.reqs.foldl (fun s r => s.tell x.part (die * 4096) v r) s2

/-! ### Trap actions (09 R281) -/

/-- Slot whose cause decides: the lowest-numbered that faulted; 0 where the mask is zero. -/
def trapSlot (w : List W64) : Nat :=
  let mask := (w.getD 1 0).toNat % 256
  ((List.range 8).find? fun k => mask / 2 ^ k % 2 == 1).getD 0

/-- The deciding cause. -/
def trapCause (w : List W64) : Nat := byteOf (w.getD 2 0) (trapSlot w)
/-- The deciding slot's detail byte. -/
def trapDetail (w : List W64) : Nat := byteOf (w.getD 4 0) (trapSlot w)
/-- The record is of a fetch fault. -/
def trapFetch (w : List W64) : Bool := (w.getD 1 0).toNat / 2 ^ 8 % 2 == 1
/-- The record's address. -/
def trapAddr (w : List W64) : Nat := (w.getD 3 0).toNat
/-- The record's resume point. -/
def trapPc (w : List W64) : Nat := (w.getD 0 0).toNat

/-- Bytes 16-31 of an error record that reports a trap record: its address and its causes (notes/assumptions/34). -/
def trapTail (w : List W64) : List Byte := natLe 8 (trapAddr w) ++ natLe 8 (w.getD 2 0).toNat

/-- A trapped task is killed (09 R281): class TASK-KILLED goes to the severity matrix. -/
def State.trapKill (s : State) (tid : Nat) : State :=
  let t := s.task tid
  ((s.killTask tid (trapCause t.trec))).error
    { part := t.part, cls := 0x09, src := 0, core := t.core, tid := tid, region := t.rkey, tail := trapTail t.trec }

/-- A double fault (07 R208; 09 R282): the records go to the error log, one event tells the host where they begin, the fault domain of the
handler's region is killed, and with it every task whose record was queued to the handler, or held by it (DEDUCED, notes/assumptions/132). -/
def State.doubleFault (s : State) (tid : Nat) : State :=
  let t := s.task tid
  let g := s.region t.rkey
  let q := s.part t.part
  let a := q.errbase + 32 * (q.errs % 2 ^ q.errlen)
  let rec_ (x : Nat) (w : List W64) : Err :=
    { part := t.part, cls := 0x0C, src := 0, core := t.core, tid := x, region := t.rkey, tail := trapTail w, x24 := a }
  let s1 := s.error (rec_ tid t.trec)
  let s2 := if t.subject = 0 then s1 else s1.logError (rec_ t.subject t.rec8)
  let s3 := g.traps.foldl (fun s x => s.logError (rec_ x (s.task x).trec)) s2
  let s4 := (if t.subject = 0 then g.traps else t.subject :: g.traps).foldl (fun s x => s.killTask x (trapCause (s.task x).trec)) s3
  { s4 with doom := s4.doom ++ [(3, t.part * 65536 + g.domain)] }

/-- The access of a TRANSLATION trap, as the fault service records it. -/
def trapAccess (w : List W64) (priv : Bool) : Nat :=
  (if trapFetch w then 4 else if trapDetail w / 4 % 2 = 1 then 2 else 1) + 8 * b2n priv

/-- A trap's fault is of the LS slot's memory access (07 R208: the handler's stack access). -/
def trapAccessFault (w : List W64) : Bool :=
  (w.getD 1 0).toNat / 2 ^ 5 % 2 == 1 && [0x08, 0x09, 0x0A, 0x0B].contains (byteOf (w.getD 2 0) 5)

/-- A fault of a handler's first fetch, or of its first memory access, after a delivery (07 R208; notes/assumptions/75). -/
def Task.firstFault (t : Task) : Bool := (t.fresh && trapFetch t.trec) || (t.untried && trapAccessFault t.trec)

/-- Trapped tasks in the order in which their traps were taken (09 R281). -/
def State.insertTrap (s : State) (tid : Nat) (l : List Nat) : List Nat :=
  let before (x : Nat) : Bool := decide ((s.task x).trapAt ≤ (s.task tid).trapAt)
  l.takeWhile before ++ tid :: l.dropWhile before

/-- The action of a region's table applied to a trapped task (07 R207; 09 R281). -/
def State.applyAction (s : State) (tid action : Nat) : State :=
  let t := s.task tid
  let g := s.region t.rkey
  let cause := trapCause t.trec
  if t.handler && (action == 0 || t.firstFault) then s.doubleFault tid
  else match action with
  | 0 => s.trapKill tid
  | 1 =>
    let s1 := s.putTask tid { t with status := .replay, verdict := 0 }
    if cause = 0x08 then
      s1.faultReq t.core t.part (trapAddr t.trec) (trapAccess t.trec (s.privileged t))
        (match s.walk t.part (trapAddr t.trec) with | .error 2 => 2 | .error _ => 0 | .ok _ => 0) (.task tid)
    else s1
  | 2 => s.putTask tid { t with status := .parked }
  | _ =>
    let o := s.region g.actOwner
    if o.handler = 0 ∨ (tabFind s.tasks o.handler).isNone = true then
      (s.putTask tid { t with status := .parked }).error
        { part := t.part, cls := 0x0B, src := 3, core := t.core, tid := tid, region := t.rkey, tail := trapTail t.trec }
    else
      (s.putTask tid { t with status := .forwarded }).putRegion g.actOwner { o with traps := s.insertTrap tid o.traps }

/-- TRAP_ACTION for a trapped task. -/
def State.trapAction (s : State) (tid : Nat) : State :=
  let t := s.task tid
  s.applyAction tid ((s.region t.rkey).action (trapCause t.trec))

/-- The trap record of an unresolvable fault marked (07 R206 bits 3 and 4). -/
def markDenied (w : List W64) (verdict : Nat) : List W64 :=
  let k := trapSlot w
  let add := (8 + (if verdict = 3 then 16 else 0)) * 2 ^ (8 * k)
  w.mapIdx fun i x => if i = 4 then BitVec.ofNat 64 (x.toNat ||| add) else x

/-- A task under REPLAY can go on: its fault has a disposition, its sump has room, its package is grouped, or no slot groups its package
with this one, so that its fault is unresolvable (09 R281; 14 R433). -/
def State.replayReady (s : State) (tid : Nat) (room grouped never : Nat → Bool) : Bool :=
  let t := s.task tid
  t.status == .replay &&
  match trapCause t.trec with
  | 0x08 => t.verdict != 0
  | 0x12 => room t.need
  | 0x14 => grouped t.need || never t.need
  | _ => true

/-- REPLAY_RESUME: the task issues its faulting bundle again, or its unresolvable fault is re-dispatched under the action for
PROTECTION (KILL where that is REPLAY): a denied translation, marked in its record, or a package `never` grouped with this one. -/
def State.replayResume (s : State) (tid : Nat) (never : Nat → Bool) : State :=
  let t := s.task tid
  let denied := trapCause t.trec = 0x08 ∧ 2 ≤ t.verdict
  if denied ∨ (trapCause t.trec = 0x14 ∧ never t.need = true) then
    let a := (s.region t.rkey).action 0x09
    (s.putTask tid { t with status := .trapped, trec := if denied then markDenied t.trec t.verdict else t.trec }).applyAction tid (if a = 1 then 0 else a)
  else s.putTask tid { t with status := s.goStatus tid, trec := [], verdict := 0 }

/-! ### Forwarded traps (09 R280, R281; 04 R126) -/

/-- A region's handler waits and a record is queued for it. -/
def State.canForward (s : State) (r : Nat) : Bool :=
  let g := s.region r
  !g.traps.isEmpty && g.handler != 0 && (s.task g.handler).status == .await && (s.task g.handler).subject == 0

/-- FORWARD_DELIVERY. -/
def State.forward (s : State) (r : Nat) : State :=
  let g := s.region r
  match g.traps with
  | [] => s
  | x :: rest =>
    let h := s.task g.handler
    let t := s.task x
    (s.putTask g.handler { h with status := s.goStatus g.handler, rec8 := t.trec, subject := x, fresh := true, untried := true }).putRegion r { g with traps := rest }

/-- ERET's disposal of the trapped task (04 R126). -/
def State.dispose (s : State) (handler disp target : Nat) : State :=
  let h := s.task handler
  let x := h.subject
  let s1 := (s.putTask handler { h with status := .await, subject := 0, rec8 := [] }).stopIssue handler
  match tabFind s1.tasks x with
  | none => s1
  | some t =>
    let pc := if disp = 2 then target else trapPc t.trec
    if disp = 1 then s1.trapKill x
    else match t.status with
      | .saved => s1.putTask x { t with after := .ready, redo := some pc, trec := [] }
      | .forwarded => s1.trapReturn x pc
      | _ => s1.putTask x { t with after := .ready, redo := some pc, trec := [] }

/-- A frozen or forced task whose trap was disposed of meanwhile takes its return when it goes on. -/
def State.takeRedo (s : State) (tid : Nat) : State :=
  match (s.task tid).redo with
  | some pc => (s.putTask tid { s.task tid with redo := none }).trapReturn tid pc
  | none => s

end Sys2Proof.Machine
end

