-- ==== Sys2Proof/Machine/SumpOps.lean ====
section
/-! DEFINITION. Sumps (10 of spec/): identifiers, descriptors, admission, due-ness, firing decisions, configuration, prefetch. -/

namespace Sys2Proof.Machine

/-- A well-formed identifier of an existing die (10 R297); a package has four dies. -/
def sumpIdOk (v : Nat) : Bool := decide (v < 2 ^ 11)

/-- A sump granted to a region or to an ancestor of it (10 R299). -/
def State.sumpUsable (s : State) (r x : Nat) : Bool :=
  match tabFind s.sumpgr x with
  | some o => s.covers o r
  | none => false

/-- A sump granted to a region or to a descendant of it. -/
def State.sumpBelow (s : State) (r x : Nat) : Bool :=
  match tabFind s.sumpgr x with
  | some o => s.covers r o
  | none => false

/-! ### The descriptor (10 R303, R304) -/

def Sump.expert (x : Sump) : Nat := fieldAt x.desc 0 4
def Sump.region (x : Sump) : Nat := fieldAt x.desc 4 2
def Sump.cls (x : Sump) : Nat := fieldAt x.desc 6 1
def Sump.nb (x : Sump) : Nat := fieldAt x.desc 7 1
def Sump.thresh (x : Sump) : Nat := fieldAt x.desc 8 2
def Sump.fslots (x : Sump) : Nat := fieldAt x.desc 11 1
def Sump.age (x : Sump) : Nat := fieldAt x.desc 12 4
def Sump.fbase (x : Sump) : Nat := fieldAt x.desc 16 8
def Sump.scap (x : Sump) : Nat := fieldAt x.desc 32 4
def Sump.bsize (x : Sump) (j : Nat) : Nat := fieldAt x.desc (64 + 16 * j) 2
def Sump.btasks (x : Sump) (j : Nat) : Nat := fieldAt x.desc (66 + 16 * j) 1
def Sump.bentry (x : Sump) (j : Nat) : Nat := fieldAt x.desc (72 + 16 * j) 8
def Sump.template (x : Sump) : List Byte := (x.desc.drop 192).take 64
/-- Stride of the firing area (10 R305). -/
def Sump.stride (x : Sump) : Nat := 64 * ((64 + 32 * x.bsize (x.nb - 1) + 63) / 64)
/-- Places a sump has (10 R308). -/
def Sump.capacity (x : Sump) : Nat := 1024 + x.scap

/-- A core that could hold a template's task, when empty (10 R304: fits R269 on some core of the die). -/
def State.templateFits (s : State) (r die : Nat) (b : List Byte) : Bool :=
  let g := s.region r
  g.dies / 2 ^ die % 2 == 1 && (s.coresOn (2 ^ die)).any fun c =>
    (g.needs % 2 == 0 || capable (s.core c).outmask false) && (g.needs / 2 % 2 == 0 || capable (s.core c).outmask true) &&
    decide (fieldAt b 18 1 % 16 ≤ 32)

/-- A descriptor valid for a sump of a region (10 R304). -/
def State.sumpDescOk (s : State) (owner id : Nat) (b : List Byte) : Bool :=
  let x : Sump := { desc := b }
  let r := owner / 65536 * 65536 + x.region
  let zero (i n : Nat) : Bool := fieldAt b i n == 0
  decide (x.cls ≤ 3) && decide (1 ≤ x.nb ∧ x.nb ≤ 8) && decide (fieldAt b 10 1 ≤ 1) && decide (1 ≤ x.fslots ∧ x.fslots ≤ 64) &&
  zero 36 4 && zero 56 8 && decide (1 ≤ x.thresh ∧ x.thresh ≤ x.bsize (x.nb - 1)) &&
  decide (x.fbase % 64 = 0 ∧ x.fbase < 2 ^ 48) && decide (fieldAt b 24 8 % 64 = 0 ∧ fieldAt b 24 8 < 2 ^ 48) && (x.scap != 0 || zero 24 8) &&
  decide (x.scap ≤ 1048576) && (fieldAt b 10 1 == 0 || (fieldAt b 48 8 != 0 && decide (fieldAt b 40 8 + fieldAt b 48 8 ≤ 2 ^ 48))) &&
  ((List.range 8).all fun j =>
    if j < x.nb then
      zero (67 + 16 * j) 5 && decide (1 ≤ x.bsize j ∧ x.bsize j ≤ 1024) && (j == 0 || decide (x.bsize (j - 1) < x.bsize j)) &&
      decide (1 ≤ x.btasks j ∧ x.btasks j ≤ 16) && x.bentry j != 0
    else zero (64 + 16 * j) 16) &&
  (tabFind s.regions r).isSome && s.covers owner r && s.recordOk r x.template true && fieldAt x.template 16 2 == x.region &&
  s.templateFits r (id / 512) x.template

/-! ### Due-ness (10 R307, R310) -/

/-- The region of a sump's firing tasks. -/
def State.firingRegion (s : State) (id : Nat) : Nat := (s.sump id).part * 65536 + (s.sump id).region

/-- The age condition holds. -/
def Sump.aged (x : Sump) (ns : Nat) : Bool :=
  match x.ents with
  | e :: _ => x.age != 0 && decide (e.time + x.age ≤ ns)
  | [] => false

/-- Arrival number at or below a mark, counting modulo 2^32. -/
def atOrBelow (a mark : Nat) : Bool := decide ((mark + 2 ^ 32 - a) % 2 ^ 32 < 2 ^ 31)

/-- A flush mark stands over some unfired entry. -/
def Sump.flushed (x : Sump) : Bool :=
  match x.flush with
  | some m => x.ents.any fun e => atOrBelow e.arr m
  | none => false

/-- The sump is due (10 R310); by age once SUMP_AGE_DUE has detected it. -/
def Sump.isDue (x : Sump) : Bool := x.st == 1 && (decide (x.thresh ≤ x.ents.length) && !x.ents.isEmpty || x.due || x.flushed)

/-- A forced invalidation keeps the sumps of a region from firing (11 R357): from its step 1 while the region has a pin on the range, and
until the last of its pending pages has been disposed of. -/
def State.pinsPending (s : State) (r : Nat) : Bool := (s.part (r / 65536)).forces.any fun f => (s.forcedBy (r / 65536) f).contains r

/-- The sump may fire now: due, a free firing slot, its regions ACTIVE (10 R307, R310). -/
def State.sumpEligible (s : State) (id : Nat) : Bool :=
  let x := s.sump id
  let active (r : Nat) : Bool := (tabFind s.regions r).isSome && (s.region r).state == 0
  match tabFind s.sumpgr id with
  | some o => x.isDue && decide (x.slots.length < x.fslots) && active o && active (s.firingRegion id) && !s.pinsPending o
  | none => false

/-- A flush mark no unfired entry stands under is cleared; due-ness by age follows the oldest entry. -/
def Sump.tidy (x : Sump) (ns : Nat) : Sump :=
  let x1 := if x.flushed then x else { x with flush := none }
  { x1 with due := x1.due && x1.aged ns }

/-! ### Admission (10 R301, R308, R321) -/

/-- A record's key. -/
def keyOf (b : List Byte) : List Byte := b.take 9

/-- Address of an entry's place in the spill area (10 R302): by its arrival number, which its format leaves to the engine. -/
def Sump.spillAddr (x : Sump) (arr : Nat) : Nat := fieldAt x.desc 24 8 + 64 * (arr % max x.scap 1)

/-- An entry written to the spill area, whose format is not architectural: each byte of its place becomes a free value
(notes/assumptions/84). -/
def State.spill (s : State) (x : Sump) (arr : Nat) : State :=
  { s.svcWrite 1 x.part (x.part * 65536 + x.region) (x.spillAddr arr) ((List.range 64).map fun i => Config.freeByte (s.free + i)) with free := s.free + 64 }

/-- SUMP_ADMIT: the first record that waits at a die's engine is checked and appended, or refused. -/
def State.sumpAdmit (s : State) (die : Nat) : State :=
  let d := s.die die
  match d.enq with
  | [] => s
  | e :: rest =>
    let s1 := s.putDie die { d with enq := rest }
    let x := s1.sump e.sump
    let answer (s : State) (v : Nat) : State :=
      match tabFind s.tasks e.tid with
      | some t => s.putTask e.tid { (t.setWait e.tok (.ready [BitVec.ofNat 512 v])) with clks := tabPut t.clks 4 (max (tabGet t.clks 0 4) e.clk) }
      | none => s
    if x.st = 0 then answer s1 2
    else if x.ents.any fun y => keyOf y.bytes == keyOf e.bytes then answer (s1.putSump e.sump { x with dups := x.dups + 1 }) 1
    else
      let n := x.next
      let s1 := if x.ents.length < 1024 then s1 else s1.spill x n
      answer (s1.putSump e.sump { x with ents := x.ents ++ [{ bytes := e.bytes, arr := n, time := s.ns }], next := (n + 1) % 2 ^ 32, accepted := x.accepted + 1, clk := max x.clk e.clk }) (n * 2 ^ 32)

/-- A place is left beside those taken, the reserved ones with them, whatever the sump's state (10 R308, R319). -/
def State.sumpRoom (s : State) (id : Nat) : Bool :=
  decide ((s.sump id).ents.length + ((s.die (id / 512)).enq.filter fun e => e.sump == id).length < (s.sump id).capacity)

/-! ### Firing (10 R311, R313-R316) -/

/-- The tile record (10 R314). -/
def Sump.tileRecord (x : Sump) (id j reason n slot ns : Nat) : List Byte :=
  let oldest := match x.ents with | e :: _ => min (ns - e.time) 0xFFFFFFFF | [] => 0
  natLe 2 id ++ natLe 1 j ++ natLe 1 reason ++ natLe 4 x.expert ++ natLe 4 x.firings ++ natLe 2 n ++ natLe 2 (x.bsize j) ++
  natLe 8 (x.fbase + slot * x.stride + 64) ++ natLe 8 ns ++ natLe 4 oldest ++ natLe 2 (x.btasks j) ++ natLe 1 slot ++ List.replicate 25 0

/-- A masked row (10 R315). -/
def maskedRow : List Byte := List.replicate 12 0xFF ++ List.replicate 20 0

/-- A firing task's record (10 R316). -/
def Sump.taskRecord (x : Sump) (j tile i : Nat) : List Byte :=
  natLe 8 (x.bentry j) ++ (x.template.drop 8).take 16 ++ natLe 8 tile ++ natLe 8 (x.btasks j * 2 ^ 32 + i) ++ x.template.drop 40

/-- A spilled entry's place meets an uncorrectable error (10 R320). -/
def State.entryBad (s : State) (x : Sump) (e : SumpEnt) : Bool :=
  match s.engLoc x.part (x.spillAddr e.arr) 64 1 with
  | some loc => s.badAt loc 64
  | none => false

/-- An entry lost, counted and reported (10 R320). -/
def State.entryLost (s : State) (id : Nat) : State :=
  let x := s.sump id
  let owner := (tabFind s.sumpgr id).getD 0
  (s.putSump id { x with lost := x.lost + 1 }).error { part := x.part, cls := 0x11, src := 1, core := id / 512 * 4096, region := owner, tail := natLe 8 0 ++ natLe 2 id }

/-- Spilled entries move into the places that have come free; one whose place cannot be read is lost (10 R302, R320). `n`: the
entries still resident. -/
def State.moveIn (s : State) (id : Nat) : Nat → Nat → State
  | 0, _ => s
  | f + 1, n =>
    let x := s.sump id
    match (if n < 1024 then x.ents[n]? else none) with
    | none => s
    | some e =>
      if s.entryBad x e then ((s.putSump id { x with ents := x.ents.eraseIdx n }).entryLost id).moveIn id f n
      else (s.svcRead 1 x.part (x.part * 65536 + x.region) (x.spillAddr e.arr) 64).moveIn id f (n + 1)

/-- An entry that a firing would take cannot be read from the engine's store: it comes with the step (flag, its number in num), and is
lost; the oldest spilled entry takes its place (10 R302, R320). -/
def State.storeError (s : State) (id : Nat) : State :=
  let x := s.sump id
  if s.arg.flag && !x.ents.isEmpty then
    ((s.putSump id { x with ents := x.ents.eraseIdx (s.arg.num % min x.ents.length 1024) }).entryLost id).moveIn id x.ents.length 1023
  else s

/-- Entries that a sump's firing takes, and its bucket (10 R313). -/
def Sump.take_ (x : Sump) : Nat := min x.ents.length (x.bsize (x.nb - 1))
def Sump.bucket (x : Sump) : Nat := ((List.range x.nb).find? fun i => decide (x.take_ ≤ x.bsize i)).getD (x.nb - 1)
/-- The firing slot that a sump's firing takes. -/
def Sump.slot (x : Sump) : Nat := ((List.range x.fslots).find? fun i => (tabFind x.slots i).isNone).getD 0

/-- The pages that a sump's firing will write, translated; none where one of them cannot be (10 R313). -/
def State.firePieces (s : State) (id : Nat) : Option (List (Nat × Nat)) :=
  let x := s.sump id
  let size := 64 + 32 * x.bsize x.bucket
  s.engPieces x.part 2 (size / 4096 + 2) (x.fbase + x.slot * x.stride) size

/-- fire(X) (10 R313), of a sump with an entry left. Its clock follows its writes (11 R340), and its tasks start from it (11 R342). -/
def State.fireEntries (s0 : State) (id : Nat) : State :=
  let s := s0
  let x := s.sump id
  let owner := (tabFind s.sumpgr id).getD 0
  let c := x.ents.length
  let n := x.take_
  let j := x.bucket
  let slot := x.slot
  let reason := if x.thresh ≤ c then 0 else if x.aged s.ns then 1 else 2
  let base := x.fbase + slot * x.stride
  let size := 64 + 32 * x.bsize j
  let clk0 := max x.clk (s.part x.part).pclk
  let taken := x.ents.take n
  let list := taken.foldr (fun e acc => e.bytes ++ acc) [] ++ (List.range (x.bsize j - n)).foldr (fun _ acc => maskedRow ++ acc) []
  match s0.firePieces id with
  | none =>
    let pages := (List.range (size / 4096 + 2)).map fun i => if i = 0 then base else (base / 4096 + i) * 4096
    let bad := (pages.filter fun a => decide (a < base + size)).find? fun a => (s.engLoc x.part a 1 2).isNone
    let s1 := match bad with
      | some a => s0.engFormat 1 x.part owner (id / 512 * 4096) a
      | none => s0
    (s1.putSump id { x with st := 2 }).error { part := x.part, cls := 0x1F, src := 1, core := id / 512 * 4096, region := owner, tail := natLe 8 base ++ natLe 2 id }
  | some _ =>
    let (clk1, s1) := (s0.engWriteClk x.part clk0 (base + 64) list).getD (clk0, s0)
    let (clk, s2) := (s1.engWriteClk x.part clk1 base (x.tileRecord id j reason n slot s.ns)).getD (clk1, s1)
    let r := s.firingRegion id
    let s3 := s2.joinUpdate x.part r (id / 512 * 4096) 0 (fieldAt x.template 8 8) (x.btasks j) clk
    let recs := (List.range (x.btasks j)).map fun i =>
      { bytes := x.taskRecord j base i, addr := base, clk := clk, part := x.part, firing := some (id, slot, (s.die (id / 512)).decN), since := s.cycle : Rec }
    let d := s3.die (id / 512)
    let x1 := { x with ents := x.ents.drop n, firings := x.firings + 1, slots := tabPut x.slots slot (x.btasks j, d.decN), waited := 0, clk := clk }
    let s4 := ((s3.putDie (id / 512) { d with ready := d.ready ++ recs }).putSump id x1).moveIn id x.ents.length (1024 - n)
    s4.putSump id ((s4.sump id).tidy s.ns)

/-- fire(X): its pages are translated first, then the entries it takes are read (10 R313, R320). -/
def State.fire (s : State) (id : Nat) : State :=
  let s1 := if (s.firePieces id).isSome then s.storeError id else s
  if (s1.sump id).ents.isEmpty then s1.putSump id ((s1.sump id).tidy s.ns) else s1.fireEntries id

/-- Eligible sumps of a die, in index order. -/
def State.eligibleSumps (s : State) (die : Nat) : List Nat :=
  (s.sumps.filter fun x => x.1 / 512 == die && s.sumpEligible x.1).map Prod.fst

/-- The first of a list under an order. -/
def firstBy (before : Nat → Nat → Bool) : List Nat → Option Nat
  | [] => none
  | a :: r => match firstBy before r with
    | none => some a
    | some b => if before b a then some b else some a

/-- Age of the oldest entry's arrival time. -/
def Sump.oldestTime (x : Sump) : Nat := match x.ents with | e :: _ => e.time | [] => 0

/-- decide() (10 R311). -/
def State.firingDecision (s : State) (die : Nat) : State :=
  let e := s.eligibleSumps die
  let d := s.die die
  let oflow := e.filter fun x => decide (63 ≤ (s.sump x).waited)
  let pick :=
    if oflow.isEmpty then
      firstBy (fun a b =>
        let x := s.sump a
        let y := s.sump b
        if x.cls ≠ y.cls then decide (y.cls < x.cls) else decide (x.oldestTime < y.oldestTime)) e
    else firstBy (fun a b => decide ((s.sump a).overdue < (s.sump b).overdue)) oflow
  match pick with
  | none => s
  | some id =>
    let n := d.decN + 1
    let s1 := (e.filter fun y => y != id).foldl (fun s y =>
      let x := s.sump y
      let w := min (x.waited + 1) 63
      s.putSump y { x with waited := w, overdue := if x.waited < 63 ∧ w = 63 then n else x.overdue }) s
    ((s1.putSump id { s1.sump id with waited := 0 }).putDie die { d with decN := n, decAt := s.ns }).fire id

/-! ### Configuration and status (10 R322-R326) -/

/-- XCFG past its address checks: the state and the status. -/
def State.sumpConfig (s : State) (r id fn : Nat) (desc : List Byte) : State × Nat :=
  let x := s.sump id
  if !s.sumpBelow r id then (s, 1)
  else
    let owner := (tabFind s.sumpgr id).getD 0
    match fn with
    | 0 =>
      if x.st ≠ 0 then (s, 3)
      else if !s.sumpDescOk owner id desc then (s, 2)
      else
        let pin := fieldAt desc 10 1 == 1
        let (s1, st) := if pin then s.pinRange owner (fieldAt desc 40 8) (fieldAt desc 48 8) else (s, 0)
        if st ≠ 0 then (s, 5)
        else (s1.putSump id { st := 1, desc := desc, part := owner / 65536, pinned := pin }, 0)
    | 1 => if x.st = 1 then (s.putSump id { x with st := 2 }, 0) else (s, 3)
    | 2 => if x.st = 2 then (s.putSump id { x with st := 1, waited := 0 }, 0) else (s, 3)
    | 3 => if x.st = 2 then (s.putSump id { x with ents := [], purged := x.purged + x.ents.length, flush := none, due := false }, 0) else (s, 3)
    | _ =>
      if x.st ≠ 2 ∨ x.ents.isEmpty = false then (s, 3)
      else if x.slots.isEmpty = false then (s, 4)
      else
        let s1 := if x.pinned then (s.unpinRange owner (fieldAt x.desc 40 8) (fieldAt x.desc 48 8)).1 else s
        (s1.putSump id { x with st := 0, pinned := false }, 0)

/-- A field of XSTAT (10 R324). -/
def State.sumpField (s : State) (r v field : Nat) : Nat :=
  let x := s.sump v
  match field with
  | 0 => x.ents.length
  | 1 => min x.ents.length 1024
  | 2 => x.ents.length - 1024
  | 3 => x.accepted
  | 4 => x.dups
  | 5 => x.firings
  | 6 => x.lost
  | 7 => x.slots.length * 2 ^ 32 + x.waited * 2 ^ 20 + 8 * b2n x.flush.isSome + 4 * b2n x.isDue + x.st
  | 8 => match x.ents with | e :: _ => s.ns - e.time | [] => 0
  | 9 => x.purged
  | _ => (((s.sumpgr.filter fun y => y.2 == r).map Prod.fst)[v]?).getD (2 ^ 64 - 1)

/-- XDISP: the flush mark (10 R325). -/
def State.sumpFlush (s : State) (id : Nat) : State :=
  let x := s.sump id
  match x.ents.getLast? with
  | some e => if x.st = 0 then s else s.putSump id { x with flush := some e.arr }
  | none => s

/-! ### Prefetch (10 R327, R328) -/

/-- A prefetched line of a unit: the home L2 takes it, and at level 1 the cluster's cache takes a copy under the lease that stands. -/
def State.prefetchLine (s : State) (x : Xpref) (loc n : Nat) : State :=
  let s1 := s.fillL2 loc
  let (w, r) := s1.stamp (lineOf loc)
  if x.lvl = 0 ∨ (s1.copies.any fun c => c.serves x.cluster c.rts loc n) = true then s1 else s1.placeCopy x.cluster loc n w r

/-- XPREF_UNIT: the next 4 KiB unit of a die's first prefetch; one that does not translate is skipped (10 R327), though a malformed page
table is reported (11 R346). -/
def State.prefetchUnit (s : State) (die : Nat) : State :=
  let d := s.die die
  match d.xprefs with
  | [] => s
  | x :: rest =>
    let n := min x.left (4096 - x.addr % 4096)
    let x1 := { x with addr := x.addr + n, left := x.left - n }
    let s1 := s.putDie die { d with xprefs := if x1.left = 0 then rest else x1 :: rest }
    match s.clusterXlat (x.region / 65536) x.cluster x.addr 1 x.priv with
    | .bad c => s1.formatError c 1 (x.region / 65536) x.region (x.cluster * 16) 0 x.addr
    | .ok loc => if isHost loc then s1 else (splitLines loc n 66).foldl (fun s y => s.prefetchLine x y.1 y.2) s1

end Sys2Proof.Machine
end

