-- ==== Sys2Proof/Machine/Sched.lean ====
section
/-! DEFINITION. The die scheduler's placement of tasks (09 R269-R277), tile sources (R285, R286, R290), redundant execution
(13 R407-R409). -/

namespace Sys2Proof.Machine

/-! ### Eligibility (09 R262, R269; 07 R221) -/

/-- What a task needs of a core. `cmask` and `qmask` are a saved task's own numbers. -/
structure Need where
  niche : Nat := 0
  vn    : Nat := 32
  tiles : Nat := 0
  chans : Nat := 0
  cmask : Nat := 0
  qmask : Nat := 0
  alcs  : Nat := 0
  deriving DecidableEq, Repr

/-- A task record's needs (09 R265). -/
def recNeed (b : List Byte) : Need :=
  { niche := fieldAt b 18 1 % 16, vn := 32 * (1 + fieldAt b 18 1 / 16 % 4), tiles := fieldAt b 20 1 % 16, chans := fieldAt b 20 1 / 16 % 8 }

/-- A saved task's needs. -/
def Task.need' (t : Task) : Need :=
  { niche := t.nicheKiB, vn := t.vn, cmask := t.cmask, qmask := t.qmask, alcs := t.handles.length }

/-- Resident tasks of a core but for some. -/
def State.tasksLeft (s : State) (core : Nat) (gone : List Nat) : List Task :=
  ((s.core core).tasks.filter fun t => !gone.contains t).map s.task

/-- Tiles, or channels, of a core that its remaining tasks hold. -/
def heldMask (ts : List Task) (f : Task → Nat) : Nat := ts.foldl (fun m t => m ||| f t) 0

/-- A placement of a region's task on a core would keep the budget of cores of the region and of every ancestor (09 R262). -/
def State.coreBudget (s : State) (r core : Nat) (gone : List Nat) : Bool :=
  (r :: s.ancestors r (s.regions.length + 1)).all fun a =>
    let g := s.region a
    g.bcores == 0xFFFF ||
    (let cs := nodups (core :: (s.tasks.filter fun x => x.2.resident && !gone.contains x.1 && s.covers a x.2.rkey).map fun x => x.2.core)
     decide (cs.length ≤ g.bcores))

/-- A core is eligible for a task of a region (09 R269), were some tasks gone from it. -/
def State.eligible (s : State) (r : Nat) (n : Need) (core : Nat) (gone : List Nat) : Bool :=
  let g := s.region r
  let k := s.core core
  let ts := s.tasksLeft core gone
  isCore core && g.dies / 2 ^ dieOf core % 2 == 1 && !s.clusterOut (clusterOf core) && decide (ts.length < 4) &&
  decide (ts.foldl (fun a t => a + t.vn) n.vn ≤ 512) && decide (ts.foldl (fun a t => a + t.nicheKiB) n.niche ≤ 32) &&
  decide (n.tiles + (bitsOf (heldMask ts Task.cmask) 8).length ≤ 8) && decide (n.chans + (bitsOf (heldMask ts Task.qmask) 4).length ≤ 4) &&
  (heldMask ts Task.cmask &&& n.cmask) == 0 && (heldMask ts Task.qmask &&& n.qmask) == 0 &&
  (n.alcs == 0 || (s.freeAlcoves core r n.alcs).length == n.alcs) &&
  (g.needs % 2 == 0 || capable k.outmask false) && (g.needs / 2 % 2 == 0 || capable k.outmask true) && s.coreBudget r core gone

/-- A region's tasks may be placed: it and every ancestor are ACTIVE (09 R294 PARK). -/
def State.placeable (s : State) (r : Nat) : Bool :=
  (tabFind s.regions r).isSome && (r :: s.ancestors r (s.regions.length + 1)).all fun a => (s.region a).state == 0

/-- Preference among eligible cores (09 R270): a task of the region, banks of the region, fewest residents, lowest COREID. -/
def State.prefer (s : State) (r a b : Nat) : Bool :=
  let same (c : Nat) : Nat := b2n ((s.core c).tasks.any fun t => (s.task t).rkey == r)
  let bank (c : Nat) : Nat := b2n (s.banks.any fun x => x.1 / 16 == c && x.2 == r)
  let n (c : Nat) : Nat := (s.core c).tasks.length
  if same a ≠ same b then decide (same b < same a)
  else if bank a ≠ bank b then decide (bank b < bank a)
  else if n a ≠ n b then decide (n a < n b) else decide (a < b)

/-- The core the scheduler prefers among those of a list that are eligible. -/
def State.bestCore (s : State) (r : Nat) (n : Need) (cores : List Nat) : Option Nat :=
  firstBy (s.prefer r) (cores.filter fun c => s.eligible r n c [])

/-! ### Starting a task (01 R7, R35; 09 R270) -/

/-- The lowest `n` numbers below a width that a mask leaves free, as a mask. -/
def lowestFree (mask width n : Nat) : Nat :=
  ((List.range width).filter fun i => mask / 2 ^ i % 2 == 0).take n |>.foldl (fun m i => m + 2 ^ i) 0

/-- A task starts from a record on a core (01 R7): `run` and `twin` for a redundant run. -/
def State.startTask (s : State) (x : Rec) (core run twin : Nat) : State :=
  let b := x.bytes
  let r := x.part * 65536 + fieldAt b 16 2
  let n := recNeed b
  let k := s.core core
  let ts := s.tasksLeft core []
  let tid := s.ntid
  let cm := lowestFree (heldMask ts Task.cmask) 8 n.tiles
  let qm := lowestFree (heldMask ts Task.qmask) 4 n.chans
  let h := fieldAt b 19 1 / 8 % 2 == 1
  let arg (i : Nat) : W64 :=
    if i < 2 then BitVec.ofNat 64 (fieldAt b (24 + 8 * i) 8) else BitVec.ofNat 64 (intBits 64 (signed 32 (fieldAt b (40 + 4 * (i - 2)) 4)))
  let regs := (tabOf 9 0 fun i => if i = 0 then 0 else arg (i - 1)) ++ (if x.addr % 2 ^ 64 = 0 then [] else [(62, BitVec.ofNat 64 x.addr)])
  let t : Task :=
    { tid := tid, part := x.part, region := fieldAt b 16 2, core := core, status := if h then .await else .ready, pc := fieldAt b 0 8,
      sregs := regs, vn := n.vn, cmask := cm, qmask := qm, nicheKiB := n.niche, pts := max (s.part x.part).pclk x.clk,
      prio := fieldAt b 19 1 % 8, handler := h, fresh := h, placed := s.cycle, tickAt := s.cycle, waitFrom := s.cycle, join := fieldAt b 8 8,
      firing := x.firing, raddr := x.addr, run := run, twin := if run = 0 then 0 else twin, srec := b }
  let k1 := { k with tasks := k.tasks ++ [tid] }
  let k2 := (bitsOf cm 8).foldl (fun k c => k.putTile c { owner := tid }) k1
  let k3 := (bitsOf qm 4).foldl (fun k q => k.putChan q {}) k2
  let s1 := { s with ntid := tid + 1 }.putCore core k3
  let s2 := s1.putTask tid t
  let g := s2.region r
  let s3 := if h then s2.putRegion r { g with handler := tid } else s2
  s3.writeUsage r

/-! ### What waits for placement (09 R271, R276; 10 R316) -/

/-- Where a waiting task comes from. -/
inductive Source where
  | saved (tid : Nat)
  | deque (core idx : Nat)
  | oflow (r : Nat)
  | firing (idx : Nat)
  | list (r : Nat)
  deriving DecidableEq, Repr

/-- A waiting task. -/
structure Waiting where
  src  : Source
  x    : Rec
  r    : Nat
  late : Bool                         -- ranked after the deque, overflow and firing records of its priority
  ord  : Nat                          -- its place among the waiting tasks of its region that rank with it
  dies : Nat                          -- dies it may be placed on
  at_  : List Nat                     -- the core chosen for it, or the two for the runs of a redundant task; empty where there is none
  need : Need
  deriving DecidableEq, Repr

/-- The region key of a record. -/
def Rec.rkey (x : Rec) : Nat := x.part * 65536 + fieldAt x.bytes 16 2

/-- Cores whose deques a core steals from, in order (09 R276): its cluster, then the four mesh neighbours (12 R368). -/
def stealOrder (core : Nat) : List Nat :=
  let d := core / 4096
  let cl := core / 16 % 256
  let mine := (List.range 15).map fun i => core / 16 * 16 + (core + 1 + i) % 16
  let row := cl / 6
  let col := cl % 6
  let near := (if row = 0 then [] else [cl - 6]) ++ (if col = 0 then [] else [cl - 1]) ++ (if col = 5 then [] else [cl + 1]) ++
    (if row = 3 then [] else [cl + 6])
  mine ++ near.foldr (fun c acc => (List.range 16).foldr (fun i acc => (d * 4096 + c * 16 + i) :: acc) acc) []

/-- A list ordered by a relation. -/
def orderBy (before : Nat → Nat → Bool) (l : List Nat) : List Nat :=
  l.foldr (fun a acc => ins a acc) []
where
  /-- Insertion. -/
  ins (a : Nat) : List Nat → List Nat
    | [] => [a]
    | b :: r => if before b a then b :: ins a r else a :: b :: r

/-- The cores for the two runs of a redundant task, of those that may take the first and of all: on different clusters when any
eligible pair exists (13 R407). -/
def State.pairFor (s : State) (x : Rec) (firsts all : List Nat) : List Nat :=
  let n := recNeed x.bytes
  let r := x.rkey
  let cs := orderBy (s.prefer r) (firsts.filter fun c => s.eligible r n c [])
  let second (c : Nat) (f : Nat → Bool) : Option (List Nat) :=
    ((s.startTask x c 1 s.ntid).bestCore r n (all.filter fun y => y != c && f y)).map fun y => [c, y]
  match cs.findSome? fun c => second c fun y => clusterOf y != clusterOf c with
  | some l => l
  | none => (cs.findSome? fun c => second c fun _ => true).getD []

/-- Where a record can be placed now: the preferred core of some (09 R270), or, for a redundant task, a pair of which the first is one of
them. -/
def State.placesFor (s : State) (x : Rec) (firsts : List Nat) (dies : Nat) : List Nat :=
  if !s.placeable x.rkey then []
  else if (s.region x.rkey).redun then s.pairFor x firsts (s.coresOn dies)
  else (s.bestCore x.rkey (recNeed x.bytes) firsts).toList

/-- A waiting record of a source. -/
def State.offer (s : State) (src : Source) (x : Rec) (late : Bool) (ord dies : Nat) (firsts : List Nat) : Waiting :=
  { src := src, x := x, r := x.rkey, late := late, ord := ord, dies := dies, at_ := s.placesFor x firsts dies, need := recNeed x.bytes }

/-- A core finds, at the tail of another's deque, a record of a region that it may take: it ranks with others of the region (09 R276). -/
def State.tailOf (s : State) (die r thief victim : Nat) : Bool :=
  match (s.core victim).deque.getLast? with
  | some x => x.rkey == r && (s.placesFor x [victim] (2 ^ die)).isEmpty && !(s.placesFor x [thief] (2 ^ die)).isEmpty
  | none => false

/-- The cores that may steal the record at the tail of a core's deque: those that find, in the order in which each looks, no other one of
its region before (09 R276). -/
def State.thieves (s : State) (die r victim : Nat) : List Nat :=
  (stealOrder victim).filter fun c => !((stealOrder c).takeWhile fun u => u != victim).any fun u => s.tailOf die r c u

/-- The deque records of a core: each may go to the core itself, and the one at the tail is else stolen by another core (09 R276). -/
def State.dequeWork (s : State) (die core : Nat) : List Waiting :=
  let l := (s.core core).deque
  (l.zip (List.range 16)).map fun (y : Rec × Nat) =>
    let own := s.offer (.deque core y.2) y.1 false 0 (2 ^ die) [core]
    if own.at_.isEmpty && y.2 + 1 == l.length then s.offer (.deque core y.2) y.1 false 2 (2 ^ die) (s.thieves die y.1.rkey core) else own

/-- Cores that a saved run of a redundant task may not be restored on: those of its task's other runs (13 R407). -/
def State.twinCores (s : State) (tid : Nat) : List Nat :=
  let t := s.task tid
  if t.run = 0 then []
  else ((s.tasks.filter fun x => x.2.run != 0 && x.2.twin == t.twin && x.1 != tid).map fun x => x.2.core) ++
    (s.runs.filter fun x => x.twin == t.twin).map RunEnd.core

/-- A saved task that waits (07 R221; 09 R272): it ranks ahead of its region's launch-list records. -/
def State.savedWork (s : State) (tid : Nat) : Waiting :=
  let t := s.task tid
  let dies := (s.region t.rkey).dies
  let cores := (s.coresOn dies).filter fun c => !(s.twinCores tid).contains c
  { src := .saved tid, x := { bytes := t.srec, addr := 0, clk := 0, part := t.part, since := t.since }, r := t.rkey, late := true, ord := 0,
    dies := dies, at_ := if s.placeable t.rkey then (s.bestCore t.rkey t.need' cores).toList else [], need := t.need' }

/-- Every waiting task of a die (09 R271): deque, overflow and firing records, saved tasks, the heads of its launch lists. -/
def State.waiting (s : State) (die : Nat) : List Waiting :=
  let d := s.die die
  let here := s.coresOn (2 ^ die)
  let deques := s.cores.foldr (fun (k : Nat × Core) acc => if dieOf k.1 = die then s.dequeWork die k.1 ++ acc else acc) []
  let oflow := (s.regions.filter fun g => g.2.dies / 2 ^ die % 2 == 1).filterMap fun g =>
    g.2.oflow.head?.map fun x => s.offer (.oflow g.1) x false 1 (2 ^ die) here
  let firing := (d.ready.zip (List.range d.ready.length)).map fun (y : Rec × Nat) => s.offer (.firing y.2) y.1 false 1 (2 ^ die) here
  let saved := (s.tasks.filter fun x => x.2.status == .saved && !x.2.barred && dieOf x.2.core == die).map fun x => s.savedWork x.1
  let lists := (s.regions.filter fun g => firstDie g.2.dies == die).filterMap fun g =>
    g.2.lhold.map fun x => s.offer (.list g.1) x true 1 g.2.dies (s.coresOn g.2.dies)
  deques ++ oflow ++ firing ++ saved ++ lists

/-- Cycles of a quantum (09 R273). -/
def quantum : Nat := 4000000

/-- A task has waited one quantum with no eligible core (09 R273; notes/assumptions/83). -/
def State.overdue (s : State) (w : Waiting) : Bool := decide (w.x.since + quantum ≤ s.cycle)

/-- Ranking (09 R271): priority, then deque, overflow and firing records before the others; then regions in turn after the one of that
priority served last; within a region its own order. -/
def State.outranks (s : State) (die : Nat) (a b : Waiting) : Bool :=
  let p (w : Waiting) : Nat := (s.region w.r).prio
  let turn (w : Waiting) : Nat := (w.r + 2 ^ 18 - tabGet (s.die die).rr 0 (p w) - 1) % 2 ^ 18
  if p a ≠ p b then decide (p b < p a)
  else if a.late ≠ b.late then b.late
  else if turn a ≠ turn b then decide (turn a < turn b) else decide (a.ord < b.ord)

/-- The first of a list under the ranking; the earlier of two that rank alike. -/
def State.topRanked (s : State) (die : Nat) : List Waiting → Option Waiting
  | [] => none
  | a :: r => match s.topRanked die r with
    | none => some a
    | some b => if s.outranks die b a then some b else some a

/-- The placeable task that ranks first. -/
def State.nextPlace (s : State) (die : Nat) : Option Waiting :=
  s.topRanked die ((s.waiting die).filter fun w => !w.at_.isEmpty)

/-- A waiting task begins to wait anew, where it waits. -/
def State.anew (s : State) (die : Nat) (w : Waiting) : State :=
  let from_ (l : List Rec) (i : Nat) : List Rec := match l[i]? with
    | some x => l.set i { x with since := s.cycle }
    | none => l
  match w.src with
  | .saved t => s.putTask t { s.task t with since := s.cycle }
  | .deque c i => s.putCore c { s.core c with deque := from_ (s.core c).deque i }
  | .oflow r => s.putRegion r { s.region r with oflow := (s.region r).oflow.map fun x => { x with since := s.cycle } }
  | .firing i => s.putDie die { s.die die with ready := from_ (s.die die).ready i }
  | .list r => s.putRegion r { s.region r with lhold := (s.region r).lhold.map fun x => { x with since := s.cycle } }

/-- A waiting record leaves the place it waited in. -/
def State.takeFrom (s : State) (die : Nat) (w : Waiting) : State :=
  match w.src with
  | .saved _ => s
  | .deque c i => s.putCore c { s.core c with deque := (s.core c).deque.eraseIdx i }
  | .oflow r => s.putRegion r { s.region r with oflow := (s.region r).oflow.drop 1 }
  | .firing i => s.putDie die { s.die die with ready := (s.die die).ready.eraseIdx i }
  | .list r => s.launchTaken r

/-- A region has had its turn among those of its priority, and every task of the die that has an eligible core begins to wait anew (09 R271,
R273). -/
def State.turnTaken (s : State) (die r : Nat) : State :=
  let able := (s.waiting die).filter fun w => !w.at_.isEmpty
  let d := s.die die
  able.foldl (fun s w => s.anew die w) (s.putDie die { d with rr := tabPut d.rr (s.region r).prio r })

/-- A record placed on the cores chosen for it; a redundant task as two runs at once. A list's next record is looked at once the
placed one has its place, and its role (09 R268). -/
def State.placeRec (s : State) (die : Nat) (w : Waiting) : State :=
  let s0 := s.turnTaken die w.r
  match w.at_ with
  | [c] => (s0.startTask w.x c 0 0).takeFrom die w
  | [c, d] => ((s0.startTask w.x c 1 s.ntid).startTask w.x d 2 s.ntid).takeFrom die w
  | _ => s

/-! ### Pre-emption for priority, quantum and relief (09 R272, R273, R277) -/

/-- Victims' order: lowest region priority first, then the most recently placed. -/
def State.victimBefore (s : State) (a b : Nat) : Bool :=
  let p (t : Nat) : Nat := (s.region (s.task t).rkey).prio
  if p a ≠ p b then decide (p a < p b) else decide ((s.task b).placed < (s.task a).placed)

/-- Save areas are free for some more tasks, beside those already on their way to one; regions that inherit one pool share its areas
(09 R272). -/
def State.areasFor (s : State) (ts : List Nat) : Bool :=
  ts.all fun t =>
    let g := s.region (s.task t).rkey
    let same (x : Task) : Bool := x.part == g.part && (s.region x.rkey).spbase == g.spbase
    let coming := (s.tasks.filter fun x => same x.2 && x.2.resident && x.2.preempt.isSome).length
    let free := ((List.range g.spcount).filter fun i => s.areaFree g.part (g.spbase + areaSize * i)).length
    decide (coming + (ts.filter fun u => same (s.task u)).length ≤ free)

/-- A task that may be pre-empted for another: its region not PINNED, not a handler, no request pending, an area free. -/
def State.victimOk (s : State) (t : Nat) : Bool :=
  let x := s.task t
  !(s.region x.rkey).pinned && !x.handler && x.preempt.isNone && s.areasFor [t]

/-- The sublists of `n` members of a list, those with its earlier members first. -/
def subsets : Nat → List Nat → List (List Nat)
  | 0, _ => [[]]
  | _ + 1, [] => []
  | n + 1, a :: r => (subsets n r).map (a :: ·) ++ subsets (n + 1) r

/-- The fewest victims of a core, of those that `may`, whose going, beside that of tasks already to be pre-empted, makes it
eligible; none of them where those suffice. -/
def State.victimsOn (s : State) (w : Waiting) (core : Nat) (may : Nat → Bool) : Option (List Nat) :=
  let leaving := (s.core core).tasks.filter fun t => (s.task t).preempt.isSome
  let vs := orderBy s.victimBefore ((s.core core).tasks.filter fun t => s.victimOk t && may t)
  (List.range (vs.length + 1)).findSome? fun n =>
    (subsets n vs).find? fun l => s.areasFor l && s.eligible w.r w.need core (leaving ++ l)

/-- The victims over some cores: the fewest, then the lowest priority and the most recently placed first. -/
def State.victims (s : State) (w : Waiting) (cores : List Nat) (may : Nat → Bool) : Option (List Nat) :=
  cores.foldl (fun best c =>
    match best, s.victimsOn w c may with
    | none, x => x
    | some b, some v =>
      if v.length < b.length then some v
      else if v.length = b.length ∧ s.victimBefore (v.headD 0) (b.headD 0) = true then some v else some b
    | some b, none => some b) none

/-- Some resident task may be pre-empted for a waiting one under a rule. -/
def State.hasVictim (s : State) (may : Nat → Bool) : Bool := s.tasks.any fun x => x.2.resident && may x.1 && s.victimOk x.1

/-- The state in which a waiting task still wants a core: for the second run of a redundant task, with the first placed; and the cores that
may take it. -/
def State.wantedBy (s : State) (w : Waiting) : State × List Nat :=
  let cores := s.coresOn w.dies
  match w.src with
  | .saved tid => (s, cores.filter fun c => !(s.twinCores tid).contains c)
  | _ =>
    match (if (s.region w.r).redun then s.bestCore w.r w.need cores else none) with
    | some c => (s.startTask w.x c 1 s.ntid, cores.filter fun x => x != c)
    | none => (s, cores)

/-- Waiting tasks of a die whose region may be placed and that some task may give way to, with no eligible core at all. -/
def State.stuck (s : State) (die : Nat) (may : Waiting → Nat → Bool) : List Waiting :=
  (s.waiting die).filter fun w => s.placeable w.r && w.at_.isEmpty && s.hasVictim (may w) &&
    (let x := s.wantedBy w
     (x.1.bestCore w.r w.need x.2).isNone)

/-- Victims whose going makes a core eligible for a waiting task. -/
def State.victimsFor (s : State) (w : Waiting) (may : Nat → Bool) : Option (List Nat) :=
  let x := s.wantedBy w
  (x.1.victims w x.2 fun t => (tabFind s.tasks t).isSome && may t).filter fun l => !l.isEmpty

/-- The first stuck task, under the ranking, with victims that make a core eligible: its victims. -/
def State.rankedVictims (s : State) (die : Nat) (may : Waiting → Nat → Bool) : Option (List Nat) :=
  (s.topRanked die ((s.stuck die may).filter fun w => (s.victimsFor w (may w)).isSome)).bind fun w => s.victimsFor w (may w)

/-- Victims of a priority pre-emption: tasks of regions of lower priority (09 R272). -/
def State.priorityVictims (s : State) (die : Nat) : Option (List Nat) :=
  s.rankedVictims die fun w t => decide ((s.region (s.task t).rkey).prio < (s.region w.r).prio)

/-- Victims of a quantum expiry: for a task that has waited one quantum, tasks of other regions of equal priority, resident one
quantum (09 R273). -/
def State.quantumVictims (s : State) (die : Nat) : Option (List Nat) :=
  s.rankedVictims die fun w t =>
    let x := s.task t
    s.overdue w && (s.region x.rkey).prio == (s.region w.r).prio && x.rkey != w.r && decide (x.placed + quantum ≤ s.cycle)

/-- A task suspended on an empty JOIN result (09 R277). -/
def Task.joinWait (t : Task) : Bool :=
  t.status == .suspended &&
  match t.hold with
  | some (.regs ds) => t.prods.any fun p => (match p.wait with | .join _ => true | _ => false) && p.dsts.any fun d => ds.contains d
  | _ => false

/-- Victims of JOIN_RELIEF: for a deque or overflow record that no core of the die is eligible for, tasks of its region that have waited
on a JOIN for more than 4,096 cycles and whose going makes a core eligible (09 R277). -/
def State.reliefVictims (s : State) (die : Nat) : Option (List Nat) :=
  s.rankedVictims die fun w t =>
    let x := s.task t
    (match w.src with | .deque _ _ => true | .oflow _ => true | _ => false) &&
    dieOf x.core == die && x.rkey == w.r && x.joinWait && decide (x.waitFrom + 4096 < s.cycle)

/-! ### FORK (09 R275, R283, R288) -/

/-- A push has room: the deque, or the overflow area of its tail record's region. -/
def State.forkRoom (s : State) (core : Nat) : Bool :=
  let k := s.core core
  decide (k.deque.length < 16) ||
  (match k.deque.getLast? with
    | some x => decide ((s.region x.rkey).oflow.length < (s.region x.rkey).ovcap)
    | none => true)

/-- A record pushed at the deque's head, after the join increment; a full deque's tail record moves to its region's overflow area, at the
region's own ring position (DESIGN CHOICE for regions that share an area, notes/assumptions/130). -/
def State.fork (s : State) (tid : Nat) (b : List Byte) (addr : Nat) : State :=
  let t := s.task tid
  let s0 := s.joinUpdate t.part t.rkey t.core tid (fieldAt b 8 8) 1 t.pts
  let k := s0.core t.core
  let x : Rec := { bytes := b, addr := addr, clk := t.pts, part := t.part, since := s.cycle }
  if k.deque.length < 16 then s0.putCore t.core { k with deque := x :: k.deque }
  else
    match k.deque.getLast? with
    | none => s0
    | some y =>
      let g := s0.region y.rkey
      let a := g.ovbase + 64 * (g.ovn % (max g.ovcap 1))
      let s1 := s0.putCore t.core { k with deque := x :: k.deque.dropLast }
      let s2 := s1.putRegion y.rkey { g with oflow := g.oflow ++ [{ y with addr := a }], ovn := g.ovn + 1 }
      s2.svcWrite 3 g.part y.rkey a y.bytes

/-! ### Tile sources (09 R285, R286, R290) -/

/-- The source's kind, counter, limit and list. -/
def Region.srcKind (g : Region) : Nat := fieldAt g.tsrc 0 1
def Region.srcCtr (g : Region) : Nat := fieldAt g.tsrc 8 8
def Region.srcLimit (g : Region) : Nat := fieldAt g.tsrc 16 8
def Region.srcList (g : Region) : Nat := fieldAt g.tsrc 24 8

/-- The mark that nothing is left. -/
def exhausted : W64 := 0xFFFFFFFFFFFFFFFF

/-- A buffer wants values: a task of the region is resident on the core, the source is of a kind, the buffer holds fewer than 8. -/
def State.wantsRefill (s : State) (core r : Nat) : Bool :=
  let d := tabGet (s.core core).draws {} r
  (s.core core).tasks.any (fun t => (s.task t).rkey == r) && (s.region r).srcKind != 0 && !d.done && decide (d.vals.length < 8)

/-- TILE_REFILL (09 R286). The record of a LIST entry that cannot be read holds the entry's own address (DEDUCED, notes/assumptions/131). -/
def State.tileRefill (s : State) (core r : Nat) : State :=
  let g := s.region r
  let k := s.core core
  let d := tabGet k.draws {} r
  let put (s : State) (d : Draw) : State := s.putCore core { s.core core with draws := tabPut (s.core core).draws r d }
  let b := 8 - d.vals.length
  let fail (s : State) (a : Nat) : State :=
    s.error { part := g.part, cls := 0x1F, src := 3, core := core, region := r, tail := natLe 8 a }
  match s.engLoc g.part g.srcCtr 8 3 with
  | none => (fail (put s { d with done := true }) g.srcCtr).engFormat 3 g.part r core g.srcCtr
  | some loc =>
    if s.badAt loc 8 then fail (put s { d with done := true }) g.srcCtr
    else
      let v := memNat s.mem loc 8
      let s1 := (s.homeWrite (s.part g.part).pclk loc (natLe 8 ((v + b) % 2 ^ 64))).2
      let idx := ((List.range b).map fun i => v + i).filter fun i => decide (i < g.srcLimit)
      let got : List (Nat × Option Nat) := idx.map fun i =>
        if g.srcKind = 1 then (i, some i) else (i, (s1.engRead g.part (g.srcList + 8 * i) 8).map leNat)
      let vals := got.filterMap Prod.snd
      let bad := got.filter fun x => x.2.isNone
      let s2 := put s1 { vals := vals.foldr insertNat d.vals, done := decide (g.srcLimit ≤ v + b) || !bad.isEmpty }
      bad.foldl (fun s x => (fail s (g.srcList + 8 * x.1)).svcRead 3 g.part r (g.srcList + 8 * x.1) 8) s2

/-- A value for a NEXT of a region on a core: the lowest of the return list, else of the core's buffer (09 R285). -/
def State.draw (s : State) (core r : Nat) : Option (Nat × State) :=
  let g := s.region r
  let die := dieOf core
  match tabGet g.returns [] die with
  | v :: rest => some (v, s.putRegion r { g with returns := tabPut g.returns die rest })
  | [] =>
    let k := s.core core
    let d := tabGet k.draws {} r
    match d.vals with
    | v :: rest => some (v, s.putCore core { k with draws := tabPut k.draws r { d with vals := rest } })
    | [] => none

/-- A value for a NEXT that has left its core: the return list, else the lowest value in any buffer of the region on the die. -/
def State.drawAny (s : State) (die r : Nat) : Option (Nat × State) :=
  let g := s.region r
  match tabGet g.returns [] die with
  | v :: rest => some (v, s.putRegion r { g with returns := tabPut g.returns die rest })
  | [] =>
    let best := s.cores.foldl (fun (b : Option (Nat × Nat)) c =>
      if dieOf c.1 ≠ die then b
      else match (tabGet c.2.draws {} r).vals, b with
        | v :: _, none => some (v, c.1)
        | v :: _, some (w, x) => if v < w then some (v, c.1) else some (w, x)
        | [], b => b) none
    best.bind fun x => s.draw x.2 r

/-- The source has no value left (09 R286): kind NONE, or a counter at or past its limit. -/
def State.srcDry (s : State) (r : Nat) : Bool :=
  let g := s.region r
  g.srcKind == 0 ||
  (match s.engLoc g.part g.srcCtr 8 1 with
    | some loc => decide (g.srcLimit ≤ memNat s.mem loc 8)
    | none => true)

/-- A core's buffer, its return list and its source are all empty. -/
def State.drawDry (s : State) (core r : Nat) : Bool :=
  let d := tabGet (s.core core).draws {} r
  (tabGet (s.region r).returns [] (dieOf core)).isEmpty && d.vals.isEmpty && (d.done || (s.region r).srcKind == 0)

/-- The same over every buffer of the die. -/
def State.dieDry (s : State) (die r : Nat) : Bool :=
  (tabGet (s.region r).returns [] die).isEmpty && s.srcDry r &&
  s.cores.all fun c => dieOf c.1 != die || (tabGet c.2.draws {} r).vals.isEmpty

/-- No earlier NEXT of the region waits on the core (09 R285: those of one core are served in the order of their commits; the regions'
sources are apart). -/
def State.firstNext (s : State) (core r at_ : Nat) : Bool :=
  !s.tasks.any fun x => x.2.core == core && x.2.rkey == r && x.2.resident && x.2.prods.any fun p =>
    match p.wait with
    | .nextTile _ a false => decide (a < at_)
    | _ => false

/-- A NEXT's value, where one can be drawn now: the value and the state. -/
def State.serveNext (s : State) (tid at_ : Nat) (left : Bool) : Option (W64 × State) :=
  let t := s.task tid
  if left then
    match s.drawAny (dieOf t.core) t.rkey with
    | some (v, s1) => some (BitVec.ofNat 64 v, s1)
    | none => if s.dieDry (dieOf t.core) t.rkey then some (exhausted, s) else none
  else if s.firstNext t.core t.rkey at_ then
    match s.draw t.core t.rkey with
    | some (v, s1) => some (BitVec.ofNat 64 v, s1)
    | none => if s.drawDry t.core t.rkey then some (exhausted, s) else none
  else none

/-- NEXTs of a region that wait on a die, by the cycle of their commits: cycle, TASKID, token, whether the task has left its core. -/
def State.waitingNexts (s : State) (die r : Nat) : List (Nat × Nat × Nat × Bool) :=
  let put (x : Nat × Nat × Nat × Bool) (l : List (Nat × Nat × Nat × Bool)) : List (Nat × Nat × Nat × Bool) :=
    l.takeWhile (fun y => decide (y.1 ≤ x.1)) ++ x :: l.dropWhile fun y => decide (y.1 ≤ x.1)
  s.tasks.foldl (fun l t => if t.2.rkey ≠ r ∨ dieOf t.2.core ≠ die then l else t.2.prods.foldl (fun l p => match p.wait with
    | .nextTile _ a left => put (a, t.1, p.tok, left) l
    | _ => l) l) []

/-- The NEXTs of a region that wait on a die take the values that have come, in the order of their commits (09 R285). -/
def State.serveWaiting (s : State) (die r : Nat) : State :=
  (s.waitingNexts die r).foldl (fun s x => match s.serveNext x.2.1 x.1 x.2.2.2 with
    | some (v, s1) => s1.putTask x.2.1 ((s1.task x.2.1).setWait x.2.2.1 (.ready [v.setWidth 512]))
    | none => s) s

/-! ### Redundant runs (13 R409) -/

/-- The core of a third run: disjoint from both, and on its sump's die where a firing has started it (13 R409; 10 R316); none while tasks
of the region may not be placed (09 R294). -/
def State.thirdCore (s : State) (a b : RunEnd) : Option Nat :=
  let dies := match a.src.firing with
    | some (x, _, _) => 2 ^ (x / 512)
    | none => (s.region a.region).dies
  if s.placeable a.region then s.bestCore a.region (recNeed a.src.bytes) ((s.coresOn dies).filter fun c => c != a.core && c != b.core) else none

/-- Its runs can be compared: none is still running, and two or three have ended. -/
def State.canCompare (s : State) (twin : Nat) : Bool :=
  decide (2 ≤ (s.runsOf twin).length) && !(s.tasks.any fun x => x.2.run != 0 && x.2.twin == twin) &&
  (match s.runsOf twin with
    | [a, b] => a.digest == b.digest || (s.thirdCore a b).isSome
    | _ => true)

/-- The bytes that one list of ranges names and another does not. -/
def onlyIn (l w : List (Nat × Nat)) : List Nat :=
  (l.foldr (fun x acc => (List.range x.2).map (x.1 + ·) ++ acc) []).filter fun a =>
    !w.any fun y => decide (y.1 ≤ a ∧ a < y.1 + y.2)

/-- A location that only the outvoted run wrote is undefined (13 R409): each such byte becomes a free value. -/
def State.undefine (s : State) (part : Nat) (as : List Nat) : State :=
  as.foldl (fun s a => { s.engWrite' part a [Config.freeByte s.free] with free := s.free + 1 }) s

/-- REDUN_COMPARE. -/
def State.redunCompare (s : State) (twin : Nat) : State :=
  match s.runsOf twin with
  | [a, b] =>
    if a.digest = b.digest then s.settleRuns { a with clk := max a.clk b.clk } a.killed
    else
      match s.thirdCore a b with
      | some c => s.startTask a.src c 3 twin
      | none => s
  | [a, b, c] =>
    let rep (s : State) (cls : Nat) : State := s.error { part := c.src.part, cls := cls, src := 0, core := c.core, tid := twin, region := c.region, tail := [] }
    let lost := if c.digest = a.digest then b else a
    if c.digest = a.digest ∨ c.digest = b.digest then
      rep ((s.settleRuns c c.killed).undefine c.src.part (onlyIn lost.written c.written)) 0x1C
    else rep (s.settleRuns c true) 0x0E
  | _ => s

end Sys2Proof.Machine
end

