-- ==== Sys2Proof/Machine/SlotTable.lean ====
section
/-! DEFINITION. The slot table, the current group and the peer table (14 R425-R429). -/

namespace Sys2Proof.Machine

/-! ### The table's fields (14 R425) -/

/-- Slot count, generation, activation time. -/
def tbSlots (tb : List Byte) : Nat := fieldAt tb 4 1
def tbGen (tb : List Byte) : Nat := fieldAt tb 5 1
def tbStart (tb : List Byte) : Nat := fieldAt tb 8 8
/-- A field of slot i. -/
def tbField (tb : List Byte) (i off n : Nat) : Nat := fieldAt tb (64 + 384 * i + off) n
/-- Duration and guard of slot i in ns. -/
def tbDur (tb : List Byte) (i : Nat) : Nat := tbField tb i 0 4
def tbGuard (tb : List Byte) (i : Nat) : Nat := if tbField tb i 4 2 = 0 then 500 else tbField tb i 4 2
/-- This package's coordinates in slot i, and the group's size. -/
def tbCoord (tb : List Byte) (i : Nat) : Nat := tbField tb i 6 2
def tbGroupSize (tb : List Byte) (i : Nat) : Nat := tbField tb i 8 1
/-- The entry of port j in slot i. -/
def tbPort (tb : List Byte) (i j : Nat) : Nat := tbField tb i (64 + 4 * j) 4
/-- A valid entry's flag, peer package, peer port, escape dimension and direction. -/
def peValid (e : Nat) : Bool := e / 2 ^ 31 % 2 == 1
def pePkg (e : Nat) : Nat := e / 2 ^ 16 % 2 ^ 12
def pePort (e : Nat) : Nat := e / 2 ^ 12 % 16
def peDim (e : Nat) : Nat := e / 2 ^ 10 % 4
def peDir (e : Nat) : Nat := e / 2 ^ 9 % 2
/-- Group members of slot i: package and coordinates. -/
def tbGroup (tb : List Byte) (i : Nat) : List (Nat × Nat) :=
  (List.range (tbGroupSize tb i)).map fun m => (tbField tb i (128 + 4 * m) 4 / 2 ^ 16 % 2 ^ 12, tbField tb i (128 + 4 * m) 4 % 2 ^ 12)
/-- Packages of slot i's group. -/
def tbPkgs (tb : List Byte) (i : Nat) : List Nat := (tbGroup tb i).map Prod.fst

/-- The cycle: the sum of the durations. -/
def tbCycle (tb : List Byte) : Nat := (List.range (tbSlots tb)).foldl (fun a i => a + tbDur tb i) 0
/-- Start of slot i within the cycle. -/
def tbOffset (tb : List Byte) (i : Nat) : Nat := (List.range i).foldl (fun a j => a + tbDur tb j) 0

/-- A list holds no value twice. -/
def distinct (l : List Nat) : Bool :=
  match l with
  | [] => true
  | a :: r => !r.contains a && distinct r

/-- A table passes the checks of 14 R425 and R426 for a package. -/
def tableOk (own : Nat) (tb : List Byte) : Bool :=
  let s := tbSlots tb
  fieldAt tb 0 4 == 0x00060001 && decide (1 ≤ s ∧ s ≤ 16) && fieldAt tb 6 2 == 0 && fieldAt tb 16 48 == 0 &&
  tb.length == 64 + 384 * s &&
  (List.range s).all fun i =>
    let ports := ((List.range 16).map fun j => tbPort tb i j).filter peValid
    let esc := (ports.filter fun e => peDim e != 3).map fun e => 2 * peDim e + peDir e
    decide (2000 ≤ tbDur tb i ∧ tbDur tb i ≤ 1000000) && (tbField tb i 4 2 == 0 || decide (100 ≤ tbField tb i 4 2 ∧ tbField tb i 4 2 ≤ 10000)) &&
    decide (tbCoord tb i < 2 ^ 12) && decide (1 ≤ tbGroupSize tb i ∧ tbGroupSize tb i ≤ 64) && tbField tb i 9 55 == 0 &&
    (List.range 16).all (fun j => tbPort tb i j / 2 ^ 28 % 8 == 0 && tbPort tb i j % 2 ^ 9 == 0) &&
    (List.range (tbGroupSize tb i)).all (fun m => tbField tb i (128 + 4 * m) 4 / 2 ^ 28 == 0 && tbField tb i (128 + 4 * m) 4 / 2 ^ 12 % 16 == 0) &&
    tbField tb i (128 + 4 * tbGroupSize tb i) (256 - 4 * tbGroupSize tb i) == 0 &&
    (tbGroup tb i).contains (own, tbCoord tb i) && distinct (tbPkgs tb i) && distinct ((tbGroup tb i).map Prod.snd) &&
    ports.all (fun e => (tbPkgs tb i).contains (pePkg e)) && distinct esc

/-! ### Slots in time (14 R427, R428) -/

/-- The slot current at an FTIME at or after T0, with the FTIME at which it began. -/
def slotAt (tb : List Byte) (ft : Nat) : Option (Nat × Nat) :=
  let c := tbCycle tb
  if ft < tbStart tb ∨ c = 0 then none
  else
    let x := (ft - tbStart tb) % c
    ((List.range (tbSlots tb)).find? fun i => decide (tbOffset tb i ≤ x ∧ x < tbOffset tb i + tbDur tb i)).map fun i =>
      (i, ft - x + tbOffset tb i)

/-- The current group: empty while no slot is current or the module is not locked (14 R424, R428). -/
def State.group (s : State) : List (Nat × Nat) :=
  match s.fab.slot with
  | some i => if s.fab.locked then tbGroup s.fab.table i else []
  | none => []

/-- A package is in the current group. -/
def State.grouped (s : State) (pkg : Nat) : Bool := s.group.any fun x => x.1 == pkg

/-- Some slot of the table in force groups two packages. -/
def State.someSlot (s : State) (a b : Nat) : Bool :=
  (List.range (tbSlots s.fab.table)).any fun i => (tbPkgs s.fab.table i).contains a && (tbPkgs s.fab.table i).contains b

/-- No slot of the table in force groups a package with this one (14 R433). -/
def State.neverGrouped (s : State) (pkg : Nat) : Bool := !s.someSlot pkg s.fab.pkg

/-- FTIME at which the current slot ends. -/
def State.slotEnd (s : State) : Nat :=
  match s.fab.slot with
  | some i => s.fab.start + tbDur s.fab.table i
  | none => 0

/-- A partition's peer-table entry has a flag: 0 remote operations, 1 tree peering, 2 scheduled sends (14 R428). -/
def State.peerFlag (s : State) (p pkg flag : Nat) : Bool :=
  match tabFind (s.part p).peers pkg with
  | some x => x.2 / 2 ^ flag % 2 == 1
  | none => false

/-! ### Injection (14 R420, R429, R431) -/

/-- A circuit of a port is up. -/
def Port.up (p : Port) : Bool := p.st == 2 || p.st == 3

/-- A port's peer in the next slot is the one it has in the current slot, which is not always so for an invalid entry (14 R427). -/
def State.samePeer (s : State) (j : Nat) : Bool :=
  match s.fab.slot with
  | none => false
  | some i =>
    let e := tbPort s.fab.table i j
    let f := tbPort s.fab.table ((i + 1) % max (tbSlots s.fab.table) 1) j
    peValid f && pePkg e == pePkg f && pePort e == pePort f

/-- A port's open window has ended by FTIME: flight + 40 ns before the end of its slot, unless its peer stays (14 R427). -/
def State.windowEnded (s : State) (j : Nat) : Bool := decide (s.slotEnd ≤ s.ftime + (s.port j).flight + 40) && !s.samePeer j

/-- Parts of a nanosecond in which a port's lanes count: a flit of 1024 bits takes 1024 / (224 A) ns on A wavelengths (14 R419). -/
def laneUnit : Nat := 5880
/-- What a flit takes on A wavelengths, in those parts: eight beats, each 128 bits at 224 Gb/s. -/
def flitTime (a : Nat) : Nat := 26880 / max a 1

/-- A port may start a flit now: its circuit is up, its open window has not ended, and its lanes are free within this nanosecond. -/
def State.portOpen (s : State) (j : Nat) : Bool :=
  let p := s.port j
  p.up && !p.closed && !p.down && !s.windowEnded j && decide (p.free_ < laneUnit * (s.ftime + 1))

/-- The first adaptive channel of a class that the peer has not stopped, and the escape channel (14 R429). -/
def Port.adaptive (p : Port) (cls : Nat) : Option Nat := (List.range 3).find? fun v => p.stops / 2 ^ (4 * cls + v) % 2 == 0
def Port.escape (p : Port) (cls : Nat) : Bool := p.stops / 2 ^ (4 * cls + 3) % 2 == 0

/-- The escape port toward a package of the current group: that of the first coordinate that differs, in its direction (14 R429). -/
def State.escPort (s : State) (dst : Nat) : Option Nat :=
  match s.fab.slot, s.group.find? fun x => x.1 == dst with
  | some i, some x =>
    let co (c k : Nat) : Nat := c / 16 ^ k % 16
    let own := tbCoord s.fab.table i
    match (List.range 3).find? fun k => co own k != co x.2 k with
    | none => none
    | some k =>
      let dir := if co own k < co x.2 k then 1 else 0
      (List.range 16).find? fun j =>
        let e := tbPort s.fab.table i j
        peValid e && peDim e == k && peDir e == dir
  | _, _ => none

/-- The ports whose peer lies on a shortest path to a package through the current slot's group graph (14 R429): those whose peer it is,
or else those whose peer is nearest to it. -/
def State.shortPorts (s : State) (dst : Nat) : List Nat :=
  match s.fab.slot with
  | none => []
  | some i =>
    let valid := (List.range 16).filter fun j => peValid (tbPort s.fab.table i j)
    let peer (j : Nat) : Nat := pePkg (tbPort s.fab.table i j)
    match valid.filter fun j => peer j == dst with
    | [] =>
      let far (j : Nat) : Nat := Config.groupHops (tbGen s.fab.table) i (peer j) dst
      valid.filter fun j => valid.all fun k => decide (far j ≤ far k)
    | l => l

/-- A packet has a next hop in the current slot: a port for the rest of its way. -/
def State.hasHop (s : State) (x : FPkt) : Bool :=
  s.grouped x.dst && ((!x.esc && !(s.shortPorts x.dst).isEmpty) || (s.escPort x.dst).isSome)

/-- The port, and the channel of its class, by which a packet's next flit leaves: those of its first flit; else an adaptive channel of a
port on a shortest path, or the escape channel. A packet of two or more hops is injected only while at least 4,000 ns of the slot remain
(14 R429, R431). `esc`: it is in the escape channel; `through`: it was injected elsewhere. -/
def State.outPort (s : State) (cls dst : Nat) (esc through : Bool) (hop : Option (Nat × Nat)) : Option (Nat × Nat) :=
  match hop with
  | some (j, v) => if s.portOpen j && (s.port j).stops / 2 ^ (4 * cls + v) % 2 == 0 then some (j, v) else none
  | none =>
    let long (j : Nat) : Bool := through || (s.port j).peer == dst || decide (s.ftime + 4000 ≤ s.slotEnd)
    let free := if esc then [] else (s.shortPorts dst).filterMap fun j =>
      if s.portOpen j && long j then ((s.port j).adaptive cls).map fun v => (j, v) else none
    match free with
    | x :: _ => some x
    | [] => match s.escPort dst with
      | some j => if s.portOpen j && (s.port j).escape cls && long j then some (j, 3) else none
      | none => none

/-- A packet's next flit: 128 bytes, the last padded. -/
def FPkt.flit (x : FPkt) : List Byte := padTo 128 ((x.data.drop (128 * x.pos)).take 128)

/-- A packet's next flit is its last. -/
def FPkt.last (x : FPkt) : Bool := decide (x.data.length ≤ 128 * (x.pos + 1))

/-- The wavelengths of a flit's beats: beat b of the f-th flit on position (8f + b) mod A (14 R420). -/
def beatLanes (map : List Nat) (f : Nat) : List Nat := (List.range 8).map fun b => map.getD ((8 * f + b) % max map.length 1) 0

/-- The map a port sends its next flit under: the one the peer announced, from its flit on. -/
def Port.takeMap (p : Port) : Port :=
  match p.tnew with
  | some (f, m) => if f ≤ p.tx then { p with tmap := m, tnew := none } else p
  | none => p

/-- A port's lanes are taken for a flit that starts within this nanosecond. -/
def Port.occupy (p : Port) (now : Nat) : Port := { p with free_ := max (laneUnit * now) p.free_ + flitTime p.tmap.length }

/-- A flit sent on a port on a channel of a class, and of a queue of the scheduled class, for a package: numbered in sequence, its beats on
the positions of the stripe map; the last 256 are kept (14 R420, R421, R432). -/
def Port.send (p : Port) (now cls v q dst src : Nat) (f : List Byte) : Port :=
  let p := p.takeMap.occupy now
  let x : SentFlit := { seq := p.tx, chan := 4 * cls + v, dst := dst, src := src, data := f, on := beatLanes p.tmap p.tx }
  { p with tx := p.tx + 1, sent := (p.sent ++ [x]).drop (p.sent.length + 1 - 256), cls := cls, sq := if cls = 3 then q else p.sq }

/-- A flit that the peer asks for again is among those kept. -/
def Port.keeps (p : Port) (f : Nat) : Bool := p.sent.any fun x => x.seq == f

/-- A kept flit sent again (14 R421). -/
def Port.resend (p : Port) (now f : Nat) : Port :=
  let p := p.takeMap.occupy now
  { p with sent := p.sent.map fun x => if x.seq = f then { x with times := x.times + 1, on := beatLanes p.tmap f } else x }

/-- A packet waits to be injected (14 R431). A package keeps the order of the packets to a destination. -/
def State.emit (s : State) (x : FPkt) : State := { s with outbox := s.outbox ++ [x] }

/-! ### Time in which a package was in the current group (14 R435) -/

/-- Nanoseconds of FTIME before an instant, counted from T0, in slots that group a package. -/
def groupedBefore (tb : List Byte) (pkg ft : Nat) : Nat :=
  let c := tbCycle tb
  if c = 0 ∨ ft < tbStart tb then 0
  else
    let k := (ft - tbStart tb) / c
    let x := (ft - tbStart tb) % c
    (List.range (tbSlots tb)).foldl (fun n i =>
      if (tbPkgs tb i).contains pkg then n + k * tbDur tb i + min (tbDur tb i) (x - tbOffset tb i) else n) 0

/-- Nanoseconds in which a package has been in the current group, until an instant; none while the module was not locked. -/
def State.groupedUntil (s : State) (pkg ft : Nat) : Nat :=
  tabGet s.fab.past 0 pkg + if s.fab.locked then groupedBefore s.fab.table pkg ft - groupedBefore s.fab.table pkg s.fab.base else 0

/-- The same until now. -/
def State.groupedTime (s : State) (pkg : Nat) : Nat := s.groupedUntil pkg s.ftime

/-- The packages of a table. -/
def tbAll (tb : List Byte) : List Nat := nodups ((List.range (tbSlots tb)).foldr (fun i acc => tbPkgs tb i ++ acc) [])

/-- The table in force, or lock, ends at an instant: what it has counted stays. -/
def State.bankGroups (s : State) (ft : Nat) : State :=
  { s with fab := { s.fab with past := (tbAll s.fab.table).foldl (fun t k => tabPut t k (s.groupedUntil k ft)) s.fab.past, base := max s.fab.base ft } }

end Sys2Proof.Machine
end

