-- ==== Sys2Proof/Machine/TreeOps.lean ====
section
/-! DEFINITION. Collective trees (12 R363-R392; 14 R441): paths, combining, delivery, edits, freeze, save and restore. -/

namespace Sys2Proof.Machine

/-! ### The descriptor (12 R365, R366) -/

def Tree.kind (t : Tree) : Nat := fieldAt t.desc 0 1 % 4
def Tree.op (t : Tree) : Nat := fieldAt t.desc 1 1
def Tree.wire (t : Tree) : Nat := fieldAt t.desc 2 1
def Tree.rq (t : Tree) (level : Nat) : Bool := fieldAt t.desc 3 1 / 2 ^ level % 2 == 1
def Tree.n (t : Tree) : Nat := fieldAt t.desc 4 1
def Tree.segsize (t : Tree) : Nat := fieldAt t.desc 8 4
def Tree.dslots (t : Tree) : Nat := fieldAt t.desc 14 2
def Tree.doff (t : Tree) : Nat := fieldAt t.desc 24 4
def Tree.blocks (t : Tree) : Nat := fieldAt t.desc 28 4
/-- Chunks of a segment (12 R375). -/
def Tree.nchunks (t : Tree) : Nat := if t.op = 8 then t.blocks else t.segsize / 256

/-- Package and core of a member word (12 R366). -/
def memberPkg (w : Nat) : Nat := w / 2 ^ 20 % 2 ^ 12
def memberCore (w : Nat) : Nat := w / 2 ^ 18 % 4 * 4096 + w % 512

/-- A member list's words. -/
def wordsOf (bs : List Byte) (n : Nat) : List Nat := (List.range n).map fun i => fieldAt bs (4 * i) 4

/-! ### Paths (12 R368-R370)

A node is a number: a core's COREID; 65536 + cluster for a cluster router; 131072 + die x 256 + position for a mesh router; 196608 + die
for a hub; 262144 + package for another package. -/

/-- The hub of a die. -/
def hubOf (die : Nat) : Nat := 196608 + die

/-- The next node on the way up to a top hub. -/
def upOf (top x : Nat) : Option Nat :=
  if x = top then none
  else if x < 65536 then some (65536 + x / 16)
  else if x < 131072 then some (x + 65536)
  else if x < 196608 then
    let p := x % 256
    if p % 6 ≠ 0 then some (x - 1) else if p ≠ 0 then some (x - 6) else some (hubOf (x / 256 % 4))
  else some top

/-- The nodes from a node up to the top hub. -/
def pathFrom (top : Nat) : Nat → Nat → List Nat
  | 0, x => [x]
  | n + 1, x => match upOf top x with
    | none => [x]
    | some y => x :: pathFrom top n y

/-- A member's path: its core, then routers. -/
def pathOf (top core : Nat) : List Nat := pathFrom top 16 core

/-- The level of a node (12 R368, R370): a package's top hub stands at level 4 when the tree spans packages. -/
def nodeLevel (spans : Bool) (top x : Nat) : Nat :=
  if x < 65536 then 0 else if x < 131072 then 1 else if x < 196608 then 2 else if spans && x == top then 4 else 3

/-- Members of a membership on this package: index and core. -/
def State.localMembers (s : State) (m : Membership) : List (Nat × Nat) :=
  ((List.range m.mems.length).zip m.mems).filterMap fun x =>
    if memberPkg x.2 = s.fab.pkg then some (x.1, memberCore x.2) else none

/-- Packages of the other members, without repeats. -/
def State.farPkgs (s : State) (m : Membership) : List Nat := nodups ((m.mems.map memberPkg).filter fun p => p != s.fab.pkg)

/-- The root's word. -/
def Membership.rootWord (m : Membership) : Nat := m.mems.getD m.root 0
/-- The root is on this package. -/
def State.rootHere (s : State) (m : Membership) : Bool := memberPkg m.rootWord == s.fab.pkg

/-- The top node on this package (12 R369, R370): the hub of the root's die, or, where the root is elsewhere, of the lowest-numbered die
with a member. -/
def State.topOf (s : State) (m : Membership) : Nat :=
  if s.rootHere m then hubOf (dieOf (memberCore m.rootWord))
  else hubOf (((s.localMembers m).map fun x => dieOf x.2).foldl min 3)

/-- The routers of a membership on this package (12 R369). -/
def State.routersOf (s : State) (m : Membership) : List Nat :=
  let top := s.topOf m
  nodups (top :: (s.localMembers m).foldr (fun x acc => (pathOf top x.2).drop 1 ++ acc) [])

/-- The membership of a segment (12 R381). -/
def Tree.memberOf (t : Tree) (g : Nat) : Membership :=
  let all := t.ships ++ t.pending.toList
  match all.getLast? with
  | none => { e := 0, root := 0, mems := [] }
  | some _ => ((all.filter fun m => decide (m.e ≤ g)).getLast?).getD (all.headD { e := 0, root := 0, mems := [] })

/-- The newest membership. -/
def Tree.newest (t : Tree) : Membership := (t.ships ++ t.pending.toList).getLastD { e := 0, root := 0, mems := [] }

/-- Memberships that stand below another whose boundary is at or below c are no longer in force (12 R384). -/
def dropOld (c : Nat) : List Membership → List Membership
  | a :: b :: r => if b.e ≤ c then dropOld c (b :: r) else a :: b :: r
  | l => l

/-- Memberships in force. -/
def Tree.force (t : Tree) : List Membership := dropOld t.c (t.ships ++ t.pending.toList)

/-- Indices of a membership that contribute to a segment (12 R371, R372). -/
def Tree.contributors (t : Tree) (m : Membership) : List Nat := if t.kind = 2 then [m.root] else List.range m.mems.length
/-- Indices of a membership that receive (12 R366). -/
def Tree.receivers (t : Tree) (m : Membership) : List Nat := if t.kind = 0 then [m.root] else List.range m.mems.length

/-- Cores of this package that receive a segment. -/
def State.recvCores (s : State) (t : Tree) (m : Membership) : List Nat :=
  (s.localMembers m).filterMap fun x => if (t.receivers m).contains x.1 then some x.2 else none

/-- The mask of the contributions that come up to a node of this package for a segment, those of a restored partial left out. -/
def State.expected (s : State) (t : Tree) (m : Membership) (g node : Nat) : Nat :=
  let top := s.topOf m
  let base := tabGet t.base 0 g
  let here := (s.localMembers m).filterMap fun x => if (pathOf top x.2).contains node then some x.1 else none
  let far := if node = top ∧ s.rootHere m = true then
      (List.range m.mems.length).filter fun i => memberPkg (m.mems.getD i 0) != s.fab.pkg else []
  ((t.contributors m).filter fun i => (here.contains i || far.contains i) && base / 2 ^ i % 2 == 0).foldl (fun a i => a + 2 ^ i) 0

/-- The node below a node on a path. -/
def below (p : List Nat) (node : Nat) : Option Nat := (p.takeWhile fun x => x != node).getLast?

/-- The upward inputs of a node in a membership (12 R369). -/
def State.upInputs (s : State) (t : Tree) (m : Membership) (node : Nat) : List Nat :=
  let top := s.topOf m
  let mine := (s.localMembers m).filterMap fun x =>
    let p := pathOf top x.2
    if (t.contributors m).contains x.1 && p.contains node then below p node else none
  nodups mine ++ (if node = top ∧ s.rootHere m = true ∧ t.kind ≠ 2 then (s.farPkgs m).map (262144 + ·) else [])

/-- The downward outputs of a node in a membership that lead to receivers (12 R369). -/
def State.downOutputs (s : State) (t : Tree) (m : Membership) (node : Nat) : List Nat :=
  let top := s.topOf m
  let mine := (s.localMembers m).filterMap fun x =>
    let p := pathOf top x.2
    if (t.receivers m).contains x.1 && p.contains node then below p node else none
  nodups mine ++
    (if node = top ∧ s.rootHere m = true ∧ t.kind ≠ 0 then (s.farPkgs m).map (262144 + ·) else [])

/-! ### Validity (12 R367; 14 R441) -/

/-- The descriptor's own fields are valid (12 R367, R373). -/
def treeDescOk (d : List Byte) : Bool :=
  let kind := fieldAt d 0 1
  let op := fieldAt d 1 1
  let wire := fieldAt d 2 1
  let rq := fieldAt d 3 1
  let n := fieldAt d 4 1
  let seg := fieldAt d 8 4
  let b := fieldAt d 28 4
  fieldAt d 5 1 == 0 && fieldAt d 34 30 == 0 && decide (kind ≤ 2) && decide (op ≤ 9) && (kind == 2) == (op == 9) &&
  decide (wire ≤ 1) && (wire == 0 || op == 0) && decide (rq < 32) && (rq == 0 || (op == 0 && wire == 1) || op == 8) &&
  (if op = 8 then decide (2 ≤ n ∧ n ≤ 8) && b != 0 && seg == (4 * b * n + 2 * b + 255) / 256 * 256 else n == 0 && b == 0) &&
  decide (seg % 256 = 0 ∧ 256 ≤ seg ∧ seg ≤ 65536) && decide (1 ≤ fieldAt d 14 2 ∧ fieldAt d 14 2 ≤ 64) &&
  decide (1 ≤ fieldAt d 12 2 ∧ fieldAt d 12 2 ≤ 1024) && fieldAt d 24 4 % 64 == 0

/-- A member list is valid against a descriptor (12 R367). -/
def State.membersOk (s : State) (p : Nat) (t : Tree) (m : Membership) : Bool :=
  decide (1 ≤ m.mems.length ∧ m.mems.length ≤ 1024) && decide (m.root < m.mems.length) && distinct m.mems &&
  (m.mems.all fun w => w / 2 ^ 9 % 2 ^ 9 == 0 && decide (w / 16 % 32 < 24) &&
    (memberPkg w != s.fab.pkg ||
      ((s.part p).dies / 2 ^ dieOf (memberCore w) % 2 == 1 && !s.clusterOut (clusterOf (memberCore w))))) &&
  decide (t.doff + t.dslots * t.segsize ≤ 2 ^ 19) &&
  (s.recvCores t m).all fun c =>
    (List.range ((t.doff + t.dslots * t.segsize - 1) / 32768 + 1 - t.doff / 32768)).all fun i =>
      match s.bankOwner c (t.doff / 32768 + i) with
      | some o => s.covers o t.region
      | none => false

/-- Members on other packages are allowed (12 R370; 14 R441). -/
def State.peersOk (s : State) (p : Nat) (m : Membership) : Bool :=
  (s.farPkgs m).all fun k => s.peerFlag p k 1 && s.someSlot k (memberPkg m.rootWord)

/-- Trees with a slot in a router (12 R371). -/
def State.slotsUsed (s : State) (x : Nat) : Nat := (s.trees.filter fun t => (tabFind t.2.slots x).isSome).length

/-- A slot can be reserved in every router of a list where the tree has none yet. -/
def State.slotsFree (s : State) (t : Tree) (l : List Nat) : Bool :=
  l.all fun x => (tabFind t.slots x).isSome || decide (s.slotsUsed x < 256)

/-- The btree budget admits one more tree of a region (09 R262; 12 R363). -/
def State.treeBudget (s : State) (r : Nat) : Bool :=
  (r :: s.ancestors r (s.regions.length + 1)).all fun a =>
    decide ((s.trees.filter fun t => t.2.st != 0 && s.covers a t.2.region).length < (s.region a).btree)

/-! ### Handles (12 R364, R388) -/

/-- The key of a handle. -/
def treeKey (p h : Nat) : Nat := p * 65536 + h

/-- A task of a region may name a tree. -/
def State.treeUsable (s : State) (r key : Nat) : Bool := (s.tree key).st != 0 && s.covers (s.tree key).region r
/-- A privileged instruction of a region may name a tree. -/
def State.treeBelow (s : State) (r key : Nat) : Bool := (s.tree key).st != 0 && s.covers r (s.tree key).region

/-- The result word: code, boundary, handle. -/
def treeWord (code bound handle : Nat) : W64 := BitVec.ofNat 64 (code * 2 ^ 56 + bound * 2 ^ 16 + handle)

/-- A membership read from memory: `none` where it cannot be read. -/
def State.readMembers (s : State) (p addr n : Nat) : Option (List Nat) :=
  if addr % 4 ≠ 0 then none else (s.engRead p addr (4 * n)).map fun b => wordsOf b n

/-! ### TCREATE, TDESTROY, TEDIT (12 R381, R382, R389) -/

/-- TCREATE by a task of region `r`: the state and the result word. -/
def State.treeCreate (s : State) (r addr : Nat) : State × W64 :=
  let p := r / 65536
  match (if addr % 64 = 0 then s.engRead p addr 64 else none) with
  | none => (s.structFormat 1 p r addr 64, treeWord 5 0 0)
  | some d =>
    let owner := p * 65536 + fieldAt d 32 2
    match s.readMembers p (fieldAt d 16 8) (fieldAt d 12 2) with
    | none => (s.structFormat 1 p r (fieldAt d 16 8) (4 * fieldAt d 12 2), treeWord 5 0 0)
    | some ws =>
      let m : Membership := { e := 0, root := fieldAt d 6 2, mems := ws }
      let t : Tree := { st := 1, desc := d, region := owner, ships := [m] }
      if (tabFind s.regions owner).isNone || !s.covers r owner then (s, treeWord 5 0 0)
      else if !treeDescOk d || !s.membersOk p t m then (s, treeWord 1 0 0)
      else if !s.treeBudget owner then (s, treeWord 2 0 0)
      else match (List.range 65536).find? fun h => (s.tree (treeKey p h)).st == 0 with
        | none => (s, treeWord 3 0 0)
        | some h =>
          let rs := s.routersOf m
          if !s.slotsFree t rs then (s, treeWord 4 0 0)
          else if !s.peersOk p m then (s, treeWord 9 0 0)
          else (s.putTree (treeKey p h) { t with slots := rs.foldl (fun x y => tabPut x y false) [] }, treeWord 0 0 h)

/-- TWAIT's value (12 R391). -/
def twaitWord (g code : Nat) : VReg := BitVec.ofNat 512 (g * 2 ^ 32 + code)

/-- A packet of this package is a level-4 packet of a tree. -/
def FPkt.ofTree (x : FPkt) (own key : Nat) : Bool := x.cls == 2 && x.src == own && fieldAt x.data 0 4 == key

/-- TDESTROY on a tree that may be named. -/
def State.treeDestroy (s : State) (key : Nat) : State :=
  let tell (t : Task) : Task := t.prods.foldl (fun t p => match p.wait with
    | .twait k _ g => if k = key then t.setWait p.tok (.ready [twaitWord g 2]) else t
    | _ => t) t
  { s with
    trees := tabDel s.trees key, outbox := s.outbox.filter fun x => !(x.ofTree s.fab.pkg key && x.pos == 0), transit := s.transit.filter fun x => !(x.ofTree s.fab.pkg key && x.pos == 0)
    refills := s.refills.filter fun x => x.1 != key, tasks := s.tasks.map fun (x : Nat × Task) => (x.1, tell x.2) }

/-- Routers that no membership in force uses are released (12 R382). -/
def State.dropRouters (s : State) (key : Nat) : State :=
  let t := s.tree key
  let need := t.force.foldr (fun x acc => s.routersOf x ++ acc) []
  s.putTree key { t with slots := t.slots.filter fun x => need.contains x.1 }

/-- The segment a word posts next: a member added by an edit starts at the edit's boundary (12 R372, R382). -/
def Tree.nextOf (t : Tree) (w : Nat) : Nat := tabGet t.next 0 w

/-- TEDIT's edit record applied to an ACTIVE tree: the state and the result word. -/
def State.treeEdit (s : State) (key h addr : Nat) : State × W64 :=
  let p := key / 65536
  let t := s.tree key
  match (if addr % 8 = 0 then s.engRead p addr 16 else none) with
  | none => (s.structFormat 1 p t.region addr 16, treeWord 5 0 h)
  | some b =>
    match s.readMembers p (fieldAt b 8 8) (fieldAt b 4 2) with
    | none => (s.structFormat 1 p t.region (fieldAt b 8 8) (4 * fieldAt b 4 2), treeWord 5 0 h)
    | some ws =>
      let e0 := fieldAt b 0 4
      let e := if e0 = 0 then t.bound else e0
      let m : Membership := { e := e, root := fieldAt b 6 2, mems := ws }
      if t.st ≠ 1 then (s, treeWord 6 0 h)
      else if !s.membersOk p t m then (s, treeWord 1 0 h)
      else if e < t.bound then (s, treeWord 7 0 h)
      else if t.pending.isSome then (s, treeWord 8 0 h)
      else
        let rs := s.routersOf m
        if !s.slotsFree t rs then (s, treeWord 4 0 h)
        else if !s.peersOk p m then (s, treeWord 9 0 h)
        else
          let old := t.newest.mems
          let next := ws.foldl (fun x w =>
            if old.contains w || (decide (t.c ≤ t.nextOf w) && (t.memberOf (t.nextOf w)).mems.contains w) then x else tabPut x w e) t.next
          let slots := rs.foldl (fun x y => tabPut x y false) (t.slots.map fun x => (x.1, false))
          ((s.putTree key { t with pending := some m, next := next, slots := slots }).dropRouters key, treeWord 0 e h)

/-! ### Posts (12 R372, R390) -/

/-- A post's state checks (12 R390, the fifth and sixth): passed, or TREE-STATE. -/
def State.postOk (s : State) (t : Tree) (core mem g : Nat) : Bool :=
  let m := t.memberOf g
  let w := m.mems.getD mem 0
  t.st == 1 && decide (mem < m.mems.length) && memberPkg w == s.fab.pkg && memberCore w == core && (t.kind != 2 || mem == m.root) &&
  t.nextOf w == g

/-- A post admitted: its word's next segment, the boundary, and the pending edit once its boundary is admitted. -/
def State.treePost (s : State) (key mem g src tid : Nat) : State :=
  let t := s.tree key
  let m := t.memberOf g
  let w := m.mems.getD mem 0
  let later := (t.ships ++ t.pending.toList).filter fun x => decide (g < x.e) && x.mems.contains w
  let nx := if (t.memberOf (g + 1)).mems.contains w then g + 1 else match later with | x :: _ => x.e | [] => g + 1
  let t1 := match t.pending with
    | some x => if x.e ≤ g then { t with ships := t.ships ++ [x], pending := none } else t
    | none => t
  s.putTree key { t1 with
    next := tabPut t.next w nx, bound := max t.bound (g + 1), admitted := t.admitted + 1
    posts := t.posts ++ [{ mem := mem, seg := g, src := src, tid := tid, clk := (s.task tid).pts }] }

/-! ### Formats on the way (12 R373-R375) -/

/-- Bytes of an element of the combine format. -/
def opSize (op : Nat) : Nat := if op = 1 ∨ op = 3 then 8 else 4

/-- One element combined. -/
def combine1 (op a b : Nat) : Nat :=
  match op with
  | 1 => (Fmt.f64.add 0 (Fmt.f64.decode a) (Fmt.f64.decode b)).1
  | 2 => (a + b) % 2 ^ 32
  | 3 => (a + b) % 2 ^ 64
  | 4 => (Fmt.f32.minmax true a b).1
  | 5 => if signed 32 a < signed 32 b then b else a
  | 6 => (Fmt.f32.minmax false a b).1
  | 7 => if signed 32 b < signed 32 a then b else a
  | _ => (Fmt.f32.add 0 (Fmt.f32.decode a) (Fmt.f32.decode b)).1

/-- Elements of bytes. -/
def elemsOf (n : Nat) (bs : List Byte) : List Nat := (List.range (bs.length / n)).map fun i => fieldAt bs (n * i) n
/-- Bytes of elements. -/
def bytesOf (n : Nat) (xs : List Nat) : List Byte := xs.foldr (fun x acc => natLe n x ++ acc) []

/-- Two chunks in the combine format combined. -/
def combine (op : Nat) (a b : List Byte) : List Byte :=
  let n := opSize op
  bytesOf n (((elemsOf n a).zip (elemsOf n b)).map fun x => combine1 op x.1 x.2)

/-- A block in PN, planes then its scale word, widened to FP32 (12 R374). -/
def pnWiden (n : Nat) (bs : List Byte) : List Byte :=
  let w := fieldAt bs (4 * n) 2
  bytesOf 4 ((List.range 32).map fun j => convPn 2 (some w) (pnElem n 1 bs j))

/-- A block in FP32 quantised (12 R374; 03 R76): planes then the scale word. -/
def pnQuant (n : Nat) (bs : List Byte) : List Byte :=
  let q := quantAuto n ((elemsOf 4 bs).map fun x => (Fmt.f32.decode x).real)
  bytesOf 4 ((List.range n).map fun p => planeWord n p q.2) ++ natLe 2 q.1

/-- FP32 elements rounded to BF16, and back. -/
def toBf16 (bs : List Byte) : List Byte := bytesOf 2 ((elemsOf 4 bs).map fun x => (Fmt.f32.conv Fmt.bf16 0 x).1)
def fromBf16 (bs : List Byte) : List Byte := bytesOf 4 ((elemsOf 2 bs).map fun x => (Fmt.bf16.conv Fmt.f32 0 x).1)

/-- A chunk's data in the combine format. -/
def Tree.widen (t : Tree) (fmt : Nat) (bs : List Byte) : List Byte :=
  match fmt with
  | 1 => fromBf16 bs
  | 2 => pnWiden t.n bs
  | _ => bs

/-- A node's output at a level: format and bytes. -/
def Tree.output (t : Tree) (level : Nat) (bs : List Byte) : Nat × List Byte :=
  if !t.rq level then (0, bs)
  else if t.op = 8 then (2, pnQuant t.n bs) else if t.wire = 1 then (1, toBf16 bs) else (0, bs)

/-- The element format of a top node's output. -/
def Tree.toElements (t : Tree) (level : Nat) (bs : List Byte) : List Byte :=
  let (f, x) := t.output level bs
  if t.op = 8 then (if f = 2 then x else pnQuant t.n x) else t.widen f x

/-- Location and length of the pieces of chunk k in a source or delivery slot at `a`. -/
def Tree.pieces (t : Tree) (a k : Nat) : List (Nat × Nat) :=
  if t.op = 8 then ((List.range t.n).map fun j => (a + 4 * t.blocks * j + 4 * k, 4)) ++ [(a + 4 * t.blocks * t.n + 2 * k, 2)]
  else [(a + 256 * k, 256)]

/-! ### The way up (12 R375, R379) -/

/-- TREE_SOURCE_READ is possible for a post: no earlier post of its member is unread. -/
def Tree.canRead (t : Tree) (i : Nat) : Bool :=
  match t.posts[i]? with
  | none => false
  | some x =>
    let w := (t.memberOf x.seg).mems.getD x.mem 0
    !(t.posts.take i).any fun y => (t.memberOf y.seg).mems.getD y.mem 0 == w

/-- Segments a receiver core has still to get before a segment. -/
def State.owes (s : State) (t : Tree) (core g : Nat) : Bool :=
  (List.range (g - t.c)).any fun i =>
    let h := t.c + i
    (s.recvCores t (t.memberOf h)).contains core && !t.failed.contains h && decide (tabGet t.got 0 core ≤ h)

/-- TREE_DELIVERY can write a sector: every chunk of the receiver's next segment has arrived. -/
def State.canDeliver (s : State) (key core : Nat) : Option Nat :=
  let t := s.tree key
  ((t.delivs.filter fun d => d.core == core).map Deliv.seg).find? fun g =>
    !s.owes t core g && (List.range t.nchunks).all fun k => t.delivs.any fun d => d.core == core && d.seg == g && d.chunk == k

/-- A level-4 packet of a tree has left for another package, or come from one, at this FTIME (14 R441). -/
def State.farMark (s : State) (key : Nat) : State :=
  if (s.tree key).st = 0 then s else s.putTree key { s.tree key with farAt := s.ftime }

/-- A tree packet to another package: the tree, a segment, a chunk of it, the members it covers, its clock, and its bytes. -/
def State.treeSend (s : State) (key pkg g k mask clk : Nat) (bs : List Byte) : State :=
  (s.emit { cls := 2, dst := pkg, src := s.fab.pkg, data := natLe 4 key ++ natLe 4 g ++ natLe 4 k ++ natLe 128 mask ++ natLe 8 clk ++ bs }).farMark key

/-- In place of a chunk's number: the segment is delivered to the sending package's receivers, or has failed there. -/
def treeDoneMark : Nat := 0xFFFFFFFF
def treeFailMark : Nat := 0xFFFFFFFE

/-- A report on a segment to every other package of its membership (12 R370; notes/assumptions/41). -/
def State.treeReport (s : State) (key g mark : Nat) : State :=
  (s.farPkgs ((s.tree key).memberOf g)).foldl (fun s k => s.treeSend key k g mark 0 (tabGet (s.tree key).clkOf 0 g) []) s

/-! A node passes the chunks of a tree on in order of segment and chunk (12 R375), and each node holds the next that it passes. -/

/-- The segment and chunk that come after. -/
def Tree.after (t : Tree) (g k : Nat) : Nat × Nat := if k + 1 = t.nchunks then (g + 1, 0) else (g, k + 1)

/-- The segment and chunk that leave a node next, from a place in the order: delivered and failed segments are passed over, and those
that no contribution comes through the node for. -/
def State.passFrom (s : State) (t : Tree) (node : Nat) : Nat → Nat × Nat → Nat × Nat
  | 0, o => o
  | n + 1, o =>
    if o.1 < t.c then s.passFrom t node n (t.c, 0)
    else if t.failed.contains o.1 || (decide (o.1 < t.bound) && s.expected t (t.memberOf o.1) o.1 node == 0 &&
        !t.bufs.any fun b => b.at_ == node && b.seg == o.1) then s.passFrom t node n (o.1 + 1, 0)
    else o

/-- The segment and chunk that leave a node next. -/
def State.passOut (s : State) (t : Tree) (node : Nat) : Nat × Nat := s.passFrom t node 8 (tabGet t.outs (0, 0) node)

/-- A node has passed a chunk on. -/
def State.nodePassed (s : State) (key node g k : Nat) : State :=
  let t := s.tree key
  s.putTree key { t with outs := tabPut t.outs node (t.after g k) }

/-- A segment result chunk leaves the top: down this package, or up to the root's package as a tree packet (12 R370; 14 R441). -/
def State.topSend (s : State) (key : Nat) (b : Chunk) : State :=
  let t := s.tree key
  let m := t.memberOf b.seg
  let top := s.topOf m
  let lvl := nodeLevel (!(s.farPkgs m).isEmpty) top top
  if s.rootHere m then
    let x := { b with data := if t.kind = 2 then b.data else t.toElements lvl b.data, fmt := 0, from_ := 0, ins := [], pool := false }
    s.putTree key { t with down := t.down ++ [x] }
  else
    let (_, d) := if t.kind = 2 then (0, b.data) else t.output lvl b.data
    s.treeSend key (memberPkg m.rootWord) b.seg b.chunk b.mask b.clk d

/-- A node passes a chunk on, in the combine format (raw for a broadcast): upward under its level's rqmask bit, and from the top as
`State.topSend` does (12 R374, R375). -/
def State.nodeSend (s : State) (key node : Nat) (b : Chunk) : State :=
  let t := s.tree key
  let m := t.memberOf b.seg
  let top := s.topOf m
  if node = top then (s.topSend key b).nodePassed key node b.seg b.chunk
  else
    let (f, d) : Nat × List Byte := if t.kind = 2 then (b.fmt, b.data) else t.output (nodeLevel (!(s.farPkgs m).isEmpty) top node) b.data
    let x := { b with at_ := (upOf top node).getD top, from_ := node, fmt := f, data := d, pool := false }
    (s.putTree key { t with up := t.up ++ [x] }).nodePassed key node b.seg b.chunk

/-- The complete chunks of a node's buffers leave it, in order, and their buffers are free. -/
def State.releaseAt (s : State) (key node : Nat) : Nat → State
  | 0 => s
  | n + 1 =>
    let t := s.tree key
    match t.bufs.find? fun b => b.at_ == node && (b.seg, b.chunk) == s.passOut t node with
    | none => s
    | some b =>
      let want := s.expected t (t.memberOf b.seg) b.seg node
      if b.mask &&& want ≠ want then s
      else ((s.putTree key { t with bufs := t.bufs.filter fun y => y != b }).nodeSend key node b).releaseAt key node n

/-- The same at every node that holds a buffer. -/
def State.releaseAll (s : State) (key : Nat) : State :=
  let bs := (s.tree key).bufs
  (nodups (bs.map Chunk.at_)).foldl (fun s x => s.releaseAt key x bs.length) s

/-- A segment that has failed, here or at another package, is given up: its chunks go, a receiver that was taking it starts the next
one afresh, and what waited behind it at a node passes on. -/
def State.treeGiveUp (s : State) (key g : Nat) : State :=
  let t := s.tree key
  let off (l : List Chunk) : List Chunk := l.filter fun x => x.seg != g
  (s.putTree key { t with
    up := off t.up, bufs := off t.bufs, down := off t.down, delivs := t.delivs.filter fun x => x.seg != g
    written := t.written.filter fun x => s.canDeliver key x.1 != some g
    failed := t.failed ++ [g], nfailed := t.nfailed + 1 }).releaseAll key

/-- A segment fails, once (12 R380): class TREE-DATA, and the other packages hear of it. -/
def State.treeFail (s : State) (key g : Nat) : State :=
  let t := s.tree key
  if t.failed.contains g then s
  else ((s.treeGiveUp key g).treeReport key g treeFailMark).error
    { part := key / 65536, cls := 0x12, src := 1, core := firstDie (s.part (key / 65536)).dies * 4096, region := t.region, tail := natLe 8 (key % 65536) ++ natLe 4 g }

/-- A post's source is read: its clock counts among its task's class TR clocks (11 R341). -/
def State.postClock (s : State) (tid clk : Nat) : State :=
  match tabFind s.tasks tid with
  | some t => s.putTask tid { t with clks := tabPut t.clks 3 (max (tabGet t.clks 0 3) clk) }
  | none => s

/-- The bytes of consecutive pieces out of a source. -/
def piecesOf (bs : List Byte) (ps : List (Nat × Nat)) : List Byte := ps.foldr (fun p acc => (bs.drop p.1).take p.2 ++ acc) []

/-- TREE_SOURCE_READ: the next chunk of a post is read under its clock and sent to the member's cluster router. The sectors of a PNADD
source hold parts of many blocks, and each is read once: all of them with the first block (12 R378). -/
def State.treeRead (s : State) (key i : Nat) : State :=
  let t := s.tree key
  match t.posts[i]? with
  | none => s
  | some x =>
    let m := t.memberOf x.seg
    let core := memberCore (m.mems.getD x.mem 0)
    let fresh := t.op != 8 || x.chunk == 0
    let ps := if t.op = 8 then [(x.src, 4 * t.blocks * t.n + 2 * t.blocks)] else t.pieces x.src x.chunk
    let (clk, got, s1) :=
      if fresh then s.loadAll (clusterOf core) x.clk (ps.foldr (fun p acc => splitLines p.1 p.2 (p.2 / 64 + 2) ++ acc) []) else (x.clk, x.data, s)
    let bs := if t.op = 8 then piecesOf got (t.pieces 0 x.chunk) else got
    let (f, d) : Nat × List Byte :=
      if t.op = 8 then (if t.rq 0 then (2, bs) else (0, pnWiden t.n bs))
      else if t.wire = 1 && t.rq 0 then (1, toBf16 bs) else (0, bs)
    let done := x.chunk + 1 = t.nchunks
    let posts := if done then t.posts.eraseIdx i
      else t.posts.set i { x with chunk := x.chunk + 1, clk := clk, data := if t.op = 8 then got else [] }
    let s1 := s1.postClock x.tid clk
    let c : Chunk := { at_ := 65536 + core / 16, from_ := core, seg := x.seg, chunk := x.chunk, mask := 2 ^ x.mem, fmt := f, data := d, clk := clk }
    if fresh && ps.any fun p => s.badAt p.1 p.2 then
      (s1.putTree key { t with posts := posts }).treeFail key x.seg
    else
      s1.putTree key { t with posts := posts, up := if t.failed.contains x.seg then t.up else t.up ++ [c] }

/-- A waiting chunk is the first of its input at its router. -/
def firstOfInput (l : List Chunk) (i : Nat) : Bool :=
  match l[i]? with
  | none => false
  | some x => !(l.take i).any fun y => y.at_ == x.at_ && y.from_ == x.from_

/-- A buffer of a router for a chunk of a tree. -/
def Tree.bufAt (t : Tree) (node g k : Nat) : Option Chunk := t.bufs.find? fun b => b.at_ == node && b.seg == g && b.chunk == k

/-- Chunk buffers of a router's pool in use. -/
def State.pooled (s : State) (node : Nat) : Nat :=
  s.trees.foldl (fun n x => n + (x.2.bufs.filter fun b => b.at_ == node && b.pool).length) 0

/-- A new chunk buffer: the slot's own four first, then the router's pool (12 R371, R375). -/
def State.bufRoom (s : State) (t : Tree) (node : Nat) : Option Bool :=
  if (t.bufs.filter fun b => b.at_ == node && !b.pool).length < 4 then some false
  else if s.pooled node < 1024 then some true
  else none

/-- TREE_CHUNK_ARRIVE can take a chunk: first of its input, not held by a miss, and with a buffer if it needs one; where one input
carries the members of its segment it takes none, and waits for its place in the order (12 R375). -/
def State.canArrive (s : State) (key i : Nat) : Bool :=
  let t := s.tree key
  match t.up[i]? with
  | none => false
  | some x =>
    firstOfInput t.up i && !x.held &&
    (!tabGet t.slots false x.at_ ||
     (let m := t.memberOf x.seg
      t.failed.contains x.seg ||
      (if (s.upInputs t m x.at_).length ≤ 1 then s.passOut t x.at_ == (x.seg, x.chunk)
       else (t.bufAt x.at_ x.seg x.chunk).isSome || (s.bufRoom t x.at_).isSome)))

/-- A router asks for its slot to be loaded, once (12 R379). -/
def State.askRefill (s : State) (key node : Nat) : State :=
  if s.refills.contains (key, node) then s else { s with refills := s.refills ++ [(key, node)] }

/-- TREE_CHUNK_ARRIVE: a contribution reaches a router; a slot that is not loaded holds it (12 R375, R379). A router with one input only
forwards, under its level's rqmask bit like any other (12 R374, R375). -/
def State.treeArrive (s : State) (key i : Nat) : State :=
  let t := s.tree key
  match t.up[i]? with
  | none => s
  | some x =>
    if !tabGet t.slots false x.at_ then
      (s.putTree key { t with up := t.up.set i { x with held := true }, misses := t.misses + 1 }).askRefill key x.at_
    else
      let m := t.memberOf x.seg
      let rest := t.up.eraseIdx i
      if t.failed.contains x.seg then s.putTree key { t with up := rest }
      else
        let b := { x with data := if t.kind = 2 then x.data else t.widen x.fmt x.data, fmt := if t.kind = 2 then x.fmt else 0 }
        if (s.upInputs t m x.at_).length ≤ 1 then
          ((s.putTree key { t with up := rest }).nodeSend key x.at_ b).releaseAt key x.at_ t.bufs.length
        else
          let bufs := match t.bufAt x.at_ x.seg x.chunk with
            | some y => t.bufs.map fun z => if z == y then { y with data := combine t.op y.data b.data, mask := y.mask ||| b.mask, clk := max y.clk b.clk } else z
            | none => t.bufs ++ [{ b with pool := (s.bufRoom t x.at_).getD false }]
          (s.putTree key { t with up := rest, bufs := bufs }).releaseAt key x.at_ bufs.length

/-- TREE_SLOT_REFILL: a slot is loaded and the packets it held are replayed (12 R379). -/
def State.treeRefill (s : State) (key node : Nat) : State :=
  let t := s.tree key
  let free (l : List Chunk) : List Chunk := l.map fun x => if x.at_ == node then { x with held := false } else x
  { s.putTree key { t with slots := tabPut t.slots node true, up := free t.up, down := free t.down } with
    refills := s.refills.filter fun x => x != (key, node) }

/-- The die whose tree service serves a router. -/
def nodeDie (x : Nat) : Nat :=
  if x < 65536 then dieOf x else if x < 131072 then (x - 65536) / 256 else if x < 196608 then (x - 131072) / 256 else (x - 196608) % 4

/-- A refill is the next that its die's tree service serves: they are served in the order asked for (12 R379). -/
def State.refillNext (s : State) (key node : Nat) : Bool :=
  (tabFind (s.tree key).slots node).isSome && (s.refills.find? fun x => nodeDie x.2 == nodeDie node && (tabFind (s.tree x.1).slots x.2).isSome) == some (key, node)

/-- A loaded slot, whose routing fields a soft error can meet (12 R379). -/
def Tree.slotLoaded (t : Tree) (node : Nat) : Bool := t.st != 0 && tabGet t.slots false node

/-- A detected soft error in the routing fields of a loaded slot unloads it (12 R379). -/
def State.unloadSlot (s : State) (key node : Nat) : State :=
  let t := s.tree key
  s.putTree key { t with slots := tabPut t.slots node false }

/-! ### The way down (12 R376, R377) -/

/-- Flits of a chunk. -/
def chunkFlits (x : Chunk) : Nat := (x.data.length + 127) / 128

/-- Holding slots of a router in use (12 R371). -/
def State.holding (s : State) (node : Nat) : Nat :=
  s.trees.foldl (fun n t => t.2.down.foldl (fun n x => if x.at_ == node && x.pool then n + chunkFlits x else n) n) 0

/-- Branches a downward chunk may go to now: those with space where no earlier chunk of its router still waits for one. -/
def State.openBranches (s : State) (t : Tree) (i space : Nat) : List Nat :=
  match t.down[i]? with
  | none => []
  | some x =>
    let outs := s.downOutputs t (t.memberOf x.seg) x.at_
    let waiting := (t.down.take i).filter fun y => y.at_ == x.at_
    ((List.range outs.length).zip outs).filterMap fun o =>
      if space / 2 ^ o.1 % 2 == 1 && !x.ins.contains o.2 &&
        !waiting.any (fun y => (s.downOutputs t (t.memberOf y.seg) y.at_).contains o.2 && !y.ins.contains o.2) then some o.2 else none

/-- A downward chunk can be served. -/
def State.canReplicate (s : State) (key i space : Nat) : Bool :=
  let t := s.tree key
  match t.down[i]? with
  | none => false
  | some x => !x.held && ((!tabGet t.slots false x.at_ && firstOfInput t.down i) || (tabGet t.slots false x.at_ && !(s.openBranches t i space).isEmpty) || (tabGet t.slots false x.at_ && (s.downOutputs t (t.memberOf x.seg) x.at_).isEmpty))

/-- TREE_REPLICATE: a downward chunk goes to every branch with space; what remains waits in holding slots, or in its input buffer. -/
def State.treeReplicate (s : State) (key i space : Nat) : State :=
  let t := s.tree key
  match t.down[i]? with
  | none => s
  | some x =>
    if !tabGet t.slots false x.at_ then
      (s.putTree key { t with down := t.down.set i { x with held := true }, misses := t.misses + 1 }).askRefill key x.at_
    else
      let outs := s.downOutputs t (t.memberOf x.seg) x.at_
      let now := s.openBranches t i space
      let left := outs.filter fun o => !x.ins.contains o && !now.contains o
      if !left.isEmpty && !x.pool && decide (32 < s.holding x.at_ + chunkFlits x) then s
      else
        let x1 := { x with ins := x.ins ++ now, pool := true }
        let down := if left.isEmpty then t.down.eraseIdx i else t.down.set i x1
        now.foldl (fun s o =>
          let t := s.tree key
          if o < 65536 then s.putTree key { t with delivs := t.delivs ++ [{ core := o, seg := x.seg, chunk := x.chunk, data := x.data, clk := x.clk }] }
          else if o < 262144 then
            s.putTree key { t with down := t.down ++ [{ x with at_ := o, from_ := x.at_, ins := [], pool := false, held := false }] }
          else s.treeSend key (o - 262144) x.seg x.chunk 0 x.clk x.data)
          (s.putTree key { t with down := down })

/-- A segment has been delivered to a receiver core. -/
def Tree.delivered (t : Tree) (core g : Nat) : Bool := decide (g < t.c) || decide (g < tabGet t.got 0 core)

/-- A segment's bytes in the element format, from its chunks. -/
def Tree.segBytes (t : Tree) (ds : List Deliv) : List Byte :=
  let mem := ds.foldl (fun (m : Memory) d =>
    ((t.pieces 0 d.chunk).foldl (fun (x : Memory × List Byte) p => (memPutBytes x.1 p.1 (x.2.take p.2), x.2.drop p.2)) (m, d.data)).1) []
  memBytes mem 0 t.segsize

/-- Packages, other than this one, where a membership has receivers. -/
def State.farReceivers (s : State) (t : Tree) (m : Membership) : List Nat :=
  nodups (((t.receivers m).map fun i => memberPkg (m.mems.getD i 0)).filter fun p => p != s.fab.pkg)

/-- Completed segments pass, once every receiver on every package has them: c, and the routers no longer used (12 R372, R382). -/
def State.treeAdvance (s : State) (key : Nat) : Nat → State
  | 0 => s
  | n + 1 =>
    let t := s.tree key
    let m := t.memberOf t.c
    if t.failed.contains t.c || ((s.recvCores t m).all (fun k => decide (t.c < tabGet t.got 0 k)) &&
        (s.farReceivers t m).all fun k => decide (t.c < tabGet t.farGot 0 k)) then
      let c := t.c + 1
      ((s.putTree key { t with c := c, bound := max t.bound c, base := tabDel t.base t.c }).dropRouters key).treeAdvance key n
    else s

/-- TREE_DELIVERY: the next 32-byte sector of a receiver's next segment is written under the result's clock. -/
def State.treeDeliver (s : State) (key core : Nat) : State :=
  let t := s.tree key
  match s.canDeliver key core with
  | none => s
  | some g =>
    let ds := t.delivs.filter fun d => d.core == core && d.seg == g
    let off := tabGet t.written 0 core
    let clk := ds.foldl (fun m d => max m d.clk) 0
    let a := spadAddr core (t.doff + g % t.dslots * t.segsize + off)
    let (w, s1) := s.homeWrite clk a (((t.segBytes ds).drop off).take 32)
    let t1 := { t with clkOf := tabPut t.clkOf g (max (tabGet t.clkOf 0 g) w) }
    if off + 32 < t.segsize then s1.putTree key { t1 with written := tabPut t.written core (off + 32) }
    else
      let got := tabPut t.got core (g + 1)
      let s2 := s1.putTree key { t1 with
        written := tabDel t.written core, got := got
        delivs := t.delivs.filter fun d => !(d.core == core && d.seg == g) }
      let all := (s.recvCores t (t.memberOf g)).all fun k => decide (g < tabGet got 0 k)
      (if all then s2.treeReport key g treeDoneMark else s2).treeAdvance key 8

/-! ### TWAIT (12 R391) -/

/-- The code a TWAIT of a member and segment fills with now, if it fills. -/
def State.twaitCode (s : State) (key mem g : Nat) : Option Nat :=
  let t := s.tree key
  let m := t.memberOf g
  if t.st = 0 then some 2
  else if m.mems.length ≤ mem then some 3
  else if t.failed.contains g then some 1
  else
    let w := m.mems.getD mem 0
    if (t.receivers m).contains mem then
      (if memberPkg w = s.fab.pkg then (if t.delivered (memberCore w) g then some 0 else none) else if g < t.c then some 0 else none)
    else if g < t.c ∨ (g < t.nextOf w ∧ (t.posts.any fun x => x.seg == g && x.mem == mem) = false) then some 0 else none

/-! ### Freeze, save, restore (12 R383-R386) -/

/-- Some membership in force of a tree has members on other packages. -/
def State.spans (s : State) (t : Tree) : Bool := t.force.any fun m => !(s.farPkgs m).isEmpty

/-- No level-4 packet of a tree is between nodes: none waits here or lies in a receive buffer, no report on a segment that every receiver
here has is to come, and none has left or come for a whole cycle of the table (14 R441; notes/assumptions/41). -/
def State.farQuiet (s : State) (key : Nat) : Bool :=
  let t := s.tree key
  let m := t.memberOf t.c
  !((s.outbox ++ s.transit).any fun x => x.ofTree s.fab.pkg key) &&
  (!s.spans t ||
    (!(s.ports.any fun p => p.2.inbox.any fun f => f.1 / 4 == 2) && decide (t.farAt + tbCycle s.fab.table ≤ s.ftime) &&
      (if s.rootHere m then decide ((s.passOut t (s.topOf m)).1 ≤ t.c)
       else (s.recvCores t m).isEmpty || !(s.recvCores t m).all fun k => decide (t.c < tabGet t.got 0 k))))

/-- Nothing of a tree is in flight (12 R383). -/
def State.treeDrained (s : State) (key : Nat) : Bool :=
  let t := s.tree key
  t.posts.isEmpty && t.up.isEmpty && t.down.isEmpty && t.delivs.isEmpty && s.farQuiet key

/-- TFREEZE taken. -/
def State.treeFreeze (s : State) (key tid : Nat) : State := s.putTree key { s.tree key with st := 2, freezing := tid }

/-- Bytes padded with zeros to a multiple of 64. -/
def pad64 (bs : List Byte) : List Byte := padTo ((bs.length + 63) / 64 * 64) bs
/-- A length rounded up to a multiple of 64. -/
def up64 (n : Nat) : Nat := (n + 63) / 64 * 64

/-- Data length of a partial record. -/
def Tree.partialLen (t : Tree) : Nat := if t.op = 8 then 128 * t.blocks else t.segsize

/-- TQRY's SAVESIZE (12 R385). -/
def Tree.saveSize (t : Tree) : Nat :=
  let f := dropOld t.c t.ships
  let list (m : Membership) : Nat := up64 (4 * m.mems.length)
  128 + list (t.memberOf t.c) + ((f.drop 1).foldl (fun n m => n + 64 + list m) 0) +
  (match t.pending with | some m => list m | none => 0) + 4 * (192 + up64 t.partialLen)

/-- A segment's partial: union of masks, and each chunk's partials combined. -/
def Tree.partialOf (t : Tree) (g : Nat) : Option (Nat × List Byte) :=
  let bs := t.bufs.filter fun b => b.seg == g
  if bs.isEmpty then none
  else
    let mask := bs.foldl (fun m b => m ||| b.mask) 0
    let chunk (k : Nat) : List Byte := match bs.filter fun b => b.chunk == k with
      | [] => []
      | b :: r => r.foldl (fun d x => combine t.op d x.data) b.data
    some (mask, (List.range t.nchunks).foldr (fun k acc => chunk k ++ acc) [])

/-- A membership's words. -/
def Membership.bytes (m : Membership) : List Byte := pad64 (bytesOf 4 m.mems)

/-- The save area of a frozen tree (12 R384). -/
def Tree.saveArea (t : Tree) (h : Nat) : List Byte :=
  let f := dropOld t.c t.ships
  let m := t.memberOf t.c
  let parts := (List.range 4).filterMap fun i => (t.partialOf (t.c + i)).map fun x => (t.c + i, x)
  let pe : Membership := t.pending.getD { e := 0xFFFFFFFF, root := 0, mems := [] }
  natLe 4 0x00020001 ++ natLe 2 h ++ (t.desc.take 5) ++ natLe 1 parts.length ++ natLe 2 m.mems.length ++ natLe 2 m.root ++
  natLe 4 t.segsize ++ natLe 4 t.blocks ++ natLe 4 t.doff ++ natLe 2 t.dslots ++ natLe 2 t.region ++ natLe 4 t.c ++ natLe 4 t.bound ++
  natLe 4 pe.e ++ natLe 2 pe.mems.length ++ natLe 2 pe.root ++ natLe 1 (f.drop 1).length ++ natLe 15 0 ++ natLe 8 0 ++ natLe 56 0 ++
  m.bytes ++ ((f.drop 1).foldr (fun x acc => natLe 4 x.e ++ natLe 2 x.mems.length ++ natLe 2 x.root ++ natLe 56 0 ++ x.bytes ++ acc) []) ++
  (match t.pending with | some x => x.bytes | none => []) ++
  (parts.foldr (fun x acc => natLe 4 x.1 ++ natLe 4 t.partialLen ++ natLe 56 0 ++ natLe 128 x.2.1 ++ pad64 x.2.2 ++ acc) [])

/-- TSAVE by a task on a tree that may be named: the state and the result word. A failed segment not yet passed is a partial lost. -/
def State.treeSave (s : State) (key h addr tid : Nat) : State × W64 :=
  let t := s.tree key
  let bs := t.saveArea h
  if addr % 64 ≠ 0 ∨ (s.engPieces (key / 65536) 2 (bs.length / 4096 + 2) addr bs.length).isNone = true then
    (s.structFormat 1 (key / 65536) t.region addr bs.length, treeWord 5 0 h)
  else if t.st ≠ 2 then (s, treeWord 6 0 h)
  else if t.failed.any fun g => decide (t.c ≤ g) then (s, treeWord 0x0B 0 h)
  else match s.engWriteClk (key / 65536) (s.task tid).pts addr bs with
    | none => (s, treeWord 5 0 h)
    | some (clk, s1) => ((s1.postClock tid clk).putTree key { t with st := 3, slots := [], bufs := [], base := [] }, treeWord 0 0 h)

/-- Later memberships of an area: boundary, root and words, from an offset. -/
def areaShips (b : List Byte) : Nat → Nat → List Membership × Nat
  | 0, o => ([], o)
  | k + 1, o =>
    let n := fieldAt b (o + 4) 2
    let (r, o') := areaShips b k (o + 64 + up64 (4 * n))
    ({ e := fieldAt b o 4, root := fieldAt b (o + 6) 2, mems := wordsOf (b.drop (o + 64)) n } :: r, o')

/-- Reserved bytes of later memberships are zero. -/
def areaShipsOk (b : List Byte) : Nat → Nat → Bool
  | 0, _ => true
  | k + 1, o => fieldAt b (o + 8) 56 == 0 && areaShipsOk b k (o + 64 + up64 (4 * fieldAt b (o + 4) 2))

/-- Reserved bytes of partial records are zero. -/
def areaPartsOk (b : List Byte) : Nat → Nat → Bool
  | 0, _ => true
  | k + 1, o => fieldAt b (o + 8) 56 == 0 && areaPartsOk b k (o + 192 + up64 (fieldAt b (o + 4) 4))

/-- Partial records of an area: segment, mask and data. -/
def areaParts (b : List Byte) : Nat → Nat → List (Nat × Nat × List Byte)
  | 0, _ => []
  | k + 1, o =>
    let d := fieldAt b (o + 4) 4
    (fieldAt b o 4, fieldAt b (o + 64) 128, (b.drop (o + 192)).take d) :: areaParts b k (o + 192 + up64 d)

/-- A word replaced by the corresponding word of a restore list. -/
def replaceWord (old new : List Nat) (w : Nat) : Nat :=
  match (old.zip new).find? fun x => x.1 == w with
  | some x => x.2
  | none => w

/-- TRESTORE on a tree that may be named (12 R386): the state and the result word. -/
def State.treeRestore (s : State) (key h addr clk : Nat) : State × W64 :=
  let p := key / 65536
  let t := s.tree key
  if t.st ≠ 3 then (s, treeWord 6 0 h)
  else if addr % 64 ≠ 0 then (s, treeWord 5 0 h)
  else
    match s.engPieces p 1 (t.saveSize / 4096 + 2) addr 128 with
    | none => (s.structFormat 1 p t.region addr 128, treeWord 5 0 h)
    | some _ =>
      let hd := (s.engPieces p 1 2 addr 128).elim [] fun ps => ps.foldr (fun x acc => memBytes s.mem x.1 x.2 ++ acc) []
      let nm := fieldAt hd 12 2
      let k := fieldAt hd 48 1
      -- the area as it was written: the size for four partial records, less those it does not hold (12 R385)
      let size := max 128 (t.saveSize - (4 - min 4 (fieldAt hd 11 1)) * (192 + up64 t.partialLen))
      match s.engPieces p 1 (size / 4096 + 2) addr size with
      | none => (s.structFormat 1 p t.region addr size, treeWord 5 0 h)
      | some ps =>
        if ps.any fun x => s.badAt x.1 x.2 then (s, treeWord 0x0B 0 h)
        else
          let b := ps.foldr (fun x acc => memBytes s.mem x.1 x.2 ++ acc) []
          let o1 := 128 + up64 (4 * nm)
          if fieldAt b 0 4 ≠ 0x00020001 ∨ fieldAt b 4 2 ≠ h ∨ fieldAt b 49 15 ≠ 0 ∨ fieldAt b 72 56 ≠ 0 ∨ 4 < fieldAt b 11 1 ∨ 3 < k ∨
              areaShipsOk b (min k 3) o1 = false then (s, treeWord 0x0A 0 h)
          else
            let old := wordsOf (b.drop 128) nm
            let (later, o2) := areaShips b k o1
            let pe := fieldAt b 40 4
            let pn := fieldAt b 44 2
            let pending : Option Membership :=
              if pe = 0xFFFFFFFF then none else some { e := pe, root := fieldAt b 46 2, mems := wordsOf (b.drop o2) pn }
            let o3 := if pe = 0xFFFFFFFF then o2 else o2 + up64 (4 * pn)
            let parts := areaParts b (fieldAt b 11 1) o3
            if areaPartsOk b (fieldAt b 11 1) o3 = false then (s, treeWord 0x0A 0 h)
            else
            let la := fieldAt b 64 8
            let desc := ((b.drop 6).take 5) ++ natLe 1 0 ++ natLe 2 (fieldAt b 14 2) ++ natLe 4 (fieldAt b 16 4) ++ natLe 2 nm ++
              natLe 2 (fieldAt b 28 2) ++ natLe 8 0 ++ natLe 4 (fieldAt b 24 4) ++ natLe 4 (fieldAt b 20 4) ++ natLe 2 (fieldAt b 30 2) ++ natLe 30 0
            let new : Option (List Nat) := if la = 0 then some old else s.readMembers p la nm
            match new with
            | none => (s.structFormat 1 p t.region la (4 * nm), treeWord 5 0 h)
            | some ws =>
              let sub (m : Membership) : Membership := { m with mems := m.mems.map (replaceWord old ws) }
              let m0 : Membership := { e := 0, root := fieldAt b 14 2, mems := ws }
              let t1 : Tree := { t with
                st := 1, desc := desc, ships := m0 :: later.map sub, pending := pending.map sub, c := fieldAt b 32 4, bound := fieldAt b 36 4
                base := parts.foldl (fun x y => tabPut x y.1 y.2.1) [], outs := [], got := [], written := [], freezing := 0 }
              let all := t1.ships ++ t1.pending.toList
              if la ≠ 0 ∧ s.membersOk p t1 m0 = false then (s, treeWord 1 0 h)
              else
                let rs := nodups (all.foldr (fun m acc => s.routersOf m ++ acc) [])
                if !s.slotsFree t1 rs then (s, treeWord 4 0 h)
                else if !(all.all fun m => s.peersOk p m) then (s, treeWord 9 0 h)
                else
                  let seg0 (w : Nat) : Nat :=
                    ((List.range 5).find? fun i =>
                      let m := t1.memberOf (t1.c + i)
                      match (List.range m.mems.length).find? fun j => m.mems.getD j 0 == w with
                      | some j => tabGet t1.base 0 (t1.c + i) / 2 ^ j % 2 == 0
                      | none => false).elim (t1.newest.e) fun i => t1.c + i
                  let next := (all.foldr (fun m acc => m.mems ++ acc) []).foldl (fun x w => tabPut x w (seg0 w)) []
                  let bufs := parts.foldr (fun y acc =>
                    ((List.range t1.nchunks).map fun i =>
                      let n := t1.partialLen / t1.nchunks
                      { at_ := s.topOf (t1.memberOf y.1), from_ := 0, seg := y.1, chunk := i, mask := y.2.1, data := (y.2.2.drop (n * i)).take n, clk := clk : Chunk }) ++ acc) []
                  -- of each router, the slot's own four buffers first, then the router's pool (12 R371)
                  let bufs := bufs.mapIdx fun i x => { x with pool := decide (4 ≤ ((bufs.take i).filter fun y => y.at_ == x.at_).length) }
                  if (bufs.map Chunk.at_).any fun x => decide (1024 < s.pooled x + ((bufs.filter fun y => y.at_ == x).length - 4)) then
                    (s, treeWord 4 0 h)
                  else
                  ((s.putTree key { t1 with slots := rs.foldl (fun x y => tabPut x y false) [], next := next, bufs := bufs }).releaseAll key, treeWord 0 0 h)

/-! ### TQRY (12 R392) -/

/-- A field of a tree. -/
def State.treeField (s : State) (key field : Nat) : Nat :=
  let t := s.tree key
  match field with
  | 0 => t.newest.mems.length * 2 ^ 48 + t.newest.root * 2 ^ 32 + t.region % 65536 * 2 ^ 16 + t.op * 2 ^ 8 + t.kind * 2 ^ 4 + t.st
  | 1 => t.c
  | 2 => t.bound
  | 3 => match t.pending with | some m => m.e | none => 2 ^ 64 - 1
  | 4 => t.saveSize
  | 5 => t.slots.length
  | 6 => t.misses
  | 7 => t.nfailed
  | _ => t.admitted % 2 ^ 64

/-! ### Tree packets from other packages (12 R370; 14 R441) -/

/-- A contribution, or (`down`) a result chunk, that came from another package joins the tree at this package's top hub; the clock leads its
bytes (12 R378). -/
def State.treeFar (s : State) (key pkg g k mask : Nat) (down : Bool) (data : List Byte) : State :=
  let t := s.tree key
  if t.st = 0 then s
  else
    let m := t.memberOf g
    let x : Chunk := { at_ := s.topOf m, from_ := 262144 + if down then memberPkg m.rootWord else pkg, seg := g, chunk := k, mask := mask, data := data.drop 8, clk := leNat (data.take 8) }
    if down then (s.putTree key { t with down := t.down ++ [x] }).farMark key
    else (s.putTree key { t with up := t.up ++ [{ x with fmt := if t.rq 4 = false then 0 else if t.op = 8 then 2 else if t.wire = 1 then 1 else 0 }] }).farMark key

/-- Another package's report on a segment: delivered to its receivers under a clock, or failed there. -/
def State.treeHear (s : State) (key pkg g mark clk : Nat) : State :=
  let t := s.tree key
  if mark = treeFailMark then (if t.failed.contains g then s.farMark key else ((s.treeGiveUp key g).treeAdvance key 8).farMark key)
  else ((s.putTree key { t with
    farGot := tabPut t.farGot pkg (max (tabGet t.farGot 0 pkg) (g + 1)), clkOf := tabPut t.clkOf g (max (tabGet t.clkOf 0 g) clk) }).treeAdvance key 8).farMark key

end Sys2Proof.Machine
end

