-- ==== Sys2Proof/Machine/FabricOps.lean ====
section
/-! DEFINITION. Remote operations, scheduled sends, ports and wavelengths, slots and the fabric's messages (14 R419-R446). -/

namespace Sys2Proof.Machine

/-- An event of the package as a whole is reported in every configured partition (notes/assumptions/40). -/
def State.pkgError (s : State) (cls src : Nat) (tail : List Byte) : State :=
  s.parts.foldl (fun s p => s.error { part := p.1, cls := cls, src := src, core := firstDie p.2.dies * 4096, tail := tail }) s

/-! ### The source side (14 R433, R435, R436) -/

/-- A transfer of a task to a package still stands in a queue. -/
def State.sendsOf (s : State) (tid pkg : Nat) : Bool :=
  s.sendqs.any fun q => q.2.pkg == pkg && q.2.list.any fun x => x.tid == tid

/-- A request's packet: partition, kind, function, address, data (notes/assumptions/41: the spec gives packets no layout). -/
def ROp.packet (o : ROp) (own idx : Nat) : FPkt :=
  { cls := 0, dst := o.pkg, src := own, data := natLe 1 idx ++ natLe 1 o.kind ++ natLe 2 o.aux ++ natLe 4 o.tid ++ natLe 8 o.addr ++ o.data }

/-- Requests whose task has no earlier transfer to the same package left are sent (14 R436). -/
def State.sendRequests (s : State) : State :=
  s.rops.foldl (fun s o =>
    if o.sent || s.sendsOf o.tid o.pkg then s
    else
      let idx := match tabFind (s.part o.part).peers o.pkg with | some x => x.1 | none => 0
      ({ s with rops := s.rops.map fun x => if x == o then { o with sent := true, since := s.groupedTime o.pkg } else x }).emit (o.packet s.fab.pkg idx)) s

/-- A remote operation committed: its task parks (14 R433). -/
def State.remoteIssue (s : State) (tid : Nat) (o : ROp) : State :=
  (({ s with rops := s.rops ++ [o] }.putTask tid { s.task tid with status := .remote }).stopIssue tid).sendRequests

/-- A task parked on a remote operation goes on. -/
def State.unpark (s : State) (tid : Nat) : State :=
  match tabFind s.tasks tid with
  | none => s
  | some t =>
    if t.status = .remote then s.putTask tid { t with status := .ready, waitFrom := s.cycle }
    else if t.after = .remote then s.putTask tid { t with after := .ready }
    else s

/-- A failure recorded in a task's remote-error word (14 R435). -/
def State.remoteError (s : State) (tid pkg reason kind : Nat) : State :=
  let w := tabGet s.rerr 0 tid
  let n := w / 2 ^ 48
  let w1 := if n = 0 then 2 ^ 48 + pkg % 2 ^ 12 * 2 ^ 36 + reason * 2 ^ 24 + kind
            else if n < 0xFFFF then w + 2 ^ 48 else w
  if (tabFind s.tasks tid).isSome then { s with rerr := tabPut s.rerr tid w1 } else s

/-- The operation a task has outstanding. -/
def State.ropOf (s : State) (tid : Nat) : Option ROp := s.rops.find? fun o => o.tid == tid

/-- A task's operation is over. -/
def State.ropDone (s : State) (tid : Nat) : State := { s with rops := s.rops.filter fun o => o.tid != tid }

/-- An operation fails at its source: its registers become failed, its task goes on (14 R435). -/
def State.ropFail (s : State) (tid reason : Nat) : State :=
  match s.ropOf tid with
  | none => s
  | some o =>
    let s1 := (s.ropDone tid).remoteError tid o.pkg reason o.kind
    let s2 := match (s1.task tid).prods.find? fun p => p.tok == o.tok && p.wait == .remote with
      | some p => s1.failTask tid p
      | none => s1
    s2.unpark tid

/-- A reply fills the registers of a task's RLD or RATOM (14 R442, R443). -/
def ROp.values (o : ROp) (bs : List Byte) : List VReg :=
  if o.kind = 1 then [BitVec.ofNat 512 (leNat (bs.take 64)), BitVec.ofNat 512 (leNat ((bs.drop 64).take 64))]
  else
    let n := if o.aux / 8 % 4 = 2 then 4 else 8
    let u := o.aux / 32 % 2 = 1 ∨ o.aux % 8 = 7
    [BitVec.ofNat 512 (extend (!decide u) n (leNat (bs.take n)))]

/-- A destination has been silent for 10 ms in which it was in the current group, `since` counted in such time (14 R435). -/
def State.silent (s : State) (pkg since : Nat) : Bool := decide (since + 10000000 ≤ s.groupedTime pkg)

/-! ### Scheduled sends (14 R437-R440, R445) -/

/-- The queue bound to a package. -/
def State.queueOf (s : State) (pkg : Nat) : Option Nat := (s.sendqs.find? fun q => q.2.pkg == pkg).map Prod.fst
/-- The lowest-numbered free queue. -/
def State.freeQueue (s : State) : Option Nat := (List.range 64).find? fun n => (tabFind s.sendqs n).isNone
/-- A transfer to a package can be queued. -/
def State.queueRoom (s : State) (pkg : Nat) : Bool :=
  match s.queueOf pkg with
  | some n => decide ((tabGet s.sendqs { pkg := pkg } n).list.length < 32)
  | none => s.freeQueue.isSome

/-- FSEND's status code for a descriptor (14 R438, R445): 0 QUEUED, 1 INVALID, 2 NO-PEER, 3 NO-SLOT. -/
def State.sendCode (s : State) (p : Nat) (b : List Byte) : Nat :=
  let src := fieldAt b 0 8
  let dst := fieldAt b 8 8
  let len := fieldAt b 16 4
  let pkg := fieldAt b 20 2
  let fl := fieldAt b 22 1
  let ok (a n k : Nat) : Bool := a % k == 0 && match placeN a n with | some (.alcove _ _) => false | some _ => true | none => false
  if !(decide (pkg < 2 ^ 12) && decide (fl < 4) && fieldAt b 23 1 == 0 && fieldAt b 40 24 == 0 && len % 64 == 0 && decide (64 ≤ len ∧ len ≤ 2 ^ 30) &&
       ok src len 64 && ok dst len 64 && (fl % 2 == 0 || ok (fieldAt b 24 8) 8 8) && (fl / 2 == 0 || ok (fieldAt b 32 8) 8 8)) then 1
  else if pkg = s.fab.pkg ∨ s.peerFlag p pkg 2 = false then 2
  else if !s.someSlot pkg s.fab.pkg then 3
  else 0

/-- A transfer queued: its status word and the state. -/
def State.sendQueue (s : State) (tid : Nat) (b : List Byte) : State × W64 :=
  let t := s.task tid
  let code := s.sendCode t.part b
  if code ≠ 0 then (s, BitVec.ofNat 64 code)
  else
    let pkg := fieldAt b 20 2
    let fl := fieldAt b 22 1
    match (match s.queueOf pkg with | some n => some n | none => s.freeQueue) with
    | none => (s, BitVec.ofNat 64 code)
    | some n =>
      let q := tabGet s.sendqs { pkg := pkg } n
      let x : Send := { ticket := q.next, no := s.fab.sends + 1, tid := tid, part := t.part, src := fieldAt b 0 8, dst := fieldAt b 8 8, len := fieldAt b 16 4, dnote := if fl % 2 = 1 then some (fieldAt b 24 8) else none, snote := if fl / 2 = 1 then some (fieldAt b 32 8) else none, priv := s.privileged t, clk := t.pts, core := t.core, since := s.groupedTime pkg }
      ({ s with fab := { s.fab with sends := s.fab.sends + 1 }, sendqs := tabPut s.sendqs n { q with next := (q.next + 1) % 2 ^ 32, list := q.list ++ [x] } },
       BitVec.ofNat 64 (q.next * 2 ^ 32 + n * 2 ^ 16))

/-- A queue's transfers replaced; an empty queue is freed. -/
def State.putSends (s : State) (n : Nat) (l : List Send) : State :=
  let q := tabGet s.sendqs { pkg := 0 } n
  { s with sendqs := if l.isEmpty then tabDel s.sendqs n else tabPut s.sendqs n { q with list := l } }

/-- A transfer of a queue replaced. -/
def State.putSend (s : State) (n i : Nat) (x : Send) : State := s.putSends n ((tabGet s.sendqs { pkg := 0 } n).list.set i x)

/-- The place in a queue of the transfer that replies and acknowledgements are for: the first not yet acknowledged whole. -/
def State.openSend (s : State) (n : Nat) : Option Nat := (tabGet s.sendqs { pkg := 0 } n).list.findIdx? fun x => !x.broken && decide (x.acked < x.len)

/-- The transfer that a queue sends next: the first with bytes left, the ones before it all sent (14 R437; 19 R458). -/
def State.sendIdx (s : State) (n : Nat) : Option Nat := (tabGet s.sendqs { pkg := 0 } n).list.findIdx? fun x => !x.broken && decide (x.pos < x.len)

/-- A transfer of a queue. -/
def State.sendAt (s : State) (n i : Nat) : Option Send := (tabGet s.sendqs { pkg := 0 } n).list[i]?

/-- A transfer fails: it sends no more, its task hears of it, and its snote is left (14 R435, R439, R440). -/
def State.sendFail (s : State) (n i reason : Nat) : State :=
  match s.sendAt n i with
  | some x => ((s.remoteError x.tid (tabGet s.sendqs { pkg := 0 } n).pkg reason 4).putSend n i { x with broken := true, fault := false, verdict := 0 })
  | none => s

/-- The location of a send's bytes at its source: a scratchpad bank held by the partition, or a translated address. -/
def State.sendLoc (s : State) (x : Send) (a n need : Nat) : Except (Option Nat) Nat :=
  match placeN a n with
  | some (.spad c off) => match s.bankOwner c (off / 32768) with
    | some o => if o / 65536 = x.part then .ok a else .error none
    | none => .error none
  | some (.global va) => match s.clusterXlat x.part 0xFFFFFF va need x.priv with
    | .ok loc => .ok loc
    | .bad c => .error (some c)
  | _ => .error none

/-- A transfer waits at its source's fault service for a page (14 R439). -/
def State.sendFault (s : State) (n i : Nat) (x : Send) (a need c : Nat) : State :=
  ((s.putSend n i { x with fault := true, verdict := 0 }).faultReq x.core x.part a (need + 8 * b2n x.priv) c (.send n x.no)).formatError c 4 x.part 0 x.core x.tid a

/-- A queue's head transfer leaves it: requests that waited for it may go. -/
def State.sendDone (s : State) (n : Nat) : State :=
  match (tabGet s.sendqs { pkg := 0 } n).list with
  | [] => s
  | x :: rest =>
    let s1 := s.putSends n (match rest with | y :: r => { y with since := s.groupedTime (tabGet s.sendqs { pkg := 0 } n).pkg } :: r | [] => [])
    let s2 := match tabFind s1.tasks x.tid with
      | some t => s1.putTask x.tid { t with clks := tabPut t.clks 5 (max (tabGet t.clks 0 5) x.clk) }
      | none => s1
    s2.sendRequests

/-- A queue's head is acknowledged whole, or has failed: only its snote is left, and no page is waited for. -/
def Send.noteDue (x : Send) : Bool := (x.broken || x.acked == x.len) && (!x.fault || x.verdict != 0)

/-- SNOTE_ADD: snote, when valid, is incremented and the transfer leaves its queue (14 R440). It waits for its page as a source sector
does; one that is refused, or lies in a bad sector, is not written, and a transfer that had not failed is recorded as failed. -/
def State.noteAdd (s : State) (n : Nat) : State :=
  match s.sendAt n 0 with
  | none => s
  | some x =>
    let fail (reason : Nat) : State := if x.broken then s.sendDone n else (s.sendFail n 0 reason).sendDone n
    match x.snote with
    | none => s.sendDone n
    | some a =>
      if x.fault && decide (2 ≤ x.verdict) then fail 6
      else match s.sendLoc x a 8 3 with
      | .ok loc => if s.badAt loc 8 then fail 4 else ((s.homeWrite x.clk loc (natLe 8 ((memNat s.mem loc 8 + 1) % 2 ^ 64))).2).sendDone n
      | .error none => fail 6
      | .error (some c) => s.sendFault n 0 x a 3 c

/-- The port and channel that a queue's next flit leaves by: no fault is pending, and its destination is in the group. -/
def State.sendPort (s : State) (n : Nat) : Option (Nat × Nat) :=
  let q := tabGet s.sendqs { pkg := 0 } n
  match (s.sendIdx n).bind fun i => q.list[i]? with
  | none => none
  | some x => if (!x.fault || x.verdict != 0) && s.grouped q.pkg then s.outPort 3 q.pkg false false none else none

/-! A port's arbiter (14 R432). -/

/-- The first number after the last served, in turn, that is ready. -/
def nextInTurn (n last : Nat) (ready : Nat → Bool) : Option Nat := ((List.range n).map fun i => (last + 1 + i) % n).find? ready

/-- A packet is not passed: no earlier packet of its class for its destination waits here or is stranded (14 R431, R436). -/
def State.foremost (s : State) (i : Nat) (x : FPkt) : Bool :=
  let same (y : FPkt) : Bool := y.cls == x.cls && y.dst == x.dst
  !s.transit.any same && !(s.outbox.take i).any same

/-- The waiting packet of a class that a port serves next, and the channel: the first that it takes. -/
def State.waitsAt (s : State) (j cls : Nat) : Option (Nat × Nat) :=
  (List.range s.outbox.length).findSome? fun i => match s.outbox[i]? with
    | some x =>
      if x.cls == cls && s.grouped x.dst && s.foremost i x then match s.outPort cls x.dst x.esc x.through x.hop with
        | some (k, v) => if k = j then some (i, v) else none
        | none => none
      else none
    | none => none

/-- The scheduled queue whose turn it is on a port; 64 stands for the scheduled packets on their way through this package. -/
def State.queueTurn (s : State) (j : Nat) : Option Nat :=
  nextInTurn 65 (s.port j).sq fun q => if q = 64 then (s.waitsAt j 3).isSome else (s.sendPort q).any fun x => x.1 == j

/-- The class whose turn it is on a port. -/
def State.classTurn (s : State) (j : Nat) : Option Nat :=
  nextInTurn 4 (s.port j).cls fun c => if c = 3 then (s.queueTurn j).isSome else (s.waitsAt j c).isSome

/-- SEND_FLIT can run for a queue: it is the turn of its class, and its own, on its port. -/
def State.canSendFlit (s : State) (n : Nat) : Bool :=
  match s.sendPort n with
  | some (j, _) => s.classTurn j == some 3 && s.queueTurn j == some n
  | none => false

/-- A port can send the next flit of a waiting packet. -/
def State.canSendWaiting (s : State) (j : Nat) : Bool :=
  match s.classTurn j with
  | some c => c != 3 || s.queueTurn j == some 64
  | none => false

/-! ### Receive buffers (14 R430, R431) -/

/-- Flits a round trip needs (14 R430). -/
def Port.rrt (p : Port) : Nat := (7 * p.flight + 1) / 2 + 16

/-- Bytes the transit store holds. -/
def transitBytes (l : List FPkt) : Nat := l.foldl (fun n x => n + x.data.length) 0

/-- The transit store has no room for what should move into it: the package stops its inputs (14 R431). -/
def State.transitFull (s : State) : Bool := decide (2 ^ 26 < transitBytes (s.transit ++ s.outbox.filter fun x => !s.grouped x.dst))

/-- The channels of the flits in a port's receive buffer: those for this package, and those on their way through it. -/
def State.heldAt (s : State) (j : Nat) : List Nat :=
  (s.port j).inbox.map Prod.fst ++ s.outbox.filterMap fun x => match x.via with
    | some (k, ch) => if k = j then some ch else none
    | none => none

/-- The stop/go signals a port gives (14 R430). -/
def State.signal (s : State) (j : Nat) : State :=
  let p := s.port j
  let held := s.heldAt j
  let full := s.transitFull
  let shared := 4096 - (held.filter fun c => c % 4 != 3).length
  let esc (c : Nat) : Nat := (held.filter fun x => x == 4 * c + 3).length
  let bit (ch : Nat) : Bool :=
    let was := p.rstops / 2 ^ ch % 2 == 1
    if full then true
    else if ch % 4 = 3 then
      if 1024 - p.rrt ≤ esc (ch / 4) then true else if esc (ch / 4) ≤ (1024 - p.rrt) / 2 then false else was
    else if shared < p.rrt then true else if 2 * p.rrt ≤ shared then false else was
  s.putPort j { p with rstops := ((List.range 16).filter bit).foldl (fun m i => m + 2 ^ i) 0 }

/-- Every port's signals given afresh. -/
def State.signalAll (s : State) : State := (s.ports.map Prod.fst).foldl State.signal s

/-- Flits of a class leave the receive buffers as their packet is taken. -/
def State.takeFlits (s : State) (cls n : Nat) : State :=
  (List.range n).foldl (fun s _ =>
    match s.ports.find? fun p => p.2.inbox.any fun f => f.1 / 4 == cls with
    | some (j, p) => (s.putPort j { p with inbox := p.inbox.eraseP fun f => f.1 / 4 == cls }).signal j
    | none => s) s

/-! ### Flits out (14 R429-R432, R439) -/

/-- SEND_FLIT for a port: the next flit of the class whose turn it is. A packet on its way through leaves its receive buffer. -/
def State.sendWaiting (s : State) (j : Nat) : State :=
  match s.classTurn j with
  | none => s
  | some c => match s.waitsAt j c with
    | none => s
    | some (i, v) => match s.outbox[i]? with
      | none => s
      | some x =>
        let s1 := s.putPort j ((s.port j).send s.ftime c v 64 x.dst x.src x.flit)
        let s2 := { s1 with outbox := if x.last then s.outbox.eraseIdx i else s.outbox.set i { x with pos := x.pos + 1, hop := some (j, v), esc := x.esc || v == 3, via := none } }
        let s3 := if x.cls = 2 ∧ x.src = s.fab.pkg then s2.farMark (fieldAt x.data 0 4) else s2
        match x.via with
        | some (k, _) => s3.signal k
        | none => s3

/-- SEND_FLIT: the next 128 bytes, or the odd last 64, of a queue's transfer are read and sent (14 R439). -/
def State.sendFlit (s : State) (n : Nat) : State :=
  let q := tabGet s.sendqs { pkg := 0 } n
  match s.sendIdx n with
  | none => s
  | some i => match q.list[i]? with
    | none => s
    | some x =>
      if x.fault && decide (2 ≤ x.verdict) then s.sendFail n i 6
      else
        let k := if x.len - x.pos ≥ 128 then 2 else 1
        let at_ (m : Nat) : Nat := x.src + x.pos + 64 * m
        let go (m : Nat) : Except (Option Nat) Nat := s.sendLoc x (at_ m) 64 1
        let stop (e : Option Nat) (m : Nat) : State := match e with
          | none => s.sendFail n i 6
          | some c => s.sendFault n i x (at_ m) 1 c
        match go 0, (if k = 2 then go 1 else go 0) with
        | .error e, _ => stop e 0
        | _, .error e => stop e 1
        | .ok l0, .ok l1 =>
          let locs := if k = 2 then [l0, l1] else [l0]
          if locs.any fun l => s.badAt l 64 then s.sendFail n i 4
          else
            let (clk, bs, s1) := s.loadAll 0xFFFFFF x.clk (locs.map fun l => (l, 64))
            let s2 := { s1 with copies := s.copies }
            match s.sendPort n with
            | none => s
            | some (j, v) => (s2.putPort j ((s2.port j).send s.ftime 3 v n q.pkg s.fab.pkg (padTo 128 bs))).putSend n i
                { x with pos := x.pos + 64 * k, clk := clk, since := if x.fault then s.groupedTime q.pkg else x.since, fault := false, verdict := 0 }

/-! ### The destination side (14 R434, R439, R440) -/

/-- What a line of a remote access comes to at the destination. -/
inductive Far where
  | ok (loc : Nat)
  | wait
  | no (reason : Nat)
  deriving DecidableEq, Repr

/-- A line's location at its home, on behalf of a partition (14 R434). -/
def State.farLoc (s : State) (p a n need : Nat) : Far :=
  match placeN a n with
  | some (.spad c off) => match s.bankOwner c (off / 32768) with
    | some o => if o / 65536 = p then .ok a else .no 2
    | none => .no 2
  | some (.global va) => match s.clusterXlat p 0xFFFFFF va need false with
    | .ok loc => .ok loc
    | .bad _ => .wait
  | _ => .no 2

/-- A request waits at the fault service of the partition's lowest-numbered die (14 R434); it is asked for once. -/
def State.farFault (s : State) (p a need : Nat) (line : Bool) (x : StepArgs) : State :=
  let die := firstDie (s.part p).dies
  let d := s.die die
  let mine (y : FSlot) : Bool := y.part == p && y.va == a / 4096 * 4096 && y.reqs.contains (.remote line x)
  let cause := match s.clusterXlat p 0xFFFFFF a need false with | .bad c => c | .ok _ => 0
  if d.waitq.any mine || d.slots.any (fun x => mine x.2) then s
  else (s.faultReq (die * 4096) p a (need % 4) cause (.remote line x)).formatError cause 4 p 0 (die * 4096) 0 a

/-- A read at its home under a package's clock (14 R434): never served by a cached copy. -/
def State.farRead (s : State) (pkg loc n : Nat) : List Byte × State :=
  let bs := memBytes s.mem loc n
  if isHost loc then (bs, s)
  else
    let (w, r) := s.stamp (lineOf loc)
    let ts := max (tabGet s.xpts 0 pkg) w
    (bs, { s with stamps := tabPut s.stamps (lineOf loc) (w, max r ts), xpts := tabPut s.xpts pkg ts })

/-- A write at its home under a package's clock (14 R434). -/
def State.farWrite (s : State) (pkg loc : Nat) (bs : List Byte) : State :=
  let (c, s1) := s.homeWrite (tabGet s.xpts 0 pkg) loc bs
  { s1 with xpts := tabPut s1.xpts pkg c }

/-- A reply packet: kind, reason, TASKID, data. -/
def State.reply (s : State) (pkg kind reason tid : Nat) (bs : List Byte) : State :=
  s.emit { cls := 1, dst := pkg, src := s.fab.pkg, data := natLe 1 kind ++ natLe 1 reason ++ natLe 4 tid ++ bs }

/-- REMOTE_REQUEST: an operation of kind 1 RLD, 2 RST, 3 RATOM by a package, for a partition of this one: performed at the home, or
answered with an error, or waiting for the fault service (14 R434, R435). Operands as `execRemoteRequest` names them. -/
def State.remoteRequest (s0 : State) (x : StepArgs) : State :=
  let (pkg, p, kind, a, aux, tid, data) := (x.unit, x.sub, x.num % 4, x.addr, x.aux, x.num / 4, x.bytes)
  let s := s0.takeFlits 0 (if kind = 2 then 2 else 1)
  let no (r : Nat) : State := s.reply pkg kind r tid []
  if (tabFind s.parts p).isNone then no 7
  else
    let need := if kind = 1 then 1 else if kind = 2 then 2 else 3
    let n := if kind = 3 then (if aux / 8 % 4 = 2 then 4 else 8) else 64
    let l0 := s.farLoc p a n need
    let l1 := if kind = 3 then l0 else s.farLoc p (a + 64) 64 need
    match l0, l1 with
    | .no r, _ => no r
    | .wait, _ => s0.farFault p a need false x
    | .ok _, .no r => no r
    | .ok _, .wait => s0.farFault p (a + 64) need false x
    | .ok x, .ok y =>
      if kind ≠ 2 ∧ (s.badAt x n || s.badAt y n) = true then no 4
      else match kind with
      | 1 =>
        let (b0, s1) := s.farRead pkg x 64
        let (b1, s2) := s1.farRead pkg y 64
        s2.reply pkg kind 0 tid (b0 ++ b1)
      | 2 => ((s.farWrite pkg x (data.take 64)).farWrite pkg y ((data.drop 64).take 64)).reply pkg kind 0 tid []
      | _ =>
        let old := memNat s.mem x n
        let new := atomicFn (aux % 8) (aux / 32 % 2 == 1) n old (fieldAt data 0 8 % 2 ^ (8 * n)) (fieldAt data 8 8 % 2 ^ (8 * n))
        (s.farWrite pkg x (natLe n new)).reply pkg kind 0 tid (natLe n old)

/-- The number of a line within its transfer, and of its transfer, as a SEND_LINE_PERFORM brings them. -/
def StepArgs.line (x : StepArgs) : Nat := x.aux / 16 % 2 ^ 24
def StepArgs.xfer (x : StepArgs) : Nat := x.aux / 2 ^ 40

/-- What is taken of a package's transfers. -/
def State.recv (s : State) (pkg : Nat) : Recv := tabGet s.recvs {} pkg
/-- The same replaced. -/
def State.putRecv (s : State) (pkg : Nat) (r : Recv) : State := { s with recvs := tabPut s.recvs pkg r }

/-- A line is of a transfer that is over here: it has been taken, or the transfer has failed. -/
def Recv.past (r : Recv) (x : StepArgs) : Bool :=
  decide (x.xfer < r.no) || (x.xfer == r.no && (r.st == 0 || decide (x.line < r.line)))

/-- A line can be taken: it is over; or it is the next of its transfer, or the first of a later transfer, the one before being over (14
R436, R439; 19 R458). `aux` bit 3: the transfer before it stopped at its source. -/
def Recv.takes (r : Recv) (x : StepArgs) : Bool :=
  r.past x || (x.xfer == r.no && x.line == r.line) ||
  (decide (r.no < x.xfer) && x.line == 0 && (r.st == 0 || (r.st == 1 && x.aux / 8 % 2 == 1)))

/-- SEND_LINE_PERFORM: a transferred line is performed at its home; after the last, dnote is incremented (14 R439, R440). A line that waits
for its page holds those after it. Operands as `execSendLinePerform` names them. -/
def State.sendLine (s0 : State) (x : StepArgs) : State :=
  let (pkg, p, a, bs) := (x.unit, x.sub, x.addr, x.bytes)
  let s := if x.aux / 4 % 2 = 1 then s0 else s0.takeFlits 3 (x.aux / 2 % 2)
  let move (s : State) (st : Nat) : State := s.putRecv pkg { no := x.xfer, line := if st = 2 then x.line else x.line + 1, st := st }
  let no (r : Nat) : State := (move s 0).reply pkg 4 r 0 []
  if (s.recv pkg).past x then s
  else if (tabFind s.parts p).isNone then no 7
  else match s.farLoc p a 64 2 with
  | .no r => no r
  | .wait => (move s0 2).farFault p a 2 true x
  | .ok loc =>
    let s1 := if x.aux / 4 % 2 = 1 then s else s.farWrite pkg loc bs
    if !x.flag then move s1 1
    else match (if x.aux % 2 = 1 then some x.num else none) with
      | none => (move s1 0).reply pkg 4 0 0 []
      | some d => match s1.farLoc p d 8 3 with
        | .no r => (move s1 0).reply pkg 4 r 0 []
        | .wait => (move s1 2).farFault p d 3 true { x with aux := x.aux / 8 * 8 + x.aux % 4 + 4 }
        | .ok dl => if s1.badAt dl 8 then (move s1 0).reply pkg 4 4 0 []
                    else (move (s1.farWrite pkg dl (natLe 8 ((memNat s1.mem dl 8 + 1) % 2 ^ 64))) 0).reply pkg 4 0 0 []

/-! ### Ports (14 R419-R423, R430) -/

/-- Active wavelengths. -/
def Port.active (p : Port) : Nat := p.map.length
/-- The state of a port whose circuit is up. -/
def Port.upState (p : Port) : Nat := if p.active < 4 then 0 else if p.active = 8 then 2 else 3
/-- An up port's state follows its active wavelengths. -/
def Port.restate (p : Port) : Port := if p.st = 2 ∨ p.st = 3 ∨ (p.st = 0 ∧ !p.down ∧ p.flight ≠ 0) then { p with st := p.upState } else p
/-- A wavelength of a port. -/
def Port.wave (p : Port) (w : Nat) : Wave := tabGet p.waves {} w
/-- The port with a wavelength replaced. -/
def Port.putWave (p : Port) (w : Nat) (x : Wave) : Port := { p with waves := tabPut p.waves w x }

/-- A stripe map with λ8 in a wavelength's place. -/
def mapSwitch (m : List Nat) (w : Nat) : List Nat := m.map fun x => if x = 8 then x else if x = w then 8 else x
/-- A stripe map without a wavelength. -/
def mapWithout (m : List Nat) (w : Nat) : List Nat := m.filter fun x => x != w
/-- A stripe map with a wavelength back in its place; `spare` is the wavelength that λ8 stands in for, whose place λ8 has. -/
def mapBack (m : List Nat) (spare : Option Nat) (w : Nat) : List Nat :=
  let place (x : Nat) : Nat := if x = 8 then spare.getD 8 else x
  if spare = some w then m.map fun x => if x = 8 then w else x
  else if m.contains w then m
  else (m.filter fun x => decide (place x < place w)) ++ [w] ++ m.filter fun x => decide (place w < place x)

/-- The stripe map of flit f: what was announced for it or for a flit before it counts, and a map left since does for the flits before
(14 R420, R422). -/
def Port.mapOf (p : Port) (f : Nat) : List Nat :=
  let due (x : Option (Nat × Nat)) : Option Nat := x.bind fun y => if y.1 ≤ f then some y.2 else none
  match due p.sw, due p.wd, due p.hb with
  | some w, _, _ => mapSwitch p.map w
  | _, some w, _ => mapWithout p.map w
  | _, _, some w => mapBack p.map p.spare w
  | none, none, none => (p.was.takeWhile fun x => decide (f < x.1)).foldl (fun _ x => x.2) p.map

/-- A flit from which a new map holds; the old one is kept for the flits before. -/
def Port.putMap (p : Port) (f : Nat) (m : List Nat) : Port := { p with map := m, was := (f, p.map) :: p.was }

/-- The wavelength that carried beat b of flit f (14 R420); a flit sent again travels under the map of that time. -/
def Port.carrier (p : Port) (f b : Nat) (again : Bool) : Nat :=
  (beatLanes (if again then p.mapOf (max f p.rx) else p.mapOf f) f).getD b 0

/-- A flit's eight beats have arrived; entry 8 names its channel and destination. -/
def flitReady (bs : List (Nat × List Byte)) : Bool := (List.range 9).all fun i => bs.any fun x => x.1 == i

/-- A flit's payload. -/
def flitBytes (bs : List (Nat × List Byte)) : List Byte :=
  (List.range 8).foldr (fun i acc => ((bs.find? fun x => x.1 == i).elim [] Prod.snd) ++ acc) []

/-- Complete flits handed over in sequence: those for this package into the receive buffer, the others on their way (14 R420). -/
def State.handOver (s : State) (j : Nat) : Nat → State
  | 0 => s
  | n + 1 =>
    let p := s.port j
    match tabFind p.beats p.rx with
    | none => s
    | some bs =>
      if !flitReady bs then s
      else
        let route := (bs.find? fun x => x.1 == 8).elim [] Prod.snd
        let ch := fieldAt route 0 1
        let (dst, src) := (fieldAt route 2 2, fieldAt route 4 2)
        let d := flitBytes bs
        let p1 := { p with beats := tabDel p.beats p.rx, rx := p.rx + 1, fails := tabDel p.fails p.rx }
        if dst = s.fab.pkg then ((s.putPort j { p1 with inbox := p1.inbox ++ [(ch, d)] }).signal j).handOver j n
        else (((s.putPort j p1).emit { cls := ch / 4, dst := dst, src := src, data := d, esc := ch % 4 == 3, through := true, via := some (j, ch) }).signal j).handOver j n

/-- FLIT_RECEIVE: a beat arrives at a port (14 R420, R421): flit number, beat index, how often the flit had been sent before, its
wavelength's corrected codewords, whether it could not be corrected, its bytes, and the channel, destination and source of its flit. The
first such beat of a transmission fails its flit, which is asked for again; what else comes of that transmission is dropped. -/
def State.flitReceive (s : State) (j f b tries cc : Nat) (bad : Bool) (bs route : List Byte) : State :=
  let p := s.port j
  let w := p.carrier f b (tries != 0)
  let x := p.wave w
  let p0 := p.putWave w { x with cc := x.cc + cc, ub := x.ub + b2n bad }
  let n := tabGet p0.fails 0 f
  if tries ≠ n then s.putPort j p0
  else if bad then
    let p1 := { p0 with beats := tabDel p0.beats f, fails := tabPut p0.fails f (n + 1) }
    if n + 1 < 16 then s.putPort j { p1 with retries := p1.retries + 1 }
    else (s.putPort j { p1 with st := 0, down := true, fails := [] }).pkgError 0x1D 4 (natLe 1 j)
  else
    let old := (tabGet p0.beats [] f).filter fun y => y.1 != b && y.1 != 8
    (s.putPort j { p0 with beats := tabPut p0.beats f (old ++ [(b, bs), (8, route)]) }).handOver j 256

/-! ### Wavelengths (14 R422) -/

/-- A wavelength's counters have reached a threshold. -/
def Wave.bad (x : Wave) : Bool := decide (4096 ≤ x.cc) || decide (8 ≤ x.ub)

/-- A wavelength class's record (14 R422). -/
def waveTail (j w : Nat) (x : Wave) : List Byte := natLe 1 j ++ natLe 1 w ++ natLe 6 0 ++ natLe 4 x.tcc ++ natLe 4 x.tub

/-- RETRAIN_TRIGGER can run. -/
def State.canTrigger (s : State) (j w : Nat) : Bool :=
  let p := s.port j
  let x := p.wave w
  (x.st == 0 && x.bad && decide (w < 9)) || (x.st == 3 && p.retr.isNone)

/-- The spare can take a wavelength's place: it stands in for none, and is neither in retraining nor retired. -/
def Port.spareIdle (p : Port) : Bool := p.spare.isNone && (p.wave 8).st == 0

/-- RETRAIN_TRIGGER: retraining starts, the spare taking the wavelength's place if it is idle; or the wavelength waits. Its adaptation
counts from the flit at which it leaves the stripe map. The counters of its record are those at its trigger, before any wait. -/
def State.retrain (s : State) (j w : Nat) : State :=
  let p := s.port j
  let x0 := p.wave w
  let x := if x0.st = 3 then x0 else { x0 with tcc := x0.cc, tub := x0.ub }
  if p.retr.isSome then s.putPort j (p.putWave w { x with st := 3 })
  else
    let p1 := { p.putWave w { x with st := 1, timer := s.ftime + 120000 } with retr := some w }
    let p2 := if !p.map.contains w then p1
              else if p.spareIdle && w != 8 then { p1 with sw := some (p.rx + 64, w) } else { p1 with wd := some (p.rx + 64, w) }
    (s.putPort j p2).pkgError 0x15 4 (waveTail j w (p1.wave w))

/-- A retraining wavelength has left the stripe map: its 120,000 ns of adaptation begin. -/
def Port.adapt (p : Port) (w now : Nat) : Port := if (p.wave w).st = 1 then p.putWave w { p.wave w with timer := now + 120000 } else p

/-- STRIPE_SWITCH: the spare takes a wavelength's place. -/
def Port.switch (p : Port) (now : Nat) : Port :=
  match p.sw with
  | some (f, w) => { (p.adapt w now).putMap f (mapSwitch p.map w) with spare := some w, sw := none }
  | none => p

/-- A wavelength leaves the stripe map before a flit. -/
def Port.withdraw (p : Port) (f w now : Nat) : Port :=
  { (p.adapt w now).putMap f (mapWithout p.map w) with wd := match p.wd with | some (g, v) => if v = w then none else some (g, v) | none => none }.restate

/-- WAVELENGTH_HANDBACK: a wavelength takes back its place. -/
def Port.handBack (p : Port) : Port :=
  match p.hb with
  | some (f, w) => { (p.putWave w {}).putMap f (mapBack p.map p.spare w) with spare := if p.spare = some w then none else p.spare, hb := none, retr := none }.restate
  | none => p

/-- The next flit boundary: the first flit that no beat has come of. -/
def Port.nextFlit (p : Port) : Nat := p.beats.foldl (fun m x => max m (x.1 + 1)) p.rx

/-- An announced change reaches its flit. -/
def Port.reached (p : Port) (x : Option (Nat × Nat)) : Bool := match x with | some (f, _) => decide (f ≤ p.rx) | none => false

/-- The wavelength that a withdrawal is due for, and its flit: announced, or waiting with 64 uncorrectable beats. -/
def Port.toWithdraw (p : Port) : Option (Nat × Nat) :=
  match p.wd with
  | some (f, w) => if f ≤ p.rx then some (f, w) else none
  | none => ((List.range 9).find? fun w => (p.wave w).st == 3 && decide (64 ≤ (p.wave w).ub) && p.map.contains w).map fun w => (p.nextFlit, w)

/-- RETRAIN_TEST_END: the test, which also counts `cc` codewords and `ub` beats of its own, passes, is tried again, or the wavelength is
retired. -/
def State.testEnd (s : State) (j w cc ub : Nat) : State :=
  let p := s.port j
  let x := p.wave w
  if x.cc + cc < 64 ∧ x.ub + ub = 0 then s.putPort j { p.putWave w { x with st := 5, fails := 0 } with hb := some (p.rx + 64, w) }
  else if x.fails + 1 < 3 then s.putPort j (p.putWave w { x with st := 1, fails := x.fails + 1, timer := s.ftime + 120000, cc := 0, ub := 0 })
  else (s.putPort j { p.putWave w { x with st := 4, fails := 3 } with retr := none }).pkgError 0x16 4 (waveTail j w x)

/-! ### Slots (14 R424-R428, R431) -/

/-- A port as a slot begins (14 R427). -/
def State.portSlot (s : State) (i j start : Nat) : Port :=
  let p := s.port j
  let e := tbPort s.fab.table i j
  if peValid e = true ∧ p.peer = pePkg e ∧ p.pport = pePort e ∧ (p.st = 2 ∨ p.st = 3) then { p with closed := false }
  else
  -- the circuit ends: what was announced for one of its flits takes effect now
  let p := p.switch s.ftime
  let p := match p.wd with | some (f, w) => p.withdraw f w s.ftime | none => p
  let p := { p.handBack with was := [], tnew := none }
  if !peValid e then { p with st := 4, closed := false, down := false }
  else { p with st := 1, peer := pePkg e, pport := pePort e, guard_ := start + tbGuard s.fab.table i, tx := 0, rx := 0, beats := [], sent := [], fails := [], down := false, closed := false, stops := 0 }

/-- A packet keeps its next hop as a slot begins: one is there, and the port by which its flits have begun to leave still has its circuit
(14 R431). -/
def State.keepsHop (s : State) (up : Nat → Bool) (x : FPkt) : Bool :=
  s.hasHop x && match x.hop with
  | some (j, _) => up j && (s.port j).up
  | none => true

/-- SLOT_BOUNDARY: a slot begins; held packets whose next hop no longer exists are stranded: they move to the transit store, in order, while
it has room (14 R427, R431). -/
def State.slotBoundary (s : State) : State :=
  match slotAt s.fab.table s.ftime with
  | none => s
  | some (i, start) =>
    let s1 := (List.range 16).foldl (fun s j => s.putPort j (s.portSlot i j start)) s
    let s2 := { s1 with fab := { s1.fab with slot := some i, start := start } }
    let keep := s2.keepsHop fun j => (s.port j).up
    let gone := (s2.outbox.filter fun x => !keep x).map fun x => { x with hop := none, via := none }
    if transitBytes (s2.transit ++ gone) ≤ 2 ^ 26 then ({ s2 with outbox := s2.outbox.filter keep, transit := s2.transit ++ gone } : State).signalAll
    else s2.signalAll

/-- A new slot has begun: slots run from the first lock on, whether or not the module is locked (14 R424, R427). -/
def State.slotDue (s : State) : Bool :=
  s.fab.synced && !s.fab.table.isEmpty &&
  match slotAt s.fab.table s.ftime with
  | some (i, start) => s.fab.slot != some i || s.fab.start != start
  | none => false

/-- A stripe map as a peer's control beat gives it; anything else leaves all eight positions (14 R422). -/
def peerStripes (bs : List Byte) : List Nat :=
  let m := bs.map BitVec.toNat
  if !m.isEmpty && decide (m.length ≤ 8) && distinct m && (m.all fun x => decide (x < 9)) then m else [0, 1, 2, 3, 4, 5, 6, 7]

/-- GUARD_END: a circuit comes up, and the port learns the stripe map of its peer; or it stays DOWN for the slot: a flight above 250 ns, a
peer whose table disagrees, too few wavelengths (14 R419, R422, R426, R427). -/
def State.guardEnd (s : State) (j flight : Nat) (mismatch : Bool) (stripes : List Byte) : State :=
  let p := s.port j
  if mismatch then (s.putPort j { p with st := 0, down := true, flight := 0 }).pkgError 0x10 4 (natLe 1 j)
  else if 250 < flight then s.putPort j { p with st := 0, down := true, flight := flight }
  else s.putPort j { p with st := p.upState, flight := flight, tmap := peerStripes stripes, free_ := laneUnit * s.ftime }

/-- WINDOW_CLOSE can run: the end of the slot is near and the next slot's peer differs (14 R427). -/
def State.windowDue (s : State) (j : Nat) : Bool := s.fab.slot.isSome && (s.port j).up && !(s.port j).closed && s.windowEnded j

/-- TRANSIT_REINJECT: the stranded packets whose destination is in the current group are injected again, before later ones, under the rules
of injection (14 R431). -/
def State.transitInject (s : State) : State :=
  let now (x : FPkt) : Bool := s.grouped x.dst
  let again := (s.transit.filter now).map fun x => { x with through := false }
  { s with transit := s.transit.filter (fun x => !now x), outbox := again ++ s.outbox }.signalAll

/-- Some stranded packet's destination is in the current group. -/
def State.canReinject (s : State) : Bool := s.transit.any fun x => s.grouped x.dst

/-- SLOT_TABLE: an image is checked, and kept until its activation time or rejected (14 R426). -/
def State.slotTable (s : State) (tb : List Byte) : State :=
  let c := tbCycle s.fab.table
  let fits := s.fab.table.isEmpty || (decide (tbStart s.fab.table ≤ tbStart tb) && c != 0 && (tbStart tb - tbStart s.fab.table) % c == 0)
  if tableOk s.fab.pkg tb && fits then { s with fab := { s.fab with pend := tb } } else s.pkgError 0x10 4 []

/-- A peer table's entries: package, partition index, flags, four bytes each (14 R428). -/
def peerEntries (b : List Byte) : Tab (Nat × Nat) :=
  (List.range (b.length / 4)).foldl (fun t i => tabPut t (fieldAt b (4 * i) 2 % 2 ^ 12) (fieldAt b (4 * i + 2) 1, fieldAt b (4 * i + 3) 1 % 8)) []

/-- A transfer of a partition that has not been acknowledged whole. -/
def Send.ofPart (x : Send) (p : Nat) : Bool := x.part == p && !x.broken && decide (x.acked < x.len)

/-- PEER_TABLE: a partition's table is written; operations and transfers toward packages removed from it fail, wherever they stand in their
queues (14 R428, R435). -/
def State.peerTable (s : State) (p : Nat) (b : List Byte) : State :=
  let s1 := s.putPart p { s.part p with peers := peerEntries b }
  let s2 := (s1.rops.filter fun o => o.part == p && !s1.peerFlag p o.pkg 0).foldl (fun s o => s.ropFail o.tid 5) s1
  (s2.sendqs.filter fun q => !s2.peerFlag p q.2.pkg 2).foldl (fun s q =>
    (List.range q.2.list.length).foldl (fun s i => if (s.sendAt q.1 i).any fun x => x.ofPart p then s.sendFail q.1 i 5 else s) s) s2

/-- The next FTIME, from now on, at which a table groups a package, before the instant `until` at which it is replaced. -/
def nextGrouped (tb : List Byte) (pkg now : Nat) (upTo : Option Nat) : Option Nat :=
  let c := tbCycle tb
  if c = 0 then none
  else
    let k := (max now (tbStart tb) - tbStart tb) / c
    let slots := (List.range (tbSlots tb)).filter fun j => (tbPkgs tb j).contains pkg
    let starts := (List.range 2).foldr (fun i acc => slots.map (fun j =>
      let a := tbStart tb + (k + i) * c + tbOffset tb j
      if a ≤ now ∧ now < a + tbDur tb j then now else a) ++ acc) []
    match starts.filter fun x => decide (now ≤ x) && upTo.all fun e => decide (x < e) with
    | [] => none
    | x :: r => some (r.foldl min x)

/-- FCLK's value of a field (14 R446); all ones is -1. -/
def State.fclk (s : State) (t : Task) (field pkg : Nat) : W64 :=
  let ones : W64 := 0xFFFFFFFFFFFFFFFF
  match field with
  | 0 => BitVec.ofNat 64 s.ftime
  | 1 => match s.fab.slot with
    | some i => BitVec.ofNat 64 (i + 16 * b2n ((List.range 16).any fun j => (s.port j).st == 1) + 256 * tbGen s.fab.table)
    | none => ones
  | 2 => if s.fab.slot.isSome then BitVec.ofNat 64 s.fab.start else ones
  | 3 => if s.fab.slot.isSome then BitVec.ofNat 64 s.slotEnd else ones
  | 4 =>
    if (tabFind (s.part t.part).peers pkg).isNone then ones
    else if s.grouped pkg then BitVec.ofNat 64 s.ftime
    else
      let next := if s.fab.pend.isEmpty then nextGrouped s.fab.table pkg s.ftime none
        else ((nextGrouped s.fab.table pkg s.ftime (some (tbStart s.fab.pend))).or (nextGrouped s.fab.pend pkg (max s.ftime (tbStart s.fab.pend)) none))
      (next.map (BitVec.ofNat 64)).getD ones
  | 5 => match s.queueOf pkg with
    | some n => BitVec.ofNat 64 ((tabGet s.sendqs { pkg := pkg } n).list.foldl (fun a x => a + if x.broken then 0 else x.len - x.acked) 0)
    | none => 0
  | _ => BitVec.ofNat 64 (t.part * 4096 + s.fab.pkg)

end Sys2Proof.Machine
end

