-- ==== Sys2Proof/Machine/HostOps.lean ====
section
/-! DEFINITION. The host's mailboxes and parameters, boot and attestation, partition reset, checkpoint and restart, cluster
failures, power (13 R393-R418), and what a step settles before it ends. -/

namespace Sys2Proof.Machine

/-! ### The mailbox (13 R395, R396) -/

/-- Status codes of MBSTAT beside those of 09 R296. -/
def stBad : Nat := 0x10
def stBusy : Nat := 0x11
def stNotQuiescent : Nat := 0x12
def stVerify : Nat := 0x13
def stResetting : Nat := 0x14

/-- MBSTAT. -/
def Part.mbstat (q : Part) : Nat := q.mbseq * 2 ^ 32 + q.mbcmd * 2 ^ 24 + q.mbst * 2 ^ 8 + b2n q.busy

/-- A function's BARs are enabled: the module is READY and the partition is configured (13 R394, R400). -/
def State.mailOpen (s : State) (p : Nat) : Bool := s.boot.stage == 3 && (tabFind s.parts p).isSome

/-- A command that answers without having been in progress: MBSTAT is written, and busy left alone. -/
def State.mailNote (s : State) (p code st : Nat) : State :=
  let q := s.part p
  s.putPart p { q with mbseq := (q.mbseq + 1) % 2 ^ 32, mbcmd := code, mbst := st }

/-- A command is in progress: busy until its effects are complete (13 R395). -/
def State.mailBusy (s : State) (p code : Nat) : State := s.putPart p { s.part p with busy := true, code := code }

/-- A command other than LAUNCH: ignored and counted while busy is 1; BAD-COMMAND where a bit not named is set. -/
def State.mail (s : State) (p code : Nat) (badBits : Bool) (run : State → State) : State :=
  let q := s.part p
  if q.busy then s.putPart p { q with refused := q.refused + 1 }
  else if badBits then s.mailDone p code stBad
  else run s

/-- The partition has a region. -/
def State.hasRegion (s : State) (p : Nat) : Bool := s.regions.any fun r => r.2.part == p

/-- LAUNCH by mailbox (09 R267): its doorbell runs at the partition's clock; a LAUNCH of no region is dropped and logged. It leaves
busy alone. -/
def State.mailLaunch (s : State) (p r : Nat) (badBits : Bool) : State :=
  let key := p * 65536 + r
  let fin (s : State) (st : Nat) : State := s.mailNote p 1 st
  if badBits then fin s stBad
  else if (tabFind s.regions key).isNone then
    fin (s.error { part := p, cls := 0x0A, src := 4, core := firstDie (s.part p).dies * 4096, tail := natLe 8 r }) stNoRegion
  else fin (s.doorbell key (s.part p).hpts) stDone

/-- CREATE-ROOT and CONTROL: a request of the whole partition; busy until its effects are complete. -/
def State.mailRequest (s : State) (p code fn a : Nat) : State :=
  let (s1, st, done) := s.rgnctl p none fn a 0 (s.part p).hpts
  if done then s1.mailDone p code st else s1.mailBusy p code

/-! ### Power (13 R414-R416) -/

/-- Dies of a mask. -/
def dieCount (m : Nat) : Nat := (bitsOf m 4).length

/-- allocate (13 R415): open partitions (number, dies, limit), what remains, allowances so far. -/
def allocate : Nat → List (Nat × Nat × Nat) → Nat → Tab Nat → Tab Nat
  | 0, _, _, a => a
  | n + 1, open_, left, a =>
    let d := open_.foldl (fun t x => t + x.2.1) 0
    let share (x : Nat × Nat × Nat) : Nat := left * x.2.1 / max d 1
    let fixed := open_.filter fun x => x.2.2 != 0 && decide (x.2.2 ≤ share x)
    if fixed.isEmpty then open_.foldl (fun a x => tabPut a x.1 (share x)) a
    else
      allocate n (open_.filter fun x => !(fixed.any fun y => y.1 == x.1)) (left - fixed.foldl (fun t x => t + x.2.2) 0)
        (fixed.foldl (fun a x => tabPut a x.1 x.2.2) a)

/-- The smaller of two caps, 0 meaning none. -/
def minCap (a b : Nat) : Nat := if a = 0 then b else if b = 0 then a else min a b

/-- A partition's limit lp. -/
def State.limitOf (s : State) (p : Nat) : Nat := minCap (s.power.rankPart.getD p 0) (s.part p).pcap

/-- Allowances under a module limit; `caps` off leaves the partition limits out. -/
def State.allowances (s : State) (lmod : Nat) (caps : Bool) : Tab Nat :=
  let ps := s.parts.map fun x => (x.1, dieCount x.2.dies, if caps then s.limitOf x.1 else 0)
  (allocate (ps.length + 1) ps lmod []).map fun x => (x.1, max x.2 (300 * dieCount (s.part x.1).dies))

/-- The clock, in MHz, that a draw at 4,000 MHz comes to under a limit in W: lowered in 50 MHz steps, not below 1,000
(notes/assumptions/44: the draw is taken proportional to the clock). -/
def clockFor (draw limit : Nat) : Nat :=
  if draw ≤ limit then 4000 else max 1000 (4000 * limit / max draw 1 / 50 * 50)

/-- The clock a die has, which its part of the allowance and its own limits give, and the causes that bind it: those whose limit alone
would give the lowest clock (13 R415, R416). -/
def State.dieClock (s : State) (d : Nat) : Nat × Nat :=
  match s.partOfDie d with
  | none => (4000, 0)
  | some p =>
    let x := s.die d
    let n := max (dieCount (s.part p).dies) 1
    let part (l : Nat) (caps : Bool) : Nat := clockFor x.draw (tabGet (s.allowances (max l 1200) caps) 0 p / n)
    let fs := [if s.power.own = 0 then 4000 else part s.power.own false,
               if s.power.rankMod = 0 then 4000 else part s.power.rankMod false,
               if s.limitOf p = 0 then 4000 else clockFor x.draw (max (s.limitOf p) (300 * n) / n),
               x.tlimit, x.climit]
    let low := fs.foldl min 4000
    let now := min (min x.tlimit x.climit) (clockFor x.draw (tabGet (s.allowances s.power.limit true) 0 p / n))
    (now, if low < 4000 ∧ now < 4000 then ((List.range 5).filter fun i => fs.getD i 4000 == low).foldl (fun m i => m + 2 ^ i) 0 else 0)

/-- The module limit before its floor: the smallest of the own cap, the rank cap and 4,000 W (13 R415). -/
def State.rawLimit (s : State) : Nat := minCap (minCap s.power.own s.power.rankMod) 4000

/-- A new module limit below 1,200 W was raised: class CAP-CHANGED (13 R415). -/
def State.capRaised (s : State) : State := if s.rawLimit < 1200 then s.pkgError 0x18 5 [] else s

/-- The limits applied: module limit, allowances, the dies' clocks and their cores' THRCAUSE. -/
def State.applyPower (s : State) : State :=
  let s2 := { s with power := { s.power with limit := max s.rawLimit 1200 } }
  let al := s2.allowances s2.power.limit true
  let s3 := { s2 with parts := s2.parts.map fun (x : Nat × Part) => (x.1, { x.2 with allow := tabGet al 0 x.1, lim := s2.limitOf x.1 }) }
  (List.range 4).foldl (fun s d =>
    let (mhz, why) := s.dieClock d
    let s1 := s.putDie d { s.die d with mhz := mhz, bound := why }
    if why = 0 then s1
    else (s1.coresOn (2 ^ d)).foldl (fun s c => s.putCore c { s.core c with thrcause := (s.core c).thrcause ||| why }) s1) s3

/-- CAP_BROADCAST (13 R414): applied only when its sequence is later than the last one applied. -/
def State.capBroadcast (s : State) (b : List Byte) : State :=
  let seq := fieldAt b 4 4
  let later := match s.power.seq with
    | none => true
    | some q => decide (0 < (seq + 2 ^ 32 - q) % 2 ^ 32 ∧ (seq + 2 ^ 32 - q) % 2 ^ 32 < 2 ^ 31)
  let n := fieldAt b 16 1
  if fieldAt b 0 4 ≠ 0x43415001 ∨ n = 0 ∨ 64 < n ∨ !later then s
  else
    let o := 32 + 16 * (if s.power.rank < n then s.power.rank else n - 1)
    ({ s with power := { s.power with rankMod := fieldAt b o 2, rankPart := (List.range 4).map fun i => fieldAt b (o + 2 + 2 * i) 2, seq := some seq } }.applyPower).capRaised

/-! ### PARAM (13 R397) -/

/-- PARAM's outcome: the state and the status. -/
def State.param (s : State) (p idx v : Nat) : State × Nat :=
  let q := s.part p
  let set (ok only : Bool) (q' : Part) : State × Nat :=
    if !ok then (s, stInvalid) else if only && s.hasRegion p then (s, stBusy) else (s.putPart p q', stDone)
  match idx with
  | 0 => set (v % 4096 == 0 && decide (v < 2 ^ 39) && q.dies / 2 ^ (v / 2 ^ 37) % 2 == 1) true { q with ptroot := v }
  | 1 => set (v % 8192 == 0 && decide (v < 2 ^ 48) && (s.engPieces p 3 4 v 8192).isSome) true { q with fqbase := v }
  | 2 => set (v % 65536 == 0 && decide (v < 2 ^ 48)) true { q with ttbase := v }
  | 3 => set (decide (1 ≤ v ∧ v ≤ 255)) true { q with lease := v }
  | 4 => set (v % 32 == 0 && decide (v < 2 ^ 51)) false { q with evqbase := v, evqhead := 0, evqtail := 0 }
  | 5 => set (decide (4 ≤ v ∧ v ≤ 16)) false { q with evqlen := v, evqhead := 0, evqtail := 0 }
  | 6 => set (v % 32 == 0 && decide (v < 2 ^ 48)) false { q with errbase := v, errs := 0 }
  | 7 => set (decide (4 ≤ v ∧ v ≤ 20)) false { q with errlen := v, errs := 0 }
  | 8 => match s.engRead p v 256 with
    | some b => (s.putPart p { q with sevmat := b }, stDone)
    | none => (s.svcRead 3 p 0 v 256, stInvalid)
  | 9 =>
    if v < 65536 then ((s.putPart p { q with pcap := v }).applyPower, stDone) else (s, stInvalid)
  | _ => (s, stBad)

/-! ### RESYNC (13 R413) -/

/-- A die's 16 bytes. -/
def State.dieSummary (s : State) (d : Nat) : List Byte :=
  let x := s.die d
  let cs := (s.cores.filter fun c => dieOf c.1 == d).map Prod.snd
  let cap (wide : Bool) : Nat := 384 - (cs.filter fun c => !capable c.outmask wide).length
  natLe 1 x.pairs ++ natLe 1 (24 - x.failed.length - x.dead.length) ++ natLe 1 (b2n x.spareFor.isSome) ++ natLe 1 (x.spareFor.getD 0) ++
  natLe 2 (cap false) ++ natLe 2 (cap true) ++ natLe 2 (cs.filter fun c => c.spare.isSome).length ++
  natLe 2 (cs.filter fun c => (List.range 4).any fun l => laneState c.outmask l == 3).length ++ natLe 1 (tabGet s.power.phases 0 d) ++ natLe 3 0

/-- A port's 8 bytes. -/
def Port.summary (p : Port) : List Byte :=
  natLe 1 p.st ++ natLe 1 p.active ++ natLe 1 (b2n p.spare.isSome) ++ natLe 1 (p.retr.getD 0xFF) ++ natLe 4 p.retries

/-- The measured power of the module: the dies' draws at their clocks (notes/assumptions/44). -/
def State.measured (s : State) : Nat := (List.range 4).foldl (fun t d => t + (s.die d).draw * (s.die d).mhz / 4000) 0

/-- The summary's 1,024 bytes. -/
def State.summary (s : State) (p : Nat) : List Byte :=
  let q := s.part p
  let cat {α : Type} (l : List α) (f : α → List Byte) : List Byte := l.foldr (fun x acc => f x ++ acc) []
  let mine := (s.regions.filter fun r => r.2.part == p).take 44
  natLe 4 0x00030001 ++ natLe 4 q.mbseq ++ natLe 8 s.ns ++ natLe 8 s.ftime ++ natLe 4 q.ckseq ++ natLe 1 p ++ natLe 1 q.dies ++
  natLe 1 (b2n s.boot.unprot) ++ natLe 1 0 ++
  cat (List.range 4) (fun i =>
    let x := s.part i
    natLe 1 x.dies ++ natLe 1 x.st ++ natLe 2 (s.regions.filter fun r => r.2.part == i).length ++ natLe 2 x.events ++ natLe 2 0) ++
  cat (List.range 4) s.dieSummary ++ cat (List.range 16) (fun j => (s.port j).summary) ++
  natLe 1 s.link.gts ++ natLe 1 s.link.width ++ natLe 1 7 ++ natLe 1 0 ++ natLe 4 s.link.replays ++ natLe 4 s.link.downs ++ natLe 4 q.refused ++
  natLe 1 s.power.rank ++ natLe 1 0 ++ natLe 2 s.power.own ++ natLe 2 s.power.rankMod ++ natLe 2 s.power.limit ++
  cat (List.range 4) (fun i => natLe 2 (s.part i).allow) ++ cat (List.range 4) (fun i => natLe 2 (s.part i).lim) ++ natLe 2 s.measured ++
  cat (List.range 4) (fun d => natLe 1 ((s.cores.filter fun c => dieOf c.1 == d).foldl (fun m c => m ||| c.2.thrcause) 0)) ++ natLe 2 0 ++
  natLe 4 q.evlost ++ natLe 4 q.errs ++
  natLe 4 (s.dies.foldl (fun n d => if q.dies / 2 ^ d.1 % 2 = 1 then n + d.2.slots.length else n) 0) ++ natLe 4 q.unmasked ++
  padTo 704 (cat mine fun r =>
    natLe 2 r.2.id ++ natLe 1 r.2.state ++ natLe 1 r.2.prio ++ natLe 2 r.2.domain ++ natLe 2 0 ++ natLe 8 (s.usage r.1))

/-- RESYNC: the block is written to host memory; a MBARG that is not 64-byte aligned, or no host address, gives INVALID-RCB. -/
def State.resync (s : State) (p : Nat) : State × Nat :=
  let a := (s.part p).mbarg
  if a % 64 ≠ 0 ∨ 2 ^ 51 < a + 1024 then (s, stInvalid)
  else ({ s with mem := memPutBytes s.mem (2 ^ 51 + a) (s.summary p) }, stDone)

/-! ### Partition reset (13 R412) -/

/-- The largest timestamp of the lines that a die homes. -/
def State.topStamp (s : State) (d : Nat) : Nat :=
  s.stamps.foldl (fun m x => if homeDie (x.1 * 64) = d ∧ isSpad (x.1 * 64) = false then max m (max x.2.1 x.2.2) else m) (s.die d).mts

/-- A core as a partition reset leaves it: CYCLE, CHMAP, CHSTAT, the slice counters and THRCAUSE stand (03 R95; 13 R411). -/
def Core.stopped (k : Core) : Core :=
  { cycle0 := k.cycle0, slcount := k.slcount, slfail := k.slfail, slinj := k.slinj, thresh := k.thresh, spare := k.spare, outmask := k.outmask, thrcause := k.thrcause }

/-- A die whose queues, slots and sump engine a partition reset has emptied; its control pairs are back in service (09 R287). -/
def Die.quiet (x : Die) : Die :=
  { mts := x.mts, decN := x.decN, decAt := x.decAt, failed := x.failed, spareFor := x.spareFor, dead := x.dead, mhz := x.mhz, tlimit := x.tlimit, climit := x.climit, draw := x.draw, bound := x.bound }

/-- Failed clusters of a die replaced: the first by the spare, if it is left, the others out (13 R411). -/
def Die.repair (x : Die) (mts : Nat) : Die :=
  match x.spareFor, x.failed with
  | none, c :: r => { x with mts := mts, spareFor := some c, dead := x.dead ++ r, failed := [] }
  | _, l => { x with mts := mts, dead := x.dead ++ l, failed := [] }

/-- The cluster, of the package, that a die's spare is to replace. -/
def State.spareDue (s : State) (d : Nat) : Option Nat :=
  match (s.die d).spareFor, (s.die d).failed with
  | none, c :: _ => some (d * 256 + c)
  | _, _ => none

/-- The spare takes over a cluster's logical number, cleared: its cores, scratchpads, barriers and control word (13 R411). -/
def State.takeOver (s : State) (cl : Nat) : State :=
  { s with
    mem := (List.range 16).foldl (fun m i => tabClear m (spadAddr (cl * 16 + i) 0) (2 ^ 19)) s.mem
    cores := s.cores.map fun (c : Nat × Core) => if clusterOf c.1 = cl then (c.1, { cycle0 := c.2.cycle0, thrcause := (s.die (dieOf c.1)).bound }) else c }

/-- Remote requests that wait at a die's fault service are answered with reason RESET (14 R435). -/
def State.refuseWaiting (s : State) (d : Nat) : State :=
  (((s.die d).slots.map Prod.snd) ++ (s.die d).waitq).foldl (fun s x =>
    x.reqs.foldl (fun s r => match r with | .remote line a => s.refuseFar line a 3 | _ => s) s) s

/-- A partition reset begins: its cores stop issuing, and what steps 1, 3 and 4 discard is gone; nothing can see it in between. A command in
progress completes with RESETTING (13 R412). `cmd`: it is asked for by RESET. -/
def State.resetPart (s : State) (p : Nat) (clear cmd : Bool) : State :=
  if (s.part p).st = 1 then s
  else
    let s := if (s.part p).busy then s.mailDone p (s.part p).code stResetting else s
    let q := s.part p
    let on (d : Nat) : Bool := q.dies / 2 ^ d % 2 == 1
    let ds := bitsOf q.dies 4
    let s := ds.foldl State.refuseWaiting s
    let s1 : State := { s with
      tasks := s.tasks.filter fun t => t.2.part != p
      rerr := s.rerr.filter fun x => (s.task x.1).part != p
      cores := s.cores.map fun (c : Nat × Core) => if on (dieOf c.1) then (c.1, c.2.stopped) else c
      bars := s.bars.filter fun b => !on (b.1 / 32 / 256)
      ctlb := s.ctlb.filter fun c => !on (c.1 / 256)
      regions := s.regions.filter fun r => r.2.part != p
      banks := s.banks.filter fun x => x.2 / 65536 != p
      algr := s.algr.filter fun x => x.2 / 65536 != p
      bargr := s.bargr.filter fun x => x.2 / 65536 != p
      sumpgr := s.sumpgr.filter fun x => x.2 / 65536 != p
      sumps := s.sumps.filter fun x => !on (x.1 / 512)
      trees := s.trees.filter fun x => x.1 / 65536 != p
      refills := s.refills.filter fun x => x.1 / 65536 != p
      rops := s.rops.filter fun o => o.part != p
      sendqs := (s.sendqs.map fun (x : Nat × SendQ) => (x.1, { x.2 with list := x.2.list.filter fun y => y.part != p })).filter fun x => !x.2.list.isEmpty
      runs := s.runs.filter fun r => r.src.part != p
      dies := ds.foldl (fun t d => tabPut t d (s.die d).quiet) s.dies
      doom := s.doom.filter fun x => !(x.1 == 4 && x.2 == p) && !(x.1 == 3 && x.2 / 65536 == p) }
    let s2 := s1.putPart p { s1.part p with pins := [], forces := [], st := 1, ck := none, rclear := clear, rcmd := cmd }
    if cmd then s2.mailBusy p 6 else s2

/-- A partition reset ends: modified lines are back in HBM, caches are empty, failed clusters replaced, memory cleared where that was
asked for, and MBSTAT holds DONE (13 R412 steps 2 and 5 to 7). -/
def State.resetEnd (s : State) (p : Nat) : State :=
  let q := s.part p
  let on (d : Nat) : Bool := q.dies / 2 ^ d % 2 == 1
  let ds := bitsOf q.dies 4
  let gone (loc : Nat) : Bool := !isHost loc && on (homeDie loc)
  let s := (ds.filterMap s.spareDue).foldl State.takeOver s
  let s1 : State := { s with
    dies := ds.foldl (fun t d => tabPut t d ((s.die d).repair (s.topStamp d))) s.dies
    stamps := s.stamps.filter fun x => !gone (x.1 * 64)
    copies := s.copies.filter fun c => !gone (c.line * 64)
    dirty := s.dirty.filter fun x => !gone (32 * x)
    binv := s.binv.filter fun b => !gone (b.1 * 64)
    bad := s.bad.filter fun x => !gone (32 * x)
    mem := if q.rclear then s.mem.filter fun c => !gone c.1 else s.mem }
  let s2 := s1.putPart p { s1.part p with st := 0 }
  -- CAP-CHANGED at LOG, whatever the matrix (R412 step 7)
  (if q.rcmd then s2.mailDone p 6 stDone else s2.putPart p { s2.part p with mbst := stDone }).logError { part := p, cls := 0x18, src := 3, core := firstDie q.dies * 4096 }

/-! ### Clusters and control cores (13 R411; 09 R287) -/

/-- CLUSTER_FAILURE: a logical cluster is declared failed; every region with a bank or a barrier there is killed. -/
def State.clusterFail (s : State) (die c : Nat) : State :=
  let d := s.die die
  if d.failed.contains c ∨ d.dead.contains c then s
  else
    let s1 := s.putDie die { d with failed := d.failed ++ [c] }
    let cl := die * 256 + c
    let rs := nodups (((s.banks.filter fun b => b.1 / 16 / 16 == cl).map Prod.snd) ++ ((s.bargr.filter fun b => b.1 / 32 == cl).map Prod.snd))
    let s2 := match s.partOfDie die with
      | some p => s1.error { part := p, cls := 0x19, src := 1, core := cl * 16, tail := natLe 8 cl }
      | none => s1
    { s2 with doom := s2.doom ++ rs.map fun r => (3, r / 65536 * 65536 + (s.region r).domain) }

/-- CONTROL_DIVERGE: a pair leaves service; the last one takes the partition with it. -/
def State.controlDiverge (s : State) (die : Nat) : State :=
  let d := s.die die
  let s1 := s.putDie die { d with pairs := d.pairs - 1 }
  match s.partOfDie die with
  | none => s1
  | some p =>
    s1.error { part := p, cls := 0x0D, src := 3, core := die * 4096, tail := natLe 8 die, least := if d.pairs ≤ 1 then 4 else 0 }

/-! ### Boot and attestation (13 R399-R403) -/

/-- An image as it arrives: body length (4 bytes), body, key, security version (4), signature; with the bytes after it. -/
structure Image where
  body : List Byte
  key  : List Byte
  ver  : Nat
  sig  : List Byte
  deriving DecidableEq, Repr

/-- An image at the front of bytes. -/
def imageOf (b : List Byte) : Image × List Byte :=
  let n := fieldAt b 0 4
  let o := b.drop 4
  ({ body := o.take n, key := (o.drop n).take 1793, ver := fieldAt o (n + 1793) 4, sig := (o.drop (n + 1797)).take 1280 }, o.drop (n + 3077))

/-- An image's verdict: 0 accepted, or BOOTSTAT's error code. -/
def Image.verify (x : Image) : Nat :=
  if shake256 x.key 32 != (List.range 32).map Config.fuseDigest then 2
  else if !Config.falconVerify x.key (shake256 x.body 32) x.sig then 1
  else if x.ver < Config.fuseVersion then 3 else 0

/-- A measurement register extended (13 R401). -/
def Boot.extend (b : Boot) (j : Nat) (bs : List Byte) : Boot :=
  { b with meas := tabPut b.meas j (shake256 (tabGet b.meas (List.replicate 64 0) j ++ shake256 bs 64) 64) }

/-- A cluster that fails its self-test: declared failed, class CLUSTER-FAILED, and replaced by the spare, cleared, if that is left; else its
logical number names no cluster (13 R399, R411). -/
def State.testCluster (s : State) (cl : Nat) : State :=
  let d := cl / 256
  let s1 := s.clusterFail d (cl % 256)
  let s2 := match s1.spareDue d with
    | some c => s1.takeOver c
    | none => s1
  s2.putDie d ((s2.die d).repair (s2.die d).mts)

/-- What the self-test finds, eight bytes each: a kind and a number of two bytes. 0: a core and its failing slices (4 bytes); 1, 2: a
cluster whose router, or whose caches or copy engine, fail; 3: a core of which an alcove fails, and with it its cluster (the spec gives an
alcove no spare of its own); 4: rows of a die's HBM, which repair replaces with no trace (13 R399, R410, R411). -/
def State.selfTest (s : State) : Nat → List Byte → State
  | 0, _ => s
  | n + 1, b =>
    if b.length < 8 then s
    else
      let c := fieldAt b 1 2
      let s1 := match fieldAt b 0 1 with
        | 0 =>
          let k := s.core c
          let f := fieldAt b 3 4 % 2 ^ 22
          let k1 := { k with slfail := f }
          -- the first failing channel takes the spare if that is healthy; the others leave service (R96, R399)
          let ch := bitsOf f 21
          if f / 2 ^ 21 % 2 = 0 then
            match ch with
            | [] => s.putCore c k1
            | i :: r => s.putCore c { k1 with spare := some i, outmask := r.foldl (fun m j => m + 2 ^ j) 0 }
          else s.putCore c { k1 with outmask := ch.foldl (fun m j => m + 2 ^ j) 0 }
        | 1 => s.testCluster c
        | 2 => s.testCluster c
        | 3 => s.testCluster (clusterOf c)
        | _ => s
      s1.selfTest n (b.drop 8)

/-- The module boots from its images (13 R399-R401): package firmware, whose body begins with the boot configuration word (4 bytes, bit 0
unprotected), and die firmware, then the layout (dies of partitions 0-3) and what the self-test finds. `fatal`: the self-test cannot go on. Everything but
memory, fuses and the model's own fields is as after reset; every core is reset (03 R95). -/
def State.bootWith (s : State) (b : List Byte) (fatal : Bool) : State :=
  let (x0, r0) := imageOf b
  let (x1, r1) := imageOf r0
  let fresh : State := { mem := s.mem, free := s.free, agenda := s.agenda, arg := s.arg, turn := s.turn, power := { rank := s.power.rank } }
  let stop (bt : Boot) (e : Nat) : State := { fresh with boot := { bt with stage := 7, error := e } }
  let b0 := fresh.boot
  let e0 := x0.verify
  if e0 ≠ 0 then stop b0 e0
  else
    let b1 := b0.extend 0 x0.body
    let e1 := x1.verify
    if e1 ≠ 0 then stop b1 e1
    else
      let layout := r1.take 4
      let b2 := ((b1.extend 1 x1.body).extend 2 (x0.body.take 4)).extend 2 layout
      let b3 := { b2 with unprot := fieldAt x0.body 0 1 % 2 == 1, layout := layout }
      if fatal then stop b3 4
      else
        let parts : Tab Part := (List.range 4).filterMap fun p =>
          if fieldAt layout p 1 % 16 = 0 then none else some (p, { dies := fieldAt layout p 1 % 16 })
        let s1 := { fresh with boot := { b3 with stage := 3 }, parts := parts }
        (s1.selfTest 4096 (r1.drop 4)).applyPower

/-- BOOTSTAT (13 R400). -/
def Boot.word (b : Boot) : Nat := b.error * 256 + 8 * b2n b.unprot + b.stage

/-- The attestation report: what R403 lists, in its order, then bytes the spec gives no position (notes/assumptions/20). -/
def State.report (s : State) (nonce : List Byte) : List Byte :=
  let m (j : Nat) : List Byte := tabGet s.boot.meas (List.replicate 64 0) j
  let head := natLe 4 0x00040001 ++ nonce ++ m 0 ++ m 1 ++ m 2 ++ natLe 4 Config.fuseVersion ++ natLe 8 s.boot.word ++ padTo 4 s.boot.layout ++
    (List.range 1793).map Config.identityKey
  let all := head ++ (List.range 1280).map (Config.falconSign (shake256 head 32))
  (all ++ (List.range (4064 - all.length)).map fun i => Config.freeByte (s.free + i)).take 4064

/-- A command of function 0 is complete: MBSTAT is written, with busy cleared (13 R395). -/
def State.mailDone0 (s : State) (code st : Nat) : State :=
  { s with boot := { s.boot with mbseq := (s.boot.mbseq + 1) % 2 ^ 32, mbcmd := code, mbst := st, busy := none } }

/-- The ATTEST in progress on function 0 ends: the request's nonce is read and the report written after it in host memory; `free` advances
past the bytes drawn (13 R403). -/
def State.attest (s : State) : State :=
  match s.boot.busy with
  | none => s
  | some a =>
    if 2 ^ 51 < a + 4096 then s.mailDone0 9 stInvalid
    else
      let r := s.report (memBytes s.mem (2 ^ 51 + a) 32)
      { s with mem := memPutBytes s.mem (2 ^ 51 + a + 32) r, free := s.free + 4064 }.mailDone0 9 stDone

/-- A command word written to function 0's MBOX: ATTEST begins; any other, and one with a bit not named set, answers BAD-COMMAND. While
one is in progress a word is ignored and counted (13 R395, R396). -/
def State.mail0 (s : State) (w : Nat) : State :=
  if s.boot.busy.isSome then { s with boot := { s.boot with refused := s.boot.refused + 1 } }
  else if w = 9 * 2 ^ 56 then { s with boot := { s.boot with busy := some s.boot.mbarg } }
  else s.mailDone0 (w / 2 ^ 56) stBad

/-- MBSTAT of function 0. -/
def Boot.mbstat (b : Boot) : Nat := b.mbseq * 2 ^ 32 + b.mbcmd * 2 ^ 24 + b.mbst * 2 ^ 8 + b2n b.busy.isSome

/-! ### Checkpoint and restart (13 R417, R418) -/

/-- Bytes of a partition's shard after its manifest: its device memory, then its scratchpads, by die. -/
def shardData (dies : Nat) : Nat := dieCount dies * (2 ^ 37 + 384 * 2 ^ 19)

/-- The location of a byte of the shard's data. -/
def shardLoc (dies pos : Nat) : Nat :=
  let ds := bitsOf dies 4
  let n := ds.length
  if pos < n * 2 ^ 37 then ds.getD (pos / 2 ^ 37) 0 * 2 ^ 37 + pos % 2 ^ 37
  else
    let x := pos - n * 2 ^ 37
    let c := x / 2 ^ 19
    spadAddr (ds.getD (c / 384) 0 * 4096 + c % 384) (x % 2 ^ 19)

/-- The position in the shard's data of a location of the partition. -/
def shardPos (dies loc : Nat) : Option Nat :=
  let ds := bitsOf dies 4
  let rank (d : Nat) : Nat := (ds.takeWhile fun x => x != d).length
  if isHost loc ∨ !ds.contains (homeDie loc) then none
  else if isSpad loc then
    let d := homeDie loc
    some (ds.length * 2 ^ 37 + (rank d * 384 + loc / 2 ^ 32 % 256 * 16 + loc / 2 ^ 24 % 16) * 2 ^ 19 + loc % 2 ^ 19)
  else if loc < 2 ^ 39 then some (rank (loc / 2 ^ 37) * 2 ^ 37 + loc % 2 ^ 37) else none

/-- Chunk i of the data, as bytes of a memory read through a map of positions. -/
def chunkBytes (m : Memory) (at_ : Nat → Nat) (total i : Nat) : List Byte :=
  (List.range (min (2 ^ 30) (total - i * 2 ^ 30))).map fun k => memByte m (at_ (i * 2 ^ 30 + k))

/-- The manifest (13 R417; notes/assumptions/45: its fields stand in the order listed, padded to a multiple of 4 KiB). -/
def State.manifest (s : State) (p : Nat) (rcbs : List Nat) : List Byte :=
  let q := s.part p
  let n := shardData q.dies
  let body := natLe 4 0x00050001 ++ natLe 4 q.ckseq ++ padTo 4 s.boot.layout ++ natLe 4 rcbs.length ++
    rcbs.foldr (fun a acc => natLe 8 a ++ acc) [] ++
    (List.range ((n + 2 ^ 30 - 1) / 2 ^ 30)).foldr (fun i acc => shake256 (chunkBytes s.mem (shardLoc q.dies) n i) 32 ++ acc) []
  padTo ((body.length + 4095) / 4096 * 4096) body

/-- Length of a manifest. -/
def manifestLen (dies rcbs : Nat) : Nat := (16 + 8 * rcbs + 32 * ((shardData dies + 2 ^ 30 - 1) / 2 ^ 30) + 4095) / 4096 * 4096

/-- A partition is quiescent (13 R417). -/
def State.quiescent (s : State) (p : Nat) : Bool :=
  let on (d : Nat) : Bool := (s.part p).dies / 2 ^ d % 2 == 1
  let waiting (r : Nat) : Nat := (s.cores.foldr (fun c acc => c.2.deque ++ acc) []).filter (fun x => x.rkey == r) |>.length
  !(s.trees.any fun t => t.1 / 65536 == p && (t.2.st == 1 || t.2.st == 2)) && !(s.sumps.any fun x => on (x.1 / 512) && x.2.st != 0) &&
  !(s.dies.any fun d => on d.1 && !d.2.slots.isEmpty) &&
  s.regions.all fun r => r.2.part != p || decide (r.2.oflow.length + waiting r.1 ≤ r.2.ovcap) || waiting r.1 == 0

/-- Deque records of a partition moved to their regions' overflow areas. -/
def State.dequesOut (s : State) (p : Nat) : State :=
  let recs := (s.cores.foldr (fun c acc => c.2.deque.reverse ++ acc) []).filter fun x => x.part == p
  let s1 := { s with cores := s.cores.map fun (c : Nat × Core) => (c.1, { c.2 with deque := c.2.deque.filter fun x => x.part != p }) }
  recs.foldl (fun s y =>
    let g := s.region y.rkey
    let a := g.ovbase + 64 * (g.ovn % (max g.ovcap 1))
    (s.putRegion y.rkey { g with oflow := g.oflow ++ [{ y with addr := a }], ovn := g.ovn + 1 }).svcWrite 3 g.part y.rkey a y.bytes) s1

/-- The argument block: target, length, RCB list address, count; `none` where it is not valid. -/
def State.ckArgs (s : State) (p : Nat) : Option (Nat × Nat × Nat × Nat) :=
  match s.engRead p (s.part p).mbarg 64 with
  | none => none
  | some b =>
    if fieldAt b 28 36 = 0 ∧ fieldAt b 0 8 % 4096 = 0 ∧ fieldAt b 0 8 + fieldAt b 8 8 ≤ 2 ^ 51 then
      some (fieldAt b 0 8, fieldAt b 8 8, fieldAt b 16 8, fieldAt b 24 4) else none

/-- CHECKPOINT accepted: every root is parked, and every task pre-empted; `settle` writes the shard once every task is saved or stopped in place. -/
def State.checkpoint (s : State) (p : Nat) : State :=
  if !s.quiescent p then s.mailDone p 7 stNotQuiescent
  else match s.ckArgs p with
    | none => (s.svcRead 3 p 0 (s.part p).mbarg 64).mailDone p 7 stInvalid
    | some (target, len, la, n) =>
      match s.engRead p la (8 * n) with
      | none => (s.svcRead 3 p 0 la (8 * n)).mailDone p 7 stInvalid
      | some b =>
        if len < manifestLen (s.part p).dies n + shardData (s.part p).dies then s.mailDone p 7 stInvalid
        else
          let rcbs := (List.range n).map fun i => fieldAt b (8 * i) 8
          let s1 := (s.putPart p { s.part p with st := 2, ck := some (target, len, rcbs) }).mailBusy p 7
          (s.regions.filter fun r => r.2.part == p).foldl (fun s r =>
            let s1 := if r.2.parent = 0 then (s.putRegion r.1 { s.region r.1 with state := 1 }).putRcb r.1 21 1 1 else s
            ((s.residents r.1).map Prod.fst).foldl State.requestPreempt s1) s1

/-- Every task of a partition is saved or stopped in place. -/
def State.allParked (s : State) (p : Nat) : Bool :=
  s.tasks.all fun t => t.2.part != p || t.2.status == .saved || s.stoppedInPlace t.1

/-- The shard written and the checkpoint complete. -/
def State.checkpointEnd (s : State) (p : Nat) : State :=
  match (s.part p).ck with
  | none => s
  | some (target, _, rcbs) =>
    let s1 := s.dequesOut p
    let s2 := s1.putPart p { s1.part p with ckseq := ((s1.part p).ckseq + 1) % 2 ^ 32, st := 0, ck := none }
    let m := s2.manifest p rcbs
    let base := 2 ^ 51 + target
    let cleared := tabClear s2.mem base (m.length + shardData (s2.part p).dies)
    let data := s2.mem.filterMap fun c => (shardPos (s2.part p).dies c.1).map fun x => (base + m.length + x, c.2)
    let mem := data.foldl (fun t c => memPut t c.1 c.2) (memPutBytes cleared base m)
    { s2 with mem := mem }.mailDone p 7 stDone

/-- A saved task found in a save area of a region, and the time of its save (13 R418): what the area's header gives. A trap record is delivered
as its action said (07 R222): a parked task stays parked, a forwarded one waits for the handler, one under REPLAY issues its bundle again. -/
def State.taskOfArea (s : State) (r area : Nat) : Option (Task × Nat) :=
  let g := s.region r
  match s.engRead g.part area areaSize with
  | none => none
  | some b =>
    if fieldAt b 0 4 ≠ 0x00010001 ∨ fieldAt b 16 2 ≠ g.id then none
    else
      let t0 : Task := { tid := fieldAt b 4 4, part := g.part, region := g.id, prio := g.prio }
      let t := t0.ofArea b (firstDie g.dies * 4096) 0
      let hs := (List.range 8).filterMap fun i => if fieldAt b (122 + 8 * i) 1 = 0 then none else some (fieldAt b (120 + 8 * i) 1, 0)
      let (after, rec8) : TStatus × List W64 :=
        if t.trec.isEmpty then (.ready, [])
        else match g.action (trapCause t.trec) with
          | 3 => (.forwarded, t.trec)
          | 1 => (.ready, [])
          | _ => (.parked, t.trec)
      some ({ t with status := .saved, area := area, handles := hs, after := after, trec := rec8, late := fieldAt b 19 1 % 2 == 1, sregs := [], vregs := [], preds := [], niche := [], waitFrom := s.cycle }, fieldAt b 52 4)

/-- Of areas that name one TASKID, the last saved, by the CYCLE of its header: the others are left over (07 R220). -/
def lastSaved (l : List (Task × Nat)) : List (Task × Nat) :=
  l.filter fun x => l.all fun y => y.1.tid != x.1.tid || decide (y.2 < x.2) || (y.2 == x.2 && decide (y.1.area ≤ x.1.area))

/-- A saved task of RESTORE queued; a TASKID that a task of another partition has by now is replaced, in its area too
(notes/assumptions/119). A forwarded trap goes to the region that owns the action table. -/
def State.queueSaved (s : State) (r : Nat) (t : Task) : State :=
  let taken := (tabFind s.tasks t.tid).isSome
  let s1 := if taken then s.svcWrite 3 t.part r (t.area + 4) (natLe 4 s.ntid) else s
  let t1 := if taken then { t with tid := s.ntid } else t
  let s2 := { s1.putTask t1.tid t1 with ntid := max s.ntid t1.tid + 1 }
  if t1.after = .forwarded then
    let k := (s2.region r).actOwner
    s2.putRegion k { s2.region k with traps := (s2.region k).traps ++ [t1.tid] }
  else s2

/-- A region created again by RESTORE: parked, its saved tasks waiting. -/
def State.restoreRegion (s : State) (p addr : Nat) : State × Nat :=
  let parent := match s.readRcb p addr with
    | some b => if fieldAt b 0 8 = 0 then none else (s.regions.find? fun x => x.2.part == p && x.2.rcb == fieldAt b 0 8).map Prod.fst
    | none => none
  let (s1, st) := s.createRegion p parent addr
  if st ≠ 0 then (s1, st)
  else
    match s1.regions.find? fun x => x.2.part == p && x.2.rcb == addr with
    | none => (s1, st)
    | some (r, g) =>
      let s2 := (s1.putRegion r { g with state := 1 }).putRcb r 21 1 1
      let ts := lastSaved ((List.range g.spcount).filterMap fun i => s2.taskOfArea r (g.spbase + areaSize * i))
      (ts.foldl (fun s t => s.queueSaved r t.1) s2, 0)

/-- Chunks written into the partition one after another, each checked: the memory, and whether all agreed. -/
def restoreChunks (dies base mlen dig : Nat) (host : Memory) : List Nat → Memory → Memory × Bool
  | [], m => (m, true)
  | i :: r, m =>
    let n := shardData dies
    let want := memBytes host (base + dig + 32 * i) 32
    let lo := base + mlen + i * 2 ^ 30
    let len := min (2 ^ 30) (n - i * 2 ^ 30)
    -- the chunk's locations cleared, then its listed bytes written
    let m1 := m.filter fun c => match shardPos dies c.1 with
      | some x => !decide (i * 2 ^ 30 ≤ x ∧ x < i * 2 ^ 30 + len)
      | none => true
    let m2 := (host.filter fun c => decide (lo ≤ c.1 ∧ c.1 < lo + len)).foldl (fun t c => memPut t (shardLoc dies (c.1 - base - mlen)) c.2) m1
    if shake256 (chunkBytes host (fun x => base + mlen + x) n i) 32 = want then restoreChunks dies base mlen dig host r m2 else (m2, false)

/-- RESTORE (13 R418). -/
def State.restore (s : State) (p : Nat) : State :=
  if s.hasRegion p then s.mailDone p 8 stBusy
  else match s.ckArgs p with
    | none => (s.svcRead 3 p 0 (s.part p).mbarg 64).mailDone p 8 stInvalid
    | some (target, _, _, _) =>
      let base := 2 ^ 51 + target
      let n := memNat s.mem (base + 12) 4
      let dies := (s.part p).dies
      if memNat s.mem base 4 ≠ 0x00050001 ∨ memBytes s.mem (base + 8) 4 ≠ padTo 4 s.boot.layout then s.mailDone p 8 stVerify
      else
        let total := shardData dies
        let (mem, ok) := restoreChunks dies base (manifestLen dies n) (16 + 8 * n) s.mem (List.range ((total + 2 ^ 30 - 1) / 2 ^ 30)) s.mem
        let s1 := { s with mem := mem }
        if !ok then s1.mailDone p 8 stVerify
        else
          let s2 := s1.putPart p { s1.part p with ckseq := memNat s.mem (base + 4) 4 }
          let rcbs := (List.range n).map fun i => memNat s.mem (base + 16 + 8 * i) 8
          let (s3, st) := rcbs.foldl (fun (x : State × Nat) a => if x.2 ≠ 0 then x else x.1.restoreRegion p a) (s2, 0)
          s3.mailDone p 8 st

/-! ### Command words (13 R396) -/

/-- A command word, with its code in bits [63:56], written to a partition function's MBOX: its fields are decoded, and a bit not named
answers BAD-COMMAND, as does a code that is not listed. While the partition is being reset, commands other than RESYNC complete with
RESETTING (13 R412). -/
def State.mailWord (s : State) (p w : Nat) : State :=
  let q := s.part p
  let code := w / 2 ^ 56
  let low := w % 2 ^ 56
  let fn := low / 2 ^ 16 % 256
  if q.st = 1 then
    (if code = 5 ∧ low = 0 then
      let (s1, st) := s.resync p
      s1.mailNote p 5 st
    else s.mailNote p code (if code = 5 then stBad else stResetting))
  else match code with
  | 1 => s.mailLaunch p (low % 2 ^ 16) (decide (2 ^ 16 ≤ low))
  | 2 => s.mail p 2 (low != 0) fun s => s.mailRequest p 2 0 q.mbarg
  | 3 => s.mail p 3 (decide (2 ^ 24 ≤ low) || fn == 0 || decide (7 < fn)) fun s => s.mailRequest p 3 fn (low % 2 ^ 16)
  | 4 => s.mail p 4 (decide (256 ≤ low)) fun s =>
      let (s1, st) := s.param p low q.mbarg
      s1.mailDone p 4 st
  | 5 => s.mail p 5 (low != 0) fun s =>
      let (s1, st) := s.resync p
      s1.mailDone p 5 st
  | 6 => s.mail p 6 (decide (2 ≤ low)) fun s => s.resetPart p (low == 1) true
  | 7 => s.mail p 7 (low != 0) fun s => s.checkpoint p
  | 8 => s.mail p 8 (low != 0) fun s => s.restore p
  | c => s.mail p c true id

/-! ### What a step settles before it ends -/

/-- Severity actions carried out (13 R406; 09 R264). -/
def State.runDoom (s : State) : Nat → State
  | 0 => s
  | n + 1 =>
    match s.doom with
    | [] => s
    | x :: r =>
      let s1 := { s with doom := r }
      (if x.1 = 3 then s1.killDomain x.2 else s1.resetPart x.2 false false).runDoom n

/-- What every step does last: severity actions, completed requests, checkpoints whose tasks are parked, returns of tasks whose trap
was disposed of while they were stopped. -/
def State.settle (s : State) : State :=
  let s1 := if s.doom.isEmpty then s else s.runDoom 64
  let s2 := s1.regions.foldl (fun s r => if r.2.waiting.isEmpty then s else s.finishWaiting r.1) s1
  let s3 := s2.parts.foldl (fun s p => if p.2.ck.isSome && s.allParked p.1 then s.checkpointEnd p.1 else s) s2
  s3.tasks.foldl (fun s t => if t.2.status == .ready && t.2.redo.isSome then s.takeRedo t.1 else s) s3

end Sys2Proof.Machine
end

