-- ==== Sys2Proof/Machine/Operands.lean ====
section
/-! DEFINITION. Operand forms (02 R50, R51): registers, guards and immediates as the slots read them, the results they write, and the
special registers (01 R29-R31; 04 R114). -/

namespace Sys2Proof.Machine

/-! ### Reads -/

/-- A scalar register field. -/
def Task.rs (t : Task) (f : BitVec 6) : W64 := t.getS f.toNat
/-- The guard of a scalar instruction: bit 0 of the predicate (02 R51). -/
def Task.bit0 (t : Task) (p : BitVec 4) : Bool := (t.getP p.toNat).getLsbD 0
/-- A predicate field. -/
def Task.rp (t : Task) (p : BitVec 4) : BitVec 16 := t.getP p.toNat
/-- The name of a `va` field after ib0 (01 R21). -/
def Task.vaName (t : Task) (f : BitVec 7) (ix : BitVec 1) : Nat := t.indexed f.toNat t.ib0 (ix == 1)
/-- The name of a `vb` field after ib1 (01 R21). -/
def Task.vbName (t : Task) (f : BitVec 7) (ix : BitVec 1) : Nat := t.indexed f.toNat t.ib1 (ix == 1)
/-- A vector register by name, after rotation (01 R21). -/
def Task.rv (t : Task) (name : Nat) : VReg := t.getV (t.rotate name)
/-- A sign-extended immediate. -/
def imm64 {n : Nat} (i : BitVec n) : W64 := i.signExtend 64

/-! ### Results -/

/-- A scalar result usable `off` bundles later. -/
def resS (d : Nat) (off : Nat) (v : W64) : Effect := .wr (.s d) off (v.setWidth 512) 0xFFFF
/-- A predicate result; only the bits of the mask are written. -/
def resP (k : BitVec 4) (off : Nat) (v mask : BitVec 16) : Effect := .wr (.p k.toNat) off (v.setWidth 512) mask
/-- A vector result; only the lanes of the mask are written. -/
def resV (t : Task) (d : Nat) (off : Nat) (v : VReg) (mask : BitVec 16) : Effect := .wr (.v (t.rotate d)) off v mask
/-- A scalar destination of a producer. -/
def dstS (d : BitVec 6) : Dest := .s d.toNat
/-- All ones or all zeros (04 R104). -/
def allOnes (b : Bool) : BitVec 16 := if b then 0xFFFF else 0

/-! ### Special registers -/

/-- A loop level's field, zero at or above LDEPTH (01 R29). -/
def Task.level (t : Task) (d : Nat) (f : LoopLevel → Nat) : Nat :=
  match t.loops[d]? with
  | some l => f l
  | none => 0

/-- The value of a special register for a task (01 R29). -/
def State.special (s : State) (tid : Nat) (n : Nat) : W64 :=
  let t := s.task tid
  let k := s.core t.core
  BitVec.ofNat 64 (
    if n = 0x000 then tid
    else if n = 0x001 then t.core
    else if n = 0x002 then t.region
    else if n = 0x003 then t.vallot
    else if n = 0x004 then t.rotBase
    else if n = 0x005 then t.rotSize
    else if n = 0x008 then t.loops.length
    else if 0x010 ≤ n ∧ n ≤ 0x015 then t.level (n - 0x010) LoopLevel.li
    else if 0x018 ≤ n ∧ n ≤ 0x01D then t.level (n - 0x018) LoopLevel.lc
    else if n = 0x020 then t.fpmode
    else if n = 0x021 then t.fpflags
    else if n = 0x028 then s.cycleOf t.core
    else if n = 0x029 then s.ftime
    else if n = 0x02A then t.pts
    else if n = 0x030 then k.thrcause
    else if 0x040 ≤ n ∧ n ≤ 0x047 then (t.rec8.getD (n - 0x040) 0).toNat
    else if n = 0x050 then k.chmap
    else k.chstat)

/-- A special register that MOVRS may write (01 R29: RW and RW1C). -/
def specialWritable (n : Nat) : Bool :=
  n == 0x004 || n == 0x005 || decide (0x010 ≤ n ∧ n ≤ 0x015) || decide (0x018 ≤ n ∧ n ≤ 0x01D) || n == 0x020 || n == 0x021 || n == 0x030

/-- A special register that only a forwarded-trap handler reads (01 R29, R31). -/
def specialHandler (n : Nat) : Bool := decide (0x040 ≤ n ∧ n ≤ 0x047)

/-- A level of the loop stack changed, if it is in use (01 R29). -/
def Task.setLevel (t : Task) (d : Nat) (f : LoopLevel → LoopLevel) : Task :=
  match t.loops[d]? with
  | some l => { t with loops := t.loops.set d (f l) }
  | none => t

/-- ROTBASE reduced modulo ROTSIZE, 0 while that is 0 (01 R24). -/
def rotReduce (base size : Nat) : Nat := if size = 0 then 0 else base % size

/-- A special register that holds a loop level's LI or LC (01 R29). -/
def specialLoop (n : Nat) : Bool := decide (0x010 ≤ n ∧ n ≤ 0x015) || decide (0x018 ≤ n ∧ n ≤ 0x01D)

/-- A write of a special register of the task itself (01 R24, R29, R30; 00 R2). -/
def Task.setSpecial (t : Task) (n : Nat) (v : W64) : Task :=
  let x := v.toNat
  if n = 0x004 then { t with rotBase := rotReduce x t.rotSize }
  else if n = 0x005 then
    let z := min (x / 8 * 8) t.vn
    { t with rotSize := z, rotBase := rotReduce t.rotBase z }
  else if 0x010 ≤ n ∧ n ≤ 0x015 then t.setLevel (n - 0x010) fun l => { l with li := x }
  else if 0x018 ≤ n ∧ n ≤ 0x01D then t.setLevel (n - 0x018) fun l => { l with lc := x % 2 ^ 32 }
  else if n = 0x020 then { t with fpmode := x % 4 }
  else if n = 0x021 then { t with fpflags := x % 32 }
  else t

/-- A write of a special register (04 R114); THRCAUSE is the core's, and ones clear its bits (01 R29), which a cause that still binds the
clock sets again (13 R416). -/
def State.setSpecial (s : State) (tid n : Nat) (v : W64) : State :=
  let t := s.task tid
  if n = 0x030 then
    let k := s.core t.core
    s.putCore t.core { k with thrcause := (k.thrcause &&& (31 - v.toNat % 32)) ||| (s.die (dieOf t.core)).bound }
  else s.putTask tid (t.setSpecial n v)

/-! ### Loops (01 R24-R27) -/

/-- advance() (01 R24). -/
def Task.advance (t : Task) : Task := { t with rotBase := rotReduce (t.rotBase + 1) t.rotSize }

/-- A stage predicate written by a push or a closure: results due for it in the next bundle are overwritten (04 R103). -/
def Task.setStage (t : Task) (k : Nat) (b : Bool) : Task :=
  ({ t with flights := t.flights.filter fun f => !(f.dst == Dest.p k && decide (f.due ≤ t.nb + 1)) }).putP k (allOnes b)

/-- The stage predicates of a LOOPR level written from its mask (01 R22). -/
def Task.setStages (t : Task) (stages mask : Nat) : Task :=
  (List.range stages).foldl (fun t j => t.setStage (8 + j) (mask / 2 ^ j % 2 == 1)) t

/-- A level pushed (01 R26). -/
def Task.pushLevel (t : Task) (l : LoopLevel) : Task :=
  let t1 := { t with loops := t.loops ++ [l] }
  if l.rot then t1.setStages l.s l.mask else t1

/-- The top level popped. -/
def Task.popLevel (t : Task) : Task := { t with loops := t.loops.dropLast }

/-- close_level of 01 R27: the task, and whether it branches back. -/
def Task.closeLevel (t : Task) (go : Bool) : Task × Bool :=
  match t.loops.getLast? with
  | none => (t, false)
  | some l =>
    let start := go && decide (1 < l.lc)
    let l1 := { l with li := (l.li + 1) % 2 ^ 64, lc := if start then l.lc - 1 else 0 }
    let mask := if l.rot then (2 * l.mask + b2n start) % 2 ^ l.s else 0
    let live := if l.rot then mask != 0 else start
    let t1 := if l.rot then t.advance.setStages l.s mask else t
    let t2 := { t1 with loops := t1.loops.dropLast ++ [{ l1 with mask := mask }] }
    if live then ({ t2 with pc := l.first }, true) else (t2.popLevel, false)

/-! ### The allotment (01 R18-R20) -/

/-- Free vector registers of a core (01 R18). -/
def State.freeRegs (s : State) (core : Nat) : Nat :=
  512 - ((s.core core).tasks.foldl (fun n x => n + (s.task x).vn) 0)

/-- The value ALLOT writes for a request (01 R18). -/
def State.allotResult (s : State) (t : Task) (a : W64) : W64 :=
  let n := a.toNat
  if !([32, 64, 96, 128].contains n) || decide (n < t.rotSize) then 0xFFFFFFFFFFFFFFFF
  else if t.vn < n ∧ s.freeRegs t.core < n - t.vn then 0
  else a

/-- The allotment changed: the registers released, and those granted, are zero and full, and what was on its way to them is discarded
(01 R18-R20, R35). It acts after every result of its bundle (`State.commit`); a ROTSIZE that a MOVRS of the same bundle set above the new
allotment is limited to it (DESIGN CHOICE, notes/assumptions/113). -/
def Task.setAllot (t : Task) (n : Nat) : Task :=
  let m := min t.vn n
  let gone (d : Dest) : Bool := match d with | .v i => decide (m ≤ i) | _ => false
  let keep : BitVec 128 := BitVec.ofNat 128 (2 ^ m - 1)
  { t with
    vn := n, rotSize := if n < t.rotSize then n else t.rotSize, rotBase := if n < t.rotSize then rotReduce t.rotBase n else t.rotBase
    vregs := t.vregs.filter fun x => decide (x.1 < m), vEmpty := t.vEmpty &&& keep, vFail := t.vFail &&& keep
    flights := t.flights.filter fun f => !gone f.dst
    prods := t.prods.map fun p => { p with dsts := p.dsts.map fun d => if gone d then .s 0 else d } }

end Sys2Proof.Machine
end

