-- ==== Sys2Proof/Machine/MxIssue.lean ====
section
/-! DEFINITION. The checks a matrix instruction makes when it issues (06 R175, R183; 05 R159), and its entry into the matrix queue
(06 R174). A follow-on word (08 R240) goes through the same checks. -/

namespace Sys2Proof.Machine

/-- The scale-queue words of a task, oldest first (05 R166). -/
def Core.ownWords (k : Core) (tid : Nat) : List Nat := (k.scq.filter fun x => x.1 == tid).map Prod.snd

/-- The oldest `n` words of a task popped (05 R166). -/
def dropOwn (tid : Nat) : Nat → List (Nat × Nat) → List (Nat × Nat)
  | _, [] => []
  | 0, q => q
  | n + 1, x :: r => if x.1 = tid then dropOwn tid n r else x :: dropOwn tid (n + 1) r

/-- The alcove check of one handle (05 R159): the physical alcove, or a fault, or a hold. -/
def State.alcoveCheck (s : State) (t : Task) (h kind : Nat) (policy : Bool) : Except SlotOut Nat :=
  match tabFind t.handles h with
  | none => .error (.fault 0x0C 0 none 0)
  | some a =>
    let x := (s.core t.core).alcove a
    if x.kind ≠ kind ∨ x.st = 1 ∨ x.st = 2 then .error (.fault 0x0C 0 none 0)
    else if x.st = 3 then .error (if policy then .fault 0x0C 0 none 0 else .hold (.alcove a) [])
    else .ok a

/-- Two outcomes of alcove checks: a fault before a hold. -/
def firstFault (l : List (Except SlotOut Nat)) : Option SlotOut :=
  match (l.find? fun x => match x with | .error (.fault _ _ _ _) => true | _ => false) with
  | some (.error o) => some o
  | _ => l.findSome? fun x => match x with | .error o => some o | .ok _ => none

/-- Limit on K-steps between retirements (06 R183). -/
def State.stepLimit (s : State) (t : Task) (w : Nat) : Nat :=
  if mMaxk w = 0 then (s.region t.rkey).maxk else min (s.region t.rkey).maxk (mMaxk w)

/-- Limit on the depth of an I64 tile (06 R177, R183). -/
def depthLimit (w : Nat) : Nat := 2 ^ (if mDlim w = 0 then 23 else mDlim w)

/-- What an MMA or MMAS comes to at issue, with the empty-policy bit of its slot: a fault, a hold, or its queue operation
(06 R175 steps 1 to 7). A K-step that would pass the depth limit only if a queued retirement kept its tile waits for it
(notes/assumptions/77). -/
def State.mmaCheck (s : State) (tid cd : Nat) (z neg : Bool) (ha hb : Nat) (hm : Option Nat) (policy : Bool) :
    Except SlotOut MxOp :=
  let t := s.task tid
  let k := s.core t.core
  match (k.tile cd).issue with
  | none => .error (.fault 0x01 0 none 0)
  | some w =>
    let xa := s.alcoveCheck t ha 0 policy
    let xb := s.alcoveCheck t hb 1 policy
    let xm := match hm with
      | some h => s.alcoveCheck t h 2 policy
      | none => .ok 0
    let words := (k.ownWords tid).take (mWords w)
    if hm.isSome != (mSp w != 0) then .error (.fault 0x01 0 none 0)
    else if !capable k.outmask (mLane w == 1) then .error (.fault 0x0F 0 none 0)
    else match firstFault [xa, xb, xm] with
      | some o => .error o
      | none =>
        let a := xa.toOption.getD 0
        let b := xb.toOption.getD 0
        let m := xm.toOption.getD 0
        if hm.isSome && !metaAllOk w (k.alcove m).data then .error (.fault 0x13 0 none 0)
        else if words.length < mWords w then .error (.fault 0x0D 0 none 0)
        else if s.stepLimit t w < t.steps + mSteps w then .error (.fault 0x0E 0 none 0)
        else if mAcc w = 0 ∧ depthLimit w < (if z then 0 else k.issueDepth cd false) + 32 then .error (.fault 0x0E 2 none 0)
        else if mAcc w = 0 ∧ depthLimit w < (if z then 0 else k.issueDepth cd true) + 32 then .error (.hold (.tile cd) [])
        else if 32 ≤ k.mq.length then .error (.hold (.mqueue 1) [])
        else .ok (.mma cd z neg a b (if hm.isSome then some m else none) words)

/-- An alcove gains a queued read (05 R160). -/
def Core.addRead (k : Core) (a : Nat) : Core := k.putAlcove a { k.alcove a with reads := (k.alcove a).reads + 1 }

/-- A matrix operation enters the queue at its commit, with what it takes with it: the scale words and queued reads of a K-step, the
step count, the issue mode of MSET, the empty marks of a retirement (06 R174, R175, R180, R182, R183, R186, R188); a K-step's alcoves
are read for 8 cycles (06 R200). -/
def State.mxEnter (s : State) (tid : Nat) (op : MxOp) (ds : List Dest) : State :=
  let t := s.task tid
  let k := s.core t.core
  let e : MxEnt := { id := k.mid, tid := tid, op := op, tok := t.ntok, clk := t.pts, due := s.cycle + (if op.isMma then 8 else 0) }
  let k1 := { k with mq := k.mq ++ [e], mid := k.mid + 1 }
  match op with
  | .mset _ mode =>
    (s.putCore t.core ((op.tiles).foldl (fun (k : Core) c => k.putTile c { k.tile c with issue := some mode }) k1)).putTask tid
      { t with ntok := t.ntok + 1 }
  | .mma cd _ _ a b m words =>
    let k2 := { ((k1.addRead a).addRead b) with scq := dropOwn tid words.length k.scq }
    let k3 := match m with | some x => k2.addRead x | none => k2
    (s.putCore t.core k3).putTask tid
      { t with ntok := t.ntok + 1, steps := t.steps + (match (k.tile cd).issue with | some w => mSteps w | none => 1) }
  | .mret _ _ _ _ => (s.putCore t.core k1).putTask tid { (t.produce ds .mret) with steps := 0 }
  | .mretv _ _ _ => (s.putCore t.core k1).putTask tid { (t.produce ds .mret) with steps := 0 }
  | _ => (s.putCore t.core k1).putTask tid { t with ntok := t.ntok + 1 }

end Sys2Proof.Machine
end

