-- ==== Sys2Proof/Machine/Issue.lean ====
section
/-! DEFINITION. Issuing a bundle: fetch (02 R36-R40), the decode stages (02 R59), holds (01 R11), the commit of every slot's effects
(04 R103; 07 R203), traps (07 R205), suspension and the choice of the next task (01 R32, R33). -/

namespace Sys2Proof.Machine

open Host (Outcome)

/-! ### Fetch -/

/-- The sixteen words of the packet of a word address, or the cause and byte address of a fetch fault (02 R36; 04 R119). -/
def State.fetch (s : State) (t : Task) (pc : Nat) : Except (Nat × Nat) (List Nat) :=
  let a := pc / 16 * 64
  if 2 ^ 46 ≤ pc then .error (0x09, a % 2 ^ 64)
  else match s.xlat t.part t.core a 4 (s.privileged t) with
    | .ok loc => .ok ((List.range 16).map fun i => memNat s.mem (loc + 4 * i) 4)
    | .bad 1 => .error (0x09, a)
    | .bad _ => .error (0x08, a)

/-- Slots present in a header. -/
def presence (h : Nat) : Nat := (bitsOf h 8).length

/-- A word of a packet is the header of a bundle (02 R37). -/
def isHeader (ws : List Nat) (i : Nat) : Bool := i != 0 && ws.getD 0 0 / 2 ^ (i - 1) % 2 == 1

/-- The walk of check_packet from word i (02 R38). -/
def walkPacket (ws : List Nat) : Nat → Nat → Bool
  | 0, _ => false
  | n + 1, i =>
    let e := i + presence (ws.getD i 0)
    decide (e ≤ 15) && ((List.range (e - i)).all fun j => !isHeader ws (i + 1 + j)) &&
    (e == 15 ||
      (if isHeader ws (e + 1) then walkPacket ws n (e + 1)
       else (List.range (15 - e)).all fun j => !isHeader ws (e + 1 + j) && ws.getD (e + 1 + j) 0 == 0))

/-- check_packet (02 R38). -/
def checkPacket (ws : List Nat) : Bool :=
  let w := ws.getD 0 0
  w / 2 ^ 28 == 0xA && w / 2 ^ 15 % 2 ^ 13 == 0 && isHeader ws 1 && walkPacket ws 16 1

/-- The word address of the bundle that follows the one at `pc` (02 R39). -/
def nextBundle (ws : List Nat) (pc : Nat) : Nat :=
  let i := pc % 16
  let e := i + presence (ws.getD i 0)
  if e < 15 ∧ isHeader ws (e + 1) = true then pc - i + e + 1 else pc - i + 17

/-- The slots of a bundle and their words, ascending (02 R41). -/
def bundleSlots (ws : List Nat) (i : Nat) : List (Slot × BitVec 32) :=
  let ns := bitsOf (ws.getD i 0) 8
  (ns.zip ((List.range ns.length).map fun j => BitVec.ofNat 32 (ws.getD (i + 1 + j) 0))).filterMap fun x =>
    (Slot.ofNum x.1).map fun sl => (sl, x.2)

/-- Where a transfer may go: not a header, or reached (a fetch fault or a broken packet is raised there) (04 R119). -/
def State.targetBad (s : State) (t : Task) (pc : Nat) : Bool :=
  match s.fetch t pc with
  | .error _ => false
  | .ok ws => !isHeader ws (pc % 16)

/-! ### Holds (01 R11) -/

/-- Every access of the classes has been performed (05 R172; 11 R341; 08 R247; 14 R436): bit 0 LS ... bit 5 FB. A BARW still pending
counts with CP, as its arrivals may stand for multicast deliveries (08, the example of R258). -/
def State.classesDone (s : State) (tid m : Nat) : Bool :=
  let t := s.task tid
  let k := s.core t.core
  (m % 2 == 0 || (t.lsq.isEmpty && k.alcoves.all fun a => a.2.tid != tid || a.2.rows == 0)) &&
  (m / 2 % 2 == 0 || ((List.range 4).all fun q => t.qmask / 2 ^ q % 2 == 0 || (k.chan q).cmd.isNone) &&
    !t.prods.any fun p => match p.wait with | .barw _ _ => true | _ => false) &&
  (m / 4 % 2 == 0 || !k.mq.any fun e => e.tid == tid) &&
  (m / 8 % 2 == 0 || !s.trees.any fun x => x.2.posts.any fun p => p.tid == tid) &&
  (m / 16 % 2 == 0 || !s.dies.any fun d => d.2.enq.any fun e => e.tid == tid) &&
  (m / 32 % 2 == 0 || !(s.rops.any fun o => o.tid == tid) && !s.sendqs.any fun q => q.2.list.any fun x => x.tid == tid)

/-- The condition that a hold waits for has come about. -/
def State.holdClears (s : State) (tid : Nat) (h : Hold) : Bool :=
  let t := s.task tid
  let k := s.core t.core
  match h with
  | .regs ds => ds.all fun d => !t.isEmpty d || t.isFailed d
  | .shrink ds => ds.all fun d => !t.isEmpty d
  | .mlda c => !k.loading c
  | .walk va => !s.misses t va
  | .alcove a => (k.alcove a).st != 3
  | .mqueue n => decide (k.mq.length + n ≤ 32)
  | .mxDone => !k.mq.any fun e => e.tid == tid
  | .tile c => !k.mq.any fun e => e.op.tiles.contains c
  | .scq n => decide (k.scq.length + n ≤ 512)
  | .lsq => t.lsq.isEmpty
  | .lsRoom => decide ((t.lsq.filter LsAcc.counts).length < 16)
  | .rows lo hi => !k.alcoves.any fun a => a.2.tid == tid && a.2.rows != 0 && overlaps a.2.src (64 * a.2.rows) lo (hi - lo)
  | .stores => !t.storesPending
  | .system => !t.storesPending && t.hostPend == 0
  | .classes m => s.classesDone tid m
  | .chan q => (k.chan q).cmd.isNone
  | .xlatTurn => s.xlatFree t.part tid
  | .invDrain lo len => !s.translatedIn t.part lo len
  | .forceDrain lo len => s.forceMore t.part lo len tid || s.forceReady t.part lo len tid
  | .ended => !t.storesPending && (List.range 4).all (fun q => t.qmask / 2 ^ q % 2 == 0 || (k.chan q).cmd.isNone) &&
      !k.mq.any fun e => e.tid == tid
  | .forkRoom => s.forkRoom t.core
  | .event => !t.storesPending && t.hostPend == 0 && (s.part t.part).events != 2 ^ (s.part t.part).evqlen
  | .window x g => decide (g < (s.tree x).c + 4) || (s.tree x).st != 1
  | .drain x => s.treeDrained x
  | .remoteDone all pkg => !(s.rops.any fun o => o.tid == tid && (all || o.pkg == pkg)) &&
      !s.sendqs.any fun q => (all || q.2.pkg == pkg) && q.2.list.any fun x => x.tid == tid
  | .sendRoom pkg => s.queueRoom pkg
  | .enqueued id => (s.die (id / 512)).enq.all fun e => !(e.sump == id && e.tid == tid)

/-- A slot goes on once a hold's condition holds. -/
def State.orHold (s : State) (h : Hold) (out : SlotOut) : SlotOut :=
  if s.holdClears s.tid h then out else .hold h []

/-! ### The decode stages (02 R59) -/

/-- The presence bit of a slot in the bundle's header. -/
def Bundle.present (b : Bundle) (k : Nat) : Bool := b.hdr / 2 ^ k % 2 == 1
/-- The empty-policy bit of a slot (02 R41). -/
def Bundle.policy (b : Bundle) (k : Nat) : Bool := b.hdr / 2 ^ (24 + k) % 2 == 1
/-- hdr.idle (02 R41). -/
def Bundle.idle (b : Bundle) : Nat := b.hdr / 2 ^ 21 % 8
/-- Vector read ports allotted to a slot (02 R41). -/
def Bundle.ports (b : Bundle) (k : Nat) : Nat :=
  match k with
  | 2 => b.hdr / 2 ^ 18 % 4
  | 3 => b.hdr / 2 ^ 16 % 4
  | 4 => b.hdr / 2 ^ 14 % 2
  | 5 => b.hdr / 2 ^ 15 % 2
  | 7 => b.hdr / 2 ^ 12 % 4
  | _ => 0

/-- What a slot of the bundle came to, if present. -/
def Bundle.log (b : Bundle) (k : Nat) : Option SlotLog := b.logs.find? fun l => l.slot == k

/-- The port allotment is legal (02 R45, R46). -/
def Bundle.portsOk (b : Bundle) : Bool :=
  let vsct := match b.log 5 with | some l => l.shape.vsct | none => false
  let reads (k : Nat) : Nat := match b.log k with | some l => l.shape.ports | none => 0
  decide (b.ports 2 + b.ports 3 + b.ports 4 + b.ports 5 + b.ports 7 ≤ 5) && b.ports 7 != 3 &&
  ([2, 3, 4, 5, 7].all fun k => b.ports k == 0 || b.present k || (k == 4 && vsct)) &&
  (b.logs.all fun l => if l.shape.vsct then b.ports 5 == 1 && b.ports 4 == 1 && reads 4 == 0 else decide (l.shape.ports ≤ b.ports l.slot))

/-- Two lists share a number. -/
def clash (a b : List Nat) : Bool := a.any fun x => b.contains x

/-- Two slots name the same destination, or pair two ALLOTs or two IBSETs of one base (01 R19, R23; 02 R48). -/
def Shape.conflicts (a b : Shape) : Bool :=
  clash (a.sw.filter fun x => x != 0) b.sw || clash a.vw b.vw || clash (a.pw.filter fun x => x != 0) b.pw || clash a.xw b.xw ||
  (a.allot && b.allot) || clash a.ib b.ib

/-- Some two slots conflict. -/
def anyConflict : List SlotLog → Bool
  | [] => false
  | l :: r => r.any (fun m => l.shape.conflicts m.shape) || anyConflict r

/-- Stage 2 passes (02 R59). An MRETV names as destinations every register of its group, 48 or 16 by its tile's issue mode
(`execMretv`), so a conflict beyond the first 16, which the assembler cannot know, is found here (02 R63; 06 R188). -/
def Bundle.headerOk (b : Bundle) : Bool :=
  b.hdr / 2 ^ 20 % 2 == 0 && b.hdr / 2 ^ 8 % 16 == 0 && b.portsOk && !anyConflict b.logs

/-- A slot's fault as a trap records it: slot, cause, detail, address, register (vector?, number). -/
structure SlotFault where
  slot   : Nat
  cause  : Nat
  detail : Nat := 0
  addr   : Option Nat := none
  reg    : Option (Bool × Nat) := none
  deriving DecidableEq, Repr

/-- Registers a slot reads, as destinations: scalars, and vector names that are in the allotment, after rotation. -/
def Task.readsOf (t : Task) (h : Shape) : List Dest := h.sr.map Dest.s ++ h.vr.map fun n => Dest.v (t.rotate n)
/-- Registers a slot writes that have a full/empty bit. -/
def Task.writesOf (t : Task) (h : Shape) : List Dest := h.sw.map Dest.s ++ h.vw.map fun n => Dest.v (t.rotate n)

/-- How a register stands in TRAPREC6 (07 R205). -/
def Dest.reg : Dest → Bool × Nat
  | .s n => (false, n)
  | .v n => (true, n)
  | .p n => (false, n)
  | .ib n => (false, n)

/-- Names outside the allotment (01 R17). -/
def Task.outside (t : Task) (h : Shape) : Option Nat := (h.vr ++ h.vw).find? fun n => decide (t.vn ≤ n)

/-- Stage 3 (02 R59). -/
def stage3 (l : SlotLog) : Option SlotFault := if l.shape.bad then some { slot := l.slot, cause := 0x01 } else none

/-- Stage 4 (02 R59; 01 R17): PRIVILEGE before REG-ALLOT. -/
def Task.stage4 (t : Task) (l : SlotLog) : Option SlotFault :=
  if l.shape.priv then some { slot := l.slot, cause := 0x07 }
  else match t.outside l.shape with
    | some n => some { slot := l.slot, cause := 0x05, reg := some (true, n) }
    | none => l.shape.noreg.map fun r => { slot := l.slot, cause := 0x05, reg := some r }

/-- Stage 5 (01 R11, R12; 05 R151): EMPTY-READ under policy 1 or of a failed register, then EMPTY-WRITE of a register the slot does
not itself read (04 R113). -/
def Task.stage5 (t : Task) (b : Bundle) (l : SlotLog) : Option SlotFault :=
  let rs := t.readsOf l.shape
  match rs.find? fun d => t.isFailed d || (t.isEmpty d && b.policy l.slot) with
  | some d => some { slot := l.slot, cause := 0x06, detail := b2n (t.isFailed d), reg := some d.reg }
  | none =>
    match (t.writesOf l.shape).find? fun d => t.isEmpty d && !rs.contains d with
    | some d => some { slot := l.slot, cause := 0x10, reg := some d.reg }
    | none => none

/-- Execution faults (02 R59). -/
def stage0 (l : SlotLog) : Option SlotFault :=
  match l.out with
  | .fault c d a _ => some { slot := l.slot, cause := c, detail := d, addr := a }
  | _ => none

/-- The trap of a stage's slot faults (07 R205). -/
def slotTrap (pc stage : Nat) (fs : List SlotFault) : Trap :=
  let at_ (f : SlotFault → Nat) : Nat := fs.foldl (fun n x => n + f x * 2 ^ (8 * x.slot)) 0
  let reg := (fs.findSome? SlotFault.reg).getD (false, 0)
  { pc := pc, stage := stage, mask := fs.foldl (fun n x => n + 2 ^ x.slot) 0, causes := at_ SlotFault.cause, detail := at_ SlotFault.detail,
    addr := (fs.findSome? SlotFault.addr).getD 0, vec := reg.1, reg := reg.2 % 128 }

/-- A trap with mask zero (07 R205). -/
def plainTrap (pc stage cause : Nat) : Trap := { pc := pc, stage := stage, causes := cause }

/-- What a bundle comes to. -/
inductive Verdict where
  | trap (x : Trap) (need : Nat)
  | hold (h : Hold) (meanwhile : List Effect)
  | go (es : List Effect)
  deriving DecidableEq, Repr

/-- The room or package that a REPLAY of the deciding slot's fault waits for (09 R281). -/
def needOf (logs : List SlotLog) : Nat :=
  (logs.findSome? fun l => match l.out with | .fault _ _ _ n => some n | _ => none).getD 0

/-- Empty registers read under policy 0 (01 R11). -/
def Task.awaited (t : Task) (logs : List SlotLog) : List Dest :=
  (logs.foldr (fun l acc => t.readsOf l.shape ++ acc) []).filter fun d => t.isEmpty d

/-- The allotment that an ALLOT grants. -/
def Effect.allotted : Effect → Option Nat | .allot a => some a | _ => none

/-- Empty registers that a shrinking ALLOT would release (01 R19). -/
def Task.shrinkAwaits (t : Task) (logs : List SlotLog) : List Dest :=
  let a := logs.findSome? fun l => match l.out with
    | .go es => es.findSome? Effect.allotted
    | _ => none
  match a with
  | some n => ((List.range 128).filter fun i => decide (n ≤ i ∧ i < t.vn) && t.isEmpty (.v i)).map Dest.v
  | none => []

/-- The effects of the slots, the LS slot's last, so that no other slot of the bundle sees them (05 R148, R166; 06 R175). -/
def bundleEffects (logs : List SlotLog) : List Effect :=
  let of_ (l : SlotLog) : List Effect := match l.out with | .go es => es | _ => []
  (logs.filter fun l => l.slot != 5).foldr (fun l acc => of_ l ++ acc) [] ++
  (logs.filter fun l => l.slot == 5).foldr (fun l acc => of_ l ++ acc) []

/-- The target of a taken LEXIT. -/
def Effect.lexitTo : Effect → Option Nat | .lexit p => some p | _ => none
/-- The target of a taken transfer. -/
def Effect.jumpTo : Effect → Option Nat | .jump p => some p | _ => none
/-- The level that a LOOP or LOOPR pushes. -/
def Effect.pushed : Effect → Option LoopLevel | .push l => some l | _ => none
/-- BRTOP's guard. -/
def Effect.guarded : Effect → Option Bool | .go g => some g | _ => none
/-- TRAP's code and operand. -/
def Effect.trapped : Effect → Option (Nat × W64) | .trap c v => some (c, v) | _ => none
/-- ERET's disposition and target. -/
def Effect.disposed : Effect → Option (W64 × W64) | .eret d p => some (d, p) | _ => none
/-- Floating-point flags. -/
def Effect.isFlags : Effect → Bool | .flags _ => true | _ => false
/-- An ALLOT that is granted. -/
def Effect.isAllot : Effect → Bool | .allot _ => true | _ => false
/-- A remote operation. -/
def Effect.isRemote : Effect → Bool | .remote _ _ _ _ _ _ => true | _ => false

/-- A transfer or a push, which takes the closure's place (04 R103, R120). -/
def Effect.moves : Effect → Bool | .jump _ => true | .push _ => true | .lexit _ => true | _ => false

/-- A MOVRS of the bundle's, as the closure sees it (04 R103). -/
def Effect.special : Task → Effect → Task
  | t, .sr n v => t.setSpecial n v
  | t, _ => t

/-- A slot writes a loop level's LI or LC from a register that is still empty: what the closure sees is on its way. -/
def Task.feedsLoop (t : Task) (l : SlotLog) : Bool :=
  (match l.out with | .go es => es.any (fun e => match e with | .sr n _ => specialLoop n | _ => false) | _ => false) &&
  (t.readsOf l.shape).any fun d => t.isEmpty d

/-- Where the closure of the bundle sends its task (01 R27; 02 R40); `none` where the bundle closes no level, or a loop register that it
writes is still on its way. -/
def State.closureTarget (s : State) (logs : List SlotLog) : Option Nat :=
  let es := bundleEffects logs
  match s.now.loops.getLast? with
  | none => none
  | some l =>
    if l.last ≠ s.bun.pc ∨ es.any Effect.moves = true ∨ (logs.any fun x => x.shape.target.isSome) = true ∨
        logs.any s.now.feedsLoop = true then none
    else
      let back := ((es.foldl Effect.special s.now).closeLevel ((es.findSome? Effect.guarded).getD true)).2
      some (if back then l.first else s.bun.next)

/-- A target of the bundle, a taken transfer's or its closure's, is no header (02 R40, R59 stage 1; 04 R119). -/
def State.strays (s : State) (logs : List SlotLog) : Bool :=
  ((logs.findSome? fun l => l.shape.target).any fun pc =>
      !(logs.any fun l => l.slot == 0 && (s.now.readsOf l.shape).any fun d => s.now.isEmpty d) && s.targetBad s.now pc) ||
  (s.closureTarget logs).any fun pc => s.targetBad s.now pc

/-- The bundle's fate: the stages of 02 R59 in order, the holds, or its effects. A slot that fails both the empty-read and the
empty-write check of stage 5 records EMPTY-READ (notes/assumptions/70). -/
def State.verdict (s : State) : Verdict :=
  let t := s.now
  let b := s.bun
  let logs := b.logs
  if s.strays logs then
    .trap (plainTrap b.pc 1 0x04) 0
  else match logs.findSome? fun l => l.shape.pend with
    | some c => .hold (.mlda c) []
    | none =>
      if !b.headerOk then .trap (plainTrap b.pc 2 0x02) 0
      else match logs.filterMap stage3, logs.filterMap t.stage4, logs.filterMap (t.stage5 b) with
        | x :: r, _, _ => .trap (slotTrap b.pc 3 (x :: r)) 0
        | [], x :: r, _ => .trap (slotTrap b.pc 4 (x :: r)) 0
        | [], [], x :: r => .trap (slotTrap b.pc 5 (x :: r)) 0
        | [], [], [] =>
          match t.awaited logs with
          | d :: ds => .hold (.regs (d :: ds)) []
          | [] =>
            match logs.filterMap stage0 with
            | x :: r => .trap (slotTrap b.pc 0 (x :: r)) (needOf logs)
            | [] =>
              match t.shrinkAwaits logs with
              | d :: ds => .hold (.shrink (d :: ds)) []
              | [] =>
                match logs.findSome? fun l => match l.out with | .hold h es => some (h, es) | _ => none with
                | some (h, es) => .hold h es
                | none => .go (bundleEffects logs)

/-! ### Effects at commit (04 R103) -/

/-- An access joins the task's LS queue (11 R337); its producer's registers become empty. -/
def State.lsEnter (s : State) (tid : Nat) (k : LsKind) (vas : List Nat) (parts : List (Nat × Nat)) (data : List Byte) (ds : List Dest) :
    State :=
  let t := s.task tid
  let t1 := if ds.isEmpty then { t with ntok := t.ntok + 1 } else t.produce ds .ls
  s.putTask tid { t1 with lsq := t.lsq ++ [{ kind := k, tok := t.ntok, parts := parts, data := data, vas := vas }] }

/-- The ranges that a copy command reads and writes next, with those of the run it stands in, lie in a range of memory. -/
def Cmd.uses (c : Cmd) (lo n : Nat) : Bool :=
  let r := shapeRec c.image
  let hits (l : List (Int × Nat)) : Bool := l.any fun x => overlaps x.1.toNat x.2 lo n
  if c.image.isEmpty then overlaps c.shape 160 lo n
  else if c.multicast then c.targets.any fun k => hits ((c.dstRuns r).map fun x => ((moveCore x.1.toNat k : Int), x.2))
  else hits (c.dstRuns r) || (!c.selects && hits (c.srcRuns r))

/-- Another requester of a bank of a core is under way: another core's access, an OFILL, a copy command whose footprint lies there, a
retirement or an image whose bytes do, a scheduled transfer of the fabric, a tree's delivery or source, or a request of another package
that has come in (05 R144). -/
def State.bankRival (s : State) (core bank : Nat) : Bool :=
  let lo := spadAddr core (32768 * bank)
  let hits (p : Nat × Nat) : Bool := overlaps p.1 p.2 lo 32768
  (s.tasks.any fun x => x.2.core != core && x.2.lsq.any fun a => a.parts.any hits) ||
  ((s.core core).alcoves.any fun x => hits (x.2.src, 64 * x.2.rows)) ||
  (s.cores.any fun k => k.2.chans.any fun c => c.2.cmd.any fun d => d.ends.isNone && !d.faulted && d.uses lo 32768) ||
  (s.cores.any fun k => k.2.mq.any fun e => match e.op with
    | .mret _ a _ _ => hits (a, 6144)
    | .mlda _ _ ps => ps.any hits
    | .msta _ _ ps => ps.any hits
    | _ => false) ||
  (s.sendqs.any fun q => q.2.list.any fun x => hits (x.src + x.pos, x.len - x.pos)) ||
  (s.trees.any fun t => (t.2.posts.any fun p => hits (p.src, t.2.segsize)) || t.2.delivs.any fun d => d.core == core) ||
  s.ports.any fun p => p.2.inbox.any fun f => hits (fieldAt f.2 0 8, 128)

/-- The cycles that an own-scratchpad access takes beyond its bundle's: a bank serves one row a cycle, so as many as the bank asked for
most rows has rows after the first; and one for each bank that has served another row in this cycle, or that a rival wants too, which the
bank serves first or not of its free choice (05 R144). -/
def State.bankStall (s : State) (core : Nat) (ps : List (Nat × Nat)) : State :=
  let rows := nodups (ps.map fun p => p.1 % 2 ^ 19 / 64)
  let most := (rows.map fun r => (rows.filter fun q => q / 512 == r / 512).length).foldl max 1
  let banks := nodups (rows.map fun r => r / 512)
  let taken := banks.filter fun b => !(rows.all fun r => r / 512 != b || s.bankFree (spadAddr core (64 * r)))
  let rivals := banks.filter fun b => !taken.contains b && s.bankRival core b
  let late := taken.length + (rivals.filter fun b => Config.freeBit (s.free + b)).length
  let s1 := if rivals.isEmpty then s else { s with free := s.free + 16 }
  if most - 1 + late = 0 then s1 else s1.putCore core { s1.core core with wait := (s1.core core).wait + (most - 1 + late) }

/-- A mark in the LS queue that later accesses follow: a JOIN, WATCH or BARW until it fills (09 R289). -/
def State.waitEnter (s : State) (tid : Nat) (ds : List Dest) (w : Wait) : State :=
  let t := s.task tid
  s.putTask tid { (t.produce ds w) with lsq := t.lsq ++ [{ kind := .await, tok := t.ntok, parts := [], data := [] }] }

/-- A JOIN, WATCH or BARW is followed by the task's later accesses. -/
def Wait.ordered : Wait → Bool
  | .join _ => true
  | .watch _ _ _ => true
  | .barw _ _ => true
  | _ => false

/-- A NEXT at its commit: a value drawn at once is usable from +24, otherwise the NEXT waits; earlier NEXTs of its region that wait
take their values first (09 R285). -/
def State.nextEnter (s : State) (tid : Nat) (ds : List Dest) : State :=
  let t := s.task tid
  let s0 := s.serveWaiting (dieOf t.core) t.rkey
  match s0.serveNext tid s.cycle false with
  | some (v, s1) => s1.putTask tid ((s1.task tid).produce ds (.drawn (t.nb + 24) v))
  | none => s0.putTask tid ((s0.task tid).produce ds (.nextTile (t.nb + 24) s.cycle false))

/-- A copy command launched (08 R250). -/
def State.cgoEnter (s : State) (tid q id handle : Nat) : State :=
  let t := s.task tid
  let k := s.core t.core
  let c := s.cgoCmd t.core q id handle t.pts
  let ch := k.chan q
  let ch1 := { ch with cmd := some c, fields := tabSet ch.fields 0 6 (ch.field 6 % 2 ^ 32) }
  let k1 := k.putChan q ch1
  s.putCore t.core (match c.alcoveDst.bind fun h => tabFind t.handles h with
    | some a => k1.putAlcove a { k1.alcove a with st := 2 }
    | none => k1)

/-- The task's commands with a handle cancelled (08 R241, R254; 10 R328); handle 0 matches nothing. -/
def State.cancelHandle (s : State) (tid h : Nat) : State :=
  let t := s.task tid
  if h = 0 then s
  else (List.range 4).foldl (fun s q =>
    match ((s.core t.core).chan q).cmd with
    | some c => if t.qmask / 2 ^ q % 2 = 1 ∧ c.handle = h then s.cancelCopy t.core q else s
    | none => s) s

/-- Clocks that a FENCEX carries over at its commit (11 R341): classes by bit, 1 CP, 2 MX, 3 TR, 4 XQ; bit 6 HS. -/
def State.fenceClocks (s : State) (tid e l : Nat) : State :=
  let t := s.task tid
  let pts := [1, 2, 3, 4].foldl (fun m c => if e / 2 ^ c % 2 = 1 then max m (tabGet t.clks 0 c) else m) t.pts
  let q := s.part t.part
  let pts := if e / 64 % 2 = 1 then max pts q.hpts else pts
  let s1 := s.putTask tid { t with pts := pts }
  if l / 64 % 2 = 1 then s1.putPart t.part { q with hpts := max q.hpts pts } else s1

/-- The entries that the core's buffer would hold if its task stopped now fit it: those of every resident task, the one that comes in
included (07 R211). -/
def State.replayFits (s : State) (core : Nat) : Bool :=
  decide (((s.core core).tasks.foldl (fun n x =>
    n + ((s.task x).flights.filter fun f => decide ((s.task x).nb < f.due)).length) 0) ≤ 40)

/-- A remote operation leaves and its task parks; it keeps the core where the replay buffer has no room (07 R211; 14 R442). -/
def State.remoteEnter (s : State) (tid kind pkg addr : Nat) (data : List Byte) (aux : Nat) (ds : List Dest) : State :=
  let t := s.task tid
  let t1 := (if ds.isEmpty then { t with ntok := t.ntok + 1 } else t.produce ds .remote)
  let o : ROp := { tid := tid, tok := t.ntok, kind := kind, pkg := pkg, addr := addr, data := data, aux := aux, part := t.part, since := s.ftime }
  let s1 := (s.putTask tid t1.catchFlights).remoteIssue tid o
  if s.replayFits t.core then s1 else s1.putCore t.core { s1.core t.core with cur := tid }

/-- One effect at the commit of the current task's bundle. Transfers, loops, TRAP, END, ERET and YIELD act after these
(`State.control`). -/
def State.applyEffect (s : State) (e : Effect) : State :=
  let tid := s.tid
  let t := s.now
  let k := s.core t.core
  let cluster := clusterOf t.core
  match e with
  | .wr d off v m => s.putTask tid (t.launch d off v m)
  | .produce ds (.nextTile _ _ _) => s.nextEnter tid ds
  | .produce ds w => if w.ordered then s.waitEnter tid ds w else s.putTask tid (t.produce ds w)
  | .sr n v => s.setSpecial tid n v
  | .flags f => s.putTask tid { t with fpflags := t.fpflags ||| f }
  | .allot n => s.putTask tid (t.setAllot n)
  | .local_ kd parts data d =>
    let (t1, bs, s1) := (s.bankStall t.core parts).doPieces t kd data parts
    s1.putTask tid (match d with | x :: _ => t1.launch x 6 (kd.value bs) 0xFFFF | [] => t1)
  | .access kd vas parts data ds => s.lsEnter tid kd vas parts data ds
  | .hash a bs => s.putTask tid (t.digestAdd a bs)
  | .niche off bs => s.putTask tid { t with niche := memPutBytes t.niche off bs }
  | .oclaim h kind a =>
    (s.putCore t.core (k.putAlcove a { st := 1, kind := kind, tid := tid, handle := h })).putTask tid { t with handles := tabPut t.handles h a }
  | .orelease h => s.release tid h
  | .ofill h src rows =>
    match tabFind t.handles h with
    | some a => s.putCore t.core (k.putAlcove a { k.alcove a with st := 3, src := src, rows := rows, row := 0, from_ := s.cycle })
    | none => s
  | .bfmt b v => s.putCore t.core { k with bankfmt := tabSet k.bankfmt 0 b v }
  | .scld ws => s.putCore t.core { k with scq := k.scq ++ ws.map fun w => (tid, w) }
  | .fencex e l => s.fenceClocks tid e l
  | .mx op ds => s.mxEnter tid op ds
  | .cset q f v =>
    let ch := k.chan q
    s.putCore t.core (k.putChan q
      (if (f = 1 ∨ f = 2) ∧ ch.cmd.isSome = true then { ch with ringSet := ch.ringSet ++ [(f, v.toNat)] } else ch.setField f v.toNat))
  | .cshape q v => s.putCore t.core (k.putChan q { k.chan q with shape := v.toNat })
  | .cgo q id h => s.cgoEnter tid q id h
  | .ccan h => s.cancelHandle tid h
  | .fork bs a => s.fork tid bs a
  | .bara b => s.setBar cluster b ((s.bar cluster b).arrive t.pts false)
  | .bari b n => s.setBar cluster b { target := n }
  | .hsig v x => s.postEvent t.part (eventBytes s.ns 0x20 2 0 v t.region (dieOf t.core) tid v x.toNat) v
  | .rgnctl fn a b => (s.rgnctl t.part (some t.rkey) fn a.toNat b.toNat t.pts).1
  | .xenq x bs d =>
    let s1 := s.putTask tid (t.produce [d] .xenq)
    let die := x / 512 % 4
    s1.putDie die { s1.die die with enq := (s1.die die).enq ++ [{ sump := x, tid := tid, tok := t.ntok, bytes := bs, clk := t.pts }] }
  | .xcfg x fn a => (s.sumpConfig t.rkey x fn ((s.engRead t.part a 256).getD [])).1
  | .xdisp x => s.sumpFlush x
  | .xpref a n h lvl =>
    let die := dieOf t.core
    s.putDie die { s.die die with xprefs := (s.die die).xprefs ++
      [{ region := t.rkey, cluster := cluster, lvl := lvl, handle := h, addr := a, left := n, priv := s.privileged t }] }
  | .xcan h =>
    let die := dieOf t.core
    let s1 := s.putDie die { s.die die with xprefs := (s.die die).xprefs.filter fun x => h == 0 || !(x.region == t.rkey && x.handle == h) }
    s1.cancelHandle tid h
  | .tree fn h a =>
    let key := treeKey t.part h
    (match fn with
      | 0 => (s.treeCreate t.rkey a).1
      | 1 => s.treeDestroy key
      | 2 => (s.treeEdit key h a).1
      | 3 => s.putTree key { s.tree key with freezing := 0 }
      | 4 => (s.treeSave key h a tid).1
      | _ => (s.treeRestore key h a t.pts).1)
  | .freeze h => s.treeFreeze (treeKey t.part h) tid
  | .tpost h mem g a => s.treePost (treeKey t.part h) mem g a tid
  | .remote kd pkg a data aux ds => s.remoteEnter tid kd pkg a data aux ds
  | .rfence => { s with rerr := tabDel s.rerr tid }
  | .fsend bs => (s.sendQueue tid bs).1
  | .xlat fn a n =>
    (match fn with
      | 0 => (s.pinRange t.rkey a n).1
      | 1 => (s.unpinRange t.rkey a n).1
      | 2 => (s.invRange t.part a n).1
      | 3 => s.forceInv t.part a n t.core tid
      | _ => s.forcePark t.part a n tid)
  | _ => s

/-! ### Control (04 R103 steps 3 and 4) -/

/-- Stall cycles of a taken transfer (02 R61). -/
def State.stallFor (s : State) (idle : Nat) : State :=
  let c := s.now.core
  s.putCore c { s.core c with stall := (s.core c).stall + (2 - min idle 2) }

/-- The first matching effect. -/
def findEff {α : Type} (es : List Effect) (f : Effect → Option α) : Option α := es.findSome? f

/-- The bundle makes a memory access of its LS slot. -/
def Bundle.triesMemory (b : Bundle) : Bool :=
  b.logs.any fun l => match l.out with
    | .go es => es.any fun e => match e with
      | .local_ _ _ _ _ => true
      | .access _ _ _ _ _ => true
      | _ => false
    | _ => false

/-- A task whose bundle has issued: the next bundle, its idle run (02 R39, R44). -/
def Task.issued (t : Task) (b : Bundle) : Task :=
  { t with pc := b.next, started := true, fresh := false, untried := t.untried && !b.triesMemory, idle := b.idle, hold := none, held := 0, walks := [] }

/-- Step 3 of 04 R103: a push, a taken transfer, the pop of a taken LEXIT, or the closure of a loop level; the pc and the idle run of
the task follow (02 R39, R44). -/
def State.control (s : State) (es : List Effect) : State :=
  let tid := s.tid
  let b := s.bun
  let s0 := s.putTask tid (s.now.issued b)
  let t := s0.now
  match findEff es Effect.lexitTo with
  | some p => (s0.putTask tid { t.popLevel with pc := p }).stallFor b.idle
  | none =>
    match findEff es Effect.jumpTo with
    | some p => (s0.putTask tid { t with pc := p }).stallFor b.idle
    | none =>
      match findEff es Effect.pushed with
      | some l => s0.putTask tid (t.pushLevel l)
      | none =>
        if t.loops.getLast?.any fun l => l.last == b.pc then
          let go := findEff es Effect.guarded
          let (t1, back) := t.closeLevel (go.getD true)
          let s1 := s0.putTask tid t1
          if back && go.isSome then s1.stallFor b.idle else s1
        else s0

/-- A task of a core can issue: ready, or suspended with the cause of its suspension gone (01 R32). No task has TASKID 0 (01 R29). -/
def State.canRun (s : State) (tid : Nat) : Bool :=
  let t := s.task tid
  tid != 0 && match t.status with
  | .ready => !t.replayDue
  | .suspended => match t.hold with
    | some h => s.holdClears tid h
    | none => true
  | _ => false

/-- The ready task of highest priority in a list, the first of equal ones (01 R33). -/
def State.readiest (s : State) (l : List Nat) : Option Nat :=
  (l.filter s.canRun).foldl (fun b x => match b with
    | none => some x
    | some y => if (s.task y).prio < (s.task x).prio then some x else some y) none

/-- The other tasks of a core, round-robin after one. -/
def State.othersOf (s : State) (core after : Nat) : List Nat :=
  let l := (s.core core).tasks
  (l.dropWhile fun x => x != after).drop 1 ++ l.takeWhile fun x => x != after

/-- The task that follows one at a suspension point: the ready one of highest priority, ties round-robin after it (01 R33). -/
def State.choose (s : State) (core after : Nat) : Option Nat := s.readiest (s.othersOf core after)

/-- The same once the task has stopped issuing: it is itself the last in turn, should it be ready again. -/
def State.chooseNext (s : State) (core after : Nat) : Option Nat :=
  s.readiest (s.othersOf core after ++ (s.core core).tasks.filter fun x => x == after)

/-- The core issues from a task. -/
def State.runFrom (s : State) (core tid : Nat) : State :=
  (s.putTask tid { s.task tid with status := .ready }).putCore core { s.core core with cur := tid }

/-- A switch at a suspension point, if another task is ready and the replay buffer has room (01 R33; 07 R209, R211): 4 cycles in
which no bundle issues. -/
def State.switch (s : State) (core : Nat) : State :=
  let cur := (s.core core).cur
  match s.choose core cur with
  | none => s
  | some x =>
    if !s.replayFits core then s
    else
      let s1 := (s.putTask cur (s.task cur).catchFlights).runFrom core x
      s1.putCore core { s1.core core with wait := (s1.core core).wait + 4 }

/-- An END: the task ends at once, or, where its own bundle has begun accesses, commands or matrix entries, once these are complete
(04 R125; notes/assumptions/71). -/
def State.endTask (s : State) (tid : Nat) : State :=
  if s.holdClears tid .ended && s.goStatus tid == .ready then s.finishTask tid 0 false
  else s.putTask tid { s.task tid with ending := true, hold := some .ended }

/-- What ends a task's bundle: TRAP, END, ERET, YIELD (04 R103 step 4, R124-R126; 09 R291). The idle run of a bundle
with YIELD is issued once the task is back (DESIGN CHOICE, notes/assumptions/87). -/
def State.finish (s : State) (tid : Nat) (es : List Effect) : State :=
  let noIdle (s : State) : State := s.putTask tid { s.task tid with idle := 0 }
  match findEff es Effect.trapped with
  | some (c, v) => (noIdle s).takeTrap tid { pc := (s.task tid).pc, mask := 1, causes := 0x11, operand := v, code := c }
  | none =>
    if es.contains .endTask then (noIdle s).endTask tid
    else match findEff es Effect.disposed with
      | some (d, p) => (noIdle s).dispose tid d.toNat p.toNat
      | none => if es.contains .yield then s.switch (s.task tid).core else s

/-- The allotment that the bundle's ALLOT was granted, in force from the next bundle (01 R19). -/
def State.reallot (s : State) (tid : Nat) (es : List Effect) : State :=
  match es.findSome? Effect.allotted with
  | some n => s.putTask tid ((s.task tid).setAllot n)
  | none => s

/-- The commit of a bundle (04 R103; 07 R203): registers and engines, flags after a MOVRS to them, control, and the count of the task's
bundles; then what ends it. Two MOVRS of one bundle act in the order of their slots, SA before SB (notes/assumptions/72); a new
allotment follows every result. -/
def State.commit (s : State) (es : List Effect) : State :=
  let s1 := (es.filter fun e => !e.isFlags && !e.isRemote && !e.isAllot).foldl State.applyEffect s
  let s2 := (es.filter Effect.isFlags).foldl State.applyEffect s1
  let s3 := s2.control es
  let s4 := s3.putTask s.tid (s3.task s.tid).bump
  let s5 := (es.filter Effect.isRemote).foldl State.applyEffect s4
  ((s5.reallot s.tid es).finish s.tid es).tick 1

/-! ### Holding and trapping -/

/-- One cycle of a held bundle; a NEXT's drawn value comes one bundle nearer for a bundle held on it (01 R11; 09 R285;
notes/assumptions/62). -/
def State.heldCycle (s : State) (h : Hold) : State :=
  let tid := s.tid
  let t := s.now
  let near (p : Prod) : Prod := match h, p.wait with
    | .regs ds, .drawn u v => if p.dsts.any fun d => ds.contains d then { p with wait := .drawn (u - 1) v } else p
    | .shrink ds, .drawn u v => if p.dsts.any fun d => ds.contains d then { p with wait := .drawn (u - 1) v } else p
    | _, _ => p
  (s.putTask tid ({ t with hold := some h, held := t.held + 1, prods := t.prods.map near } : Task).landDrawn).tick 1

/-- A trap of the current task is taken; a TRANSLATION fault on a malformed page table also reports PAGE-TABLE-FORMAT (11 R346). -/
def State.trapNow (s : State) (x : Trap) (need : Nat) : State :=
  let tid := s.tid
  let t := s.now
  let bad := (bitsOf x.mask 8).any (fun k => x.causes / 2 ^ (8 * k) % 256 == 0x08) || (x.mask == 0 && x.causes == 0x08)
  let s1 := (s.putTask tid { t with need := need }).takeTrap tid x
  let s2 := if bad then (match s.walk t.part x.addr with | .error c => s1.formatError c 0 t.part t.rkey t.core tid x.addr | .ok _ => s1) else s1
  s2.tick 1

/-- The bundle is decided once its last slot word has been looked at. -/
def State.closeBundle (s : State) : State :=
  (match s.verdict with
    | .trap x need => s.trapNow x need
    | .hold h es => (es.foldl State.applyEffect s).heldCycle h
    | .go es => s.commit es).settle

/-- One slot of the bundle has been looked at. -/
def State.logSlot (s : State) (sh : Shape) (out : SlotOut) : State :=
  { s with bun := { s.bun with logs := s.bun.logs ++ [{ slot := s.bun.slot, shape := sh, out := out }] } }

/-- A SLOT INSTRUCTION: what it reads, writes and comes to is put beside what the other slots of its bundle come to; the last slot
decides the bundle. -/
def State.runSlot (s : State) (sh : Shape) (out : SlotOut) : Outcome State Fault Refusal :=
  if s.tid = 0 then .fault .noTask
  else
    let s1 := s.logSlot sh out
    .next (if s.bun.left = 0 then s1.closeBundle else s1)

/-! ### A core's turn -/

/-- A task stands at its freeze point, or past its deadline (07 R214, R215): it issues no further bundle. -/
def State.freezeDue (s : State) (tid : Nat) : Bool :=
  let t := s.task tid
  match t.preempt with
  | some d => t.steps == 0 || decide (d ≤ s.cycle)
  | none => false

/-- A core has something to do: cycles to wait, stall cycles, a running task, or a task to choose. -/
def State.coreBusy (s : State) (core : Nat) : Bool :=
  let k := s.core core
  decide (0 < k.wait) || decide (0 < k.stall) ||
  (if k.cur = 0 then (s.chooseNext core k.last).isSome
   else
     let t := s.task k.cur
     match t.status with
     | .ready => !s.freezeDue k.cur && !t.replayDue
     | .suspended => s.canRun k.cur || ((s.choose core k.cur).isSome && s.replayFits core)
     | _ => false)

/-- The core whose turn it is chooses its task: after the one that stopped, whatever stopped it, and at the cost of a switch unless that
one goes on (01 R33; 07 R213; notes/assumptions/73). -/
def State.pick (s : State) : State :=
  let k := s.core s.cur
  if k.cur = 0 then
    match s.chooseNext s.cur k.last with
    | some x =>
      let s1 := s.runFrom s.cur x
      if k.last = 0 ∨ k.last = x then s1 else s1.putCore s.cur { s1.core s.cur with wait := (s1.core s.cur).wait + 4 }
    | none => s
  else if (s.task k.cur).status = .suspended then
    if s.canRun k.cur then s.runFrom s.cur k.cur else s.switch s.cur
  else s

/-- What a core does in its turn. -/
inductive Turn where
  | stall                                            -- a cycle in which no bundle issues
  | idle                                             -- a bundle of an idle run (02 R43)
  | held (h : Hold)                                  -- the held bundle stays held
  | trap (x : Trap)                                  -- a fault before any slot is looked at
  | ended                                            -- the end of a task whose END has committed
  | bundle (b : Bundle) (ws : List (Slot × BitVec 32))
  deriving DecidableEq, Repr

/-- The task of the core whose turn it is has an idle bundle to issue. -/
def State.idleReady (s : State) : Bool :=
  let t := s.now
  s.tid != 0 && decide (0 < t.idle) && t.status == .ready && !t.replayDue && !s.freezeDue s.tid && (s.core s.cur).wait == 0

/-- The turn of the core that issues next: no task, or cycles to wait, an idle run, the stall cycles of a transfer after it, a hold that has
not cleared, or the bundle at the task's pc (02 R36-R44, R59 stage 1, R61; 07 R205). A pc that is no header in an inconsistent packet raises PACKET-FORMAT (DESIGN CHOICE,
notes/assumptions/85). -/
def State.turnOf (s : State) : Turn :=
  let k := s.core s.cur
  let t := s.now
  if s.tid = 0 ∨ 0 < k.wait then .stall
  else if 0 < t.idle ∧ (k.stall = 0 ∨ s.idleReady = true) then .idle
  else if 0 < k.stall then .stall
  else
    let held := match t.hold with
      | some h => if s.holdClears s.tid h then none else some h
      | none => none
    match held with
    | some h => .held h
    | none =>
      if t.ending then .ended
      else match s.fetch t t.pc with
      | .error (c, a) => .trap { pc := t.pc, stage := 1, fetch := true, causes := c, addr := a }
      | .ok ws =>
        if !checkPacket ws then .trap { pc := t.pc, stage := 1, causes := 0x03 }
        else if !isHeader ws (t.pc % 16) then .trap { pc := t.pc, stage := 1, entry := !t.started, causes := 0x04 }
        else .bundle { hdr := ws.getD (t.pc % 16) 0, pc := t.pc, next := nextBundle ws t.pc } (bundleSlots ws (t.pc % 16))

/-- A slot word that is no instruction of its slot (02 R45, R59 stage 3): it counts the reads of its opcode's row, VSCT's with the MX
port that it borrows (R46), and names no destination (notes/assumptions/74). -/
def badShape (sl : Slot) (w : BitVec 32) : Shape :=
  { ports := vectorReads sl w, vsct := sl == .ls && w.toNat / 2 ^ 26 == 0x09, bad := true }

/-- The slots of a bundle, one after another, each decoded and given to its meaning; a bundle of no slots commits at once. -/
def State.runSlots (ex : Instr → State → Outcome State Fault Refusal) : List (Slot × BitVec 32) → State → Outcome State Fault Refusal
  | [], s => .next s
  | (sl, w) :: r, s =>
    let s1 := { s with bun := { s.bun with left := r.length, slot := sl.num } }
    let o := match decodeSlot sl w with
      | .ok i => ex i s1
      | .error _ => s1.runSlot (badShape sl w) (.go [])
    match o with
    | .next s2 => State.runSlots ex r s2
    | x => x

/-- One cycle in which no bundle issues is over. -/
def Core.waitOne (k : Core) : Core := if k.wait = 0 then { k with stall := k.stall - 1 } else { k with wait := k.wait - 1 }

/-- A core's turn taken. -/
def State.takeTurn (ex : Instr → State → Outcome State Fault Refusal) (s : State) : Outcome State Fault Refusal :=
  match s.turnOf with
  | .stall => .next ((s.putCore s.cur (s.core s.cur).waitOne).tick 1)
  | .idle => ex .idleBundle s
  | .held h => .next (s.heldCycle h)
  | .trap x => .next (s.trapNow x 0).settle
  | .ended => .next ((s.finishTask s.tid 0 false).tick 1).settle
  | .bundle b [] => .next ({ s with bun := b }.closeBundle)
  | .bundle b (w :: ws) => State.runSlots ex (w :: ws) { s with bun := b }

end Sys2Proof.Machine
end

