-- ==== Sys2Proof/Machine/CopySlot.lean ====
section
/-! DEFINITION. The CP slot (08 R248-R254) and the copy engine's steps (08 R230-R245). -/

namespace Sys2Proof.Machine

open Host (Outcome)

/-! ### Shared forms -/

/-- A channel outside VALLOT.qmask raises REG-ALLOT (08 R224; 01 R17). -/
def Task.noChan (t : Task) (q : Nat) : Option (Bool × Nat) := if t.qmask / 2 ^ q % 2 = 1 then none else some (false, q)

/-- A follow-on word is a word of MMA or MMAS (08 R240). -/
def followOk (w : Nat) : Bool :=
  let op := w / 2 ^ 26
  w % 512 == 0 && (op == 3 || (op == 2 && w / 2 ^ 11 % 16 == 0))

/-- The tile of a follow-on word. -/
def followTile (w : Nat) : Nat := w / 2 ^ 23 % 8

/-- What a CSET comes to: the values of 08 R225. A follow value with valid 0 names no word, and its low bits are not checked (DESIGN CHOICE,
notes/assumptions/125). -/
def State.csetOut (s : State) (q f : Nat) (v : W64) : SlotOut :=
  let t := s.now
  let x := v.toNat
  let bad : SlotOut := .fault 0x01 0 none 0
  let go : SlotOut := .go [.cset q f v]
  match f with
  | 0 => if x / 256 = 0 ∧ x / 8 % 2 = 0 ∧ x % 8 ≤ 3 then go else bad
  | 1 => if x = 0 ∨ (x % 16 = 0 ∧ t.own x 16 = true) then go else bad
  | 2 => if x ≤ 10 then go else bad
  | 3 => if x / 2 ^ 22 = 0 ∧ x % 2 ^ 16 ≠ 0 then go else bad
  | 4 => if x / 256 = 0 ∧ 1 ≤ x / 8 ∧ x / 8 ≤ 16 then (if t.cmask / 2 ^ (x % 8) % 2 = 0 then .fault 0x05 0 none 0 else go) else bad
  | 5 => if x % 4 = 0 ∧ t.own x 4 = true then go else bad
  | 6 =>
    if 2 ^ 33 ≤ x then bad
    else if x / 2 ^ 32 = 0 then go
    else if !followOk (x % 2 ^ 32) then bad
    else if t.cmask / 2 ^ followTile (x % 2 ^ 32) % 2 = 0 then .fault 0x05 0 none 0 else go
  | _ => if x < 32 then go else bad

/-! ### Slot instructions -/

/-- CSET (08 R248). -/
def execCset (q : BitVec 2) (f a : BitVec 6) (s : State) : Outcome State Fault Refusal :=
  s.runSlot { sr := [a.toNat], noreg := s.now.noChan q.toNat } (s.csetOut q.toNat f.toNat (s.now.rs a))

/-- CSHAPE (08 R249). -/
def execCshape (q : BitVec 2) (a : BitVec 6) (s : State) : Outcome State Fault Refusal :=
  s.runSlot { sr := [a.toNat], noreg := s.now.noChan q.toNat } (.go [.cshape q.toNat (s.now.rs a)])

/-- CGO (08 R250). -/
def execCgo (q : BitVec 2) (a b : BitVec 6) (s : State) : Outcome State Fault Refusal :=
  let t := s.now
  let k := s.core t.core
  let d := (k.chan q.toNat).field 7
  let alcoveOk := d / 16 % 2 == 0 || (match tabFind t.handles (d % 16) with
    | some x => (k.alcove x).st == 1 || (k.alcove x).st == 4
    | none => false)
  s.runSlot { sr := [a.toNat, b.toNat], noreg := t.noChan q.toNat }
    (s.orHold (.chan q.toNat)
      (if alcoveOk then .go [.cgo q.toNat ((t.rs a).toNat % 2 ^ 16) ((t.rs b).toNat % 2 ^ 16)] else .fault 0x0C 0 none 0))

/-- CWP (08 R251). -/
def execCwp (q : BitVec 2) (d a : BitVec 6) (s : State) : Outcome State Fault Refusal :=
  s.runSlot { sr := [a.toNat], sw := [d.toNat], noreg := s.now.noChan q.toNat }
    (.go [.produce [dstS d] (.cwp q.toNat (s.now.rs a).toNat)])

/-- CWAIT (08 R252). -/
def execCwait (q : BitVec 2) (d : BitVec 6) (s : State) : Outcome State Fault Refusal :=
  let ch := (s.core s.now.core).chan q.toNat
  s.runSlot { sw := [d.toNat], noreg := s.now.noChan q.toNat }
    (.go [.produce [dstS d] (match ch.cmd with
      | none => .ready [BitVec.ofNat 512 ch.last]
      | some _ => .cwait q.toNat ch.ended)])

/-- CREC (08 R253). -/
def execCrec (q : BitVec 2) (d : BitVec 6) (s : State) : Outcome State Fault Refusal :=
  s.runSlot { sw := [d.toNat], noreg := s.now.noChan q.toNat }
    (if ((s.core s.now.core).chan q.toNat).field 1 = 0 then .fault 0x01 0 none 0 else .go [.produce [dstS d] (.crec q.toNat)])

/-- CCAN (08 R254). -/
def execCcan (a : BitVec 6) (s : State) : Outcome State Fault Refusal :=
  s.runSlot { sr := [a.toNat] } (.go [.ccan ((s.now.rs a).toNat % 2 ^ 16)])

/-! ### The engine's steps. The core and the channel come with the step (unit, sub). -/

/-- A channel's record is due to be read. -/
def State.recordDue (s : State) (core q : Nat) : Bool := ((s.core core).chan q).cmd.any fun c => c.wantsRecord

/-- COPY_RECORD_READ (08 R230, R245). -/
def execCopyRecordRead (s : State) : Outcome State Fault Refusal :=
  .next (if s.recordDue s.arg.unit s.arg.sub then (s.copyRecordRead s.arg.unit s.arg.sub).settle else s)

/-- SELECT_TILE_READ (08 R238). -/
def execSelectTileRead (s : State) : Outcome State Fault Refusal :=
  .next (if s.selectReady s.arg.unit s.arg.sub then (s.selectRead s.arg.unit s.arg.sub).settle else s)

/-- COPY_SECTOR_WRITE; for MULTICAST the core of the mask comes with the step (num) (08 R231). -/
def execCopySectorWrite (s : State) : Outcome State Fault Refusal :=
  .next (if s.copyCanWrite s.arg.unit s.arg.sub s.arg.num then
    ((s.serve s.arg.unit s.arg.sub).copySector s.arg.unit s.arg.sub s.arg.num).settle else s)

/-- A FAULTED command whose fault has its disposition. A channel that is to stop stays where it stopped (08 R244; 11 R357). -/
def State.resolveDue (s : State) (core q : Nat) : Bool :=
  !s.chansStop (s.chanOwner core q) && ((s.core core).chan q).cmd.any fun c => c.faulted && c.verdict != 0

/-- COPY_FAULT_RESOLVED (08 R226, R242). -/
def execCopyFaultResolved (s : State) : Outcome State Fault Refusal :=
  .next (if s.resolveDue s.arg.unit s.arg.sub then (s.copyResolve s.arg.unit s.arg.sub).settle else s)

/-- The matrix operation that a follow-on word stands for, as its owner's checks find it now (08 R240; 06 R175). -/
def State.followCheck (s : State) (core q w : Nat) : Except SlotOut MxOp :=
  let tid := s.chanOwner core q
  let c := followTile w
  if (s.core core).loading c then .error (.hold (.mlda c) [])
  else s.mmaCheck tid c (w / 2 ^ 10 % 2 == 1) (w / 2 ^ 9 % 2 == 1) (w / 2 ^ 19 % 16) (w / 2 ^ 15 % 16)
    (if w / 2 ^ 26 = 3 then some (w / 2 ^ 11 % 16) else none) false

/-- A command's follow-on word waits to be presented. -/
def State.followDue (s : State) (core q : Nat) : Option Nat :=
  match ((s.core core).chan q).cmd with
  | some c => if c.data && !c.shown && c.ends.isNone && !s.chansStop (s.chanOwner core q) then c.followOn else none
  | none => none

/-- A follow-on word is presented: it enters the queue, or is refused with its cause in the record; a check that would hold a bundle
delays it (08 R240). -/
def State.followPresent (s : State) (core q w : Nat) : State :=
  let shown (s : State) (code : Nat) : State :=
    let s1 := s.endCopy core q (0, code, 0)
    let ch := (s1.core core).chan q
    s1.putCore core ((s1.core core).putChan q { ch with cmd := ch.cmd.map fun c => { c with shown := true } })
  match s.followCheck core q w with
  | .ok op => shown (s.mxEnter (s.chanOwner core q) op []) 0
  | .error (.fault c _ _ _) => shown s c
  | .error _ => s

/-- FOLLOW_ON_PRESENT (08 R240). -/
def execFollowOnPresent (s : State) : Outcome State Fault Refusal :=
  .next (match s.followDue s.arg.unit s.arg.sub with
    | some w => (s.followPresent s.arg.unit s.arg.sub w).settle
    | none => s)

/-- COPY_COMPLETION (08 R234, R235). -/
def execCopyCompletion (s : State) : Outcome State Fault Refusal :=
  .next (if ((s.core s.arg.unit).chan s.arg.sub).canComplete then (s.copyComplete s.arg.unit s.arg.sub).settle else s)

end Sys2Proof.Machine
end

