-- ==== Sys2Proof/Machine/CoreSteps.lean ====
section
/-! DEFINITION. A core's own steps: idle bundles, OFILL rows, results that arrive, holds, the replay buffer, the LS queue, walks
and clocks. Each reads its operands in `State.arg` (notes/assumptions/2) and leaves the state as it is where it cannot happen. -/

namespace Sys2Proof.Machine

open Host (Outcome)

/-- A step taken where it can happen, with what every step does last. -/
def State.stepIf (s : State) (can : Bool) (t : State) : Outcome State Fault Refusal := .next (if can then t.settle else s)

/-! ### Idle bundles (02 R43) -/

/-- One idle bundle: it counts as a bundle of the task. -/
def State.idleBundle (s : State) : State := (s.putNow { s.now with idle := s.now.idle - 1 }.bump).tick 1

/-- IDLE_BUNDLE (02 R43), of the core whose turn it is. -/
def execIdleBundle (s : State) : Outcome State Fault Refusal := s.stepIf s.idleReady s.idleBundle

/-! ### OFILL (05 R163) -/

/-- OFILL_ROW: core `unit`, alcove `sub`. -/
def execOfillRow (s : State) : Outcome State Fault Refusal :=
  s.stepIf (s.ofillReady s.arg.unit s.arg.sub) (s.ofillRow s.arg.unit s.arg.sub)

/-! ### Results that arrive (01 R10-R14) -/

/-- The task's later accesses follow a JOIN, WATCH or BARW from its place in the LS queue; its word is read once the accesses before
it have been performed (09 R289; 11 R338). -/
def Task.atHead (t : Task) (tok : Nat) : Bool :=
  match t.lsq with
  | a :: _ => a.tok == tok
  | [] => true

/-- Where the word of a JOIN or WATCH lies now: it was checked when its bundle issued, and an invalidation since has it translated again
(11 R356). -/
def State.waitLoc (s : State) (t : Task) (a : Nat) : Option Nat :=
  match place a with
  | some (.spad _ _) => some a
  | some (.global va) => match s.xlat t.part t.core va 1 (s.privileged t) with
    | .ok loc => some loc
    | .bad _ => none
  | _ => none

/-- A fill from a word of memory under a condition; an uncorrectable error fails it (05 R151). -/
def State.wordArrival (s : State) (tid : Nat) (p : Prod) (a : Nat) (ok : Nat → Bool) : Option (Option (List VReg) × State) :=
  let t := s.task tid
  if !t.atHead p.tok then none
  else match s.waitLoc t a with
  | none => none
  | some loc =>
    if s.badAt loc 8 then some (none, s.taskError tid 0x08 2 (natLe 8 loc))
    else if !ok (memNat s.mem loc 8) then none
    else
      let (t1, v, s1) := s.fillLoad t loc 8
      some (some [BitVec.ofNat 512 v], s1.putTask tid t1)

/-- What a pending producer's wait comes to now: nothing yet, a failure, or values. `bytes`: a remote reply. -/
def State.arrival (s : State) (tid : Nat) (p : Prod) (bytes : List Byte) : Option (Option (List VReg) × State) :=
  let t := s.task tid
  let ch (q : Nat) : Chan := (s.core t.core).chan q
  let one (v : Nat) (s : State) : Option (Option (List VReg) × State) := some (some [BitVec.ofNat 512 v], s)
  match p.wait with
  | .ready vs => some (some vs, s)
  | .failed => some (none, s)
  | .ls => none
  | .join a => s.wordArrival tid p a fun v => v % 2 ^ 32 == 0
  | .watch a e _ => s.wordArrival tid p a fun v => v != e
  | .barw b g =>
    (s.barFill tid b g).bind fun x => one x.1 x.2
  | .cwp q thr => if t.resident && decide (thr ≤ (ch q).wp) then one (ch q).wp s else none
  | .cwait q n => if t.resident && decide (n < (ch q).ended) then one (ch q).last s else none
  | .crec q =>
    let first := (t.prods.find? fun y => y.wait == .crec q).any fun y => y.tok == p.tok
    let c := ch q
    if t.resident && first && decide (c.tail < c.head) then
      one (memNat s.mem (c.field 1 + 16 * (c.tail % 2 ^ c.field 2)) 8) (s.putCore t.core ((s.core t.core).putChan q { c with tail := c.tail + 1 }))
    else none
  | .nextTile _ a left => (s.serveNext tid a left).map fun (x : W64 × State) => (some [x.1.setWidth 512], x.2)
  | .drawn u v => if u ≤ t.nb then some (some [v.setWidth 512], s) else none
  | .mret => none
  | .xenq => none
  | .twait key mem g => (s.twaitCode key mem g).map fun c =>
      (some [twaitWord g c], s.putTask tid (t.classClock 3 (tabGet (s.tree key).clkOf 0 g)))
  | .remote => match s.ropOf tid with
    | some o =>
      if o.tok = p.tok ∧ o.sent = true ∧ bytes.length = (if o.kind = 1 then 128 else if o.aux / 8 % 4 = 2 then 4 else 8) then
        some (some (o.values bytes), (s.takeFlits 1 (if o.kind = 1 then 2 else 1)).ropDone tid)
      else none
    | none => none

/-- A producer's result lands; a task parked on a remote reply goes on with it. -/
def State.arrive (s : State) (tid : Nat) (p : Prod) (x : Option (List VReg)) : State :=
  let s1 := match x with
    | some vs => s.fillTask tid p vs
    | none => s.failTask tid p
  if p.wait = .remote then s1.unpark tid else s1

/-- A pending producer of a task by its token. -/
def State.prodOf (s : State) (tid tok : Nat) : Option Prod := (s.task tid).prods.find? fun p => p.tok == tok

/-- RESULT_ARRIVAL (01 R10): task `unit`, producer `num`; for a remote reply its data in `bytes`. -/
def execResultArrival (s : State) : Outcome State Fault Refusal :=
  match s.prodOf s.arg.unit s.arg.num with
  | none => .next s
  | some p => match s.arrival s.arg.unit p s.arg.bytes with
    | none => .next s
    | some (x, s1) => .next (s1.arrive s.arg.unit p x).settle

/-- A producer that waits for a point in the machine's course, whose value is the one of that point: a word of memory, a barrier's
generation, a channel's position or record, a segment's delivery (09 R289, R292; 08 R251-R253, R258; 12 R391). -/
def Wait.pointed : Wait → Bool
  | .join _ => true
  | .watch _ _ _ => true
  | .barw _ _ => true
  | .cwp _ _ => true
  | .cwait _ _ => true
  | .crec _ => true
  | .twait _ _ _ => true
  | _ => false

/-- A pending producer of that kind takes its value, or its failure, once its point has come. -/
def State.capture (s : State) (tid tok : Nat) : State :=
  match s.prodOf tid tok with
  | none => s
  | some p =>
    if !p.wait.pointed then s
    else match s.arrival tid p [] with
    | none => s
    | some (x, s1) => s1.putTask tid ((s1.task tid).setWait tok (match x with | some vs => .ready vs | none => .failed))

/-- Every such producer of every task, at the end of a step; CSETs of a ring that waited for the record of the step follow, so that a CREC
that waits takes the old ring's record (08 R225, R253). -/
def State.captureAll (s : State) : State :=
  (s.tasks.foldl (fun s x => x.2.prods.foldl (fun s p => s.capture x.1 p.tok) s) s).ringsFollow

/-- A WATCH past its deadline fills with the word as it stands (09 R292). -/
def State.watchOver (s : State) (tid : Nat) (p : Prod) : Option (Option (List VReg) × State) :=
  match p.wait with
  | .watch a _ dl => if dl ≠ 0 ∧ dl ≤ s.cycle then s.wordArrival tid p a fun _ => true else none
  | _ => none

/-- WATCH_TIMEOUT (09 R292): task `unit`, producer `num`. -/
def execWatchTimeout (s : State) : Outcome State Fault Refusal :=
  match s.prodOf s.arg.unit s.arg.num with
  | none => .next s
  | some p => match s.watchOver s.arg.unit p with
    | none => .next s
    | some (x, s1) => .next (s1.arrive s.arg.unit p x).settle

/-! ### Holds and the replay buffer (01 R32, R33; 07 R209-R211) -/

/-- A core's task has been held for 64 cycles and still is; a switch that would not fit the replay buffer does not happen. A hold for
an empty LS queue passes in stall cycles (11 R337), but one behind a JOIN, WATCH or BARW suspends (09 R289). -/
def State.suspendDue (s : State) (core : Nat) : Bool :=
  let tid := (s.core core).cur
  let t := s.task tid
  tid != 0 && t.status == .ready && decide (64 ≤ t.held) &&
  (match t.hold with
    | some .lsq => t.lsq.any fun a => !a.counts
    | some h => !s.holdClears tid h
    | none => false) &&
  ((s.choose core tid).isNone || s.replayFits core)

/-- The held task suspended, its results in flight caught; its core then chooses the next (`pick`). -/
def State.suspend (s : State) (core : Nat) : State :=
  let tid := (s.core core).cur
  s.putTask tid { (s.task tid).catchFlights with status := .suspended, held := 0, waitFrom := s.cycle }

/-- HOLD_SUSPEND (01 R32): core `unit`. -/
def execHoldSuspend (s : State) : Outcome State Fault Refusal := s.stepIf (s.suspendDue s.arg.unit) (s.suspend s.arg.unit)

/-- REPLAY_ENTRY_INJECT (07 R210): the entries of task `unit` that its next bundle must see are written to their registers. -/
def execReplayEntryInject (s : State) : Outcome State Fault Refusal :=
  let t := s.task s.arg.unit
  s.stepIf (t.resident && t.replayDue) (s.putTask s.arg.unit t.land)

/-! ### The LS queue (11 R337) -/

/-- LS_ACCESS_SEND (11 R337): task `unit`. -/
def execLsAccessSend (s : State) : Outcome State Fault Refusal := s.stepIf (s.lsCanSend s.arg.unit) (s.lsSend s.arg.unit)

/-! ### Walks (11 R346, R348) -/

/-- A translation cache with an entry; a full one loses one of the others. -/
def tlbPut (t : Tab (Nat × Nat)) (cap key : Nat) (x : Nat × Nat) : Tab (Nat × Nat) :=
  let t1 := tabDel t key
  tabPut (if t1.length < cap then t1 else t1.drop 1) key x

/-- A walk of an address, not of a pinned page, that finds a leaf. -/
def State.walked (s : State) (p va : Nat) : Option (Nat × Nat) :=
  if (s.pinOf p va).isSome then none else match s.walk p va with
    | .ok x => some x
    | .error _ => none

/-- The core's cache, unless the walk was made for the copy engine, and its cluster's take a leaf. -/
def State.cacheLeaf (s : State) (core va : Nat) (x : Nat × Nat) (engine : Bool) : State :=
  let key := va - va % pageSize x.2
  let c := clusterOf core
  let s1 := { s with ctlb := tabPut s.ctlb c (tlbPut (tabGet s.ctlb [] c) 2048 key x) }
  if engine then s1 else s1.putCore core { s1.core core with tlb := tlbPut (s1.core core).tlb 64 key x }

/-- A task's bundle waits for a walk of an address. -/
def Task.walksFor (t : Task) (va : Nat) : Bool := match t.hold with | some (.walk w) => w / 4096 == va / 4096 | _ => false

/-- The tasks of a core whose bundles wait for a walk of an address see it end (05 R150). -/
def State.walkEnds (s : State) (core va : Nat) : State :=
  (s.core core).tasks.foldl (fun s x =>
    let t := s.task x
    if t.walksFor va then s.putTask x { t with walks := va / 4096 :: t.walks } else s) s

/-- The tasks of a core whose JOIN or WATCH waits for a word of an address's page (11 R356). -/
def State.wordsOn (s : State) (core va : Nat) : List Nat :=
  (s.core core).tasks.filter fun t => (s.task t).prods.any fun p => match p.wait with
    | .join a => a / 4096 == va / 4096
    | .watch a _ _ => a / 4096 == va / 4096
    | _ => false

/-- A walk for a word that a JOIN or WATCH waits for finds the page table malformed (11 R346). -/
def State.wordsFormat (s : State) (p core va : Nat) : State :=
  match s.walk p va with
  | .error c => (s.wordsOn core va).foldl (fun s t => s.formatError c 0 p (s.task t).rkey core t va) s
  | .ok _ => s

/-- PAGE_WALK (11 R344-R348): for core `unit`, or with `flag` its cluster's copy engine, of address `addr`. A walk that faults caches
nothing; its fault is raised at the access, once the bundle that waits goes on. -/
def State.pageWalk (s : State) (p core va : Nat) (engine : Bool) : State :=
  let s1 := match s.walked p va with
    | none => if (s.pinOf p va).isSome then s else s.wordsFormat p core va
    | some x => s.cacheLeaf core va x engine
  if engine then s1 else s1.walkEnds core va

/-- PAGE_WALK: core `unit`, address `addr`, `flag` for the copy engine. -/
def execPageWalk (s : State) : Outcome State Fault Refusal :=
  match s.partOfDie (dieOf s.arg.unit) with
  | none => .next s
  | some p => .next (s.pageWalk p s.arg.unit s.arg.addr s.arg.flag).settle

/-! ### Clocks (11 R332) -/

/-- 256 cycles have passed since a partition's last tick. -/
def State.pclkDue (s : State) (p : Nat) : Bool := (tabFind s.parts p).isSome && decide ((s.part p).ptick + 256 ≤ s.cycle)

/-- PCLK_TICK (11 R332): partition `unit`. -/
def execPclkTick (s : State) : Outcome State Fault Refusal :=
  let q := s.part s.arg.unit
  s.stepIf (s.pclkDue s.arg.unit) (s.putPart s.arg.unit { q with pclk := q.pclk + 1, ptick := q.ptick + 256 })

/-- A home has assigned a write timestamp W with W - L above PCLK. -/
def State.raiseDue (s : State) (p : Nat) : Bool :=
  (tabFind s.parts p).isSome && decide ((s.part p).pclk + (s.part p).lease < (s.part p).raise)

/-- PCLK_RAISE (11 R332): partition `unit`. -/
def execPclkRaise (s : State) : Outcome State Fault Refusal :=
  let q := s.part s.arg.unit
  s.stepIf (s.raiseDue s.arg.unit) (s.putPart s.arg.unit { q with pclk := q.raise - q.lease })

/-- 256 cycles of a resident task have passed. -/
def State.taskTickDue (s : State) (tid : Nat) : Bool :=
  (tabFind s.tasks tid).isSome && (s.task tid).resident && decide ((s.task tid).tickAt + 256 ≤ s.cycle)

/-- TASK_CLOCK_TICK (11 R332): task `unit`. -/
def execTaskClockTick (s : State) : Outcome State Fault Refusal :=
  let t := s.task s.arg.unit
  s.stepIf (s.taskTickDue s.arg.unit)
    (s.putTask s.arg.unit { t with pts := max (t.pts + 1) (s.part t.part).pclk, tickAt := t.tickAt + 256 })

end Sys2Proof.Machine
end

