-- ==== Sys2Proof/Machine/DieSteps.lean ====
section
/-! DEFINITION. Steps of the sump engines (10 R301-R327) and of the tree service and routers (12 R375-R380).
Operands stand in `State.arg` (notes/assumptions/2). -/

namespace Sys2Proof.Machine

open Host (Outcome)

/-! ### Sumps -/

/-- XPREF_UNIT (10 R327): die `unit`. -/
def execXprefUnit (s : State) : Outcome State Fault Refusal := s.stepIf (!(s.die s.arg.unit).xprefs.isEmpty) (s.prefetchUnit s.arg.unit)

/-- SUMP_ADMIT (10 R308): die `unit`. -/
def execSumpAdmit (s : State) : Outcome State Fault Refusal := s.stepIf (!(s.die s.arg.unit).enq.isEmpty) (s.sumpAdmit s.arg.unit)

/-- A sump's age limit has been reached and not yet detected. -/
def State.ageDue (s : State) (id : Nat) : Bool := (s.sump id).st == 1 && (s.sump id).aged s.ns && !(s.sump id).due

/-- SUMP_AGE_DUE (10 R310): sump `unit`. -/
def execSumpAgeDue (s : State) : Outcome State Fault Refusal :=
  s.stepIf (s.ageDue s.arg.unit) (s.putSump s.arg.unit { s.sump s.arg.unit with due := true })

/-- A die's engine may take a decision: a sump is eligible, and 16 ns have passed since the last (10 R311). -/
def State.decisionDue (s : State) (die : Nat) : Bool :=
  !(s.eligibleSumps die).isEmpty && ((s.die die).decN == 0 || decide ((s.die die).decAt + 16 ≤ s.ns))

/-- FIRING_DECISION (10 R311): die `unit`. -/
def execFiringDecision (s : State) : Outcome State Fault Refusal := s.stepIf (s.decisionDue s.arg.unit) (s.firingDecision s.arg.unit)

/-! ### Trees. The tree's key comes with the step (`addr`), and the place in its list of posts or chunks (`num`). -/

/-- TREE_SOURCE_READ (12 R378): post `num`. -/
def execTreeSourceRead (s : State) : Outcome State Fault Refusal :=
  s.stepIf ((s.tree s.arg.addr).canRead s.arg.num) ((s.treeRead s.arg.addr s.arg.num).treeAdvance s.arg.addr 8)

/-- A chunk from another package is taken: the tree's partition has that package's tree peering, and the chunk lies in the segment
(12 R370; 14 R441). -/
def State.farChunkOk (s : State) (key pkg k : Nat) : Bool :=
  (s.tree key).st != 0 && s.peerFlag (key / 65536) pkg 1 && decide (k < (s.tree key).nchunks)

/-- Flits of a tree packet that carries a clock and a chunk (14 R441; notes/assumptions/41). -/
def treeFlits (bs : List Byte) : Nat := (140 + bs.length + 127) / 128

/-- TREE_CHUNK_ARRIVE (12 R375): the chunk `num` that travels up; with `flag`, a contribution of package `unit` to segment `num`, chunk
`sub`, covering the members `aux`; its clock leads the bytes. -/
def execTreeChunkArrive (s : State) : Outcome State Fault Refusal :=
  let a := s.arg
  if a.flag then s.stepIf (s.farChunkOk a.addr a.unit a.sub) ((s.takeFlits 2 (treeFlits a.bytes)).treeFar a.addr a.unit a.num a.sub a.aux false a.bytes)
  else s.stepIf (s.canArrive a.addr a.num) (s.treeArrive a.addr a.num)

/-- TREE_SLOT_REFILL (12 R379): router `num`. -/
def execTreeSlotRefill (s : State) : Outcome State Fault Refusal :=
  s.stepIf (s.refillNext s.arg.addr s.arg.num) (s.treeRefill s.arg.addr s.arg.num)

/-- TREE_REPLICATE (12 R376): the chunk `num` that travels down, `aux` the output branches with buffer space; with `flag`, a result
chunk from the root's package `unit` to segment `num`, chunk `sub`, its clock leading the bytes. -/
def execTreeReplicate (s : State) : Outcome State Fault Refusal :=
  let a := s.arg
  if a.flag then s.stepIf (s.farChunkOk a.addr a.unit a.sub) ((s.takeFlits 2 (treeFlits a.bytes)).treeFar a.addr a.unit a.num a.sub 0 true a.bytes)
  else s.stepIf (s.canReplicate a.addr a.num a.aux) (s.treeReplicate a.addr a.num a.aux)

/-- A report from another package on a segment is taken (12 R370; 14 R441). -/
def State.farReportOk (s : State) (key pkg : Nat) : Bool := (s.tree key).st != 0 && s.peerFlag (key / 65536) pkg 1

/-- TREE_DELIVERY (12 R377): receiver core `num`; with `flag`, package `unit` reports that its receivers have segment `num`, under the
clock that leads the bytes. -/
def execTreeDelivery (s : State) : Outcome State Fault Refusal :=
  let a := s.arg
  if a.flag then s.stepIf (s.farReportOk a.addr a.unit) ((s.takeFlits 2 2).treeHear a.addr a.unit a.num treeDoneMark (leNat (a.bytes.take 8)))
  else s.stepIf (s.canDeliver a.addr a.num).isSome (s.treeDeliver a.addr a.num)

/-- A segment whose chunks lie in a chunk buffer or in holding slots, which an uncorrectable error can meet (12 R380). -/
def Tree.exposed (t : Tree) (g : Nat) : Bool := t.st != 0 && !t.failed.contains g && (t.bufs ++ t.down).any fun x => x.seg == g

/-- TREE_DATA_ERROR (12 R379, R380): segment `num` here; with `flag`, segment `num` has failed at package `unit`, or, where `aux` is
not 0, router `sub` detects a soft error in the routing fields of its slot. -/
def execTreeDataError (s : State) : Outcome State Fault Refusal :=
  let a := s.arg
  if a.flag && a.aux != 0 then s.stepIf ((s.tree a.addr).slotLoaded a.sub) (s.unloadSlot a.addr a.sub)
  else if a.flag then s.stepIf (s.farReportOk a.addr a.unit) ((s.takeFlits 2 2).treeHear a.addr a.unit a.num treeFailMark 0)
  else s.stepIf ((s.tree a.addr).exposed a.num) ((s.treeFail a.addr a.num).treeAdvance a.addr 8)

end Sys2Proof.Machine
end

