-- ==== Sys2Proof/Machine/FabricSteps.lean ====
section
/-! DEFINITION. The fabric's steps (14 R419-R446): remote operations and transfers, flits and wavelengths, slots, and the fabric
manager's messages. Operands stand in `State.arg` (notes/assumptions/2). -/

namespace Sys2Proof.Machine

open Host (Outcome)

/-! ### Remote operations (14 R434-R436, R442, R443) -/

/-- A request is one that 14 R433 lets a source send: a known kind, an aligned address, its data. -/
def requestOk (kind a aux : Nat) (data : List Byte) : Bool :=
  match kind with
  | 1 => a % 64 == 0 && data.isEmpty
  | 2 => a % 64 == 0 && data.length == 128
  | 3 => (aux / 8 % 4 == 2 || aux / 8 % 4 == 3) && a % 2 ^ (aux / 8 % 4) == 0 && data.length == 16
  | _ => false

/-- REMOTE_REQUEST (14 R434): from package `unit` for partition `sub`, kind `num` mod 4 of its task `num` / 4, address `addr`, operation
`aux` (the imm7 of 14 R443), data `bytes`. -/
def execRemoteRequest (s : State) : Outcome State Fault Refusal :=
  let a := s.arg
  s.stepIf (s.boot.stage == 3 && requestOk (a.num % 4) a.addr a.aux a.bytes)
    (s.remoteRequest a)

/-- The transfer of a queue that replies are for. -/
def State.liveSend (s : State) (n : Nat) : Option Send := (s.openSend n).bind (s.sendAt n)

/-- That transfer fails. -/
def State.liveFail (s : State) (n reason : Nat) : State :=
  match s.openSend n with
  | some i => s.sendFail n i reason
  | none => s

/-- REMOTE_ERROR_REPLY (14 R435): reason `num` for the operation of task `unit`, or with `flag` for the first transfer of queue `unit` that
is not acknowledged whole. -/
def execRemoteErrorReply (s : State) : Outcome State Fault Refusal :=
  let a := s.arg
  if a.flag then s.stepIf ((s.liveSend a.unit).any fun x => decide (0 < x.pos)) ((s.takeFlits 1 1).liveFail a.unit a.num)
  else s.stepIf ((s.ropOf a.unit).any fun o => o.sent) ((s.takeFlits 1 1).ropFail a.unit a.num)

/-- A queue's transfer has had no reply for 10 ms of its destination's grouped time (14 R435). -/
def State.sendSilent (s : State) (n : Nat) : Bool :=
  (s.liveSend n).any fun x => !x.fault && s.silent (tabGet s.sendqs { pkg := 0 } n).pkg x.since

/-- REMOTE_UNREACHABLE (14 R435): the destination of task `unit`'s operation, or with `flag` of queue `unit`'s transfer, has been silent
for 10 ms. -/
def execRemoteUnreachable (s : State) : Outcome State Fault Refusal :=
  let a := s.arg
  if a.flag then s.stepIf (s.sendSilent a.unit) (s.liveFail a.unit 8)
  else s.stepIf ((s.ropOf a.unit).any fun o => s.silent o.pkg o.since) (s.ropFail a.unit 8)

/-- A transfer has been acknowledged further. -/
def State.ackSend (s : State) (n upTo : Nat) : State :=
  match s.openSend n, s.liveSend n with
  | some i, some x => s.putSend n i { x with acked := max x.acked (min upTo x.pos), since := s.groupedTime (tabGet s.sendqs { pkg := 0 } n).pkg }
  | _, _ => s

/-- REMOTE_ACKNOWLEDGEMENT (14 R442): the RST of task `unit` has been performed; with `flag`, the first transfer of queue `unit` that is
not acknowledged whole, up to byte `num`. -/
def execRemoteAcknowledgement (s : State) : Outcome State Fault Refusal :=
  let a := s.arg
  if a.flag then s.stepIf (s.liveSend a.unit).isSome ((s.takeFlits 1 1).ackSend a.unit a.num)
  else s.stepIf ((s.ropOf a.unit).any fun o => o.sent && o.kind == 2) (((s.takeFlits 1 1).ropDone a.unit).unpark a.unit)

/-! ### Scheduled sends (14 R437-R440) -/

/-- A port can send a kept flit again: it may start a flit now, and still has it (14 R421). -/
def State.canResend (s : State) (j f : Nat) : Bool := s.portOpen j && (s.port j).keeps f

/-- SEND_FLIT (14 R421, R432, R439): queue `unit`; with `flag`, port `unit` sends the next flit of a packet that waits, or, where `aux` is
not 0, flit `num` again, which its peer asks for. -/
def execSendFlit (s : State) : Outcome State Fault Refusal :=
  let a := s.arg
  if a.flag && a.aux != 0 then s.stepIf (s.canResend a.unit a.num) (s.putPort a.unit ((s.port a.unit).resend s.ftime a.num))
  else if a.flag then s.stepIf (s.canSendWaiting a.unit) (s.sendWaiting a.unit)
  else s.stepIf (s.canSendFlit a.unit) (s.sendFlit a.unit)

/-- SEND_LINE_PERFORM (14 R439, R440): from package `unit` for partition `sub`, 64 `bytes` at `addr`; `flag`: the transfer's last line,
with its dnote in `num` where `aux` bit 0 is set; `aux` bit 1: the line is the last of its flit, bit 2: it has been performed, and only dnote
is left, bit 3: the transfer before it stopped at its source; bits 4 to 27: its number in its transfer, from bit 40: its transfer's number. -/
def execSendLinePerform (s : State) : Outcome State Fault Refusal :=
  let a := s.arg
  s.stepIf (s.boot.stage == 3 && a.bytes.length == 64 && a.addr % 64 == 0 && (s.recv a.unit).takes a)
    (s.sendLine a)

/-- SNOTE_ADD (14 R440): the head transfer of queue `unit` has been acknowledged whole, or has failed. -/
def execSnoteAdd (s : State) : Outcome State Fault Refusal := s.stepIf ((s.sendAt s.arg.unit 0).any Send.noteDue) (s.noteAdd s.arg.unit)

/-! ### Flits and wavelengths (14 R420-R422, R430) -/

/-- FLIT_RECEIVE (14 R420, R421): port `unit`, flit `num`, beat `aux` mod 256 with `aux` / 256 corrected codewords; `flag`: it could
not be corrected; channel `sub`, 16 `bytes`; `addr` holds the flit's destination in its bits 0 to 15, its source in bits 16 to 31 and, above,
how often the flit had been sent before. -/
def execFlitReceive (s : State) : Outcome State Fault Refusal :=
  let a := s.arg
  let p := s.port a.unit
  s.stepIf (decide (a.unit < 16 ∧ a.aux % 256 < 8 ∧ a.sub < 16) && p.up && decide (p.rx ≤ a.num ∧ a.addr / 2 ^ 32 ≤ tabGet p.fails 0 a.num) && a.bytes.length == 16)
    (s.flitReceive a.unit a.num (a.aux % 256) (a.addr / 2 ^ 32) (a.aux / 256) a.flag a.bytes (natLe 2 a.sub ++ natLe 4 (a.addr % 2 ^ 32)))

/-- STOP_GO_SIGNAL (14 R430): at port `unit` the peer stops (`flag`) or releases channel `sub`. -/
def execStopGoSignal (s : State) : Outcome State Fault Refusal :=
  let a := s.arg
  let p := s.port a.unit
  let was := p.stops / 2 ^ a.sub % 2 == 1
  let stops := if a.flag && !was then p.stops + 2 ^ a.sub else if !a.flag && was then p.stops - 2 ^ a.sub else p.stops
  s.stepIf (decide (a.unit < 16 ∧ a.sub < 16)) (s.putPort a.unit { p with stops := stops })

/-- The window of the wavelength counters has ended. -/
def State.windowOver (s : State) : Bool := s.ftime / 1000000 != s.fab.win

/-- Counters of wavelengths not in test start again. -/
def Port.newWindow (p : Port) : Port :=
  { p with waves := p.waves.map fun (x : Nat × Wave) => if x.2.st = 2 then x else (x.1, { x.2 with cc := 0, ub := 0 }) }

/-- WAVELENGTH_WINDOW (14 R422), of every port. -/
def execWavelengthWindow (s : State) : Outcome State Fault Refusal :=
  s.stepIf s.windowOver
    { s with fab := { s.fab with win := s.ftime / 1000000 }, ports := s.ports.map fun (x : Nat × Port) => (x.1, x.2.newWindow) }

/-- RETRAIN_TRIGGER (14 R422): port `unit`, wavelength `sub`. -/
def execRetrainTrigger (s : State) : Outcome State Fault Refusal :=
  s.stepIf (s.canTrigger s.arg.unit s.arg.sub) (s.retrain s.arg.unit s.arg.sub)

/-- The peer of a port announces the stripe map that the port is to send under from a flit on (14 R422). -/
def State.peerMap (s : State) (j f : Nat) (bs : List Byte) : State := s.putPort j { s.port j with tnew := some (max f (s.port j).tx, peerStripes bs) }

/-- STRIPE_SWITCH (14 R422): port `unit`; with `flag`, its peer announces such a change of the map in `bytes`, from flit `num`, for what the
port sends; so with the next two. -/
def execStripeSwitch (s : State) : Outcome State Fault Refusal :=
  let p := s.port s.arg.unit
  if s.arg.flag then s.stepIf p.up (s.peerMap s.arg.unit s.arg.num s.arg.bytes)
  else s.stepIf (p.reached p.sw) (s.putPort s.arg.unit (p.switch s.ftime))

/-- WAVELENGTH_WITHDRAW (14 R422): port `unit`. -/
def execWavelengthWithdraw (s : State) : Outcome State Fault Refusal :=
  let p := s.port s.arg.unit
  if s.arg.flag then s.stepIf p.up (s.peerMap s.arg.unit s.arg.num s.arg.bytes)
  else match p.toWithdraw with
  | some (f, w) => .next (s.putPort s.arg.unit (p.withdraw f w s.ftime)).settle
  | none => .next s

/-- A wavelength's adaptation has ended. -/
def State.adapted (s : State) (j w : Nat) : Bool :=
  ((s.port j).wave w).st == 1 && !((s.port j).sw.any fun x => x.2 == w) && !((s.port j).wd.any fun x => x.2 == w) &&
   decide (((s.port j).wave w).timer ≤ s.ftime)

/-- RETRAIN_ADAPTATION_END (14 R422): port `unit`, wavelength `sub`; its test starts. -/
def execRetrainAdaptationEnd (s : State) : Outcome State Fault Refusal :=
  let a := s.arg
  let x := (s.port a.unit).wave a.sub
  s.stepIf (s.adapted a.unit a.sub)
    (s.putPort a.unit ((s.port a.unit).putWave a.sub { x with st := 2, timer := x.timer + 100000, cc := 0, ub := 0 }))

/-- A wavelength's test has ended. -/
def State.tested (s : State) (j w : Nat) : Bool := ((s.port j).wave w).st == 2 && decide (((s.port j).wave w).timer ≤ s.ftime)

/-- RETRAIN_TEST_END (14 R422): port `unit`, wavelength `sub`, whose test corrected `num` codewords and could not correct `aux` beats. -/
def execRetrainTestEnd (s : State) : Outcome State Fault Refusal :=
  s.stepIf (s.tested s.arg.unit s.arg.sub) (s.testEnd s.arg.unit s.arg.sub s.arg.num s.arg.aux)

/-- WAVELENGTH_HANDBACK (14 R422): port `unit`. -/
def execWavelengthHandback (s : State) : Outcome State Fault Refusal :=
  let p := s.port s.arg.unit
  if s.arg.flag then s.stepIf p.up (s.peerMap s.arg.unit s.arg.num s.arg.bytes)
  else s.stepIf (p.reached p.hb) (s.putPort s.arg.unit p.handBack)

/-! ### Slots (14 R424-R428, R431) -/

/-- SLOT_BOUNDARY (14 R427). -/
def execSlotBoundary (s : State) : Outcome State Fault Refusal := s.stepIf s.slotDue s.slotBoundary

/-- A port's guard interval has ended. -/
def State.guardDue (s : State) (j : Nat) : Bool := (s.port j).st == 1 && decide ((s.port j).guard_ ≤ s.ftime)

/-- GUARD_END (14 R419, R422, R427): port `unit`, one-way flight `num` ns; `flag`: the peer's table disagrees; `bytes`: the peer's stripe map,
one wavelength for each position. -/
def execGuardEnd (s : State) : Outcome State Fault Refusal :=
  s.stepIf (s.guardDue s.arg.unit) (s.guardEnd s.arg.unit s.arg.num s.arg.flag s.arg.bytes)

/-- WINDOW_CLOSE (14 R427): port `unit`. -/
def execWindowClose (s : State) : Outcome State Fault Refusal :=
  s.stepIf (s.windowDue s.arg.unit) (s.putPort s.arg.unit { s.port s.arg.unit with closed := true })

/-- TRANSIT_REINJECT (14 R431). -/
def execTransitReinject (s : State) : Outcome State Fault Refusal := s.stepIf s.canReinject s.transitInject

/-- FTIME_LOCK (14 R424): the module locks, and FTIME is `num` ns. -/
def State.lock (s : State) (ft : Nat) : State :=
  let s1 := s.bankGroups s.ftime
  { s1 with fab := { s1.fab with locked := true, synced := true, ftime0 := (ft + 2 ^ 64 - s.ns % 2 ^ 64) % 2 ^ 64, lost := 0, base := ft } }

/-- LOCK_LOSS: the current group is empty until the module locks again (14 R424). -/
def State.unlock (s : State) : State :=
  let s1 := s.bankGroups s.ftime
  { s1 with fab := { s1.fab with locked := false, lost := s.ns } }

/-- FTIME_LOCK (14 R424), FTIME in `num`. -/
def execFtimeLock (s : State) : Outcome State Fault Refusal := s.stepIf (s.boot.stage == 3 && decide (s.arg.num < 2 ^ 64)) (s.lock s.arg.num)

/-- LOCK_LOSS (14 R424): lock has been lost for more than 1 ms. -/
def execLockLoss (s : State) : Outcome State Fault Refusal := s.stepIf s.fab.locked s.unlock

/-- SLOT_TABLE (14 R425, R426): the image in `bytes`. -/
def execSlotTable (s : State) : Outcome State Fault Refusal := s.stepIf (s.boot.stage == 3) (s.slotTable s.arg.bytes)

/-- The accepted table's activation time has come, locked or not. -/
def State.activationDue (s : State) : Bool := !s.fab.pend.isEmpty && decide (tbStart s.fab.pend ≤ s.ftime)

/-- The accepted table comes into force, at its T0 (14 R426). -/
def State.activate (s : State) : State :=
  let s1 := s.bankGroups (tbStart s.fab.pend)
  { s1 with fab := { s1.fab with table := s.fab.pend, pend := [], slot := none } }

/-- TABLE_ACTIVATION (14 R426): the table comes into force; its first slot then begins. -/
def execTableActivation (s : State) : Outcome State Fault Refusal := s.stepIf s.activationDue s.activate

/-- PACKAGE_IDENTIFIER (14 R425): `num`, 0 to 4,094. -/
def execPackageIdentifier (s : State) : Outcome State Fault Refusal :=
  s.stepIf (s.boot.stage == 3 && decide (s.arg.num ≤ 4094)) { s with fab := { s.fab with pkg := s.arg.num } }

/-- PEER_TABLE (14 R428): partition `unit`; up to 64 entries of four bytes in `bytes`. -/
def execPeerTable (s : State) : Outcome State Fault Refusal :=
  s.stepIf ((tabFind s.parts s.arg.unit).isSome && s.arg.bytes.length % 4 == 0 && decide (s.arg.bytes.length ≤ 256)) (s.peerTable s.arg.unit s.arg.bytes)

end Sys2Proof.Machine
end

