-- ==== Sys2Proof/Machine/HostSteps.lean ====
section
/-! DEFINITION. What the host, the power controller and the module's own monitors do (13 R393-R418; 09 R287).
Operands stand in `State.arg` (notes/assumptions/2). -/

namespace Sys2Proof.Machine

open Host (Outcome)

/-! ### Mailbox commands (13 R395, R396). A command of partition `unit` is its command word written to the function's MBOX, with its argument
in MBARG: the code, the function or index that the instruction stands for, and the word's other bits from `num`. -/

/-- A command word reaches a partition function's MBOX over a link that is up; the word has 64 bits. -/
def State.command (s : State) (w : Nat) : Outcome State Fault Refusal := s.stepIf (s.link.up && s.mailOpen s.arg.unit) (s.mailWord s.arg.unit (w % 2 ^ 64))

/-- LAUNCH (13 R396; 09 R267). -/
def execLaunch (s : State) : Outcome State Fault Refusal := s.command (1 * 2 ^ 56 + s.arg.num % 2 ^ 56)

/-- CREATE-ROOT (13 R396). -/
def execCreateRoot (s : State) : Outcome State Fault Refusal := s.command (2 * 2 ^ 56 + s.arg.num % 2 ^ 56)

/-- The word of CONTROL with a function in its bits [23:16]. -/
def controlWord (fn num : Nat) : Nat := 3 * 2 ^ 56 + num / 2 ^ 24 % 2 ^ 32 * 2 ^ 24 + fn * 2 ^ 16 + num % 2 ^ 16

/-- CONTROL, function 1: DESTROY (13 R396; 09 R294). -/
def execControlDestroy (s : State) : Outcome State Fault Refusal := s.command (controlWord 1 s.arg.num)
/-- CONTROL, function 2: LAUNCH. -/
def execControlLaunch (s : State) : Outcome State Fault Refusal := s.command (controlWord 2 s.arg.num)
/-- CONTROL, function 3: PREEMPT. -/
def execControlPreempt (s : State) : Outcome State Fault Refusal := s.command (controlWord 3 s.arg.num)
/-- CONTROL, function 4: PARK. -/
def execControlPark (s : State) : Outcome State Fault Refusal := s.command (controlWord 4 s.arg.num)
/-- CONTROL, function 5: RESUME. -/
def execControlResume (s : State) : Outcome State Fault Refusal := s.command (controlWord 5 s.arg.num)
/-- CONTROL, function 6: KILL. -/
def execControlKill (s : State) : Outcome State Fault Refusal := s.command (controlWord 6 s.arg.num)
/-- CONTROL, function 7: RELOAD. -/
def execControlReload (s : State) : Outcome State Fault Refusal := s.command (controlWord 7 s.arg.num)

/-- The word of PARAM with an index in its bits [7:0] (13 R397). -/
def paramWord (idx num : Nat) : Nat := 4 * 2 ^ 56 + num / 2 ^ 8 % 2 ^ 48 * 2 ^ 8 + idx

/-- PARAM 0 (13 R397). -/
def execParamPtroot (s : State) : Outcome State Fault Refusal := s.command (paramWord 0 s.arg.num)
/-- PARAM 1 (13 R397). -/
def execParamFqbase (s : State) : Outcome State Fault Refusal := s.command (paramWord 1 s.arg.num)
/-- PARAM 2 (13 R397). -/
def execParamTtbase (s : State) : Outcome State Fault Refusal := s.command (paramWord 2 s.arg.num)
/-- PARAM 3 (13 R397). -/
def execParamLease (s : State) : Outcome State Fault Refusal := s.command (paramWord 3 s.arg.num)
/-- PARAM 4 (13 R397). -/
def execParamEvqbase (s : State) : Outcome State Fault Refusal := s.command (paramWord 4 s.arg.num)
/-- PARAM 5 (13 R397). -/
def execParamEvqlen (s : State) : Outcome State Fault Refusal := s.command (paramWord 5 s.arg.num)
/-- PARAM 6 (13 R397). -/
def execParamErrbase (s : State) : Outcome State Fault Refusal := s.command (paramWord 6 s.arg.num)
/-- PARAM 7 (13 R397). -/
def execParamErrlen (s : State) : Outcome State Fault Refusal := s.command (paramWord 7 s.arg.num)
/-- PARAM 8 (13 R397). -/
def execParamSevmat (s : State) : Outcome State Fault Refusal := s.command (paramWord 8 s.arg.num)
/-- PARAM 9 (13 R397). -/
def execParamPcap (s : State) : Outcome State Fault Refusal := s.command (paramWord 9 s.arg.num)

/-- RESYNC (13 R413). -/
def execResync (s : State) : Outcome State Fault Refusal := s.command (5 * 2 ^ 56 + s.arg.num % 2 ^ 56)

/-- RESET (13 R412): bit 0 clears memory; with `sub`, the partition reset of `unit` that is under way ends. -/
def execReset (s : State) : Outcome State Fault Refusal :=
  if s.arg.sub = 0 then s.command (6 * 2 ^ 56 + s.arg.num % 2 ^ 56)
  else s.stepIf ((s.part s.arg.unit).st == 1) (s.resetEnd s.arg.unit)

/-- CHECKPOINT (13 R417). -/
def execCheckpoint (s : State) : Outcome State Fault Refusal := s.command (7 * 2 ^ 56 + s.arg.num % 2 ^ 56)

/-- RESTORE (13 R418). -/
def execRestore (s : State) : Outcome State Fault Refusal := s.command (8 * 2 ^ 56 + s.arg.num % 2 ^ 56)

/-- Function 0 is enabled: from READY on, and in RECOVERY (13 R394, R400). -/
def State.open0 (s : State) : Bool := s.link.up && (s.boot.stage == 3 || s.boot.stage == 7)

/-- ATTEST on function 0 (13 R396, R403); with `sub`, the one in progress ends. -/
def execAttest (s : State) : Outcome State Fault Refusal :=
  if s.arg.sub = 0 then s.stepIf s.open0 (s.mail0 (9 * 2 ^ 56 + s.arg.num % 2 ^ 56))
  else s.stepIf s.boot.busy.isSome s.attest

/-! ### Registers (13 R395) -/

/-- A write of a register of function 0: MBOX, MBARG or EVQTAIL. -/
def State.reg0 (s : State) (off v : Nat) : State :=
  if off = 0x000 then s.mail0 v
  else if off = 0x008 then { s with boot := { s.boot with mbarg := v } }
  else if off = 0x020 then { s with boot := { s.boot with evqtail := v % 2 ^ 32 } }
  else s

/-- A write of a register of a partition function: MBOX, MBARG or EVQTAIL. -/
def State.regPart (s : State) (p off v : Nat) : State :=
  let q := s.part p
  if off = 0x000 then s.mailWord p v
  else if off = 0x008 then s.putPart p { q with mbarg := v }
  else if off = 0x020 then s.putPart p { q with evqtail := v % 2 ^ 32 }
  else s

/-- REGISTER_WRITE (13 R395): function `unit`, offset `addr`, 64-bit value `num`. A write of MBOX issues the command word. -/
def execRegisterWrite (s : State) : Outcome State Fault Refusal :=
  let a := s.arg
  if a.unit = 0 then s.stepIf s.open0 (s.reg0 a.addr (a.num % 2 ^ 64))
  else s.stepIf (s.link.up && decide (a.unit ≤ 4) && s.mailOpen (a.unit - 1)) (s.regPart (a.unit - 1) a.addr (a.num % 2 ^ 64))

/-! ### Boot (13 R399, R400) -/

/-- MODULE_BOOT (13 R399): images and configuration in `bytes`; `flag`: the self-test is fatal. -/
def execModuleBoot (s : State) : Outcome State Fault Refusal := s.stepIf true (s.bootWith s.arg.bytes s.arg.flag)

/-- RECOVERY_IMAGE (13 R400): in RECOVERY, the replacement images that function 0's mailbox takes, `num` bytes of host memory at its
MBARG, with which the module boots (notes/assumptions/20). -/
def execRecoveryImage (s : State) : Outcome State Fault Refusal :=
  s.stepIf (s.link.up && s.boot.stage == 7 && decide (s.boot.mbarg + s.arg.num ≤ 2 ^ 51))
    (s.bootWith (memBytes s.mem (2 ^ 51 + s.boot.mbarg) s.arg.num) s.arg.flag)

/-! ### Power (13 R410, R414-R416) -/

/-- CAP_BROADCAST (13 R414): the broadcast in `bytes`. -/
def execCapBroadcast (s : State) : Outcome State Fault Refusal := s.stepIf (s.boot.stage == 3) (s.capBroadcast s.arg.bytes)

/-- RANK_SET (13 R414): `num`, 0 to 63. -/
def execRankSet (s : State) : Outcome State Fault Refusal :=
  s.stepIf (decide (s.arg.num < 64)) { s with power := { s.power with rank := s.arg.num } }

/-- OWN_CAP (13 R415): `num` W, 0 for none. -/
def execOwnCap (s : State) : Outcome State Fault Refusal :=
  s.stepIf (s.boot.stage == 3 && decide (s.arg.num < 65536)) ({ s with power := { s.power with own := s.arg.num } }.applyPower).capRaised

/-- A die's thermal or current limit, and its unconstrained draw, as its monitors find them. -/
def State.clockLimit (s : State) (d mhz draw : Nat) (thermal : Bool) : State :=
  let x := s.die d
  let s1 := (s.putDie d (if thermal then { x with tlimit := mhz, draw := draw } else { x with climit := mhz, draw := draw })).applyPower
  match s.partOfDie d with
  | some p => if thermal && decide (mhz < 4000) then s1.error { part := p, cls := 0x17, src := 5, core := d * 4096, tail := natLe 8 d } else s1
  | none => s1

/-- CLOCK_LIMIT (13 R416): die `unit`, limit `num` MHz, draw `aux` W; `flag`: thermal. -/
def execClockLimit (s : State) : Outcome State Fault Refusal :=
  s.stepIf (decide (s.arg.unit < 4 ∧ 1000 ≤ s.arg.num ∧ s.arg.num ≤ 4000)) (s.clockLimit s.arg.unit s.arg.num s.arg.aux s.arg.flag)

/-- REGULATOR_PHASE_FAILURE (13 R410): die `unit`; a spare phase comes in at once. -/
def execRegulatorPhaseFailure (s : State) : Outcome State Fault Refusal :=
  s.stepIf (decide (s.arg.unit < 4))
    { s with power := { s.power with phases := tabPut s.power.phases s.arg.unit (tabGet s.power.phases 0 s.arg.unit + 1) } }

/-! ### The host link (13 R393) -/

/-- LINK_RETRY (13 R393). -/
def execLinkRetry (s : State) : Outcome State Fault Refusal :=
  s.stepIf s.link.up ({ s with link := { s.link with replays := s.link.replays + 1 } }.pkgError 0x13 4 [])

/-- LINK_DOWN (13 R393). -/
def execLinkDown (s : State) : Outcome State Fault Refusal :=
  s.stepIf s.link.up ({ s with link := { s.link with up := false, downs := s.link.downs + 1 } }.pkgError 0x14 4 [])

/-- LINK_RECOVERY (13 R393): the link trains to `num` GT/s and `aux` lanes, 16, 8 or 4. -/
def execLinkRecovery (s : State) : Outcome State Fault Refusal :=
  s.stepIf (decide (1 ≤ s.arg.num ∧ s.arg.num ≤ 128) && [16, 8, 4].contains s.arg.aux)
    { s with link := { s.link with up := true, gts := s.arg.num, width := s.arg.aux } }

/-! ### Failures (09 R287; 13 R411) -/

/-- CONTROL_DIVERGE (09 R287): a pair of die `unit`, in the protected mode. -/
def execControlDiverge (s : State) : Outcome State Fault Refusal :=
  s.stepIf (decide (s.arg.unit < 4) && s.boot.stage == 3 && !s.boot.unprot && decide (0 < (s.die s.arg.unit).pairs)) (s.controlDiverge s.arg.unit)

/-- CLUSTER_FAILURE (13 R411): die `unit`, logical cluster `sub`. -/
def execClusterFailure (s : State) : Outcome State Fault Refusal :=
  s.stepIf (decide (s.arg.unit < 4 ∧ s.arg.sub < 24) && s.boot.stage == 3) (s.clusterFail s.arg.unit s.arg.sub)

end Sys2Proof.Machine
end

