-- ==== Sys2Proof/Machine/Matrix.lean ====
section
/-! DEFINITION. The MX slot (06 R174-R199) and the steps in which its queue entries execute. -/

namespace Sys2Proof.Machine

open Host (Outcome)

/-! ### Shared forms -/

/-- A tile outside VALLOT.cmask raises REG-ALLOT (01 R17). -/
def Task.noTile (t : Task) (c : Nat) : Option (Bool × Nat) := if t.cmask / 2 ^ c % 2 = 1 then none else some (false, c)

/-- The tile whose pending MLDA holds the bundle (06 R175). -/
def State.pendOf (s : State) (c : Nat) : Option Nat := if (s.core s.now.core).loading c then some c else none

/-- An operation enters the queue when it has space (06 R174, R175 step 7). -/
def State.enqueue (s : State) (op : MxOp) (ds : List Dest) : SlotOut := s.orHold (.mqueue 1) (.go [.mx op ds])

/-- An output format is allowed for an accumulator (06 R187). -/
def fmtFor (acc fmt : Nat) : Bool :=
  match fmt with
  | 0 => true
  | 1 => acc != 1
  | 2 => acc != 0
  | 3 => acc != 0
  | _ => acc == 0

/-- The pieces of `n` bytes from a 64-byte-aligned address that a task's matrix access touches, page by page; or cause and detail of
the check that fails, in the order of 05 R149. -/
def State.mxPieces (s : State) (t : Task) (need : Nat) : Nat → Nat → Nat → Except (Nat × Nat) (List (Nat × Nat))
  | 0, _, _ => .ok []
  | f + 1, a, n =>
    if n = 0 then .ok []
    else
      let k := min n (4096 - a % 4096)
      match s.daccess t a k 64 need with
      | .error e => .error e
      | .ok loc =>
        match s.mxPieces t need f (a + k) (n - k) with
        | .error e => .error e
        | .ok r => .ok ((loc, k) :: r)

/-- A walk over a range found the page table malformed: class PAGE-TABLE-FORMAT for its first page that does not translate
(11 R346). -/
def State.rangeFormat (s : State) (tid a n : Nat) : State :=
  let t := s.task tid
  s.pagesFormat 1 t.part t.rkey t.core tid a n

/-- Bytes of an image that stands in memory, by the mode word there. -/
def State.imageAt (s : State) (ps : List (Nat × Nat)) : Nat := imageSize (memNat s.mem ((ps.map Prod.fst).headD 0) 8)

/-- Bytes of a tile's image once every entry committed has completed, by its issue mode (06 R175); where an MLDA is still to load it,
by the image there (notes/assumptions/79). -/
def State.imageLen (s : State) (core c : Nat) : Nat :=
  match ((s.core core).mq.reverse.find? fun e => e.op.tiles.contains c && (e.op.isMset || e.op.isMlda)).map MxEnt.op with
  | some (.mlda _ _ ps) => s.imageAt ps
  | _ => (((s.core core).tile c).issue.map imageSize).getD 64

/-- A whole image's range checked at issue (06 R191): malformed, alignment, reach, then translation, page by page, each after its walk
(05 R149, R150). -/
def State.imageCheck (s : State) (t : Task) (a n need : Nat) : Except SlotOut (List (Nat × Nat)) :=
  let w := if need / 2 % 2 = 1 then 4 else 0
  match placeN a n, if a % 64 = 0 then (pagesOf a n).findSome? fun x => s.awaitsWalk t x 1 1 else none with
  | none, _ => .error (.fault 0x09 w (some a) 0)
  | some _, some va => .error (.hold (.walk va) [])
  | some _, none =>
    match s.mxPieces t need (n / 4096 + 2) a n with
    | .error (c, d) => .error (.fault c d (some a) 0)
    | .ok ps => .ok ps

/-! ### Slot instructions -/

/-- MSET (06 R176). -/
def execMset (a : BitVec 6) (m : BitVec 8) (s : State) : Outcome State Fault Refusal :=
  let t := s.now
  let w := (t.rs a).toNat
  s.runSlot { sr := [a.toNat], noreg := ((List.range 8).filter fun c => m.toNat / 2 ^ c % 2 == 1).findSome? t.noTile }
    (if modeValid w then s.enqueue (.mset m.toNat w) [] else .fault 0x01 0 none 0)

/-- What an MMA or MMAS comes to. -/
def State.mmaSlot (s : State) (c : BitVec 3) (a b : BitVec 4) (m : Option Nat) (z sub : BitVec 1) : Outcome State Fault Refusal :=
  s.runSlot { noreg := s.now.noTile c.toNat, pend := s.pendOf c.toNat }
    (match s.mmaCheck s.tid c.toNat (z == 1) (sub == 1) a.toNat b.toNat m (s.bun.policy 4) with
      | .error o => o
      | .ok op => .go [.mx op []])

/-- MMA (06 R180). -/
def execMma (c : BitVec 3) (a b : BitVec 4) (z sub : BitVec 1) (s : State) : Outcome State Fault Refusal := s.mmaSlot c a b none z sub
/-- MMAS (06 R180, R181). -/
def execMmas (c : BitVec 3) (a b m : BitVec 4) (z sub : BitVec 1) (s : State) : Outcome State Fault Refusal :=
  s.mmaSlot c a b (some m.toNat) z sub

/-- MRET (06 R186). -/
def execMret (c : BitVec 3) (a d : BitVec 6) (f : BitVec 4) (k : BitVec 1) (s : State) : Outcome State Fault Refusal :=
  let t := s.now
  s.runSlot { sr := [a.toNat], sw := [d.toNat], noreg := t.noTile c.toNat, pend := s.pendOf c.toNat }
    (match ((s.core t.core).tile c.toNat).issue with
      | none => .fault 0x01 0 none 0
      | some w => if fmtFor (mAcc w) f.toNat then s.enqueue (.mret c.toNat (t.rs a).toNat f.toNat (k == 1)) [dstS d]
                  else .fault 0x01 0 none 0)

/-- MRETV: its group is sized by the tile's issue mode (06 R188). -/
def execMretv (c : BitVec 3) (v d : BitVec 6) (f : BitVec 4) (k : BitVec 1) (s : State) : Outcome State Fault Refusal :=
  let t := s.now
  let i := ((s.core t.core).tile c.toNat).issue
  let n := match i with
    | some w => mRows w
    | none => 16
  let g := (List.range n).map (· + v.toNat)
  s.runSlot { sw := [d.toNat], vw := g, noreg := t.noTile c.toNat, pend := s.pendOf c.toNat }
    (match i with
      | none => .fault 0x01 0 none 0
      | some w => if fmtFor (mAcc w) f.toNat then s.enqueue (.mretv c.toNat f.toNat (k == 1)) (dstS d :: g.map fun n => .v (t.rotate n))
                  else .fault 0x01 0 none 0)

/-- MZERO (06 R189). -/
def execMzero (c : BitVec 3) (s : State) : Outcome State Fault Refusal :=
  s.runSlot { noreg := s.now.noTile c.toNat } (s.enqueue (.mzero c.toNat) [])

/-- MDRAIN: it needs a place in the queue like every entry (06 R174), and is complete as soon as it commits, since every earlier entry
of its task is (06 R190). -/
def execMdrain (s : State) : Outcome State Fault Refusal := s.runSlot {} (s.orHold (.mqueue 1) (s.orHold .mxDone (.go [])))

/-- MLDA: its range is checked at issue for the image that stands there then (06 R191; notes/assumptions/79). -/
def execMlda (c : BitVec 3) (a : BitVec 6) (s : State) : Outcome State Fault Refusal :=
  let t := s.now
  let x := (t.rs a).toNat
  s.runSlot { sr := [a.toNat], noreg := t.noTile c.toNat }
    (match s.imageCheck t x 64 1 with
      | .error o => o
      | .ok h =>
        match s.imageCheck t x (s.imageAt h) 1 with
        | .error o => o
        | .ok ps => s.enqueue (.mlda c.toNat x ps) [])

/-- MSTA: its range is checked at issue for the image that it will store (06 R191). -/
def execMsta (c : BitVec 3) (a : BitVec 6) (s : State) : Outcome State Fault Refusal :=
  let t := s.now
  let x := (t.rs a).toNat
  s.runSlot { sr := [a.toNat], noreg := t.noTile c.toNat }
    (match s.imageCheck t x (s.imageLen t.core c.toNat) 2 with
      | .error o => o
      | .ok ps => s.enqueue (.msta c.toNat x ps) [])

/-- RFWD: an integer's residues in every channel (06 R192). -/
def execRfwd (d a : BitVec 7) (s : State) : Outcome State Fault Refusal :=
  let t := s.now
  let x := (elem (t.rv a.toNat) 0).toInt
  s.runSlot { ports := 1, vr := [a.toNat], vw := [d.toNat] }
    (.go [resV t d.toNat 4 (BitVec.ofNat 512 ((List.range 21).foldr (fun j n => residue x j + 256 * n) 0)) 0xFFFF])

/-- The value of one element of an I64 tile, checked; an element that fails reads as 0x8000_0000_0000_0000 (06 R194). -/
def Core.checkedElem (k : Core) (w c e : Nat) : Nat :=
  let l := rowLane w (e / 16)
  let (chs, nq) := inService k.outmask l
  if laneState k.outmask l = 3 then 2 ^ 63
  else match checkLane (laneRes (tabGet (k.tile c).data 0 e) l) chs nq (half l) with
    | .ok v => intBits 64 v
    | .corrected _ v => intBits 64 v
    | _ => 2 ^ 63

/-- RREV: eight elements of an I64 tile (06 R194). -/
def execRrev (d : BitVec 7) (h : BitVec 1) (r : BitVec 6) (c : BitVec 3) (s : State) : Outcome State Fault Refusal :=
  let t := s.now
  let k := s.core t.core
  s.runSlot { vw := [d.toNat], noreg := t.noTile c.toNat, pend := s.pendOf c.toNat }
    (match (k.tile c.toNat).issue with
      | none => .fault 0x01 0 none 0
      | some w =>
        if mAcc w ≠ 0 ∨ 48 ≤ r.toNat then .fault 0x01 0 none 0
        else s.orHold (.tile c.toNat)
          (.go [resV t d.toNat 8 (fromElems fun e => BitVec.ofNat 64 (k.checkedElem w c.toNat (16 * r.toNat + 8 * h.toNat + e))) 0xFFFF]))

/-- RCHK's result on residues (06 R193): elements 0-2 the value, element 3 code and channel. -/
def rchk (l : Nat) (v : Nat) : VReg :=
  let r (j : Nat) : Nat := v / 2 ^ (8 * j) % 256
  let c := if (laneChans l).any fun j => decide (Config.modulus j ≤ r j) then Check.unlocated
           else checkLane r (inService 0 l).1 (inService 0 l).2 (half l)
  let out (x : Int) (code ch : Nat) : VReg := BitVec.ofNat 512 (intBits 192 x + (code + 256 * ch) * 2 ^ 192)
  match c with
  | .ok x => out x 0 0
  | .corrected i x => out x 1 i
  | .unlocated => out 0 2 0
  | .overflow => out 0 3 0

/-- RCHK (06 R193). -/
def execRchk (d a : BitVec 7) (l : BitVec 2) (s : State) : Outcome State Fault Refusal :=
  let t := s.now
  s.runSlot { ports := 1, vr := [a.toNat], vw := [d.toNat] } (.go [resV t d.toNat 8 (rchk l.toNat (t.rv a.toNat).toNat) 0xFFFF])

/-- MCHAN scrub (06 R197). -/
def execMchanScrub (s : State) : Outcome State Fault Refusal := s.runSlot {} (s.enqueue (.mchan 0 0) [])
/-- MCHAN thresh (06 R197). -/
def execMchanThresh (a : BitVec 6) (s : State) : Outcome State Fault Refusal :=
  let v := (s.now.rs a).toNat
  s.runSlot { sr := [a.toNat], priv := !s.privileged s.now } (if 2 ^ 16 ≤ v then .fault 0x01 0 none 0 else s.enqueue (.mchan 1 v) [])
/-- MCHAN clear (06 R197). -/
def execMchanClear (a : BitVec 6) (s : State) : Outcome State Fault Refusal :=
  s.runSlot { sr := [a.toNat], priv := !s.privileged s.now } (s.enqueue (.mchan 2 ((s.now.rs a).toNat % 2 ^ 22)) [])
/-- MCHAN fail: the slice stands in the word (06 R197). -/
def execMchanFail (_a : BitVec 6) (sl : BitVec 5) (s : State) : Outcome State Fault Refusal :=
  s.runSlot { priv := !s.privileged s.now } (s.enqueue (.mchan 3 sl.toNat) [])
/-- MINJ (06 R199). -/
def execMinj (a : BitVec 6) (w : BitVec 1) (c : BitVec 3) (h : BitVec 5) (s : State) : Outcome State Fault Refusal :=
  let t := s.now
  s.runSlot { sr := [a.toNat], noreg := t.noTile c.toNat, priv := !s.privileged t }
    (s.enqueue (.minj c.toNat h.toNat ((t.rs a).toNat % 256) w.toNat) [])

/-! ### Entries that execute -/

/-- Rows of the image that an MLDA is to read, by the mode word that memory holds (06 R191). -/
def State.imageRows (s : State) : MxOp → Nat
  | .mlda _ _ ps => (s.imageAt ps - 64) / 128
  | _ => 0

/-- The oldest queue entry of a kind that may be taken on a core, and whose time has come (06 R174, R200). -/
def State.mxNext (s : State) (core : Nat) (f : MxOp → Bool) : Option MxEnt :=
  let k := s.core core
  k.mq.find? fun e => f e.op && k.mxMayStart e && k.mxTimed s.cycle (s.imageRows e.op) e

/-- A step of the matrix engine on the core of the step's operands: nothing happens when no such entry may be taken. -/
def State.mxStep (s : State) (f : MxOp → Bool) (g : Nat → MxEnt → State) : Outcome State Fault Refusal :=
  match s.mxNext s.arg.unit f with
  | some e => .next (g s.arg.unit e).settle
  | none => .next s

/-- MSET_EXECUTE: every named tile takes the mode and is zeroed (06 R176). -/
def State.msetRun (s : State) (core : Nat) (e : MxEnt) : State :=
  match e.op with
  | .mset _ mode =>
    s.putCore core (((e.op.tiles).foldl (fun (k : Core) c =>
      k.putTile c { (k.tile c).zero with mode := some mode }) (s.core core)).mxDrop e s.cycle)
  | _ => s

/-- MSET_EXECUTE (06 R176). -/
def execMsetExecute (s : State) : Outcome State Fault Refusal := s.mxStep MxOp.isMset s.msetRun

/-- KSTEP_START (06 R180, R200). -/
def execKstepStart (s : State) : Outcome State Fault Refusal :=
  s.mxStep MxOp.isMma fun core e => match e.op with
    | .mma _ _ _ ha hb hm _ => s.kstepStart core e ha hb hm
    | _ => s

/-- A started K-step that may take effect on a core, 12 cycles after it has left the array (06 R174, R200). -/
def State.mergeNext (s : State) (core : Nat) : Option MxEnt :=
  let k := s.core core
  k.mq.find? fun e => e.op.isMma && k.mxMayMerge e && decide (e.due ≤ s.cycle)

/-- KSTEP_MERGE (06 R184). -/
def execKstepMerge (s : State) : Outcome State Fault Refusal :=
  match s.mergeNext s.arg.unit with
  | some e => .next (s.kstepMerge s.arg.unit e).settle
  | none => .next s

/-- MZERO_EXECUTE (06 R189). -/
def execMzeroExecute (s : State) : Outcome State Fault Refusal :=
  s.mxStep MxOp.isMzero fun core e => match e.op with
    | .mzero c => s.putCore core (((s.core core).putTile c ((s.core core).tile c).zero).mxDrop e s.cycle)
    | _ => s

/-- MINJ_EXECUTE: a pending injection is recorded on the tile (06 R199). -/
def execMinjExecute (s : State) : Outcome State Fault Refusal :=
  s.mxStep MxOp.isMinj fun core e => match e.op with
    | .minj c ch d w => s.putCore core (((s.core core).putTile c { (s.core core).tile c with inj := some (ch, d, w) }).mxDrop e s.cycle)
    | _ => s

/-- The record of a slice that a SCRUB finds in error: class SLICE-SCRUB, TASKID 0, the slice as the slot and again where R198 has it
(06 R198; 13 R404, R405; notes/assumptions/81). -/
def State.scrubError (s : State) (core sl : Nat) : State :=
  match s.partOfDie (dieOf core) with
  | none => s
  | some p =>
    s.error { part := p, cls := 0x1B, src := 1, core := core, tail := natLe 8 sl ++ natLe 1 sl ++ natLe 1 (((s.core core).serves sl).getD 0) ++ natLe 2 (tabGet (s.core core).slcount 0 sl) }

/-- MCHAN's function on a core (06 R196, R197). Slices that a SCRUB finds in error come with the step (num, bit j for slice j). -/
def State.mchanRun (s : State) (core fn arg errs : Nat) : State :=
  let serving (sl : Nat) : Bool := ((s.core core).serves sl).isSome
  match fn with
  | 0 => (List.range 22).foldl (fun (s : State) sl =>
      if errs / 2 ^ sl % 2 = 1 ∧ serving sl = true then ((s.countSlice core sl).scrubError core sl).markAt core sl 0 else s) s
  | 1 => (List.range 22).foldl (fun (s : State) sl =>
      if serving sl && arg != 0 && decide (arg ≤ tabGet (s.core core).slcount 0 sl) then s.markSlice core sl 0 else s)
      (s.putCore core { s.core core with thresh := arg })
  | 2 => s.putCore core { s.core core with slcount := (s.core core).slcount.filter fun x => arg / 2 ^ x.1 % 2 == 0 }
  | _ => s.markSlice core arg 0

/-- MCHAN_EXECUTE (06 R197). -/
def execMchanExecute (s : State) : Outcome State Fault Refusal :=
  s.mxStep MxOp.isMchan fun core e => match e.op with
    | .mchan fn a => (s.putCore core ((s.core core).mxDrop e s.cycle)).mchanRun core fn a s.arg.num
    | _ => s

/-- Bytes written at consecutive pieces under a clock by an engine of a cluster (06 R186, R191; 11 R334, R340). -/
def State.clusterWrites (s : State) (cluster clk : Nat) (bs : List Byte) : List (Nat × Nat) → Nat × State
  | [] => (clk, s)
  | p :: r =>
    let (c, s1) := s.clusterWrite cluster clk p.1 (bs.take p.2)
    s1.clusterWrites cluster c (bs.drop p.2) r

/-- A matrix access has ended under a clock (11 R341). -/
def Task.mxClock (t : Task) (clk : Nat) : Task := { t with clks := tabPut t.clks 2 (max (tabGet t.clks 0 2) clk) }

/-- The first `n` bytes of consecutive pieces. -/
def takePieces : Nat → List (Nat × Nat) → List (Nat × Nat)
  | _, [] => []
  | n, p :: r => if n = 0 then [] else (p.1, min n p.2) :: takePieces (n - min n p.2) r

/-- The pieces of an image's `n` bytes: those checked at issue, and where the image has grown since, what translates now. -/
def State.imagePieces (s : State) (t : Task) (a n need : Nat) (ps : List (Nat × Nat)) : List (Nat × Nat) :=
  if n ≤ ps.foldl (fun x p => x + p.2) 0 then takePieces n ps
  else match s.mxPieces t need (n / 4096 + 2) a n with
    | .ok all => all
    | .error _ => ps

/-- MLDA_EXECUTE: the header is read first, then the body its mode word asks for, and the image becomes the tile's state (06 R191). A
later MSET that has committed keeps the issue mode (06 R175). -/
def State.mldaRun (s : State) (core : Nat) (e : MxEnt) : State :=
  match e.op with
  | .mlda c a ps0 =>
    let cl := clusterOf core
    let (clk1, head, s0) := s.loadAll cl e.clk (takePieces 64 ps0)
    let noHead := (takePieces 64 ps0).any fun p => s.badAt p.1 p.2
    let n := if noHead then 64 else imageSize (leNat (head.take 8))
    let lines := (s.imagePieces (s.task e.tid) a n 1 ps0).foldr (fun (p : Nat × Nat) acc => splitLines p.1 p.2 (p.2 / 64 + 2) ++ acc) []
    let (clk, body, s1) := s0.loadAll cl clk1 (lines.drop 1)
    let bad := lines.findIdx? fun p => s.badAt p.1 p.2
    let bs := if noHead then [] else head ++ body
    let k := s1.core core
    let (t1, ok) := loadImage (k.tile c) bs bad.isSome
    let later := (k.mq.dropWhile fun x => x.id != e.id).any fun x => x.op.isMset && x.op.tiles.contains c
    let t2 := if later then { t1 with issue := (k.tile c).issue } else t1
    let s2 := (s1.putCore core ((k.putTile c t2).mxDrop e s.cycle)).putTask e.tid ((s1.task e.tid).mxClock clk)
    match bad with
    | some i => s2.taskError e.tid 0x08 2 (natLe 8 (a + 64 * i))
    | none => if ok then s2 else s2.taskError e.tid 0x1E 1 (natLe 8 a)
  | _ => s

/-- MLDA_EXECUTE (06 R191). -/
def execMldaExecute (s : State) : Outcome State Fault Refusal := s.mxStep MxOp.isMlda s.mldaRun

/-- MSTA_EXECUTE: the tile's image is written (06 R191). -/
def State.mstaRun (s : State) (core : Nat) (e : MxEnt) : State :=
  match e.op with
  | .msta c a ps =>
    let k := s.core core
    let bs := (k.tile c).image
    let (clk, s1) := (s.putCore core (k.mxDrop e s.cycle)).clusterWrites (clusterOf core) e.clk bs
      (s.imagePieces (s.task e.tid) a bs.length 2 ps)
    (s1.putTask e.tid ((s1.task e.tid).mxClock clk)).addDigest e.tid a bs
  | _ => s

/-- MSTA_EXECUTE (06 R191). -/
def execMstaExecute (s : State) : Outcome State Fault Refusal := s.mxStep MxOp.isMsta s.mstaRun

/-- The address steps of a retirement (06 R186): the pieces of its destination, or a status code. -/
def State.retireDest (s : State) (t : Task) (d n : Nat) : Except Nat (List (Nat × Nat)) :=
  let pieces (_ : Unit) : Except Nat (List (Nat × Nat)) :=
    match s.mxPieces t 2 (n / 4096 + 2) d n with
    | .ok ps => .ok ps
    | .error _ => .error 0x11
  match placeN d n with
  | some (.spad c off) => if !s.reachN t.rkey c off n then .error 0x10 else if d % 64 ≠ 0 then .error 0x12 else pieces ()
  | some (.global _) => if d % 64 ≠ 0 then .error 0x12 else pieces ()
  | _ => .error 0x10

/-- The bytes of the rows a retirement writes. -/
def rowBytes (fmt : Nat) (rows : List (Nat × List Nat)) : List Byte :=
  rows.foldr (fun (r : Nat × List Nat) acc => r.2.foldr (fun v acc => natLe (outSize fmt) v ++ acc) acc) []

/-- The rows as vector registers: element n in lane n (06 R188). -/
def rowLanes (rows : List (Nat × List Nat)) : List VReg :=
  rows.map fun r => fromLanes fun n => BitVec.ofNat 32 (r.2.getD n 0)

/-- A status on its way to its register, with what comes with it. -/
def State.mretDone (s : State) (e : MxEnt) (vals : List VReg) (clk : Nat) : State :=
  s.putTask e.tid (((s.task e.tid).setWait e.tok (.ready vals)).mxClock clk)

/-- A status word as a register's value. -/
def statusReg (n : Nat) : VReg := BitVec.ofNat 512 n

/-- The check of a retirement meets an injection (06 R199). -/
def Tile.injects (t : Tile) (outmask : Nat) : Bool := t.struck || (t.strike 1 outmask).isSome

/-- A retirement's tile, its check event and the removal of its entry (06 R186, R196). -/
def State.retireTake (s : State) (core : Nat) (e : MxEnt) (c : Nat) (t : Tile) (ev : CheckSum) : State :=
  let k := s.core core
  (s.putCore core ((k.putTile c t).mxDrop e s.cycle)).checkEvent core c e.tid ev true ((k.tile c).injects k.outmask)

/-- An MRET executes (06 R186). A write path that fails uncorrectably comes with the step (flag, its row in num): the tile is kept
as its checks leave it, the rows from there on hold free values, and the status holds its code and zeros (notes/assumptions/82). -/
def State.mretRun (s : State) (core : Nat) (e : MxEnt) (c d fmt : Nat) (keep : Bool) : State :=
  let k := s.core core
  let t := k.tile c
  let task := s.task e.tid
  let w := t.mode.getD 0
  match s.retireDest task d (16 * outSize fmt * mRows w) with
  | .error code =>
    let s1 := if code = 0x11 then s.rangeFormat e.tid d (16 * outSize fmt * mRows w) else s
    (s1.putCore core (k.mxDrop e s.cycle)).mretDone e [statusReg code] e.clk
  | .ok ps =>
    let r := retireTile w k.outmask t fmt keep
    let bs := rowBytes fmt r.rows
    if s.arg.flag && !r.rows.isEmpty then
      let cut := 16 * outSize fmt * (s.arg.num % mRows w)
      let free := (List.range (bs.length - cut)).map fun i => Config.freeByte (s.free + i)
      let out := bs.take cut ++ free
      let (clk, s1) := ({ s with free := s.free + free.length }.retireTake core e c r.seen r.ev).clusterWrites (clusterOf core) e.clk out ps
      (s1.mretDone e [statusReg 0x13] clk).addDigest e.tid d out
    else
      let s1 := s.retireTake core e c r.tile r.ev
      let (clk, s2) := s1.clusterWrites (clusterOf core) e.clk bs (if r.rows.isEmpty then [] else ps)
      (s2.mretDone e [statusReg r.word] clk).addDigest e.tid d bs

/-- An MRETV executes (06 R188). -/
def State.mretvRun (s : State) (core : Nat) (e : MxEnt) (c fmt : Nat) (keep : Bool) : State :=
  let k := s.core core
  let w := (k.tile c).mode.getD 0
  let r := retireTile w k.outmask (k.tile c) fmt keep
  let rows := if r.rows.isEmpty then List.replicate (mRows w) 0 else rowLanes r.rows
  (s.retireTake core e c r.tile r.ev).mretDone e (statusReg r.word :: rows) e.clk

/-- The retirement that a core takes next. -/
def State.retireNext (s : State) (core : Nat) : Option MxEnt := s.mxNext core MxOp.isRet

/-- A failed slice that still serves a channel is to be replaced at the end of a retirement (03 R96). -/
def Core.remapDue (k : Core) : Bool := (List.range 22).any fun sl => decide (k.slfail / 2 ^ sl % 2 = 1) && (k.serves sl).isSome

/-- The end of a retirement: the K-steps in the array complete on the old slices, in their order, and the slices failed before that are
replaced; one that those K-steps mark waits for the next retirement (03 R96, R97; 06 R196; notes/assumptions/124). -/
def State.retireEnd (s : State) (core cd : Nat) : State :=
  let due := (s.core core).slfail
  if (s.core core).remapDue then
    (((s.core core).mq.filter fun e => e.op.isMma && e.phase == 1).foldl (fun s e => s.kstepMerge core e) s).remapSlices core cd due
  else s

/-- RETIREMENT (06 R186, R188), and at its end the remap of failed slices (03 R96, R97). -/
def execRetirement (s : State) : Outcome State Fault Refusal :=
  let core := s.arg.unit
  match s.retireNext core with
  | some e =>
    (match e.op with
      | .mret c d fmt keep => .next ((s.mretRun core e c d fmt keep).retireEnd core c).settle
      | .mretv c fmt keep => .next ((s.mretvRun core e c fmt keep).retireEnd core c).settle
      | _ => .next s)
  | none => .next s

end Sys2Proof.Machine
end

