-- ==== Sys2Proof/Machine/SchedSteps.lean ====
section
/-! DEFINITION. The die scheduler's steps (07 R207-R223; 09 R268-R287; 13 R409) and the fault service's (11 R349-R351).
Operands stand in `State.arg` (notes/assumptions/2). -/

namespace Sys2Proof.Machine

open Host (Outcome)

/-! ### Traps (07 R207; 09 R281) -/

/-- A trapped task waits for its action; those whose traps go to one table have it in the order in which they were taken (09 R281). -/
def State.actionDue (s : State) (tid : Nat) : Bool :=
  let owner (t : Task) : Nat := (s.region t.rkey).actOwner
  (tabFind s.tasks tid).isSome && (s.task tid).status == .trapped &&
  !s.tasks.any fun x => x.2.status == .trapped && owner x.2 == owner (s.task tid) && decide (x.2.trapAt < (s.task tid).trapAt)

/-- TRAP_ACTION (09 R281): task `unit`. -/
def execTrapAction (s : State) : Outcome State Fault Refusal := s.stepIf (s.actionDue s.arg.unit) (s.trapAction s.arg.unit)

/-- A task under REPLAY may go on. -/
def State.resumeDue (s : State) (tid : Nat) : Bool := (tabFind s.tasks tid).isSome && s.replayReady tid s.sumpRoom s.grouped s.neverGrouped

/-- REPLAY_RESUME (07 R207; 09 R281): task `unit`. -/
def execReplayResume (s : State) : Outcome State Fault Refusal := s.stepIf (s.resumeDue s.arg.unit) (s.replayResume s.arg.unit s.neverGrouped)

/-- FORWARD_DELIVERY (09 R281): region `unit`. -/
def execForwardDelivery (s : State) : Outcome State Fault Refusal := s.stepIf (s.canForward s.arg.unit) (s.forward s.arg.unit)

/-! ### Pre-emption (07 R214-R219) -/

/-- PREEMPT_REQUEST (07 R214, R215): task `unit`. -/
def execPreemptRequest (s : State) : Outcome State Fault Refusal :=
  s.stepIf ((tabFind s.tasks s.arg.unit).isSome && (s.task s.arg.unit).resident) (s.requestPreempt s.arg.unit)

/-- A task that can be stopped at a bundle boundary: its trap, if any, has had its action, and no forced invalidation holds it
(07 R218; 11 R357). -/
def Task.canFreeze (t : Task) : Bool :=
  match t.status with
  | .trapped => false
  | .forced => false
  | .frozen => false
  | .saved => false
  | _ => true

/-- A requested freeze can be made: on time, at step count 0, or late, past the deadline (07 R214, R215). -/
def State.freezeReady (s : State) (tid : Nat) (late : Bool) : Bool :=
  let t := s.task tid
  (tabFind s.tasks tid).isSome && t.canFreeze &&
  match t.preempt with
  | some d => if late then t.steps != 0 && decide (d ≤ s.cycle) else t.steps == 0
  | none => false

/-- FREEZE (07 R214, R216): task `unit`. -/
def execFreeze (s : State) : Outcome State Fault Refusal := s.stepIf (s.freezeReady s.arg.unit false) (s.freezeTask s.arg.unit false)

/-- LATE_FREEZE (07 R215): task `unit`. -/
def execLateFreeze (s : State) : Outcome State Fault Refusal := s.stepIf (s.freezeReady s.arg.unit true) (s.freezeTask s.arg.unit true)

/-- A frozen task's engines have stopped, and it is to be killed or a save area is free. -/
def State.saveReady (s : State) (tid : Nat) : Bool :=
  let t := s.task tid
  (tabFind s.tasks tid).isSome && t.status == .frozen && s.drained tid && (t.doomed || (s.freeArea t.rkey).isSome)

/-- The frozen task saved; where a KILL came during its freeze, its save area is then discarded (09 R295). -/
def State.saveStep (s : State) (tid : Nat) : State :=
  let t := s.task tid
  let s1 := match s.freeArea t.rkey with
    | some a => s.saveTask tid a
    | none => s
  if t.doomed then s1.killTask tid 0 else s1

/-- TASK_SAVE (07 R216, R219): task `unit`. -/
def execTaskSave (s : State) : Outcome State Fault Refusal := s.stepIf (s.saveReady s.arg.unit) (s.saveStep s.arg.unit)

/-! ### Placement (09 R269-R277) -/

/-- The waiting task that a die places next, when it is a saved one. -/
def State.nextRestore (s : State) (die : Nat) : Option (Nat × Nat) :=
  match s.nextPlace die with
  | some w => match w.src, w.at_ with
    | .saved tid, [c] => some (tid, c)
    | _, _ => none
  | none => none

/-- TASK_RESTORE (07 R221-R223): die `unit`. -/
def execTaskRestore (s : State) : Outcome State Fault Refusal :=
  match s.nextRestore s.arg.unit with
  | some (tid, c) =>
    .next ((s.turnTaken s.arg.unit (s.task tid).rkey).installSaved tid c).settle
  | none => .next s

/-- The waiting record that a die places next. -/
def State.nextRecord (s : State) (die : Nat) : Option Waiting :=
  (s.nextPlace die).filter fun w => match w.src with
    | .saved _ => false
    | _ => true

/-- A placement, or the priority pre-emption for a task that no core can take (09 R270, R272). -/
def State.placeStep (s : State) (die : Nat) : Option State :=
  match s.nextPlace die with
  | some _ => (s.nextRecord die).map fun w => s.placeRec die w
  | none => (s.priorityVictims die).map fun vs => vs.foldl State.requestPreempt s

/-- TASK_PLACEMENT (09 R270-R276): die `unit`. -/
def execTaskPlacement (s : State) : Outcome State Fault Refusal :=
  match s.placeStep s.arg.unit with
  | some t => .next t.settle
  | none => .next s

/-- QUANTUM_EXPIRY (09 R273): die `unit`. -/
def execQuantumExpiry (s : State) : Outcome State Fault Refusal :=
  match s.quantumVictims s.arg.unit with
  | some vs => .next (vs.foldl State.requestPreempt s).settle
  | none => .next s

/-- JOIN_RELIEF (09 R277): die `unit`. -/
def execJoinRelief (s : State) : Outcome State Fault Refusal :=
  match s.reliefVictims s.arg.unit with
  | some vs => .next (vs.foldl State.requestPreempt s).settle
  | none => .next s

/-- TILE_REFILL (09 R286): core `unit`, region `sub`. -/
def execTileRefill (s : State) : Outcome State Fault Refusal :=
  s.stepIf (s.wantsRefill s.arg.unit s.arg.sub) (s.tileRefill s.arg.unit s.arg.sub)

/-- REDUN_COMPARE (13 R409): the redundant task `unit`. -/
def execRedunCompare (s : State) : Outcome State Fault Refusal := s.stepIf (s.canCompare s.arg.unit) (s.redunCompare s.arg.unit)

/-! ### The fault service (11 R349-R351) -/

/-- FAULT_SLOT_OPEN (11 R349): die `unit`. -/
def execFaultSlotOpen (s : State) : Outcome State Fault Refusal := s.stepIf (s.canOpen s.arg.unit) (s.slotOpen s.arg.unit)

/-- FAULT_DISPOSITION (11 R351): die `unit`, slot `sub`, whose disposition byte has been stored. -/
def execFaultDisposition (s : State) : Outcome State Fault Refusal :=
  s.stepIf (s.disposition s.arg.unit s.arg.sub != 0 || s.slotUnread s.arg.unit s.arg.sub) (s.slotClose s.arg.unit s.arg.sub)

end Sys2Proof.Machine
end

