-- ==== Sys2Proof/Machine/Auto.lean ====
section
/-! DEFINITION. The steps that the machine's own engines can take now, each with its operands, and whose turn it is
(notes/assumptions/4). Steps that bring something from outside (the host, other packages, errors, limits), and the choices that
the spec leaves to an implementation without any cause (a walk, an eviction, a pre-emption request), are not among them: they
come by the agenda. -/

namespace Sys2Proof.Machine

open Host (Outcome)

/-- A step with its operands. -/
abbrev Timed := Instr × StepArgs

/-- One step, if it can happen. -/
def offerStep (can : Bool) (i : Instr) (a : StepArgs) : List Timed := if can then [(i, a)] else []

/-- The steps over a list of units. -/
def offerEach {α : Type} (l : List α) (f : α → List Timed) : List Timed := l.foldr (fun x acc => f x ++ acc) []

/-- Steps of a task. -/
def State.taskSteps (s : State) (tid : Nat) : List Timed :=
  let t := s.task tid
  let a : StepArgs := { unit := tid }
  offerStep (s.lsCanSend tid) .lsAccessSend a ++
  offerEach t.prods (fun p => offerStep (s.arrival tid p []).isSome .resultArrival { a with num := p.tok } ++
    offerStep (s.watchOver tid p).isSome .watchTimeout { a with num := p.tok }) ++
  offerStep (t.resident && t.replayDue) .replayEntryInject a ++
  offerStep (s.actionDue tid) .trapAction a ++
  offerStep (s.resumeDue tid) .replayResume a ++
  offerStep (s.freezeReady tid false) .freeze a ++
  offerStep (s.freezeReady tid true) .lateFreeze a ++
  offerStep (s.saveReady tid) .taskSave a ++
  offerStep (s.taskTickDue tid) .taskClockTick a ++
  offerStep ((s.ropOf tid).any fun o => s.silent o.pkg o.since) .remoteUnreachable a ++
  offerStep (t.run != 0 && s.canCompare t.twin) .redunCompare { unit := t.twin }

/-- Steps of a core's copy channel. -/
def State.chanSteps (s : State) (core q : Nat) : List Timed :=
  let a : StepArgs := { unit := core, sub := q }
  let targets := match ((s.core core).chan q).cmd with
    | some c => if c.multicast then c.targets else [0]
    | none => []
  offerStep (s.recordDue core q) .copyRecordRead a ++
  offerStep (s.selectReady core q) .selectTileRead a ++
  offerEach targets (fun x => offerStep (s.copyCanWrite core q x) .copySectorWrite { a with num := x }) ++
  offerStep (s.resolveDue core q) .copyFaultResolved a ++
  offerStep (s.followDue core q).isSome .followOnPresent a ++
  offerStep ((s.core core).chan q).canComplete .copyCompletion a

/-- Steps of a core's matrix queue. -/
def State.matrixSteps (s : State) (core : Nat) : List Timed :=
  let a : StepArgs := { unit := core }
  if (s.core core).mq.isEmpty then []
  else
    offerStep (s.mxNext core MxOp.isMset).isSome .msetExecute a ++
    offerStep (s.mxNext core MxOp.isMma).isSome .kstepStart a ++
    offerStep (s.mergeNext core).isSome .kstepMerge a ++
    offerStep (s.retireNext core).isSome .retirement a ++
    offerStep (s.mxNext core MxOp.isMzero).isSome .mzeroExecute a ++
    offerStep (s.mxNext core MxOp.isMlda).isSome .mldaExecute a ++
    offerStep (s.mxNext core MxOp.isMsta).isSome .mstaExecute a ++
    offerStep (s.mxNext core MxOp.isMchan).isSome .mchanExecute a ++
    offerStep (s.mxNext core MxOp.isMinj).isSome .minjExecute a

/-- Steps of a core. -/
def State.coreSteps (s : State) (core : Nat) : List Timed :=
  let k := s.core core
  let a : StepArgs := { unit := core }
  offerStep (s.suspendDue core) .holdSuspend a ++
  offerEach k.tasks (fun t => match (s.task t).hold with
    | some (.walk va) => offerStep (s.misses (s.task t) va) .pageWalk { a with addr := va }
    | _ => []) ++
  offerEach k.alcoves (fun (x : Nat × Alcove) => offerStep (s.ofillReady core x.1) .ofillRow { a with sub := x.1 }) ++
  s.matrixSteps core ++
  offerEach k.chans (fun (x : Nat × Chan) => s.chanSteps core x.1) ++
  offerEach (nodups (k.tasks.map fun t => (s.task t).rkey)) (fun r => offerStep (s.wantsRefill core r) .tileRefill { a with sub := r })

/-- Some task waits for a core of a die. -/
def State.someWaits (s : State) (die : Nat) : Bool :=
  !(s.die die).ready.isEmpty || (s.cores.any fun (x : Nat × Core) => !x.2.deque.isEmpty) ||
  (s.regions.any fun (x : Nat × Region) => !x.2.oflow.isEmpty || x.2.lhold.isSome) || (s.tasks.any fun (x : Nat × Task) => x.2.status == .saved)

/-- TASK_PLACEMENT can happen: a waiting record, or tasks to pre-empt for one (`placeStep`). -/
def State.placeDue (s : State) (die : Nat) : Bool :=
  match s.nextPlace die with
  | some _ => (s.nextRecord die).isSome
  | none => (s.priorityVictims die).isSome

/-- Steps of a die's scheduler and sump engine. -/
def State.dieSteps (s : State) (die : Nat) : List Timed :=
  let a : StepArgs := { unit := die }
  (if s.someWaits die then
    offerStep (s.nextRestore die).isSome .taskRestore a ++ offerStep (s.placeDue die) .taskPlacement a ++
    offerStep (s.quantumVictims die).isSome .quantumExpiry a ++ offerStep (s.reliefVictims die).isSome .joinRelief a
   else []) ++
  offerStep (s.canOpen die) .faultSlotOpen a ++
  offerEach (s.die die).slots (fun (x : Nat × FSlot) => offerStep (s.disposition die x.1 != 0) .faultDisposition { a with sub := x.1 }) ++
  offerStep (!(s.die die).xprefs.isEmpty) .xprefUnit a ++
  offerStep (!(s.die die).enq.isEmpty) .sumpAdmit a ++
  offerStep (s.decisionDue die) .firingDecision a

/-- Steps of a tree. -/
def State.treeSteps (s : State) (key : Nat) : List Timed :=
  let t := s.tree key
  let a : StepArgs := { addr := key }
  offerEach (List.range t.posts.length) (fun i => offerStep (t.canRead i) .treeSourceRead { a with num := i }) ++
  offerEach (List.range t.up.length) (fun i => offerStep (s.canArrive key i) .treeChunkArrive { a with num := i }) ++
  offerEach ((s.refills.filter fun x => x.1 == key).map Prod.snd) (fun n => offerStep (s.refillNext key n) .treeSlotRefill { a with num := n }) ++
  offerEach (List.range t.down.length) (fun i => offerStep (s.canReplicate key i (2 ^ 64 - 1)) .treeReplicate { a with num := i, aux := 2 ^ 64 - 1 }) ++
  offerEach (nodups (t.delivs.map Deliv.core)) (fun c => offerStep (s.canDeliver key c).isSome .treeDelivery { a with num := c })

/-- Steps of a scheduled send queue. -/
def State.queueSteps (s : State) (n : Nat) : List Timed :=
  let a : StepArgs := { unit := n }
  offerStep (s.canSendFlit n) .sendFlit a ++
  offerStep ((s.sendAt n 0).any Send.noteDue) .snoteAdd a ++
  offerStep (s.sendSilent n) .remoteUnreachable { a with flag := true }

/-- Steps of an optical port. -/
def State.portSteps (s : State) (j : Nat) : List Timed :=
  let p := s.port j
  let a : StepArgs := { unit := j }
  offerEach (List.range 9) (fun w =>
    let b : StepArgs := { a with sub := w }
    offerStep (s.canTrigger j w) .retrainTrigger b ++ offerStep (s.adapted j w) .retrainAdaptationEnd b ++
    offerStep (s.tested j w) .retrainTestEnd b) ++
  offerStep (s.canSendWaiting j) .sendFlit { a with flag := true } ++
  offerStep (p.reached p.sw) .stripeSwitch a ++
  offerStep p.toWithdraw.isSome .wavelengthWithdraw a ++
  offerStep (p.reached p.hb) .wavelengthHandback a ++
  offerStep (s.windowDue j) .windowClose a

/-- Every step that the machine's own engines can take now. -/
def State.ownSteps (s : State) : List Timed :=
  offerEach s.tasks (fun (x : Nat × Task) => s.taskSteps x.1) ++
  offerEach s.cores (fun (x : Nat × Core) => s.coreSteps x.1) ++
  offerEach (List.range 4) s.dieSteps ++
  offerEach s.regions (fun (x : Nat × Region) => offerStep (s.canForward x.1) .forwardDelivery { unit := x.1 }) ++
  offerEach s.sumps (fun (x : Nat × Sump) => offerStep (s.ageDue x.1) .sumpAgeDue { unit := x.1 }) ++
  offerEach s.trees (fun (x : Nat × Tree) => s.treeSteps x.1) ++
  offerEach s.parts (fun (x : Nat × Part) => offerStep (s.pclkDue x.1) .pclkTick { unit := x.1 } ++ offerStep (s.raiseDue x.1) .pclkRaise { unit := x.1 } ++
    offerStep (x.2.st == 1) .reset { unit := x.1, sub := 1 }) ++
  offerEach s.sendqs (fun (x : Nat × SendQ) => s.queueSteps x.1) ++
  offerEach s.ports (fun (x : Nat × Port) => s.portSteps x.1) ++
  offerStep s.windowOver .wavelengthWindow {} ++
  offerStep s.slotDue .slotBoundary {} ++
  offerStep s.canReinject .transitReinject {} ++
  offerStep s.activationDue .tableActivation {} ++
  offerStep s.boot.busy.isSome .attest { sub := 1 }

/-- The engines' step of this turn: one of those that can happen, each in its turn. -/
def State.nextOwn (s : State) : Option Timed :=
  let l := s.ownSteps
  l[s.turn / 2 % max l.length 1]?

/-- A step that the agenda named is put off until the host's next response (11 R359; notes/assumptions/32). -/
def State.waitsOut (s : State) : State :=
  match s.agenda with
  | x :: r => { s with agenda := r, putOff := s.putOff ++ [x] }
  | [] => s

/-- How a step ends: the producers whose point has come take their values; but a step that would write a line which the host may hold is
put off, a back-invalidation sent, until the host's response has come (11 R359; notes/assumptions/32). -/
def State.conclude (s t : State) : State := if t.recalls.isEmpty then t.captureAll else (s.waitsOut.backInv 0 t.recalls).tick 1

/-- A step's outcome, concluded. -/
def State.concluded (s : State) : Outcome State Fault Refusal → Outcome State Fault Refusal
  | .next t => .next (s.conclude t)
  | x => x

/-- The core whose turn it is: the next busy one after the last. -/
def State.nextCore (s : State) : Option Nat :=
  let busy := (s.cores.map Prod.fst).filter s.coreBusy
  match busy.find? fun c => decide (s.cur < c) with
  | some c => some c
  | none => busy.head?

end Sys2Proof.Machine
end

