-- ==== Sys2Proof/Machine/Control.lean ====
section
/-! DEFINITION. Control transfers, hardware loops, TRAP, END and ERET (04 R117-R126; 01 R25-R27). -/

namespace Sys2Proof.Machine

open Host (Outcome)

/-- A displacement from the transferring bundle's header (04 R117). -/
def State.dispTarget (s : State) (i : BitVec 22) : Nat := (BitVec.ofNat 64 s.bun.pc + imm64 i).toNat

/-- A link value, the word address of the following bundle: usable in the first bundle at the target, which the idle run precedes
(04 R117; 02 R44, R60). -/
def State.linkEffect (s : State) : Effect := resS 63 (1 + s.bun.idle) (BitVec.ofNat 64 s.bun.next)

/-- BR (04 R117, R119). -/
def execBr (p : BitVec 4) (i : BitVec 22) (s : State) : Outcome State Fault Refusal :=
  let pc := s.dispTarget i
  if s.now.bit0 p then s.runSlot { target := some pc } (.go [.jump pc]) else s.runSlot {} (.go [])

/-- BRL: also links s63 when taken (04 R117); s63 is its destination whatever its guard, so EMPTY-WRITE is checked either way
(DESIGN CHOICE, notes/assumptions/89). -/
def execBrl (p : BitVec 4) (i : BitVec 22) (s : State) : Outcome State Fault Refusal :=
  let pc := s.dispTarget i
  if s.now.bit0 p then s.runSlot { sw := [63], target := some pc } (.go [s.linkEffect, .jump pc]) else s.runSlot { sw := [63] } (.go [])

/-- JR (04 R118). -/
def execJr (a : BitVec 6) (p : BitVec 4) (s : State) : Outcome State Fault Refusal :=
  let pc := (s.now.rs a).toNat
  if s.now.bit0 p then s.runSlot { sr := [a.toNat], target := some pc } (.go [.jump pc]) else s.runSlot { sr := [a.toNat] } (.go [])

/-- JRL: reads sa before it writes the link (04 R118; 02 R47); EMPTY-WRITE as in BRL (notes/assumptions/89). -/
def execJrl (a : BitVec 6) (p : BitVec 4) (s : State) : Outcome State Fault Refusal :=
  let pc := (s.now.rs a).toNat
  if s.now.bit0 p then s.runSlot { sr := [a.toNat], sw := [63], target := some pc } (.go [s.linkEffect, .jump pc])
  else s.runSlot { sr := [a.toNat], sw := [63] } (.go [])

/-- What a LOOP or LOOPR comes to: the checks of 04 R121 in their order, then a push, or a skip of the body when the count is zero.
Its BRANCH-TARGET is an execution fault, with the slot's mask bit (DEDUCED, notes/assumptions/86). -/
def State.loopOut (s : State) (a : BitVec 6) (stages : Nat) (rot : Bool) (i : BitVec 16) : SlotOut :=
  let t := s.now
  let last := s.bun.pc + i.toNat
  if t.loops.length = 6 then .fault 0x01 0 none 0
  else match s.fetch t last with
    | .error (c, x) => .fault c 0 (some x) 0
    | .ok ws =>
      if !isHeader ws (last % 16) then .fault 0x04 0 none 0
      else if t.loops.getLast?.any fun l => decide (l.last ≤ last) then .fault 0x01 0 none 0
      else
        let n := (t.rs a).toNat % 2 ^ 32
        if n = 0 then .go [.jump (nextBundle ws last)]
        else .go [.push { first := s.bun.next, last := last, lc := n, li := 0, s := stages, mask := if rot then 1 else 0, rot := rot }]

/-- LOOP (04 R121; 01 R26). -/
def execLoop (a : BitVec 6) (i : BitVec 16) (s : State) : Outcome State Fault Refusal :=
  s.runSlot { sr := [a.toNat] } (s.loopOut a 1 false i)

/-- LOOPR (04 R121; 01 R26). -/
def execLoopr (a : BitVec 6) (st : BitVec 4) (i : BitVec 16) (s : State) : Outcome State Fault Refusal :=
  s.runSlot { sr := [a.toNat] } (s.loopOut a st.toNat true i)

/-- BRTOP: the go bit of a rotating loop's closure (04 R122). -/
def execBrtop (p : BitVec 4) (i : BitVec 22) (s : State) : Outcome State Fault Refusal :=
  s.runSlot {} (match s.now.loops.getLast? with
    | some l => if l.rot && l.last == s.bun.pc then (if s.dispTarget i = l.first then .go [.go (s.now.bit0 p)] else .fault 0x04 0 none 0)
                else .fault 0x01 0 none 0
    | none => .fault 0x01 0 none 0)

/-- LEXIT: pops the top level and branches when taken; with no level it is refused and no transfer (04 R123). -/
def execLexit (p : BitVec 4) (i : BitVec 22) (s : State) : Outcome State Fault Refusal :=
  let pc := s.dispTarget i
  let taken := s.now.bit0 p && !s.now.loops.isEmpty
  s.runSlot { target := if taken then some pc else none }
    (if s.now.loops.isEmpty then .fault 0x01 0 none 0 else .go (if taken then [.lexit pc] else []))

/-- TRAP: the bundle commits, then cause SOFTWARE (04 R124). -/
def execTrap (a : BitVec 6) (i : BitVec 14) (s : State) : Outcome State Fault Refusal :=
  s.runSlot { sr := [a.toNat] } (.go [.trap i.toNat (s.now.rs a)])

/-- END: held until the task's stores, copies and matrix entries are complete (04 R125). -/
def execEndTask (s : State) : Outcome State Fault Refusal := s.runSlot {} (s.orHold .ended (.go [.endTask]))

/-- ERET: disposes of the forwarded trap by s1 and s2 (04 R126; 02 R58). -/
def execEret (s : State) : Outcome State Fault Refusal :=
  let t := s.now
  let d := t.rs 1
  s.runSlot { sr := if d = 2 then [1, 2] else [1], priv := !s.privileged t || t.subject == 0 }
    (if 2 < d.toNat then .fault 0x01 0 none 0 else .go [.eret d (t.rs 2)])

end Sys2Proof.Machine
end

