-- ==== Sys2Proof/Machine/LoadStore.lean ====
section
/-! DEFINITION. The LS slot: loads, stores, the niche, alcoves, the scale queue, atomics and fences (05 R143-R172). -/

namespace Sys2Proof.Machine

open Host (Outcome)

/-! ### Shared forms -/

/-- The task is a run of a redundant task: a fault of 13 R407 where the slot's instruction may not be in one. -/
def Task.unlessRedun (t : Task) (out : SlotOut) : SlotOut := if t.run = 0 then out else .fault 0x01 0 none 0

/-- The effective address of an LM instruction (05 R149; 02 R51). -/
def Task.ea (t : Task) (b : BitVec 6) (i : BitVec 11) (scale : Nat) : Nat :=
  (t.rs b + imm64 i * BitVec.ofNat 64 scale).toNat

/-- The pieces of an access of several lanes; or the fault of the lowest-numbered lane that fails, or the hold of one before it whose
translation misses (05 R149, R150). -/
def State.lsParts (s : State) (t : Task) (need n align : Nat) : List Nat → Except SlotOut (List (Nat × Nat))
  | [] => .ok []
  | a :: r =>
    match s.awaitsWalk t a n align with
    | some va => .error (.hold (.walk va) [])
    | none =>
      match s.daccess t a n align need with
      | .error (c, w) => .error (.fault c w (some a) 0)
      | .ok loc =>
        match s.lsParts t need n align r with
        | .error o => .error o
        | .ok ps => .ok ((loc, n) :: ps)

/-- What a load comes to: wholly in the own scratchpad it is performed at issue, usable from +6; otherwise it joins the LS queue
and its register is empty (05 R145, R156; 11 R337). -/
def State.loadOut (s : State) (as : List Nat) (n align : Nat) (k : LsKind) (d : Dest) : SlotOut :=
  let t := s.now
  match s.lsParts t 1 n align as with
  | .error o => o
  | .ok ps =>
    if as.all fun a => t.own a n then s.orHold .lsq (.go [.local_ k ps [] [d]])
    else s.orHold .lsRoom (.go [.access k as ps [] [d]])

/-- The bytes of a redundant run's store for its digest, piece by piece (13 R408). -/
def hashPieces (n : Nat) : List Nat → List Byte → List Effect
  | [], _ => []
  | a :: r, bs => .hash a (bs.take n) :: hashPieces n r (bs.drop n)

/-- A store waits until the rows that an OFILL of its task has still to read are read (05 R163). -/
def State.orRows (s : State) (ps : List (Nat × Nat)) (out : SlotOut) : SlotOut :=
  match ps.find? fun p => !s.holdClears s.tid (.rows p.1 (p.1 + p.2)) with
  | some p => .hold (.rows p.1 (p.1 + p.2)) []
  | none => out

/-- What a store comes to: its lanes in order, each `n` bytes of `data` (05 R145, R156). -/
def State.storeOut (s : State) (as : List Nat) (n align : Nat) (data : List Byte) : SlotOut :=
  let t := s.now
  match s.lsParts t 2 n align as with
  | .error o => o
  | .ok ps =>
    let hs := if t.run = 0 then [] else hashPieces n as data
    s.orRows ps
      (if as.all fun a => t.own a n then s.orHold .lsq (.go (.local_ .store ps data [] :: hs))
       else s.orHold .lsRoom (.go (.access .store as ps data [] :: hs)))

/-- The addresses of a strided access (05 R154). -/
def Task.strided (t : Task) (b x : BitVec 6) (i : BitVec 7) : List Nat :=
  (List.range 16).map fun l => (t.rs b + imm64 i * 4 + BitVec.ofNat 64 l * t.rs x).toNat

/-- The addresses of an indexed access (05 R155). -/
def Task.gathered (t : Task) (b : BitVec 6) (x sc : Nat) : List Nat :=
  (List.range 16).map fun l => (t.rs b + BitVec.ofNat 64 ((lane (t.rv x) l).toNat * 2 ^ sc)).toNat

/-- The bytes of a vector register. -/
def vecBytes (v : VReg) : List Byte := natLe 64 v.toNat

/-! ### R152-R155 -/

/-- LD (05 R152). -/
def execLd (d b : BitVec 6) (sz : BitVec 2) (i : BitVec 11) (s : State) : Outcome State Fault Refusal :=
  let n := 2 ^ sz.toNat
  s.runSlot { sr := [b.toNat], sw := [d.toNat] } (s.loadOut [s.now.ea b i n] n n (.load true n) (dstS d))
/-- LDZ (05 R152). -/
def execLdz (d b : BitVec 6) (sz : BitVec 2) (i : BitVec 11) (s : State) : Outcome State Fault Refusal :=
  let n := 2 ^ sz.toNat
  s.runSlot { sr := [b.toNat], sw := [d.toNat] } (s.loadOut [s.now.ea b i n] n n (.load false n) (dstS d))
/-- ST (05 R152). -/
def execSt (d b : BitVec 6) (sz : BitVec 2) (i : BitVec 11) (s : State) : Outcome State Fault Refusal :=
  let n := 2 ^ sz.toNat
  s.runSlot { sr := [b.toNat, d.toNat] } (s.storeOut [s.now.ea b i n] n n (natLe n (s.now.rs d).toNat))
/-- VLD: one row (05 R153). -/
def execVld (d : BitVec 7) (b : BitVec 6) (i : BitVec 11) (s : State) : Outcome State Fault Refusal :=
  s.runSlot { sr := [b.toNat], vw := [d.toNat] } (s.loadOut [s.now.ea b i 64] 64 64 .vload (.v (s.now.rotate d.toNat)))
/-- VST: one row (05 R153). -/
def execVst (d : BitVec 7) (b : BitVec 6) (i : BitVec 11) (s : State) : Outcome State Fault Refusal :=
  s.runSlot { ports := 1, sr := [b.toNat], vr := [d.toNat] } (s.storeOut [s.now.ea b i 64] 64 64 (vecBytes (s.now.rv d.toNat)))
/-- VLDS: sixteen lanes at a stride (05 R154). -/
def execVlds (d : BitVec 7) (b x : BitVec 6) (i : BitVec 7) (s : State) : Outcome State Fault Refusal :=
  s.runSlot { sr := [b.toNat, x.toNat], vw := [d.toNat] } (s.loadOut (s.now.strided b x i) 4 4 .vload (.v (s.now.rotate d.toNat)))
/-- VSTS: sixteen lanes at a stride, in ascending order (05 R154). -/
def execVsts (d : BitVec 7) (b x : BitVec 6) (i : BitVec 7) (s : State) : Outcome State Fault Refusal :=
  s.runSlot { ports := 1, sr := [b.toNat, x.toNat], vr := [d.toNat] }
    (s.storeOut (s.now.strided b x i) 4 4 (vecBytes (s.now.rv d.toNat)))
/-- VGTH: sixteen lanes through an index vector (05 R155). -/
def execVgth (d : BitVec 7) (b x : BitVec 6) (sc : BitVec 2) (s : State) : Outcome State Fault Refusal :=
  s.runSlot { ports := 1, sr := [b.toNat], vr := [x.toNat], vw := [d.toNat] }
    (s.loadOut (s.now.gathered b x.toNat sc.toNat) 4 4 .vload (.v (s.now.rotate d.toNat)))
/-- VSCT: sixteen lanes through an index vector, in ascending order; it borrows the MX port (05 R155; 02 R46). -/
def execVsct (d : BitVec 7) (b x : BitVec 6) (sc : BitVec 2) (s : State) : Outcome State Fault Refusal :=
  s.runSlot { ports := 2, vsct := true, sr := [b.toNat], vr := [d.toNat, x.toNat] }
    (s.storeOut (s.now.gathered b x.toNat sc.toNat) 4 4 (vecBytes (s.now.rv d.toNat)))

/-! ### The niche (05 R157; 01 R28) -/

/-- A niche access's checks in the order of 05 R149: alignment, then the window. No device address reaches the niche store (01), so the
trap record names none (07 R205). -/
def Task.nicheCheck (t : Task) (o n w : Nat) : Option SlotOut :=
  if o % n ≠ 0 then some (.fault 0x0A w none 0)
  else if 1024 * t.nicheKiB < o + n then some (.fault 0x0B w none 0) else none

/-- A fill, usable from +1. -/
def State.fillOut (s : State) (o n : Nat) (res : Nat → Effect) : SlotOut :=
  match s.now.nicheCheck o n 0 with
  | some x => x
  | none => .go [res (memNat s.now.niche o n)]

/-- A spill. -/
def State.spillOut (s : State) (o n : Nat) (bs : List Byte) : SlotOut :=
  match s.now.nicheCheck o n 4 with
  | some x => x
  | none => .go [.niche o bs]

/-- FIL (05 R157). -/
def execFil (d b : BitVec 6) (sz : BitVec 2) (i : BitVec 11) (s : State) : Outcome State Fault Refusal :=
  let n := 2 ^ sz.toNat
  s.runSlot { sr := [b.toNat], sw := [d.toNat] } (s.fillOut (s.now.ea b i n) n fun v => resS d.toNat 1 (BitVec.ofNat 64 (extend true n v)))
/-- SPL (05 R157). -/
def execSpl (d b : BitVec 6) (sz : BitVec 2) (i : BitVec 11) (s : State) : Outcome State Fault Refusal :=
  let n := 2 ^ sz.toNat
  s.runSlot { sr := [b.toNat, d.toNat] } (s.spillOut (s.now.ea b i n) n (natLe n (s.now.rs d).toNat))
/-- VFIL (05 R157). -/
def execVfil (d : BitVec 7) (b : BitVec 6) (i : BitVec 11) (s : State) : Outcome State Fault Refusal :=
  s.runSlot { sr := [b.toNat], vw := [d.toNat] }
    (s.fillOut (s.now.ea b i 64) 64 fun v => resV s.now d.toNat 1 (BitVec.ofNat 512 v) 0xFFFF)
/-- VSPL (05 R157). -/
def execVspl (d : BitVec 7) (b : BitVec 6) (i : BitVec 11) (s : State) : Outcome State Fault Refusal :=
  s.runSlot { ports := 1, sr := [b.toNat], vr := [d.toNat] } (s.spillOut (s.now.ea b i 64) 64 (vecBytes (s.now.rv d.toNat)))

/-! ### Alcoves and the scale queue (05 R158-R168) -/

/-- OCLAIM: the lowest FREE alcove granted to the region (05 R161). -/
def execOclaim (k : BitVec 4) (d : BitVec 6) (f : BitVec 7) (s : State) : Outcome State Fault Refusal :=
  let t := s.now
  s.runSlot { sw := [d.toNat] }
    (if (tabFind t.handles k.toNat).isSome || decide (8 ≤ t.handles.length) then .fault 0x0C 0 none 0
     else match s.freeAlcove t.core t.rkey with
       | some a => .go [.oclaim k.toNat f.toNat a, resS d.toNat 1 0]
       | none => .go [resS d.toNat 1 1])

/-- ORELEASE (05 R162). -/
def execOrelease (k : BitVec 4) (s : State) : Outcome State Fault Refusal :=
  let t := s.now
  s.runSlot {} (match tabFind t.handles k.toNat with
    | some a => if ((s.core t.core).alcove a).st = 2 then .fault 0x0C 0 none 0 else .go [.orelease k.toNat]
    | none => .fault 0x0C 0 none 0)

/-- OFILL: starts filling an alcove from the core's own scratchpad (05 R163), once the task's earlier LS accesses have been performed:
its reads follow them in the global order (11 R338). -/
def execOfill (k : BitVec 4) (b x : BitVec 6) (s : State) : Outcome State Fault Refusal :=
  let t := s.now
  let a := (t.rs b).toNat
  let n := (t.rs x).toNat
  s.runSlot { sr := [b.toNat, x.toNat] }
    (if !t.own a (max n 1) then .fault 0x09 0 (some a) 0
     else if a % 64 ≠ 0 ∨ n % 64 ≠ 0 ∨ n < 64 ∨ 4096 < n then .fault 0x0A 0 (some a) 0
     else if !s.reachN t.rkey t.core (a % 2 ^ 19) n then .fault 0x09 0 (some a) 0
     else match tabFind t.handles k.toNat with
       | none => .fault 0x0C 0 none 0
       | some h =>
         let st := ((s.core t.core).alcove h).st
         if st = 2 ∨ st = 3 then .fault 0x0C 0 none 0 else s.orHold .lsq (.go [.ofill k.toNat a (n / 64)]))

/-- OSTAT (05 R164). -/
def execOstat (d : BitVec 6) (k : BitVec 4) (s : State) : Outcome State Fault Refusal :=
  let t := s.now
  let v := match tabFind t.handles k.toNat with
    | none => 0
    | some a =>
      let x := (s.core t.core).alcove a
      x.reads % 256 * 2 ^ 16 + a * 2 ^ 8 + x.kind * 2 ^ 4 + x.st
  s.runSlot { sw := [d.toNat] } (.go [resS d.toNat 1 (BitVec.ofNat 64 v)])

/-- SCLD: pushes scale words from the own scratchpad (05 R167). -/
def execScld (b : BitVec 6) (sz : BitVec 2) (i : BitVec 11) (s : State) : Outcome State Fault Refusal :=
  let t := s.now
  let k := s.core t.core
  let a := t.ea b i 32
  let n := 16 * 2 ^ sz.toNat
  s.runSlot { sr := [b.toNat] }
    (if !t.own a (2 * n) then .fault 0x09 0 (some a) 0
     else if a % 32 ≠ 0 then .fault 0x0A 0 (some a) 0
     else if !s.reachN t.rkey t.core (a % 2 ^ 19) (2 * n) then .fault 0x09 0 (some a) 0
     else if 512 < (k.ownWords s.tid).length + n then .fault 0x0D 0 none 0
     else if 512 < k.scq.length + n then .hold (.scq n) []
     else s.orHold .lsq (.go [.local_ .vload (splitLines a (2 * n) 8) [] [], .scld ((List.range n).map fun j => memNat s.mem (a + 2 * j) 2)]))

/-- BFMT: reads and writes a bank format register (05 R148). -/
def execBfmt (d a : BitVec 6) (n : BitVec 4) (s : State) : Outcome State Fault Refusal :=
  let t := s.now
  let v := (t.rs a).toNat
  s.runSlot { sr := [a.toNat], sw := [d.toNat] }
    (if !s.reach t.rkey t.core n.toNat then .fault 0x09 0 none 0
     else if 256 ≤ v ∨ fmtValid v = false then .fault 0x01 0 none 0
     else .go [resS d.toNat 1 (BitVec.ofNat 64 (tabGet (s.core t.core).bankfmt 0 n.toNat)), .bfmt n.toNat v])

/-! ### Atomics (05 R170) -/

/-- An atomic at the home of a location: it always goes through the LS queue, and its old value arrives later. -/
def State.atomic (s : State) (f : Nat) (d b x : BitVec 6) (u : Bool) (sz : BitVec 2) (readsD : Bool) : Outcome State Fault Refusal :=
  let t := s.now
  let n := 2 ^ sz.toNat
  let w (v : W64) : Nat := v.toNat % 2 ^ (8 * n)
  s.runSlot { sr := [b.toNat, x.toNat] ++ (if readsD then [d.toNat] else []), sw := [d.toNat] }
    (t.unlessRedun (match s.lsParts t 3 n n [(t.rs b).toNat] with
      | .error o => o
      | .ok ps =>
        s.orRows ps (s.orHold .lsRoom (.go [.access (.atomic f u n (w (t.rs x)) (w (t.rs d))) [(t.rs b).toNat] ps [] [dstS d]]))))

/-- AADD (05 R170). -/
def execAadd (d b x : BitVec 6) (u : BitVec 1) (sz : BitVec 2) (s : State) : Outcome State Fault Refusal := s.atomic 0 d b x (u == 1) sz false
/-- AMIN (05 R170). -/
def execAmin (d b x : BitVec 6) (u : BitVec 1) (sz : BitVec 2) (s : State) : Outcome State Fault Refusal := s.atomic 1 d b x (u == 1) sz false
/-- AMAX (05 R170). -/
def execAmax (d b x : BitVec 6) (u : BitVec 1) (sz : BitVec 2) (s : State) : Outcome State Fault Refusal := s.atomic 2 d b x (u == 1) sz false
/-- AAND (05 R170). -/
def execAand (d b x : BitVec 6) (u : BitVec 1) (sz : BitVec 2) (s : State) : Outcome State Fault Refusal := s.atomic 3 d b x (u == 1) sz false
/-- AOR (05 R170). -/
def execAor (d b x : BitVec 6) (u : BitVec 1) (sz : BitVec 2) (s : State) : Outcome State Fault Refusal := s.atomic 4 d b x (u == 1) sz false
/-- AXCHG (05 R170). -/
def execAxchg (d b x : BitVec 6) (u : BitVec 1) (sz : BitVec 2) (s : State) : Outcome State Fault Refusal := s.atomic 5 d b x (u == 1) sz false
/-- ACAS: compares with s[sd] (05 R170). -/
def execAcas (d b x : BitVec 6) (u : BitVec 1) (sz : BitVec 2) (s : State) : Outcome State Fault Refusal := s.atomic 6 d b x (u == 1) sz true
/-- AADDF (05 R170). -/
def execAaddf (d b x : BitVec 6) (sz : BitVec 2) (s : State) : Outcome State Fault Refusal := s.atomic 7 d b x false sz false

/-! ### Fences (05 R171, R172) -/

/-- FENCE package (05 R171). -/
def execFencePackage (s : State) : Outcome State Fault Refusal := s.runSlot {} (s.orHold .stores (.go []))
/-- FENCE system (05 R171). -/
def execFenceSystem (s : State) : Outcome State Fault Refusal := s.runSlot {} (s.orHold .system (.go []))
/-- FENCEX (05 R172; 11 R341). -/
def execFencex (e l : BitVec 7) (s : State) : Outcome State Fault Refusal :=
  s.runSlot {} (s.orHold (.classes e.toNat) (.go [.fencex e.toNat l.toNat]))

end Sys2Proof.Machine
end

