-- ==== Sys2Proof/Machine/MemSteps.lean ====
section
/-! DEFINITION. Steps of the caches and of the host as it reaches memory (11 R331, R336, R358-R361), and memory errors (13 R410).
Operands stand in `State.arg` (notes/assumptions/2). -/

namespace Sys2Proof.Machine

open Host (Outcome)

/-! ### Eviction (11 R331, R336) -/

/-- A device-memory line that the L2 of its home die holds. -/
def State.inL2 (s : State) (line : Nat) : Bool := !isSpad (line * 64) && !isHost (line * 64) && (tabFind s.stamps line).isSome

/-- L2_EVICTION (11 R336): line `addr`; with `flag`, the leased copy of the line leaves the cache `unit` instead, which no timestamp
shows (11 R331). -/
def execL2Eviction (s : State) : Outcome State Fault Refusal :=
  let a := s.arg
  if a.flag then s.stepIf true { s with copies := s.copies.filter fun c => !(c.cache == a.unit && c.line == a.addr) }
  else s.stepIf (s.inL2 a.addr) (s.evict a.addr)

/-! ### The host (11 R358-R361) -/

/-- BACK_INVALIDATION_RESPONSE (11 R359): the host holds line `addr` no longer. The steps of the agenda that were put off come next
(notes/assumptions/32). -/
def execBackInvalidationResponse (s : State) : Outcome State Fault Refusal :=
  s.stepIf (s.binv.any fun b => b.1 == s.arg.addr)
    { s with binv := s.binv.filter fun b => b.1 != s.arg.addr, snoop := s.snoop.filter fun l => l != s.arg.addr
             agenda := s.putOff ++ s.agenda, putOff := [] }

/-- Bytes of one line of a partition's device memory, reached by the host over a link that is up; an access waits while the partition is
being reset (13 R412). -/
def State.hostReach (s : State) (p loc n : Nat) : Bool :=
  s.link.up && (s.part p).st != 1 && s.boot.stage == 3 && (tabFind s.parts p).isSome && decide (loc < 2 ^ 39) && (s.part p).dies / 2 ^ (loc / 2 ^ 37) % 2 == 1 &&
  decide (0 < n ∧ loc % 64 + n ≤ 64)

/-- The snoop filter after a host access: whether the host keeps a copy of the line. -/
def State.hostKeeps (s : State) (line : Nat) (keep : Bool) : State :=
  let l := s.snoop.filter fun x => x != line
  { s with snoop := if keep then insertNat line l else l }

/-- A host read at the home (11 R360). -/
def State.hostRead (s : State) (p loc : Nat) (keep : Bool) : State :=
  let q := s.part p
  let s0 := s.fillL2 loc
  let (w, r) := s0.stamp (lineOf loc)
  let ts := max q.hpts w
  ({ s0 with stamps := tabPut s0.stamps (lineOf loc) (w, max r ts) }.putPart p { q with hpts := ts }).hostKeeps (lineOf loc) (keep || s.snoop.contains (lineOf loc))

/-- HOST_READ (11 R360): partition `unit`, location `addr`, `num` bytes; `flag`: the host keeps a copy of the line. -/
def execHostRead (s : State) : Outcome State Fault Refusal :=
  s.stepIf (s.hostReach s.arg.unit s.arg.addr s.arg.num) (s.hostRead s.arg.unit s.arg.addr s.arg.flag)

/-- A host write at the home (11 R360). -/
def State.hostWrite (s : State) (p loc : Nat) (bs : List Byte) (keep : Bool) : State :=
  let (c, s1) := s.writeLine 0xFFFFFF (s.part p).hpts loc bs
  (s1.putPart p { s1.part p with hpts := c }).hostKeeps (lineOf loc) keep

/-- HOST_WRITE (11 R360): partition `unit`, location `addr`, `bytes`; `flag`: the host keeps a copy of the line. A write to host
memory is the host's own, and takes no part in the order (11 R361). -/
def execHostWrite (s : State) : Outcome State Fault Refusal :=
  let a := s.arg
  if isHost a.addr then s.stepIf (isHost (a.addr + a.bytes.length - 1)) { s with mem := memPutBytes s.mem a.addr a.bytes }
  else s.stepIf (s.hostReach a.unit a.addr a.bytes.length) (s.hostWrite a.unit a.addr a.bytes a.flag)

/-- HOST_WRITE_COMPLETION (11 R361): the host completes a posted write of task `unit`. -/
def execHostWriteCompletion (s : State) : Outcome State Fault Refusal :=
  let t := s.task s.arg.unit
  s.stepIf (decide (0 < t.hostPend)) (s.putTask s.arg.unit { t with hostPend := t.hostPend - 1 })

/-! ### Memory errors (13 R405, R406, R410) -/

/-- A location lies in the save areas of a region's pool. -/
def State.poolHolds (s : State) (p loc : Nat) (g : Region) : Bool :=
  g.part == p && (List.range (26 * g.spcount)).any fun i => match s.homeXlat p (g.spbase + 4096 * i) 0 true with
    | .ok x => x / 4096 == loc / 4096
    | .bad _ => false

/-- The region that a memory error concerns: the one in whose save pool it lies (09 R264), else that of the task whose access met it,
or, where none did, the one that pins the page. -/
def State.errorRegion (s : State) (p tid loc : Nat) : Nat :=
  match s.regions.find? (fun g => s.poolHolds p loc g.2), tabFind s.tasks tid with
  | some g, _ => g.1
  | none, some t => t.rkey
  | none, none =>
    let hit := (s.part p).pins.find? fun x =>
      let base := x.2.entry / 4096 % 2 ^ 40 * 4096
      decide (base ≤ loc ∧ loc < base + pageSize x.2.k)
    match hit with
    | some x => match x.2.counts with | c :: _ => c.1 | [] => 0
    | none => 0

/-- A sector's error: corrected, or marked so that its reads meet it, and reported, with the core whose access met it (13 R404). -/
def State.memError (s : State) (loc tid : Nat) (bad : Bool) : State :=
  match s.partOfDie (homeDie loc) with
  | none => s
  | some p =>
    let x := loc / 32
    let s1 := if bad && !s.bad.contains x then { s with bad := insertNat x s.bad } else s
    s1.error { part := p, cls := if bad then 0x08 else 0x07, src := 2, core := (tabFind s.tasks tid).elim (homeDie loc * 4096) Task.core, tid := tid, region := s.errorRegion p tid loc, tail := natLe 8 loc }

/-- MEMORY_ERROR (13 R410): device-memory location `addr`; `flag`: it cannot be corrected; `sub`: the task whose access met it, or 0. -/
def execMemoryError (s : State) : Outcome State Fault Refusal :=
  s.stepIf (decide (s.arg.addr < 2 ^ 39)) (s.memError s.arg.addr s.arg.sub s.arg.flag)

end Sys2Proof.Machine
end

