-- ==== Sys2Proof/Machine/Network.lean ====
section
/-! DEFINITION. The NW slot: tasks and barriers (09 R288-R294; 08 R256-R258), sumps (10 R321-R328), pins (11 R353-R357), trees
(12 R389-R392) and the fabric (14 R442-R446). -/

namespace Sys2Proof.Machine

open Host (Outcome)

/-! ### Shared forms -/

/-- ILLEGAL-SLOT as an execution fault. -/
def illegal : SlotOut := .fault 0x01 0 none 0

/-- The checks of an own-scratchpad operand: wholly in the own scratchpad, aligned, in reachable banks; PROTECTION comes before
ALIGNMENT (10 R321; 12 R390; 14 R445). -/
def State.ownCheck (s : State) (a n align : Nat) (out : SlotOut) : SlotOut :=
  let t := s.now
  if !t.own a n || !s.reachN t.rkey t.core (a % 2 ^ 24) n then .fault 0x09 0 (some a) 0
  else if a % align ≠ 0 then .fault 0x0A 0 (some a) 0
  else out

/-- The same checks in the order of 05 R149: wholly in the own scratchpad, then alignment, then reach (09, before R288). -/
def State.ownCheck149 (s : State) (a n align : Nat) (out : SlotOut) : SlotOut :=
  let t := s.now
  if !t.own a n then .fault 0x09 0 (some a) 0
  else if a % align ≠ 0 then .fault 0x0A 0 (some a) 0
  else if !s.reachN t.rkey t.core (a % 2 ^ 24) n then .fault 0x09 0 (some a) 0
  else out

/-- An own-scratchpad load of class LS that leaves its bytes to its instruction. -/
def ownRead (a n : Nat) : Effect := .local_ .vload (splitLines a n 4) [] []

/-- A wait whose fill counts as a load of the 8-byte word at s[sa] (09 R289, R292). -/
def State.wordWait (s : State) (a : BitVec 6) (d : BitVec 6) (w : Nat → Wait) : SlotOut :=
  let x := (s.now.rs a).toNat
  match s.lsParts s.now 1 8 8 [x] with
  | .error o => o
  | .ok _ => .go [.produce [dstS d] (w x)]

/-- A barrier of the issuing core's cluster, granted to the task's region (08 R255). -/
def State.barSlot (s : State) (b : Nat) (out : SlotOut) : SlotOut :=
  if s.barGranted (clusterOf s.now.core) b s.now.rkey then out else .fault 0x09 0 none 0

/-! ### Tasks (09 R288-R293) -/

/-- A forked record is valid: R265 and R268 with the handler bit clear, for the task's region or a descendant (09 R284). -/
def State.forkOk (s : State) (t : Task) (b : List Byte) : Bool :=
  let r := t.part * 65536 + fieldAt b 16 2
  (tabFind s.regions r).isSome && s.covers t.rkey r && s.recordOk r b true

/-- FORK (09 R288). -/
def execFork (a : BitVec 6) (s : State) : Outcome State Fault Refusal :=
  let t := s.now
  let x := (t.rs a).toNat
  let bs := memBytes s.mem x 64
  s.runSlot { sr := [a.toNat] }
    (t.unlessRedun (s.ownCheck149 x 64 64 (s.orHold .lsq
      (if s.forkOk t bs then s.orHold .forkRoom (.go [ownRead x 64, .fork bs x]) else illegal))))

/-- JOIN (09 R289). -/
def execJoin (d a : BitVec 6) (s : State) : Outcome State Fault Refusal :=
  s.runSlot { sr := [a.toNat], sw := [d.toNat] } (s.wordWait a d .join)

/-- NEXT (09 R290). -/
def execNext (d : BitVec 6) (s : State) : Outcome State Fault Refusal :=
  s.runSlot { sw := [d.toNat] } (s.now.unlessRedun (.go [.produce [dstS d] (.nextTile 0 0 false)]))

/-- YIELD (09 R291). -/
def execYield (s : State) : Outcome State Fault Refusal := s.runSlot {} (.go [.yield])

/-- WATCH; t of 1 or more sets a deadline 2^(t+8) cycles after the commit (09 R292). -/
def execWatch (d a b : BitVec 6) (t : BitVec 7) (s : State) : Outcome State Fault Refusal :=
  s.runSlot { sr := [a.toNat, b.toNat], sw := [d.toNat] }
    (s.wordWait a d fun x => .watch x (s.now.rs b).toNat (if t.toNat = 0 then 0 else s.cycle + 2 ^ (t.toNat + 8)))

/-- HSIG (09 R293). -/
def execHsig (a : BitVec 6) (v : BitVec 7) (s : State) : Outcome State Fault Refusal :=
  s.runSlot { sr := [a.toNat] } (s.now.unlessRedun (s.orHold .event (.go [.hsig v.toNat (s.now.rs a)])))

/-! ### Barriers (08 R256-R258) -/

/-- BARA (08 R257). -/
def execBara (n : BitVec 7) (s : State) : Outcome State Fault Refusal :=
  s.runSlot {} (s.barSlot n.toNat (s.orHold .stores (.go [.bara n.toNat])))

/-- BARW (08 R258). -/
def execBarw (d a : BitVec 6) (n : BitVec 7) (s : State) : Outcome State Fault Refusal :=
  s.runSlot { sr := [a.toNat], sw := [d.toNat] }
    (s.barSlot n.toNat
      (.go [.produce [dstS d] (.barw (clusterOf s.now.core * 32 + n.toNat) ((s.now.rs a).toNat % 2 ^ 32))]))

/-- BARI (08 R256). -/
def execBari (a : BitVec 6) (n : BitVec 7) (s : State) : Outcome State Fault Refusal :=
  let v := (s.now.rs a).toNat
  s.runSlot { sr := [a.toNat] } (s.barSlot n.toNat (if v = 0 ∨ 65536 ≤ v then illegal else .go [.bari n.toNat v]))

/-! ### Sumps (10 R321-R328) -/

/-- XENQ (10 R321). -/
def execXenq (d a b : BitVec 6) (s : State) : Outcome State Fault Refusal :=
  let t := s.now
  let x := (t.rs b).toNat
  let id := (t.rs a).toNat
  s.runSlot { sr := [a.toNat, b.toNat], sw := [d.toNat] }
    (t.unlessRedun (s.ownCheck x 32 32
      (if !(sumpIdOk id && s.sumpUsable t.rkey id) then .fault 0x09 0 none 0
       else s.orHold .stores <| s.orHold .lsq
         (if s.sumpRoom id then .go [ownRead x 32, .xenq id (memBytes s.mem x 32) (dstS d)] else .fault 0x12 0 none id))))

/-- An XCFG function: PROTECTION for a malformed identifier, then the hold, then the engine's answer (10 R299, R322). -/
def State.xcfgOut (s : State) (d a : BitVec 6) (fn addr : Nat) : SlotOut :=
  let t := s.now
  let id := (t.rs a).toNat
  if !sumpIdOk id then .fault 0x09 0 none 0
  else s.orHold .stores (s.orHold (.enqueued id)
    (.go [.xcfg id fn addr, resS d.toNat 1 (BitVec.ofNat 64 (s.sumpConfig t.rkey id fn ((s.engRead t.part addr 256).getD [])).2)]))

/-- A descriptor address of 256 bytes in the global space (10 R303, R322; 05 R149). -/
def State.descCheck (s : State) (x : Nat) (out : SlotOut) : SlotOut :=
  match placeN x 256 with
  | some (.global _) =>
    match s.lsParts s.now 1 64 64 ((List.range 4).map fun i => x + 64 * i) with
    | .error o => o
    | .ok _ => out
  | _ => .fault 0x09 0 (some x) 0

/-- XCFG load (10 R322). -/
def execXcfgLoad (d a b : BitVec 6) (s : State) : Outcome State Fault Refusal :=
  let x := (s.now.rs b).toNat
  s.runSlot { sr := [a.toNat, b.toNat], sw := [d.toNat], priv := !s.privileged s.now }
    (if sumpIdOk (s.now.rs a).toNat then s.descCheck x (s.xcfgOut d a 0 x) else .fault 0x09 0 none 0)

/-- XCFG halt (10 R322). -/
def execXcfgHalt (d a : BitVec 6) (s : State) : Outcome State Fault Refusal :=
  s.runSlot { sr := [a.toNat], sw := [d.toNat], priv := !s.privileged s.now } (s.xcfgOut d a 1 0)
/-- XCFG resume (10 R322). -/
def execXcfgResume (d a : BitVec 6) (s : State) : Outcome State Fault Refusal :=
  s.runSlot { sr := [a.toNat], sw := [d.toNat], priv := !s.privileged s.now } (s.xcfgOut d a 2 0)
/-- XCFG purge (10 R322). -/
def execXcfgPurge (d a : BitVec 6) (s : State) : Outcome State Fault Refusal :=
  s.runSlot { sr := [a.toNat], sw := [d.toNat], priv := !s.privileged s.now } (s.xcfgOut d a 3 0)
/-- XCFG off (10 R322). -/
def execXcfgOff (d a : BitVec 6) (s : State) : Outcome State Fault Refusal :=
  s.runSlot { sr := [a.toNat], sw := [d.toNat], priv := !s.privileged s.now } (s.xcfgOut d a 4 0)

/-- XSTAT; field 10 takes an ordinal, the others a sump of the task's region, an ancestor or a descendant (10 R299, R323, R324). -/
def execXstat (d a : BitVec 6) (f : BitVec 7) (s : State) : Outcome State Fault Refusal :=
  let r := s.now.rkey
  let v := (s.now.rs a).toNat
  s.runSlot { sr := [a.toNat], sw := [d.toNat] }
    (if f.toNat = 10 ∨ (sumpIdOk v && (s.sumpUsable r v || s.sumpBelow r v)) = true then
       s.orHold (.enqueued v) (.go [resS d.toNat 1 (BitVec.ofNat 64 (s.sumpField r v f.toNat))])
     else .fault 0x09 0 none 0)

/-- XDISP (10 R325). -/
def execXdisp (d a : BitVec 6) (s : State) : Outcome State Fault Refusal :=
  let v := (s.now.rs a).toNat
  s.runSlot { sr := [a.toNat], sw := [d.toNat] }
    (if sumpIdOk v && s.sumpUsable s.now.rkey v then
       s.orHold (.enqueued v) (.go [.xdisp v, resS d.toNat 1 (BitVec.ofNat 64 (s.sump v).ents.length)])
     else .fault 0x09 0 none 0)

/-- XPREF (10 R327). -/
def execXpref (a b : BitVec 6) (l : BitVec 7) (s : State) : Outcome State Fault Refusal :=
  let x := (s.now.rs a).toNat
  let v := (s.now.rs b).toNat
  let n := v % 2 ^ 32
  s.runSlot { sr := [a.toNat, b.toNat] }
    (if 2 ^ 48 ≤ v ∨ n = 0 ∨ 2 ^ 28 < n then illegal
     else match placeN x n with
       | some (.global _) => .go [.xpref x n (v / 2 ^ 32) l.toNat]
       | _ => .fault 0x09 0 (some x) 0)

/-- XCAN (10 R328). -/
def execXcan (a : BitVec 6) (s : State) : Outcome State Fault Refusal :=
  s.runSlot { sr := [a.toNat] } (.go [.xcan ((s.now.rs a).toNat % 2 ^ 16)])

/-! ### Trees (12 R388-R392) -/

/-- The mould of 12 R389: the handle's upper bits, the address's check, the hold for the task's earlier stores, then the service's answer for the
tree's key. -/
def State.treeMould (s : State) (a : BitVec 6) (check : SlotOut → SlotOut) (out : Nat → Nat → SlotOut) : SlotOut :=
  let h := (s.now.rs a).toNat
  if 2 ^ 16 ≤ h then illegal else check (s.orHold .stores (out h (treeKey s.now.part h)))

/-- A malformed structure address raises PROTECTION precisely (00 R5, R6); TSAVE alone names it among its ACCESS refusals (12 R389). -/
def treePlace (x n : Nat) (out : SlotOut) : SlotOut :=
  match placeN x n with
  | none => .fault 0x09 0 (some x) 0
  | some (.alcove _ _) => .fault 0x09 0 (some x) 0
  | some _ => out

/-- A request refused with a code, changing nothing. -/
def treeRefused (d : BitVec 6) (code h : Nat) : SlotOut := .go [resS d.toNat 1 (treeWord code 0 h)]

/-- A tree's state as TSAVE and TRESTORE wait for it: a freeze under way is drained first (12 R383). -/
def State.orDrain (s : State) (key : Nat) (out : SlotOut) : SlotOut :=
  if (s.tree key).st = 2 ∧ s.treeDrained key = false then .hold (.drain key) [] else out

/-- TCREATE (12 R389). -/
def execTcreate (d a : BitVec 6) (s : State) : Outcome State Fault Refusal :=
  let x := (s.now.rs a).toNat
  s.runSlot { sr := [a.toNat], sw := [d.toNat], priv := !s.privileged s.now }
    (treePlace x 64 (s.orHold .stores (.go [.tree 0 0 x, resS d.toNat 1 (s.treeCreate s.now.rkey x).2])))

/-- TDESTROY (12 R389). -/
def execTdestroy (d a : BitVec 6) (s : State) : Outcome State Fault Refusal :=
  s.runSlot { sr := [a.toNat], sw := [d.toNat], priv := !s.privileged s.now }
    (s.treeMould a id fun h key =>
      if s.treeBelow s.now.rkey key then .go [.tree 1 h 0, resS d.toNat 1 (treeWord 0 0 h)] else treeRefused d 5 h)

/-- TEDIT (12 R389). -/
def execTedit (d a b : BitVec 6) (s : State) : Outcome State Fault Refusal :=
  let x := (s.now.rs b).toNat
  s.runSlot { sr := [a.toNat, b.toNat], sw := [d.toNat] }
    (s.treeMould a (treePlace x 16) fun h key =>
      if !s.treeUsable s.now.rkey key then treeRefused d 5 h
      else .go [.tree 2 h x, resS d.toNat 1 (s.treeEdit key h x).2])

/-- TPOST (12 R390). -/
def execTpost (a b : BitVec 6) (s : State) : Outcome State Fault Refusal :=
  let t := s.now
  let v := (t.rs a).toNat
  let x := (t.rs b).toNat
  let h := v % 2 ^ 16
  let mem := v / 2 ^ 16 % 2 ^ 10
  let g := v / 2 ^ 32
  let key := treeKey t.part h
  s.runSlot { sr := [a.toNat, b.toNat] }
    (t.unlessRedun
      (if v / 2 ^ 26 % 2 ^ 6 ≠ 0 then illegal
       else if !s.treeUsable t.rkey key then .fault 0x09 0 none 0
       else s.ownCheck x (s.tree key).segsize 64
         (if !s.postOk (s.tree key) t.core mem g then .fault 0x15 0 none 0 else s.orHold (.window key g) (.go [.tpost h mem g x]))))

/-- TWAIT (12 R391). -/
def execTwait (d a : BitVec 6) (s : State) : Outcome State Fault Refusal :=
  let v := (s.now.rs a).toNat
  let key := treeKey s.now.part (v % 2 ^ 16)
  s.runSlot { sr := [a.toNat], sw := [d.toNat] }
    (if v / 2 ^ 26 % 2 ^ 6 ≠ 0 then illegal
     else if !s.treeUsable s.now.rkey key then .fault 0x09 0 none 0
     else .go [.produce [dstS d] (.twait key (v / 2 ^ 16 % 2 ^ 10) (v / 2 ^ 32))])

/-- TFREEZE: the tree is taken at once, and the status follows its drain (12 R383). -/
def execTfreeze (d a : BitVec 6) (s : State) : Outcome State Fault Refusal :=
  s.runSlot { sr := [a.toNat], sw := [d.toNat], priv := !s.privileged s.now }
    (s.treeMould a id fun h key =>
      let x := s.tree key
      let done : List Effect := [.tree 3 h 0, resS d.toNat 1 (treeWord 0 0 h)]
      if !s.treeBelow s.now.rkey key then treeRefused d 5 h
      else if x.st = 1 then (if s.treeDrained key then .go (.freeze h :: done) else .hold (.drain key) [.freeze h])
      else if x.st = 2 ∧ x.freezing = s.tid then (if s.treeDrained key then .go done else .hold (.drain key) [])
      else treeRefused d 6 h)

/-- TSAVE (12 R384, R389). -/
def execTsave (d a b : BitVec 6) (s : State) : Outcome State Fault Refusal :=
  let x := (s.now.rs b).toNat
  s.runSlot { sr := [a.toNat, b.toNat], sw := [d.toNat], priv := !s.privileged s.now }
    (s.treeMould a id fun h key =>
      if !s.treeBelow s.now.rkey key then treeRefused d 5 h
      else s.orDrain key (.go [.tree 4 h x, resS d.toNat 1 (s.treeSave key h x s.tid).2]))

/-- TRESTORE (12 R386). -/
def execTrestore (d a b : BitVec 6) (s : State) : Outcome State Fault Refusal :=
  let x := (s.now.rs b).toNat
  s.runSlot { sr := [a.toNat, b.toNat], sw := [d.toNat], priv := !s.privileged s.now }
    (s.treeMould a (treePlace x 128) fun h key =>
      if !s.treeBelow s.now.rkey key then treeRefused d 5 h
      else .go [.tree 5 h x, resS d.toNat 1 (s.treeRestore key h x s.now.pts).2])

/-- TQRY (12 R392). -/
def execTqry (d a : BitVec 6) (f : BitVec 7) (s : State) : Outcome State Fault Refusal :=
  let h := (s.now.rs a).toNat
  let key := treeKey s.now.part h
  s.runSlot { sr := [a.toNat], sw := [d.toNat] }
    (if 2 ^ 16 ≤ h then illegal
     else if !s.treeUsable s.now.rkey key then .fault 0x09 0 none 0
     else .go [resS d.toNat 1 (BitVec.ofNat 64 (s.treeField key f.toNat))])

/-! ### The fabric (14 R433, R442-R446) -/

/-- The checks of 14 R433 after decode: package operand, address of `n` bytes, alignment, peer entry, current group; detail bit 2 marks
a write (07 R206; `write` 1). -/
def State.remoteCheck (s : State) (t : Task) (a pkg n align write : Nat) (out : SlotOut) : SlotOut :=
  if 2 ^ 12 ≤ pkg then illegal
  else match placeN a n with
    | none => .fault 0x09 (4 * write) (some a) 0
    | some (.alcove _ _) => .fault 0x09 (4 * write) (some a) 0
    | some _ =>
      if a % align ≠ 0 then .fault 0x0A (4 * write) (some a) 0
      else if pkg = s.fab.pkg ∨ pkg = 0xFFF ∨ s.peerFlag t.part pkg 0 = false then .fault 0x09 (4 * write) (some a) 0
      else if !s.grouped pkg then .fault 0x14 0 (some a) pkg
      else out

/-- RLD (14 R442). -/
def execRld (d : BitVec 6) (a : BitVec 5) (s : State) : Outcome State Fault Refusal :=
  let t := s.now
  let v := 2 * d.toNat
  let x := (t.getS (2 * a.toNat)).toNat
  let pkg := (t.getS (2 * a.toNat + 1)).toNat
  s.runSlot { sr := [2 * a.toNat, 2 * a.toNat + 1], vw := [v, v + 1] }
    (s.remoteCheck t x pkg 128 64 0 (.go [.remote 1 pkg x [] 0 [.v (t.rotate v), .v (t.rotate (v + 1))]]))

/-- RST (14 R442). -/
def execRst (d : BitVec 6) (a : BitVec 5) (s : State) : Outcome State Fault Refusal :=
  let t := s.now
  let v := 2 * d.toNat
  let x := (t.getS (2 * a.toNat)).toNat
  let pkg := (t.getS (2 * a.toNat + 1)).toNat
  s.runSlot { ports := 2, sr := [2 * a.toNat, 2 * a.toNat + 1], vr := [v, v + 1] }
    (t.unlessRedun (s.remoteCheck t x pkg 128 64 1 (.go [.remote 2 pkg x (vecBytes (t.rv v) ++ vecBytes (t.rv (v + 1))) 0 []])))

/-- RATOM (14 R443). -/
def execRatom (d : BitVec 6) (a : BitVec 5) (b : BitVec 6) (u : BitVec 1) (z : BitVec 2) (o : BitVec 3) (s : State) :
    Outcome State Fault Refusal :=
  let t := s.now
  let n := 2 ^ z.toNat
  let x := (t.getS (2 * a.toNat)).toNat
  let pkg := (t.getS (2 * a.toNat + 1)).toNat
  let reads := [2 * a.toNat, 2 * a.toNat + 1, b.toNat] ++ (if o.toNat = 6 then [d.toNat] else [])
  s.runSlot { sr := reads, sw := [d.toNat] }
    (t.unlessRedun (s.remoteCheck t x pkg n n 1
      (.go [.remote 3 pkg x (natLe 8 (t.rs b).toNat ++ natLe 8 (t.rs d).toNat) (o.toNat + 8 * z.toNat + 32 * u.toNat) [dstS d]])))

/-- The end of RFENCE's wait: the remote-error word is read and cleared (14 R435, R444). -/
def State.fenceOut (s : State) (d : BitVec 6) (all : Bool) (pkg : Nat) : SlotOut :=
  s.orHold (.remoteDone all pkg) (.go [.rfence, resS d.toNat 1 (BitVec.ofNat 64 (tabGet s.rerr 0 s.tid))])

/-- RFENCE (14 R444). -/
def execRfence (d a : BitVec 6) (s : State) : Outcome State Fault Refusal :=
  let pkg := (s.now.rs a).toNat
  s.runSlot { sr := [a.toNat], sw := [d.toNat] } (if 2 ^ 12 ≤ pkg then illegal else s.fenceOut d false pkg)

/-- RFENCE all (14 R444). -/
def execRfenceAll (d : BitVec 6) (s : State) : Outcome State Fault Refusal := s.runSlot { sw := [d.toNat] } (s.fenceOut d true 0)

/-- FSEND (14 R445). -/
def execFsend (d a : BitVec 6) (s : State) : Outcome State Fault Refusal :=
  let t := s.now
  let x := (t.rs a).toNat
  let bs := memBytes s.mem x 64
  let res := resS d.toNat 1 (s.sendQueue s.tid bs).2
  s.runSlot { sr := [a.toNat], sw := [d.toNat] }
    (t.unlessRedun (s.ownCheck x 64 64 (s.orHold .lsq
      (if s.sendCode t.part bs ≠ 0 then .go [ownRead x 64, res]
       else s.orHold (.sendRoom (fieldAt bs 20 2)) (.go [ownRead x 64, .fsend bs, res])))))

/-- FCLK (14 R446). -/
def execFclk (d a : BitVec 6) (f : BitVec 7) (s : State) : Outcome State Fault Refusal :=
  let pkg := (s.now.rs a).toNat
  s.runSlot { sr := if f.toNat = 4 ∨ f.toNat = 5 then [a.toNat] else [], sw := [d.toNat] }
    (if (f.toNat = 4 ∨ f.toNat = 5) ∧ 2 ^ 12 ≤ pkg then illegal else .go [resS d.toNat 1 (s.fclk s.now f.toNat pkg)])

/-! ### The die scheduler (09 R294) -/

/-- A request of the die scheduler, once the task's stores are performed. -/
def State.regionReq (s : State) (fn : Nat) (a b : BitVec 6) : Outcome State Fault Refusal :=
  s.runSlot { sr := [a.toNat, b.toNat], priv := !s.privileged s.now } (s.orHold .stores (.go [.rgnctl fn (s.now.rs a) (s.now.rs b)]))

/-- RGNCTL CREATE (09 R294). Its address operand is checked in the order of 05 R149 before the bundle commits, as every address operand of
this slot is (09, before R288; 00 R5); what lies there is the scheduler's to judge (R296; notes/assumptions/127). -/
def execRgnctlCreate (a b : BitVec 6) (s : State) : Outcome State Fault Refusal :=
  let x := (s.now.rs a).toNat
  s.runSlot { sr := [a.toNat, b.toNat], priv := !s.privileged s.now }
    (match s.lsParts s.now 1 256 256 [x] with
      | .error o => o
      | .ok _ => s.orHold .stores (.go [.rgnctl 0 (s.now.rs a) (s.now.rs b)]))
/-- RGNCTL DESTROY (09 R294). -/
def execRgnctlDestroy (a b : BitVec 6) (s : State) : Outcome State Fault Refusal := s.regionReq 1 a b
/-- RGNCTL LAUNCH (09 R294). -/
def execRgnctlLaunch (a b : BitVec 6) (s : State) : Outcome State Fault Refusal := s.regionReq 2 a b
/-- RGNCTL PREEMPT (09 R294). -/
def execRgnctlPreempt (a b : BitVec 6) (s : State) : Outcome State Fault Refusal := s.regionReq 3 a b
/-- RGNCTL PARK (09 R294). -/
def execRgnctlPark (a b : BitVec 6) (s : State) : Outcome State Fault Refusal := s.regionReq 4 a b
/-- RGNCTL RESUME (09 R294). -/
def execRgnctlResume (a b : BitVec 6) (s : State) : Outcome State Fault Refusal := s.regionReq 5 a b
/-- RGNCTL KILL (09 R294). -/
def execRgnctlKill (a b : BitVec 6) (s : State) : Outcome State Fault Refusal := s.regionReq 6 a b
/-- RGNCTL RELOAD (09 R294). -/
def execRgnctlReload (a b : BitVec 6) (s : State) : Outcome State Fault Refusal := s.regionReq 7 a b
/-- RGNCTL QUERY (09 R294). -/
def execRgnctlQuery (a b : BitVec 6) (s : State) : Outcome State Fault Refusal := s.regionReq 8 a b

/-! ### Pins and invalidation (11 R353-R357) -/

/-- The range checks and the hold of 11 R353. -/
def State.rangeReq (s : State) (d a b : BitVec 6) (out : Nat → Nat → SlotOut) : Outcome State Fault Refusal :=
  let x := (s.now.rs a).toNat
  let n := (s.now.rs b).toNat
  s.runSlot { sr := [a.toNat, b.toNat], sw := [d.toNat], priv := !s.privileged s.now }
    (if n = 0 ∨ 2 ^ 47 < n then illegal
     else match placeN x n with
       | some (.global _) => s.orHold .stores (s.orHold .xlatTurn (out x n))
       | _ => .fault 0x09 0 (some x) 0)

/-- A status of one of these instructions. -/
def rangeDone (d : BitVec 6) (fn x n st : Nat) : SlotOut := .go [.xlat fn x n, resS d.toNat 1 (BitVec.ofNat 64 st)]

/-- XLPIN (11 R354). -/
def execXlpin (d a b : BitVec 6) (s : State) : Outcome State Fault Refusal :=
  s.rangeReq d a b fun x n => rangeDone d 0 x n (s.pinRange s.now.rkey x n).2
/-- XLUNPIN (11 R355). -/
def execXlunpin (d a b : BitVec 6) (s : State) : Outcome State Fault Refusal :=
  s.rangeReq d a b fun x n => rangeDone d 1 x n (s.unpinRange s.now.rkey x n).2
/-- XLINV (11 R356). -/
def execXlinv (d a b : BitVec 6) (s : State) : Outcome State Fault Refusal :=
  s.rangeReq d a b fun x n => s.orHold (.invDrain x n) (rangeDone d 2 x n (s.invRange s.now.part x n).2)
/-- XLINV force (11 R357): HANDLER and nothing more, or the parking and the drain, then the removal. -/
def execXlinvForce (d a b : BitVec 6) (s : State) : Outcome State Fault Refusal :=
  s.rangeReq d a b fun x n =>
    if s.handlerPages s.now.part x n then .go [resS d.toNat 1 2]
    else if s.forceReady s.now.part x n s.tid then rangeDone d 3 x n 0
    else .hold (.forceDrain x n) [.xlat 4 x n]

end Sys2Proof.Machine
end

