-- ==== Sys2Proof/Machine/Scalar.lean ====
section
/-! DEFINITION. The integer instructions of SA and SB (04 R102-R116) and NOP (02 R41). -/

namespace Sys2Proof.Machine

open Host (Outcome)

/-! ### Shared forms -/

/-- A two-register operation under a guard, its result usable `off` bundles later (04 R102; 02 R60). -/
def State.scalar2 (s : State) (d a b : BitVec 6) (p : BitVec 4) (off : Nat) (f : W64 → W64 → W64) : Outcome State Fault Refusal :=
  let t := s.now
  s.runSlot { sr := [a.toNat, b.toNat], sw := [d.toNat] }
    (.go (if t.bit0 p then [resS d.toNat off (f (t.rs a) (t.rs b))] else []))

/-- A division: its result arrives later and fills the register (04 R107). -/
def State.divide (s : State) (d a b : BitVec 6) (p : BitVec 4) (f : W64 → W64 → W64) : Outcome State Fault Refusal :=
  let t := s.now
  s.runSlot { sr := [a.toNat, b.toNat], sw := [d.toNat] }
    (.go (if t.bit0 p then [.produce [dstS d] (.ready [(f (t.rs a) (t.rs b)).setWidth 512])] else []))

/-- A one-register operation under a guard (04 R108). -/
def State.scalar1 (s : State) (d a : BitVec 6) (p : BitVec 4) (f : W64 → W64) : Outcome State Fault Refusal :=
  let t := s.now
  s.runSlot { sr := [a.toNat], sw := [d.toNat] } (.go (if t.bit0 p then [resS d.toNat 1 (f (t.rs a))] else []))

/-- A compare of two registers into a whole predicate (04 R104, R109). -/
def State.compare2 (s : State) (k : BitVec 4) (a b : BitVec 6) (p : BitVec 4) (f : W64 → W64 → Bool) : Outcome State Fault Refusal :=
  let t := s.now
  s.runSlot { sr := [a.toNat, b.toNat], pw := [k.toNat] }
    (.go (if t.bit0 p then [resP k 1 (allOnes (f (t.rs a) (t.rs b))) 0xFFFF] else []))

/-- An operation with an immediate; it has no guard (04 R102, R111). -/
def State.scalarI (s : State) (d a : BitVec 6) (f : W64 → W64) : Outcome State Fault Refusal :=
  s.runSlot { sr := [a.toNat], sw := [d.toNat] } (.go [resS d.toNat 1 (f (s.now.rs a))])

/-- A compare with an immediate (04 R104, R112). -/
def State.compareI (s : State) (k : BitVec 4) (a : BitVec 6) (f : W64 → Bool) : Outcome State Fault Refusal :=
  s.runSlot { sr := [a.toNat], pw := [k.toNat] } (.go [resP k 1 (allOnes (f (s.now.rs a))) 0xFFFF])

/-- A shift amount: bits [5:0] (04 R105). -/
def shamt (b : W64) : Nat := b.toNat % 64

/-- Leading zero bits (04 R108). -/
def clz64 (a : W64) : W64 := if a = 0 then 64 else BitVec.ofNat 64 (63 - Nat.log2 a.toNat)

/-- Trailing zero bits (04 R108). -/
def ctz64 (a : W64) : W64 := BitVec.ofNat 64 ((List.range 64).takeWhile fun i => !a.getLsbD i).length

/-- One bits (04 R108). -/
def popc64 (a : W64) : W64 := BitVec.ofNat 64 ((List.range 64).filter fun i => a.getLsbD i).length

/-- The low w bits sign-extended (04: sext). -/
def sextLow (w : Nat) (a : W64) : W64 := (a.setWidth w).signExtend 64

/-- The low w bits zero-extended (04: zext). -/
def zextLow (w : Nat) (a : W64) : W64 := (a.setWidth w).setWidth 64

/-- DIV's quotient (04 R107). -/
def divS (a b : W64) : W64 := if b = 0 then 0xFFFFFFFFFFFFFFFF else BitVec.ofInt 64 (Int.tdiv a.toInt b.toInt)
/-- DIVU's quotient (04 R107). -/
def divU (a b : W64) : W64 := if b = 0 then 0xFFFFFFFFFFFFFFFF else BitVec.ofNat 64 (a.toNat / b.toNat)
/-- REM's remainder, with the sign of the dividend (04 R107). -/
def remS (a b : W64) : W64 := if b = 0 then a else BitVec.ofInt 64 (Int.tmod a.toInt b.toInt)
/-- REMU's remainder (04 R107). -/
def remU (a b : W64) : W64 := if b = 0 then a else BitVec.ofNat 64 (a.toNat % b.toNat)

/-! ### NOP -/

/-- NOP: executes nothing (02 R41). -/
def execNop (s : State) : Outcome State Fault Refusal := s.runSlot {} (.go [])

/-! ### R105 -/

/-- ADD (04 R105). -/
def execAdd (d a b : BitVec 6) (p : BitVec 4) (s : State) : Outcome State Fault Refusal := s.scalar2 d a b p 1 fun x y => x + y
/-- SUB (04 R105). -/
def execSub (d a b : BitVec 6) (p : BitVec 4) (s : State) : Outcome State Fault Refusal := s.scalar2 d a b p 1 fun x y => x - y
/-- AND (04 R105). -/
def execAnd (d a b : BitVec 6) (p : BitVec 4) (s : State) : Outcome State Fault Refusal := s.scalar2 d a b p 1 fun x y => x &&& y
/-- OR (04 R105). -/
def execOr (d a b : BitVec 6) (p : BitVec 4) (s : State) : Outcome State Fault Refusal := s.scalar2 d a b p 1 fun x y => x ||| y
/-- XOR (04 R105). -/
def execXor (d a b : BitVec 6) (p : BitVec 4) (s : State) : Outcome State Fault Refusal := s.scalar2 d a b p 1 fun x y => x ^^^ y
/-- ANDN (04 R105). -/
def execAndn (d a b : BitVec 6) (p : BitVec 4) (s : State) : Outcome State Fault Refusal := s.scalar2 d a b p 1 fun x y => x &&& ~~~ y
/-- SHL (04 R105). -/
def execShl (d a b : BitVec 6) (p : BitVec 4) (s : State) : Outcome State Fault Refusal := s.scalar2 d a b p 1 fun x y => x <<< shamt y
/-- SHR (04 R105). -/
def execShr (d a b : BitVec 6) (p : BitVec 4) (s : State) : Outcome State Fault Refusal := s.scalar2 d a b p 1 fun x y => x >>> shamt y
/-- SAR (04 R105). -/
def execSar (d a b : BitVec 6) (p : BitVec 4) (s : State) : Outcome State Fault Refusal := s.scalar2 d a b p 1 fun x y => x.sshiftRight (shamt y)
/-- ROL (04 R105). -/
def execRol (d a b : BitVec 6) (p : BitVec 4) (s : State) : Outcome State Fault Refusal := s.scalar2 d a b p 1 fun x y => x.rotateLeft (shamt y)
/-- MIN (04 R105). -/
def execMin (d a b : BitVec 6) (p : BitVec 4) (s : State) : Outcome State Fault Refusal := s.scalar2 d a b p 1 fun x y => if y.slt x then y else x
/-- MAX (04 R105). -/
def execMax (d a b : BitVec 6) (p : BitVec 4) (s : State) : Outcome State Fault Refusal := s.scalar2 d a b p 1 fun x y => if x.slt y then y else x
/-- MINU (04 R105). -/
def execMinu (d a b : BitVec 6) (p : BitVec 4) (s : State) : Outcome State Fault Refusal := s.scalar2 d a b p 1 fun x y => if y.ult x then y else x
/-- MAXU (04 R105). -/
def execMaxu (d a b : BitVec 6) (p : BitVec 4) (s : State) : Outcome State Fault Refusal := s.scalar2 d a b p 1 fun x y => if x.ult y then y else x

/-! ### R106, R107 -/

/-- MUL: the low 64 bits of the product (04 R106). -/
def execMul (d a b : BitVec 6) (p : BitVec 4) (s : State) : Outcome State Fault Refusal := s.scalar2 d a b p 3 fun x y => x * y
/-- MULH: the high 64 bits of the signed product (04 R106). -/
def execMulh (d a b : BitVec 6) (p : BitVec 4) (s : State) : Outcome State Fault Refusal :=
  s.scalar2 d a b p 3 fun x y => BitVec.ofInt 64 (x.toInt * y.toInt / 2 ^ 64)
/-- MULHU: the high 64 bits of the unsigned product (04 R106). -/
def execMulhu (d a b : BitVec 6) (p : BitVec 4) (s : State) : Outcome State Fault Refusal :=
  s.scalar2 d a b p 3 fun x y => BitVec.ofNat 64 (x.toNat * y.toNat / 2 ^ 64)
/-- DIV (04 R107). -/
def execDiv (d a b : BitVec 6) (p : BitVec 4) (s : State) : Outcome State Fault Refusal := s.divide d a b p divS
/-- DIVU (04 R107). -/
def execDivu (d a b : BitVec 6) (p : BitVec 4) (s : State) : Outcome State Fault Refusal := s.divide d a b p divU
/-- REM (04 R107). -/
def execRem (d a b : BitVec 6) (p : BitVec 4) (s : State) : Outcome State Fault Refusal := s.divide d a b p remS
/-- REMU (04 R107). -/
def execRemu (d a b : BitVec 6) (p : BitVec 4) (s : State) : Outcome State Fault Refusal := s.divide d a b p remU

/-! ### R108 -/

/-- CLZ (04 R108). -/
def execClz (d a : BitVec 6) (p : BitVec 4) (s : State) : Outcome State Fault Refusal := s.scalar1 d a p clz64
/-- CTZ (04 R108). -/
def execCtz (d a : BitVec 6) (p : BitVec 4) (s : State) : Outcome State Fault Refusal := s.scalar1 d a p ctz64
/-- POPC (04 R108). -/
def execPopc (d a : BitVec 6) (p : BitVec 4) (s : State) : Outcome State Fault Refusal := s.scalar1 d a p popc64
/-- SXB (04 R108). -/
def execSxb (d a : BitVec 6) (p : BitVec 4) (s : State) : Outcome State Fault Refusal := s.scalar1 d a p (sextLow 8)
/-- SXH (04 R108). -/
def execSxh (d a : BitVec 6) (p : BitVec 4) (s : State) : Outcome State Fault Refusal := s.scalar1 d a p (sextLow 16)
/-- SXW (04 R108). -/
def execSxw (d a : BitVec 6) (p : BitVec 4) (s : State) : Outcome State Fault Refusal := s.scalar1 d a p (sextLow 32)
/-- ZXB (04 R108). -/
def execZxb (d a : BitVec 6) (p : BitVec 4) (s : State) : Outcome State Fault Refusal := s.scalar1 d a p (zextLow 8)
/-- ZXH (04 R108). -/
def execZxh (d a : BitVec 6) (p : BitVec 4) (s : State) : Outcome State Fault Refusal := s.scalar1 d a p (zextLow 16)
/-- ZXW (04 R108). -/
def execZxw (d a : BitVec 6) (p : BitVec 4) (s : State) : Outcome State Fault Refusal := s.scalar1 d a p (zextLow 32)

/-! ### R109-R113 -/

/-- CMP.EQ (04 R109). -/
def execCmpEq (k : BitVec 4) (a b : BitVec 6) (p : BitVec 4) (s : State) : Outcome State Fault Refusal := s.compare2 k a b p fun x y => x == y
/-- CMP.NE (04 R109). -/
def execCmpNe (k : BitVec 4) (a b : BitVec 6) (p : BitVec 4) (s : State) : Outcome State Fault Refusal := s.compare2 k a b p fun x y => x != y
/-- CMP.LT (04 R109). -/
def execCmpLt (k : BitVec 4) (a b : BitVec 6) (p : BitVec 4) (s : State) : Outcome State Fault Refusal := s.compare2 k a b p BitVec.slt
/-- CMP.LE (04 R109). -/
def execCmpLe (k : BitVec 4) (a b : BitVec 6) (p : BitVec 4) (s : State) : Outcome State Fault Refusal := s.compare2 k a b p BitVec.sle
/-- CMP.LTU (04 R109). -/
def execCmpLtu (k : BitVec 4) (a b : BitVec 6) (p : BitVec 4) (s : State) : Outcome State Fault Refusal := s.compare2 k a b p BitVec.ult
/-- CMP.LEU (04 R109). -/
def execCmpLeu (k : BitVec 4) (a b : BitVec 6) (p : BitVec 4) (s : State) : Outcome State Fault Refusal := s.compare2 k a b p BitVec.ule

/-- SEL: chooses by bit 0 of a predicate (04 R110). -/
def execSel (d a b : BitVec 6) (k p : BitVec 4) (s : State) : Outcome State Fault Refusal :=
  let sel := s.now.bit0 k
  s.scalar2 d a b p 1 fun x y => if sel then x else y

/-- ADDI (04 R111). -/
def execAddi (d a : BitVec 6) (i : BitVec 14) (s : State) : Outcome State Fault Refusal := s.scalarI d a fun x => x + imm64 i
/-- ANDI (04 R111). -/
def execAndi (d a : BitVec 6) (i : BitVec 14) (s : State) : Outcome State Fault Refusal := s.scalarI d a fun x => x &&& imm64 i
/-- ORI (04 R111). -/
def execOri (d a : BitVec 6) (i : BitVec 14) (s : State) : Outcome State Fault Refusal := s.scalarI d a fun x => x ||| imm64 i
/-- XORI (04 R111). -/
def execXori (d a : BitVec 6) (i : BitVec 14) (s : State) : Outcome State Fault Refusal := s.scalarI d a fun x => x ^^^ imm64 i
/-- SHLI (04 R111). -/
def execShli (d a i : BitVec 6) (s : State) : Outcome State Fault Refusal := s.scalarI d a fun x => x <<< i.toNat
/-- SHRI (04 R111). -/
def execShri (d a i : BitVec 6) (s : State) : Outcome State Fault Refusal := s.scalarI d a fun x => x >>> i.toNat
/-- SARI (04 R111). -/
def execSari (d a i : BitVec 6) (s : State) : Outcome State Fault Refusal := s.scalarI d a fun x => x.sshiftRight i.toNat

/-- CMPEQI (04 R112). -/
def execCmpeqi (k : BitVec 4) (a : BitVec 6) (i : BitVec 14) (s : State) : Outcome State Fault Refusal := s.compareI k a fun x => x == imm64 i
/-- CMPLTI (04 R112). -/
def execCmplti (k : BitVec 4) (a : BitVec 6) (i : BitVec 14) (s : State) : Outcome State Fault Refusal := s.compareI k a fun x => x.slt (imm64 i)
/-- CMPLTUI (04 R112). -/
def execCmpltui (k : BitVec 4) (a : BitVec 6) (i : BitVec 14) (s : State) : Outcome State Fault Refusal := s.compareI k a fun x => x.ult (imm64 i)

/-- MOVI (04 R113). -/
def execMovi (d : BitVec 6) (h : BitVec 2) (i : BitVec 16) (s : State) : Outcome State Fault Refusal :=
  s.runSlot { sw := [d.toNat] } (.go [resS d.toNat 1 (i.setWidth 64 <<< (16 * h.toNat))])
/-- MOVK: reads and rewrites sd (04 R113). -/
def execMovk (d : BitVec 6) (h : BitVec 2) (i : BitVec 16) (s : State) : Outcome State Fault Refusal :=
  let m : W64 := 0xFFFF <<< (16 * h.toNat)
  s.runSlot { sr := [d.toNat], sw := [d.toNat] }
    (.go [resS d.toNat 1 ((s.now.rs d &&& ~~~ m) ||| (i.setWidth 64 <<< (16 * h.toNat)))])

/-! ### R114-R116 -/

/-- MOVSR: reads a special register (04 R114; 01 R29, R31). -/
def execMovsr (d : BitVec 6) (n : BitVec 12) (s : State) : Outcome State Fault Refusal :=
  s.runSlot { sw := [d.toNat], priv := specialHandler n.toNat && !s.now.handler } (.go [resS d.toNat 1 (s.special s.tid n.toNat)])
/-- MOVRS: writes a special register at commit (04 R114; 01 R31). -/
def execMovrs (a : BitVec 6) (n : BitVec 12) (s : State) : Outcome State Fault Refusal :=
  s.runSlot { sr := [a.toNat], xw := [n.toNat], priv := !specialWritable n.toNat } (.go [.sr n.toNat (s.now.rs a)])
/-- IBSET: an index base, seen from +2 (04 R115; 01 R23). -/
def execIbset (k : BitVec 1) (a : BitVec 6) (i : BitVec 14) (s : State) : Outcome State Fault Refusal :=
  s.runSlot { sr := [a.toNat], ib := [k.toNat] } (.go [.wr (.ib k.toNat) 2 ((s.now.rs a + imm64 i).setWidth 512 &&& 127) 0xFFFF])
/-- ALLOT: requests a vector allotment (04 R116; 01 R18, R19). -/
def execAllot (d a : BitVec 6) (i : BitVec 14) (s : State) : Outcome State Fault Refusal :=
  let v := s.now.rs a + imm64 i
  let r := s.allotResult s.now v
  s.runSlot { sr := [a.toNat], sw := [d.toNat], allot := true }
    (.go (resS d.toNat 1 r :: if r = v ∧ v ≠ 0 ∧ v ≠ 0xFFFFFFFFFFFFFFFF then [.allot v.toNat] else []))

end Sys2Proof.Machine
end

