-- ==== Sys2Proof/Machine/Vector.lean ====
section
/-! DEFINITION. The vector unit (04 R127-R142). -/

namespace Sys2Proof.Machine

open Host (Outcome)

/-! ### Shared forms (04 R127, R128) -/

/-- Values of the lanes that the guard admits, with the flags they raise. -/
def perLane (m : BitVec 16) (g : Nat → Nat × Nat) : VReg × Nat :=
  let r := (List.range 16).map fun i => if m.getLsbD i then g i else (0, 0)
  (fromLanes fun i => BitVec.ofNat 32 (r.getD i (0, 0)).1, r.foldl (fun f x => f ||| x.2) 0)

/-- Values of the elements that the guard admits: bit 2j decides. -/
def perElem (m : BitVec 16) (g : Nat → Nat × Nat) : VReg × Nat :=
  let r := (List.range 8).map fun j => if m.getLsbD (2 * j) then g j else (0, 0)
  (fromElems fun j => BitVec.ofNat 64 (r.getD j (0, 0)).1, r.foldl (fun f x => f ||| x.2) 0)

/-- The effects of a vector result: nothing where the mask admits no lane (02 R49), else the result and its flags. -/
def vecEffects (t : Task) (d : Nat) (off : Nat) (m : BitVec 16) (r : VReg × Nat) : List Effect :=
  (if m = 0 then [] else [resV t d off r.1 m]) ++ (if r.2 = 0 then [] else [.flags r.2])

/-- The effects of a predicate result under a guard. -/
def predEffects (k : BitVec 4) (off : Nat) (m v : BitVec 16) (fl : Nat) : List Effect :=
  (if m = 0 then [] else [resP k off v m]) ++ (if fl = 0 then [] else [.flags fl])

/-- A lane as a number. -/
def laneN (v : VReg) (i : Nat) : Nat := (lane v i).toNat
/-- An element as a number. -/
def elemN (v : VReg) (j : Nat) : Nat := (elem v j).toNat

/-- A two-operand operation on lanes: f takes the rounding mode and the operands. -/
def State.lanes2 (s : State) (d a b : BitVec 7) (p : BitVec 4) (x : BitVec 1) (off : Nat) (f : Nat → Nat → Nat → Nat × Nat) :
    Outcome State Fault Refusal :=
  let t := s.now
  let na := t.vaName a x
  let nb := t.vbName b x
  s.runSlot { ports := 2, vr := [na, nb], vw := [d.toNat] }
    (.go (vecEffects t d.toNat off (t.rp p) (perLane (t.rp p) fun i => f t.fpmode (laneN (t.rv na) i) (laneN (t.rv nb) i))))

/-- A two-operand operation on elements. -/
def State.elems2 (s : State) (d a b : BitVec 7) (p : BitVec 4) (x : BitVec 1) (off : Nat) (f : Nat → Nat → Nat → Nat × Nat) :
    Outcome State Fault Refusal :=
  let t := s.now
  let na := t.vaName a x
  let nb := t.vbName b x
  s.runSlot { ports := 2, vr := [na, nb], vw := [d.toNat] }
    (.go (vecEffects t d.toNat off (elemMask (t.rp p)) (perElem (t.rp p) fun j => f t.fpmode (elemN (t.rv na) j) (elemN (t.rv nb) j))))

/-- A one-operand operation on lanes. -/
def State.lanes1 (s : State) (d a : BitVec 7) (p : BitVec 4) (x : BitVec 1) (off : Nat) (f : Nat → Nat → Nat × Nat) :
    Outcome State Fault Refusal :=
  let t := s.now
  let na := t.vaName a x
  s.runSlot { ports := 1, vr := [na], vw := [d.toNat] }
    (.go (vecEffects t d.toNat off (t.rp p) (perLane (t.rp p) fun i => f t.fpmode (laneN (t.rv na) i))))

/-- A one-operand operation on elements; `src` names the operand of element j. -/
def State.elems1 (s : State) (d a : BitVec 7) (p : BitVec 4) (x : BitVec 1) (off : Nat) (src : VReg → Nat → Nat)
    (f : Nat → Nat → Nat × Nat) : Outcome State Fault Refusal :=
  let t := s.now
  let na := t.vaName a x
  s.runSlot { ports := 1, vr := [na], vw := [d.toNat] }
    (.go (vecEffects t d.toNat off (elemMask (t.rp p)) (perElem (t.rp p) fun j => f t.fpmode (src (t.rv na) j))))

/-- A whole-register operation of one operand that always writes every lane (04 R139, R141). -/
def State.whole1 (s : State) (d a : BitVec 7) (x : BitVec 1) (off : Nat) (f : Nat → VReg → VReg × Nat) : Outcome State Fault Refusal :=
  let t := s.now
  let na := t.vaName a x
  s.runSlot { ports := 1, vr := [na], vw := [d.toNat] } (.go (vecEffects t d.toNat off 0xFFFF (f t.fpmode (t.rv na))))

/-- A comparison of lanes into predicate bits (04 R131, R135). -/
def State.cmpLanes (s : State) (k : BitVec 4) (a b : BitVec 7) (p : BitVec 4) (x : BitVec 1) (off : Nat) (f : Nat → Nat → Bool × Nat) :
    Outcome State Fault Refusal :=
  let t := s.now
  let na := t.vaName a x
  let nb := t.vbName b x
  let m := t.rp p
  let r := (List.range 16).map fun i => if m.getLsbD i then f (laneN (t.rv na) i) (laneN (t.rv nb) i) else (false, 0)
  s.runSlot { ports := 2, vr := [na, nb], pw := [k.toNat] }
    (.go (predEffects k off m (BitVec.ofNat 16 (r.foldr (fun (y : Bool × Nat) n => b2n y.1 + 2 * n) 0)) (r.foldl (fun n y => n ||| y.2) 0)))

/-- A comparison of elements: element j writes bits 2j and 2j + 1 (04 R131). -/
def State.cmpElems (s : State) (k : BitVec 4) (a b : BitVec 7) (p : BitVec 4) (x : BitVec 1) (off : Nat) (f : Nat → Nat → Bool × Nat) :
    Outcome State Fault Refusal :=
  let t := s.now
  let na := t.vaName a x
  let nb := t.vbName b x
  let m := t.rp p
  let r := (List.range 8).map fun j => if m.getLsbD (2 * j) then f (elemN (t.rv na) j) (elemN (t.rv nb) j) else (false, 0)
  s.runSlot { ports := 2, vr := [na, nb], pw := [k.toNat] }
    (.go (predEffects k off (elemMask m) (BitVec.ofNat 16 (r.foldr (fun (y : Bool × Nat) n => 3 * b2n y.1 + 4 * n) 0))
      (r.foldl (fun n y => n ||| y.2) 0)))

/-- Sum of two encodings. -/
def Fmt.addE (g : Fmt) (rm x y : Nat) : Nat × Nat := g.add rm (g.decode x) (g.decode y)
/-- Difference of two encodings. -/
def Fmt.subE (g : Fmt) (rm x y : Nat) : Nat × Nat := g.add rm (g.decode x) (g.decode y).neg
/-- Product of two encodings. -/
def Fmt.mulE (g : Fmt) (rm x y : Nat) : Nat × Nat := g.mul rm (g.decode x) (g.decode y)
/-- z + x y with one rounding. -/
def Fmt.fmaE (g : Fmt) (rm z x y : Nat) : Nat × Nat := g.fma rm (g.decode z) (g.decode x) (g.decode y)

/-! ### R130, R131 -/

/-- FADD.f32 (04 R130). -/
def execFaddF32 (d a b : BitVec 7) (p : BitVec 4) (x : BitVec 1) (s : State) : Outcome State Fault Refusal := s.lanes2 d a b p x 4 Fmt.f32.addE
/-- FSUB.f32 (04 R130). -/
def execFsubF32 (d a b : BitVec 7) (p : BitVec 4) (x : BitVec 1) (s : State) : Outcome State Fault Refusal := s.lanes2 d a b p x 4 Fmt.f32.subE
/-- FMUL.f32 (04 R130). -/
def execFmulF32 (d a b : BitVec 7) (p : BitVec 4) (x : BitVec 1) (s : State) : Outcome State Fault Refusal := s.lanes2 d a b p x 4 Fmt.f32.mulE
/-- FFMA.f32: vd is the third operand (04 R130). -/
def execFfmaF32 (d a b : BitVec 7) (p : BitVec 4) (x : BitVec 1) (s : State) : Outcome State Fault Refusal :=
  let t := s.now
  let na := t.vaName a x
  let nb := t.vbName b x
  s.runSlot { ports := 3, vr := [na, nb, d.toNat], vw := [d.toNat] }
    (.go (vecEffects t d.toNat 4 (t.rp p) (perLane (t.rp p) fun i =>
      Fmt.f32.fmaE t.fpmode (laneN (t.rv d.toNat) i) (laneN (t.rv na) i) (laneN (t.rv nb) i))))
/-- FMIN.f32 (04 R130). -/
def execFminF32 (d a b : BitVec 7) (p : BitVec 4) (x : BitVec 1) (s : State) : Outcome State Fault Refusal :=
  s.lanes2 d a b p x 4 fun _ y z => Fmt.f32.minmax false y z
/-- FMAX.f32 (04 R130). -/
def execFmaxF32 (d a b : BitVec 7) (p : BitVec 4) (x : BitVec 1) (s : State) : Outcome State Fault Refusal :=
  s.lanes2 d a b p x 4 fun _ y z => Fmt.f32.minmax true y z
/-- FCMP.f32 (04 R131). -/
def execFcmpF32 (c : BitVec 3) (k : BitVec 4) (a b : BitVec 7) (p : BitVec 4) (x : BitVec 1) (s : State) : Outcome State Fault Refusal :=
  s.cmpLanes k a b p x 4 (Fmt.f32.cmp c.toNat)
/-- FADD.f64 (04 R130). -/
def execFaddF64 (d a b : BitVec 7) (p : BitVec 4) (x : BitVec 1) (s : State) : Outcome State Fault Refusal := s.elems2 d a b p x 6 Fmt.f64.addE
/-- FSUB.f64 (04 R130). -/
def execFsubF64 (d a b : BitVec 7) (p : BitVec 4) (x : BitVec 1) (s : State) : Outcome State Fault Refusal := s.elems2 d a b p x 6 Fmt.f64.subE
/-- FMUL.f64 (04 R130). -/
def execFmulF64 (d a b : BitVec 7) (p : BitVec 4) (x : BitVec 1) (s : State) : Outcome State Fault Refusal := s.elems2 d a b p x 6 Fmt.f64.mulE
/-- FFMA.f64 (04 R130). -/
def execFfmaF64 (d a b : BitVec 7) (p : BitVec 4) (x : BitVec 1) (s : State) : Outcome State Fault Refusal :=
  let t := s.now
  let na := t.vaName a x
  let nb := t.vbName b x
  s.runSlot { ports := 3, vr := [na, nb, d.toNat], vw := [d.toNat] }
    (.go (vecEffects t d.toNat 6 (elemMask (t.rp p)) (perElem (t.rp p) fun j =>
      Fmt.f64.fmaE t.fpmode (elemN (t.rv d.toNat) j) (elemN (t.rv na) j) (elemN (t.rv nb) j))))
/-- FMIN.f64 (04 R130). -/
def execFminF64 (d a b : BitVec 7) (p : BitVec 4) (x : BitVec 1) (s : State) : Outcome State Fault Refusal :=
  s.elems2 d a b p x 6 fun _ y z => Fmt.f64.minmax false y z
/-- FMAX.f64 (04 R130). -/
def execFmaxF64 (d a b : BitVec 7) (p : BitVec 4) (x : BitVec 1) (s : State) : Outcome State Fault Refusal :=
  s.elems2 d a b p x 6 fun _ y z => Fmt.f64.minmax true y z
/-- FCMP.f64 (04 R131). -/
def execFcmpF64 (c : BitVec 3) (k : BitVec 4) (a b : BitVec 7) (p : BitVec 4) (x : BitVec 1) (s : State) : Outcome State Fault Refusal :=
  s.cmpElems k a b p x 6 (Fmt.f64.cmp c.toNat)

/-! ### R132 -/

/-- ABS.f32 (04 R132). -/
def execAbsF32 (d a : BitVec 7) (p : BitVec 4) (x : BitVec 1) (s : State) : Outcome State Fault Refusal := s.lanes1 d a p x 8 (funF32 0)

/-- NEG.f32 (04 R132). -/
def execNegF32 (d a : BitVec 7) (p : BitVec 4) (x : BitVec 1) (s : State) : Outcome State Fault Refusal := s.lanes1 d a p x 8 (funF32 1)

/-- SQRT.f32 (04 R132). -/
def execSqrtF32 (d a : BitVec 7) (p : BitVec 4) (x : BitVec 1) (s : State) : Outcome State Fault Refusal := s.lanes1 d a p x 8 (funF32 2)

/-- RCP.f32 (04 R132). -/
def execRcpF32 (d a : BitVec 7) (p : BitVec 4) (x : BitVec 1) (s : State) : Outcome State Fault Refusal := s.lanes1 d a p x 8 (funF32 3)

/-- RSQ.f32 (04 R132). -/
def execRsqF32 (d a : BitVec 7) (p : BitVec 4) (x : BitVec 1) (s : State) : Outcome State Fault Refusal := s.lanes1 d a p x 8 (funF32 4)

/-- EXP2.f32 (04 R132). -/
def execExp2F32 (d a : BitVec 7) (p : BitVec 4) (x : BitVec 1) (s : State) : Outcome State Fault Refusal := s.lanes1 d a p x 8 (funF32 5)

/-- LOG2.f32 (04 R132). -/
def execLog2F32 (d a : BitVec 7) (p : BitVec 4) (x : BitVec 1) (s : State) : Outcome State Fault Refusal := s.lanes1 d a p x 8 (funF32 6)

/-- FLOOR.f32 (04 R132). -/
def execFloorF32 (d a : BitVec 7) (p : BitVec 4) (x : BitVec 1) (s : State) : Outcome State Fault Refusal := s.lanes1 d a p x 8 (funF32 7)

/-- CEIL.f32 (04 R132). -/
def execCeilF32 (d a : BitVec 7) (p : BitVec 4) (x : BitVec 1) (s : State) : Outcome State Fault Refusal := s.lanes1 d a p x 8 (funF32 8)

/-- RINT.f32 (04 R132). -/
def execRintF32 (d a : BitVec 7) (p : BitVec 4) (x : BitVec 1) (s : State) : Outcome State Fault Refusal := s.lanes1 d a p x 8 (funF32 9)

/-- TRUNC.f32 (04 R132). -/
def execTruncF32 (d a : BitVec 7) (p : BitVec 4) (x : BitVec 1) (s : State) : Outcome State Fault Refusal := s.lanes1 d a p x 8 (funF32 10)

/-! ### R133 -/

/-- FCVT selector 0 (04 R133). -/
def execFcvtBf16F32 (d a : BitVec 7) (p : BitVec 4) (x : BitVec 1) (s : State) : Outcome State Fault Refusal :=
  s.lanes1 d a p x 4 (fcvt 0)

/-- FCVT selector 1 (04 R133). -/
def execFcvtF16F32 (d a : BitVec 7) (p : BitVec 4) (x : BitVec 1) (s : State) : Outcome State Fault Refusal :=
  s.lanes1 d a p x 4 (fcvt 1)

/-- FCVT selector 2 (04 R133). -/
def execFcvtF32Bf16 (d a : BitVec 7) (p : BitVec 4) (x : BitVec 1) (s : State) : Outcome State Fault Refusal :=
  s.lanes1 d a p x 4 (fcvt 2)

/-- FCVT selector 3 (04 R133). -/
def execFcvtF32F16 (d a : BitVec 7) (p : BitVec 4) (x : BitVec 1) (s : State) : Outcome State Fault Refusal :=
  s.lanes1 d a p x 4 (fcvt 3)

/-- FCVT selector 4 (04 R133). -/
def execFcvtF64F32 (d a : BitVec 7) (p : BitVec 4) (x : BitVec 1) (s : State) : Outcome State Fault Refusal :=
  s.elems1 d a p x 4 (fun v j => laneN v (2 * j)) (fcvt 4)

/-- FCVT selector 5 (04 R133). -/
def execFcvtF32F64 (d a : BitVec 7) (p : BitVec 4) (x : BitVec 1) (s : State) : Outcome State Fault Refusal :=
  s.elems1 d a p x 4 elemN (fcvt 5)

/-- FCVT selector 6 (04 R133). -/
def execFcvtI32F32 (d a : BitVec 7) (p : BitVec 4) (x : BitVec 1) (s : State) : Outcome State Fault Refusal :=
  s.lanes1 d a p x 4 (fcvt 6)

/-- FCVT selector 7 (04 R133). -/
def execFcvtF32I32 (d a : BitVec 7) (p : BitVec 4) (x : BitVec 1) (s : State) : Outcome State Fault Refusal :=
  s.lanes1 d a p x 4 (fcvt 7)

/-- FCVT selector 8 (04 R133). -/
def execFcvtI64F64 (d a : BitVec 7) (p : BitVec 4) (x : BitVec 1) (s : State) : Outcome State Fault Refusal :=
  s.elems1 d a p x 4 elemN (fcvt 8)

/-- FCVT selector 9 (04 R133). -/
def execFcvtF64I64 (d a : BitVec 7) (p : BitVec 4) (x : BitVec 1) (s : State) : Outcome State Fault Refusal :=
  s.elems1 d a p x 4 elemN (fcvt 9)

/-- FCVT selector 10 (04 R133). -/
def execFcvtI32F32Rtz (d a : BitVec 7) (p : BitVec 4) (x : BitVec 1) (s : State) : Outcome State Fault Refusal :=
  s.lanes1 d a p x 4 (fcvt 10)

/-! ### R134, R135 -/

/-- An integer operation on lanes, its result taken modulo 2^32; it raises no flag (04 R128, R134). -/
def State.ilanes (s : State) (d a b : BitVec 7) (p : BitVec 4) (x : BitVec 1) (f : Word → Word → Word) : Outcome State Fault Refusal :=
  s.lanes2 d a b p x 2 fun _ y z => ((f (BitVec.ofNat 32 y) (BitVec.ofNat 32 z)).toNat, 0)

/-- IADD (04 R134). -/
def execIadd (d a b : BitVec 7) (p : BitVec 4) (x : BitVec 1) (s : State) : Outcome State Fault Refusal :=
  s.ilanes d a b p x fun y z => y + z
/-- ISUB (04 R134). -/
def execIsub (d a b : BitVec 7) (p : BitVec 4) (x : BitVec 1) (s : State) : Outcome State Fault Refusal :=
  s.ilanes d a b p x fun y z => y - z
/-- IMUL (04 R134). -/
def execImul (d a b : BitVec 7) (p : BitVec 4) (x : BitVec 1) (s : State) : Outcome State Fault Refusal :=
  s.ilanes d a b p x fun y z => y * z
/-- IMIN (04 R134). -/
def execImin (d a b : BitVec 7) (p : BitVec 4) (x : BitVec 1) (s : State) : Outcome State Fault Refusal :=
  s.ilanes d a b p x fun y z => if z.slt y then z else y
/-- IMAX (04 R134). -/
def execImax (d a b : BitVec 7) (p : BitVec 4) (x : BitVec 1) (s : State) : Outcome State Fault Refusal :=
  s.ilanes d a b p x fun y z => if y.slt z then z else y
/-- IMINU (04 R134). -/
def execIminu (d a b : BitVec 7) (p : BitVec 4) (x : BitVec 1) (s : State) : Outcome State Fault Refusal :=
  s.ilanes d a b p x fun y z => if z.ult y then z else y
/-- IMAXU (04 R134). -/
def execImaxu (d a b : BitVec 7) (p : BitVec 4) (x : BitVec 1) (s : State) : Outcome State Fault Refusal :=
  s.ilanes d a b p x fun y z => if y.ult z then z else y
/-- IAND (04 R134). -/
def execIand (d a b : BitVec 7) (p : BitVec 4) (x : BitVec 1) (s : State) : Outcome State Fault Refusal :=
  s.ilanes d a b p x fun y z => y &&& z
/-- IOR (04 R134). -/
def execIor (d a b : BitVec 7) (p : BitVec 4) (x : BitVec 1) (s : State) : Outcome State Fault Refusal :=
  s.ilanes d a b p x fun y z => y ||| z
/-- IXOR (04 R134). -/
def execIxor (d a b : BitVec 7) (p : BitVec 4) (x : BitVec 1) (s : State) : Outcome State Fault Refusal :=
  s.ilanes d a b p x fun y z => y ^^^ z
/-- ISHL (04 R134). -/
def execIshl (d a b : BitVec 7) (p : BitVec 4) (x : BitVec 1) (s : State) : Outcome State Fault Refusal :=
  s.ilanes d a b p x fun y z => y <<< (z.toNat % 32)
/-- ISHR (04 R134). -/
def execIshr (d a b : BitVec 7) (p : BitVec 4) (x : BitVec 1) (s : State) : Outcome State Fault Refusal :=
  s.ilanes d a b p x fun y z => y >>> (z.toNat % 32)
/-- ISAR (04 R134). -/
def execIsar (d a b : BitVec 7) (p : BitVec 4) (x : BitVec 1) (s : State) : Outcome State Fault Refusal :=
  s.ilanes d a b p x fun y z => y.sshiftRight (z.toNat % 32)
/-- ICMP (04 R135): 0 EQ, 1 NE, 2 LT, 3 LE, 4 GT, 5 GE, all signed, 6 LTU, 7 LEU. -/
def execIcmp (c : BitVec 3) (k : BitVec 4) (a b : BitVec 7) (p : BitVec 4) (x : BitVec 1) (s : State) : Outcome State Fault Refusal :=
  s.cmpLanes k a b p x 2 fun y z =>
    let u := BitVec.ofNat 32 y
    let v := BitVec.ofNat 32 z
    (match c.toNat with
      | 0 => u == v
      | 1 => u != v
      | 2 => u.slt v
      | 3 => u.sle v
      | 4 => v.slt u
      | 5 => v.sle u
      | 6 => u.ult v
      | _ => u.ule v, 0)

/-! ### R136-R138 -/

/-- VMOV (04 R136). -/
def execVmov (d a : BitVec 7) (p : BitVec 4) (x : BitVec 1) (s : State) : Outcome State Fault Refusal :=
  s.lanes1 d a p x 2 fun _ y => (y, 0)
/-- VSEL: the predicate selects, and every lane is written (04 R136). -/
def execVsel (d a b : BitVec 7) (k : BitVec 4) (x : BitVec 1) (s : State) : Outcome State Fault Refusal :=
  let t := s.now
  let na := t.vaName a x
  let nb := t.vbName b x
  s.runSlot { ports := 2, vr := [na, nb], vw := [d.toNat] }
    (.go [resV t d.toNat 2 (fromLanes fun i => if (t.rp k).getLsbD i then lane (t.rv na) i else lane (t.rv nb) i) 0xFFFF])
/-- VPERM (04 R137). -/
def execVperm (d a b : BitVec 7) (p : BitVec 4) (x : BitVec 1) (s : State) : Outcome State Fault Refusal :=
  let t := s.now
  let na := t.vaName a x
  let nb := t.vbName b x
  s.runSlot { ports := 2, vr := [na, nb], vw := [d.toNat] }
    (.go (vecEffects t d.toNat 2 (t.rp p) (perLane (t.rp p) fun i => (laneN (t.rv na) (laneN (t.rv nb) i % 16), 0))))
/-- VEXT: sixteen lanes of the concatenation, every lane written (04 R137). -/
def execVext (d a b : BitVec 7) (k : BitVec 4) (x : BitVec 1) (s : State) : Outcome State Fault Refusal :=
  let t := s.now
  let na := t.vaName a x
  let nb := t.vbName b x
  s.runSlot { ports := 2, vr := [na, nb], vw := [d.toNat] }
    (.go [resV t d.toNat 2 (fromLanes fun i => if i + k.toNat < 16 then lane (t.rv na) (i + k.toNat) else lane (t.rv nb) (i + k.toNat - 16)) 0xFFFF])
/-- VBCAST of a lane (04 R138). -/
def execVbcast (d a : BitVec 7) (l p : BitVec 4) (x : BitVec 1) (s : State) : Outcome State Fault Refusal :=
  let t := s.now
  let na := t.vaName a x
  s.runSlot { ports := 1, vr := [na], vw := [d.toNat] }
    (.go (vecEffects t d.toNat 2 (t.rp p) (fromLanes fun _ => lane (t.rv na) l.toNat, 0)))
/-- VBCAST.d of an element (04 R138). -/
def execVbcastD (d a : BitVec 7) (e : BitVec 3) (p : BitVec 4) (x : BitVec 1) (s : State) : Outcome State Fault Refusal :=
  let t := s.now
  let na := t.vaName a x
  s.runSlot { ports := 1, vr := [na], vw := [d.toNat] }
    (.go (vecEffects t d.toNat 2 (elemMask (t.rp p)) (fromElems fun _ => elem (t.rv na) e.toNat, 0)))
/-- VBCAST of a scalar register; R45 still counts one vector read (04 R138). -/
def execVbcastScalar (d : BitVec 7) (a : BitVec 6) (p : BitVec 4) (s : State) : Outcome State Fault Refusal :=
  let t := s.now
  s.runSlot { ports := 1, sr := [a.toNat], vw := [d.toNat] }
    (.go (vecEffects t d.toNat 2 (t.rp p) (fromLanes fun _ => (t.rs a).setWidth 32, 0)))
/-- VBCAST.d of a scalar register (04 R138). -/
def execVbcastDScalar (d : BitVec 7) (a : BitVec 6) (p : BitVec 4) (s : State) : Outcome State Fault Refusal :=
  let t := s.now
  s.runSlot { ports := 1, sr := [a.toNat], vw := [d.toNat] }
    (.go (vecEffects t d.toNat 2 (elemMask (t.rp p)) (fromElems fun _ => t.rs a, 0)))

/-! ### R139 -/

/-- combine(a, b) of 04 R139: an absent operand leaves the other; flags are collected. -/
def redPair (op : Nat → Nat → Nat × Nat) : Option Nat → Option Nat → Option Nat × Nat
  | none, y => (y, 0)
  | x, none => (x, 0)
  | some x, some y => let r := op x y
                      (some r.1, r.2)

/-- One level of the tree. -/
def combinePairs (op : Nat → Nat → Nat × Nat) : List (Option Nat) → List (Option Nat) × Nat
  | x :: y :: r =>
    let c := redPair op x y
    let q := combinePairs op r
    (c.1 :: q.1, c.2 ||| q.2)
  | r => (r, 0)

/-- tree(x[0..n-1]) of 04 R139 for n = 2^levels. -/
def redTree (op : Nat → Nat → Nat × Nat) : Nat → List (Option Nat) → Option Nat × Nat
  | 0, l => (l.getD 0 none, 0)
  | n + 1, l =>
    let c := combinePairs op l
    let r := redTree op n c.1
    (r.1, c.2 ||| r.2)

/-- A reduction of lanes; every lane receives the result, whatever the guard (04 R139). -/
def State.redLanes (s : State) (d a : BitVec 7) (p : BitVec 4) (x : BitVec 1) (absent : Nat) (op : Nat → Nat → Nat → Nat × Nat) :
    Outcome State Fault Refusal :=
  let m := s.now.rp p
  s.whole1 d a x 6 fun rm v =>
    let r := redTree (op rm) 4 ((List.range 16).map fun i => if m.getLsbD i then some (laneN v i) else none)
    (fromLanes fun _ => BitVec.ofNat 32 (r.1.getD absent), r.2)

/-- A signed lane operation as one on encodings. -/
def ilane (f : Word → Word → Word) (_ y z : Nat) : Nat × Nat := ((f (BitVec.ofNat 32 y) (BitVec.ofNat 32 z)).toNat, 0)

/-- VRED.fadd.f32 (04 R139). -/
def execVredFaddF32 (d a : BitVec 7) (p : BitVec 4) (x : BitVec 1) (s : State) : Outcome State Fault Refusal := s.redLanes d a p x 0 Fmt.f32.addE
/-- VRED.fmax.f32 (04 R139). -/
def execVredFmaxF32 (d a : BitVec 7) (p : BitVec 4) (x : BitVec 1) (s : State) : Outcome State Fault Refusal :=
  s.redLanes d a p x (Fmt.f32.inf true) fun _ y z => Fmt.f32.minmax true y z
/-- VRED.fmin.f32 (04 R139). -/
def execVredFminF32 (d a : BitVec 7) (p : BitVec 4) (x : BitVec 1) (s : State) : Outcome State Fault Refusal :=
  s.redLanes d a p x (Fmt.f32.inf false) fun _ y z => Fmt.f32.minmax false y z
/-- VRED.iadd (04 R139). -/
def execVredIadd (d a : BitVec 7) (p : BitVec 4) (x : BitVec 1) (s : State) : Outcome State Fault Refusal :=
  s.redLanes d a p x 0 (ilane fun y z => y + z)
/-- VRED.imax (04 R139). -/
def execVredImax (d a : BitVec 7) (p : BitVec 4) (x : BitVec 1) (s : State) : Outcome State Fault Refusal :=
  s.redLanes d a p x (2 ^ 31) (ilane fun y z => if y.slt z then z else y)
/-- VRED.imin (04 R139). -/
def execVredImin (d a : BitVec 7) (p : BitVec 4) (x : BitVec 1) (s : State) : Outcome State Fault Refusal :=
  s.redLanes d a p x (2 ^ 31 - 1) (ilane fun y z => if z.slt y then z else y)
/-- VRED.fadd.f64: every element receives the sum (04 R139). -/
def execVredFaddF64 (d a : BitVec 7) (p : BitVec 4) (x : BitVec 1) (s : State) : Outcome State Fault Refusal :=
  let m := s.now.rp p
  s.whole1 d a x 6 fun rm v =>
    let r := redTree (Fmt.f64.addE rm) 3 ((List.range 8).map fun j => if m.getLsbD (2 * j) then some (elemN v j) else none)
    (fromElems fun _ => BitVec.ofNat 64 (r.1.getD 0), r.2)

/-! ### R140-R142 -/

/-- One bits among the low n of a predicate. -/
def onesBelow (v : BitVec 16) (n : Nat) : Nat := ((List.range n).filter fun i => v.getLsbD i).length

/-- VIOTA (04 R140). -/
def execViota (d : BitVec 7) (k p : BitVec 4) (s : State) : Outcome State Fault Refusal :=
  let t := s.now
  s.runSlot { vw := [d.toNat] } (.go (vecEffects t d.toNat 2 (t.rp p) (fromLanes fun i => BitVec.ofNat 32 (onesBelow (t.rp k) i), 0)))
/-- PCNT (04 R140). -/
def execPcnt (d : BitVec 7) (k p : BitVec 4) (s : State) : Outcome State Fault Refusal :=
  let t := s.now
  s.runSlot { vw := [d.toNat] } (.go (vecEffects t d.toNat 2 (t.rp p) (fromLanes fun _ => BitVec.ofNat 32 (onesBelow (t.rp k) 16), 0)))

/-- VPLANE pack of 04 R141. -/
def planePack (h n : Nat) (v : VReg) : VReg :=
  let x (i : Nat) : Nat := intBits n (satInt n (signed 32 (laneN v i))).1
  fromLanes fun j =>
    if j < n then BitVec.ofNat 32 (((List.range 16).foldl (fun w i => w + x i / 2 ^ (n - 1 - j) % 2 * 2 ^ i) 0) * 2 ^ (16 * h)) else 0

/-- VPLANE unpack of 04 R141. -/
def planeUnpack (h n : Nat) (v : VReg) : VReg :=
  fromLanes fun i =>
    BitVec.ofNat 32 (intBits 32 (signed n ((List.range n).foldl (fun y j => y + laneN v j / 2 ^ (16 * h + i) % 2 * 2 ^ (n - 1 - j)) 0)))

/-- VPLANE.pack (04 R141). -/
def execVplanePack (d a : BitVec 7) (h : BitVec 1) (n : BitVec 4) (x : BitVec 1) (s : State) : Outcome State Fault Refusal :=
  s.whole1 d a x 2 fun _ v => (planePack h.toNat n.toNat v, 0)
/-- VPLANE.unpack (04 R141). -/
def execVplaneUnpack (d a : BitVec 7) (h : BitVec 1) (n : BitVec 4) (x : BitVec 1) (s : State) : Outcome State Fault Refusal :=
  s.whole1 d a x 2 fun _ v => (planeUnpack h.toNat n.toNat v, 0)

/-- A predicate operation: only guarded bits are written (04 R142). -/
def State.plog (s : State) (d p : BitVec 4) (v : BitVec 16) : Outcome State Fault Refusal :=
  s.runSlot { pw := [d.toNat] } (.go (predEffects d 1 (s.now.rp p) v 0))

/-- PAND (04 R142). -/
def execPand (d a b p : BitVec 4) (s : State) : Outcome State Fault Refusal := s.plog d p (s.now.rp a &&& s.now.rp b)
/-- POR (04 R142). -/
def execPor (d a b p : BitVec 4) (s : State) : Outcome State Fault Refusal := s.plog d p (s.now.rp a ||| s.now.rp b)
/-- PXOR (04 R142). -/
def execPxor (d a b p : BitVec 4) (s : State) : Outcome State Fault Refusal := s.plog d p (s.now.rp a ^^^ s.now.rp b)
/-- PANDN (04 R142). -/
def execPandn (d a b p : BitVec 4) (s : State) : Outcome State Fault Refusal := s.plog d p (s.now.rp a &&& ~~~ s.now.rp b)
/-- PNOT (04 R142). -/
def execPnot (d a p : BitVec 4) (s : State) : Outcome State Fault Refusal := s.plog d p (~~~ s.now.rp a)
/-- PMOV (04 R142). -/
def execPmov (d a p : BitVec 4) (s : State) : Outcome State Fault Refusal := s.plog d p (s.now.rp a)
/-- PSET (04 R142). -/
def execPset (d p : BitVec 4) (s : State) : Outcome State Fault Refusal := s.plog d p 0xFFFF
/-- PCLR (04 R142). -/
def execPclr (d p : BitVec 4) (s : State) : Outcome State Fault Refusal := s.plog d p 0

end Sys2Proof.Machine
end

