-- ==== Sys2Proof/Machine/Dispatch.lean ====
section
/-! DEFINITION. The meaning of every row of spec/opcode_table.json: one arm per constructor of Instr. -/

namespace Sys2Proof.Machine

/-- What an instruction, or a step of an engine, does. -/
def exec (i : Instr) (s : State) : Host.Outcome State Fault Refusal :=
  match i with
  | .nop => Sys2Proof.Machine.execNop s
  | .add d a b p => Sys2Proof.Machine.execAdd d a b p s
  | .sub d a b p => Sys2Proof.Machine.execSub d a b p s
  | .and d a b p => Sys2Proof.Machine.execAnd d a b p s
  | .or d a b p => Sys2Proof.Machine.execOr d a b p s
  | .xor d a b p => Sys2Proof.Machine.execXor d a b p s
  | .andn d a b p => Sys2Proof.Machine.execAndn d a b p s
  | .shl d a b p => Sys2Proof.Machine.execShl d a b p s
  | .shr d a b p => Sys2Proof.Machine.execShr d a b p s
  | .sar d a b p => Sys2Proof.Machine.execSar d a b p s
  | .rol d a b p => Sys2Proof.Machine.execRol d a b p s
  | .min d a b p => Sys2Proof.Machine.execMin d a b p s
  | .max d a b p => Sys2Proof.Machine.execMax d a b p s
  | .minu d a b p => Sys2Proof.Machine.execMinu d a b p s
  | .maxu d a b p => Sys2Proof.Machine.execMaxu d a b p s
  | .mul d a b p => Sys2Proof.Machine.execMul d a b p s
  | .mulh d a b p => Sys2Proof.Machine.execMulh d a b p s
  | .mulhu d a b p => Sys2Proof.Machine.execMulhu d a b p s
  | .div d a b p => Sys2Proof.Machine.execDiv d a b p s
  | .divu d a b p => Sys2Proof.Machine.execDivu d a b p s
  | .rem d a b p => Sys2Proof.Machine.execRem d a b p s
  | .remu d a b p => Sys2Proof.Machine.execRemu d a b p s
  | .clz d a p => Sys2Proof.Machine.execClz d a p s
  | .ctz d a p => Sys2Proof.Machine.execCtz d a p s
  | .popc d a p => Sys2Proof.Machine.execPopc d a p s
  | .sxb d a p => Sys2Proof.Machine.execSxb d a p s
  | .sxh d a p => Sys2Proof.Machine.execSxh d a p s
  | .sxw d a p => Sys2Proof.Machine.execSxw d a p s
  | .zxb d a p => Sys2Proof.Machine.execZxb d a p s
  | .zxh d a p => Sys2Proof.Machine.execZxh d a p s
  | .zxw d a p => Sys2Proof.Machine.execZxw d a p s
  | .cmpEq k a b p => Sys2Proof.Machine.execCmpEq k a b p s
  | .cmpNe k a b p => Sys2Proof.Machine.execCmpNe k a b p s
  | .cmpLt k a b p => Sys2Proof.Machine.execCmpLt k a b p s
  | .cmpLe k a b p => Sys2Proof.Machine.execCmpLe k a b p s
  | .cmpLtu k a b p => Sys2Proof.Machine.execCmpLtu k a b p s
  | .cmpLeu k a b p => Sys2Proof.Machine.execCmpLeu k a b p s
  | .sel d a b k p => Sys2Proof.Machine.execSel d a b k p s
  | .addi d a im => Sys2Proof.Machine.execAddi d a im s
  | .andi d a im => Sys2Proof.Machine.execAndi d a im s
  | .ori d a im => Sys2Proof.Machine.execOri d a im s
  | .xori d a im => Sys2Proof.Machine.execXori d a im s
  | .shli d a im => Sys2Proof.Machine.execShli d a im s
  | .shri d a im => Sys2Proof.Machine.execShri d a im s
  | .sari d a im => Sys2Proof.Machine.execSari d a im s
  | .cmpeqi k a im => Sys2Proof.Machine.execCmpeqi k a im s
  | .cmplti k a im => Sys2Proof.Machine.execCmplti k a im s
  | .cmpltui k a im => Sys2Proof.Machine.execCmpltui k a im s
  | .movi d h im => Sys2Proof.Machine.execMovi d h im s
  | .movk d h im => Sys2Proof.Machine.execMovk d h im s
  | .movsr d n => Sys2Proof.Machine.execMovsr d n s
  | .movrs a n => Sys2Proof.Machine.execMovrs a n s
  | .ibset k a im => Sys2Proof.Machine.execIbset k a im s
  | .allot d a im => Sys2Proof.Machine.execAllot d a im s
  | .br p im => Sys2Proof.Machine.execBr p im s
  | .brl p im => Sys2Proof.Machine.execBrl p im s
  | .jr a p => Sys2Proof.Machine.execJr a p s
  | .jrl a p => Sys2Proof.Machine.execJrl a p s
  | .loop a im => Sys2Proof.Machine.execLoop a im s
  | .loopr a sz im => Sys2Proof.Machine.execLoopr a sz im s
  | .brtop p im => Sys2Proof.Machine.execBrtop p im s
  | .lexit p im => Sys2Proof.Machine.execLexit p im s
  | .trap a im => Sys2Proof.Machine.execTrap a im s
  | .endTask => Sys2Proof.Machine.execEndTask s
  | .eret => Sys2Proof.Machine.execEret s
  | .faddF32 d a b p x => Sys2Proof.Machine.execFaddF32 d a b p x s
  | .fsubF32 d a b p x => Sys2Proof.Machine.execFsubF32 d a b p x s
  | .fmulF32 d a b p x => Sys2Proof.Machine.execFmulF32 d a b p x s
  | .ffmaF32 d a b p x => Sys2Proof.Machine.execFfmaF32 d a b p x s
  | .fminF32 d a b p x => Sys2Proof.Machine.execFminF32 d a b p x s
  | .fmaxF32 d a b p x => Sys2Proof.Machine.execFmaxF32 d a b p x s
  | .fcmpF32 c k a b p x => Sys2Proof.Machine.execFcmpF32 c k a b p x s
  | .faddF64 d a b p x => Sys2Proof.Machine.execFaddF64 d a b p x s
  | .fsubF64 d a b p x => Sys2Proof.Machine.execFsubF64 d a b p x s
  | .fmulF64 d a b p x => Sys2Proof.Machine.execFmulF64 d a b p x s
  | .ffmaF64 d a b p x => Sys2Proof.Machine.execFfmaF64 d a b p x s
  | .fminF64 d a b p x => Sys2Proof.Machine.execFminF64 d a b p x s
  | .fmaxF64 d a b p x => Sys2Proof.Machine.execFmaxF64 d a b p x s
  | .fcmpF64 c k a b p x => Sys2Proof.Machine.execFcmpF64 c k a b p x s
  | .absF32 d a p x => Sys2Proof.Machine.execAbsF32 d a p x s
  | .negF32 d a p x => Sys2Proof.Machine.execNegF32 d a p x s
  | .sqrtF32 d a p x => Sys2Proof.Machine.execSqrtF32 d a p x s
  | .rcpF32 d a p x => Sys2Proof.Machine.execRcpF32 d a p x s
  | .rsqF32 d a p x => Sys2Proof.Machine.execRsqF32 d a p x s
  | .exp2F32 d a p x => Sys2Proof.Machine.execExp2F32 d a p x s
  | .log2F32 d a p x => Sys2Proof.Machine.execLog2F32 d a p x s
  | .floorF32 d a p x => Sys2Proof.Machine.execFloorF32 d a p x s
  | .ceilF32 d a p x => Sys2Proof.Machine.execCeilF32 d a p x s
  | .rintF32 d a p x => Sys2Proof.Machine.execRintF32 d a p x s
  | .truncF32 d a p x => Sys2Proof.Machine.execTruncF32 d a p x s
  | .fcvtBf16F32 d a p x => Sys2Proof.Machine.execFcvtBf16F32 d a p x s
  | .fcvtF16F32 d a p x => Sys2Proof.Machine.execFcvtF16F32 d a p x s
  | .fcvtF32Bf16 d a p x => Sys2Proof.Machine.execFcvtF32Bf16 d a p x s
  | .fcvtF32F16 d a p x => Sys2Proof.Machine.execFcvtF32F16 d a p x s
  | .fcvtF64F32 d a p x => Sys2Proof.Machine.execFcvtF64F32 d a p x s
  | .fcvtF32F64 d a p x => Sys2Proof.Machine.execFcvtF32F64 d a p x s
  | .fcvtI32F32 d a p x => Sys2Proof.Machine.execFcvtI32F32 d a p x s
  | .fcvtF32I32 d a p x => Sys2Proof.Machine.execFcvtF32I32 d a p x s
  | .fcvtI64F64 d a p x => Sys2Proof.Machine.execFcvtI64F64 d a p x s
  | .fcvtF64I64 d a p x => Sys2Proof.Machine.execFcvtF64I64 d a p x s
  | .fcvtI32F32Rtz d a p x => Sys2Proof.Machine.execFcvtI32F32Rtz d a p x s
  | .iadd d a b p x => Sys2Proof.Machine.execIadd d a b p x s
  | .isub d a b p x => Sys2Proof.Machine.execIsub d a b p x s
  | .imul d a b p x => Sys2Proof.Machine.execImul d a b p x s
  | .imin d a b p x => Sys2Proof.Machine.execImin d a b p x s
  | .imax d a b p x => Sys2Proof.Machine.execImax d a b p x s
  | .iminu d a b p x => Sys2Proof.Machine.execIminu d a b p x s
  | .imaxu d a b p x => Sys2Proof.Machine.execImaxu d a b p x s
  | .iand d a b p x => Sys2Proof.Machine.execIand d a b p x s
  | .ior d a b p x => Sys2Proof.Machine.execIor d a b p x s
  | .ixor d a b p x => Sys2Proof.Machine.execIxor d a b p x s
  | .ishl d a b p x => Sys2Proof.Machine.execIshl d a b p x s
  | .ishr d a b p x => Sys2Proof.Machine.execIshr d a b p x s
  | .isar d a b p x => Sys2Proof.Machine.execIsar d a b p x s
  | .icmp c k a b p x => Sys2Proof.Machine.execIcmp c k a b p x s
  | .vmov d a p x => Sys2Proof.Machine.execVmov d a p x s
  | .vsel d a b k x => Sys2Proof.Machine.execVsel d a b k x s
  | .vperm d a b p x => Sys2Proof.Machine.execVperm d a b p x s
  | .vbcast d a l p x => Sys2Proof.Machine.execVbcast d a l p x s
  | .vbcastD d a e p x => Sys2Proof.Machine.execVbcastD d a e p x s
  | .vbcastScalar d a p => Sys2Proof.Machine.execVbcastScalar d a p s
  | .vbcastDScalar d a p => Sys2Proof.Machine.execVbcastDScalar d a p s
  | .vext d a b k x => Sys2Proof.Machine.execVext d a b k x s
  | .vredFaddF32 d a p x => Sys2Proof.Machine.execVredFaddF32 d a p x s
  | .vredFmaxF32 d a p x => Sys2Proof.Machine.execVredFmaxF32 d a p x s
  | .vredFminF32 d a p x => Sys2Proof.Machine.execVredFminF32 d a p x s
  | .vredIadd d a p x => Sys2Proof.Machine.execVredIadd d a p x s
  | .vredImax d a p x => Sys2Proof.Machine.execVredImax d a p x s
  | .vredImin d a p x => Sys2Proof.Machine.execVredImin d a p x s
  | .vredFaddF64 d a p x => Sys2Proof.Machine.execVredFaddF64 d a p x s
  | .viota d k p => Sys2Proof.Machine.execViota d k p s
  | .vplanePack d a h n x => Sys2Proof.Machine.execVplanePack d a h n x s
  | .vplaneUnpack d a h n x => Sys2Proof.Machine.execVplaneUnpack d a h n x s
  | .pand d a b p => Sys2Proof.Machine.execPand d a b p s
  | .por d a b p => Sys2Proof.Machine.execPor d a b p s
  | .pxor d a b p => Sys2Proof.Machine.execPxor d a b p s
  | .pandn d a b p => Sys2Proof.Machine.execPandn d a b p s
  | .pnot d a p => Sys2Proof.Machine.execPnot d a p s
  | .pmov d a p => Sys2Proof.Machine.execPmov d a p s
  | .pset d p => Sys2Proof.Machine.execPset d p s
  | .pclr d p => Sys2Proof.Machine.execPclr d p s
  | .pcnt d k p => Sys2Proof.Machine.execPcnt d k p s
  | .ld d b sz im => Sys2Proof.Machine.execLd d b sz im s
  | .ldz d b sz im => Sys2Proof.Machine.execLdz d b sz im s
  | .st d b sz im => Sys2Proof.Machine.execSt d b sz im s
  | .vld d b im => Sys2Proof.Machine.execVld d b im s
  | .vst d b im => Sys2Proof.Machine.execVst d b im s
  | .vlds d b x im => Sys2Proof.Machine.execVlds d b x im s
  | .vsts d b x im => Sys2Proof.Machine.execVsts d b x im s
  | .vgth d b x sz => Sys2Proof.Machine.execVgth d b x sz s
  | .vsct d b x sz => Sys2Proof.Machine.execVsct d b x sz s
  | .fil d b sz im => Sys2Proof.Machine.execFil d b sz im s
  | .spl d b sz im => Sys2Proof.Machine.execSpl d b sz im s
  | .vfil d b im => Sys2Proof.Machine.execVfil d b im s
  | .vspl d b im => Sys2Proof.Machine.execVspl d b im s
  | .oclaim k d f => Sys2Proof.Machine.execOclaim k d f s
  | .orelease k => Sys2Proof.Machine.execOrelease k s
  | .ofill k b x => Sys2Proof.Machine.execOfill k b x s
  | .ostat d k => Sys2Proof.Machine.execOstat d k s
  | .scld b sz im => Sys2Proof.Machine.execScld b sz im s
  | .bfmt d a n => Sys2Proof.Machine.execBfmt d a n s
  | .aadd d b x u sz => Sys2Proof.Machine.execAadd d b x u sz s
  | .amin d b x u sz => Sys2Proof.Machine.execAmin d b x u sz s
  | .amax d b x u sz => Sys2Proof.Machine.execAmax d b x u sz s
  | .aand d b x u sz => Sys2Proof.Machine.execAand d b x u sz s
  | .aor d b x u sz => Sys2Proof.Machine.execAor d b x u sz s
  | .axchg d b x u sz => Sys2Proof.Machine.execAxchg d b x u sz s
  | .acas d b x u sz => Sys2Proof.Machine.execAcas d b x u sz s
  | .aaddf d b x sz => Sys2Proof.Machine.execAaddf d b x sz s
  | .fencePackage => Sys2Proof.Machine.execFencePackage s
  | .fenceSystem => Sys2Proof.Machine.execFenceSystem s
  | .fencex e l => Sys2Proof.Machine.execFencex e l s
  | .mset a m => Sys2Proof.Machine.execMset a m s
  | .mma c a b z sz => Sys2Proof.Machine.execMma c a b z sz s
  | .mmas c a b m z sz => Sys2Proof.Machine.execMmas c a b m z sz s
  | .mret c a d f k => Sys2Proof.Machine.execMret c a d f k s
  | .mretv c v d f k => Sys2Proof.Machine.execMretv c v d f k s
  | .mzero c => Sys2Proof.Machine.execMzero c s
  | .mdrain => Sys2Proof.Machine.execMdrain s
  | .mlda c a => Sys2Proof.Machine.execMlda c a s
  | .msta c a => Sys2Proof.Machine.execMsta c a s
  | .rfwd d a => Sys2Proof.Machine.execRfwd d a s
  | .rrev d h r c => Sys2Proof.Machine.execRrev d h r c s
  | .rchk d a l => Sys2Proof.Machine.execRchk d a l s
  | .mchanScrub => Sys2Proof.Machine.execMchanScrub s
  | .mchanThresh a => Sys2Proof.Machine.execMchanThresh a s
  | .mchanClear a => Sys2Proof.Machine.execMchanClear a s
  | .mchanFail a sz => Sys2Proof.Machine.execMchanFail a sz s
  | .minj a w c h => Sys2Proof.Machine.execMinj a w c h s
  | .cset q f a => Sys2Proof.Machine.execCset q f a s
  | .cshape q a => Sys2Proof.Machine.execCshape q a s
  | .cgo q a b => Sys2Proof.Machine.execCgo q a b s
  | .cwp q d a => Sys2Proof.Machine.execCwp q d a s
  | .cwait q d => Sys2Proof.Machine.execCwait q d s
  | .crec q d => Sys2Proof.Machine.execCrec q d s
  | .ccan a => Sys2Proof.Machine.execCcan a s
  | .fork a => Sys2Proof.Machine.execFork a s
  | .join d a => Sys2Proof.Machine.execJoin d a s
  | .next d => Sys2Proof.Machine.execNext d s
  | .yield => Sys2Proof.Machine.execYield s
  | .watch d a b t => Sys2Proof.Machine.execWatch d a b t s
  | .bara n => Sys2Proof.Machine.execBara n s
  | .barw d a n => Sys2Proof.Machine.execBarw d a n s
  | .bari a n => Sys2Proof.Machine.execBari a n s
  | .xenq d a b => Sys2Proof.Machine.execXenq d a b s
  | .xcfgLoad d a b => Sys2Proof.Machine.execXcfgLoad d a b s
  | .xcfgHalt d a => Sys2Proof.Machine.execXcfgHalt d a s
  | .xcfgResume d a => Sys2Proof.Machine.execXcfgResume d a s
  | .xcfgPurge d a => Sys2Proof.Machine.execXcfgPurge d a s
  | .xcfgOff d a => Sys2Proof.Machine.execXcfgOff d a s
  | .xstat d a f => Sys2Proof.Machine.execXstat d a f s
  | .xdisp d a => Sys2Proof.Machine.execXdisp d a s
  | .xpref a b l => Sys2Proof.Machine.execXpref a b l s
  | .xcan a => Sys2Proof.Machine.execXcan a s
  | .tcreate d a => Sys2Proof.Machine.execTcreate d a s
  | .tdestroy d a => Sys2Proof.Machine.execTdestroy d a s
  | .tedit d a b => Sys2Proof.Machine.execTedit d a b s
  | .tpost a b => Sys2Proof.Machine.execTpost a b s
  | .twait d a => Sys2Proof.Machine.execTwait d a s
  | .tfreeze d a => Sys2Proof.Machine.execTfreeze d a s
  | .tsave d a b => Sys2Proof.Machine.execTsave d a b s
  | .trestore d a b => Sys2Proof.Machine.execTrestore d a b s
  | .tqry d a f => Sys2Proof.Machine.execTqry d a f s
  | .rld d a => Sys2Proof.Machine.execRld d a s
  | .rst d a => Sys2Proof.Machine.execRst d a s
  | .ratom d a b u z o => Sys2Proof.Machine.execRatom d a b u z o s
  | .rfence d a => Sys2Proof.Machine.execRfence d a s
  | .rfenceAll d => Sys2Proof.Machine.execRfenceAll d s
  | .fsend d a => Sys2Proof.Machine.execFsend d a s
  | .fclk d a f => Sys2Proof.Machine.execFclk d a f s
  | .hsig a v => Sys2Proof.Machine.execHsig a v s
  | .rgnctlCreate a b => Sys2Proof.Machine.execRgnctlCreate a b s
  | .rgnctlDestroy a b => Sys2Proof.Machine.execRgnctlDestroy a b s
  | .rgnctlLaunch a b => Sys2Proof.Machine.execRgnctlLaunch a b s
  | .rgnctlPreempt a b => Sys2Proof.Machine.execRgnctlPreempt a b s
  | .rgnctlPark a b => Sys2Proof.Machine.execRgnctlPark a b s
  | .rgnctlResume a b => Sys2Proof.Machine.execRgnctlResume a b s
  | .rgnctlKill a b => Sys2Proof.Machine.execRgnctlKill a b s
  | .rgnctlReload a b => Sys2Proof.Machine.execRgnctlReload a b s
  | .rgnctlQuery a b => Sys2Proof.Machine.execRgnctlQuery a b s
  | .xlinv d a b => Sys2Proof.Machine.execXlinv d a b s
  | .xlinvForce d a b => Sys2Proof.Machine.execXlinvForce d a b s
  | .xlpin d a b => Sys2Proof.Machine.execXlpin d a b s
  | .xlunpin d a b => Sys2Proof.Machine.execXlunpin d a b s
  | .idleBundle => Sys2Proof.Machine.execIdleBundle s
  | .ofillRow => Sys2Proof.Machine.execOfillRow s
  | .msetExecute => Sys2Proof.Machine.execMsetExecute s
  | .kstepStart => Sys2Proof.Machine.execKstepStart s
  | .kstepMerge => Sys2Proof.Machine.execKstepMerge s
  | .retirement => Sys2Proof.Machine.execRetirement s
  | .mzeroExecute => Sys2Proof.Machine.execMzeroExecute s
  | .mldaExecute => Sys2Proof.Machine.execMldaExecute s
  | .mstaExecute => Sys2Proof.Machine.execMstaExecute s
  | .mchanExecute => Sys2Proof.Machine.execMchanExecute s
  | .minjExecute => Sys2Proof.Machine.execMinjExecute s
  | .copyRecordRead => Sys2Proof.Machine.execCopyRecordRead s
  | .selectTileRead => Sys2Proof.Machine.execSelectTileRead s
  | .copySectorWrite => Sys2Proof.Machine.execCopySectorWrite s
  | .copyFaultResolved => Sys2Proof.Machine.execCopyFaultResolved s
  | .followOnPresent => Sys2Proof.Machine.execFollowOnPresent s
  | .copyCompletion => Sys2Proof.Machine.execCopyCompletion s
  | .watchTimeout => Sys2Proof.Machine.execWatchTimeout s
  | .xprefUnit => Sys2Proof.Machine.execXprefUnit s
  | .sumpAdmit => Sys2Proof.Machine.execSumpAdmit s
  | .sumpAgeDue => Sys2Proof.Machine.execSumpAgeDue s
  | .firingDecision => Sys2Proof.Machine.execFiringDecision s
  | .treeSourceRead => Sys2Proof.Machine.execTreeSourceRead s
  | .treeChunkArrive => Sys2Proof.Machine.execTreeChunkArrive s
  | .treeSlotRefill => Sys2Proof.Machine.execTreeSlotRefill s
  | .treeReplicate => Sys2Proof.Machine.execTreeReplicate s
  | .treeDelivery => Sys2Proof.Machine.execTreeDelivery s
  | .treeDataError => Sys2Proof.Machine.execTreeDataError s
  | .resultArrival => Sys2Proof.Machine.execResultArrival s
  | .holdSuspend => Sys2Proof.Machine.execHoldSuspend s
  | .replayEntryInject => Sys2Proof.Machine.execReplayEntryInject s
  | .trapAction => Sys2Proof.Machine.execTrapAction s
  | .replayResume => Sys2Proof.Machine.execReplayResume s
  | .forwardDelivery => Sys2Proof.Machine.execForwardDelivery s
  | .preemptRequest => Sys2Proof.Machine.execPreemptRequest s
  | .freeze => Sys2Proof.Machine.execFreeze s
  | .lateFreeze => Sys2Proof.Machine.execLateFreeze s
  | .taskSave => Sys2Proof.Machine.execTaskSave s
  | .taskRestore => Sys2Proof.Machine.execTaskRestore s
  | .taskPlacement => Sys2Proof.Machine.execTaskPlacement s
  | .quantumExpiry => Sys2Proof.Machine.execQuantumExpiry s
  | .joinRelief => Sys2Proof.Machine.execJoinRelief s
  | .tileRefill => Sys2Proof.Machine.execTileRefill s
  | .controlDiverge => Sys2Proof.Machine.execControlDiverge s
  | .lsAccessSend => Sys2Proof.Machine.execLsAccessSend s
  | .pageWalk => Sys2Proof.Machine.execPageWalk s
  | .pclkTick => Sys2Proof.Machine.execPclkTick s
  | .pclkRaise => Sys2Proof.Machine.execPclkRaise s
  | .taskClockTick => Sys2Proof.Machine.execTaskClockTick s
  | .l2Eviction => Sys2Proof.Machine.execL2Eviction s
  | .backInvalidationResponse => Sys2Proof.Machine.execBackInvalidationResponse s
  | .hostRead => Sys2Proof.Machine.execHostRead s
  | .hostWrite => Sys2Proof.Machine.execHostWrite s
  | .faultSlotOpen => Sys2Proof.Machine.execFaultSlotOpen s
  | .faultDisposition => Sys2Proof.Machine.execFaultDisposition s
  | .remoteRequest => Sys2Proof.Machine.execRemoteRequest s
  | .remoteErrorReply => Sys2Proof.Machine.execRemoteErrorReply s
  | .remoteUnreachable => Sys2Proof.Machine.execRemoteUnreachable s
  | .sendFlit => Sys2Proof.Machine.execSendFlit s
  | .sendLinePerform => Sys2Proof.Machine.execSendLinePerform s
  | .snoteAdd => Sys2Proof.Machine.execSnoteAdd s
  | .flitReceive => Sys2Proof.Machine.execFlitReceive s
  | .stopGoSignal => Sys2Proof.Machine.execStopGoSignal s
  | .wavelengthWindow => Sys2Proof.Machine.execWavelengthWindow s
  | .retrainTrigger => Sys2Proof.Machine.execRetrainTrigger s
  | .stripeSwitch => Sys2Proof.Machine.execStripeSwitch s
  | .wavelengthWithdraw => Sys2Proof.Machine.execWavelengthWithdraw s
  | .retrainAdaptationEnd => Sys2Proof.Machine.execRetrainAdaptationEnd s
  | .retrainTestEnd => Sys2Proof.Machine.execRetrainTestEnd s
  | .wavelengthHandback => Sys2Proof.Machine.execWavelengthHandback s
  | .slotBoundary => Sys2Proof.Machine.execSlotBoundary s
  | .guardEnd => Sys2Proof.Machine.execGuardEnd s
  | .windowClose => Sys2Proof.Machine.execWindowClose s
  | .transitReinject => Sys2Proof.Machine.execTransitReinject s
  | .ftimeLock => Sys2Proof.Machine.execFtimeLock s
  | .lockLoss => Sys2Proof.Machine.execLockLoss s
  | .slotTable => Sys2Proof.Machine.execSlotTable s
  | .tableActivation => Sys2Proof.Machine.execTableActivation s
  | .packageIdentifier => Sys2Proof.Machine.execPackageIdentifier s
  | .peerTable => Sys2Proof.Machine.execPeerTable s
  | .launch => Sys2Proof.Machine.execLaunch s
  | .createRoot => Sys2Proof.Machine.execCreateRoot s
  | .controlDestroy => Sys2Proof.Machine.execControlDestroy s
  | .controlLaunch => Sys2Proof.Machine.execControlLaunch s
  | .controlPreempt => Sys2Proof.Machine.execControlPreempt s
  | .controlPark => Sys2Proof.Machine.execControlPark s
  | .controlResume => Sys2Proof.Machine.execControlResume s
  | .controlKill => Sys2Proof.Machine.execControlKill s
  | .controlReload => Sys2Proof.Machine.execControlReload s
  | .paramPtroot => Sys2Proof.Machine.execParamPtroot s
  | .paramFqbase => Sys2Proof.Machine.execParamFqbase s
  | .paramTtbase => Sys2Proof.Machine.execParamTtbase s
  | .paramLease => Sys2Proof.Machine.execParamLease s
  | .paramEvqbase => Sys2Proof.Machine.execParamEvqbase s
  | .paramEvqlen => Sys2Proof.Machine.execParamEvqlen s
  | .paramErrbase => Sys2Proof.Machine.execParamErrbase s
  | .paramErrlen => Sys2Proof.Machine.execParamErrlen s
  | .paramSevmat => Sys2Proof.Machine.execParamSevmat s
  | .paramPcap => Sys2Proof.Machine.execParamPcap s
  | .resync => Sys2Proof.Machine.execResync s
  | .reset => Sys2Proof.Machine.execReset s
  | .checkpoint => Sys2Proof.Machine.execCheckpoint s
  | .restore => Sys2Proof.Machine.execRestore s
  | .attest => Sys2Proof.Machine.execAttest s
  | .registerWrite => Sys2Proof.Machine.execRegisterWrite s
  | .moduleBoot => Sys2Proof.Machine.execModuleBoot s
  | .recoveryImage => Sys2Proof.Machine.execRecoveryImage s
  | .capBroadcast => Sys2Proof.Machine.execCapBroadcast s
  | .rankSet => Sys2Proof.Machine.execRankSet s
  | .clockLimit => Sys2Proof.Machine.execClockLimit s
  | .linkRetry => Sys2Proof.Machine.execLinkRetry s
  | .linkDown => Sys2Proof.Machine.execLinkDown s
  | .clusterFailure => Sys2Proof.Machine.execClusterFailure s
  | .memoryError => Sys2Proof.Machine.execMemoryError s
  | .redunCompare => Sys2Proof.Machine.execRedunCompare s
  | .linkRecovery => Sys2Proof.Machine.execLinkRecovery s
  | .hostWriteCompletion => Sys2Proof.Machine.execHostWriteCompletion s
  | .remoteAcknowledgement => Sys2Proof.Machine.execRemoteAcknowledgement s
  | .regulatorPhaseFailure => Sys2Proof.Machine.execRegulatorPhaseFailure s
  | .ownCap => Sys2Proof.Machine.execOwnCap s

end Sys2Proof.Machine
end

