-- ==== Sys2Proof/Machine/Step.lean ====
section
/-! DEFINITION. One step of the machine, and the placement of one instruction where it is fetched next (notes/assumptions/4, 5). -/

namespace Sys2Proof.Machine

open Host (Outcome)

/-- The core whose turn it is takes it. -/
def State.coreTurn (s : State) : Option (Outcome State Fault Refusal) :=
  s.nextCore.map fun c => { s with cur := c }.pick.takeTurn exec

/-- An engine takes the step whose turn it is. -/
def State.ownTurn (s : State) : Option (Outcome State Fault Refusal) :=
  s.nextOwn.map fun (x : Timed) => exec x.1 { s with arg := x.2 }

/-- The first turn that can be taken; where none can, a cycle passes. -/
def State.oneOf (s : State) (a b : Option (Outcome State Fault Refusal)) : Outcome State Fault Refusal :=
  match a, b with
  | some x, _ => x
  | none, some y => y
  | none, none => .next (s.tick 1)

/-- One step: what the agenda names next; else a core's turn and an engine's step, in turn. A slot instruction has no place on the
agenda and is dropped. -/
def step (s : State) : Outcome State Fault Refusal :=
  match s.agenda with
  | (i, a) :: r =>
    if i.slotKind = .event then s.concluded (exec i { s with agenda := r, arg := a }) else .next { s with agenda := r }
  | [] =>
    let s1 := { s with turn := s.turn + 1 }
    s1.concluded (if s.turn % 2 = 0 then s1.oneOf s1.coreTurn s1.ownTurn else s1.oneOf s1.ownTurn s1.coreTurn)

/-- The header of a bundle of one slot, with the read ports that its word needs (02 R41, R46). -/
def loneHeader (sl : Slot) (w : BitVec 32) : Nat :=
  let n := vectorReads sl w
  2 ^ sl.num + (match sl with
    | .va => n * 2 ^ 18
    | .vb => n * 2 ^ 16
    | .mx => n * 2 ^ 14
    | .ls => (if n = 0 then 0 else 2 ^ 15) + (if n = 2 then 2 ^ 14 else 0)
    | .nw => n * 2 ^ 12
    | _ => 0)

/-- The bytes of a packet whose one bundle holds one slot word (02 R36-R41). -/
def lonePacket (sl : Slot) (w : BitVec 32) : List Byte :=
  natLe 4 0xA0000001 ++ natLe 4 (loneHeader sl w) ++ natLe 4 w.toNat

/-- The physical address of the page that `withFetchWord` uses. -/
def fetchPage : Nat := 0x10000

/-- The state with an instruction word where the next step fetches: a packet of one bundle at virtual address 0 of partition 0, which
a pin maps, and a task that stands at it on core 0, in a privileged region. Nothing waits before it. -/
def State.withFetchWord (s : State) (_nbits w : Nat) : State :=
  let x := BitVec.ofNat 32 w
  let sl := match firstSlot x with
    | some y => y.1
    | none => .sa
  let p := s.part 0
  let k := s.core 0
  { s with
    agenda := []
    turn := 0
    cur := 2 ^ 20
    ntid := max s.ntid 2
    mem := memPutBytes s.mem fetchPage (lonePacket sl x ++ natLe 52 0)
    parts := tabPut s.parts 0 { p with dies := p.dies ||| 1, pins := tabPut p.pins 0 { entry := fetchPage + 0x1F, k := 0, counts := [(1, 1)] } }
    regions := tabPut s.regions 1 { id := 1, flags := 4, dies := 1 }
    tasks := tabPut s.tasks 1 { tid := 1, region := 1, started := true, vn := 128, cmask := 0xFF, qmask := 0xF, nicheKiB := 8, pc := 1 }
    cores := tabPut s.cores 0 { k with tasks := [1], cur := 1, wait := 0, stall := 0 } }

end Sys2Proof.Machine
end

