-- ==== Sys2Proof/Safety.lean ====
section
/-! DEFINITION. What counts as a safe run, and the terms that claims use. -/

namespace Sys2Proof.Machine

/-- The machine goes on: no fault, no refusal. -/
def State.goesOn (s : State) : Prop := ∃ t, step s = .next t

/-- The invariant of a step: the memory keeps its canonical form, so that equal contents are equal data. -/
def State.Inv (s : State) : Prop := Memory.wf s.mem = true

/-- A run of any length goes on from every state it reaches. -/
def State.safe (s : State) : Prop := ∀ n, ∃ t, Host.Core.run Sys2Proof.core n s = .next t

/-! ### A bundle of one slot word -/

/-- The word looked at is the only one of its bundle, and a task stands behind it. -/
def State.alone (s : State) : Bool := s.tid != 0 && s.bun.left == 0 && s.bun.logs.isEmpty

/-- Where the bundle closes a loop level, both ways out of it lead to bundles. -/
def State.closesWell (s : State) : Bool :=
  s.now.loops.getLast?.all fun l => l.last != s.bun.pc || (!s.targetBad s.now l.first && !s.targetBad s.now s.bun.next)

/-- A bundle of one slot word passes every stage of 02 R59 before execution, with the operands that its shape names. -/
def State.admits (s : State) (sh : Shape) : Bool :=
  s.alone && (match sh.target with | some pc => !s.targetBad s.now pc | none => true) && (sh.target.isSome || s.closesWell) && sh.pend.isNone &&
  { s.bun with logs := [{ slot := s.bun.slot, shape := sh, out := .go [] }] }.headerOk && !sh.bad && !sh.priv &&
  (s.now.outside sh).isNone && sh.noreg.isNone &&
  ((s.now.readsOf sh).all fun d => !s.now.isEmpty d && !s.now.isFailed d) && (s.now.writesOf sh).all fun d => !s.now.isEmpty d

/-- Nothing waits to be settled at the end of a step: no severity action, no request, no checkpoint, no return of a stopped task. -/
def State.calm (s : State) : Bool :=
  s.doom.isEmpty && (s.regions.all fun r => r.2.waiting.isEmpty) && (s.parts.all fun p => p.2.ck.isNone) &&
  s.tasks.all fun t => t.2.redo.isNone

/-- The current task has no result on its way. -/
def State.quiet (s : State) : Bool := s.now.flights.isEmpty && s.now.prods.isEmpty

/-- The bundle is not the last of the innermost loop level. -/
def State.straight (s : State) : Bool := !(s.now.loops.getLast?.any fun l => l.last == s.bun.pc)

/-- A bundle of one slot word of this shape runs, and nothing else of the machine moves in its step. -/
def State.clear (s : State) (sh : Shape) : Bool := s.admits sh && s.calm && s.quiet && s.straight

/-- A bundle of one slot word of this shape runs; results of its task may be on their way. -/
def State.ready (s : State) (sh : Shape) : Bool := s.admits sh && s.calm && s.straight

/-- A bundle of one slot word of this shape runs, and no result of its task is on its way; it may be the last of a loop's body. -/
def State.able (s : State) (sh : Shape) : Bool := s.admits sh && s.calm && s.quiet

/-- The state after a bundle's effects `u`, once its task has moved on: no transfer, no loop closure. -/
def State.passed (u : State) (n : Nat) (b : Bundle) : State := (u.putTask n (((u.task n).issued b).bump)).tick 1

/-- A task after `n` further bundles that launch nothing. -/
def Task.later (t : Task) : Nat → Task
  | 0 => t
  | n + 1 => t.bump.later n

/-- A register result: its destination, the bundle from which it is usable counted from its own (02 R60), its value, its lanes. -/
structure Res where
  dst  : Dest
  off  : Nat
  val  : VReg
  mask : BitVec 16 := 0xFFFF
  deriving DecidableEq, Repr

/-- A task's registers as its `k`-th bundle from now sees them, where this result is the only one on its way. -/
def Task.wrote (t : Task) (r : Option Res) (k : Nat) : Task :=
  match r with
  | some r => if r.off ≤ k then t.put r.dst r.val r.mask else t
  | none => t

/-- Two tasks hold the same in every register, predicate and index base. -/
structure Task.SameRegs (t u : Task) : Prop where
  scalars : ∀ n, t.getS n = u.getS n
  vectors : ∀ n, t.getV n = u.getV n
  preds   : ∀ n, t.getP n = u.getP n
  bases   : t.ib0 = u.ib0 ∧ t.ib1 = u.ib1

/-- What of a task a register result leaves alone. -/
structure Task.SameRest (t u : Task) : Prop where
  modes : t.fpmode = u.fpmode ∧ t.rotBase = u.rotBase ∧ t.rotSize = u.rotSize ∧ t.vn = u.vn ∧ t.loops = u.loops
  bits  : t.sEmpty = u.sEmpty ∧ t.vEmpty = u.vEmpty ∧ t.sFail = u.sFail ∧ t.vFail = u.vFail
  store : t.niche = u.niche ∧ t.lsq = u.lsq ∧ t.handles = u.handles ∧ t.prods = u.prods
  held  : t.cmask = u.cmask ∧ t.qmask = u.qmask ∧ t.hostPend = u.hostPend ∧ t.clks = u.clks ∧ t.handler = u.handler
  place : t.status = u.status ∧ t.core = u.core ∧ t.pts = u.pts ∧ t.trec = u.trec ∧ t.rec8 = u.rec8 ∧ t.steps = u.steps

/-- Everything outside the tasks and the clock is as it was: memory, cores, dies, partitions, regions, engines, ports, the host's side. -/
structure State.SameWorld (s t : State) : Prop where
  mem    : t.mem = s.mem
  cores  : t.cores = s.cores
  others : ∀ x, x ≠ s.tid → t.task x = s.task x
  dies   : t.dies = s.dies ∧ t.bars = s.bars ∧ t.sumps = s.sumps ∧ t.trees = s.trees ∧ t.ctlb = s.ctlb ∧ t.served = s.served ∧ t.refills = s.refills
  owners : t.parts = s.parts ∧ t.regions = s.regions ∧ t.banks = s.banks ∧ t.algr = s.algr ∧ t.bargr = s.bargr ∧ t.sumpgr = s.sumpgr
  order  : t.stamps = s.stamps ∧ t.copies = s.copies ∧ t.snoop = s.snoop ∧ t.bad = s.bad ∧ t.dirty = s.dirty ∧ t.binv = s.binv ∧ t.recalls = s.recalls ∧ t.rowAt = s.rowAt ∧
    t.putOff = s.putOff
  fabric : t.ports = s.ports ∧ t.fab = s.fab ∧ t.rops = s.rops ∧ t.sendqs = s.sendqs ∧ t.rerr = s.rerr ∧ t.outbox = s.outbox ∧ t.transit = s.transit ∧ t.xpts = s.xpts ∧
    t.recvs = s.recvs
  host   : t.boot = s.boot ∧ t.link = s.link ∧ t.power = s.power ∧ t.runs = s.runs ∧ t.doom = s.doom

/-- `t` follows `s` by a bundle whose whole effect is one register result, or none, and the flags `fl`: every register reads as if that
write alone had been made, however many bundles later one looks, and the task goes on at the next bundle. -/
structure State.Gives (s t : State) (r : Option Res) (fl : Nat) : Prop where
  regs  : ∀ k, ((t.task s.tid).later k).SameRegs (s.now.wrote r (k + 1))
  flags : (t.task s.tid).fpflags = s.now.fpflags ||| fl
  rest  : (t.task s.tid).SameRest s.now
  pc    : (t.task s.tid).pc = s.bun.next
  world : s.SameWorld t

/-- `t` follows `s` by a bundle after which its task stands as `u`, but for the one register result `r` on its way; its core pays
`stall` cycles, and nothing else of the machine has changed. -/
structure State.Leads (s t : State) (u : Task) (r : Option Res) (stall : Nat) : Prop where
  regs  : ∀ k, ((t.task s.tid).later k).SameRegs (u.wrote r (k + 1))
  flags : (t.task s.tid).fpflags = u.fpflags
  rest  : (t.task s.tid).SameRest u
  pc    : (t.task s.tid).pc = u.pc
  cores : ∀ c, t.core c = if c = s.now.core then { s.core c with stall := (s.core c).stall + stall } else s.core c
  world : s.SameWorld { t with cores := s.cores }

end Sys2Proof.Machine
end

