-- ==== Sys2Proof/Certificates/Slice0/Obligations.lean ====
section
/-! DEFINITION. The statements about the machine, and the tables of the spec's rules in which they are written: what a family of
instructions names, reads and comes to, in integers where the rule speaks of integers. -/

namespace Sys2Proof.Rules

open Sys2Proof Sys2Proof.Machine

/-- The instruction runs: its outcome is a next state, in which this holds. -/
def Runs (i : Instr) (s : State) (post : State → Prop) : Prop := ∃ t, exec i s = .next t ∧ post t

/-- A 64-bit register result of an integer, modulo 2^64 (04 R105). -/
def reg64 (d : BitVec 6) (off : Nat) (v : Int) : Res := { dst := .s d.toNat, off := off, val := (BitVec.ofInt 64 v).setWidth 512 }

/-- A predicate names bit 0 as one: the guard of a scalar instruction (01 R9; 04 R102). -/
def on (t : Task) (p : BitVec 4) : Bool := (t.getP p.toNat).getLsbD 0

/-- A result under the guard of an SR-format instruction: none where bit 0 of the predicate is 0 (04 R102; 02 R49). -/
def guarded (t : Task) (p : BitVec 4) (r : Res) : Option Res := if on t p then some r else none

/-- A word of format SR (02 R50). -/
def srWord (op d a b fn p : Nat) : BitVec 32 := BitVec.ofNat 32 (op * 2 ^ 26 + d * 2 ^ 20 + a * 2 ^ 14 + b * 2 ^ 8 + fn * 2 ^ 4 + p)
/-- A word of format SI (02 R50). -/
def siWord (op d a i : Nat) : BitVec 32 := BitVec.ofNat 32 (op * 2 ^ 26 + d * 2 ^ 20 + a * 2 ^ 14 + i)
/-- A word of format VR (02 R50). -/
def vrWord (op d a b p x : Nat) : BitVec 32 := BitVec.ofNat 32 (op * 2 ^ 26 + d * 2 ^ 19 + a * 2 ^ 12 + b * 2 ^ 5 + p * 2 + x)
/-- A word of format CF (02 R50). -/
def cfWord (op q fs a b : Nat) : BitVec 32 := BitVec.ofNat 32 (op * 2 ^ 26 + q * 2 ^ 24 + fs * 2 ^ 18 + a * 2 ^ 12 + b * 2 ^ 6)
/-- Every one of these slots reads the word as the instruction. -/
def Reads (sls : List Slot) (w : BitVec 32) (i : Instr) : Prop := ∀ sl ∈ sls, decodeSlot sl w = .ok i
/-- Every one of these slots refuses the word for a field: ILLEGAL-SLOT at stage 3 (02 R51, R59). -/
def RefusesField (sls : List Slot) (w : BitVec 32) : Prop := ∀ sl ∈ sls, decodeSlot sl w = .error .field

/-! ### Scalar tables (04 R105-R113) -/

/-- Form `op sd, sa, sb` of format SR. -/
abbrev TwoReg := BitVec 6 → BitVec 6 → BitVec 6 → BitVec 4 → Instr
/-- Form `op sd, sa` of format SR. -/
abbrev OneReg := BitVec 6 → BitVec 6 → BitVec 4 → Instr

/-- The two-register operations: the offset of 02 R60, and the integer f(a, b) of 04 R105 and R106. -/
def twoReg : List (TwoReg × Nat × (W64 → W64 → Int)) := [
  (.add, 1, fun x y => x.toNat + y.toNat),
  (.sub, 1, fun x y => (x.toNat : Int) - y.toNat),
  (.and, 1, fun x y => (x.toNat &&& y.toNat : Nat)),
  (.or, 1, fun x y => (x.toNat ||| y.toNat : Nat)),
  (.xor, 1, fun x y => (x.toNat ^^^ y.toNat : Nat)),
  (.andn, 1, fun x y => (x.toNat &&& (2 ^ 64 - 1 - y.toNat) : Nat)),
  (.shl, 1, fun x y => (x.toNat * 2 ^ (y.toNat % 64) : Nat)),
  (.shr, 1, fun x y => (x.toNat / 2 ^ (y.toNat % 64) : Nat)),
  (.sar, 1, fun x y => x.toInt / 2 ^ (y.toNat % 64)),
  (.rol, 1, fun x y => (x.toNat * 2 ^ (y.toNat % 64) + x.toNat / 2 ^ (64 - y.toNat % 64) : Nat)),
  (.min, 1, fun x y => min x.toInt y.toInt),
  (.max, 1, fun x y => max x.toInt y.toInt),
  (.minu, 1, fun x y => (min x.toNat y.toNat : Nat)),
  (.maxu, 1, fun x y => (max x.toNat y.toNat : Nat)),
  (.mul, 3, fun x y => x.toInt * y.toInt),
  (.mulh, 3, fun x y => x.toInt * y.toInt / 2 ^ 64),
  (.mulhu, 3, fun x y => (x.toNat * y.toNat / 2 ^ 64 : Nat))]

/-- The one-register operations of 04 R108: a bit count by its defining property, or an extension. -/
def oneReg : List (OneReg × (W64 → Nat → Prop)) := [
  (.clz, fun x n => n ≤ 64 ∧ x.toNat < 2 ^ (64 - n) ∧ (n = 64 ∨ 2 ^ (63 - n) ≤ x.toNat)),
  (.ctz, fun x n => n ≤ 64 ∧ x.toNat % 2 ^ n = 0 ∧ (n = 64 ∨ x.toNat / 2 ^ n % 2 = 1)),
  (.popc, fun x n => n = ((List.range 64).map fun i => x.toNat / 2 ^ i % 2).sum),
  (.sxb, fun x n => (n : Int) = (BitVec.ofNat 8 x.toNat).toInt % 2 ^ 64),
  (.sxh, fun x n => (n : Int) = (BitVec.ofNat 16 x.toNat).toInt % 2 ^ 64),
  (.sxw, fun x n => (n : Int) = (BitVec.ofNat 32 x.toNat).toInt % 2 ^ 64),
  (.zxb, fun x n => n = x.toNat % 2 ^ 8),
  (.zxh, fun x n => n = x.toNat % 2 ^ 16),
  (.zxw, fun x n => n = x.toNat % 2 ^ 32)]

/-- The operations with a 14-bit immediate j = sext(imm14) (04 R111). -/
def withImm : List ((BitVec 6 → BitVec 6 → BitVec 14 → Instr) × (W64 → Int → Int)) := [
  (.addi, fun x j => x.toNat + j),
  (.andi, fun x j => (x.toNat &&& (j % 2 ^ 64).toNat : Nat)),
  (.ori, fun x j => (x.toNat ||| (j % 2 ^ 64).toNat : Nat)),
  (.xori, fun x j => (x.toNat ^^^ (j % 2 ^ 64).toNat : Nat))]

/-- The shifts by an immediate amount (04 R111). -/
def shiftImm : List ((BitVec 6 → BitVec 6 → BitVec 6 → Instr) × (W64 → Nat → Int)) := [
  (.shli, fun x n => (x.toNat * 2 ^ n : Nat)),
  (.shri, fun x n => (x.toNat / 2 ^ n : Nat)),
  (.sari, fun x n => x.toInt / 2 ^ n)]

/-- The compares of two registers (04 R109). -/
def compares : List ((BitVec 4 → BitVec 6 → BitVec 6 → BitVec 4 → Instr) × (W64 → W64 → Prop)) := [
  (.cmpEq, fun x y => x.toNat = y.toNat),
  (.cmpNe, fun x y => x.toNat ≠ y.toNat),
  (.cmpLt, fun x y => x.toInt < y.toInt),
  (.cmpLe, fun x y => x.toInt ≤ y.toInt),
  (.cmpLtu, fun x y => x.toNat < y.toNat),
  (.cmpLeu, fun x y => x.toNat ≤ y.toNat)]

/-- The compares with an immediate j = sext(imm14) (04 R112). -/
def comparesImm : List ((BitVec 4 → BitVec 6 → BitVec 14 → Instr) × (W64 → Int → Prop)) := [
  (.cmpeqi, fun x j => (x.toNat : Int) = j % 2 ^ 64),
  (.cmplti, fun x j => x.toInt < j),
  (.cmpltui, fun x j => (x.toNat : Int) < j % 2 ^ 64)]

/-- The divisions of 04 R107: quotient or remainder, and the fixed results of its table. -/
def divides : List (TwoReg × (W64 → W64 → Int)) := [
  (.div, fun x y => if y.toInt = 0 then -1 else x.toInt.tdiv y.toInt),
  (.divu, fun x y => if y.toNat = 0 then 2 ^ 64 - 1 else (x.toNat / y.toNat : Nat)),
  (.rem, fun x y => if y.toInt = 0 then x.toInt else x.toInt - y.toInt * x.toInt.tdiv y.toInt),
  (.remu, fun x y => if y.toNat = 0 then x.toNat else x.toNat - y.toNat * (x.toNat / y.toNat : Nat))]

/-- A predicate that a condition decides: all ones where it holds, all zeros where not (04 R104). -/
def Decides (c : Prop) (v : VReg) : Prop := (c → v = 0xFFFF) ∧ (¬ c → v = 0)

/-! ### Vector tables (04 R127-R142) -/

/-- A vector name after rotation: names below ROTSIZE turn by ROTBASE (01 R21). -/
def turned (t : Task) (d : BitVec 7) : Nat :=
  if d.toNat < t.rotSize then (d.toNat + t.rotSize - t.rotBase) % t.rotSize else d.toNat

/-- The register that a `va` or `vb` field reads: with ix its index base is added modulo the allotment, then it turns (01 R21). -/
def readsVec (t : Task) (f : BitVec 7) (base : Nat) (x : BitVec 1) : VReg :=
  let n := if x = 1 then (f.toNat + base) % t.vn else f.toNat
  t.getV (if n < t.rotSize then (n + t.rotSize - t.rotBase) % t.rotSize else n)

/-- The name that stage 4 checks for a field (01 R17, R21). -/
def named (t : Task) (f : BitVec 7) (base : Nat) (x : BitVec 1) : Nat := if x = 1 then (f.toNat + base) % t.vn else f.toNat

/-- A vector result: none where its mask admits no lane (02 R49). -/
def vecRes (t : Task) (d : BitVec 7) (off : Nat) (m : BitVec 16) (v : VReg) : Option Res :=
  if m = 0 then none else some { dst := .v (turned t d), off := off, val := v, mask := m }

/-- A predicate result: only the bits of its mask. -/
def predRes (k : BitVec 4) (off : Nat) (m v : BitVec 16) : Option Res :=
  if m = 0 then none else some { dst := .p k.toNat, off := off, val := v.setWidth 512, mask := m }

/-- Flags ORed over the units that a mask admits. -/
def orFlags (n : Nat) (on : Nat → Bool) (g : Nat → Nat) : Nat := ((List.range n).filter on).foldr (fun i f => g i ||| f) 0

/-- The values and flags of the lanes that a guard admits (04 R127, R128). -/
def ByLane (m : BitVec 16) (g : Nat → Nat × Nat) (v : VReg) (fl : Nat) : Prop :=
  (∀ i < 16, m.getLsbD i = true → lane v i = BitVec.ofNat 32 (g i).1) ∧ fl = orFlags 16 (fun i => m.getLsbD i) fun i => (g i).2

/-- The same of elements: bit 2j of the guard decides on element j (04 R127). -/
def ByElem (m : BitVec 16) (g : Nat → Nat × Nat) (v : VReg) (fl : Nat) : Prop :=
  (∀ j < 8, m.getLsbD (2 * j) = true → elem v j = BitVec.ofNat 64 (g j).1) ∧ fl = orFlags 8 (fun j => m.getLsbD (2 * j)) fun j => (g j).2

/-- The lanes of the active elements. -/
def pairMask (m : BitVec 16) : BitVec 16 := (m &&& 0x5555) ||| ((m &&& 0x5555) <<< 1)

/-- Form `op vd, va, vb`. -/
abbrev VecOp2 := BitVec 7 → BitVec 7 → BitVec 7 → BitVec 4 → BitVec 1 → Instr
/-- Form `op vd, va`. -/
abbrev VecOp1 := BitVec 7 → BitVec 7 → BitVec 4 → BitVec 1 → Instr

/-- x + y in a format, rounded once (04 R130). -/
def fadd (f : Fmt) (rm x y : Nat) : Nat × Nat := f.add rm (f.decode x) (f.decode y)
/-- x - y. -/
def fsub (f : Fmt) (rm x y : Nat) : Nat × Nat := f.add rm (f.decode x) (f.decode y).neg
/-- x y. -/
def fmul (f : Fmt) (rm x y : Nat) : Nat × Nat := f.mul rm (f.decode x) (f.decode y)
/-- z + x y with one rounding. -/
def ffma (f : Fmt) (rm z x y : Nat) : Nat × Nat := f.fma rm (f.decode z) (f.decode x) (f.decode y)

/-- The floating-point operations on lanes, of two operands (04 R130). -/
def floatLanes : List (VecOp2 × (Nat → Nat → Nat → Nat × Nat)) := [
  (.faddF32, fadd .f32), (.fsubF32, fsub .f32), (.fmulF32, fmul .f32),
  (.fminF32, fun _ => Fmt.f32.minmax false), (.fmaxF32, fun _ => Fmt.f32.minmax true)]

/-- The same on elements (04 R130). -/
def floatElems : List (VecOp2 × (Nat → Nat → Nat → Nat × Nat)) := [
  (.faddF64, fadd .f64), (.fsubF64, fsub .f64), (.fmulF64, fmul .f64),
  (.fminF64, fun _ => Fmt.f64.minmax false), (.fmaxF64, fun _ => Fmt.f64.minmax true)]

/-- FUN.f32 and the conversions that stay in a lane: offset, and the function of mode and operand (04 R132, R133). -/
def unaryLanes : List (VecOp1 × Nat × (Nat → Nat → Nat × Nat)) := [
  (.absF32, 8, funF32 0), (.negF32, 8, funF32 1), (.sqrtF32, 8, fun rm x => Fmt.f32.sqrt rm (Fmt.f32.decode x)),
  (.rcpF32, 8, fun rm x => Fmt.f32.rcp rm (Fmt.f32.decode x)), (.rsqF32, 8, fun rm x => Fmt.f32.rsq rm (Fmt.f32.decode x)),
  (.exp2F32, 8, fun rm x => Fmt.f32.exp2 rm (Fmt.f32.decode x)), (.log2F32, 8, fun rm x => Fmt.f32.log2 rm (Fmt.f32.decode x)),
  (.floorF32, 8, fun _ => Fmt.f32.integral 3 false), (.ceilF32, 8, fun _ => Fmt.f32.integral 2 false),
  (.rintF32, 8, fun rm => Fmt.f32.integral rm true), (.truncF32, 8, fun _ => Fmt.f32.integral 1 false),
  (.fcvtBf16F32, 4, Fmt.f32.conv .bf16), (.fcvtF16F32, 4, Fmt.f32.conv .f16),
  (.fcvtF32Bf16, 4, fun rm x => Fmt.bf16.conv .f32 rm (x % 2 ^ 16)), (.fcvtF32F16, 4, fun rm x => Fmt.f16.conv .f32 rm (x % 2 ^ 16)),
  (.fcvtI32F32, 4, fun rm x => (((Fmt.f32.toInt 32 rm x).1 % 2 ^ 32).toNat, (Fmt.f32.toInt 32 rm x).2)),
  (.fcvtF32I32, 4, fun rm x => Fmt.f32.fromInt rm (BitVec.ofNat 32 x).toInt),
  (.fcvtI32F32Rtz, 4, fun _ x => (((Fmt.f32.toInt 32 1 x).1 % 2 ^ 32).toNat, (Fmt.f32.toInt 32 1 x).2))]

/-- The conversions of elements: the source bits of element j, and the function (04 R133). -/
def unaryElems : List (VecOp1 × (VReg → Nat → Nat) × (Nat → Nat → Nat × Nat)) := [
  (.fcvtF64F32, fun v j => (lane v (2 * j)).toNat, Fmt.f32.conv .f64),
  (.fcvtF32F64, fun v j => (elem v j).toNat, Fmt.f64.conv .f32),
  (.fcvtI64F64, fun v j => (elem v j).toNat, fun rm x => (((Fmt.f64.toInt 64 rm x).1 % 2 ^ 64).toNat, (Fmt.f64.toInt 64 rm x).2)),
  (.fcvtF64I64, fun v j => (elem v j).toNat, fun rm x => Fmt.f64.fromInt rm (BitVec.ofNat 64 x).toInt)]

/-- The integer operations on lanes, as integers taken modulo 2^32 (04 R134). -/
def intLanes : List (VecOp2 × (Word → Word → Int)) := [
  (.iadd, fun x y => x.toNat + y.toNat),
  (.isub, fun x y => (x.toNat : Int) - y.toNat),
  (.imul, fun x y => x.toInt * y.toInt),
  (.imin, fun x y => min x.toInt y.toInt),
  (.imax, fun x y => max x.toInt y.toInt),
  (.iminu, fun x y => (min x.toNat y.toNat : Nat)),
  (.imaxu, fun x y => (max x.toNat y.toNat : Nat)),
  (.iand, fun x y => (x.toNat &&& y.toNat : Nat)),
  (.ior, fun x y => (x.toNat ||| y.toNat : Nat)),
  (.ixor, fun x y => (x.toNat ^^^ y.toNat : Nat)),
  (.ishl, fun x y => (x.toNat * 2 ^ (y.toNat % 32) : Nat)),
  (.ishr, fun x y => (x.toNat / 2 ^ (y.toNat % 32) : Nat)),
  (.isar, fun x y => x.toInt / 2 ^ (y.toNat % 32))]

/-- ICMP's conditions (04 R135). -/
def intCond (c : BitVec 3) (x y : Word) : Prop :=
  match c.toNat with
  | 0 => x.toNat = y.toNat
  | 1 => x.toNat ≠ y.toNat
  | 2 => x.toInt < y.toInt
  | 3 => x.toInt ≤ y.toInt
  | 4 => y.toInt < x.toInt
  | 5 => y.toInt ≤ x.toInt
  | 6 => x.toNat < y.toNat
  | _ => x.toNat ≤ y.toNat

/-- The predicate operations (04 R142): bit i of the result, of the sources' bits. -/
def predOps2 : List ((BitVec 4 → BitVec 4 → BitVec 4 → BitVec 4 → Instr) × (Bool → Bool → Bool)) := [
  (.pand, fun x y => x && y), (.por, fun x y => x || y), (.pxor, fun x y => x != y), (.pandn, fun x y => x && !y)]
/-- Those of one source. -/
def predOps1 : List ((BitVec 4 → BitVec 4 → BitVec 4 → Instr) × (Bool → Bool)) := [(.pnot, fun x => !x), (.pmov, fun x => x)]
/-- Those of none. -/
def predOps0 : List ((BitVec 4 → BitVec 4 → Instr) × Bool) := [(.pset, true), (.pclr, false)]

/-- combine(a, b) of 04 R139. -/
def meet (op : Nat → Nat → Nat × Nat) : Option Nat → Option Nat → Option Nat × Nat
  | none, y => (y, 0)
  | x, none => (x, 0)
  | some x, some y => (some (op x y).1, (op x y).2)

/-- tree(x) of 04 R139 over x(0), ..., x(2^n - 1): the two halves of the leaves, combined. -/
def treeOf (op : Nat → Nat → Nat × Nat) (x : Nat → Option Nat) : Nat → Nat → Option Nat × Nat
  | 0, i => (x i, 0)
  | n + 1, i =>
    let l := treeOf op x n i
    let r := treeOf op x n (i + 2 ^ n)
    ((meet op l.1 r.1).1, l.2 ||| r.2 ||| (meet op l.1 r.1).2)

/-- A 32-bit operation on numbers, without flags. -/
def onWords (f : Word → Word → Int) (_rm x y : Nat) : Nat × Nat := ((f (BitVec.ofNat 32 x) (BitVec.ofNat 32 y) % 2 ^ 32).toNat, 0)

/-- The reductions of lanes: the operation, and the value when every lane is absent (04 R139). -/
def reduceLanes : List (VecOp1 × (Nat → Nat → Nat → Nat × Nat) × Word) := [
  (.vredFaddF32, fadd .f32, 0), (.vredFmaxF32, fun _ => Fmt.f32.minmax true, 0xFF800000), (.vredFminF32, fun _ => Fmt.f32.minmax false, 0x7F800000),
  (.vredIadd, onWords fun x y => x.toNat + y.toNat, 0), (.vredImax, onWords fun x y => max x.toInt y.toInt, 0x80000000),
  (.vredImin, onWords fun x y => min x.toInt y.toInt, 0x7FFFFFFF)]

/-- One bits of a predicate below a place. -/
def onesOf (v : BitVec 16) (n : Nat) : Nat := ((List.range n).map fun i => if v.getLsbD i then 1 else 0).sum

/-- The integer of an n-bit two's-complement number nearest to x (03 R69). -/
def saturated (n : Nat) (x : Int) : Int := max (-2 ^ (n - 1)) (min x (2 ^ (n - 1) - 1))

/-! ### Special registers, control (01 R18-R31; 04 R114-R126) -/

/-- The special registers that any task may read, by number (01 R29). -/
def readable : List (Nat × (State → Nat)) := [
  (0x000, fun s => s.tid), (0x001, fun s => s.now.core), (0x002, fun s => s.now.region),
  (0x003, fun s => s.now.cmask * 2 ^ 16 + s.now.qmask * 2 ^ 8 + s.now.vn),
  (0x004, fun s => s.now.rotBase), (0x005, fun s => s.now.rotSize), (0x008, fun s => s.now.loops.length),
  (0x020, fun s => s.now.fpmode), (0x021, fun s => s.now.fpflags),
  (0x028, fun s => s.cycle - (s.core s.now.core).cycle0), (0x029, fun s => s.ns + s.fab.ftime0), (0x02A, fun s => s.now.pts),
  (0x030, fun s => (s.core s.now.core).thrcause), (0x050, fun s => (s.core s.now.core).chmap), (0x051, fun s => (s.core s.now.core).chstat)]

/-- The task's own special registers that MOVRS writes, and what a write leaves (01 R24, R29, R30). -/
def writable : List (Nat × (Task → W64 → Task)) := [
  (0x004, fun t v => { t with rotBase := if t.rotSize = 0 then 0 else v.toNat % t.rotSize }),
  (0x005, fun t v =>
    let z := min (v.toNat / 8 * 8) t.vn
    { t with rotSize := z, rotBase := if z = 0 then 0 else t.rotBase % z }),
  (0x020, fun t v => { t with fpmode := v.toNat % 4 }),
  (0x021, fun t v => { t with fpflags := v.toNat % 32 })]

/-- A task with its bundle behind it: the next bundle is at this word address. -/
def goesTo (t : Task) (pc : Nat) : Task := { t with pc := pc }

/-- The stall of a taken transfer: 2 cycles less the bundle's idle run (02 R61). -/
def stallOf (s : State) : Nat := 2 - min s.bun.idle 2

/-- The word address that a displacement reaches from the bundle's header (04 R117). -/
def reaches (s : State) (i : BitVec 22) : Nat := ((s.bun.pc + i.toInt) % 2 ^ 64).toNat

/-- The link: the word address of the bundle that follows, usable in the first bundle at the target, after the idle run (04 R117; 02 R60). -/
def linked (s : State) : Res := reg64 63 (1 + s.bun.idle) s.bun.next

/-- Predicates from p8 written from a stage mask (01 R22, R26, R27). -/
def stagesOf (t : Task) (n mask : Nat) : Task :=
  (List.range n).foldl (fun u j => u.putP (8 + j) (if mask.testBit j then 0xFFFF else 0)) t

/-- The level that a LOOP or LOOPR pushes for a count (01 R26). -/
def opened (s : State) (last n stages : Nat) (rot : Bool) : LoopLevel :=
  { first := s.bun.next, last := last, lc := n, li := 0, s := stages, mask := if rot then 1 else 0, rot := rot }

/-- A task with a level pushed: a LOOPR's also writes its stage predicates (01 R26). -/
def pushes (t : Task) (l : LoopLevel) : Task :=
  if l.rot then stagesOf { t with loops := t.loops ++ [l] } l.s 1 else { t with loops := t.loops ++ [l] }

/-- close_level of 01 R27: the task after the closure of its top level, for a value of go. -/
def closes (s : State) (t : Task) (l : LoopLevel) (go : Bool) : Task :=
  let start := go && decide (1 < l.lc)
  let mask := if l.rot then (2 * l.mask + if start then 1 else 0) % 2 ^ l.s else 0
  let live := if l.rot then decide (mask ≠ 0) else start
  let top : LoopLevel := { l with li := (l.li + 1) % 2 ^ 64, lc := if start then l.lc - 1 else 0, mask := mask }
  let t1 := if l.rot then stagesOf { t with rotBase := if t.rotSize = 0 then 0 else (t.rotBase + 1) % t.rotSize } l.s mask else t
  { t1 with loops := t.loops.dropLast ++ (if live then [top] else []), pc := if live then l.first else s.bun.next }

/-- What a slot word comes to, committed alone: these effects in the order of 04 R103. -/
def Commits (i : Instr) (s : State) (sh : Shape) (es : List Effect) : Prop := exec i s = .next ((s.logSlot sh (.go es)).commit es).settle

/-- The instruction runs, its whole effect on the state `F`; then its task moves on to the next bundle. -/
def Does (i : Instr) (s : State) (F : State → State) : Prop :=
  ∃ sh es, exec i s = .next ((F (s.logSlot sh (.go es))).passed s.tid s.bun)

/-- The instruction is held for a cycle, with this cause, and nothing else happens (01 R11). -/
def Waits (i : Instr) (s : State) (h : Hold) : Prop := ∃ sh, exec i s = .next ((s.logSlot sh (.hold h [])).heldCycle h).settle

/-- The instruction's bundle traps at execution with this cause, detail byte and address, committing nothing (02 R59; 07 R203). -/
def Traps (i : Instr) (s : State) (cause detail : Nat) (addr : Option Nat) : Prop :=
  ∃ sh out need, exec i s = .next ((s.logSlot sh out).trapNow
    (slotTrap s.bun.pc 0 [{ slot := s.bun.slot, cause := cause, detail := detail, addr := addr }]) need).settle

/-- A scalar result sent to its register, usable in the next bundle. -/
def sends (d : BitVec 6) (v : W64) (u : State) : State := u.putTask u.tid (u.now.launch (.s d.toNat) 1 (v.setWidth 512) 0xFFFF)

/-! ### Loads and stores (05 R143-R172) -/

/-- An effective address: base plus a scaled displacement, modulo 2^64 (05 R149). -/
def effective (v : W64) (i : Int) (scale : Nat) : Nat := ((v.toNat + i * scale) % 2 ^ 64).toNat

/-- `n` bytes that lie wholly in the scratchpad of the task's own core, aligned, in banks that its region reaches (05 R143, R145, R149). -/
def OwnAt (s : State) (a n align : Nat) : Prop :=
  ∃ off, placeN a n = some (.spad s.now.core off) ∧ a % align = 0 ∧ s.reachN s.now.rkey s.now.core off n = true

/-- No global address among these misses the translation caches, so no walk holds their bundle (05 R150; 11 R348). -/
def Mapped (s : State) (as : List Nat) : Prop := ∀ a ∈ as, ∀ va, globalOf a = some va → s.misses s.now va = false

/-- The state whose core pays the cycles that an access's rows take of their banks (05 R144; notes/assumptions/112). -/
def paid (s : State) (ps : List (Nat × Nat)) : State := { s with cores := (s.bankStall s.now.core ps).cores }

/-- A load instruction: its word, its shape, the address of each lane, bytes a lane, alignment, its queue entry's kind, its register, and
the value it loads from a memory. -/
structure LoadForm where
  instr : Instr
  shape : Shape
  addrs : List Nat
  size  : Nat
  align : Nat
  kind  : LsKind
  dst   : Dest
  value : Memory → VReg

/-- Lanes read at their addresses. -/
def lanesAt (as : List Nat) (m : Memory) : VReg := fromLanes fun l => BitVec.ofNat 32 (memNat m (as.getD l 0) 4)

/-- The addresses of a strided access (05 R154). -/
def strides (t : Task) (b x : BitVec 6) (i : BitVec 7) : List Nat :=
  (List.range 16).map fun l => (((t.rs b).toNat + i.toInt * 4 + l * (t.rs x).toInt) % 2 ^ 64).toNat

/-- The addresses of an indexed access (05 R155). -/
def gathers (t : Task) (b x : BitVec 6) (sc : BitVec 2) : List Nat :=
  (List.range 16).map fun l => ((t.rs b).toNat + (lane (readsVec t (x.setWidth 7) 0 0) l).toNat * 2 ^ sc.toNat) % 2 ^ 64

/-- Every load, for one choice of operands (05 R152-R155). -/
def loadForms (t : Task) (d b x : BitVec 6) (v : BitVec 7) (sz : BitVec 2) (i : BitVec 11) (j : BitVec 7) : List LoadForm :=
  let n := 2 ^ sz.toNat
  let a := effective (t.rs b) i.toInt n
  let row := effective (t.rs b) i.toInt 64
  let vd := Dest.v (turned t v)
  [{ instr := .ld d b sz i, shape := { sr := [b.toNat], sw := [d.toNat] }, addrs := [a], size := n, align := n, kind := .load true n,
     dst := .s d.toNat, value := fun m => ((BitVec.ofNat (8 * n) (memNat m a n)).signExtend 64).setWidth 512 },
   { instr := .ldz d b sz i, shape := { sr := [b.toNat], sw := [d.toNat] }, addrs := [a], size := n, align := n, kind := .load false n,
     dst := .s d.toNat, value := fun m => BitVec.ofNat 512 (memNat m a n) },
   { instr := .vld v b i, shape := { sr := [b.toNat], vw := [v.toNat] }, addrs := [row], size := 64, align := 64, kind := .vload,
     dst := vd, value := fun m => BitVec.ofNat 512 (memNat m row 64) },
   { instr := .vlds v b x j, shape := { sr := [b.toNat, x.toNat], vw := [v.toNat] }, addrs := strides t b x j, size := 4, align := 4,
     kind := .vload, dst := vd, value := lanesAt (strides t b x j) },
   { instr := .vgth v b x sz, shape := { ports := 1, sr := [b.toNat], vr := [x.toNat], vw := [v.toNat] }, addrs := gathers t b x sz,
     size := 4, align := 4, kind := .vload, dst := vd, value := lanesAt (gathers t b x sz) }]

/-- A store instruction: its word, its shape, the address of each lane, bytes a lane, alignment, and the bytes it stores. -/
structure StoreForm where
  instr : Instr
  shape : Shape
  addrs : List Nat
  size  : Nat
  align : Nat
  bytes : List Byte

/-- Every store, for one choice of operands (05 R152-R155). -/
def storeForms (t : Task) (d b x : BitVec 6) (v : BitVec 7) (sz : BitVec 2) (i : BitVec 11) (j : BitVec 7) : List StoreForm :=
  let n := 2 ^ sz.toNat
  let row := natLe 64 (readsVec t v 0 0).toNat
  [{ instr := .st d b sz i, shape := { sr := [b.toNat, d.toNat] }, addrs := [effective (t.rs b) i.toInt n], size := n, align := n,
     bytes := natLe n (t.rs d).toNat },
   { instr := .vst v b i, shape := { ports := 1, sr := [b.toNat], vr := [v.toNat] }, addrs := [effective (t.rs b) i.toInt 64], size := 64,
     align := 64, bytes := row },
   { instr := .vsts v b x j, shape := { ports := 1, sr := [b.toNat, x.toNat], vr := [v.toNat] }, addrs := strides t b x j, size := 4,
     align := 4, bytes := row },
   { instr := .vsct v b x sz, shape := { ports := 2, vsct := true, sr := [b.toNat], vr := [v.toNat, x.toNat] }, addrs := gathers t b x sz,
     size := 4, align := 4, bytes := row }]

/-- The memory after a form's lanes are stored, in ascending order (05 R154-R156). -/
def storedTo (m : Memory) (n : Nat) : List Nat → List Byte → Memory
  | [], _ => m
  | a :: r, bs => storedTo (memPutBytes m a (bs.take n)) n r (bs.drop n)

/-- An access put at the end of the task's LS queue: its addresses, the pieces found there, its data; the registers it will fill become empty (11 R337; 01 R10). -/
def queues (k : LsKind) (as : List Nat) (ps : List (Nat × Nat)) (data : List Byte) (ds : List Dest) (u : State) : State :=
  let t := u.now
  u.putTask u.tid { (if ds = [] then { t with ntok := t.ntok + 1 } else t.produce ds .ls) with
    lsq := t.lsq ++ [{ kind := k, tok := t.ntok, parts := ps, data := data, vas := as }] }

/-- The atomics of 05 R170: the form, its number, its signedness, whether it reads s[sd], and f(old, y) of `8B`-bit numbers, where e is
the low 8B bits of s[sd]. -/
def atomics : List ((BitVec 6 → BitVec 6 → BitVec 6 → BitVec 2 → Instr) × Nat × Bool × Bool × (Nat → Nat → Nat → Nat → Nat)) :=
  let less (w x y : Nat) : Bool := decide ((BitVec.ofNat w x).toInt < (BitVec.ofNat w y).toInt)
  [(fun d b x z => .aadd d b x 0 z, 0, false, false, fun w o y _ => (o + y) % 2 ^ w),
   (fun d b x z => .aadd d b x 1 z, 0, true, false, fun w o y _ => (o + y) % 2 ^ w),
   (fun d b x z => .amin d b x 0 z, 1, false, false, fun w o y _ => if less w o y then o else y),
   (fun d b x z => .amin d b x 1 z, 1, true, false, fun _ o y _ => min o y),
   (fun d b x z => .amax d b x 0 z, 2, false, false, fun w o y _ => if less w o y then y else o),
   (fun d b x z => .amax d b x 1 z, 2, true, false, fun _ o y _ => max o y),
   (fun d b x z => .aand d b x 0 z, 3, false, false, fun _ o y _ => o &&& y),
   (fun d b x z => .aand d b x 1 z, 3, true, false, fun _ o y _ => o &&& y),
   (fun d b x z => .aor d b x 0 z, 4, false, false, fun _ o y _ => o ||| y),
   (fun d b x z => .aor d b x 1 z, 4, true, false, fun _ o y _ => o ||| y),
   (fun d b x z => .axchg d b x 0 z, 5, false, false, fun _ _ y _ => y),
   (fun d b x z => .axchg d b x 1 z, 5, true, false, fun _ _ y _ => y),
   (fun d b x z => .acas d b x 0 z, 6, false, true, fun _ o y e => if o = e then y else o),
   (fun d b x z => .acas d b x 1 z, 6, true, true, fun _ o y e => if o = e then y else o),
   (fun d b x z => .aaddf d b x z, 7, false, false, fun w o y _ => if w = 32 then (fadd .f32 0 o y).1 else (fadd .f64 0 o y).1)]

/-- The register value of an atomic's old bytes (05 R170). -/
def oldValue (f : Nat) (u : Bool) (n old : Nat) : VReg :=
  if u = true ∨ f = 7 then BitVec.ofNat 512 old else ((BitVec.ofNat (8 * n) old).signExtend 64).setWidth 512

/-! ### The matrix slot (06 R173-R199) -/

/-- An entry put at the end of the matrix queue, with its task's clock (06 R174). -/
def entered (op : MxOp) (u : State) : State :=
  let k := u.core u.now.core
  u.putCore u.now.core { k with mq := k.mq ++ [{ id := k.mid, tid := u.tid, op := op, tok := u.now.ntok, clk := u.now.pts }], mid := k.mid + 1 }

/-- One more token of the task taken. -/
def tokened (u : State) : State := u.putTask u.tid { u.now with ntok := u.now.ntok + 1 }

/-- Every listed tile is the task's (01 R17). -/
def holdsTiles (t : Task) (cs : List Nat) : Bool := cs.all fun c => t.cmask.testBit c

/-- The tiles that MSET's mask names. -/
def maskTiles (m : BitVec 8) : List Nat := (List.range 8).filter fun c => m.getLsbD c

/-- The issue mode of a tile. -/
def issueMode (s : State) (c : BitVec 3) : Option Nat := ((s.core s.now.core).tile c.toNat).issue

/-- An alcove that a K-step may read: bound, of the kind, FULL (05 R159). -/
def fullOf (s : State) (h : BitVec 4) (kind a : Nat) : Prop :=
  tabFind s.now.handles h.toNat = some a ∧ ((s.core s.now.core).alcove a).kind = kind ∧ ((s.core s.now.core).alcove a).st = 4

/-- The checks of 06 R175 steps 1 to 7 pass for a mode, with the scale words that are popped. -/
structure StepOk (s : State) (c : BitVec 3) (z : BitVec 1) (w : Nat) (hm : Option Nat) (words : List Nat) : Prop where
  mode  : issueMode s c = some w
  kind  : hm.isSome = decide (mSp w ≠ 0)
  able  : capable (s.core s.now.core).outmask (decide (mLane w = 1)) = true
  sparse : ∀ m, hm = some m → metaAllOk w ((s.core s.now.core).alcove m).data = true
  popped : words = (((s.core s.now.core).scq.filter fun x => x.1 = s.tid).map Prod.snd).take (mWords w)
  enough : words.length = mWords w
  steps : s.now.steps + mSteps w ≤ s.stepLimit s.now w
  depth : mAcc w = 0 → ∀ kept, (if z = 1 then 0 else (s.core s.now.core).issueDepth c.toNat kept) + 32 ≤ depthLimit w
  room  : (s.core s.now.core).mq.length < 32

/-- What a K-step takes with it as it enters the queue: a queued read of each alcove, its scale words, its count of steps (05 R160, R166;
06 R180, R183). -/
def stepTakes (c : BitVec 3) (z sub : BitVec 1) (a b : Nat) (m : Option Nat) (words : List Nat) (w : Nat) (u : State) : State :=
  let u1 := entered (.mma c.toNat (z = 1) (sub = 1) a b m words) u
  let k := u1.core u.now.core
  let read (k : Core) (x : Nat) : Core := k.putAlcove x { k.alcove x with reads := (k.alcove x).reads + 1 }
  let k1 := { read (read k a) b with scq := dropOwn u.tid words.length k.scq }
  let k2 := match m with | some x => read k1 x | none => k1
  (u1.putCore u.now.core k2).putTask u.tid { u.now with ntok := u.now.ntok + 1, steps := u.now.steps + mSteps w }

/-- RCHK's register for the outcome of a check (06 R193): the value in elements 0 to 2, code and channel in element 3. -/
def checkReg : Check → VReg
  | .ok x => (BitVec.ofInt 192 x).setWidth 512
  | .corrected i x => (BitVec.ofInt 192 x).setWidth 512 ||| BitVec.ofNat 512 ((1 + 256 * i) * 2 ^ 192)
  | .unlocated => BitVec.ofNat 512 (2 * 2 ^ 192)
  | .overflow => BitVec.ofNat 512 (3 * 2 ^ 192)

/-! ### The copy and network slots (08 R224-R258; 09 R288-R294; 10 R321-R328; 11 R353-R357; 12 R389-R392; 14 R442-R446) -/

/-- The values that CSET takes, by field (08 R225, R240). -/
def FieldOk (t : Task) (f v : Nat) : Prop :=
  match f with
  | 0 => v < 256 ∧ v.testBit 3 = false ∧ v % 8 ≤ 3
  | 1 => v = 0 ∨ (v % 16 = 0 ∧ t.own v 16 = true)
  | 2 => v ≤ 10
  | 3 => v < 2 ^ 22 ∧ v % 2 ^ 16 ≠ 0
  | 4 => v < 256 ∧ 1 ≤ v / 8 ∧ v / 8 ≤ 16 ∧ t.cmask.testBit (v % 8) = true
  | 5 => v % 4 = 0 ∧ t.own v 4 = true
  | 6 => v < 2 ^ 32 ∨ (v < 2 ^ 33 ∧ followOk (v % 2 ^ 32) = true ∧ t.cmask.testBit (followTile (v % 2 ^ 32)) = true)
  | _ => v < 32

/-- A channel with a field written; a new ring starts at its beginning, once the command in progress has written its record (08 R225). -/
def fieldSet (ch : Chan) (f v : Nat) : Chan :=
  if f = 1 ∨ f = 2 then
    if ch.cmd.isSome then { ch with ringSet := ch.ringSet ++ [(f, v)] }
    else { ch with fields := tabSet ch.fields 0 f v, head := 0, tail := 0 }
  else { ch with fields := tabSet ch.fields 0 f v }

/-- The command that a CGO launches: a snapshot of the channel's fields and of the banks' formats (08 R225, R250). -/
def snapshot (s : State) (q : BitVec 2) (id handle : Nat) : Cmd :=
  let k := s.core s.now.core
  let ch := k.chan q.toNat
  { id := id, handle := handle, slack := ch.field 0 / 16 % 16, mode := ch.field 0 % 8, mcast := ch.field 3, select := ch.field 4
    index := ch.field 5, follow := ch.field 6, dsth := ch.field 7, shape := ch.shape, fmts := k.bankfmt
    ofmts := s.cores.map fun x => (x.1, x.2.bankfmt), core := s.now.core
    clk := s.now.pts, since := s.cycle, mid := k.mid }

/-- A channel of the issuing core replaced. -/
def withChan (q : BitVec 2) (f : Chan → Chan) (u : State) : State :=
  u.putCore u.now.core ((u.core u.now.core).putChan q.toNat (f ((u.core u.now.core).chan q.toNat)))

/-- A scalar register left empty until a wait comes about (01 R10). -/
def awaits (d : BitVec 6) (w : Wait) (u : State) : State := u.putTask u.tid (u.now.produce [.s d.toNat] w)

/-- The same, followed by the task's later accesses (09 R289). -/
def awaitsInOrder (d : BitVec 6) (w : Wait) (u : State) : State :=
  u.putTask u.tid { u.now.produce [.s d.toNat] w with lsq := u.now.lsq ++ [{ kind := .await, tok := u.now.ntok, parts := [], data := [] }] }

/-- An own-scratchpad operand: inside the own scratchpad, in reachable banks, aligned (09 R288). -/
def ownOperand (s : State) (a n align : Nat) : Bool := s.now.own a n && s.reachN s.now.rkey s.now.core (a % 2 ^ 24) n && a % align == 0

/-- A request of a service: its word, its shape, when it is accepted, and what it commits. -/
abbrev Request := Instr × Shape × Bool × List Effect

/-- The requests of the die scheduler, which only a privileged task may make (09 R294). -/
def regionRequests (s : State) (a b : BitVec 6) : List Request :=
  let sh : Shape := { sr := [a.toNat, b.toNat] }
  let can := s.privileged s.now && !s.now.storesPending
  [(.rgnctlCreate a b, sh, can, [.rgnctl 0 (s.now.rs a) (s.now.rs b)]), (.rgnctlDestroy a b, sh, can, [.rgnctl 1 (s.now.rs a) (s.now.rs b)]),
   (.rgnctlLaunch a b, sh, can, [.rgnctl 2 (s.now.rs a) (s.now.rs b)]), (.rgnctlPreempt a b, sh, can, [.rgnctl 3 (s.now.rs a) (s.now.rs b)]),
   (.rgnctlPark a b, sh, can, [.rgnctl 4 (s.now.rs a) (s.now.rs b)]), (.rgnctlResume a b, sh, can, [.rgnctl 5 (s.now.rs a) (s.now.rs b)]),
   (.rgnctlKill a b, sh, can, [.rgnctl 6 (s.now.rs a) (s.now.rs b)]), (.rgnctlReload a b, sh, can, [.rgnctl 7 (s.now.rs a) (s.now.rs b)]),
   (.rgnctlQuery a b, sh, can, [.rgnctl 8 (s.now.rs a) (s.now.rs b)])]

/-- The range of a pin or an invalidation: not empty, at most 2^47 bytes, in the global space (11 R353). -/
def rangeOk (x n : Nat) : Bool := n != 0 && decide (n ≤ 2 ^ 47) && (match placeN x n with | some (.global _) => true | _ => false)

/-- The requests on pins and translations, which only a privileged task may make (11 R353-R357). -/
def rangeRequests (s : State) (d a b : BitVec 6) : List Request :=
  let sh : Shape := { sr := [a.toNat, b.toNat], sw := [d.toNat] }
  let x := (s.now.rs a).toNat
  let n := (s.now.rs b).toNat
  let can := s.privileged s.now && !s.now.storesPending && rangeOk x n && s.xlatFree s.now.part s.tid
  let res (v : Nat) : Effect := .wr (.s d.toNat) 1 ((BitVec.ofNat 64 v).setWidth 512) 0xFFFF
  [(.xlpin d a b, sh, can, [.xlat 0 x n, res (s.pinRange s.now.rkey x n).2]),
   (.xlunpin d a b, sh, can, [.xlat 1 x n, res (s.unpinRange s.now.rkey x n).2]),
   (.xlinv d a b, sh, can && !s.translatedIn s.now.part x n, [.xlat 2 x n, res (s.invRange s.now.part x n).2]),
   (.xlinvForce d a b, sh, can && s.handlerPages s.now.part x n, [res 2]),
   (.xlinvForce d a b, sh, can && !s.handlerPages s.now.part x n && s.forceReady s.now.part x n s.tid, [.xlat 3 x n, res 0])]

/-- The configuration of a sump, which only a privileged task may change (10 R322). -/
def sumpRequests (s : State) (d a : BitVec 6) : List Request :=
  let sh : Shape := { sr := [a.toNat], sw := [d.toNat] }
  let id := (s.now.rs a).toNat
  let can := s.privileged s.now && !s.now.storesPending && sumpIdOk id && s.holdClears s.tid (.enqueued id)
  let es (fn : Nat) : List Effect := [.xcfg id fn 0,
    .wr (.s d.toNat) 1 ((BitVec.ofNat 64 (s.sumpConfig s.now.rkey id fn ((s.engRead s.now.part 0 256).getD [])).2).setWidth 512) 0xFFFF]
  [(.xcfgHalt d a, sh, can, es 1), (.xcfgResume d a, sh, can, es 2), (.xcfgPurge d a, sh, can, es 3), (.xcfgOff d a, sh, can, es 4)]

/-- The requests of the tree service (12 R383-R392): those accepted, and those refused with code 5 as another region's. -/
def treeRequests (s : State) (d a b : BitVec 6) : List Request :=
  let one : Shape := { sr := [a.toNat], sw := [d.toNat] }
  let two : Shape := { sr := [a.toNat, b.toNat], sw := [d.toNat] }
  let h := (s.now.rs a).toNat
  let x := (s.now.rs b).toNat
  let key := treeKey s.now.part h
  let quiet := !s.now.storesPending
  let res (v : W64) : Effect := .wr (.s d.toNat) 1 (v.setWidth 512) 0xFFFF
  let mine := s.privileged s.now && decide (h < 2 ^ 16) && quiet && s.treeBelow s.now.rkey key
  let not := s.privileged s.now && decide (h < 2 ^ 16) && quiet && !s.treeBelow s.now.rkey key
  let no : List Effect := [res (treeWord 5 0 h)]
  [(.tcreate d a, one, s.privileged s.now && quiet && (placeN h 64).isSome, [.tree 0 0 h, res (s.treeCreate s.now.rkey h).2]),
   (.tdestroy d a, one, mine, [.tree 1 h 0, res (treeWord 0 0 h)]), (.tdestroy d a, one, not, no),
   (.tedit d a b, two, decide (h < 2 ^ 16) && quiet && (placeN x 16).isSome && s.treeUsable s.now.rkey key,
     [.tree 2 h x, res (s.treeEdit key h x).2]),
   (.tedit d a b, two, decide (h < 2 ^ 16) && quiet && (placeN x 16).isSome && !s.treeUsable s.now.rkey key, no),
   (.tfreeze d a, one, mine && (s.tree key).st == 1 && s.treeDrained key, [.freeze h, .tree 3 h 0, res (treeWord 0 0 h)]),
   (.tfreeze d a, one, not, no),
   (.tsave d a b, two, mine && ((s.tree key).st != 2 || s.treeDrained key), [.tree 4 h x, res (s.treeSave key h x s.tid).2]),
   (.tsave d a b, two, not, no),
   (.trestore d a b, two, mine && (placeN x 128).isSome, [.tree 5 h x, res (s.treeRestore key h x s.now.pts).2]), (.trestore d a b, two, not && (placeN x 128).isSome, no)]

/-- The instructions that only a privileged task may issue, with their shapes (02 R58). -/
def privilegedForms (d a b : BitVec 6) (w : BitVec 1) (h sl : BitVec 5) : List (Instr × Shape) :=
  let one : Shape := { sr := [a.toNat], sw := [d.toNat] }
  let two : Shape := { sr := [a.toNat, b.toNat], sw := [d.toNat] }
  let rg : Shape := { sr := [a.toNat, b.toNat] }
  [(.mchanThresh a, { sr := [a.toNat] }), (.mchanClear a, { sr := [a.toNat] }), (.mchanFail a sl, {}), (.minj a w 0 h, { sr := [a.toNat] }),
   (.xcfgLoad d a b, two), (.xcfgHalt d a, one), (.xcfgResume d a, one), (.xcfgPurge d a, one), (.xcfgOff d a, one),
   (.tcreate d a, one), (.tdestroy d a, one), (.tfreeze d a, one), (.tsave d a b, two), (.trestore d a b, two),
   (.rgnctlCreate a b, rg), (.rgnctlDestroy a b, rg), (.rgnctlLaunch a b, rg), (.rgnctlPreempt a b, rg), (.rgnctlPark a b, rg),
   (.rgnctlResume a b, rg), (.rgnctlKill a b, rg), (.rgnctlReload a b, rg), (.rgnctlQuery a b, rg),
   (.xlinv d a b, two), (.xlinvForce d a b, two), (.xlpin d a b, two), (.xlunpin d a b, two)]

/-- The instruction's bundle traps at stage 4 with cause PRIVILEGE, committing nothing (02 R58, R59). -/
def Denied (i : Instr) (s : State) : Prop :=
  ∃ sh out, exec i s = .next ((s.logSlot sh out).trapNow (slotTrap s.bun.pc 4 [{ slot := s.bun.slot, cause := 0x07 }]) 0).settle
/-! ### Engine steps -/

/-- A step that can happen under a condition, and the state it makes. -/
def due (can : Bool) (t : State) : Option State := if can then some t else none

/-- The engine's step takes effect where it can happen, and leaves the state as it is where it cannot. -/
def StepsTo (i : Instr) (s : State) (r : Option State) : Prop := exec i s = .next (match r with | some t => t.settle | none => s)

/-- An array entry's step: that of the oldest entry of the kind that may be taken. -/
def arrayStep (s : State) (kind : MxOp → Bool) (f : Nat → MxEnt → State) : Option State :=
  (s.mxNext s.arg.unit kind).map (f s.arg.unit)

/-- Steps of cores and of their queues (01 R10, R32; 02 R43; 05 R163; 06 R173-R197; 11 R332, R336, R337, R345). -/
def coreEvents (s : State) : List (Instr × Option State) :=
  let u := s.arg.unit
  let t := s.task u
  let q := s.part u
  [(.idleBundle, due (s.tid != 0 && decide (0 < s.now.idle) && s.now.status == .ready && !s.now.replayDue && !s.freezeDue s.tid && (s.core s.cur).wait == 0)
      ((s.putNow { s.now with idle := s.now.idle - 1 }.bump).tick 1)),
   (.ofillRow, due (s.ofillReady u s.arg.sub) (s.ofillRow u s.arg.sub)),
   (.msetExecute, arrayStep s MxOp.isMset s.msetRun),
   (.kstepMerge, (s.mergeNext u).map (s.kstepMerge u)),
   (.mldaExecute, arrayStep s MxOp.isMlda s.mldaRun),
   (.mstaExecute, arrayStep s MxOp.isMsta s.mstaRun),
   (.mchanExecute, arrayStep s MxOp.isMchan fun c e => match e.op with
      | .mchan fn a => (s.putCore c ((s.core c).mxDrop e s.cycle)).mchanRun c fn a s.arg.num
      | _ => s),
   (.retirement, (s.retireNext u).bind fun e =>
      match e.op with
      | .mret c d f k => some ((s.mretRun u e c d f k).retireEnd u c)
      | .mretv c f k => some ((s.mretvRun u e c f k).retireEnd u c)
      | _ => none),
   (.resultArrival, (s.prodOf u s.arg.num).bind fun p => (s.arrival u p s.arg.bytes).map fun x => x.2.arrive u p x.1),
   (.watchTimeout, (s.prodOf u s.arg.num).bind fun p => (s.watchOver u p).map fun x => x.2.arrive u p x.1),
   (.holdSuspend, due (s.suspendDue u)
      (s.putTask (s.core u).cur { (s.task (s.core u).cur).catchFlights with status := .suspended, held := 0, waitFrom := s.cycle })),
   (.replayEntryInject, due (t.resident && t.replayDue) (s.putTask u t.land)),
   (.lsAccessSend, due (s.lsCanSend u) (s.lsSend u)),
   (.pageWalk, (s.partOfDie (dieOf u)).map fun p =>
      let s1 := match s.walked p s.arg.addr with
        | some x => s.cacheLeaf u s.arg.addr x s.arg.flag
        | none => if (s.pinOf p s.arg.addr).isSome then s else s.wordsFormat p u s.arg.addr
      if s.arg.flag then s1 else s1.walkEnds u s.arg.addr),
   (.pclkTick, due ((tabFind s.parts u).isSome && decide (q.ptick + 256 ≤ s.cycle)) (s.putPart u { q with pclk := q.pclk + 1, ptick := q.ptick + 256 })),
   (.pclkRaise, due ((tabFind s.parts u).isSome && decide (q.pclk + q.lease < q.raise)) (s.putPart u { q with pclk := q.raise - q.lease })),
   (.taskClockTick, due ((tabFind s.tasks u).isSome && t.resident && decide (t.tickAt + 256 ≤ s.cycle))
      (s.putTask u { t with pts := max (t.pts + 1) (s.part t.part).pclk, tickAt := t.tickAt + 256 })),
   (.l2Eviction, if s.arg.flag then some { s with copies := s.copies.filter fun c => !(c.cache == u && c.line == s.arg.addr) }
      else due (s.inL2 s.arg.addr) (s.evict s.arg.addr)),
   (.xprefUnit, due (!(s.die u).xprefs.isEmpty) (s.prefetchUnit u))]

/-- Steps of the copy engine, of the die scheduler and of the fault service (07 R207-R223; 08 R230-R245; 09 R270-R287; 11 R349, R351;
13 R409). -/
def dieEvents (s : State) : List (Instr × Option State) :=
  let u := s.arg.unit
  let c := s.arg.sub
  let t := s.task u
  let ch := (s.core u).chan c
  let known := (tabFind s.tasks u).isSome
  [(.copyRecordRead, due (ch.cmd.any fun x => x.wantsRecord) (s.copyRecordRead u c)),
   (.selectTileRead, due (s.selectReady u c) (s.selectRead u c)),
   (.copySectorWrite, due (s.copyCanWrite u c s.arg.num) ((s.serve u c).copySector u c s.arg.num)),
   (.copyFaultResolved, due (!s.chansStop (s.chanOwner u c) && ch.cmd.any fun x => x.faulted && x.verdict != 0) (s.copyResolve u c)),
   (.followOnPresent, (s.followDue u c).map (s.followPresent u c)),
   (.copyCompletion, due ch.canComplete (s.copyComplete u c)),
   (.trapAction, due (known && t.status == .trapped && !s.tasks.any fun x => x.2.status == .trapped &&
      (s.region x.2.rkey).actOwner == (s.region t.rkey).actOwner && decide (x.2.trapAt < t.trapAt)) (s.trapAction u)),
   (.replayResume, due (known && s.replayReady u s.sumpRoom s.grouped s.neverGrouped) (s.replayResume u s.neverGrouped)),
   (.forwardDelivery, due (s.canForward u) (s.forward u)),
   (.preemptRequest, due (known && t.resident) (s.requestPreempt u)),
   (.freeze, due (known && t.canFreeze && t.preempt.isSome && t.steps == 0) (s.freezeTask u false)),
   (.lateFreeze, due (known && t.canFreeze && (t.preempt.any fun d => t.steps != 0 && decide (d ≤ s.cycle))) (s.freezeTask u true)),
   (.taskSave, due (known && t.status == .frozen && s.drained u && (t.doomed || (s.freeArea t.rkey).isSome))
      (let s1 := ((s.freeArea t.rkey).map (s.saveTask u)).getD s
       if t.doomed then s1.killTask u 0 else s1)),
   (.taskRestore, (s.nextRestore u).map fun x => (s.turnTaken u (s.task x.1).rkey).installSaved x.1 x.2),
   (.taskPlacement, s.placeStep u),
   (.quantumExpiry, (s.quantumVictims u).map fun vs => vs.foldl State.requestPreempt s),
   (.joinRelief, (s.reliefVictims u).map fun vs => vs.foldl State.requestPreempt s),
   (.tileRefill, due (s.wantsRefill u c) (s.tileRefill u c)),
   (.redunCompare, due (s.canCompare u) (s.redunCompare u)),
   (.faultSlotOpen, due (s.canOpen u) (s.slotOpen u)),
   (.faultDisposition, due (s.disposition u c != 0 || s.slotUnread u c) (s.slotClose u c)),
   (.sumpAdmit, due (!(s.die u).enq.isEmpty) (s.sumpAdmit u)),
   (.sumpAgeDue, due ((s.sump u).st == 1 && (s.sump u).aged s.ns && !(s.sump u).due) (s.putSump u { s.sump u with due := true })),
   (.firingDecision, due (!(s.eligibleSumps u).isEmpty && ((s.die u).decN == 0 || decide ((s.die u).decAt + 16 ≤ s.ns))) (s.firingDecision u)),
   (.controlDiverge, due (decide (u < 4) && s.boot.stage == 3 && !s.boot.unprot && decide (0 < (s.die u).pairs)) (s.controlDiverge u)),
   (.clusterFailure, due (decide (u < 4 ∧ c < 24) && s.boot.stage == 3) (s.clusterFail u c))]

/-- Steps of the tree service and its routers (12 R375-R380). -/
def treeEvents (s : State) : List (Instr × Option State) :=
  let a := s.arg
  let t := s.tree a.addr
  [(.treeSourceRead, due (t.canRead a.num) ((s.treeRead a.addr a.num).treeAdvance a.addr 8)),
   (.treeChunkArrive, if a.flag then due (s.farChunkOk a.addr a.unit a.sub) ((s.takeFlits 2 (treeFlits a.bytes)).treeFar a.addr a.unit a.num a.sub a.aux false a.bytes)
      else due (s.canArrive a.addr a.num) (s.treeArrive a.addr a.num)),
   (.treeSlotRefill, due (s.refillNext a.addr a.num) (s.treeRefill a.addr a.num)),
   (.treeReplicate, if a.flag then due (s.farChunkOk a.addr a.unit a.sub) ((s.takeFlits 2 (treeFlits a.bytes)).treeFar a.addr a.unit a.num a.sub 0 true a.bytes)
      else due (s.canReplicate a.addr a.num a.aux) (s.treeReplicate a.addr a.num a.aux)),
   (.treeDelivery, if a.flag then due (t.st != 0 && s.peerFlag (a.addr / 65536) a.unit 1) ((s.takeFlits 2 2).treeHear a.addr a.unit a.num treeDoneMark (leNat (a.bytes.take 8)))
      else due (s.canDeliver a.addr a.num).isSome (s.treeDeliver a.addr a.num)),
   (.treeDataError, if a.flag then
        (if a.aux ≠ 0 then due (t.slotLoaded a.sub) (s.unloadSlot a.addr a.sub)
         else due (t.st != 0 && s.peerFlag (a.addr / 65536) a.unit 1) ((s.takeFlits 2 2).treeHear a.addr a.unit a.num treeFailMark 0))
      else due (t.st != 0 && !t.failed.contains a.num && (t.bufs ++ t.down).any fun x => x.seg == a.num)
      ((s.treeFail a.addr a.num).treeAdvance a.addr 8))]

/-- The fabric's steps (14 R419-R446). -/
def fabricEvents (s : State) : List (Instr × Option State) :=
  let a := s.arg
  let u := a.unit
  let p := s.port u
  let w := p.wave a.sub
  let head := s.liveSend u
  let rop := s.ropOf u
  let stopped := p.stops.testBit a.sub
  let mapped := due (p.st == 2 || p.st == 3) (s.putPort u { p with tnew := some (max a.num p.tx, peerStripes a.bytes) })
  let up := s.boot.stage == 3
  [(.remoteRequest, due (up && requestOk (a.num % 4) a.addr a.aux a.bytes)
      (s.remoteRequest a)),
   (.remoteErrorReply, if a.flag then due (head.any fun x => decide (0 < x.pos)) ((s.takeFlits 1 1).liveFail u a.num)
      else due (rop.any fun o => o.sent) ((s.takeFlits 1 1).ropFail u a.num)),
   (.remoteUnreachable, if a.flag then due (head.any fun x => !x.fault && s.silent (tabGet s.sendqs { pkg := 0 } u).pkg x.since) (s.liveFail u 8)
      else due (rop.any fun o => s.silent o.pkg o.since) (s.ropFail u 8)),
   (.remoteAcknowledgement, if a.flag then due head.isSome ((s.takeFlits 1 1).ackSend u a.num)
      else due (rop.any fun o => o.sent && o.kind == 2) (((s.takeFlits 1 1).ropDone u).unpark u)),
   (.sendFlit, if a.flag && a.aux != 0 then due (s.portOpen u && p.keeps a.num) (s.putPort u (p.resend s.ftime a.num))
      else if a.flag then due (s.canSendWaiting u) (s.sendWaiting u) else due (s.canSendFlit u) (s.sendFlit u)),
   (.sendLinePerform, due (up && a.bytes.length == 64 && a.addr % 64 == 0 && (s.recv u).takes a)
      (s.sendLine a)),
   (.snoteAdd, due ((s.sendAt u 0).any Send.noteDue) (s.noteAdd u)),
   (.flitReceive, due (decide (u < 16 ∧ a.aux % 256 < 8 ∧ a.sub < 16) && (p.st == 2 || p.st == 3) && decide (p.rx ≤ a.num ∧ a.addr / 2 ^ 32 ≤ tabGet p.fails 0 a.num) &&
        a.bytes.length == 16)
      (s.flitReceive u a.num (a.aux % 256) (a.addr / 2 ^ 32) (a.aux / 256) a.flag a.bytes (natLe 2 a.sub ++ natLe 4 (a.addr % 2 ^ 32)))),
   (.stopGoSignal, due (decide (u < 16 ∧ a.sub < 16))
      (s.putPort u { p with stops := if a.flag = stopped then p.stops else if a.flag then p.stops + 2 ^ a.sub else p.stops - 2 ^ a.sub })),
   (.wavelengthWindow, due (s.ftime / 1000000 != s.fab.win)
      { s with fab := { s.fab with win := s.ftime / 1000000 }, ports := s.ports.map fun x =>
          (x.1, { x.2 with waves := x.2.waves.map fun y => if y.2.st = 2 then y else (y.1, { y.2 with cc := 0, ub := 0 }) }) }),
   (.retrainTrigger, due ((w.st == 0 && (decide (4096 ≤ w.cc) || decide (8 ≤ w.ub)) && decide (a.sub < 9)) || (w.st == 3 && p.retr.isNone)) (s.retrain u a.sub)),
   (.stripeSwitch, if a.flag then mapped else due (p.sw.any fun x => decide (x.1 ≤ p.rx)) (s.putPort u (p.switch s.ftime))),
   (.wavelengthWithdraw, if a.flag then mapped else p.toWithdraw.map fun x => s.putPort u (p.withdraw x.1 x.2 s.ftime)),
   (.retrainAdaptationEnd, due (w.st == 1 && !(p.sw.any fun x => x.2 == a.sub) && !(p.wd.any fun x => x.2 == a.sub) && decide (w.timer ≤ s.ftime))
      (s.putPort u (p.putWave a.sub { w with st := 2, timer := w.timer + 100000, cc := 0, ub := 0 }))),
   (.retrainTestEnd, due (w.st == 2 && decide (w.timer ≤ s.ftime)) (s.testEnd u a.sub a.num a.aux)),
   (.wavelengthHandback, if a.flag then mapped else due (p.hb.any fun x => decide (x.1 ≤ p.rx)) (s.putPort u p.handBack)),
   (.slotBoundary, due s.slotDue s.slotBoundary),
   (.guardEnd, due (p.st == 1 && decide (p.guard_ ≤ s.ftime)) (s.guardEnd u a.num a.flag a.bytes)),
   (.windowClose, due (s.windowDue u) (s.putPort u { p with closed := true })),
   (.transitReinject, due s.canReinject s.transitInject),
   (.ftimeLock, due (up && decide (a.num < 2 ^ 64)) (s.lock a.num)),
   (.lockLoss, due s.fab.locked s.unlock),
   (.slotTable, due up (s.slotTable a.bytes)),
   (.tableActivation, due (!s.fab.pend.isEmpty && decide (tbStart s.fab.pend ≤ s.ftime)) s.activate),
   (.packageIdentifier, due (up && decide (a.num ≤ 4094)) { s with fab := { s.fab with pkg := a.num } }),
   (.peerTable, due ((tabFind s.parts u).isSome && a.bytes.length % 4 == 0 && decide (a.bytes.length ≤ 256)) (s.peerTable u a.bytes))]

/-- A command word written to a partition's MBOX over a link that is up (13 R395, R396, R412). While the partition is being reset it
completes with RESETTING; while busy is 1 it is counted and ignored; with a bit that the command does not name it completes with BAD-COMMAND;
and else it runs. -/
def commanded (s : State) (code : Nat) (bad : Bool) (run : State) : Option State :=
  let p := s.arg.unit
  let q := s.part p
  let done (st : Nat) (b : Bool) := s.putPart p { q with mbseq := (q.mbseq + 1) % 2 ^ 32, mbcmd := code, mbst := st, busy := b }
  due (s.link.up && s.boot.stage == 3 && (tabFind s.parts p).isSome)
    (if q.st = 1 then done stResetting q.busy
     else if q.busy then s.putPart p { q with refused := q.refused + 1 }
     else if bad then done stBad false
     else run)

/-- PARAM with an index completes with the status of its check (13 R397). -/
def paramRun (s : State) (idx : Nat) : State :=
  let x := s.param s.arg.unit idx (s.part s.arg.unit).mbarg
  x.1.mailDone s.arg.unit 4 x.2

/-- The mailbox commands of 13 R396, their words' other bits in `num`: code, and what each comes to. CONTROL's functions are requests of the
die scheduler for the region in bits [15:0] (09 R294). -/
def commandEvents (s : State) : List (Instr × Option State) :=
  let p := s.arg.unit
  let any := s.arg.num % 2 ^ 56 != 0
  let control (fn : Nat) := commanded s 3 (decide (s.arg.num / 2 ^ 24 % 2 ^ 32 ≠ 0)) (s.mailRequest p 3 fn (s.arg.num % 2 ^ 16))
  let param (idx : Nat) := commanded s 4 (decide (s.arg.num / 2 ^ 8 % 2 ^ 48 ≠ 0)) (paramRun s idx)
  [(.createRoot, commanded s 2 any (s.mailRequest p 2 0 (s.part p).mbarg)),
   (.controlDestroy, control 1),
   (.controlLaunch, control 2),
   (.controlPreempt, control 3),
   (.controlPark, control 4),
   (.controlResume, control 5),
   (.controlKill, control 6),
   (.controlReload, control 7),
   (.paramPtroot, param 0),
   (.paramFqbase, param 1),
   (.paramTtbase, param 2),
   (.paramLease, param 3),
   (.paramEvqbase, param 4),
   (.paramEvqlen, param 5),
   (.paramErrbase, param 6),
   (.paramErrlen, param 7),
   (.paramSevmat, param 8),
   (.paramPcap, param 9),
   (.checkpoint, commanded s 7 any (s.checkpoint p)),
   (.restore, commanded s 8 any (s.restore p))]

/-- RESYNC, which a partition answers also while it is being reset (13 R412, R413), RESET, whose end is a step of its own, and LAUNCH, which
waits for no command in progress (13 R395). -/
def resetEvents (s : State) : List (Instr × Option State) :=
  let p := s.arg.unit
  let q := s.part p
  let low := s.arg.num % 2 ^ 56
  let taken := s.link.up && s.boot.stage == 3 && (tabFind s.parts p).isSome
  let noted (t : State) (code st : Nat) := t.putPart p { t.part p with mbseq := ((t.part p).mbseq + 1) % 2 ^ 32, mbcmd := code, mbst := st }
  [(.resync, if q.st = 1 then due taken (if low = 0 then noted (s.resync p).1 5 (s.resync p).2 else noted s 5 stBad)
      else commanded s 5 (low != 0) ((s.resync p).1.mailDone p 5 (s.resync p).2)),
   (.reset, if s.arg.sub = 0 then commanded s 6 (decide (2 ≤ low)) (s.resetPart p (low == 1) true) else due (q.st == 1) (s.resetEnd p)),
   (.launch, due taken
      (if q.st = 1 then noted s 1 stResetting
       else if 2 ^ 16 ≤ low then noted s 1 stBad
       else if (tabFind s.regions (p * 65536 + low)).isNone then
         noted (s.error { part := p, cls := 0x0A, src := 4, core := firstDie q.dies * 4096, tail := natLe 8 low }) 1 stNoRegion
       else noted (s.doorbell (p * 65536 + low) q.hpts) 1 stDone))]

/-- What else reaches the machine from outside (11 R359-R361; 13 R393-R416). -/
def hostEvents (s : State) : List (Instr × Option State) :=
  let a := s.arg
  let u := a.unit
  let up := s.boot.stage == 3
  let open0 := s.link.up && (up || s.boot.stage == 7)
  let word0 (w : Nat) : State :=
    if s.boot.busy.isSome then { s with boot := { s.boot with refused := s.boot.refused + 1 } }
    else if w = 9 * 2 ^ 56 then { s with boot := { s.boot with busy := some s.boot.mbarg } }
    else s.mailDone0 (w / 2 ^ 56) stBad
  let written0 (v : Nat) : State :=
    if a.addr = 0 then word0 v else if a.addr = 8 then { s with boot := { s.boot with mbarg := v } }
    else if a.addr = 0x20 then { s with boot := { s.boot with evqtail := v % 2 ^ 32 } } else s
  let q := s.part (u - 1)
  let written (v : Nat) : State :=
    if a.addr = 0 then s.mailWord (u - 1) v else if a.addr = 8 then s.putPart (u - 1) { q with mbarg := v }
    else if a.addr = 0x20 then s.putPart (u - 1) { q with evqtail := v % 2 ^ 32 } else s
  [(.attest, if a.sub = 0 then due open0 (word0 (9 * 2 ^ 56 + a.num % 2 ^ 56)) else due s.boot.busy.isSome s.attest),
   (.registerWrite, if u = 0 then due open0 (written0 (a.num % 2 ^ 64))
      else due (s.link.up && decide (u ≤ 4) && up && (tabFind s.parts (u - 1)).isSome) (written (a.num % 2 ^ 64))),
   (.moduleBoot, some (s.bootWith a.bytes a.flag)),
   (.recoveryImage, due (s.link.up && s.boot.stage == 7 && decide (s.boot.mbarg + a.num ≤ 2 ^ 51))
      (s.bootWith (memBytes s.mem (2 ^ 51 + s.boot.mbarg) a.num) a.flag)),
   (.capBroadcast, due up (s.capBroadcast a.bytes)),
   (.rankSet, due (decide (a.num < 64)) { s with power := { s.power with rank := a.num } }),
   (.ownCap, due (up && decide (a.num < 65536)) ({ s with power := { s.power with own := a.num } }.applyPower).capRaised),
   (.clockLimit, due (decide (u < 4 ∧ 1000 ≤ a.num ∧ a.num ≤ 4000)) (s.clockLimit u a.num a.aux a.flag)),
   (.regulatorPhaseFailure, due (decide (u < 4)) { s with power := { s.power with phases := tabPut s.power.phases u (tabGet s.power.phases 0 u + 1) } }),
   (.linkRetry, due s.link.up ({ s with link := { s.link with replays := s.link.replays + 1 } }.pkgError 0x13 4 [])),
   (.linkDown, due s.link.up ({ s with link := { s.link with up := false, downs := s.link.downs + 1 } }.pkgError 0x14 4 [])),
   (.linkRecovery, due (decide (1 ≤ a.num ∧ a.num ≤ 128) && [16, 8, 4].contains a.aux)
      { s with link := { s.link with up := true, gts := a.num, width := a.aux } }),
   (.backInvalidationResponse, due (s.binv.any fun b => b.1 == a.addr)
      { s with agenda := s.putOff ++ s.agenda, putOff := [], binv := s.binv.filter fun b => b.1 != a.addr, snoop := s.snoop.filter fun l => l != a.addr }),
   (.hostRead, due (s.hostReach u a.addr a.num) (s.hostRead u a.addr a.flag)),
   (.hostWrite, if isHost a.addr then due (isHost (a.addr + a.bytes.length - 1)) { s with mem := memPutBytes s.mem a.addr a.bytes }
      else due (s.hostReach u a.addr a.bytes.length) (s.hostWrite u a.addr a.bytes a.flag)),
   (.hostWriteCompletion, due (decide (0 < (s.task u).hostPend)) (s.putTask u { s.task u with hostPend := (s.task u).hostPend - 1 })),
   (.memoryError, due (decide (a.addr < 2 ^ 39)) (s.memError a.addr a.sub a.flag))]

/-! ### Whole machine -/

/-- Where an instruction of a kind may stand (02 R52-R57); NOP stands anywhere (02 R41). -/
def standsIn : SlotKind → Slot → Bool
  | .any, _ => true
  | .scalar, sl => sl == .sa || sl == .sb
  | .control, sl => sl == .sa
  | .vector, sl => sl == .va || sl == .vb
  | .ls, sl => sl == .ls
  | .mx, sl => sl == .mx
  | .cp, sl => sl == .cp
  | .nw, sl => sl == .nw
  | .event, _ => false

/-- Words written out from the spec's encodings, with their slots and what they stand for. -/
def spelled : List (Slot × BitVec 32 × Instr) := [
  (.sa, 0x04304200, .add 3 1 2 0), (.sb, 0x04304200, .add 3 1 2 0), (.sa, 0x14310520, .cmpLt 3 4 5 0), (.sa, 0x2090BFFF, .addi 9 2 0x3FFF),
  (.sa, 0x807FFFFB, .br 1 0x3FFFFB), (.sa, 0x880FC000, .jr 63 0), (.va, 0x04281040, .faddF32 5 1 2 0 0), (.vb, 0x20189040, .sqrtF32 3 9 0 0),
  (.va, 0xE0181040, .pand 3 1 2 0), (.ls, 0x04509802, .ld 10 4 3 2), (.ls, 0x10404002, .vld 8 2 2), (.ls, 0x6060C383, .aadd 12 6 7 0 3),
  (.mx, 0x04400001, .mset 4 1), (.mx, 0x08008400, .mma 0 0 1 1 0), (.cp, 0x0C006000, .cgo 0 6 0), (.cp, 0x15200000, .cwait 1 8),
  (.nw, 0x0850E000, .join 10 7), (.nw, 0x1438620C, .watch 7 3 4 12), (.nw, 0x24512005, .barw 10 9 5), (.nw, 0xC4008002, .rgnctlLaunch 4 0)]

/-- A finite value of a format's encoding (03 R67). -/
def fpVal (f : Fmt) (b : Nat) : Option ℚ :=
  match f.decode b with
  | .fin neg m e => some (((if neg then -1 else 1 : Int) : ℚ) * (m : ℚ) * (2 : ℚ) ^ e)
  | _ => none

/-- Where round to nearest even goes to infinity: the largest finite value and half its last place. -/
def overflowAt (f : Fmt) : ℚ := (2 : ℚ) ^ ((f.bias : Int) + 1) - (2 : ℚ) ^ ((f.bias : Int) - f.prec)

/-- A result and its flags are a value rounded once under a mode (03 R68; 01 R30): to the nearest, ties to even; toward zero; up; down. -/
def RoundedTo (f : Fmt) (rm : Nat) (v : ℚ) (r : Nat × Nat) : Prop :=
  r.1 < 2 ^ f.w ∧ (r.2 % 2 = 1 ↔ fpVal f r.1 ≠ some v) ∧
  match rm with
  | 0 => if |v| < overflowAt f then
      ∃ p, fpVal f r.1 = some p ∧ ∀ y < 2 ^ f.w, ∀ q, fpVal f y = some q → |p - v| ≤ |q - v| ∧ (|p - v| = |q - v| → p = q ∨ r.1 % 2 = 0)
    else r.1 = f.inf (decide (v < 0))
  | 1 => ∃ p, fpVal f r.1 = some p ∧ |p| ≤ |v| ∧ 0 ≤ p * v ∧ ∀ y < 2 ^ f.w, ∀ q, fpVal f y = some q → |q| ≤ |v| → |q| ≤ |p|
  | 2 => (∀ p, fpVal f r.1 = some p → v ≤ p) ∧ (∀ y < 2 ^ f.w, ∀ q, fpVal f y = some q → v ≤ q → ∃ p, fpVal f r.1 = some p ∧ p ≤ q) ∧
      ((∀ y < 2 ^ f.w, ∀ q, fpVal f y = some q → q < v) → r.1 = f.inf false)
  | _ => (∀ p, fpVal f r.1 = some p → p ≤ v) ∧ (∀ y < 2 ^ f.w, ∀ q, fpVal f y = some q → q ≤ v → ∃ p, fpVal f r.1 = some p ∧ q ≤ p) ∧
      ((∀ y < 2 ^ f.w, ∀ q, fpVal f y = some q → v < q) → r.1 = f.inf true)

/-! ### What effects and engine steps change -/

/-- 09 R283: a join-counter update adds to the counter's eight bytes, and changes no other byte, task or core. -/
def JoinsAdd : Prop := ∀ (s : State) p r core tid a n clk loc, a ≠ 0 → s.engLoc p a 8 3 = some loc → s.badAt loc 8 = false →
  let u := s.joinUpdate p r core tid a n clk
  memNat u.mem loc 8 = (memNat s.mem loc 8 + n) % 2 ^ 64 ∧ (∀ c, c < loc ∨ loc + 8 ≤ c → memByte u.mem c = memByte s.mem c) ∧
  u.tasks = s.tasks ∧ u.cores = s.cores

/-- 04 R125: a task that ends holds nothing of its core any longer: no place, tile, channel, matrix entry or scale word; and it is no task. -/
def EndsFreeTheCore : Prop := ∀ s : State, s.tid ≠ 0 → s.now.resident = true → s.holdClears s.tid .ended = true → s.goStatus s.tid = .ready →
  let k := (s.commit [.endTask]).core s.now.core
  tabFind (s.commit [.endTask]).tasks s.tid = none ∧ k.cur ≠ s.tid ∧ s.tid ∉ k.tasks ∧ (∀ c, (k.tile c).owner ≠ s.tid) ∧
  (∀ q, s.now.qmask.testBit q = true → k.chan q = {}) ∧ (∀ e ∈ k.mq, e.tid ≠ s.tid) ∧ ∀ w ∈ k.scq, w.1 ≠ s.tid

/-- 04 R126: ERET: the handler waits for its next record and its core may issue from another task; the trapped task goes on at the pc of its
record, or at the one named, every failed register zero and full, or is killed. -/
def ReturnsDispose : Prop := ∀ (s : State) x r d p, s.tid ≠ 0 → s.now.subject = x → x ≠ s.tid → tabFind s.tasks x = some r →
  let u := s.commit [.eret d p]
  let pc := if d = 2 then p.toNat else (r.trec.getD 0 0).toNat
  (d ≠ 1 → (u.task s.tid).status = .await ∧ (u.task s.tid).subject = 0 ∧ (u.core s.now.core).cur ≠ s.tid ∧
    (r.status = .forwarded → (u.task x).pc = pc ∧ (u.task x).status = s.goStatus x ∧ (u.task x).trec = [] ∧
      (∀ n < 64, (u.task x).isFailed (.s n) = false) ∧ ∀ n < 128, (u.task x).isFailed (.v n) = false) ∧
    (r.status ≠ .forwarded → (u.task x).redo = some pc)) ∧
  (d = 1 → tabFind u.tasks x = none)

/-- 01 R33; 09 R291: YIELD: the core goes to the ready task of highest priority, at the cost of four cycles, where the replay buffer has room;
with no other task ready it stays. -/
def YieldsSwitch : Prop := ∀ s : State, s.tid ≠ 0 → s.straight = true → (s.core s.now.core).cur = s.tid →
  let k := s.core s.now.core
  let u := s.putTask s.tid (s.now.issued s.bun).bump
  let t := s.commit [.yield]
  (u.choose s.now.core s.tid = none → t.core s.now.core = k) ∧
  ∀ x, u.choose s.now.core s.tid = some x →
    x ∈ k.tasks ∧ u.canRun x = true ∧ (∀ y ∈ k.tasks, y ≠ s.tid → u.canRun y = true → (u.task y).prio ≤ (u.task x).prio) ∧
    t.core s.now.core = (if u.replayFits s.now.core then { k with cur := x, wait := k.wait + 4 } else k) ∧
    (u.replayFits s.now.core = true → (t.task x).status = .ready)

/-- 08 R241, R254: a cancel by handle ends a command in progress with status CANCELLED, and leaves one whose data are complete, every
other channel and memory alone; handle 0 matches none. -/
def CancelsEnd : Prop := (∀ (s : State) tid, s.cancelHandle tid 0 = s) ∧
  ∀ (s : State) tid h q c, h ≠ 0 → q < 4 → (s.task tid).qmask.testBit q = true → ((s.core (s.task tid).core).chan q).cmd = some c →
    c.handle = h → c.ends = none → c.multicast = false →
    (∀ r < 4, r ≠ q → ∀ d, ((s.core (s.task tid).core).chan r).cmd = some d → d.handle ≠ h) →
    let k := (s.cancelHandle tid h).core (s.task tid).core
    (c.data = true → k.chan q = (s.core (s.task tid).core).chan q) ∧
    (c.data = false → ∃ d, (k.chan q).cmd = some d ∧ d.ends = some (2, 0, 0) ∧ d.faulted = false ∧ d.id = c.id ∧ d.clk = c.clk) ∧
    (∀ r, r ≠ q → k.chan r = (s.core (s.task tid).core).chan r) ∧ (s.cancelHandle tid h).mem = s.mem

/-- 08 R258: a BARW that waits at a barrier takes the generation as soon as it differs from its own, and waits on while it does not. -/
def PhasesWake : Prop := ∀ (s : State) c b x tid t p g, tabFind s.tasks tid = some t → t.prods = [p] →
  p.wait = .barw (c * 32 + b) g →
  ((s.setBar c b x).task tid).prods = (if x.gen = g then [p] else [{ p with wait := .ready [BitVec.ofNat 512 x.gen] }])

/-- 09 R274, R276: a FORK's record goes to the head of its core's deque; from a full deque the tail record moves to the overflow area of its
region. -/
def ForksPush : Prop := ∀ (s : State) tid b a,
  let c := (s.task tid).core
  let d := (s.core c).deque
  let u := s.fork tid b a
  ∃ x : Rec, x.bytes = b ∧ x.addr = a ∧ x.part = (s.task tid).part ∧ x.clk = (s.task tid).pts ∧
    (d.length < 16 → (u.core c).deque = x :: d) ∧
    ∀ r y, d = r ++ [y] → 16 ≤ d.length → (u.core c).deque = x :: r ∧
      let g := s.region y.rkey
      (u.region y.rkey).oflow = g.oflow ++ [{ y with addr := g.ovbase + 64 * (g.ovn % max g.ovcap 1) }]

/-- 09 R285: a NEXT before which no other waits takes the first value of its region's return list, usable from +24. -/
def NextsDraw : Prop := ∀ (s : State) tid ds v rest,
  let t := s.task tid
  s.waitingNexts (dieOf t.core) t.rkey = [] → tabGet (s.region t.rkey).returns [] (dieOf t.core) = v :: rest →
  tabGet ((s.nextEnter tid ds).region t.rkey).returns [] (dieOf t.core) = rest ∧
  ((s.nextEnter tid ds).task tid).prods = t.prods ++ [{ tok := t.ntok, dsts := ds, wait := .drawn (t.nb + 24) (BitVec.ofNat 64 v) }]

/-- 13 R398: an event's 32 bytes by field; it is written at the queue's head, which advances, and its vector signalled; a full queue drops
and counts it. -/
def EventsPost : Prop := (∀ ns cls act src vec region die tid x y,
    let b := eventBytes ns cls act src vec region die tid x y
    b.length = 32 ∧ fieldAt b 0 8 = ns % 2 ^ 64 ∧ fieldAt b 8 1 = cls % 256 ∧ fieldAt b 9 1 = act % 256 ∧ fieldAt b 10 1 = src % 256 ∧
    fieldAt b 11 1 = vec % 256 ∧ fieldAt b 12 2 = region % 2 ^ 16 ∧ fieldAt b 14 2 = die % 2 ^ 16 ∧ fieldAt b 16 4 = tid % 2 ^ 32 ∧
    fieldAt b 20 4 = x % 2 ^ 32 ∧ fieldAt b 24 8 = y % 2 ^ 64) ∧
  ∀ (s : State) p b vec, b.length = 32 →
    let q := s.part p
    let u := s.postEvent p b vec
    let a := 2 ^ 51 + q.evqbase + 32 * (q.evqhead % 2 ^ q.evqlen)
    (q.events ≠ 2 ^ q.evqlen → memBytes u.mem a 32 = b ∧ (∀ c, c < a ∨ a + 32 ≤ c → memByte u.mem c = memByte s.mem c) ∧
      (u.part p).evqhead = (q.evqhead + 1) % 2 ^ 32 ∧ (u.part p).msix = q.msix ++ [vec]) ∧
    (q.events = 2 ^ q.evqlen → u.mem = s.mem ∧ u.part p = { q with evlost := q.evlost + 1 })

/-- 10 R321: an XENQ's record waits at the sump's die with the task's clock, and its register is empty until the answer. -/
def EnqueuesWait : Prop := ∀ (s : State) id bs d, ∃ e, ((s.applyEffect (.xenq id bs d)).die (id / 512 % 4)).enq = (s.die (id / 512 % 4)).enq ++ [e] ∧
  e.sump = id ∧ e.tid = s.tid ∧ e.bytes = bs ∧ e.clk = s.now.pts ∧ (s.applyEffect (.xenq id bs d)).mem = s.mem ∧
  ((s.applyEffect (.xenq id bs d)).task s.tid).prods = s.now.prods ++ [{ tok := s.now.ntok, dsts := [d], wait := .xenq }]

/-- 10 R322-R325: HALT, RESUME, PURGE and OFF of a sump below the region, with their status words; LOAD only while it is OFF; the flush mark. -/
def SumpsFollow : Prop := ∀ (s : State) r id bs,
  let x := s.sump id
  (s.sumpBelow r id = false → ∀ fn, s.sumpConfig r id fn bs = (s, 1)) ∧
  (s.sumpBelow r id = true →
    (x.st = 1 → (s.sumpConfig r id 1 bs).2 = 0 ∧ (s.sumpConfig r id 1 bs).1.sump id = { x with st := 2 }) ∧
    (x.st = 2 → (s.sumpConfig r id 2 bs).2 = 0 ∧ (s.sumpConfig r id 2 bs).1.sump id = { x with st := 1, waited := 0 }) ∧
    (x.st = 2 → (s.sumpConfig r id 3 bs).2 = 0 ∧ ((s.sumpConfig r id 3 bs).1.sump id).ents = [] ∧
      ((s.sumpConfig r id 3 bs).1.sump id).purged = x.purged + x.ents.length) ∧
    (x.st = 2 → x.ents = [] → x.slots = [] → (s.sumpConfig r id 4 bs).2 = 0 ∧ ((s.sumpConfig r id 4 bs).1.sump id).st = 0) ∧
    (x.st = 2 → x.ents = [] → x.slots ≠ [] → s.sumpConfig r id 4 bs = (s, 4)) ∧
    (x.st ≠ 1 → s.sumpConfig r id 1 bs = (s, 3)) ∧ (x.st ≠ 2 → ∀ fn ∈ [2, 3, 4], s.sumpConfig r id fn bs = (s, 3)) ∧
    (x.st ≠ 0 → s.sumpConfig r id 0 bs = (s, 3))) ∧
  (x.ents = [] → s.sumpFlush id = s) ∧
  (∀ l e, x.ents = l ++ [e] → x.st ≠ 0 → (s.sumpFlush id).sump id = { x with flush := some e.arr }) ∧
  ∀ h y, y ∈ ((s.applyEffect (.xcan h)).die (dieOf s.now.core)).xprefs ↔
    y ∈ (s.die (dieOf s.now.core)).xprefs ∧ (h = 0 ∨ ¬ (y.region = s.now.rkey ∧ y.handle = h))

/-- 12 R381-R390: what the tree service's requests make of their tree: a new one ACTIVE under the lowest free handle, none after TDESTROY,
FROZEN, SAVED, ACTIVE again; a refusal leaves every tree; a post stands last, and its word's segment is taken. -/
def TreesFollow : Prop :=
  (∀ (s : State) r a, let x := s.treeCreate r a
    (∃ h < 65536, let key := treeKey (r / 65536) h
      x.2 = treeWord 0 0 h ∧ (s.tree key).st = 0 ∧ (∀ i < h, (s.tree (treeKey (r / 65536) i)).st ≠ 0) ∧ (x.1.tree key).st = 1 ∧
      (x.1.tree key).c = 0 ∧ (x.1.tree key).posts = [] ∧ x.1.mem = s.mem ∧ ∀ k, k ≠ key → x.1.tree k = s.tree k) ∨
    (∃ code, 1 ≤ code ∧ code ≤ 9 ∧ x.2 = treeWord code 0 0 ∧ x.1.trees = s.trees)) ∧
  (∀ (s : State) key, (s.treeDestroy key).tree key = {} ∧ (∀ k, k ≠ key → (s.treeDestroy key).tree k = s.tree k) ∧
    (s.treeDestroy key).mem = s.mem) ∧
  (∀ (s : State) key tid, (s.treeFreeze key tid).tree key = { s.tree key with st := 2, freezing := tid } ∧
    ∀ k, k ≠ key → (s.treeFreeze key tid).tree k = s.tree k) ∧
  (∀ (s : State) key h a tid, let x := s.treeSave key h a tid
    ((s.tree key).st = 2 ∧ x.2 = treeWord 0 0 h ∧ (x.1.tree key).st = 3 ∧ (x.1.tree key).slots = []) ∨
    (∃ code ∈ [5, 6, 0x0B], x.2 = treeWord code 0 h ∧ x.1.trees = s.trees)) ∧
  (∀ (s : State) key h a, let x := s.treeEdit key h a
    (∃ e, (s.tree key).st = 1 ∧ (s.tree key).bound ≤ e ∧ (s.tree key).pending = none ∧ x.2 = treeWord 0 e h ∧
      (x.1.tree key).pending.map Membership.e = some e ∧ (x.1.tree key).ships = (s.tree key).ships ∧ (x.1.tree key).posts = (s.tree key).posts) ∨
    (∃ code ∈ [1, 4, 5, 6, 7, 8, 9], x.2 = treeWord code 0 h ∧ x.1.trees = s.trees)) ∧
  ∀ (s : State) key m g src tid, let t := s.tree key
    let u := (s.treePost key m g src tid).tree key
    u.posts = t.posts ++ [{ mem := m, seg := g, src := src, tid := tid, clk := (s.task tid).pts }] ∧ u.admitted = t.admitted + 1 ∧
    u.bound = max t.bound (g + 1) ∧ u.c = t.c ∧ (∀ k, k ≠ key → (s.treePost key m g src tid).tree k = s.tree k) ∧
    (s.treePost key m g src tid).mem = s.mem

/-- 14 R433, R437: a remote operation parks its task, its registers empty, memory as it was; an FSEND's transfer stands last in the queue
that its package has, or a free one, under that queue's next ticket. -/
def RemotesPark : Prop :=
  (∀ (s : State) tid kind pkg a data aux ds, let t := s.task tid
    let u := s.remoteEnter tid kind pkg a data aux ds
    (u.task tid).status = .remote ∧ (u.task tid).ntok = t.ntok + 1 ∧ u.mem = s.mem ∧
    ∃ o ∈ u.rops, o.tid = tid ∧ o.tok = t.ntok ∧ o.kind = kind ∧ o.pkg = pkg ∧ o.addr = a ∧ o.data = data ∧ o.aux = aux) ∧
  ∀ (s : State) tid b, let x := s.sendQueue tid b
    let pkg := fieldAt b 20 2
    (s.sendCode (s.task tid).part b ≠ 0 → x = (s, BitVec.ofNat 64 (s.sendCode (s.task tid).part b))) ∧
    ∀ n, s.sendCode (s.task tid).part b = 0 → s.queueOf pkg = some n ∨ (s.queueOf pkg = none ∧ s.freeQueue = some n) →
      let q := tabGet s.sendqs { pkg := pkg } n
      x.2 = BitVec.ofNat 64 (q.next * 2 ^ 32 + n * 2 ^ 16) ∧ x.1.mem = s.mem ∧
      ∃ y, (tabGet x.1.sendqs { pkg := pkg } n).list = q.list ++ [y] ∧ y.ticket = q.next ∧ y.tid = tid ∧ y.src = fieldAt b 0 8 ∧
        y.dst = fieldAt b 8 8 ∧ y.len = fieldAt b 16 4

/-- 09 R294; 11 R354: what requests make of their region: parked, ready again, dead, its resident tasks asked to leave their cores; a pin of a
range that is refused pins nothing. -/
def RequestsAct : Prop :=
  (∀ (s : State) r b clk,
    ((s.request 4 r b clk).1.region r).state = 1 ∧ ((s.request 5 r b clk).1.region r).state = 0 ∧
    ((s.regions.any fun x => x.2.parent == r) = true → (s.request 1 r b clk).1 = s) ∧
    ((s.regions.any fun x => x.2.parent == r) = false → ((s.request 1 r b clk).1.region r).state = 2) ∧
    ∀ t, (s.task t).rkey = r → tabFind s.tasks t ≠ none → (s.task t).status ≠ .saved → ((s.request 3 r b clk).1.task t).preempt ≠ none) ∧
  ∀ (s : State) r lo n, (s.pinRange r lo n).2 ≠ 0 → (s.pinRange r lo n).1.tasks = s.tasks ∧
    ((s.pinRange r lo n).1.part (r / 65536)).pins = (s.part (r / 65536)).pins

/-- 07 R207; 09 R280, R281: a trap's disposition: the task killed, replayed, parked, or forwarded to the handler of its action's owner, and
parked where there is none; a handler that waits takes the oldest record; a task replayed goes on. -/
def TrapsAreDisposed : Prop :=
  (∀ (s : State) tid t, tabFind s.tasks tid = some t → t.handler = false →
    let g := s.region t.rkey
    let o := s.region g.actOwner
    let u := s.trapAction tid
    match g.action (trapCause t.trec) with
    | 0 => tabFind u.tasks tid = none
    | 1 => (u.task tid).status = .replay ∧ u.mem = s.mem
    | 2 => u.task tid = { t with status := .parked } ∧ u.mem = s.mem
    | _ => if o.handler = 0 ∨ tabFind s.tasks o.handler = none then (u.task tid).status = .parked
        else (u.task tid).status = .forwarded ∧ tid ∈ (u.region g.actOwner).traps ∧ u.mem = s.mem) ∧
  (∀ (s : State) r x rest, let g := s.region r
    g.traps = x :: rest → let h := (s.forward r).task g.handler
    h.rec8 = (s.task x).trec ∧ h.subject = x ∧ h.status = s.goStatus g.handler ∧ ((s.forward r).region r).traps = rest) ∧
  ∀ (s : State) tid never, let t := s.task tid
    ¬ (trapCause t.trec = 0x08 ∧ 2 ≤ t.verdict) → ¬ (trapCause t.trec = 0x14 ∧ never t.need = true) →
    (s.replayResume tid never).task tid = { t with status := s.goStatus tid, trec := [], verdict := 0 }

/-- 07 R214-R219; 09 R265, R270, R272: a freeze stops its task's issue; a saved task stands on no core; a record that is placed becomes a
task of its core at its entry; a pre-emption request gives its task a deadline. -/
def TasksMove : Prop :=
  (∀ (s : State) tid late, tid ≠ 0 → let u := s.freezeTask tid late
    (u.task tid).status = .frozen ∧ (u.core (s.task tid).core).cur ≠ tid ∧ u.mem = s.mem ∧ ∀ x, x ≠ tid → u.task x = s.task x) ∧
  (∀ (s : State) tid a, let u := s.saveTask tid a
    (u.task tid).status = .saved ∧ (u.task tid).area = a ∧ tid ∉ (u.core (s.task tid).core).tasks) ∧
  (∀ (s : State) die w c, w.at_ = [c] → let u := s.placeRec die w
    (u.task s.ntid).core = c ∧ (u.task s.ntid).pc = fieldAt w.x.bytes 0 8 ∧ s.ntid ∈ (u.core c).tasks ∧ u.ntid = s.ntid + 1) ∧
  ∀ (s : State) tid, (s.task tid).status ≠ .saved → ((s.requestPreempt tid).task tid).preempt ≠ none

/-- 08 R226, R231, R234: a sector of a command that is no MULTICAST stores its converted bytes, and no byte beside them; a completion writes the
command's record of sixteen bytes in the ring, at its head, which advances, and frees the channel. -/
def CopiesWrite : Prop :=
  (∀ (s : State) core q c u bs clk s1 out l, ((s.core core).chan q).cmd = some c → c.multicast = false →
    let r := shapeRec c.image
    let t := s.task (s.chanOwner core q)
    let at_ := c.placeFor r 0
    unitAt (c.units r (at_ / c.runBytes r)) (at_ % c.runBytes r) = some u → s.copySource core c t (at_ / c.runBytes r) u = .ok (bs, clk, s1) →
    c.unitData u bs = some out → out.length = u.n → s1.copyAlcove core q c = none →
    s1.copyPieces t (clusterOf core) 2 2 u.addr u.n = .ok [(l, u.n)] → s1.hostHeld l u.n = [] →
    memBytes (s.copySector core q 0).mem l u.n = out ∧
    ∀ b, b < l ∨ l + u.n ≤ b → memByte (s.copySector core q 0).mem b = memByte s1.mem b) ∧
  ∀ (s : State) core q c x, let ch := (s.core core).chan q
    ch.cmd = some c → c.ends = some x →
    let bs := c.recordBytes (ch.finalEnd x)
    let u := s.copyComplete core q
    let ch1 := (u.core core).chan q
    bs.length = 16 ∧ ch1.cmd = none ∧ ch1.last = leNat (bs.take 8) ∧ ch1.ended = ch.ended + 1 ∧
    (ch.field 1 ≠ 0 → ch.ringOver = false → ch1.head = ch.head + 1 ∧ memBytes u.mem ch.ringAddr 16 = bs ∧
      ∀ b, b < ch.ringAddr ∨ ch.ringAddr + 16 ≤ b → memByte u.mem b = memByte s.mem b) ∧
    (ch.field 1 = 0 ∨ ch.ringOver = true → ch1.head = ch.head ∧ u.mem = s.mem)

/-- 10 R308; 11 R349; 12 R370: a sump takes the record at the front with the next arrival number, or counts a duplicate; a fault slot opens
for a page that has none; another package's chunk joins its tree's. -/
def EnginesTake : Prop :=
  (∀ (s : State) die e rest, (s.die die).enq = e :: rest → let x := s.sump e.sump
    let u := s.sumpAdmit die
    (u.die die).enq = rest ∧
    (x.st ≠ 0 → (x.ents.any fun y => keyOf y.bytes == keyOf e.bytes) = true → u.sump e.sump = { x with dups := x.dups + 1 }) ∧
    (x.st ≠ 0 → (x.ents.any fun y => keyOf y.bytes == keyOf e.bytes) = false →
      (u.sump e.sump).ents = x.ents ++ [{ bytes := e.bytes, arr := x.next, time := s.ns }] ∧ (u.sump e.sump).next = (x.next + 1) % 2 ^ 32 ∧
      (u.sump e.sump).accepted = x.accepted + 1)) ∧
  (∀ (s : State) die x n, let d := s.die die
    d.waitq = [x] → d.nextWaiter = some 0 → d.openFor x = none → ((List.range 256).find? fun i => (tabFind d.slots i).isNone) = some n →
    tabFind ((s.slotOpen die).die die).slots n = some x ∧ ((s.slotOpen die).die die).waitq = [] ∧
    ((s.slotOpen die).die die).fseq = (d.fseq + 1) % 2 ^ 32) ∧
  ∀ (s : State) key pkg g k mask bs, let t := s.tree key
    t.st ≠ 0 → (∃ x, ((s.treeFar key pkg g k mask true bs).tree key).down = t.down ++ [x] ∧ x.seg = g ∧ x.chunk = k ∧ x.mask = mask ∧
      x.data = bs.drop 8 ∧ x.clk = leNat (bs.take 8)) ∧
    ∃ x, ((s.treeFar key pkg g k mask false bs).tree key).up = t.up ++ [x] ∧ x.seg = g ∧ x.chunk = k ∧ x.mask = mask ∧
      x.data = bs.drop 8 ∧ x.clk = leNat (bs.take 8)

/-- 13 R412; 14 R424-R427, R431-R442: what the fabric's steps change: the module's time and lock, its table and slot; a task whose RST is
acknowledged; a transferred line; the note of a transfer; and what is left of a partition that is being reset. -/
def FabricActs : Prop :=
  (∀ (s : State) ft, ft < 2 ^ 64 → (s.lock ft).ftime = ft ∧ (s.lock ft).fab.locked = true ∧ (s.lock ft).fab.table = s.fab.table) ∧
  (∀ s : State, s.unlock.fab.locked = false ∧ s.unlock.ftime = s.ftime ∧ s.activate.fab.table = s.fab.pend ∧ s.activate.fab.pend = [] ∧
    s.activate.fab.slot = none) ∧
  (∀ (s : State) i st, slotAt s.fab.table s.ftime = some (i, st) → s.slotBoundary.fab.slot = some i ∧ s.slotBoundary.fab.start = st ∧
    s.slotBoundary.mem = s.mem) ∧
  (∀ (s : State) tid t, tabFind s.tasks tid = some t → t.status = .remote → let u := ((s.takeFlits 1 1).ropDone tid).unpark tid
    (u.task tid).status = .ready ∧ (∀ o ∈ u.rops, o.tid ≠ tid) ∧ u.mem = s.mem) ∧
  (∀ (s : State) (x : StepArgs) loc, x.aux / 4 % 2 = 0 → x.flag = false → x.bytes.length = 64 → (tabFind s.parts x.sub).isSome = true →
    (s.recv x.unit).past x = false → let s1 := s.takeFlits 3 (x.aux / 2 % 2)
    (s1.recv x.unit).past x = false → (tabFind s1.parts x.sub).isSome = true → s1.farLoc x.sub x.addr 64 2 = .ok loc →
    memBytes (s.sendLine x).mem loc 64 = x.bytes ∧ (∀ b, b < loc ∨ loc + 64 ≤ b → memByte (s.sendLine x).mem b = memByte s.mem b) ∧
    (s.sendLine x).recv x.unit = { no := x.xfer, line := x.line + 1, st := 1 }) ∧
  (∀ (s : State) n x a loc, s.sendAt n 0 = some x → x.snote = some a → ¬ (x.fault = true ∧ 2 ≤ x.verdict) → s.sendLoc x a 8 3 = .ok loc →
    s.badAt loc 8 = false → memNat (s.noteAdd n).mem loc 8 = (memNat s.mem loc 8 + 1) % 2 ^ 64 ∧
    ∀ b, b < loc ∨ loc + 8 ≤ b → memByte (s.noteAdd n).mem b = memByte s.mem b) ∧
  ∀ (s : State) p clear, (s.part p).st ≠ 1 → let u := s.resetPart p clear true
    (u.part p).st = 1 ∧ (u.part p).busy = true ∧ (∀ x ∈ u.tasks, x.2.part ≠ p) ∧ (∀ x ∈ u.regions, x.2.part ≠ p) ∧
    (∀ x ∈ u.trees, x.1 / 65536 ≠ p) ∧ (∀ x ∈ u.rops, x.part ≠ p) ∧ (u.part p).pins = []

/-! ### Tables of 04 R130-R133 -/

/-- The operand is a NaN. -/
def nan (f : Fmt) (x : Nat) : Bool := (f.decode x).isNan
/-- The operand is a signalling NaN. -/
def snan (f : Fmt) (x : Nat) : Bool := (f.decode x).snan
/-- The operand's sign. -/
def minus (f : Fmt) (x : Nat) : Bool := (f.decode x).sign
/-- FPFLAGS with invalid raised where a condition holds (01 R30). -/
def invalidIf (b : Bool) : Nat := if b then 16 else 0

/-- FMIN and FMAX (04 R130): the lesser or greater number, -0 below +0; the other operand of a NaN; the canonical NaN of two; invalid for
a signalling NaN only. -/
def MinMaxTable (f : Fmt) (big : Bool) : Prop := ∀ x < 2 ^ f.w, ∀ y < 2 ^ f.w, let r := f.minmax big x y
  r.2 = invalidIf (snan f x || snan f y) ∧
  (nan f x = true → nan f y = true → r.1 = f.nan) ∧ (nan f x = true → nan f y = false → r.1 = y) ∧ (nan f x = false → nan f y = true → r.1 = x) ∧
  (∀ p q, fpVal f x = some p → fpVal f y = some q → (p < q → r.1 = if big then y else x) ∧ (q < p → r.1 = if big then x else y) ∧
    (p = q → p ≠ 0 → r.1 = x ∧ x = y) ∧
    (p = 0 → q = 0 → r.1 = f.zero (if big then minus f x && minus f y else minus f x || minus f y))) ∧
  (∀ n, x = f.inf n → nan f y = false → r.1 = if n = big then y else x) ∧ (∀ n, y = f.inf n → nan f x = false → r.1 = if n = big then x else y)

/-- The conditions of FCMP on two numbers by their order (04 R131). -/
def condHolds (c : Nat) (o : Ordering) : Bool :=
  match c with
  | 0 => o == .eq
  | 1 => o != .eq
  | 2 => o == .lt
  | 3 => o != .gt
  | 4 => o == .gt
  | 5 => o != .lt
  | 6 => false
  | _ => true

/-- FCMP (04 R131): its outcome on numbers, infinities and NaNs, and who raises invalid. -/
def CompareTable (f : Fmt) : Prop := ∀ c < 8, ∀ x < 2 ^ f.w, ∀ y < 2 ^ f.w, let r := f.cmp c x y
  r.2 = invalidIf (if c < 2 ∨ 6 ≤ c then snan f x || snan f y else nan f x || nan f y) ∧
  (nan f x = true ∨ nan f y = true → r.1 = decide (c = 1 ∨ c = 6)) ∧
  (∀ p q, fpVal f x = some p → fpVal f y = some q → r.1 = condHolds c (compare p q)) ∧
  (∀ n q, x = f.inf n → fpVal f y = some q → r.1 = condHolds c (if n then .lt else .gt)) ∧
  (∀ n p, y = f.inf n → fpVal f x = some p → r.1 = condHolds c (if n then .gt else .lt)) ∧
  ∀ m n, x = f.inf m → y = f.inf n → r.1 = condHolds c (if m = n then .eq else if m then .lt else .gt)

/-- An integer to which a number is rounded under a mode: to the nearest, ties to even; toward zero; up; down. -/
def IntegerOf (rm : Nat) (p : ℚ) (i : Int) : Prop :=
  match rm with
  | 0 => |(i : ℚ) - p| ≤ 1 / 2 ∧ (|(i : ℚ) - p| = 1 / 2 → i % 2 = 0)
  | 1 => i = if 0 ≤ p then ⌊p⌋ else ⌈p⌉
  | 2 => i = ⌈p⌉
  | _ => i = ⌊p⌋

/-- A function of 04 R132 gives the canonical NaN of a NaN, with invalid for a signalling one. -/
def NansPass (g : Nat → Nat → Nat × Nat) : Prop := ∀ rm x, nan .f32 x = true → g rm x = (Fmt.f32.nan, invalidIf (snan .f32 x))

/-- A result and its flags are a positive root rounded once: the square of what it stands between is compared. `v` is its square. -/
def RootRounded (v : ℚ) (rm : Nat) (r : Nat × Nat) : Prop :=
  ∃ p, fpVal .f32 r.1 = some p ∧ 0 < p ∧ (r.2 = if p * p = v then 0 else 1) ∧
    ∀ y < 2 ^ 32, ∀ q, fpVal .f32 y = some q → 0 ≤ q →
      match rm with
      | 0 => (p < q → v ≤ ((p + q) / 2) ^ 2) ∧ (q < p → ((p + q) / 2) ^ 2 ≤ v)
      | 2 => v ≤ p * p ∧ (v ≤ q * q → p ≤ q)
      | _ => p * p ≤ v ∧ (q * q ≤ v → q ≤ p)

/-- FUN.f32 (04 R132): every special case of the table, the exact functions, and the correctly rounded ones. Of EXP2 and LOG2, the exact powers
of two; how they are rounded elsewhere is notes/assumptions/18. -/
def FunctionTable : Prop :=
  (∀ g ∈ [funF32 0, funF32 1, fun rm x => Fmt.f32.sqrt rm (Fmt.f32.decode x), fun rm x => Fmt.f32.rcp rm (Fmt.f32.decode x),
      fun rm x => Fmt.f32.rsq rm (Fmt.f32.decode x), fun rm x => Fmt.f32.exp2 rm (Fmt.f32.decode x), fun rm x => Fmt.f32.log2 rm (Fmt.f32.decode x),
      fun _ => Fmt.f32.integral 3 false, fun _ => Fmt.f32.integral 2 false, fun rm => Fmt.f32.integral rm true, fun _ => Fmt.f32.integral 1 false],
    NansPass g) ∧
  ∀ rm < 4, ∀ x < 2 ^ 32, nan .f32 x = false →
    let a := Fmt.f32.decode x
    funF32 0 rm x = (x % 2 ^ 31, 0) ∧ funF32 1 rm x = ((x + 2 ^ 31) % 2 ^ 32, 0) ∧
    (∀ n, x = Fmt.f32.inf n →
      Fmt.f32.sqrt rm a = (if n then (Fmt.f32.nan, 16) else (x, 0)) ∧ Fmt.f32.rcp rm a = (Fmt.f32.zero n, 0) ∧
      Fmt.f32.rsq rm a = (if n then (Fmt.f32.nan, 16) else (0, 0)) ∧ Fmt.f32.exp2 rm a = (if n then 0 else x, 0) ∧
      Fmt.f32.log2 rm a = (if n then (Fmt.f32.nan, 16) else (x, 0)) ∧ ∀ m < 4, ∀ b, Fmt.f32.integral m b x = (x, 0)) ∧
    ∀ p, fpVal .f32 x = some p →
      (p = 0 → Fmt.f32.sqrt rm a = (x, 0) ∧ Fmt.f32.rcp rm a = (Fmt.f32.inf (minus .f32 x), 8) ∧ Fmt.f32.rsq rm a = (Fmt.f32.inf (minus .f32 x), 8) ∧
        Fmt.f32.log2 rm a = (Fmt.f32.inf true, 8)) ∧
      (p < 0 → Fmt.f32.sqrt rm a = (Fmt.f32.nan, 16) ∧ Fmt.f32.rsq rm a = (Fmt.f32.nan, 16) ∧ Fmt.f32.log2 rm a = (Fmt.f32.nan, 16)) ∧
      (0 < p → RootRounded p rm (Fmt.f32.sqrt rm a) ∧ RootRounded (1 / p) rm (Fmt.f32.rsq rm a)) ∧
      (p ≠ 0 → RoundedTo .f32 rm (1 / p) (Fmt.f32.rcp rm a)) ∧
      (∀ i : Int, p = i → -149 ≤ i → i ≤ 127 → fpVal .f32 (Fmt.f32.exp2 rm a).1 = some ((2 : ℚ) ^ i) ∧ (Fmt.f32.exp2 rm a).2 = 0) ∧
      (∀ i : Int, p = (2 : ℚ) ^ i → fpVal .f32 (Fmt.f32.log2 rm a).1 = some (i : ℚ) ∧ (Fmt.f32.log2 rm a).2 = 0) ∧
      ∀ m < 4, ∀ b, ∃ i, IntegerOf m p i ∧ fpVal .f32 (Fmt.f32.integral m b x).1 = some (i : ℚ) ∧
        (Fmt.f32.integral m b x).2 = if b = true ∧ (i : ℚ) ≠ p then 1 else 0

/-- A conversion between two formats (04 R133; 03 R77). -/
def ConvertTable (f g : Fmt) : Prop := ∀ rm < 4, ∀ x < 2 ^ f.w, let r := f.conv g rm x
  (nan f x = true → r = (g.nan, invalidIf (snan f x))) ∧ (∀ n, x = f.inf n → r = (g.inf n, 0)) ∧
  ∀ p, fpVal f x = some p → (p = 0 → r = (g.zero (minus f x), 0)) ∧ (p ≠ 0 → RoundedTo g rm p r)

/-- A conversion to an integer of w bits: rounded, saturated; 0 for a NaN; invalid for a NaN and where it saturates, and else inexact where the
value changes (04 R133). -/
def ToIntegerTable (f : Fmt) (w : Nat) : Prop := ∀ rm < 4, ∀ x < 2 ^ f.w, let r := f.toInt w rm x
  (nan f x = true → r = (0, 16)) ∧ (∀ n, x = f.inf n → r = (if n then -2 ^ (w - 1) else 2 ^ (w - 1) - 1, 16)) ∧
  ∀ p, fpVal f x = some p → ∃ i, IntegerOf rm p i ∧ r.1 = saturated w i ∧
    r.2 = if saturated w i ≠ i then 16 else if (i : ℚ) ≠ p then 1 else 0

/-- A conversion from an integer (04 R133). -/
def FromIntegerTable (f : Fmt) : Prop := ∀ rm < 4, ∀ i : Int, i.natAbs ≤ 2 ^ 63 → f.fromInt rm 0 = (0, 0) ∧ (i ≠ 0 → RoundedTo f rm i (f.fromInt rm i))

end Sys2Proof.Rules

open Sys2Proof Sys2Proof.Machine Sys2Proof.Rules

/-! ### Scalar instructions -/

/-- 04 R105, R106: a two-register operation writes f(a, b) modulo 2^64 at its offset, under its guard, and nothing else; the table's order
is that of fn, for opcode 0x01 and then 0x02, and no other fn is an instruction. -/
def Obligations.TwoRegisterOpsWriteTheirResult : Prop :=
  (∀ op off f, (op, off, f) ∈ twoReg → ∀ s d a b p, s.clear { sr := [a.toNat, b.toNat], sw := [d.toNat] } = true →
    Runs (op d a b p) s fun t => s.Gives t (guarded s.now p (reg64 d off (f (s.now.rs a) (s.now.rs b)))) 0) ∧
  (∀ n op off f, twoReg[n]? = some (op, off, f) → ∀ d a b p,
    Reads [.sa, .sb] (srWord (if n < 14 then 1 else 2) d.toNat a.toNat b.toNat (if n < 14 then n else n - 14) p.toNat) (op d a b p)) ∧
  (∀ (d a b : BitVec 6) (p fn : BitVec 4), (14 ≤ fn.toNat → RefusesField [.sa, .sb] (srWord 1 d.toNat a.toNat b.toNat fn.toNat p.toNat)) ∧
    (3 ≤ fn.toNat → RefusesField [.sa, .sb] (srWord 2 d.toNat a.toNat b.toNat fn.toNat p.toNat)))

/-- 04 R108: a bit count or an extension; the table's order is that of fn, sb is 0, and no other word of the opcode is an instruction. -/
def Obligations.BitCountsAndExtensions : Prop :=
  (∀ op f, (op, f) ∈ oneReg → ∀ s d a p, s.clear { sr := [a.toNat], sw := [d.toNat] } = true →
    ∃ n : Nat, f (s.now.rs a) n ∧ Runs (op d a p) s fun t => s.Gives t (guarded s.now p (reg64 d 1 n)) 0) ∧
  (∀ n op f, oneReg[n]? = some (op, f) → ∀ d a p, Reads [.sa, .sb] (srWord 4 d.toNat a.toNat 0 n p.toNat) (op d a p)) ∧
  (∀ (d a b : BitVec 6) (p fn : BitVec 4), 9 ≤ fn.toNat ∨ b ≠ 0 →
    RefusesField [.sa, .sb] (srWord 4 d.toNat a.toNat b.toNat fn.toNat p.toNat))

/-- 04 R110: SEL writes s[sa] where bit 0 of pk is 1 and s[sb] where it is 0; its guard is independent of its selector, which
stands in fn. -/
def Obligations.SelChoosesByPredicate : Prop :=
  (∀ s d a b k p, s.clear { sr := [a.toNat, b.toNat], sw := [d.toNat] } = true →
    Runs (.sel d a b k p) s fun t =>
      s.Gives t (guarded s.now p (reg64 d 1 (if on s.now k then (s.now.rs a).toNat else (s.now.rs b).toNat))) 0) ∧
  (∀ d a b k p, Reads [.sa, .sb] (srWord 6 d.toNat a.toNat b.toNat k.toNat p.toNat) (.sel d a b k p))

/-- 04 R111, R113: the operations with an immediate, which have no guard, opcodes 0x08 to 0x0E in the tables' order; MOVI; and MOVK,
which keeps the other 48 bits of its register. -/
def Obligations.ImmediateOpsWriteTheirResult : Prop :=
  (∀ n op f, withImm[n]? = some (op, f) → ∀ d a i, Reads [.sa, .sb] (siWord (0x08 + n) d.toNat a.toNat i.toNat) (op d a i)) ∧
  (∀ n op f, shiftImm[n]? = some (op, f) → ∀ d a i, Reads [.sa, .sb] (siWord (0x0C + n) d.toNat a.toNat i.toNat) (op d a i)) ∧
  (∀ n < 3, ∀ (d a : BitVec 6) (i : BitVec 14), 64 ≤ i.toNat → RefusesField [.sa, .sb] (siWord (0x0C + n) d.toNat a.toNat i.toNat)) ∧
  (∀ op f, (op, f) ∈ withImm → ∀ s d a i, s.clear { sr := [a.toNat], sw := [d.toNat] } = true →
    Runs (op d a i) s fun t => s.Gives t (some (reg64 d 1 (f (s.now.rs a) i.toInt))) 0) ∧
  (∀ op f, (op, f) ∈ shiftImm → ∀ s d a i, s.clear { sr := [a.toNat], sw := [d.toNat] } = true →
    Runs (op d a i) s fun t => s.Gives t (some (reg64 d 1 (f (s.now.rs a) i.toNat))) 0) ∧
  (∀ s d h i, s.clear { sw := [d.toNat] } = true →
    Runs (.movi d h i) s fun t => s.Gives t (some (reg64 d 1 (i.toNat * 2 ^ (16 * h.toNat)))) 0) ∧
  (∀ s d h i, s.clear { sr := [d.toNat], sw := [d.toNat] } = true →
    Runs (.movk d h i) s fun t => ∃ v : W64, s.Gives t (some (reg64 d 1 v.toNat)) 0 ∧
      ∀ n < 64, v.getLsbD n = if 16 * h.toNat ≤ n ∧ n < 16 * h.toNat + 16 then i.getLsbD (n - 16 * h.toNat) else (s.now.rs d).getLsbD n)

/-- 04 R104, R109, R112: a compare writes its whole predicate, all ones or all zeros; with an immediate it has no guard. The tables'
order is that of fn, and of the opcodes from 0x0F; bits [5:4] of the predicate field are 0. -/
def Obligations.ComparesWriteWholePredicate : Prop :=
  (∀ n op c, compares[n]? = some (op, c) → ∀ k a b p, Reads [.sa, .sb] (srWord 5 k.toNat a.toNat b.toNat n p.toNat) (op k a b p)) ∧
  (∀ (d a b : BitVec 6) (p fn : BitVec 4), 6 ≤ fn.toNat ∨ 16 ≤ d.toNat →
    RefusesField [.sa, .sb] (srWord 5 d.toNat a.toNat b.toNat fn.toNat p.toNat)) ∧
  (∀ n op c, comparesImm[n]? = some (op, c) → ∀ k a i, Reads [.sa, .sb] (siWord (0x0F + n) k.toNat a.toNat i.toNat) (op k a i)) ∧
  (∀ n < 3, ∀ (d a : BitVec 6) (i : BitVec 14), 16 ≤ d.toNat → RefusesField [.sa, .sb] (siWord (0x0F + n) d.toNat a.toNat i.toNat)) ∧
  (∀ op c, (op, c) ∈ compares → ∀ s k a b p, s.clear { sr := [a.toNat, b.toNat], pw := [k.toNat] } = true →
    ∃ v, Decides (c (s.now.rs a) (s.now.rs b)) v ∧
      Runs (op k a b p) s fun t => s.Gives t (guarded s.now p { dst := .p k.toNat, off := 1, val := v }) 0) ∧
  (∀ op c, (op, c) ∈ comparesImm → ∀ s k a i, s.clear { sr := [a.toNat], pw := [k.toNat] } = true →
    ∃ v, Decides (c (s.now.rs a) i.toInt) v ∧ Runs (op k a i) s fun t => s.Gives t (some { dst := .p k.toNat, off := 1, val := v }) 0)

/-- 04 R107; 01 R10: a division leaves its register empty, its result on the way; RESULT_ARRIVAL then fills it with the quotient or the
remainder, whatever the operands. A false guard leaves the register full and untouched. -/
def Obligations.DivisionsFillTheirRegister : Prop :=
  ∀ op f, (op, f) ∈ divides → ∀ s d a b p, s.clear { sr := [a.toNat, b.toNat], sw := [d.toNat] } = true → s.now.status = .ready →
    if on s.now p then
      Runs (op d a b p) s fun t => s.SameWorld t ∧ (t.task s.tid).isEmpty (.s d.toNat) = decide (d ≠ 0) ∧
        Runs .resultArrival { t with arg := { unit := s.tid, num := s.now.ntok } } fun u =>
          (u.task s.tid).isEmpty (.s d.toNat) = false ∧ (u.task s.tid).prods = [] ∧ u.mem = s.mem ∧ u.cores = s.cores ∧
          (u.task s.tid).SameRegs (s.now.put (.s d.toNat) ((BitVec.ofInt 64 (f (s.now.rs a) (s.now.rs b))).setWidth 512) 0xFFFF)
    else Runs (op d a b p) s fun t => s.Gives t none 0

/-! ### Vector instructions -/

/-- 04 R130: FADD, FSUB, FMUL, FMIN, FMAX on lanes and on elements; FMIN and FMAX by their table. -/
def Obligations.FloatOpsWriteActiveElements : Prop :=
  (∀ op f, (op, f) ∈ floatLanes → ∀ s d a b p x,
    s.clear { ports := 2, vr := [named s.now a s.now.ib0 x, named s.now b s.now.ib1 x], vw := [d.toNat] } = true →
    ∃ v fl, ByLane (s.now.rp p)
        (fun i => f s.now.fpmode (lane (readsVec s.now a s.now.ib0 x) i).toNat (lane (readsVec s.now b s.now.ib1 x) i).toNat) v fl ∧
      Runs (op d a b p x) s fun t => s.Gives t (vecRes s.now d 4 (s.now.rp p) v) fl) ∧
  (∀ op f, (op, f) ∈ floatElems → ∀ s d a b p x,
    s.clear { ports := 2, vr := [named s.now a s.now.ib0 x, named s.now b s.now.ib1 x], vw := [d.toNat] } = true →
    ∃ v fl, ByElem (s.now.rp p)
        (fun j => f s.now.fpmode (elem (readsVec s.now a s.now.ib0 x) j).toNat (elem (readsVec s.now b s.now.ib1 x) j).toNat) v fl ∧
      Runs (op d a b p x) s fun t => s.Gives t (vecRes s.now d 6 (pairMask (s.now.rp p)) v) fl) ∧
  ∀ f ∈ [Fmt.f32, Fmt.f64], ∀ big, MinMaxTable f big

/-- 04 R130: FFMA reads vd as its third operand, and rounds once. -/
def Obligations.FusedMultiplyAddReadsDestination : Prop :=
  (∀ s d a b p x,
    s.clear { ports := 3, vr := [named s.now a s.now.ib0 x, named s.now b s.now.ib1 x, d.toNat], vw := [d.toNat] } = true →
    ∃ v fl, ByLane (s.now.rp p) (fun i => ffma .f32 s.now.fpmode (lane (s.now.getV (turned s.now d)) i).toNat
        (lane (readsVec s.now a s.now.ib0 x) i).toNat (lane (readsVec s.now b s.now.ib1 x) i).toNat) v fl ∧
      Runs (.ffmaF32 d a b p x) s fun t => s.Gives t (vecRes s.now d 4 (s.now.rp p) v) fl) ∧
  (∀ s d a b p x,
    s.clear { ports := 3, vr := [named s.now a s.now.ib0 x, named s.now b s.now.ib1 x, d.toNat], vw := [d.toNat] } = true →
    ∃ v fl, ByElem (s.now.rp p) (fun j => ffma .f64 s.now.fpmode (elem (s.now.getV (turned s.now d)) j).toNat
        (elem (readsVec s.now a s.now.ib0 x) j).toNat (elem (readsVec s.now b s.now.ib1 x) j).toNat) v fl ∧
      Runs (.ffmaF64 d a b p x) s fun t => s.Gives t (vecRes s.now d 6 (pairMask (s.now.rp p)) v) fl)

/-- 04 R131, R135: a comparison writes the predicate bits of its active lanes; an element writes both of its bits. FCMP's outcomes and its
flags by their table. -/
def Obligations.VectorComparesWriteActiveBits : Prop :=
  (∀ s c k a b p x, s.clear { ports := 2, vr := [named s.now a s.now.ib0 x, named s.now b s.now.ib1 x], pw := [k.toNat] } = true →
    let g (i : Nat) := Fmt.f32.cmp c.toNat (lane (readsVec s.now a s.now.ib0 x) i).toNat (lane (readsVec s.now b s.now.ib1 x) i).toNat
    ∃ v : BitVec 16, (∀ i < 16, (s.now.rp p).getLsbD i = true → v.getLsbD i = (g i).1) ∧
      Runs (.fcmpF32 c k a b p x) s fun t =>
        s.Gives t (predRes k 4 (s.now.rp p) v) (orFlags 16 (fun i => (s.now.rp p).getLsbD i) fun i => (g i).2)) ∧
  (∀ s c k a b p x, s.clear { ports := 2, vr := [named s.now a s.now.ib0 x, named s.now b s.now.ib1 x], pw := [k.toNat] } = true →
    let g (j : Nat) := Fmt.f64.cmp c.toNat (elem (readsVec s.now a s.now.ib0 x) j).toNat (elem (readsVec s.now b s.now.ib1 x) j).toNat
    ∃ v : BitVec 16, (∀ j < 8, (s.now.rp p).getLsbD (2 * j) = true → v.getLsbD (2 * j) = (g j).1 ∧ v.getLsbD (2 * j + 1) = (g j).1) ∧
      Runs (.fcmpF64 c k a b p x) s fun t =>
        s.Gives t (predRes k 6 (pairMask (s.now.rp p)) v) (orFlags 8 (fun j => (s.now.rp p).getLsbD (2 * j)) fun j => (g j).2)) ∧
  (∀ s c k a b p x, s.clear { ports := 2, vr := [named s.now a s.now.ib0 x, named s.now b s.now.ib1 x], pw := [k.toNat] } = true →
    ∃ v : BitVec 16, (∀ i < 16, (s.now.rp p).getLsbD i = true →
        (v.getLsbD i = true ↔ intCond c (lane (readsVec s.now a s.now.ib0 x) i) (lane (readsVec s.now b s.now.ib1 x) i))) ∧
      Runs (.icmp c k a b p x) s fun t => s.Gives t (predRes k 2 (s.now.rp p) v) 0) ∧
  ∀ f ∈ [Fmt.f32, Fmt.f64], CompareTable f

/-- 04 R132, R133: the functions of one operand and the conversions, and their tables. How EXP2 and LOG2 are rounded, but at the exact powers of
two, is the model's (notes/assumptions/18). -/
def Obligations.UnaryOpsAndConversions : Prop :=
  (∀ op off f, (op, off, f) ∈ unaryLanes → ∀ s d a p x,
    s.clear { ports := 1, vr := [named s.now a s.now.ib0 x], vw := [d.toNat] } = true →
    ∃ v fl, ByLane (s.now.rp p) (fun i => f s.now.fpmode (lane (readsVec s.now a s.now.ib0 x) i).toNat) v fl ∧
      Runs (op d a p x) s fun t => s.Gives t (vecRes s.now d off (s.now.rp p) v) fl) ∧
  (∀ op src f, (op, src, f) ∈ unaryElems → ∀ s d a p x,
    s.clear { ports := 1, vr := [named s.now a s.now.ib0 x], vw := [d.toNat] } = true →
    ∃ v fl, ByElem (s.now.rp p) (fun j => f s.now.fpmode (src (readsVec s.now a s.now.ib0 x) j)) v fl ∧
      Runs (op d a p x) s fun t => s.Gives t (vecRes s.now d 4 (pairMask (s.now.rp p)) v) fl) ∧
  FunctionTable ∧ (∀ x ∈ [(Fmt.f32, Fmt.bf16), (Fmt.f32, Fmt.f16), (Fmt.bf16, Fmt.f32), (Fmt.f16, Fmt.f32), (Fmt.f32, Fmt.f64), (Fmt.f64, Fmt.f32)],
    ConvertTable x.1 x.2) ∧ ToIntegerTable .f32 32 ∧ ToIntegerTable .f64 64 ∧ FromIntegerTable .f32 ∧ FromIntegerTable .f64

/-- 04 R134: the integer operations on lanes, modulo 2^32, raise no flag. -/
def Obligations.IntegerLaneOps : Prop :=
  ∀ op f, (op, f) ∈ intLanes → ∀ s d a b p x,
    s.clear { ports := 2, vr := [named s.now a s.now.ib0 x, named s.now b s.now.ib1 x], vw := [d.toNat] } = true →
    ∃ v, (∀ i < 16, (s.now.rp p).getLsbD i = true →
        lane v i = BitVec.ofInt 32 (f (lane (readsVec s.now a s.now.ib0 x) i) (lane (readsVec s.now b s.now.ib1 x) i))) ∧
      Runs (op d a b p x) s fun t => s.Gives t (vecRes s.now d 2 (s.now.rp p) v) 0

/-- 04 R136-R138: moves, permutations and broadcasts. VSEL and VEXT write every lane, their pg field no guard. VBCAST gives every
active lane or element a lane, an element, the low half of a scalar register or a whole one. -/
def Obligations.LaneMoves : Prop :=
  (∀ d a p x, Reads [.va, .vb] (vrWord 0x30 d.toNat a.toNat 0 p.toNat x.toNat) (.vmov d a p x)) ∧
  (∀ (d a b : BitVec 7) (p : BitVec 4) (x : BitVec 1), b ≠ 0 → RefusesField [.va, .vb] (vrWord 0x30 d.toNat a.toNat b.toNat p.toNat x.toNat)) ∧
  (∀ d a b k x, Reads [.va, .vb] (vrWord 0x31 d.toNat a.toNat b.toNat k.toNat x.toNat) (.vsel d a b k x) ∧
    Reads [.va, .vb] (vrWord 0x32 d.toNat a.toNat b.toNat k.toNat x.toNat) (.vperm d a b k x) ∧
    Reads [.va, .vb] (vrWord 0x34 d.toNat a.toNat b.toNat k.toNat x.toNat) (.vext d a b k x)) ∧
  (∀ s d a p x, s.clear { ports := 1, vr := [named s.now a s.now.ib0 x], vw := [d.toNat] } = true →
    ∃ v, (∀ i < 16, (s.now.rp p).getLsbD i = true → lane v i = lane (readsVec s.now a s.now.ib0 x) i) ∧
      Runs (.vmov d a p x) s fun t => s.Gives t (vecRes s.now d 2 (s.now.rp p) v) 0) ∧
  (∀ s d a b k x, s.clear { ports := 2, vr := [named s.now a s.now.ib0 x, named s.now b s.now.ib1 x], vw := [d.toNat] } = true →
    ∃ v, (∀ i < 16, lane v i = if (s.now.rp k).getLsbD i then lane (readsVec s.now a s.now.ib0 x) i else lane (readsVec s.now b s.now.ib1 x) i) ∧
      Runs (.vsel d a b k x) s fun t => s.Gives t (vecRes s.now d 2 0xFFFF v) 0) ∧
  (∀ s d a b p x, s.clear { ports := 2, vr := [named s.now a s.now.ib0 x, named s.now b s.now.ib1 x], vw := [d.toNat] } = true →
    ∃ v, (∀ i < 16, (s.now.rp p).getLsbD i = true →
        lane v i = lane (readsVec s.now a s.now.ib0 x) ((lane (readsVec s.now b s.now.ib1 x) i).toNat % 16)) ∧
      Runs (.vperm d a b p x) s fun t => s.Gives t (vecRes s.now d 2 (s.now.rp p) v) 0) ∧
  (∀ s d a b k x, s.clear { ports := 2, vr := [named s.now a s.now.ib0 x, named s.now b s.now.ib1 x], vw := [d.toNat] } = true →
    ∃ v, (∀ i < 16, lane v i = if i + k.toNat < 16 then lane (readsVec s.now a s.now.ib0 x) (i + k.toNat)
        else lane (readsVec s.now b s.now.ib1 x) (i + k.toNat - 16)) ∧
      Runs (.vext d a b k x) s fun t => s.Gives t (vecRes s.now d 2 0xFFFF v) 0) ∧
  (∀ s d a l p x, s.clear { ports := 1, vr := [named s.now a s.now.ib0 x], vw := [d.toNat] } = true →
    ∃ v, (∀ i < 16, (s.now.rp p).getLsbD i = true → lane v i = lane (readsVec s.now a s.now.ib0 x) l.toNat) ∧
      Runs (.vbcast d a l p x) s fun t => s.Gives t (vecRes s.now d 2 (s.now.rp p) v) 0) ∧
  (∀ s d a e p x, s.clear { ports := 1, vr := [named s.now a s.now.ib0 x], vw := [d.toNat] } = true →
    ∃ v, (∀ j < 8, (s.now.rp p).getLsbD (2 * j) = true → elem v j = elem (readsVec s.now a s.now.ib0 x) e.toNat) ∧
      Runs (.vbcastD d a e p x) s fun t => s.Gives t (vecRes s.now d 2 (pairMask (s.now.rp p)) v) 0) ∧
  (∀ s d a p, s.clear { ports := 1, sr := [a.toNat], vw := [d.toNat] } = true →
    ∃ v, (∀ i < 16, (s.now.rp p).getLsbD i = true → lane v i = (s.now.rs a).setWidth 32) ∧
      Runs (.vbcastScalar d a p) s fun t => s.Gives t (vecRes s.now d 2 (s.now.rp p) v) 0) ∧
  (∀ s d a p, s.clear { ports := 1, sr := [a.toNat], vw := [d.toNat] } = true →
    ∃ v, (∀ j < 8, (s.now.rp p).getLsbD (2 * j) = true → elem v j = s.now.rs a) ∧
      Runs (.vbcastDScalar d a p) s fun t => s.Gives t (vecRes s.now d 2 (pairMask (s.now.rp p)) v) 0)

/-- 04 R139: a reduction combines the lanes that the guard admits along its fixed tree, and writes the result to every lane whatever
the guard. -/
def Obligations.ReductionsFollowFixedTree : Prop :=
  (∀ op f absent, (op, f, absent) ∈ reduceLanes → ∀ s d a p x,
    s.clear { ports := 1, vr := [named s.now a s.now.ib0 x], vw := [d.toNat] } = true →
    let r := treeOf (f s.now.fpmode) (fun i => if (s.now.rp p).getLsbD i then some (lane (readsVec s.now a s.now.ib0 x) i).toNat else none) 4 0
    ∃ v, (∀ i < 16, lane v i = (r.1.map (BitVec.ofNat 32)).getD absent) ∧
      Runs (op d a p x) s fun t => s.Gives t (vecRes s.now d 6 0xFFFF v) r.2) ∧
  (∀ s d a p x, s.clear { ports := 1, vr := [named s.now a s.now.ib0 x], vw := [d.toNat] } = true →
    let r := treeOf (fadd .f64 s.now.fpmode)
      (fun j => if (s.now.rp p).getLsbD (2 * j) then some (elem (readsVec s.now a s.now.ib0 x) j).toNat else none) 3 0
    ∃ v, (∀ j < 8, elem v j = (r.1.map (BitVec.ofNat 64)).getD 0) ∧
      Runs (.vredFaddF64 d a p x) s fun t => s.Gives t (vecRes s.now d 6 0xFFFF v) r.2)

/-- 04 R141: VPLANE for n of 2 to 8. A pack writes plane j, bit n-1-j of each saturated lane, into half h of lane j and zeros elsewhere;
an unpack reads the planes back. -/
def Obligations.PlanesPackAndUnpack : Prop :=
  (∀ s d a h n x, 2 ≤ n.toNat → n.toNat ≤ 8 → s.clear { ports := 1, vr := [named s.now a s.now.ib0 x], vw := [d.toNat] } = true →
    ∃ v, (∀ j < 16, ∀ b < 32, (lane v j).getLsbD b = (decide (j < n.toNat) && decide (b / 16 = h.toNat) &&
        (BitVec.ofInt n.toNat (saturated n.toNat (lane (readsVec s.now a s.now.ib0 x) (b % 16)).toInt)).getLsbD (n.toNat - 1 - j))) ∧
      Runs (.vplanePack d a h n x) s fun t => s.Gives t (vecRes s.now d 2 0xFFFF v) 0) ∧
  (∀ s d a h n x, 2 ≤ n.toNat → n.toNat ≤ 8 → s.clear { ports := 1, vr := [named s.now a s.now.ib0 x], vw := [d.toNat] } = true →
    ∃ v, (∀ i < 16, ∃ y : BitVec n.toNat,
        (∀ j < n.toNat, y.getLsbD (n.toNat - 1 - j) = (lane (readsVec s.now a s.now.ib0 x) j).getLsbD (16 * h.toNat + i)) ∧ lane v i = y.signExtend 32) ∧
      Runs (.vplaneUnpack d a h n x) s fun t => s.Gives t (vecRes s.now d 2 0xFFFF v) 0)

/-- 04 R140, R142: the predicate operations write the bits that their guard admits; VIOTA and PCNT count a predicate's ones. -/
def Obligations.PredicateLogicAndCounts : Prop :=
  (∀ op f, (op, f) ∈ predOps2 → ∀ s d a b p, s.clear { pw := [d.toNat] } = true →
    ∃ v : BitVec 16, (∀ i < 16, (s.now.rp p).getLsbD i = true → v.getLsbD i = f ((s.now.rp a).getLsbD i) ((s.now.rp b).getLsbD i)) ∧
      Runs (op d a b p) s fun t => s.Gives t (predRes d 1 (s.now.rp p) v) 0) ∧
  (∀ op f, (op, f) ∈ predOps1 → ∀ s d a p, s.clear { pw := [d.toNat] } = true →
    ∃ v : BitVec 16, (∀ i < 16, (s.now.rp p).getLsbD i = true → v.getLsbD i = f ((s.now.rp a).getLsbD i)) ∧
      Runs (op d a p) s fun t => s.Gives t (predRes d 1 (s.now.rp p) v) 0) ∧
  (∀ op b, (op, b) ∈ predOps0 → ∀ s d p, s.clear { pw := [d.toNat] } = true →
    ∃ v : BitVec 16, (∀ i < 16, (s.now.rp p).getLsbD i = true → v.getLsbD i = b) ∧
      Runs (op d p) s fun t => s.Gives t (predRes d 1 (s.now.rp p) v) 0) ∧
  (∀ s d k p, s.clear { vw := [d.toNat] } = true →
    ∃ v, (∀ i < 16, (s.now.rp p).getLsbD i = true → lane v i = BitVec.ofNat 32 (onesOf (s.now.rp k) i)) ∧
      Runs (.viota d k p) s fun t => s.Gives t (vecRes s.now d 2 (s.now.rp p) v) 0) ∧
  (∀ s d k p, s.clear { vw := [d.toNat] } = true →
    ∃ v, (∀ i < 16, (s.now.rp p).getLsbD i = true → lane v i = BitVec.ofNat 32 (onesOf (s.now.rp k) 16)) ∧
      Runs (.pcnt d k p) s fun t => s.Gives t (vecRes s.now d 2 (s.now.rp p) v) 0)

/-! ### Special registers and control -/

/-- 01 R29, R31; 04 R114: MOVSR reads every special register; levels at or above LDEPTH read zero; the trap record words need a handler. -/
def Obligations.SpecialRegisterReads : Prop :=
  (∀ n f, (n, f) ∈ readable → ∀ s d, s.clear { sw := [d.toNat] } = true →
    Runs (.movsr d (BitVec.ofNat 12 n)) s fun t => s.Gives t (some (reg64 d 1 (f s))) 0) ∧
  (∀ s d, ∀ k < 6, s.clear { sw := [d.toNat] } = true →
    (Runs (.movsr d (BitVec.ofNat 12 (0x010 + k))) s fun t => s.Gives t (some (reg64 d 1 ((s.now.loops[k]?.map LoopLevel.li).getD 0))) 0) ∧
    (Runs (.movsr d (BitVec.ofNat 12 (0x018 + k))) s fun t => s.Gives t (some (reg64 d 1 ((s.now.loops[k]?.map LoopLevel.lc).getD 0))) 0)) ∧
  (∀ s d, ∀ k < 8, s.clear { sw := [d.toNat] } = true → s.now.handler = true →
    Runs (.movsr d (BitVec.ofNat 12 (0x040 + k))) s fun t => s.Gives t (some (reg64 d 1 (s.now.rec8.getD k 0).toNat)) 0)

/-- 01 R24, R29, R30; 04 R114: MOVRS writes the task's registers, the levels in use, and clears the bits of THRCAUSE that are written
as ones, but for a cause that still binds the die's clock (13 R416). -/
def Obligations.SpecialRegisterWrites : Prop :=
  (∀ n f, (n, f) ∈ writable → ∀ s a, s.clear { sr := [a.toNat], xw := [n] } = true →
    Runs (.movrs a (BitVec.ofNat 12 n)) s fun t => s.Leads t (goesTo (f s.now (s.now.rs a)) s.bun.next) none 0) ∧
  (∀ s a, ∀ k < 6,
    (s.clear { sr := [a.toNat], xw := [0x010 + k] } = true →
      Runs (.movrs a (BitVec.ofNat 12 (0x010 + k))) s fun t =>
        s.Leads t (goesTo { s.now with loops := s.now.loops.modify k fun l => { l with li := (s.now.rs a).toNat } } s.bun.next) none 0) ∧
    (s.clear { sr := [a.toNat], xw := [0x018 + k] } = true →
      Runs (.movrs a (BitVec.ofNat 12 (0x018 + k))) s fun t =>
        s.Leads t (goesTo { s.now with loops := s.now.loops.modify k fun l => { l with lc := (s.now.rs a).toNat % 2 ^ 32 } } s.bun.next) none 0)) ∧
  (∀ s a, s.clear { sr := [a.toNat], xw := [0x030] } = true →
    Runs (.movrs a 0x030) s fun t =>
      (∀ b < 5, (t.core s.now.core).thrcause.testBit b = ((s.core s.now.core).thrcause.testBit b && !(s.now.rs a).getLsbD b ||
        (s.die (dieOf s.now.core)).bound.testBit b)) ∧
      (∀ c, c ≠ s.now.core → t.core c = s.core c) ∧
      { t.core s.now.core with thrcause := (s.core s.now.core).thrcause } = s.core s.now.core ∧
      s.SameWorld { t with cores := s.cores } ∧ (t.task s.tid).SameRest s.now ∧ ∀ k, ((t.task s.tid).later k).SameRegs s.now)

/-- 01 R23; 04 R115: IBSET writes (s[sa] + sext(imm14)) mod 128, seen two bundles later. -/
def Obligations.IndexBasesAreSeenTwoBundlesLater : Prop :=
  ∀ s k a i, s.clear { sr := [a.toNat], ib := [k.toNat] } = true →
    Runs (.ibset k a i) s fun t => s.Gives t (some { dst := .ib k.toNat, off := 2, val := BitVec.ofInt 512 (((s.now.rs a).toNat + i.toInt) % 128) }) 0

/-- 01 R18-R20; 04 R116: the five rows of ALLOT. -/
def Obligations.AllotmentRequests : Prop :=
  ∀ s d a (i : BitVec 14), s.clear { sr := [a.toNat], sw := [d.toNat], allot := true } = true →
    let n := (((s.now.rs a).toNat + i.toInt) % 2 ^ 64).toNat
    let legal := n ∈ [32, 64, 96, 128] ∧ s.now.rotSize ≤ n
    let free := 512 - ((s.core s.now.core).tasks.map fun x => (s.task x).vn).sum
    (¬ legal → Runs (.allot d a i) s fun t => s.Gives t (some (reg64 d 1 (-1))) 0) ∧
    (legal → s.now.vn < n → free < n - s.now.vn → Runs (.allot d a i) s fun t => s.Gives t (some (reg64 d 1 0)) 0) ∧
    (legal → ¬ (s.now.vn < n ∧ free < n - s.now.vn) → (∀ r, n ≤ r → r < s.now.vn → s.now.isEmpty (.v r) = false) →
      Runs (.allot d a i) s fun t =>
        s.Leads t (goesTo { s.now with
          vn := n, vregs := s.now.vregs.filter fun x => decide (x.1 < min s.now.vn n)
          vEmpty := s.now.vEmpty &&& BitVec.ofNat 128 (2 ^ min s.now.vn n - 1)
          vFail := s.now.vFail &&& BitVec.ofNat 128 (2 ^ min s.now.vn n - 1) } s.bun.next)
          (some (reg64 d 1 n)) 0)

/-- 04 R117, R118, R120; 02 R61: a taken BR, BRL, JR or JRL replaces the closure of its bundle, links where it is to, and costs its stall. -/
def Obligations.TakenTransfersReachTarget : Prop :=
  (∀ s p i, on s.now p = true → s.able { target := some (reaches s i) } = true →
    Runs (.br p i) s fun t => s.Leads t (goesTo s.now (reaches s i)) none (stallOf s)) ∧
  (∀ s p i, on s.now p = true → s.able { sw := [63], target := some (reaches s i) } = true →
    Runs (.brl p i) s fun t => s.Leads t (goesTo s.now (reaches s i)) (some (linked s)) (stallOf s)) ∧
  (∀ s a p, on s.now p = true → s.able { sr := [a.toNat], target := some (s.now.rs a).toNat } = true →
    Runs (.jr a p) s fun t => s.Leads t (goesTo s.now (s.now.rs a).toNat) none (stallOf s)) ∧
  (∀ s a p, on s.now p = true → s.able { sr := [a.toNat], sw := [63], target := some (s.now.rs a).toNat } = true →
    Runs (.jrl a p) s fun t => s.Leads t (goesTo s.now (s.now.rs a).toNat) (some (linked s)) (stallOf s))

/-- 04 R117, R118, R123: a transfer that is not taken writes nothing and goes on; so does NOP. -/
def Obligations.UntakenTransfersGoOn : Prop :=
  (∀ s p i, on s.now p = false → s.clear {} = true → Runs (.br p i) s fun t => s.Gives t none 0) ∧
  (∀ s p i, on s.now p = false → s.clear { sw := [63] } = true → Runs (.brl p i) s fun t => s.Gives t none 0) ∧
  (∀ s a p, on s.now p = false → s.clear { sr := [a.toNat] } = true → Runs (.jr a p) s fun t => s.Gives t none 0) ∧
  (∀ s a p, on s.now p = false → s.clear { sr := [a.toNat], sw := [63] } = true → Runs (.jrl a p) s fun t => s.Gives t none 0) ∧
  (∀ s p i, on s.now p = false → s.now.loops ≠ [] → s.clear {} = true → Runs (.lexit p i) s fun t => s.Gives t none 0) ∧
  (∀ s, s.clear {} = true → Runs .nop s fun t => s.Gives t none 0)

/-- 01 R25, R26; 04 R121: LOOP and LOOPR: a count of zero skips the body as a taken transfer; any other pushes a level, and a LOOPR
writes its stage predicates. The checks come first. -/
def Obligations.LoopsOpenOneLevel : Prop :=
  ∀ s a (st : BitVec 4) (i : BitVec 16) rot ws, s.able { sr := [a.toNat] } = true → s.now.loops.length < 6 →
    let last := s.bun.pc + i.toNat
    s.fetch s.now last = .ok ws → isHeader ws (last % 16) = true → (∀ l, s.now.loops.getLast? = some l → last < l.last) →
    let op := if rot then Instr.loopr a st i else Instr.loop a i
    let n := (s.now.rs a).toNat % 2 ^ 32
    (n = 0 → Runs op s fun t => s.Leads t (goesTo s.now (nextBundle ws last)) none (stallOf s)) ∧
    (n ≠ 0 → Runs op s fun t =>
      s.Leads t (goesTo (pushes s.now (opened s last n (if rot then st.toNat else 1) rot)) s.bun.next) none 0)

/-- 01 R27; 04 R122, R123: the closure at the last bundle of the top level's body, its go from BRTOP where the bundle carries one, which then
pays the stall of a back-branch; 04 R123: a taken LEXIT pops the top level and transfers. -/
def Obligations.LoopsCloseOneLevel : Prop :=
  (∀ s l, s.able {} = true → s.now.loops.getLast? = some l → l.last = s.bun.pc →
    Runs .nop s fun t => s.Leads t (closes s s.now l true) none 0) ∧
  (∀ s l p i, s.able {} = true → s.now.loops.getLast? = some l → l.last = s.bun.pc → l.rot = true → reaches s i = l.first →
    Runs (.brtop p i) s fun t =>
      s.Leads t (closes s s.now l (on s.now p)) none (if (closes s s.now l (on s.now p)).loops.length = s.now.loops.length then stallOf s else 0)) ∧
  (∀ s p i, on s.now p = true → s.now.loops ≠ [] → s.able { target := some (reaches s i) } = true →
    Runs (.lexit p i) s fun t => s.Leads t (goesTo { s.now with loops := s.now.loops.dropLast } (reaches s i)) none (stallOf s))

/-- 04 R124-R126; 01 R33; 09 R291: TRAP, END, ERET and YIELD: the bundle commits, then its task traps, ends and holds nothing of its core,
disposes of its record, or gives another task its turn. -/
def Obligations.BundleEndings : Prop :=
  (∀ s a i, s.able { sr := [a.toNat] } = true → s.straight = true →
    Runs (.trap a i) s fun t => (t.task s.tid).status = .trapped ∧ (t.task s.tid).pc = s.bun.next ∧ (t.task s.tid).idle = 0 ∧
      (t.task s.tid).trec.getD 0 0 = BitVec.ofNat 64 s.bun.next ∧ ((t.task s.tid).trec.getD 1 0).toNat % 256 = 1 ∧
      (t.task s.tid).trec.getD 2 0 = 0x11 ∧ (t.task s.tid).trec.getD 5 0 = s.now.rs a ∧
      ((t.task s.tid).trec.getD 6 0).toNat = i.toNat ∧ (t.task s.tid).SameRegs s.now ∧ t.mem = s.mem) ∧
  (∀ s, s.admits {} = true → s.holdClears s.tid .ended = true → Commits .endTask s {} [.endTask]) ∧
  (∀ s, s.admits { sr := if s.now.rs 1 = 2 then [1, 2] else [1] } = true → s.privileged s.now = true → s.now.subject ≠ 0 →
    (s.now.rs 1).toNat ≤ 2 →
    Commits .eret s { sr := if s.now.rs 1 = 2 then [1, 2] else [1] } [.eret (s.now.rs 1) (s.now.rs 2)]) ∧
  (∀ s, s.admits {} = true → Commits .yield s {} [.yield]) ∧ EndsFreeTheCore ∧ ReturnsDispose ∧ YieldsSwitch

/-! ### Loads, stores, alcoves, atomics and fences -/

/-- 05 R145, R152-R156: a load that lies wholly in the own scratchpad is performed at issue, once the LS queue is empty, and its value is
usable from +6; the core pays the cycles of `State.bankStall` for its rows (05 R144). Only the task's clock, the rows' timestamps and the rows last
served also move. -/
def Obligations.OwnLoadsAreUsableFromSix : Prop :=
  ∀ s d b x v sz i j, ∀ f ∈ loadForms s.now d b x v sz i j, s.clear f.shape = true → s.now.lsq = [] →
    (∀ a ∈ f.addrs, OwnAt s a f.size f.align) →
    Runs f.instr s fun t => ∃ p ≥ s.now.pts,
      (paid s (f.addrs.map fun a => (a, f.size))).Leads { t with stamps := s.stamps, rowAt := s.rowAt } { goesTo s.now s.bun.next with pts := p }
        (some { dst := f.dst, off := 6, val := f.value s.mem }) 0

/-- 05 R145, R152-R156: a store that lies wholly in the own scratchpad writes exactly its lanes' bytes, in ascending lane order; the core
pays the cycles of `State.bankStall` (05 R144). -/
def Obligations.OwnStoresWriteTheirBytes : Prop :=
  ∀ s d b x v sz i j, ∀ f ∈ storeForms s.now d b x v sz i j, s.clear f.shape = true → s.now.lsq = [] → s.now.run = 0 →
    (∀ a ∈ f.addrs, OwnAt s a f.size f.align ∧ s.holdClears s.tid (.rows a (a + f.size)) = true) →
    Runs f.instr s fun t => t.mem = storedTo s.mem f.size f.addrs f.bytes ∧
      (∀ c, (∀ a ∈ f.addrs, c < a ∨ a + f.size ≤ c) → memByte t.mem c = memByte s.mem c) ∧
      ∃ p ≥ s.now.pts, (paid s (f.addrs.map fun a => (a, f.size))).Leads { t with mem := s.mem, stamps := s.stamps, parts := s.parts, rowAt := s.rowAt }
        { goesTo s.now s.bun.next with pts := p } none 0

/-- 05 R145, R150, R156, R170; 11 R337; 01 R10: a load elsewhere, its addresses translated, joins the LS queue
with the places that they were found at, and leaves its register empty; a store elsewhere joins it with its bytes; and a miss of the
translation caches, at an address that passes the checks before translation, holds the bundle until its walk has ended. -/
def Obligations.OtherAccessesJoinTheQueue : Prop :=
  (∀ s d b x v sz i j, ∀ f ∈ loadForms s.now d b x v sz i j, s.ready f.shape = true → Mapped s f.addrs → ∀ ls : List Nat,
    f.addrs.map (fun a => s.daccess s.now a f.size f.align 1) = ls.map .ok → (∃ a ∈ f.addrs, s.now.own a f.size = false) →
    s.holdClears s.tid .lsRoom = true → Does f.instr s (queues f.kind f.addrs (ls.map fun l => (l, f.size)) [] [f.dst])) ∧
  (∀ s d b x v sz i j, ∀ f ∈ storeForms s.now d b x v sz i j, s.ready f.shape = true → s.now.run = 0 → Mapped s f.addrs → ∀ ls : List Nat,
    f.addrs.map (fun a => s.daccess s.now a f.size f.align 2) = ls.map .ok → (∃ a ∈ f.addrs, s.now.own a f.size = false) →
    (∀ l ∈ ls, s.holdClears s.tid (.rows l (l + f.size)) = true) → s.holdClears s.tid .lsRoom = true →
    Does f.instr s (queues .store f.addrs (ls.map fun l => (l, f.size)) f.bytes [])) ∧
  (∀ s d b x v sz i j, ∀ f ∈ loadForms s.now d b x v sz i j, s.ready f.shape = true → ∀ pre a post va, f.addrs = pre ++ a :: post →
    Mapped s pre → (∀ y ∈ pre, ∃ l, s.daccess s.now y f.size f.align 1 = .ok l) → s.dcheck s.now a f.size f.align = none →
    globalOf a = some va → s.misses s.now va = true → Waits f.instr s (.walk va))

/-- 05 R149: the checks of an address, in their order: well formed, aligned, reached; the lowest-numbered lane that fails decides. -/
def Obligations.AccessChecksInOrder : Prop :=
  (∀ (s : State) t a n align need, placeN a n = none → s.daccess t a n align need = .error (0x09, if need / 2 % 2 = 1 then 4 else 0)) ∧
  (∀ (s : State) t a n align need pl, placeN a n = some pl → a % align ≠ 0 →
    s.daccess t a n align need = .error (0x0A, if need / 2 % 2 = 1 then 4 else 0)) ∧
  (∀ (s : State) t a n align need c off, placeN a n = some (.spad c off) → a % align = 0 → s.reachN t.rkey c off n = false →
    s.daccess t a n align need = .error (0x09, if need / 2 % 2 = 1 then 4 else 0)) ∧
  (∀ s d b x v sz i j, ∀ f ∈ loadForms s.now d b x v sz i j, s.ready f.shape = true → Mapped s f.addrs → ∀ pre a post c w,
    f.addrs = pre ++ a :: post → (∀ y ∈ pre, ∃ l, s.daccess s.now y f.size f.align 1 = .ok l) →
    s.daccess s.now a f.size f.align 1 = .error (c, w) → Traps f.instr s c w (some a)) ∧
  (∀ s d b x v sz i j, ∀ f ∈ storeForms s.now d b x v sz i j, s.ready f.shape = true → Mapped s f.addrs → ∀ pre a post c w,
    f.addrs = pre ++ a :: post → (∀ y ∈ pre, ∃ l, s.daccess s.now y f.size f.align 2 = .ok l) →
    s.daccess s.now a f.size f.align 2 = .error (c, w) → Traps f.instr s c w (some a))

/-- 05 R157; 01 R28: fills and spills of the niche window; outside the window NICHE-RANGE. -/
def Obligations.NicheFillsAndSpills : Prop :=
  (∀ s d b (sz : BitVec 2) (i : BitVec 11), let n := 2 ^ sz.toNat; let o := effective (s.now.rs b) i.toInt n
    o % n = 0 → o + n ≤ 1024 * s.now.nicheKiB →
    (s.clear { sr := [b.toNat], sw := [d.toNat] } = true → Runs (.fil d b sz i) s fun t =>
      s.Gives t (some (reg64 d 1 (BitVec.ofNat (8 * n) (memNat s.now.niche o n)).toInt)) 0) ∧
    (s.clear { sr := [b.toNat, d.toNat] } = true → Runs (.spl d b sz i) s fun t =>
      s.Leads t { goesTo s.now s.bun.next with niche := memPutBytes s.now.niche o (natLe n (s.now.rs d).toNat) } none 0)) ∧
  (∀ s (d : BitVec 7) b (i : BitVec 11), let o := effective (s.now.rs b) i.toInt 64
    o % 64 = 0 → o + 64 ≤ 1024 * s.now.nicheKiB →
    (s.clear { sr := [b.toNat], vw := [d.toNat] } = true → Runs (.vfil d b i) s fun t =>
      s.Gives t (some { dst := .v (turned s.now d), off := 1, val := BitVec.ofNat 512 (memNat s.now.niche o 64) }) 0) ∧
    (s.clear { ports := 1, sr := [b.toNat], vr := [d.toNat] } = true → Runs (.vspl d b i) s fun t =>
      s.Leads t { goesTo s.now s.bun.next with niche := memPutBytes s.now.niche o (natLe 64 (readsVec s.now d 0 0).toNat) } none 0)) ∧
  (∀ s d b (i : BitVec 11), s.ready { sr := [b.toNat], sw := [d.toNat] } = true → effective (s.now.rs b) i.toInt 8 % 8 = 0 →
    1024 * s.now.nicheKiB < effective (s.now.rs b) i.toInt 8 + 8 → Traps (.fil d b 3 i) s 0x0B 0 none)

/-- 05 R158, R160-R164: alcoves: OCLAIM takes the lowest FREE one granted to the region, ORELEASE unbinds, OFILL begins, OSTAT reads. -/
def Obligations.AlcoveHandles : Prop :=
  (∀ s (k : BitVec 4) d (f : BitVec 7) a, s.ready { sw := [d.toNat] } = true → tabFind s.now.handles k.toNat = none →
    s.now.handles.length < 8 → ((s.core s.now.core).alcove a).st = 0 → tabFind s.algr (s.now.core * 32 + a) = some s.now.rkey → a < 32 →
    (∀ c < a, ¬ (((s.core s.now.core).alcove c).st = 0 ∧ tabFind s.algr (s.now.core * 32 + c) = some s.now.rkey)) →
    Does (.oclaim k d f) s fun u => sends d 0
      ((u.putCore u.now.core ((u.core u.now.core).putAlcove a { st := 1, kind := f.toNat, tid := u.tid, handle := k.toNat })).putTask u.tid
        { u.now with handles := tabPut u.now.handles k.toNat a })) ∧
  (∀ s (k : BitVec 4) d (f : BitVec 7), s.clear { sw := [d.toNat] } = true → tabFind s.now.handles k.toNat = none →
    s.now.handles.length < 8 →
    (∀ c < 32, ¬ (((s.core s.now.core).alcove c).st = 0 ∧ tabFind s.algr (s.now.core * 32 + c) = some s.now.rkey)) →
    Runs (.oclaim k d f) s fun t => s.Gives t (some (reg64 d 1 1)) 0) ∧
  (∀ s (k : BitVec 4) a, s.ready {} = true → tabFind s.now.handles k.toNat = some a → ((s.core s.now.core).alcove a).st ≠ 2 →
    Does (.orelease k) s fun u =>
      let c := u.core u.now.core
      let x := c.alcove a
      (u.putCore u.now.core (c.putAlcove a (if x.reads = 0 ∧ x.rows = 0 then {} else { x with release := true }))).putTask u.tid
        { u.now with handles := tabDel u.now.handles k.toNat }) ∧
  (∀ s (k : BitVec 4) b x a, let src := (s.now.rs b).toNat; let n := (s.now.rs x).toNat
    s.ready { sr := [b.toNat, x.toNat] } = true → s.now.lsq = [] → OwnAt s src n 64 → n % 64 = 0 → 64 ≤ n → n ≤ 4096 →
    tabFind s.now.handles k.toNat = some a → ((s.core s.now.core).alcove a).st ≠ 2 → ((s.core s.now.core).alcove a).st ≠ 3 →
    Does (.ofill k b x) s fun u => u.putCore u.now.core ((u.core u.now.core).putAlcove a
      { (u.core u.now.core).alcove a with st := 3, src := src, rows := n / 64, row := 0, from_ := u.cycle })) ∧
  (∀ s d (k : BitVec 4), s.clear { sw := [d.toNat] } = true →
    let w := match tabFind s.now.handles k.toNat with
      | none => 0
      | some a =>
        let x := (s.core s.now.core).alcove a
        x.reads % 256 * 2 ^ 16 + a * 2 ^ 8 + x.kind * 2 ^ 4 + x.st
    Runs (.ostat d k) s fun t => s.Gives t (some (reg64 d 1 w)) 0)

/-- 05 R148, R166, R167: SCLD pushes its words in ascending address order, and its core pays the cycles of `State.bankStall` for
their rows (05 R144); BFMT reads a bank's format and writes it. -/
def Obligations.ScaleWordsAndBankFormats : Prop :=
  (∀ s b (sz : BitVec 2) (i : BitVec 11), let n := 16 * 2 ^ sz.toNat; let a := effective (s.now.rs b) i.toInt 32
    s.clear { sr := [b.toNat] } = true → s.now.lsq = [] → OwnAt s a (2 * n) 32 → (s.core s.now.core).scq.length + n ≤ 512 →
    Runs (.scld b sz i) s fun t =>
      let k := (paid s (splitLines a (2 * n) 8)).core s.now.core
      t.core s.now.core = { k with scq := k.scq ++ (List.range n).map (fun j => (s.tid, memNat s.mem (a + 2 * j) 2)) } ∧
      (∀ c, c ≠ s.now.core → t.core c = s.core c) ∧ t.mem = s.mem ∧
      (∀ k, ((t.task s.tid).later k).SameRegs s.now) ∧ ∀ x, x ≠ s.tid → t.task x = s.task x) ∧
  (∀ s d a (n : BitVec 4), s.ready { sr := [a.toNat], sw := [d.toNat] } = true → s.reach s.now.rkey s.now.core n.toNat = true →
    (s.now.rs a).toNat < 256 → fmtValid (s.now.rs a).toNat = true →
    Does (.bfmt d a n) s fun u =>
      let v := tabGet (u.core u.now.core).bankfmt 0 n.toNat
      let u1 := sends d (BitVec.ofNat 64 v) u
      u1.putCore u1.now.core { u1.core u1.now.core with bankfmt := tabSet (u1.core u1.now.core).bankfmt 0 n.toNat (s.now.rs a).toNat })

/-- 05 R170: an atomic goes through the LS queue to the home of its location, even in the own scratchpad; its register is empty until the
old value comes. -/
def Obligations.AtomicsJoinTheQueue : Prop :=
  ∀ op f u rd fn, (op, f, u, rd, fn) ∈ atomics → ∀ s d b x z, z = 2 ∨ z = 3 →
    let n := 2 ^ (z : BitVec 2).toNat
    s.ready { sr := [b.toNat, x.toNat] ++ (if rd then [d.toNat] else []), sw := [d.toNat] } = true → s.now.run = 0 →
    Mapped s [(s.now.rs b).toNat] → ∀ l,
    s.daccess s.now (s.now.rs b).toNat n n 3 = .ok l → s.holdClears s.tid (.rows l (l + n)) = true → s.holdClears s.tid .lsRoom = true →
    Does (op d b x z) s (queues (.atomic f u n ((s.now.rs x).toNat % 2 ^ (8 * n)) ((s.now.rs d).toNat % 2 ^ (8 * n)))
      [(s.now.rs b).toNat] [(l, n)] [] [.s d.toNat])

/-- 05 R170; 11 R337: an atomic at the head of the queue is performed in one step: its bytes become f(old, y), and its producer has the
old value. -/
def Obligations.AtomicsReadAndWriteInOneStep : Prop :=
  ∀ op f u rd fn, (op, f, u, rd, fn) ∈ atomics → ∀ s n y e l rest, n = 4 ∨ n = 8 → y < 2 ^ (8 * n) → e < 2 ^ (8 * n) →
    let t := s.task s.arg.unit
    let a : LsAcc := { kind := .atomic f u n y e, tok := t.ntok, parts := [(l, n)], data := [] }
    let p : Prod := { tok := t.ntok, dsts := [.s 1], wait := .ls }
    t.lsq = a :: rest → t.prods = [p] → s.calm = true → s.badAt l n = false → s.hostHeld l n = [] →
    Runs .lsAccessSend s fun w => memNat w.mem l n = fn (8 * n) (memNat s.mem l n) y e % 2 ^ (8 * n) ∧
      (∀ c, c < l ∨ l + n ≤ c → memByte w.mem c = memByte s.mem c) ∧ (w.task s.arg.unit).lsq = rest ∧
      (w.task s.arg.unit).prods = [{ p with wait := .ready [oldValue f u n (memNat s.mem l n)] }]

/-- 05 R171, R172; 11 R341: FENCE and FENCEX wait while an access that they order is still to be performed, then only go on; FENCEX
carries its classes' clocks. -/
def Obligations.FencesWaitThenGoOn : Prop :=
  (∀ s, s.clear {} = true → s.now.storesPending = false → Runs .fencePackage s fun t => s.Gives t none 0) ∧
  (∀ s, s.clear {} = true → s.now.storesPending = false → s.now.hostPend = 0 → Runs .fenceSystem s fun t => s.Gives t none 0) ∧
  (∀ s (e l : BitVec 7), s.ready {} = true → s.classesDone s.tid e.toNat = true →
    Does (.fencex e l) s fun u => u.fenceClocks u.tid e.toNat l.toNat) ∧
  (∀ s, s.ready {} = true → s.now.storesPending = true → Waits .fencePackage s .stores ∧ Waits .fenceSystem s .system) ∧
  (∀ s (e l : BitVec 7), s.ready {} = true → s.classesDone s.tid e.toNat = false → Waits (.fencex e l) s (.classes e.toNat))

/-! ### The matrix slot -/

/-- 06 R174-R176, R189, R191, R197, R199: MSET, MZERO, MLDA, MSTA, MCHAN and MINJ join the matrix queue; MSET also sets the issue mode
of its tiles. That the length of an MSTA's or MLDA's image is the one of the issue mode as the queue stands is the model's reading of 06 R191
(notes/assumptions/79). -/
def Obligations.MatrixOpsJoinTheQueue : Prop :=
  (∀ s a m, s.ready { sr := [a.toNat] } = true → s.holdClears s.tid (.mqueue 1) = true → holdsTiles s.now (maskTiles m) = true →
    modeValid (s.now.rs a).toNat = true →
    Does (.mset a m) s fun u =>
      let u1 := entered (.mset m.toNat (s.now.rs a).toNat) u
      tokened (u1.putCore u1.now.core ((maskTiles m).foldl
        (fun k c => k.putTile c { k.tile c with issue := some (s.now.rs a).toNat }) (u1.core u1.now.core)))) ∧
  (∀ s c, s.ready {} = true → s.holdClears s.tid (.mqueue 1) = true → holdsTiles s.now [c.toNat] = true →
    Does (.mzero c) s fun u => tokened (entered (.mzero c.toNat) u)) ∧
  (∀ s c a ps, s.ready { sr := [a.toNat] } = true → s.holdClears s.tid (.mqueue 1) = true → holdsTiles s.now [c.toNat] = true →
    (∀ h, s.imageCheck s.now (s.now.rs a).toNat 64 1 = .ok h → s.imageCheck s.now (s.now.rs a).toNat (s.imageAt h) 1 = .ok ps →
      Mapped s ((s.now.rs a).toNat :: pagesOf (s.now.rs a).toNat (s.imageAt h)) →
      Does (.mlda c a) s fun u => tokened (entered (.mlda c.toNat (s.now.rs a).toNat ps) u)) ∧
    (s.imageCheck s.now (s.now.rs a).toNat (s.imageLen s.now.core c.toNat) 2 = .ok ps →
      Mapped s (pagesOf (s.now.rs a).toNat (s.imageLen s.now.core c.toNat)) →
      Does (.msta c a) s fun u => tokened (entered (.msta c.toNat (s.now.rs a).toNat ps) u))) ∧
  (∀ s, s.ready {} = true → s.holdClears s.tid (.mqueue 1) = true → Does .mchanScrub s fun u => tokened (entered (.mchan 0 0) u)) ∧
  (∀ s a, s.ready { sr := [a.toNat] } = true → s.holdClears s.tid (.mqueue 1) = true → s.privileged s.now = true →
    ((s.now.rs a).toNat < 2 ^ 16 → Does (.mchanThresh a) s fun u => tokened (entered (.mchan 1 (s.now.rs a).toNat) u)) ∧
    Does (.mchanClear a) s (fun u => tokened (entered (.mchan 2 ((s.now.rs a).toNat % 2 ^ 22)) u)) ∧
    ∀ w c h, holdsTiles s.now [c.toNat] = true →
      Does (.minj a w c h) s fun u => tokened (entered (.minj c.toNat h.toNat ((s.now.rs a).toNat % 256) w.toNat) u)) ∧
  (∀ s a sl, s.ready {} = true → s.holdClears s.tid (.mqueue 1) = true → s.privileged s.now = true →
    Does (.mchanFail a sl) s fun u => tokened (entered (.mchan 3 sl.toNat) u))

/-- 06 R174, R175, R180-R183; 05 R159, R160, R166: MMA and MMAS whose checks pass join the queue with their operands; a full queue
holds a bundle that would enter it, here an MZERO. -/
def Obligations.MatrixStepsJoinTheQueue : Prop :=
  (∀ s c ha hb z sub w a b words, s.ready {} = true → holdsTiles s.now [c.toNat] = true → (s.core s.now.core).loading c.toNat = false →
    fullOf s ha 0 a → fullOf s hb 1 b → StepOk s c z w none words →
    Does (.mma c ha hb z sub) s (stepTakes c z sub a b none words w)) ∧
  (∀ s c ha hb hm z sub w a b m words, s.ready {} = true → holdsTiles s.now [c.toNat] = true →
    (s.core s.now.core).loading c.toNat = false → fullOf s ha 0 a → fullOf s hb 1 b → fullOf s hm 2 m → StepOk s c z w (some m) words →
    Does (.mmas c ha hb hm z sub) s (stepTakes c z sub a b (some m) words w)) ∧
  (∀ s c, s.ready {} = true → holdsTiles s.now [c.toNat] = true → (s.core s.now.core).mq.length = 32 → Waits (.mzero c) s (.mqueue 1))

/-- 06 R185-R188, R190: MRET and MRETV join the queue and leave their registers empty, the step count at zero; MDRAIN goes on once the
task has no entry left. -/
def Obligations.RetirementsEmptyTheirRegisters : Prop :=
  (∀ s (c : BitVec 3) a d (f : BitVec 4) (k : BitVec 1) w, s.ready { sr := [a.toNat], sw := [d.toNat] } = true → holdsTiles s.now [c.toNat] = true →
    (s.core s.now.core).loading c.toNat = false → issueMode s c = some w → fmtFor (mAcc w) f.toNat = true →
    s.holdClears s.tid (.mqueue 1) = true →
    Does (.mret c a d f k) s fun u =>
      let u1 := entered (.mret c.toNat (s.now.rs a).toNat f.toNat (k = 1)) u
      u1.putTask u1.tid { u1.now.produce [.s d.toNat] .mret with steps := 0 }) ∧
  (∀ s (c : BitVec 3) (v d : BitVec 6) (f : BitVec 4) (k : BitVec 1) w, issueMode s c = some w →
    let g := (List.range (mRows w)).map fun n => n + v.toNat
    s.ready { sw := [d.toNat], vw := g } = true → holdsTiles s.now [c.toNat] = true →
    (s.core s.now.core).loading c.toNat = false → fmtFor (mAcc w) f.toNat = true → s.holdClears s.tid (.mqueue 1) = true →
    Does (.mretv c v d f k) s fun u =>
      let u1 := entered (.mretv c.toNat f.toNat (k = 1)) u
      u1.putTask u1.tid { u1.now.produce (.s d.toNat :: g.map fun n => .v (s.now.rotate n)) .mret with steps := 0 }) ∧
  (∀ s, s.clear {} = true → s.holdClears s.tid (.mqueue 1) = true → (∀ e ∈ (s.core s.now.core).mq, e.tid ≠ s.tid) → Runs .mdrain s fun t => s.Gives t none 0)

/-- 06 R192-R194; 03 R79, R82: RFWD writes an integer's residues, a byte a channel; RCHK and RREV convert back under the check. -/
def Obligations.ResidueConversions : Prop :=
  (∀ s d a, s.clear { ports := 1, vr := [a.toNat], vw := [d.toNat] } = true →
    ∃ v : VReg, (∀ j < 64, v.toNat / 2 ^ (8 * j) % 256 = if j < 21 then ((elem (readsVec s.now a 0 0) 0).toInt % Config.modulus j).toNat else 0) ∧
      Runs (.rfwd d a) s fun t => s.Gives t (some { dst := .v (turned s.now d), off := 4, val := v }) 0) ∧
  (∀ s d a (l : BitVec 2), s.clear { ports := 1, vr := [a.toNat], vw := [d.toNat] } = true →
    let r (j : Nat) := (readsVec s.now a 0 0).toNat / 2 ^ (8 * j) % 256
    let c := if ∃ j ∈ laneChans l.toNat, Config.modulus j ≤ r j then Check.unlocated else checkLane r (laneChans l.toNat) (if l = 3 then 3 else 2) (half l.toNat)
    Runs (.rchk d a l) s fun t => s.Gives t (some { dst := .v (turned s.now d), off := 8, val := checkReg c }) 0) ∧
  (∀ s d h r (c : BitVec 3) w, s.clear { vw := [d.toNat] } = true → holdsTiles s.now [c.toNat] = true →
    (s.core s.now.core).loading c.toNat = false → issueMode s c = some w → mAcc w = 0 → r.toNat < 48 →
    s.holdClears s.tid (.tile c.toNat) = true →
    ∃ v, (∀ e < 8, elem v e = BitVec.ofNat 64 ((s.core s.now.core).checkedElem w c.toNat (16 * r.toNat + 8 * h.toNat + e))) ∧
      Runs (.rrev d h r c) s fun t => s.Gives t (some { dst := .v (turned s.now d), off := 8, val := v }) 0)

/-- 03 R79-R82, R92: the residues of an integer within a lane's half-range give it back, and with any one channel changed it is still
given back, and the channel named; with two changed the check is never OK. -/
def Obligations.ResidueCodeCorrectsOneChannel : Prop :=
  ∀ l < 4, ∀ x : Int, x.natAbs ≤ half l →
    checkLane (residue x) (laneChans l) (if l = 3 then 3 else 2) (half l) = .ok x ∧
    ∀ i ∈ laneChans l, ∀ e < Config.modulus i, e ≠ residue x i →
      checkLane (fun j => if j = i then e else residue x j) (laneChans l) (if l = 3 then 3 else 2) (half l) = .corrected i x ∧
      ∀ k ∈ laneChans l, k ≠ i → ∀ g < Config.modulus k, g ≠ residue x k → ∀ y,
        checkLane (fun j => if j = i then e else if j = k then g else residue x j) (laneChans l) (if l = 3 then 3 else 2) (half l) ≠ .ok y

/-- 06 R173, R174, R176, R180, R189, R199: what the array's entries do to their tiles: MSET gives its tiles the mode and zeroes them,
MZERO zeroes one, MINJ records an injection, a K-step reads its operands as it starts, takes the array for 32 cycles, or 64 at N = 4, and
its merge comes 12 cycles later. -/
def Obligations.ArrayEntriesExecute : Prop :=
  (∀ s e m w, s.calm = true → s.mxNext s.arg.unit MxOp.isMset = some e → e.op = .mset m w →
    Runs .msetExecute s fun t => (∀ c < 8, (t.core s.arg.unit).tile c = if m.testBit c then { ((s.core s.arg.unit).tile c).zero with mode := some w }
        else (s.core s.arg.unit).tile c) ∧
      (t.core s.arg.unit).mq = (s.core s.arg.unit).mq.filter (fun x => x.id ≠ e.id) ∧ t.mem = s.mem ∧ t.tasks = s.tasks) ∧
  (∀ s e c, s.calm = true → s.mxNext s.arg.unit MxOp.isMzero = some e → e.op = .mzero c →
    Runs .mzeroExecute s fun t => (∀ x, (t.core s.arg.unit).tile x = if x = c then ((s.core s.arg.unit).tile c).zero else (s.core s.arg.unit).tile x) ∧
      (t.core s.arg.unit).mq = (s.core s.arg.unit).mq.filter (fun x => x.id ≠ e.id) ∧ t.mem = s.mem ∧ t.tasks = s.tasks) ∧
  (∀ s e c ch d w, s.calm = true → s.mxNext s.arg.unit MxOp.isMinj = some e → e.op = .minj c ch d w →
    Runs .minjExecute s fun t => (t.core s.arg.unit).tile c = { (s.core s.arg.unit).tile c with inj := some (ch, d, w) } ∧
      (t.core s.arg.unit).mq = (s.core s.arg.unit).mq.filter (fun x => x.id ≠ e.id) ∧ t.mem = s.mem ∧ t.tasks = s.tasks) ∧
  (∀ s e c z n a b m ws, s.calm = true → s.mxNext s.arg.unit MxOp.isMma = some e → e.op = .mma c z n a b m ws →
    let k := s.core s.arg.unit
    Runs .kstepStart s fun t => (∃ y ∈ (t.core s.arg.unit).mq, y.id = e.id ∧ y.op = e.op ∧ y.phase = 1 ∧ y.a = (k.alcove a).data ∧
        y.b = (k.alcove b).data ∧ y.m = (m.map fun x => (k.alcove x).data).getD [] ∧
        y.due = s.cycle + (if mSp (((k.tile c).mode).getD 0) = 1 then 64 else 32) + 12) ∧ t.mem = s.mem ∧ t.tasks = s.tasks)

/-! ### The copy and network slots -/

/-- 08 R224, R225, R248, R249: CSET writes a field with a value that the field takes, and traps as ILLEGAL-SLOT on a ring size it does not
take; CSHAPE sets the record's address. -/
def Obligations.ChannelFieldsAreWritten : Prop :=
  (∀ s (q : BitVec 2) (f a : BitVec 6), s.ready { sr := [a.toNat] } = true → s.now.qmask.testBit q.toNat = true → f.toNat < 8 →
    FieldOk s.now f.toNat (s.now.rs a).toNat → Does (.cset q f a) s (withChan q fun ch => fieldSet ch f.toNat (s.now.rs a).toNat)) ∧
  (∀ s (q : BitVec 2) a, s.ready { sr := [a.toNat] } = true → s.now.qmask.testBit q.toNat = true →
    Does (.cshape q a) s (withChan q fun ch => { ch with shape := (s.now.rs a).toNat })) ∧
  (∀ (q : BitVec 2) (fs a b : BitVec 6), (fs = 0 ∧ b = 0 → Reads [.cp] (cfWord 2 q.toNat fs.toNat a.toNat b.toNat) (.cshape q a)) ∧
    (¬ (fs = 0 ∧ b = 0) → RefusesField [.cp] (cfWord 2 q.toNat fs.toNat a.toNat b.toNat))) ∧
  (∀ s (q : BitVec 2) a, s.ready { sr := [a.toNat] } = true → s.now.qmask.testBit q.toNat = true → 10 < (s.now.rs a).toNat →
    Traps (.cset q 2 a) s 0x01 0 none)

/-- 08 R241, R250-R254: CGO launches a snapshot of its channel, and waits for one that is busy; CWP, CWAIT and CREC leave their register
empty until the channel answers; CCAN cancels by handle, and what a cancel does. -/
def Obligations.CommandsLaunchAndAnswer : Prop :=
  (∀ s (q : BitVec 2) a b, s.ready { sr := [a.toNat, b.toNat] } = true → s.now.qmask.testBit q.toNat = true →
    let ch := (s.core s.now.core).chan q.toNat
    let id := (s.now.rs a).toNat % 2 ^ 16
    let h := (s.now.rs b).toNat % 2 ^ 16
    (ch.cmd = none → (ch.field 7).testBit 4 = false →
      Does (.cgo q a b) s (withChan q fun ch => { ch with cmd := some (snapshot s q id h), fields := tabSet ch.fields 0 6 (ch.field 6 % 2 ^ 32) })) ∧
    (∀ x, ch.cmd = none → (ch.field 7).testBit 4 = true → tabFind s.now.handles (ch.field 7 % 16) = some x →
      ((s.core s.now.core).alcove x).st = 1 ∨ ((s.core s.now.core).alcove x).st = 4 →
      Runs (.cgo q a b) s fun t => ((t.core s.now.core).chan q.toNat).cmd = some (snapshot s q id h) ∧
        ((t.core s.now.core).alcove x).st = 2 ∧ t.mem = s.mem) ∧
    (ch.cmd ≠ none → Waits (.cgo q a b) s (.chan q.toNat))) ∧
  (∀ s (q : BitVec 2) d a, s.ready { sr := [a.toNat], sw := [d.toNat] } = true → s.now.qmask.testBit q.toNat = true →
    Does (.cwp q d a) s (awaits d (.cwp q.toNat (s.now.rs a).toNat))) ∧
  (∀ s (q : BitVec 2) d, s.ready { sw := [d.toNat] } = true → s.now.qmask.testBit q.toNat = true →
    let ch := (s.core s.now.core).chan q.toNat
    Does (.cwait q d) s (awaits d (if ch.cmd = none then .ready [BitVec.ofNat 512 ch.last] else .cwait q.toNat ch.ended)) ∧
    (ch.field 1 ≠ 0 → Does (.crec q d) s (awaits d (.crec q.toNat))) ∧ (ch.field 1 = 0 → Traps (.crec q d) s 0x01 0 none)) ∧
  (∀ s a, s.admits { sr := [a.toNat] } = true → Commits (.ccan a) s { sr := [a.toNat] } [.ccan ((s.now.rs a).toNat % 2 ^ 16)]) ∧ CancelsEnd

/-- 08 R255-R258: arrivals, arming and waits at a barrier of the issuing core's cluster, granted to the task's region; a wait fills with the
first generation that differs. -/
def Obligations.BarrierSlots : Prop :=
  (∀ s (n : BitVec 7), s.ready {} = true → s.barGranted (clusterOf s.now.core) n.toNat s.now.rkey = true → s.now.storesPending = false →
    let b := s.bar (clusterOf s.now.core) n.toNat
    ∃ v : Barrier, (b.target = 0 → v = b) ∧
      (b.target ≠ 0 → v.target = b.target ∧
        if b.arrived + 1 = b.target then v.gen = (b.gen + 1) % 2 ^ 32 ∧ v.arrived = 0 else v.gen = b.gen ∧ v.arrived = b.arrived + 1) ∧
      Does (.bara n) s fun u => u.setBar (clusterOf u.now.core) n.toNat v) ∧
  (∀ s a (n : BitVec 7), s.ready { sr := [a.toNat] } = true → s.barGranted (clusterOf s.now.core) n.toNat s.now.rkey = true →
    (1 ≤ (s.now.rs a).toNat → (s.now.rs a).toNat < 2 ^ 16 →
      Does (.bari a n) s fun u => u.setBar (clusterOf u.now.core) n.toNat { target := (s.now.rs a).toNat }) ∧
    ((s.now.rs a).toNat = 0 ∨ 2 ^ 16 ≤ (s.now.rs a).toNat → Traps (.bari a n) s 0x01 0 none)) ∧
  (∀ s d a (n : BitVec 7), s.ready { sr := [a.toNat], sw := [d.toNat] } = true →
    s.barGranted (clusterOf s.now.core) n.toNat s.now.rkey = true →
    Does (.barw d a n) s (awaitsInOrder d (.barw (clusterOf s.now.core * 32 + n.toNat) ((s.now.rs a).toNat % 2 ^ 32)))) ∧
  (∀ s (n : BitVec 7), s.ready {} = true → s.barGranted (clusterOf s.now.core) n.toNat s.now.rkey = false → Traps (.bara n) s 0x09 0 none) ∧ PhasesWake

/-- 09 R274, R276, R283, R285, R288-R293; 13 R398: FORK, JOIN, NEXT, WATCH and HSIG commit as their entries say; what a FORK does to its join
counter and its core's deque, a NEXT to its region's values, and an event to the host's queue. -/
def Obligations.TaskSlots : Prop :=
  (∀ s a, s.ready { sr := [a.toNat] } = true → s.now.run = 0 → s.now.lsq = [] → ownOperand s (s.now.rs a).toNat 64 64 = true →
    let bs := memBytes s.mem (s.now.rs a).toNat 64
    s.forkOk s.now bs = true → s.holdClears s.tid .forkRoom = true →
    Commits (.fork a) s { sr := [a.toNat] } [.local_ .vload (splitLines (s.now.rs a).toNat 64 4) [] [], .fork bs (s.now.rs a).toNat]) ∧
  (∀ s d a l, s.ready { sr := [a.toNat], sw := [d.toNat] } = true → Mapped s [(s.now.rs a).toNat] →
    s.daccess s.now (s.now.rs a).toNat 8 8 1 = .ok l → Does (.join d a) s (awaitsInOrder d (.join (s.now.rs a).toNat))) ∧
  (∀ s d a b (n : BitVec 7) l, s.ready { sr := [a.toNat, b.toNat], sw := [d.toNat] } = true →
    Mapped s [(s.now.rs a).toNat] → s.daccess s.now (s.now.rs a).toNat 8 8 1 = .ok l →
    Does (.watch d a b n) s (awaitsInOrder d (.watch (s.now.rs a).toNat (s.now.rs b).toNat (if n = 0 then 0 else s.cycle + 2 ^ (n.toNat + 8))))) ∧
  (∀ s d, s.ready { sw := [d.toNat] } = true → s.now.run = 0 → Commits (.next d) s { sw := [d.toNat] } [.produce [.s d.toNat] (.nextTile 0 0 false)]) ∧
  (∀ s a (v : BitVec 7), s.ready { sr := [a.toNat] } = true → s.now.run = 0 → s.holdClears s.tid .event = true →
    Commits (.hsig a v) s { sr := [a.toNat] } [.hsig v.toNat (s.now.rs a)]) ∧ JoinsAdd ∧ ForksPush ∧ NextsDraw ∧ EventsPost

/-- 10 R299, R321-R328: enqueues, configuration, reads and prefetches; a full sump traps with cause 0x12; and what they make
of their sump. -/
def Obligations.SumpSlots : Prop :=
  (∀ s d a b, s.ready { sr := [a.toNat, b.toNat], sw := [d.toNat] } = true → s.now.run = 0 → s.now.lsq = [] →
    s.now.storesPending = false →
    let id := (s.now.rs a).toNat
    let x := (s.now.rs b).toNat
    ownOperand s x 32 32 = true → sumpIdOk id = true → s.sumpUsable s.now.rkey id = true →
    (s.sumpRoom id = true → Commits (.xenq d a b) s { sr := [a.toNat, b.toNat], sw := [d.toNat] }
      [.local_ .vload (splitLines x 32 4) [] [], .xenq id (memBytes s.mem x 32) (.s d.toNat)]) ∧
    (s.sumpRoom id = false → Traps (.xenq d a b) s 0x12 0 none)) ∧
  (∀ s d a, ∀ r ∈ sumpRequests s d a, s.admits r.2.1 = true → r.2.2.1 = true → Commits r.1 s r.2.1 r.2.2.2) ∧
  (∀ s d a b, s.ready { sr := [a.toNat, b.toNat], sw := [d.toNat] } = true → s.privileged s.now = true → s.now.storesPending = false →
    let id := (s.now.rs a).toNat
    let x := (s.now.rs b).toNat
    ∀ va ls, sumpIdOk id = true → s.holdClears s.tid (.enqueued id) = true → placeN x 256 = some (.global va) →
    s.lsParts s.now 1 64 64 ((List.range 4).map fun i => x + 64 * i) = .ok ls →
    Commits (.xcfgLoad d a b) s { sr := [a.toNat, b.toNat], sw := [d.toNat] } [.xcfg id 0 x,
      .wr (.s d.toNat) 1 ((BitVec.ofNat 64 (s.sumpConfig s.now.rkey id 0 ((s.engRead s.now.part x 256).getD [])).2).setWidth 512) 0xFFFF]) ∧
  (∀ s d a (f : BitVec 7), s.clear { sr := [a.toNat], sw := [d.toNat] } = true →
    let v := (s.now.rs a).toNat
    f.toNat = 10 ∨ (sumpIdOk v = true ∧ (s.sumpUsable s.now.rkey v = true ∨ s.sumpBelow s.now.rkey v = true)) →
    s.holdClears s.tid (.enqueued v) = true →
    Runs (.xstat d a f) s fun t => s.Gives t (some (reg64 d 1 (s.sumpField s.now.rkey v f.toNat))) 0) ∧
  (∀ s d a, s.ready { sr := [a.toNat], sw := [d.toNat] } = true →
    let v := (s.now.rs a).toNat
    sumpIdOk v = true → s.sumpUsable s.now.rkey v = true → s.holdClears s.tid (.enqueued v) = true →
    Commits (.xdisp d a) s { sr := [a.toNat], sw := [d.toNat] }
      [.xdisp v, .wr (.s d.toNat) 1 ((BitVec.ofNat 64 (s.sump v).ents.length).setWidth 512) 0xFFFF]) ∧
  (∀ s a b (l : BitVec 7) va, s.ready { sr := [a.toNat, b.toNat] } = true →
    let v := (s.now.rs b).toNat
    v < 2 ^ 48 → v % 2 ^ 32 ≠ 0 → v % 2 ^ 32 ≤ 2 ^ 28 → placeN (s.now.rs a).toNat (v % 2 ^ 32) = some (.global va) →
    Does (.xpref a b l) s fun u => u.putDie (dieOf u.now.core) { u.die (dieOf u.now.core) with
      xprefs := (u.die (dieOf u.now.core)).xprefs ++ [{ region := u.now.rkey, cluster := clusterOf u.now.core, lvl := l.toNat, handle := v / 2 ^ 32
                                                        addr := (s.now.rs a).toNat, left := v % 2 ^ 32, priv := u.privileged u.now }] }) ∧
  (∀ s a, s.ready { sr := [a.toNat] } = true → Commits (.xcan a) s { sr := [a.toNat] } [.xcan ((s.now.rs a).toNat % 2 ^ 16)]) ∧ EnqueuesWait ∧ SumpsFollow

/-- 12 R381-R392: the tree service's requests, accepted or refused with a code, and what they make of their tree; TPOST, TWAIT and TQRY. -/
def Obligations.TreeSlots : Prop :=
  (∀ s d a b, ∀ r ∈ treeRequests s d a b, s.admits r.2.1 = true → r.2.2.1 = true → Commits r.1 s r.2.1 r.2.2.2) ∧
  (∀ s a b, s.ready { sr := [a.toNat, b.toNat] } = true → s.now.run = 0 →
    let v := (s.now.rs a).toNat
    let x := (s.now.rs b).toNat
    let key := treeKey s.now.part (v % 2 ^ 16)
    let m := v / 2 ^ 16 % 2 ^ 10
    let g := v / 2 ^ 32
    v / 2 ^ 26 % 2 ^ 6 = 0 → s.treeUsable s.now.rkey key = true → ownOperand s x (s.tree key).segsize 64 = true →
    s.postOk (s.tree key) s.now.core m g = true → s.holdClears s.tid (.window key g) = true →
    Commits (.tpost a b) s { sr := [a.toNat, b.toNat] } [.tpost (v % 2 ^ 16) m g x]) ∧
  (∀ s d a, s.ready { sr := [a.toNat], sw := [d.toNat] } = true →
    let v := (s.now.rs a).toNat
    let key := treeKey s.now.part (v % 2 ^ 16)
    v / 2 ^ 26 % 2 ^ 6 = 0 → s.treeUsable s.now.rkey key = true →
    Does (.twait d a) s (awaits d (.twait key (v / 2 ^ 16 % 2 ^ 10) (v / 2 ^ 32)))) ∧
  (∀ s d a (f : BitVec 7), s.clear { sr := [a.toNat], sw := [d.toNat] } = true →
    let key := treeKey s.now.part (s.now.rs a).toNat
    (s.now.rs a).toNat < 2 ^ 16 → s.treeUsable s.now.rkey key = true →
    Runs (.tqry d a f) s fun t => s.Gives t (some (reg64 d 1 (s.treeField key f.toNat))) 0) ∧ TreesFollow

/-- 14 R433, R442-R446: remote operations to another package of the task's partition and group, RFENCE, FSEND and FCLK; a task whose
operation has left parks, and a transfer stands last in its package's queue. -/
def Obligations.FabricSlots : Prop :=
  (∀ s (a : BitVec 5) pkg, let x := (s.now.getS (2 * a.toNat)).toNat
    s.now.getS (2 * a.toNat + 1) = BitVec.ofNat 64 pkg → pkg < 2 ^ 12 → pkg ≠ s.fab.pkg → pkg ≠ 0xFFF →
    s.peerFlag s.now.part pkg 0 = true → s.grouped pkg = true →
    (∀ d : BitVec 6, let sh : Shape := { sr := [2 * a.toNat, 2 * a.toNat + 1], vw := [2 * d.toNat, 2 * d.toNat + 1] }
      s.ready sh = true → (placeN x 128).isSome = true → x % 64 = 0 →
      Commits (.rld d a) s sh [.remote 1 pkg x [] 0 [.v (s.now.rotate (2 * d.toNat)), .v (s.now.rotate (2 * d.toNat + 1))]]) ∧
    (∀ d : BitVec 6, let sh : Shape := { ports := 2, sr := [2 * a.toNat, 2 * a.toNat + 1], vr := [2 * d.toNat, 2 * d.toNat + 1] }
      s.ready sh = true → s.now.run = 0 → (placeN x 128).isSome = true → x % 64 = 0 →
      Commits (.rst d a) s sh [.remote 2 pkg x
        (natLe 64 (s.now.rv (2 * d.toNat)).toNat ++ natLe 64 (s.now.rv (2 * d.toNat + 1)).toNat) 0 []]) ∧
    (∀ (d b : BitVec 6) (u : BitVec 1) (z : BitVec 2) (o : BitVec 3),
      let sh : Shape := { sr := [2 * a.toNat, 2 * a.toNat + 1, b.toNat] ++ (if o.toNat = 6 then [d.toNat] else []), sw := [d.toNat] }
      s.ready sh = true → s.now.run = 0 → (placeN x (2 ^ z.toNat)).isSome = true → x % 2 ^ z.toNat = 0 →
      Commits (.ratom d a b u z o) s sh [.remote 3 pkg x (natLe 8 (s.now.rs b).toNat ++ natLe 8 (s.now.rs d).toNat)
        (o.toNat + 8 * z.toNat + 32 * u.toNat) [.s d.toNat]])) ∧
  (∀ s d a, s.ready { sr := [a.toNat], sw := [d.toNat] } = true → (s.now.rs a).toNat < 2 ^ 12 →
    s.holdClears s.tid (.remoteDone false (s.now.rs a).toNat) = true →
    Does (.rfence d a) s fun u => sends d (BitVec.ofNat 64 (tabGet s.rerr 0 s.tid)) { u with rerr := tabDel u.rerr u.tid }) ∧
  (∀ s d, s.ready { sw := [d.toNat] } = true → s.holdClears s.tid (.remoteDone true 0) = true →
    Does (.rfenceAll d) s fun u => sends d (BitVec.ofNat 64 (tabGet s.rerr 0 s.tid)) { u with rerr := tabDel u.rerr u.tid }) ∧
  (∀ s d a, s.ready { sr := [a.toNat], sw := [d.toNat] } = true → s.now.run = 0 → s.now.lsq = [] →
    let x := (s.now.rs a).toNat
    let bs := memBytes s.mem x 64
    ownOperand s x 64 64 = true → (s.sendCode s.now.part bs = 0 → s.holdClears s.tid (.sendRoom (fieldAt bs 20 2)) = true) →
    Commits (.fsend d a) s { sr := [a.toNat], sw := [d.toNat] } ([.local_ .vload (splitLines x 64 4) [] []] ++
      (if s.sendCode s.now.part bs = 0 then [.fsend bs] else []) ++ [.wr (.s d.toNat) 1 ((s.sendQueue s.tid bs).2.setWidth 512) 0xFFFF])) ∧
  (∀ s d a (f : BitVec 7), s.clear { sr := if f = 4 ∨ f = 5 then [a.toNat] else [], sw := [d.toNat] } = true →
    (f = 4 ∨ f = 5 → (s.now.rs a).toNat < 2 ^ 12) →
    Runs (.fclk d a f) s fun t => s.Gives t (some (reg64 d 1 (s.fclk s.now f.toNat (s.now.rs a).toNat).toNat)) 0) ∧ RemotesPark

/-- 09 R294; 11 R353-R357: the requests of the die scheduler and of the translation service commit once the task's stores have been
performed, and wait until then; and what they make of their region. -/
def Obligations.SchedulerAndTranslationRequests : Prop :=
  (∀ s d a b, ∀ r ∈ regionRequests s a b ++ rangeRequests s d a b, s.admits r.2.1 = true → r.2.2.1 = true → Commits r.1 s r.2.1 r.2.2.2) ∧
  (∀ s a b, ∀ r ∈ regionRequests s a b, s.admits r.2.1 = true → s.privileged s.now = true → s.now.storesPending = true → Waits r.1 s .stores) ∧ RequestsAct

/-- 02 R58, R59; 01 R31: a task of a region that is not privileged traps with PRIVILEGE on every privileged instruction; so does a write
of a read-only special register, and a read of a trap record word outside a handler. -/
def Obligations.PrivilegeTrapsAtStageFour : Prop :=
  (∀ s d a b w h sl, ∀ f ∈ privilegedForms d a b w h sl, s.admits f.2 = true → s.privileged s.now = false → Denied f.1 s) ∧
  (∀ s, s.admits { sr := [1] } = true → s.privileged s.now = false → s.now.rs 1 ≠ 2 → Denied .eret s) ∧
  (∀ s a n, n ∈ [0x000, 0x001, 0x002, 0x003, 0x008, 0x028, 0x029, 0x02A, 0x040, 0x041, 0x042, 0x043, 0x044, 0x045, 0x046, 0x047, 0x050, 0x051] →
    s.admits { sr := [a.toNat], xw := [n] } = true → Denied (.movrs a (BitVec.ofNat 12 n)) s) ∧
  (∀ s d, ∀ k < 8, s.admits { sw := [d.toNat] } = true → s.now.handler = false → Denied (.movsr d (BitVec.ofNat 12 (0x040 + k))) s)
/-! ### Engines, host and fabric -/

/-- 01 R10, R32; 02 R43; 06 R173-R197; 07 R207-R223; 08 R230-R245; 09 R270-R287; 11 R332-R351; 12 R375-R380: every step of a core's
queues, of the array, of the copy engine, of the die scheduler, of the fault service, of the sumps and of the trees takes effect where
it can happen. That one which cannot happen changes nothing, and that its operands stand in `State.arg`, is the model's choice
(notes/assumptions/2). -/
def Obligations.EngineStepsTakeEffect : Prop :=
  (∀ s, ∀ r ∈ coreEvents s ++ dieEvents s ++ treeEvents s, StepsTo r.1 s r.2) ∧ TrapsAreDisposed ∧ TasksMove ∧ CopiesWrite ∧ EnginesTake

/-- 13 R393-R418; 14 R419-R446; 11 R359-R361: what the host, the power controller, the module's monitors and the fabric do takes effect
where it can happen; a mailbox command meets the mailbox's own rules first. That a step which cannot happen changes nothing, and that its operands
stand in `State.arg`, is the model's choice (notes/assumptions/2); so is what notes/assumptions/40, 41, 44 and 117-119 say of these steps. -/
def Obligations.OutsideStepsTakeEffect : Prop :=
  (∀ s, ∀ r ∈ fabricEvents s ++ commandEvents s ++ resetEvents s ++ hostEvents s, StepsTo r.1 s r.2) ∧ FabricActs

/-! ### The whole machine -/

/-- 02 R36-R41, R59: the step takes the bundle at the program counter of the task that the core runs, and the first of its words runs as
what it decodes to, told how many words follow it; a bundle of one word is exactly that. That cores and engines take turns, and that an agenda names
steps with their operands, is the model's choice (notes/assumptions/2, 4), as is what every step ends with, `concluded`: the waits whose
point has come take their values, and a step that would write a line that the host may hold is put off as a whole, the model's reading of
11 R359 (notes/assumptions/32). -/
def Obligations.StepRunsDecoded : Prop :=
  (∀ s c ws sl w i r, s.agenda = [] → s.turn % 2 = 0 → State.nextCore { s with turn := s.turn + 1 } = some c →
    let u := State.pick { s with turn := s.turn + 1, cur := c }
    let k := u.now.pc % 16
    u.tid ≠ 0 → (u.core u.cur).stall = 0 → (u.core u.cur).wait = 0 → u.now.idle = 0 → (∀ h, u.now.hold = some h → u.holdClears u.tid h = true) →
    u.now.ending = false →
    u.fetch u.now u.now.pc = .ok ws → checkPacket ws = true → isHeader ws k = true → bundleSlots ws k = (sl, w) :: r → decodeSlot sl w = .ok i →
    let v := exec i { u with bun := { hdr := ws.getD k 0, pc := u.now.pc, next := nextBundle ws u.now.pc, slot := sl.num, left := r.length } }
    let done := State.concluded { s with turn := s.turn + 1 }
    step s = done (match v with | .next t => State.runSlots exec r t | x => x) ∧ (r = [] → step s = done v)) ∧
  (∀ s i a r, s.agenda = (i, a) :: r → i.slotKind = .event → step s = s.concluded (exec i { s with agenda := r, arg := a }))

/-- 13 R394, R395, R400: right after reset nothing has booted, no function has completed a command, and no partition is configured; the
memory has its canonical form. 01 R7; 09 R265: a task starts with its arguments, everything else zero, full and cleared. Reset values
that the spec does not give: notes/assumptions/7. -/
def Obligations.ResetAndTaskStart : Prop :=
  (State.reset.Inv ∧ State.reset.boot.stage = 0 ∧ State.reset.boot.mbst = 0 ∧ State.reset.boot.mbseq = 0 ∧ State.reset.parts = [] ∧
    State.reset.regions = [] ∧ State.reset.tasks = [] ∧ State.reset.cycle = 0 ∧ (∀ p, (State.reset.part p).mbstat = 0) ∧ State.reset.nextCore = none) ∧
  ∀ (s : State) (x : Rec) core, x.bytes.length = 64 →
    let u := s.startTask x core 0 0
    let t := u.task s.ntid
    t.pc = fieldAt x.bytes 0 8 ∧ t.loops = [] ∧ t.getS 0 = 0 ∧ (∀ i < 2, t.getS (1 + i) = BitVec.ofNat 64 (fieldAt x.bytes (24 + 8 * i) 8)) ∧
    (∀ i < 6, t.getS (3 + i) = (BitVec.ofNat 32 (fieldAt x.bytes (40 + 4 * i) 4)).signExtend 64) ∧ t.getS 62 = BitVec.ofNat 64 x.addr ∧
    (∀ n < 64, 9 ≤ n → n ≠ 62 → t.getS n = 0) ∧ (∀ n, t.getV n = 0) ∧ (∀ k < 16, t.getP k = if k = 0 then 0xFFFF else 0) ∧
    t.vn = 32 * (1 + fieldAt x.bytes 18 1 / 16 % 4) ∧ t.ib0 = 0 ∧ t.ib1 = 0 ∧ t.rotBase = 0 ∧ t.rotSize = 0 ∧ t.handles = [] ∧ t.fpmode = 0 ∧
    t.fpflags = 0 ∧ t.niche = [] ∧ t.nicheKiB = fieldAt x.bytes 18 1 % 16 ∧ (∀ d, t.isEmpty d = false ∧ t.isFailed d = false) ∧
    (∀ c < 8, t.cmask.testBit c = true → (u.core core).tile c = { owner := s.ntid }) ∧ (∀ q < 4, t.qmask.testBit q = true → (u.core core).chan q = {})

/-- Every step keeps the memory's canonical form: addresses strictly rising, no byte equal to what an unlisted address reads as, so that
equal contents are equal data (notes/assumptions/8). -/
def Obligations.StepKeepsMemoryForm : Prop := ∀ s t : State, s.Inv → step s = .next t → t.Inv

/-- 02 R59; 07 R203: the machine never stops: from every state the step answers a next state, whatever stands in memory; an undefined word, a
fault or a lost access is a trap. So a run of any length goes on. That a step which cannot happen leaves the state as it is, and that a cycle passes
where no core and no engine has anything to do, is the model's choice (notes/assumptions/2, 4, 123). -/
def Obligations.EveryStepGoesOn : Prop := (∀ s : State, s.goesOn) ∧ ∀ s : State, s.safe

/-- 02 R59; 04 R103; 07 R203, R205: a slot word of a bundle with more to come changes nothing but what stands beside it in the bundle, so
that every slot reads the registers as they were; and a bundle that traps commits nothing: its task stops with the record of R205, and
every register and predicate is as the bundle saw it, and every flag, loop level, pending access and byte of memory as it was. -/
def Obligations.BundlesCommitWholeOrNotAtAll : Prop :=
  (∀ i s, i.slotKind ≠ .event → s.tid ≠ 0 → s.bun.left ≠ 0 →
    ∃ l : SlotLog, l.slot = s.bun.slot ∧ exec i s = .next { s with bun := { s.bun with logs := s.bun.logs ++ [l] } }) ∧
  (∀ (s : State) (x : Trap) need, s.calm = true → s.verdict = .trap x need → (∀ k < 8, x.causes / 2 ^ (8 * k) % 256 ≠ 0x08) →
    let t := s.closeBundle
    let u := t.task s.tid
    u.status = .trapped ∧ u.pc = x.pc ∧ u.idle = 0 ∧ u.SameRegs s.now.land ∧ u.fpflags = s.now.fpflags ∧ u.fpmode = s.now.fpmode ∧ u.loops = s.now.loops ∧
    u.rotBase = s.now.rotBase ∧ u.rotSize = s.now.rotSize ∧ u.vn = s.now.vn ∧ u.niche = s.now.niche ∧ u.handles = s.now.handles ∧
    u.lsq = s.now.lsq ∧ u.prods = s.now.prods ∧ u.nb = s.now.nb ∧ u.sEmpty = s.now.sEmpty ∧ u.vEmpty = s.now.vEmpty ∧
    u.flights.map (fun f => (f.dst, f.due, f.ord, f.val, f.mask)) =
      (s.now.land.flights.filter fun f => !s.now.isEmpty f.dst).map (fun f => (f.dst, f.due, f.ord, f.val, f.mask)) ∧
    u.trec = [BitVec.ofNat 64 x.pc,
      BitVec.ofNat 64 (s.tid * 2 ^ 32 + x.stage * 2 ^ 16 + b2n x.entry * 2 ^ 9 + b2n x.fetch * 2 ^ 8 + x.mask),
      BitVec.ofNat 64 x.causes, BitVec.ofNat 64 x.addr, BitVec.ofNat 64 x.detail, x.operand,
      BitVec.ofNat 64 (b2n x.vec * 2 ^ 23 + x.reg * 2 ^ 16 + x.code), BitVec.ofNat 64 (s.cycle - (s.core s.now.core).cycle0)] ∧
    s.SameWorld { t with cores := s.cores } ∧ ∀ c, (t.core c).mq = (s.core c).mq ∧ (∀ q, (t.core c).chan q = (s.core c).chan q) ∧
      (∀ a, (t.core c).alcove a = (s.core c).alcove a) ∧ ∀ a, (t.core c).tile a = (s.core c).tile a)

/-- 01 R8, R9, R13, R15: s0 and p0 read as constants, whatever is sent to them; a result is not seen before its offset; and of two results
that become usable in the same bundle the one issued later takes effect. -/
def Obligations.ConstantsAndLandingOrder : Prop :=
  (∀ (t : Task) v m, t.getS 0 = 0 ∧ t.getP 0 = 0xFFFF ∧ (t.put (.s 0) v m).SameRegs t ∧ (t.put (.p 0) v m).SameRegs t) ∧
  (∀ s a (i : BitVec 14), s.clear { sr := [a.toNat], sw := [0] } = true → Runs (.addi 0 a i) s fun t => s.Gives t none 0) ∧
  (∀ s (p : BitVec 4), s.clear { pw := [0] } = true → Runs (.pset 0 p) s fun t => s.Gives t none 0) ∧
  (∀ (t : Task) d n v w, t.flights = [] → t.prods = [] → 0 < d → d < 64 → t.isEmpty (.s d) = false →
    let u := (t.launch (.s d) (n + 2) v 0xFFFF).bump.launch (.s d) (n + 1) w 0xFFFF
    (∀ k ≤ n, (u.later k).getS d = t.getS d) ∧ (u.later (n + 1)).getS d = w.setWidth 64)

/-- 02 R50-R57: a slot takes a word as an instruction exactly when the instruction is well formed, may stand there, and encodes to that
word: no bit of a word is dropped, no word has two readings, no well-formed instruction is lost. -/
def Obligations.DecodeAndEncodeAgree : Prop :=
  ∀ sl w i, decodeSlot sl w = .ok i ↔ i.wellFormed = true ∧ encode i = some w ∧ standsIn i.slotKind sl = true

/-- 02 R41, R50-R57: words of every slot, spelled out from the spec's encodings, decode to the instructions they stand for. -/
def Obligations.SpelledWordsDecode : Prop := ∀ x ∈ spelled, decodeSlot x.1 x.2.1 = .ok x.2.2

/-- 03 R67, R68; 04 R128: sums, products and fused products of finite numbers are the exact value rounded once under FPMODE's mode, and
flag inexactness, in every format; an exact zero is +0, or -0 under RDN (04 R128), but for operands of one sign, whose zero IEEE 754 gives that
sign, and raises no flag. -/
def Obligations.ArithmeticRoundsOnce : Prop :=
  ∀ f ∈ [Fmt.f64, Fmt.f32, Fmt.f16, Fmt.bf16], ∀ rm < 4, ∀ x y z p q r, fpVal f x = some p → fpVal f y = some q → fpVal f z = some r →
    (p + q ≠ 0 → RoundedTo f rm (p + q) (f.add rm (f.decode x) (f.decode y))) ∧
    (p * q ≠ 0 → RoundedTo f rm (p * q) (f.mul rm (f.decode x) (f.decode y))) ∧
    (p * q + r ≠ 0 → RoundedTo f rm (p * q + r) (f.fma rm (f.decode z) (f.decode x) (f.decode y))) ∧
    (p + q = 0 → f.add rm (f.decode x) (f.decode y) = (f.zero (if minus f x = minus f y then minus f x else rm == 3), 0)) ∧
    (p * q = 0 → f.mul rm (f.decode x) (f.decode y) = (f.zero (minus f x != minus f y), 0)) ∧
    (p * q + r = 0 → f.fma rm (f.decode z) (f.decode x) (f.decode y) =
      (f.zero (if (minus f x != minus f y) = minus f z then minus f z else rm == 3), 0))
end

