-- ==== Sys2Proof/Laws/Tab.lean ====
section
/-! SUPPORT. Laws of tables and of memory: what a write leaves alone, and that every memory operation keeps the canonical form. -/

namespace Sys2Proof.Machine

variable {α : Type}

/-- A key just set reads as it was set. -/
@[simp] theorem tabFind_tabPut_self (t : Tab α) (k : Nat) (v : α) : tabFind (tabPut t k v) k = some v := by
  induction t with
  | nil => simp [tabPut, tabFind]
  | cons x r ih =>
    obtain ⟨j, w⟩ := x
    simp only [tabPut]
    split
    · simp [tabFind]
    · split
      · simp [tabFind]
      · simp [tabFind, *]

/-- Setting a key leaves every other key alone. -/
theorem tabFind_tabPut_ne (t : Tab α) (k j : Nat) (v : α) (h : j ≠ k) : tabFind (tabPut t k v) j = tabFind t j := by
  induction t with
  | nil => simp [tabPut, tabFind, Ne.symm h]
  | cons x r ih =>
    obtain ⟨i, w⟩ := x
    simp only [tabPut]
    split
    · simp [tabFind, Ne.symm h]
    · split
      · subst_vars; simp [tabFind, Ne.symm h]
      · simp [tabFind, ih]

/-- A key set reads as it was set, through the default. -/
@[simp] theorem tabGet_tabPut_self (t : Tab α) (d : α) (k : Nat) (v : α) : tabGet (tabPut t k v) d k = v := by simp [tabGet]

/-- Setting a key leaves what every other key reads as alone. -/
theorem tabGet_tabPut_ne (t : Tab α) (d : α) (k j : Nat) (v : α) (h : j ≠ k) : tabGet (tabPut t k v) d j = tabGet t d j := by
  simp [tabGet, tabFind_tabPut_ne t k j v h]

/-- Setting a key twice is setting it once. -/
@[simp] theorem tabPut_tabPut (t : Tab α) (k : Nat) (v w : α) : tabPut (tabPut t k v) k w = tabPut t k w := by
  induction t with
  | nil => simp [tabPut]
  | cons x r ih =>
    obtain ⟨j, u⟩ := x
    simp only [tabPut]
    by_cases h1 : k < j
    · simp [h1, tabPut]
    · by_cases h2 : j = k
      · simp [h2, tabPut]
      · simp [h1, h2, tabPut, ih]

/-- A property of every entry survives the setting of a key to a value that has it. -/
theorem tabPut_all (t : Tab α) (k : Nat) (v : α) (f : Nat × α → Bool) (h : t.all f = true) (hv : f (k, v) = true) :
    (tabPut t k v).all f = true := by
  induction t with
  | nil => simp [tabPut, hv]
  | cons x r ih =>
    obtain ⟨j, u⟩ := x
    simp only [List.all_cons, Bool.and_eq_true] at h
    simp only [tabPut]
    split
    · simp [hv, h.1, h.2]
    · split
      · simp [hv, h.2]
      · simp [h.1, ih h.2]

/-! ### The canonical form -/

/-- The least key of a table is above a bound. -/
def tabAbove (b : Nat) (t : Tab α) : Prop := ∀ x ∈ t, b < x.1

theorem tabSorted_cons (j : Nat) (w : α) (r : Tab α) : tabSorted ((j, w) :: r) = true ↔ tabAbove j r ∧ tabSorted r = true := by
  induction r generalizing j w with
  | nil => simp [tabSorted, tabAbove]
  | cons x r ih =>
    obtain ⟨k, u⟩ := x
    simp only [tabSorted, Bool.and_eq_true, decide_eq_true_eq]
    constructor
    · rintro ⟨h1, h2⟩
      refine ⟨?_, h2⟩
      intro y hy
      rcases List.mem_cons.1 hy with rfl | hy
      · exact h1
      · exact Nat.lt_trans h1 (((ih k u).1 h2).1 y hy)
    · rintro ⟨h1, h2⟩
      exact ⟨h1 (k, u) (by simp), h2⟩

/-- Every listed key of a table with one key set is that key or was listed before. -/
theorem tabAbove_tabPut (b : Nat) (t : Tab α) (k : Nat) (v : α) (h : tabAbove b t) (hk : b < k) : tabAbove b (tabPut t k v) := by
  induction t with
  | nil => intro x hx; simp [tabPut] at hx; subst hx; exact hk
  | cons y r ih =>
    obtain ⟨j, w⟩ := y
    have hj : b < j := h (j, w) (by simp)
    have hr : tabAbove b r := fun x hx => h x (by simp [hx])
    intro x hx
    simp only [tabPut] at hx
    split at hx
    · simp at hx; rcases hx with rfl | rfl | hx
      · exact hk
      · exact hj
      · exact hr x hx
    · split at hx
      · simp at hx; rcases hx with rfl | hx
        · exact hk
        · exact hr x hx
      · simp at hx; rcases hx with rfl | hx
        · exact hj
        · exact ih hr x hx

/-- Setting a key keeps a table's order. -/
theorem tabSorted_tabPut (t : Tab α) (k : Nat) (v : α) (h : tabSorted t = true) : tabSorted (tabPut t k v) = true := by
  induction t with
  | nil => simp [tabPut, tabSorted]
  | cons y r ih =>
    obtain ⟨j, w⟩ := y
    have hc := (tabSorted_cons j w r).1 h
    simp only [tabPut]
    split
    · rename_i hlt
      refine (tabSorted_cons k v _).2 ⟨?_, h⟩
      intro x hx
      rcases List.mem_cons.1 hx with rfl | hx
      · exact hlt
      · exact Nat.lt_trans hlt (hc.1 x hx)
    · split
      · rename_i _ he; subst he; exact (tabSorted_cons _ v r).2 hc
      · rename_i h1 h2
        exact (tabSorted_cons j w _).2 ⟨tabAbove_tabPut j r k v hc.1 (by omega), ih hc.2⟩

/-- What is left of a table is in it. -/
theorem tabDel_subset (t : Tab α) (k : Nat) : ∀ x ∈ tabDel t k, x ∈ t := by
  induction t with
  | nil => simp [tabDel]
  | cons y r ih =>
    obtain ⟨j, w⟩ := y
    intro x hx
    simp only [tabDel] at hx
    split at hx
    · exact List.mem_cons_of_mem _ (ih x hx)
    · rcases List.mem_cons.1 hx with rfl | hx
      · simp
      · exact List.mem_cons_of_mem _ (ih x hx)

/-- Unlisting a key keeps a table's order. -/
theorem tabSorted_tabDel (t : Tab α) (k : Nat) (h : tabSorted t = true) : tabSorted (tabDel t k) = true := by
  induction t with
  | nil => simp [tabDel, tabSorted]
  | cons y r ih =>
    obtain ⟨j, w⟩ := y
    have hc := (tabSorted_cons j w r).1 h
    simp only [tabDel]
    split
    · exact ih hc.2
    · exact (tabSorted_cons j w _).2 ⟨fun x hx => hc.1 x (tabDel_subset r k x hx), ih hc.2⟩

/-- A selection of a table's entries keeps its order. -/
theorem tabSorted_filter (t : Tab α) (f : Nat × α → Bool) (h : tabSorted t = true) : tabSorted (t.filter f) = true := by
  induction t with
  | nil => simp [tabSorted]
  | cons y r ih =>
    obtain ⟨j, w⟩ := y
    have hc := (tabSorted_cons j w r).1 h
    simp only [List.filter_cons]
    split
    · exact (tabSorted_cons j w _).2 ⟨fun x hx => hc.1 x (List.mem_of_mem_filter hx), ih hc.2⟩
    · exact ih hc.2

/-- An unlisted key reads as none. -/
@[simp] theorem tabFind_tabDel_self (t : Tab α) (k : Nat) : tabFind (tabDel t k) k = none := by
  induction t with
  | nil => rfl
  | cons y r ih =>
    obtain ⟨j, w⟩ := y
    simp only [tabDel]
    split
    · exact ih
    · rename_i he; simp [tabFind, he, ih]

/-- Unlisting a key leaves every other key alone. -/
theorem tabFind_tabDel_ne (t : Tab α) (k j : Nat) (h : j ≠ k) : tabFind (tabDel t k) j = tabFind t j := by
  induction t with
  | nil => rfl
  | cons y r ih =>
    obtain ⟨i, w⟩ := y
    simp only [tabDel]
    split
    · rename_i he; subst he; simp [tabFind, Ne.symm h, ih]
    · simp [tabFind, ih]

/-- The canonical form, in two halves. -/
theorem Memory.wf_iff (m : Memory) : Memory.wf m = true ↔ tabSorted m = true ∧ ∀ c ∈ m, c.2 ≠ blankByte := by
  simp [Memory.wf, List.all_eq_true]

/-- Writing a byte keeps the canonical form. -/
theorem memPut_wf (m : Memory) (a : Nat) (b : Byte) (h : Memory.wf m = true) : Memory.wf (memPut m a b) = true := by
  rw [Memory.wf_iff] at h ⊢
  unfold memPut tabSet
  split
  · exact ⟨tabSorted_tabDel m a h.1, fun c hc => h.2 c (tabDel_subset m a c hc)⟩
  · rename_i hb
    refine ⟨tabSorted_tabPut m a b h.1, ?_⟩
    have := tabPut_all m a b (fun c => decide (c.2 ≠ blankByte)) (by simpa [List.all_eq_true] using h.2) (by simpa using hb)
    simpa [List.all_eq_true] using this

/-- Writing bytes keeps the canonical form. -/
theorem memPutBytes_wf (m : Memory) (a : Nat) (bs : List Byte) (h : Memory.wf m = true) : Memory.wf (memPutBytes m a bs) = true := by
  induction bs generalizing m a with
  | nil => exact h
  | cons b r ih => exact ih (memPut m a b) (a + 1) (memPut_wf m a b h)

/-- A selection of a memory's bytes keeps the canonical form. -/
theorem filter_wf (m : Memory) (f : Host.Cell → Bool) (h : Memory.wf m = true) : Memory.wf (m.filter f) = true := by
  rw [Memory.wf_iff] at h ⊢
  exact ⟨tabSorted_filter m f h.1, fun c hc => h.2 c (List.mem_of_mem_filter hc)⟩

/-- A byte just written reads as it was written. -/
theorem memByte_memPut_self (m : Memory) (a : Nat) (b : Byte) : memByte (memPut m a b) a = b := by
  unfold memByte memPut tabSet
  split
  · rename_i hb; simp [tabGet, hb]
  · simp

/-- Writing a byte leaves every other byte alone. -/
theorem memByte_memPut_ne (m : Memory) (a c : Nat) (b : Byte) (h : c ≠ a) : memByte (memPut m a b) c = memByte m c := by
  unfold memByte memPut tabSet
  split
  · simp [tabGet, tabFind_tabDel_ne m a c h]
  · simp [tabGet_tabPut_ne m blankByte a c b h]

/-- Writing bytes leaves every byte outside them alone. -/
theorem memByte_memPutBytes_out (m : Memory) (a c : Nat) (bs : List Byte) (h : c < a ∨ a + bs.length ≤ c) :
    memByte (memPutBytes m a bs) c = memByte m c := by
  induction bs generalizing m a with
  | nil => rfl
  | cons b r ih =>
    simp only [List.length_cons] at h
    rw [memPutBytes, ih (memPut m a b) (a + 1) (by omega), memByte_memPut_ne m a c b (by omega)]

/-- Bytes just written read as they were written. -/
theorem memByte_memPutBytes_in (m : Memory) (a i : Nat) (bs : List Byte) (hi : i < bs.length) :
    memByte (memPutBytes m a bs) (a + i) = bs[i] := by
  induction bs generalizing m a i with
  | nil => simp at hi
  | cons b r ih =>
    cases i with
    | zero => rw [memPutBytes, memByte_memPutBytes_out _ _ _ _ (by omega)]; simpa using memByte_memPut_self m a b
    | succ i =>
      have hr : i < r.length := by simpa using hi
      have := ih (memPut m a b) (a + 1) i hr
      rw [memPutBytes, show a + (i + 1) = a + 1 + i by omega, this]; rfl

/-- Bytes that agree with a list one by one are that list. -/
theorem memBytes_eq (m : Memory) (a : Nat) (bs : List Byte) (h : ∀ i (hi : i < bs.length), memByte m (a + i) = bs[i]) :
    memBytes m a bs.length = bs := by
  induction bs generalizing a with
  | nil => rfl
  | cons b r ih =>
    have h0 := h 0 (by simp)
    simp only [Nat.add_zero, List.getElem_cons_zero] at h0
    simp only [List.length_cons, memBytes, h0, List.cons.injEq, true_and]
    exact ih (a + 1) fun i hi => by
      have := h (i + 1) (by simpa using hi)
      simpa [Nat.add_assoc, Nat.add_comm 1 i] using this

/-- Bytes just written are read back whole. -/
@[simp] theorem memBytes_memPutBytes (m : Memory) (a : Nat) (bs : List Byte) : memBytes (memPutBytes m a bs) a bs.length = bs :=
  memBytes_eq _ a bs fun i hi => memByte_memPutBytes_in m a i bs hi

end Sys2Proof.Machine
end

