-- ==== Sys2Proof/Laws/State.lean ====
section
/-! SUPPORT. What each update of State and of Task leaves as it was: one law per field and update, true by definition. -/

namespace Sys2Proof.Machine

/-! ### One entry replaced -/

@[simp] theorem task_putTask_self (s : State) (t : Nat) (k : Task) : (s.putTask t k).task t = k := by simp [State.putTask, State.task]
theorem task_putTask_ne (s : State) (t u : Nat) (k : Task) (h : u ≠ t) : (s.putTask t k).task u = s.task u := by
  simp [State.putTask, State.task, tabGet_tabPut_ne _ _ _ _ _ h]
@[simp] theorem putTask_putTask (s : State) (t : Nat) (k l : Task) : (s.putTask t k).putTask t l = s.putTask t l := by simp [State.putTask]
@[simp] theorem core_putCore_self (s : State) (c : Nat) (k : Core) : (s.putCore c k).core c = k := by simp [State.putCore, State.core]
theorem core_putCore_ne (s : State) (c d : Nat) (k : Core) (h : d ≠ c) : (s.putCore c k).core d = s.core d := by
  simp [State.putCore, State.core, tabGet_tabPut_ne _ _ _ _ _ h]

/-! ### putTask -/

@[simp] theorem putTask_cycle (s : State) (t : Nat) (k : Task) : (s.putTask t k).cycle = s.cycle := rfl
@[simp] theorem putTask_ns (s : State) (t : Nat) (k : Task) : (s.putTask t k).ns = s.ns := rfl
@[simp] theorem putTask_free (s : State) (t : Nat) (k : Task) : (s.putTask t k).free = s.free := rfl
@[simp] theorem putTask_agenda (s : State) (t : Nat) (k : Task) : (s.putTask t k).agenda = s.agenda := rfl
@[simp] theorem putTask_arg (s : State) (t : Nat) (k : Task) : (s.putTask t k).arg = s.arg := rfl
@[simp] theorem putTask_turn (s : State) (t : Nat) (k : Task) : (s.putTask t k).turn = s.turn := rfl
@[simp] theorem putTask_cur (s : State) (t : Nat) (k : Task) : (s.putTask t k).cur = s.cur := rfl
@[simp] theorem putTask_bun (s : State) (t : Nat) (k : Task) : (s.putTask t k).bun = s.bun := rfl
@[simp] theorem putTask_mem (s : State) (t : Nat) (k : Task) : (s.putTask t k).mem = s.mem := rfl
@[simp] theorem putTask_cores (s : State) (t : Nat) (k : Task) : (s.putTask t k).cores = s.cores := rfl
@[simp] theorem putTask_ntid (s : State) (t : Nat) (k : Task) : (s.putTask t k).ntid = s.ntid := rfl
@[simp] theorem putTask_bars (s : State) (t : Nat) (k : Task) : (s.putTask t k).bars = s.bars := rfl
@[simp] theorem putTask_ctlb (s : State) (t : Nat) (k : Task) : (s.putTask t k).ctlb = s.ctlb := rfl
@[simp] theorem putTask_dies (s : State) (t : Nat) (k : Task) : (s.putTask t k).dies = s.dies := rfl
@[simp] theorem putTask_parts (s : State) (t : Nat) (k : Task) : (s.putTask t k).parts = s.parts := rfl
@[simp] theorem putTask_regions (s : State) (t : Nat) (k : Task) : (s.putTask t k).regions = s.regions := rfl
@[simp] theorem putTask_banks (s : State) (t : Nat) (k : Task) : (s.putTask t k).banks = s.banks := rfl
@[simp] theorem putTask_algr (s : State) (t : Nat) (k : Task) : (s.putTask t k).algr = s.algr := rfl
@[simp] theorem putTask_bargr (s : State) (t : Nat) (k : Task) : (s.putTask t k).bargr = s.bargr := rfl
@[simp] theorem putTask_sumpgr (s : State) (t : Nat) (k : Task) : (s.putTask t k).sumpgr = s.sumpgr := rfl
@[simp] theorem putTask_sumps (s : State) (t : Nat) (k : Task) : (s.putTask t k).sumps = s.sumps := rfl
@[simp] theorem putTask_trees (s : State) (t : Nat) (k : Task) : (s.putTask t k).trees = s.trees := rfl
@[simp] theorem putTask_stamps (s : State) (t : Nat) (k : Task) : (s.putTask t k).stamps = s.stamps := rfl
@[simp] theorem putTask_copies (s : State) (t : Nat) (k : Task) : (s.putTask t k).copies = s.copies := rfl
@[simp] theorem putTask_snoop (s : State) (t : Nat) (k : Task) : (s.putTask t k).snoop = s.snoop := rfl
@[simp] theorem putTask_binv (s : State) (t : Nat) (k : Task) : (s.putTask t k).binv = s.binv := rfl
@[simp] theorem putTask_ports (s : State) (t : Nat) (k : Task) : (s.putTask t k).ports = s.ports := rfl
@[simp] theorem putTask_fab (s : State) (t : Nat) (k : Task) : (s.putTask t k).fab = s.fab := rfl
@[simp] theorem putTask_rops (s : State) (t : Nat) (k : Task) : (s.putTask t k).rops = s.rops := rfl
@[simp] theorem putTask_sendqs (s : State) (t : Nat) (k : Task) : (s.putTask t k).sendqs = s.sendqs := rfl
@[simp] theorem putTask_outbox (s : State) (t : Nat) (k : Task) : (s.putTask t k).outbox = s.outbox := rfl
@[simp] theorem putTask_transit (s : State) (t : Nat) (k : Task) : (s.putTask t k).transit = s.transit := rfl
@[simp] theorem putTask_xpts (s : State) (t : Nat) (k : Task) : (s.putTask t k).xpts = s.xpts := rfl
@[simp] theorem putTask_rerr (s : State) (t : Nat) (k : Task) : (s.putTask t k).rerr = s.rerr := rfl
@[simp] theorem putTask_bad (s : State) (t : Nat) (k : Task) : (s.putTask t k).bad = s.bad := rfl
@[simp] theorem putTask_runs (s : State) (t : Nat) (k : Task) : (s.putTask t k).runs = s.runs := rfl
@[simp] theorem putTask_doom (s : State) (t : Nat) (k : Task) : (s.putTask t k).doom = s.doom := rfl
@[simp] theorem putTask_boot (s : State) (t : Nat) (k : Task) : (s.putTask t k).boot = s.boot := rfl
@[simp] theorem putTask_link (s : State) (t : Nat) (k : Task) : (s.putTask t k).link = s.link := rfl
@[simp] theorem putTask_power (s : State) (t : Nat) (k : Task) : (s.putTask t k).power = s.power := rfl
@[simp] theorem putTask_rowAt (s : State) (t : Nat) (k : Task) : (s.putTask t k).rowAt = s.rowAt := rfl
@[simp] theorem putTask_putOff (s : State) (t : Nat) (k : Task) : (s.putTask t k).putOff = s.putOff := rfl
@[simp] theorem putTask_recvs (s : State) (t : Nat) (k : Task) : (s.putTask t k).recvs = s.recvs := rfl
@[simp] theorem putTask_frac (s : State) (t : Nat) (k : Task) : (s.putTask t k).frac = s.frac := rfl
@[simp] theorem putTask_served (s : State) (t : Nat) (k : Task) : (s.putTask t k).served = s.served := rfl
@[simp] theorem putTask_refills (s : State) (t : Nat) (k : Task) : (s.putTask t k).refills = s.refills := rfl
@[simp] theorem putTask_dirty (s : State) (t : Nat) (k : Task) : (s.putTask t k).dirty = s.dirty := rfl
@[simp] theorem putTask_recalls (s : State) (t : Nat) (k : Task) : (s.putTask t k).recalls = s.recalls := rfl

/-! ### putCore -/

@[simp] theorem putCore_cycle (s : State) (t : Nat) (k : Core) : (s.putCore t k).cycle = s.cycle := rfl
@[simp] theorem putCore_ns (s : State) (t : Nat) (k : Core) : (s.putCore t k).ns = s.ns := rfl
@[simp] theorem putCore_free (s : State) (t : Nat) (k : Core) : (s.putCore t k).free = s.free := rfl
@[simp] theorem putCore_agenda (s : State) (t : Nat) (k : Core) : (s.putCore t k).agenda = s.agenda := rfl
@[simp] theorem putCore_arg (s : State) (t : Nat) (k : Core) : (s.putCore t k).arg = s.arg := rfl
@[simp] theorem putCore_turn (s : State) (t : Nat) (k : Core) : (s.putCore t k).turn = s.turn := rfl
@[simp] theorem putCore_cur (s : State) (t : Nat) (k : Core) : (s.putCore t k).cur = s.cur := rfl
@[simp] theorem putCore_bun (s : State) (t : Nat) (k : Core) : (s.putCore t k).bun = s.bun := rfl
@[simp] theorem putCore_mem (s : State) (t : Nat) (k : Core) : (s.putCore t k).mem = s.mem := rfl
@[simp] theorem putCore_tasks (s : State) (t : Nat) (k : Core) : (s.putCore t k).tasks = s.tasks := rfl
@[simp] theorem putCore_ntid (s : State) (t : Nat) (k : Core) : (s.putCore t k).ntid = s.ntid := rfl
@[simp] theorem putCore_bars (s : State) (t : Nat) (k : Core) : (s.putCore t k).bars = s.bars := rfl
@[simp] theorem putCore_ctlb (s : State) (t : Nat) (k : Core) : (s.putCore t k).ctlb = s.ctlb := rfl
@[simp] theorem putCore_dies (s : State) (t : Nat) (k : Core) : (s.putCore t k).dies = s.dies := rfl
@[simp] theorem putCore_parts (s : State) (t : Nat) (k : Core) : (s.putCore t k).parts = s.parts := rfl
@[simp] theorem putCore_regions (s : State) (t : Nat) (k : Core) : (s.putCore t k).regions = s.regions := rfl
@[simp] theorem putCore_banks (s : State) (t : Nat) (k : Core) : (s.putCore t k).banks = s.banks := rfl
@[simp] theorem putCore_algr (s : State) (t : Nat) (k : Core) : (s.putCore t k).algr = s.algr := rfl
@[simp] theorem putCore_bargr (s : State) (t : Nat) (k : Core) : (s.putCore t k).bargr = s.bargr := rfl
@[simp] theorem putCore_sumpgr (s : State) (t : Nat) (k : Core) : (s.putCore t k).sumpgr = s.sumpgr := rfl
@[simp] theorem putCore_sumps (s : State) (t : Nat) (k : Core) : (s.putCore t k).sumps = s.sumps := rfl
@[simp] theorem putCore_trees (s : State) (t : Nat) (k : Core) : (s.putCore t k).trees = s.trees := rfl
@[simp] theorem putCore_stamps (s : State) (t : Nat) (k : Core) : (s.putCore t k).stamps = s.stamps := rfl
@[simp] theorem putCore_copies (s : State) (t : Nat) (k : Core) : (s.putCore t k).copies = s.copies := rfl
@[simp] theorem putCore_snoop (s : State) (t : Nat) (k : Core) : (s.putCore t k).snoop = s.snoop := rfl
@[simp] theorem putCore_binv (s : State) (t : Nat) (k : Core) : (s.putCore t k).binv = s.binv := rfl
@[simp] theorem putCore_ports (s : State) (t : Nat) (k : Core) : (s.putCore t k).ports = s.ports := rfl
@[simp] theorem putCore_fab (s : State) (t : Nat) (k : Core) : (s.putCore t k).fab = s.fab := rfl
@[simp] theorem putCore_rops (s : State) (t : Nat) (k : Core) : (s.putCore t k).rops = s.rops := rfl
@[simp] theorem putCore_sendqs (s : State) (t : Nat) (k : Core) : (s.putCore t k).sendqs = s.sendqs := rfl
@[simp] theorem putCore_outbox (s : State) (t : Nat) (k : Core) : (s.putCore t k).outbox = s.outbox := rfl
@[simp] theorem putCore_transit (s : State) (t : Nat) (k : Core) : (s.putCore t k).transit = s.transit := rfl
@[simp] theorem putCore_xpts (s : State) (t : Nat) (k : Core) : (s.putCore t k).xpts = s.xpts := rfl
@[simp] theorem putCore_rerr (s : State) (t : Nat) (k : Core) : (s.putCore t k).rerr = s.rerr := rfl
@[simp] theorem putCore_bad (s : State) (t : Nat) (k : Core) : (s.putCore t k).bad = s.bad := rfl
@[simp] theorem putCore_runs (s : State) (t : Nat) (k : Core) : (s.putCore t k).runs = s.runs := rfl
@[simp] theorem putCore_doom (s : State) (t : Nat) (k : Core) : (s.putCore t k).doom = s.doom := rfl
@[simp] theorem putCore_boot (s : State) (t : Nat) (k : Core) : (s.putCore t k).boot = s.boot := rfl
@[simp] theorem putCore_link (s : State) (t : Nat) (k : Core) : (s.putCore t k).link = s.link := rfl
@[simp] theorem putCore_power (s : State) (t : Nat) (k : Core) : (s.putCore t k).power = s.power := rfl
@[simp] theorem putCore_rowAt (s : State) (t : Nat) (k : Core) : (s.putCore t k).rowAt = s.rowAt := rfl
@[simp] theorem putCore_putOff (s : State) (t : Nat) (k : Core) : (s.putCore t k).putOff = s.putOff := rfl
@[simp] theorem putCore_recvs (s : State) (t : Nat) (k : Core) : (s.putCore t k).recvs = s.recvs := rfl
@[simp] theorem putCore_frac (s : State) (t : Nat) (k : Core) : (s.putCore t k).frac = s.frac := rfl
@[simp] theorem putCore_served (s : State) (t : Nat) (k : Core) : (s.putCore t k).served = s.served := rfl
@[simp] theorem putCore_refills (s : State) (t : Nat) (k : Core) : (s.putCore t k).refills = s.refills := rfl
@[simp] theorem putCore_dirty (s : State) (t : Nat) (k : Core) : (s.putCore t k).dirty = s.dirty := rfl
@[simp] theorem putCore_recalls (s : State) (t : Nat) (k : Core) : (s.putCore t k).recalls = s.recalls := rfl

/-! ### putDie -/

@[simp] theorem putDie_cycle (s : State) (t : Nat) (k : Die) : (s.putDie t k).cycle = s.cycle := rfl
@[simp] theorem putDie_ns (s : State) (t : Nat) (k : Die) : (s.putDie t k).ns = s.ns := rfl
@[simp] theorem putDie_free (s : State) (t : Nat) (k : Die) : (s.putDie t k).free = s.free := rfl
@[simp] theorem putDie_agenda (s : State) (t : Nat) (k : Die) : (s.putDie t k).agenda = s.agenda := rfl
@[simp] theorem putDie_arg (s : State) (t : Nat) (k : Die) : (s.putDie t k).arg = s.arg := rfl
@[simp] theorem putDie_turn (s : State) (t : Nat) (k : Die) : (s.putDie t k).turn = s.turn := rfl
@[simp] theorem putDie_cur (s : State) (t : Nat) (k : Die) : (s.putDie t k).cur = s.cur := rfl
@[simp] theorem putDie_bun (s : State) (t : Nat) (k : Die) : (s.putDie t k).bun = s.bun := rfl
@[simp] theorem putDie_mem (s : State) (t : Nat) (k : Die) : (s.putDie t k).mem = s.mem := rfl
@[simp] theorem putDie_cores (s : State) (t : Nat) (k : Die) : (s.putDie t k).cores = s.cores := rfl
@[simp] theorem putDie_tasks (s : State) (t : Nat) (k : Die) : (s.putDie t k).tasks = s.tasks := rfl
@[simp] theorem putDie_ntid (s : State) (t : Nat) (k : Die) : (s.putDie t k).ntid = s.ntid := rfl
@[simp] theorem putDie_bars (s : State) (t : Nat) (k : Die) : (s.putDie t k).bars = s.bars := rfl
@[simp] theorem putDie_ctlb (s : State) (t : Nat) (k : Die) : (s.putDie t k).ctlb = s.ctlb := rfl
@[simp] theorem putDie_parts (s : State) (t : Nat) (k : Die) : (s.putDie t k).parts = s.parts := rfl
@[simp] theorem putDie_regions (s : State) (t : Nat) (k : Die) : (s.putDie t k).regions = s.regions := rfl
@[simp] theorem putDie_banks (s : State) (t : Nat) (k : Die) : (s.putDie t k).banks = s.banks := rfl
@[simp] theorem putDie_algr (s : State) (t : Nat) (k : Die) : (s.putDie t k).algr = s.algr := rfl
@[simp] theorem putDie_bargr (s : State) (t : Nat) (k : Die) : (s.putDie t k).bargr = s.bargr := rfl
@[simp] theorem putDie_sumpgr (s : State) (t : Nat) (k : Die) : (s.putDie t k).sumpgr = s.sumpgr := rfl
@[simp] theorem putDie_sumps (s : State) (t : Nat) (k : Die) : (s.putDie t k).sumps = s.sumps := rfl
@[simp] theorem putDie_trees (s : State) (t : Nat) (k : Die) : (s.putDie t k).trees = s.trees := rfl
@[simp] theorem putDie_stamps (s : State) (t : Nat) (k : Die) : (s.putDie t k).stamps = s.stamps := rfl
@[simp] theorem putDie_copies (s : State) (t : Nat) (k : Die) : (s.putDie t k).copies = s.copies := rfl
@[simp] theorem putDie_snoop (s : State) (t : Nat) (k : Die) : (s.putDie t k).snoop = s.snoop := rfl
@[simp] theorem putDie_binv (s : State) (t : Nat) (k : Die) : (s.putDie t k).binv = s.binv := rfl
@[simp] theorem putDie_ports (s : State) (t : Nat) (k : Die) : (s.putDie t k).ports = s.ports := rfl
@[simp] theorem putDie_fab (s : State) (t : Nat) (k : Die) : (s.putDie t k).fab = s.fab := rfl
@[simp] theorem putDie_rops (s : State) (t : Nat) (k : Die) : (s.putDie t k).rops = s.rops := rfl
@[simp] theorem putDie_sendqs (s : State) (t : Nat) (k : Die) : (s.putDie t k).sendqs = s.sendqs := rfl
@[simp] theorem putDie_outbox (s : State) (t : Nat) (k : Die) : (s.putDie t k).outbox = s.outbox := rfl
@[simp] theorem putDie_transit (s : State) (t : Nat) (k : Die) : (s.putDie t k).transit = s.transit := rfl
@[simp] theorem putDie_xpts (s : State) (t : Nat) (k : Die) : (s.putDie t k).xpts = s.xpts := rfl
@[simp] theorem putDie_rerr (s : State) (t : Nat) (k : Die) : (s.putDie t k).rerr = s.rerr := rfl
@[simp] theorem putDie_bad (s : State) (t : Nat) (k : Die) : (s.putDie t k).bad = s.bad := rfl
@[simp] theorem putDie_runs (s : State) (t : Nat) (k : Die) : (s.putDie t k).runs = s.runs := rfl
@[simp] theorem putDie_doom (s : State) (t : Nat) (k : Die) : (s.putDie t k).doom = s.doom := rfl
@[simp] theorem putDie_boot (s : State) (t : Nat) (k : Die) : (s.putDie t k).boot = s.boot := rfl
@[simp] theorem putDie_link (s : State) (t : Nat) (k : Die) : (s.putDie t k).link = s.link := rfl
@[simp] theorem putDie_power (s : State) (t : Nat) (k : Die) : (s.putDie t k).power = s.power := rfl
@[simp] theorem putDie_rowAt (s : State) (t : Nat) (k : Die) : (s.putDie t k).rowAt = s.rowAt := rfl
@[simp] theorem putDie_putOff (s : State) (t : Nat) (k : Die) : (s.putDie t k).putOff = s.putOff := rfl
@[simp] theorem putDie_recvs (s : State) (t : Nat) (k : Die) : (s.putDie t k).recvs = s.recvs := rfl
@[simp] theorem putDie_frac (s : State) (t : Nat) (k : Die) : (s.putDie t k).frac = s.frac := rfl
@[simp] theorem putDie_served (s : State) (t : Nat) (k : Die) : (s.putDie t k).served = s.served := rfl
@[simp] theorem putDie_refills (s : State) (t : Nat) (k : Die) : (s.putDie t k).refills = s.refills := rfl
@[simp] theorem putDie_dirty (s : State) (t : Nat) (k : Die) : (s.putDie t k).dirty = s.dirty := rfl
@[simp] theorem putDie_recalls (s : State) (t : Nat) (k : Die) : (s.putDie t k).recalls = s.recalls := rfl

/-! ### putPart -/

@[simp] theorem putPart_cycle (s : State) (t : Nat) (k : Part) : (s.putPart t k).cycle = s.cycle := rfl
@[simp] theorem putPart_ns (s : State) (t : Nat) (k : Part) : (s.putPart t k).ns = s.ns := rfl
@[simp] theorem putPart_free (s : State) (t : Nat) (k : Part) : (s.putPart t k).free = s.free := rfl
@[simp] theorem putPart_agenda (s : State) (t : Nat) (k : Part) : (s.putPart t k).agenda = s.agenda := rfl
@[simp] theorem putPart_arg (s : State) (t : Nat) (k : Part) : (s.putPart t k).arg = s.arg := rfl
@[simp] theorem putPart_turn (s : State) (t : Nat) (k : Part) : (s.putPart t k).turn = s.turn := rfl
@[simp] theorem putPart_cur (s : State) (t : Nat) (k : Part) : (s.putPart t k).cur = s.cur := rfl
@[simp] theorem putPart_bun (s : State) (t : Nat) (k : Part) : (s.putPart t k).bun = s.bun := rfl
@[simp] theorem putPart_mem (s : State) (t : Nat) (k : Part) : (s.putPart t k).mem = s.mem := rfl
@[simp] theorem putPart_cores (s : State) (t : Nat) (k : Part) : (s.putPart t k).cores = s.cores := rfl
@[simp] theorem putPart_tasks (s : State) (t : Nat) (k : Part) : (s.putPart t k).tasks = s.tasks := rfl
@[simp] theorem putPart_ntid (s : State) (t : Nat) (k : Part) : (s.putPart t k).ntid = s.ntid := rfl
@[simp] theorem putPart_bars (s : State) (t : Nat) (k : Part) : (s.putPart t k).bars = s.bars := rfl
@[simp] theorem putPart_ctlb (s : State) (t : Nat) (k : Part) : (s.putPart t k).ctlb = s.ctlb := rfl
@[simp] theorem putPart_dies (s : State) (t : Nat) (k : Part) : (s.putPart t k).dies = s.dies := rfl
@[simp] theorem putPart_regions (s : State) (t : Nat) (k : Part) : (s.putPart t k).regions = s.regions := rfl
@[simp] theorem putPart_banks (s : State) (t : Nat) (k : Part) : (s.putPart t k).banks = s.banks := rfl
@[simp] theorem putPart_algr (s : State) (t : Nat) (k : Part) : (s.putPart t k).algr = s.algr := rfl
@[simp] theorem putPart_bargr (s : State) (t : Nat) (k : Part) : (s.putPart t k).bargr = s.bargr := rfl
@[simp] theorem putPart_sumpgr (s : State) (t : Nat) (k : Part) : (s.putPart t k).sumpgr = s.sumpgr := rfl
@[simp] theorem putPart_sumps (s : State) (t : Nat) (k : Part) : (s.putPart t k).sumps = s.sumps := rfl
@[simp] theorem putPart_trees (s : State) (t : Nat) (k : Part) : (s.putPart t k).trees = s.trees := rfl
@[simp] theorem putPart_stamps (s : State) (t : Nat) (k : Part) : (s.putPart t k).stamps = s.stamps := rfl
@[simp] theorem putPart_copies (s : State) (t : Nat) (k : Part) : (s.putPart t k).copies = s.copies := rfl
@[simp] theorem putPart_snoop (s : State) (t : Nat) (k : Part) : (s.putPart t k).snoop = s.snoop := rfl
@[simp] theorem putPart_binv (s : State) (t : Nat) (k : Part) : (s.putPart t k).binv = s.binv := rfl
@[simp] theorem putPart_ports (s : State) (t : Nat) (k : Part) : (s.putPart t k).ports = s.ports := rfl
@[simp] theorem putPart_fab (s : State) (t : Nat) (k : Part) : (s.putPart t k).fab = s.fab := rfl
@[simp] theorem putPart_rops (s : State) (t : Nat) (k : Part) : (s.putPart t k).rops = s.rops := rfl
@[simp] theorem putPart_sendqs (s : State) (t : Nat) (k : Part) : (s.putPart t k).sendqs = s.sendqs := rfl
@[simp] theorem putPart_outbox (s : State) (t : Nat) (k : Part) : (s.putPart t k).outbox = s.outbox := rfl
@[simp] theorem putPart_transit (s : State) (t : Nat) (k : Part) : (s.putPart t k).transit = s.transit := rfl
@[simp] theorem putPart_xpts (s : State) (t : Nat) (k : Part) : (s.putPart t k).xpts = s.xpts := rfl
@[simp] theorem putPart_rerr (s : State) (t : Nat) (k : Part) : (s.putPart t k).rerr = s.rerr := rfl
@[simp] theorem putPart_bad (s : State) (t : Nat) (k : Part) : (s.putPart t k).bad = s.bad := rfl
@[simp] theorem putPart_runs (s : State) (t : Nat) (k : Part) : (s.putPart t k).runs = s.runs := rfl
@[simp] theorem putPart_doom (s : State) (t : Nat) (k : Part) : (s.putPart t k).doom = s.doom := rfl
@[simp] theorem putPart_boot (s : State) (t : Nat) (k : Part) : (s.putPart t k).boot = s.boot := rfl
@[simp] theorem putPart_link (s : State) (t : Nat) (k : Part) : (s.putPart t k).link = s.link := rfl
@[simp] theorem putPart_power (s : State) (t : Nat) (k : Part) : (s.putPart t k).power = s.power := rfl
@[simp] theorem putPart_rowAt (s : State) (t : Nat) (k : Part) : (s.putPart t k).rowAt = s.rowAt := rfl
@[simp] theorem putPart_putOff (s : State) (t : Nat) (k : Part) : (s.putPart t k).putOff = s.putOff := rfl
@[simp] theorem putPart_recvs (s : State) (t : Nat) (k : Part) : (s.putPart t k).recvs = s.recvs := rfl
@[simp] theorem putPart_frac (s : State) (t : Nat) (k : Part) : (s.putPart t k).frac = s.frac := rfl
@[simp] theorem putPart_served (s : State) (t : Nat) (k : Part) : (s.putPart t k).served = s.served := rfl
@[simp] theorem putPart_refills (s : State) (t : Nat) (k : Part) : (s.putPart t k).refills = s.refills := rfl
@[simp] theorem putPart_dirty (s : State) (t : Nat) (k : Part) : (s.putPart t k).dirty = s.dirty := rfl
@[simp] theorem putPart_recalls (s : State) (t : Nat) (k : Part) : (s.putPart t k).recalls = s.recalls := rfl

/-! ### putRegion -/

@[simp] theorem putRegion_cycle (s : State) (t : Nat) (k : Region) : (s.putRegion t k).cycle = s.cycle := rfl
@[simp] theorem putRegion_ns (s : State) (t : Nat) (k : Region) : (s.putRegion t k).ns = s.ns := rfl
@[simp] theorem putRegion_free (s : State) (t : Nat) (k : Region) : (s.putRegion t k).free = s.free := rfl
@[simp] theorem putRegion_agenda (s : State) (t : Nat) (k : Region) : (s.putRegion t k).agenda = s.agenda := rfl
@[simp] theorem putRegion_arg (s : State) (t : Nat) (k : Region) : (s.putRegion t k).arg = s.arg := rfl
@[simp] theorem putRegion_turn (s : State) (t : Nat) (k : Region) : (s.putRegion t k).turn = s.turn := rfl
@[simp] theorem putRegion_cur (s : State) (t : Nat) (k : Region) : (s.putRegion t k).cur = s.cur := rfl
@[simp] theorem putRegion_bun (s : State) (t : Nat) (k : Region) : (s.putRegion t k).bun = s.bun := rfl
@[simp] theorem putRegion_mem (s : State) (t : Nat) (k : Region) : (s.putRegion t k).mem = s.mem := rfl
@[simp] theorem putRegion_cores (s : State) (t : Nat) (k : Region) : (s.putRegion t k).cores = s.cores := rfl
@[simp] theorem putRegion_tasks (s : State) (t : Nat) (k : Region) : (s.putRegion t k).tasks = s.tasks := rfl
@[simp] theorem putRegion_ntid (s : State) (t : Nat) (k : Region) : (s.putRegion t k).ntid = s.ntid := rfl
@[simp] theorem putRegion_bars (s : State) (t : Nat) (k : Region) : (s.putRegion t k).bars = s.bars := rfl
@[simp] theorem putRegion_ctlb (s : State) (t : Nat) (k : Region) : (s.putRegion t k).ctlb = s.ctlb := rfl
@[simp] theorem putRegion_dies (s : State) (t : Nat) (k : Region) : (s.putRegion t k).dies = s.dies := rfl
@[simp] theorem putRegion_parts (s : State) (t : Nat) (k : Region) : (s.putRegion t k).parts = s.parts := rfl
@[simp] theorem putRegion_banks (s : State) (t : Nat) (k : Region) : (s.putRegion t k).banks = s.banks := rfl
@[simp] theorem putRegion_algr (s : State) (t : Nat) (k : Region) : (s.putRegion t k).algr = s.algr := rfl
@[simp] theorem putRegion_bargr (s : State) (t : Nat) (k : Region) : (s.putRegion t k).bargr = s.bargr := rfl
@[simp] theorem putRegion_sumpgr (s : State) (t : Nat) (k : Region) : (s.putRegion t k).sumpgr = s.sumpgr := rfl
@[simp] theorem putRegion_sumps (s : State) (t : Nat) (k : Region) : (s.putRegion t k).sumps = s.sumps := rfl
@[simp] theorem putRegion_trees (s : State) (t : Nat) (k : Region) : (s.putRegion t k).trees = s.trees := rfl
@[simp] theorem putRegion_stamps (s : State) (t : Nat) (k : Region) : (s.putRegion t k).stamps = s.stamps := rfl
@[simp] theorem putRegion_copies (s : State) (t : Nat) (k : Region) : (s.putRegion t k).copies = s.copies := rfl
@[simp] theorem putRegion_snoop (s : State) (t : Nat) (k : Region) : (s.putRegion t k).snoop = s.snoop := rfl
@[simp] theorem putRegion_binv (s : State) (t : Nat) (k : Region) : (s.putRegion t k).binv = s.binv := rfl
@[simp] theorem putRegion_ports (s : State) (t : Nat) (k : Region) : (s.putRegion t k).ports = s.ports := rfl
@[simp] theorem putRegion_fab (s : State) (t : Nat) (k : Region) : (s.putRegion t k).fab = s.fab := rfl
@[simp] theorem putRegion_rops (s : State) (t : Nat) (k : Region) : (s.putRegion t k).rops = s.rops := rfl
@[simp] theorem putRegion_sendqs (s : State) (t : Nat) (k : Region) : (s.putRegion t k).sendqs = s.sendqs := rfl
@[simp] theorem putRegion_outbox (s : State) (t : Nat) (k : Region) : (s.putRegion t k).outbox = s.outbox := rfl
@[simp] theorem putRegion_transit (s : State) (t : Nat) (k : Region) : (s.putRegion t k).transit = s.transit := rfl
@[simp] theorem putRegion_xpts (s : State) (t : Nat) (k : Region) : (s.putRegion t k).xpts = s.xpts := rfl
@[simp] theorem putRegion_rerr (s : State) (t : Nat) (k : Region) : (s.putRegion t k).rerr = s.rerr := rfl
@[simp] theorem putRegion_bad (s : State) (t : Nat) (k : Region) : (s.putRegion t k).bad = s.bad := rfl
@[simp] theorem putRegion_runs (s : State) (t : Nat) (k : Region) : (s.putRegion t k).runs = s.runs := rfl
@[simp] theorem putRegion_doom (s : State) (t : Nat) (k : Region) : (s.putRegion t k).doom = s.doom := rfl
@[simp] theorem putRegion_boot (s : State) (t : Nat) (k : Region) : (s.putRegion t k).boot = s.boot := rfl
@[simp] theorem putRegion_link (s : State) (t : Nat) (k : Region) : (s.putRegion t k).link = s.link := rfl
@[simp] theorem putRegion_power (s : State) (t : Nat) (k : Region) : (s.putRegion t k).power = s.power := rfl
@[simp] theorem putRegion_rowAt (s : State) (t : Nat) (k : Region) : (s.putRegion t k).rowAt = s.rowAt := rfl
@[simp] theorem putRegion_putOff (s : State) (t : Nat) (k : Region) : (s.putRegion t k).putOff = s.putOff := rfl
@[simp] theorem putRegion_recvs (s : State) (t : Nat) (k : Region) : (s.putRegion t k).recvs = s.recvs := rfl
@[simp] theorem putRegion_frac (s : State) (t : Nat) (k : Region) : (s.putRegion t k).frac = s.frac := rfl
@[simp] theorem putRegion_served (s : State) (t : Nat) (k : Region) : (s.putRegion t k).served = s.served := rfl
@[simp] theorem putRegion_refills (s : State) (t : Nat) (k : Region) : (s.putRegion t k).refills = s.refills := rfl
@[simp] theorem putRegion_dirty (s : State) (t : Nat) (k : Region) : (s.putRegion t k).dirty = s.dirty := rfl
@[simp] theorem putRegion_recalls (s : State) (t : Nat) (k : Region) : (s.putRegion t k).recalls = s.recalls := rfl

/-! ### putSump -/

@[simp] theorem putSump_cycle (s : State) (t : Nat) (k : Sump) : (s.putSump t k).cycle = s.cycle := rfl
@[simp] theorem putSump_ns (s : State) (t : Nat) (k : Sump) : (s.putSump t k).ns = s.ns := rfl
@[simp] theorem putSump_free (s : State) (t : Nat) (k : Sump) : (s.putSump t k).free = s.free := rfl
@[simp] theorem putSump_agenda (s : State) (t : Nat) (k : Sump) : (s.putSump t k).agenda = s.agenda := rfl
@[simp] theorem putSump_arg (s : State) (t : Nat) (k : Sump) : (s.putSump t k).arg = s.arg := rfl
@[simp] theorem putSump_turn (s : State) (t : Nat) (k : Sump) : (s.putSump t k).turn = s.turn := rfl
@[simp] theorem putSump_cur (s : State) (t : Nat) (k : Sump) : (s.putSump t k).cur = s.cur := rfl
@[simp] theorem putSump_bun (s : State) (t : Nat) (k : Sump) : (s.putSump t k).bun = s.bun := rfl
@[simp] theorem putSump_mem (s : State) (t : Nat) (k : Sump) : (s.putSump t k).mem = s.mem := rfl
@[simp] theorem putSump_cores (s : State) (t : Nat) (k : Sump) : (s.putSump t k).cores = s.cores := rfl
@[simp] theorem putSump_tasks (s : State) (t : Nat) (k : Sump) : (s.putSump t k).tasks = s.tasks := rfl
@[simp] theorem putSump_ntid (s : State) (t : Nat) (k : Sump) : (s.putSump t k).ntid = s.ntid := rfl
@[simp] theorem putSump_bars (s : State) (t : Nat) (k : Sump) : (s.putSump t k).bars = s.bars := rfl
@[simp] theorem putSump_ctlb (s : State) (t : Nat) (k : Sump) : (s.putSump t k).ctlb = s.ctlb := rfl
@[simp] theorem putSump_dies (s : State) (t : Nat) (k : Sump) : (s.putSump t k).dies = s.dies := rfl
@[simp] theorem putSump_parts (s : State) (t : Nat) (k : Sump) : (s.putSump t k).parts = s.parts := rfl
@[simp] theorem putSump_regions (s : State) (t : Nat) (k : Sump) : (s.putSump t k).regions = s.regions := rfl
@[simp] theorem putSump_banks (s : State) (t : Nat) (k : Sump) : (s.putSump t k).banks = s.banks := rfl
@[simp] theorem putSump_algr (s : State) (t : Nat) (k : Sump) : (s.putSump t k).algr = s.algr := rfl
@[simp] theorem putSump_bargr (s : State) (t : Nat) (k : Sump) : (s.putSump t k).bargr = s.bargr := rfl
@[simp] theorem putSump_sumpgr (s : State) (t : Nat) (k : Sump) : (s.putSump t k).sumpgr = s.sumpgr := rfl
@[simp] theorem putSump_trees (s : State) (t : Nat) (k : Sump) : (s.putSump t k).trees = s.trees := rfl
@[simp] theorem putSump_stamps (s : State) (t : Nat) (k : Sump) : (s.putSump t k).stamps = s.stamps := rfl
@[simp] theorem putSump_copies (s : State) (t : Nat) (k : Sump) : (s.putSump t k).copies = s.copies := rfl
@[simp] theorem putSump_snoop (s : State) (t : Nat) (k : Sump) : (s.putSump t k).snoop = s.snoop := rfl
@[simp] theorem putSump_binv (s : State) (t : Nat) (k : Sump) : (s.putSump t k).binv = s.binv := rfl
@[simp] theorem putSump_ports (s : State) (t : Nat) (k : Sump) : (s.putSump t k).ports = s.ports := rfl
@[simp] theorem putSump_fab (s : State) (t : Nat) (k : Sump) : (s.putSump t k).fab = s.fab := rfl
@[simp] theorem putSump_rops (s : State) (t : Nat) (k : Sump) : (s.putSump t k).rops = s.rops := rfl
@[simp] theorem putSump_sendqs (s : State) (t : Nat) (k : Sump) : (s.putSump t k).sendqs = s.sendqs := rfl
@[simp] theorem putSump_outbox (s : State) (t : Nat) (k : Sump) : (s.putSump t k).outbox = s.outbox := rfl
@[simp] theorem putSump_transit (s : State) (t : Nat) (k : Sump) : (s.putSump t k).transit = s.transit := rfl
@[simp] theorem putSump_xpts (s : State) (t : Nat) (k : Sump) : (s.putSump t k).xpts = s.xpts := rfl
@[simp] theorem putSump_rerr (s : State) (t : Nat) (k : Sump) : (s.putSump t k).rerr = s.rerr := rfl
@[simp] theorem putSump_bad (s : State) (t : Nat) (k : Sump) : (s.putSump t k).bad = s.bad := rfl
@[simp] theorem putSump_runs (s : State) (t : Nat) (k : Sump) : (s.putSump t k).runs = s.runs := rfl
@[simp] theorem putSump_doom (s : State) (t : Nat) (k : Sump) : (s.putSump t k).doom = s.doom := rfl
@[simp] theorem putSump_boot (s : State) (t : Nat) (k : Sump) : (s.putSump t k).boot = s.boot := rfl
@[simp] theorem putSump_link (s : State) (t : Nat) (k : Sump) : (s.putSump t k).link = s.link := rfl
@[simp] theorem putSump_power (s : State) (t : Nat) (k : Sump) : (s.putSump t k).power = s.power := rfl
@[simp] theorem putSump_rowAt (s : State) (t : Nat) (k : Sump) : (s.putSump t k).rowAt = s.rowAt := rfl
@[simp] theorem putSump_putOff (s : State) (t : Nat) (k : Sump) : (s.putSump t k).putOff = s.putOff := rfl
@[simp] theorem putSump_recvs (s : State) (t : Nat) (k : Sump) : (s.putSump t k).recvs = s.recvs := rfl
@[simp] theorem putSump_frac (s : State) (t : Nat) (k : Sump) : (s.putSump t k).frac = s.frac := rfl
@[simp] theorem putSump_served (s : State) (t : Nat) (k : Sump) : (s.putSump t k).served = s.served := rfl
@[simp] theorem putSump_refills (s : State) (t : Nat) (k : Sump) : (s.putSump t k).refills = s.refills := rfl
@[simp] theorem putSump_dirty (s : State) (t : Nat) (k : Sump) : (s.putSump t k).dirty = s.dirty := rfl
@[simp] theorem putSump_recalls (s : State) (t : Nat) (k : Sump) : (s.putSump t k).recalls = s.recalls := rfl

/-! ### putTree -/

@[simp] theorem putTree_cycle (s : State) (t : Nat) (k : Tree) : (s.putTree t k).cycle = s.cycle := rfl
@[simp] theorem putTree_ns (s : State) (t : Nat) (k : Tree) : (s.putTree t k).ns = s.ns := rfl
@[simp] theorem putTree_free (s : State) (t : Nat) (k : Tree) : (s.putTree t k).free = s.free := rfl
@[simp] theorem putTree_agenda (s : State) (t : Nat) (k : Tree) : (s.putTree t k).agenda = s.agenda := rfl
@[simp] theorem putTree_arg (s : State) (t : Nat) (k : Tree) : (s.putTree t k).arg = s.arg := rfl
@[simp] theorem putTree_turn (s : State) (t : Nat) (k : Tree) : (s.putTree t k).turn = s.turn := rfl
@[simp] theorem putTree_cur (s : State) (t : Nat) (k : Tree) : (s.putTree t k).cur = s.cur := rfl
@[simp] theorem putTree_bun (s : State) (t : Nat) (k : Tree) : (s.putTree t k).bun = s.bun := rfl
@[simp] theorem putTree_mem (s : State) (t : Nat) (k : Tree) : (s.putTree t k).mem = s.mem := rfl
@[simp] theorem putTree_cores (s : State) (t : Nat) (k : Tree) : (s.putTree t k).cores = s.cores := rfl
@[simp] theorem putTree_tasks (s : State) (t : Nat) (k : Tree) : (s.putTree t k).tasks = s.tasks := rfl
@[simp] theorem putTree_ntid (s : State) (t : Nat) (k : Tree) : (s.putTree t k).ntid = s.ntid := rfl
@[simp] theorem putTree_bars (s : State) (t : Nat) (k : Tree) : (s.putTree t k).bars = s.bars := rfl
@[simp] theorem putTree_ctlb (s : State) (t : Nat) (k : Tree) : (s.putTree t k).ctlb = s.ctlb := rfl
@[simp] theorem putTree_dies (s : State) (t : Nat) (k : Tree) : (s.putTree t k).dies = s.dies := rfl
@[simp] theorem putTree_parts (s : State) (t : Nat) (k : Tree) : (s.putTree t k).parts = s.parts := rfl
@[simp] theorem putTree_regions (s : State) (t : Nat) (k : Tree) : (s.putTree t k).regions = s.regions := rfl
@[simp] theorem putTree_banks (s : State) (t : Nat) (k : Tree) : (s.putTree t k).banks = s.banks := rfl
@[simp] theorem putTree_algr (s : State) (t : Nat) (k : Tree) : (s.putTree t k).algr = s.algr := rfl
@[simp] theorem putTree_bargr (s : State) (t : Nat) (k : Tree) : (s.putTree t k).bargr = s.bargr := rfl
@[simp] theorem putTree_sumpgr (s : State) (t : Nat) (k : Tree) : (s.putTree t k).sumpgr = s.sumpgr := rfl
@[simp] theorem putTree_sumps (s : State) (t : Nat) (k : Tree) : (s.putTree t k).sumps = s.sumps := rfl
@[simp] theorem putTree_stamps (s : State) (t : Nat) (k : Tree) : (s.putTree t k).stamps = s.stamps := rfl
@[simp] theorem putTree_copies (s : State) (t : Nat) (k : Tree) : (s.putTree t k).copies = s.copies := rfl
@[simp] theorem putTree_snoop (s : State) (t : Nat) (k : Tree) : (s.putTree t k).snoop = s.snoop := rfl
@[simp] theorem putTree_binv (s : State) (t : Nat) (k : Tree) : (s.putTree t k).binv = s.binv := rfl
@[simp] theorem putTree_ports (s : State) (t : Nat) (k : Tree) : (s.putTree t k).ports = s.ports := rfl
@[simp] theorem putTree_fab (s : State) (t : Nat) (k : Tree) : (s.putTree t k).fab = s.fab := rfl
@[simp] theorem putTree_rops (s : State) (t : Nat) (k : Tree) : (s.putTree t k).rops = s.rops := rfl
@[simp] theorem putTree_sendqs (s : State) (t : Nat) (k : Tree) : (s.putTree t k).sendqs = s.sendqs := rfl
@[simp] theorem putTree_outbox (s : State) (t : Nat) (k : Tree) : (s.putTree t k).outbox = s.outbox := rfl
@[simp] theorem putTree_transit (s : State) (t : Nat) (k : Tree) : (s.putTree t k).transit = s.transit := rfl
@[simp] theorem putTree_xpts (s : State) (t : Nat) (k : Tree) : (s.putTree t k).xpts = s.xpts := rfl
@[simp] theorem putTree_rerr (s : State) (t : Nat) (k : Tree) : (s.putTree t k).rerr = s.rerr := rfl
@[simp] theorem putTree_bad (s : State) (t : Nat) (k : Tree) : (s.putTree t k).bad = s.bad := rfl
@[simp] theorem putTree_runs (s : State) (t : Nat) (k : Tree) : (s.putTree t k).runs = s.runs := rfl
@[simp] theorem putTree_doom (s : State) (t : Nat) (k : Tree) : (s.putTree t k).doom = s.doom := rfl
@[simp] theorem putTree_boot (s : State) (t : Nat) (k : Tree) : (s.putTree t k).boot = s.boot := rfl
@[simp] theorem putTree_link (s : State) (t : Nat) (k : Tree) : (s.putTree t k).link = s.link := rfl
@[simp] theorem putTree_power (s : State) (t : Nat) (k : Tree) : (s.putTree t k).power = s.power := rfl
@[simp] theorem putTree_rowAt (s : State) (t : Nat) (k : Tree) : (s.putTree t k).rowAt = s.rowAt := rfl
@[simp] theorem putTree_putOff (s : State) (t : Nat) (k : Tree) : (s.putTree t k).putOff = s.putOff := rfl
@[simp] theorem putTree_recvs (s : State) (t : Nat) (k : Tree) : (s.putTree t k).recvs = s.recvs := rfl
@[simp] theorem putTree_frac (s : State) (t : Nat) (k : Tree) : (s.putTree t k).frac = s.frac := rfl
@[simp] theorem putTree_served (s : State) (t : Nat) (k : Tree) : (s.putTree t k).served = s.served := rfl
@[simp] theorem putTree_refills (s : State) (t : Nat) (k : Tree) : (s.putTree t k).refills = s.refills := rfl
@[simp] theorem putTree_dirty (s : State) (t : Nat) (k : Tree) : (s.putTree t k).dirty = s.dirty := rfl
@[simp] theorem putTree_recalls (s : State) (t : Nat) (k : Tree) : (s.putTree t k).recalls = s.recalls := rfl

/-! ### putPort -/

@[simp] theorem putPort_cycle (s : State) (t : Nat) (k : Port) : (s.putPort t k).cycle = s.cycle := rfl
@[simp] theorem putPort_ns (s : State) (t : Nat) (k : Port) : (s.putPort t k).ns = s.ns := rfl
@[simp] theorem putPort_free (s : State) (t : Nat) (k : Port) : (s.putPort t k).free = s.free := rfl
@[simp] theorem putPort_agenda (s : State) (t : Nat) (k : Port) : (s.putPort t k).agenda = s.agenda := rfl
@[simp] theorem putPort_arg (s : State) (t : Nat) (k : Port) : (s.putPort t k).arg = s.arg := rfl
@[simp] theorem putPort_turn (s : State) (t : Nat) (k : Port) : (s.putPort t k).turn = s.turn := rfl
@[simp] theorem putPort_cur (s : State) (t : Nat) (k : Port) : (s.putPort t k).cur = s.cur := rfl
@[simp] theorem putPort_bun (s : State) (t : Nat) (k : Port) : (s.putPort t k).bun = s.bun := rfl
@[simp] theorem putPort_mem (s : State) (t : Nat) (k : Port) : (s.putPort t k).mem = s.mem := rfl
@[simp] theorem putPort_cores (s : State) (t : Nat) (k : Port) : (s.putPort t k).cores = s.cores := rfl
@[simp] theorem putPort_tasks (s : State) (t : Nat) (k : Port) : (s.putPort t k).tasks = s.tasks := rfl
@[simp] theorem putPort_ntid (s : State) (t : Nat) (k : Port) : (s.putPort t k).ntid = s.ntid := rfl
@[simp] theorem putPort_bars (s : State) (t : Nat) (k : Port) : (s.putPort t k).bars = s.bars := rfl
@[simp] theorem putPort_ctlb (s : State) (t : Nat) (k : Port) : (s.putPort t k).ctlb = s.ctlb := rfl
@[simp] theorem putPort_dies (s : State) (t : Nat) (k : Port) : (s.putPort t k).dies = s.dies := rfl
@[simp] theorem putPort_parts (s : State) (t : Nat) (k : Port) : (s.putPort t k).parts = s.parts := rfl
@[simp] theorem putPort_regions (s : State) (t : Nat) (k : Port) : (s.putPort t k).regions = s.regions := rfl
@[simp] theorem putPort_banks (s : State) (t : Nat) (k : Port) : (s.putPort t k).banks = s.banks := rfl
@[simp] theorem putPort_algr (s : State) (t : Nat) (k : Port) : (s.putPort t k).algr = s.algr := rfl
@[simp] theorem putPort_bargr (s : State) (t : Nat) (k : Port) : (s.putPort t k).bargr = s.bargr := rfl
@[simp] theorem putPort_sumpgr (s : State) (t : Nat) (k : Port) : (s.putPort t k).sumpgr = s.sumpgr := rfl
@[simp] theorem putPort_sumps (s : State) (t : Nat) (k : Port) : (s.putPort t k).sumps = s.sumps := rfl
@[simp] theorem putPort_trees (s : State) (t : Nat) (k : Port) : (s.putPort t k).trees = s.trees := rfl
@[simp] theorem putPort_stamps (s : State) (t : Nat) (k : Port) : (s.putPort t k).stamps = s.stamps := rfl
@[simp] theorem putPort_copies (s : State) (t : Nat) (k : Port) : (s.putPort t k).copies = s.copies := rfl
@[simp] theorem putPort_snoop (s : State) (t : Nat) (k : Port) : (s.putPort t k).snoop = s.snoop := rfl
@[simp] theorem putPort_binv (s : State) (t : Nat) (k : Port) : (s.putPort t k).binv = s.binv := rfl
@[simp] theorem putPort_fab (s : State) (t : Nat) (k : Port) : (s.putPort t k).fab = s.fab := rfl
@[simp] theorem putPort_rops (s : State) (t : Nat) (k : Port) : (s.putPort t k).rops = s.rops := rfl
@[simp] theorem putPort_sendqs (s : State) (t : Nat) (k : Port) : (s.putPort t k).sendqs = s.sendqs := rfl
@[simp] theorem putPort_outbox (s : State) (t : Nat) (k : Port) : (s.putPort t k).outbox = s.outbox := rfl
@[simp] theorem putPort_transit (s : State) (t : Nat) (k : Port) : (s.putPort t k).transit = s.transit := rfl
@[simp] theorem putPort_xpts (s : State) (t : Nat) (k : Port) : (s.putPort t k).xpts = s.xpts := rfl
@[simp] theorem putPort_rerr (s : State) (t : Nat) (k : Port) : (s.putPort t k).rerr = s.rerr := rfl
@[simp] theorem putPort_bad (s : State) (t : Nat) (k : Port) : (s.putPort t k).bad = s.bad := rfl
@[simp] theorem putPort_runs (s : State) (t : Nat) (k : Port) : (s.putPort t k).runs = s.runs := rfl
@[simp] theorem putPort_doom (s : State) (t : Nat) (k : Port) : (s.putPort t k).doom = s.doom := rfl
@[simp] theorem putPort_boot (s : State) (t : Nat) (k : Port) : (s.putPort t k).boot = s.boot := rfl
@[simp] theorem putPort_link (s : State) (t : Nat) (k : Port) : (s.putPort t k).link = s.link := rfl
@[simp] theorem putPort_power (s : State) (t : Nat) (k : Port) : (s.putPort t k).power = s.power := rfl
@[simp] theorem putPort_rowAt (s : State) (t : Nat) (k : Port) : (s.putPort t k).rowAt = s.rowAt := rfl
@[simp] theorem putPort_putOff (s : State) (t : Nat) (k : Port) : (s.putPort t k).putOff = s.putOff := rfl
@[simp] theorem putPort_recvs (s : State) (t : Nat) (k : Port) : (s.putPort t k).recvs = s.recvs := rfl
@[simp] theorem putPort_frac (s : State) (t : Nat) (k : Port) : (s.putPort t k).frac = s.frac := rfl
@[simp] theorem putPort_served (s : State) (t : Nat) (k : Port) : (s.putPort t k).served = s.served := rfl
@[simp] theorem putPort_refills (s : State) (t : Nat) (k : Port) : (s.putPort t k).refills = s.refills := rfl
@[simp] theorem putPort_dirty (s : State) (t : Nat) (k : Port) : (s.putPort t k).dirty = s.dirty := rfl
@[simp] theorem putPort_recalls (s : State) (t : Nat) (k : Port) : (s.putPort t k).recalls = s.recalls := rfl

/-! ### tick -/

@[simp] theorem tick_free (s : State) (n : Nat) : (s.tick n).free = s.free := rfl
@[simp] theorem tick_agenda (s : State) (n : Nat) : (s.tick n).agenda = s.agenda := rfl
@[simp] theorem tick_arg (s : State) (n : Nat) : (s.tick n).arg = s.arg := rfl
@[simp] theorem tick_turn (s : State) (n : Nat) : (s.tick n).turn = s.turn := rfl
@[simp] theorem tick_cur (s : State) (n : Nat) : (s.tick n).cur = s.cur := rfl
@[simp] theorem tick_bun (s : State) (n : Nat) : (s.tick n).bun = s.bun := rfl
@[simp] theorem tick_mem (s : State) (n : Nat) : (s.tick n).mem = s.mem := rfl
@[simp] theorem tick_cores (s : State) (n : Nat) : (s.tick n).cores = s.cores := rfl
@[simp] theorem tick_tasks (s : State) (n : Nat) : (s.tick n).tasks = s.tasks := rfl
@[simp] theorem tick_ntid (s : State) (n : Nat) : (s.tick n).ntid = s.ntid := rfl
@[simp] theorem tick_bars (s : State) (n : Nat) : (s.tick n).bars = s.bars := rfl
@[simp] theorem tick_ctlb (s : State) (n : Nat) : (s.tick n).ctlb = s.ctlb := rfl
@[simp] theorem tick_dies (s : State) (n : Nat) : (s.tick n).dies = s.dies := rfl
@[simp] theorem tick_parts (s : State) (n : Nat) : (s.tick n).parts = s.parts := rfl
@[simp] theorem tick_regions (s : State) (n : Nat) : (s.tick n).regions = s.regions := rfl
@[simp] theorem tick_banks (s : State) (n : Nat) : (s.tick n).banks = s.banks := rfl
@[simp] theorem tick_algr (s : State) (n : Nat) : (s.tick n).algr = s.algr := rfl
@[simp] theorem tick_bargr (s : State) (n : Nat) : (s.tick n).bargr = s.bargr := rfl
@[simp] theorem tick_sumpgr (s : State) (n : Nat) : (s.tick n).sumpgr = s.sumpgr := rfl
@[simp] theorem tick_sumps (s : State) (n : Nat) : (s.tick n).sumps = s.sumps := rfl
@[simp] theorem tick_trees (s : State) (n : Nat) : (s.tick n).trees = s.trees := rfl
@[simp] theorem tick_stamps (s : State) (n : Nat) : (s.tick n).stamps = s.stamps := rfl
@[simp] theorem tick_copies (s : State) (n : Nat) : (s.tick n).copies = s.copies := rfl
@[simp] theorem tick_snoop (s : State) (n : Nat) : (s.tick n).snoop = s.snoop := rfl
@[simp] theorem tick_binv (s : State) (n : Nat) : (s.tick n).binv = s.binv := rfl
@[simp] theorem tick_ports (s : State) (n : Nat) : (s.tick n).ports = s.ports := rfl
@[simp] theorem tick_fab (s : State) (n : Nat) : (s.tick n).fab = s.fab := rfl
@[simp] theorem tick_rops (s : State) (n : Nat) : (s.tick n).rops = s.rops := rfl
@[simp] theorem tick_sendqs (s : State) (n : Nat) : (s.tick n).sendqs = s.sendqs := rfl
@[simp] theorem tick_outbox (s : State) (n : Nat) : (s.tick n).outbox = s.outbox := rfl
@[simp] theorem tick_transit (s : State) (n : Nat) : (s.tick n).transit = s.transit := rfl
@[simp] theorem tick_xpts (s : State) (n : Nat) : (s.tick n).xpts = s.xpts := rfl
@[simp] theorem tick_rerr (s : State) (n : Nat) : (s.tick n).rerr = s.rerr := rfl
@[simp] theorem tick_bad (s : State) (n : Nat) : (s.tick n).bad = s.bad := rfl
@[simp] theorem tick_runs (s : State) (n : Nat) : (s.tick n).runs = s.runs := rfl
@[simp] theorem tick_doom (s : State) (n : Nat) : (s.tick n).doom = s.doom := rfl
@[simp] theorem tick_boot (s : State) (n : Nat) : (s.tick n).boot = s.boot := rfl
@[simp] theorem tick_link (s : State) (n : Nat) : (s.tick n).link = s.link := rfl
@[simp] theorem tick_power (s : State) (n : Nat) : (s.tick n).power = s.power := rfl
@[simp] theorem tick_rowAt (s : State) (n : Nat) : (s.tick n).rowAt = s.rowAt := rfl
@[simp] theorem tick_putOff (s : State) (n : Nat) : (s.tick n).putOff = s.putOff := rfl
@[simp] theorem tick_recvs (s : State) (n : Nat) : (s.tick n).recvs = s.recvs := rfl
@[simp] theorem tick_served (s : State) (n : Nat) : (s.tick n).served = s.served := rfl
@[simp] theorem tick_refills (s : State) (n : Nat) : (s.tick n).refills = s.refills := rfl
@[simp] theorem tick_dirty (s : State) (n : Nat) : (s.tick n).dirty = s.dirty := rfl
@[simp] theorem tick_recalls (s : State) (n : Nat) : (s.tick n).recalls = s.recalls := rfl

/-! ### Registers of a task -/

@[simp] theorem putS_tid (t : Task) (n : Nat) (v : W64) : (t.putS n v).tid = t.tid := by unfold Task.putS; split <;> rfl
@[simp] theorem putS_part (t : Task) (n : Nat) (v : W64) : (t.putS n v).part = t.part := by unfold Task.putS; split <;> rfl
@[simp] theorem putS_region (t : Task) (n : Nat) (v : W64) : (t.putS n v).region = t.region := by unfold Task.putS; split <;> rfl
@[simp] theorem putS_core (t : Task) (n : Nat) (v : W64) : (t.putS n v).core = t.core := by unfold Task.putS; split <;> rfl
@[simp] theorem putS_status (t : Task) (n : Nat) (v : W64) : (t.putS n v).status = t.status := by unfold Task.putS; split <;> rfl
@[simp] theorem putS_pc (t : Task) (n : Nat) (v : W64) : (t.putS n v).pc = t.pc := by unfold Task.putS; split <;> rfl
@[simp] theorem putS_started (t : Task) (n : Nat) (v : W64) : (t.putS n v).started = t.started := by unfold Task.putS; split <;> rfl
@[simp] theorem putS_idle (t : Task) (n : Nat) (v : W64) : (t.putS n v).idle = t.idle := by unfold Task.putS; split <;> rfl
@[simp] theorem putS_nb (t : Task) (n : Nat) (v : W64) : (t.putS n v).nb = t.nb := by unfold Task.putS; split <;> rfl
@[simp] theorem putS_seqno (t : Task) (n : Nat) (v : W64) : (t.putS n v).seqno = t.seqno := by unfold Task.putS; split <;> rfl
@[simp] theorem putS_loops (t : Task) (n : Nat) (v : W64) : (t.putS n v).loops = t.loops := by unfold Task.putS; split <;> rfl
@[simp] theorem putS_vregs (t : Task) (n : Nat) (v : W64) : (t.putS n v).vregs = t.vregs := by unfold Task.putS; split <;> rfl
@[simp] theorem putS_preds (t : Task) (n : Nat) (v : W64) : (t.putS n v).preds = t.preds := by unfold Task.putS; split <;> rfl
@[simp] theorem putS_ib0 (t : Task) (n : Nat) (v : W64) : (t.putS n v).ib0 = t.ib0 := by unfold Task.putS; split <;> rfl
@[simp] theorem putS_ib1 (t : Task) (n : Nat) (v : W64) : (t.putS n v).ib1 = t.ib1 := by unfold Task.putS; split <;> rfl
@[simp] theorem putS_rotBase (t : Task) (n : Nat) (v : W64) : (t.putS n v).rotBase = t.rotBase := by unfold Task.putS; split <;> rfl
@[simp] theorem putS_rotSize (t : Task) (n : Nat) (v : W64) : (t.putS n v).rotSize = t.rotSize := by unfold Task.putS; split <;> rfl
@[simp] theorem putS_vn (t : Task) (n : Nat) (v : W64) : (t.putS n v).vn = t.vn := by unfold Task.putS; split <;> rfl
@[simp] theorem putS_cmask (t : Task) (n : Nat) (v : W64) : (t.putS n v).cmask = t.cmask := by unfold Task.putS; split <;> rfl
@[simp] theorem putS_qmask (t : Task) (n : Nat) (v : W64) : (t.putS n v).qmask = t.qmask := by unfold Task.putS; split <;> rfl
@[simp] theorem putS_fpmode (t : Task) (n : Nat) (v : W64) : (t.putS n v).fpmode = t.fpmode := by unfold Task.putS; split <;> rfl
@[simp] theorem putS_fpflags (t : Task) (n : Nat) (v : W64) : (t.putS n v).fpflags = t.fpflags := by unfold Task.putS; split <;> rfl
@[simp] theorem putS_sEmpty (t : Task) (n : Nat) (v : W64) : (t.putS n v).sEmpty = t.sEmpty := by unfold Task.putS; split <;> rfl
@[simp] theorem putS_sFail (t : Task) (n : Nat) (v : W64) : (t.putS n v).sFail = t.sFail := by unfold Task.putS; split <;> rfl
@[simp] theorem putS_vEmpty (t : Task) (n : Nat) (v : W64) : (t.putS n v).vEmpty = t.vEmpty := by unfold Task.putS; split <;> rfl
@[simp] theorem putS_vFail (t : Task) (n : Nat) (v : W64) : (t.putS n v).vFail = t.vFail := by unfold Task.putS; split <;> rfl
@[simp] theorem putS_flights (t : Task) (n : Nat) (v : W64) : (t.putS n v).flights = t.flights := by unfold Task.putS; split <;> rfl
@[simp] theorem putS_prods (t : Task) (n : Nat) (v : W64) : (t.putS n v).prods = t.prods := by unfold Task.putS; split <;> rfl
@[simp] theorem putS_ntok (t : Task) (n : Nat) (v : W64) : (t.putS n v).ntok = t.ntok := by unfold Task.putS; split <;> rfl
@[simp] theorem putS_niche (t : Task) (n : Nat) (v : W64) : (t.putS n v).niche = t.niche := by unfold Task.putS; split <;> rfl
@[simp] theorem putS_nicheKiB (t : Task) (n : Nat) (v : W64) : (t.putS n v).nicheKiB = t.nicheKiB := by unfold Task.putS; split <;> rfl
@[simp] theorem putS_handles (t : Task) (n : Nat) (v : W64) : (t.putS n v).handles = t.handles := by unfold Task.putS; split <;> rfl
@[simp] theorem putS_lsq (t : Task) (n : Nat) (v : W64) : (t.putS n v).lsq = t.lsq := by unfold Task.putS; split <;> rfl
@[simp] theorem putS_hostPend (t : Task) (n : Nat) (v : W64) : (t.putS n v).hostPend = t.hostPend := by unfold Task.putS; split <;> rfl
@[simp] theorem putS_steps (t : Task) (n : Nat) (v : W64) : (t.putS n v).steps = t.steps := by unfold Task.putS; split <;> rfl
@[simp] theorem putS_pts (t : Task) (n : Nat) (v : W64) : (t.putS n v).pts = t.pts := by unfold Task.putS; split <;> rfl
@[simp] theorem putS_kept (t : Task) (n : Nat) (v : W64) : (t.putS n v).kept = t.kept := by unfold Task.putS; split <;> rfl
@[simp] theorem putS_clks (t : Task) (n : Nat) (v : W64) : (t.putS n v).clks = t.clks := by unfold Task.putS; split <;> rfl
@[simp] theorem putS_prio (t : Task) (n : Nat) (v : W64) : (t.putS n v).prio = t.prio := by unfold Task.putS; split <;> rfl
@[simp] theorem putS_handler (t : Task) (n : Nat) (v : W64) : (t.putS n v).handler = t.handler := by unfold Task.putS; split <;> rfl
@[simp] theorem putS_trec (t : Task) (n : Nat) (v : W64) : (t.putS n v).trec = t.trec := by unfold Task.putS; split <;> rfl
@[simp] theorem putS_rec8 (t : Task) (n : Nat) (v : W64) : (t.putS n v).rec8 = t.rec8 := by unfold Task.putS; split <;> rfl
@[simp] theorem putS_subject (t : Task) (n : Nat) (v : W64) : (t.putS n v).subject = t.subject := by unfold Task.putS; split <;> rfl
@[simp] theorem putS_hold (t : Task) (n : Nat) (v : W64) : (t.putS n v).hold = t.hold := by unfold Task.putS; split <;> rfl
@[simp] theorem putS_held (t : Task) (n : Nat) (v : W64) : (t.putS n v).held = t.held := by unfold Task.putS; split <;> rfl
@[simp] theorem putS_preempt (t : Task) (n : Nat) (v : W64) : (t.putS n v).preempt = t.preempt := by unfold Task.putS; split <;> rfl
@[simp] theorem putS_late (t : Task) (n : Nat) (v : W64) : (t.putS n v).late = t.late := by unfold Task.putS; split <;> rfl
@[simp] theorem putS_area (t : Task) (n : Nat) (v : W64) : (t.putS n v).area = t.area := by unfold Task.putS; split <;> rfl
@[simp] theorem putS_placed (t : Task) (n : Nat) (v : W64) : (t.putS n v).placed = t.placed := by unfold Task.putS; split <;> rfl
@[simp] theorem putS_tickAt (t : Task) (n : Nat) (v : W64) : (t.putS n v).tickAt = t.tickAt := by unfold Task.putS; split <;> rfl
@[simp] theorem putS_waitFrom (t : Task) (n : Nat) (v : W64) : (t.putS n v).waitFrom = t.waitFrom := by unfold Task.putS; split <;> rfl
@[simp] theorem putS_join (t : Task) (n : Nat) (v : W64) : (t.putS n v).join = t.join := by unfold Task.putS; split <;> rfl
@[simp] theorem putS_firing (t : Task) (n : Nat) (v : W64) : (t.putS n v).firing = t.firing := by unfold Task.putS; split <;> rfl
@[simp] theorem putS_run (t : Task) (n : Nat) (v : W64) : (t.putS n v).run = t.run := by unfold Task.putS; split <;> rfl
@[simp] theorem putS_twin (t : Task) (n : Nat) (v : W64) : (t.putS n v).twin = t.twin := by unfold Task.putS; split <;> rfl
@[simp] theorem putS_digest (t : Task) (n : Nat) (v : W64) : (t.putS n v).digest = t.digest := by unfold Task.putS; split <;> rfl
@[simp] theorem putS_srec (t : Task) (n : Nat) (v : W64) : (t.putS n v).srec = t.srec := by unfold Task.putS; split <;> rfl
@[simp] theorem putS_verdict (t : Task) (n : Nat) (v : W64) : (t.putS n v).verdict = t.verdict := by unfold Task.putS; split <;> rfl
@[simp] theorem putS_need (t : Task) (n : Nat) (v : W64) : (t.putS n v).need = t.need := by unfold Task.putS; split <;> rfl
@[simp] theorem putS_after (t : Task) (n : Nat) (v : W64) : (t.putS n v).after = t.after := by unfold Task.putS; split <;> rfl
@[simp] theorem putS_redo (t : Task) (n : Nat) (v : W64) : (t.putS n v).redo = t.redo := by unfold Task.putS; split <;> rfl
@[simp] theorem putS_barred (t : Task) (n : Nat) (v : W64) : (t.putS n v).barred = t.barred := by unfold Task.putS; split <;> rfl
@[simp] theorem putS_doomed (t : Task) (n : Nat) (v : W64) : (t.putS n v).doomed = t.doomed := by unfold Task.putS; split <;> rfl
@[simp] theorem putS_fresh (t : Task) (n : Nat) (v : W64) : (t.putS n v).fresh = t.fresh := by unfold Task.putS; split <;> rfl
@[simp] theorem putS_raddr (t : Task) (n : Nat) (v : W64) : (t.putS n v).raddr = t.raddr := by unfold Task.putS; split <;> rfl
@[simp] theorem putS_written (t : Task) (n : Nat) (v : W64) : (t.putS n v).written = t.written := by unfold Task.putS; split <;> rfl
@[simp] theorem putS_untried (t : Task) (n : Nat) (v : W64) : (t.putS n v).untried = t.untried := by unfold Task.putS; split <;> rfl
@[simp] theorem putS_ending (t : Task) (n : Nat) (v : W64) : (t.putS n v).ending = t.ending := by unfold Task.putS; split <;> rfl
@[simp] theorem putS_trapAt (t : Task) (n : Nat) (v : W64) : (t.putS n v).trapAt = t.trapAt := by unfold Task.putS; split <;> rfl
@[simp] theorem putS_frozeAt (t : Task) (n : Nat) (v : W64) : (t.putS n v).frozeAt = t.frozeAt := by unfold Task.putS; split <;> rfl
@[simp] theorem putS_walks (t : Task) (n : Nat) (v : W64) : (t.putS n v).walks = t.walks := by unfold Task.putS; split <;> rfl
@[simp] theorem putS_areaPin (t : Task) (n : Nat) (v : W64) : (t.putS n v).areaPin = t.areaPin := by unfold Task.putS; split <;> rfl
@[simp] theorem putS_since (t : Task) (n : Nat) (v : W64) : (t.putS n v).since = t.since := by unfold Task.putS; split <;> rfl
@[simp] theorem putV_tid (t : Task) (n : Nat) (v : VReg) : (t.putV n v).tid = t.tid := rfl
@[simp] theorem putV_part (t : Task) (n : Nat) (v : VReg) : (t.putV n v).part = t.part := rfl
@[simp] theorem putV_region (t : Task) (n : Nat) (v : VReg) : (t.putV n v).region = t.region := rfl
@[simp] theorem putV_core (t : Task) (n : Nat) (v : VReg) : (t.putV n v).core = t.core := rfl
@[simp] theorem putV_status (t : Task) (n : Nat) (v : VReg) : (t.putV n v).status = t.status := rfl
@[simp] theorem putV_pc (t : Task) (n : Nat) (v : VReg) : (t.putV n v).pc = t.pc := rfl
@[simp] theorem putV_started (t : Task) (n : Nat) (v : VReg) : (t.putV n v).started = t.started := rfl
@[simp] theorem putV_idle (t : Task) (n : Nat) (v : VReg) : (t.putV n v).idle = t.idle := rfl
@[simp] theorem putV_nb (t : Task) (n : Nat) (v : VReg) : (t.putV n v).nb = t.nb := rfl
@[simp] theorem putV_seqno (t : Task) (n : Nat) (v : VReg) : (t.putV n v).seqno = t.seqno := rfl
@[simp] theorem putV_loops (t : Task) (n : Nat) (v : VReg) : (t.putV n v).loops = t.loops := rfl
@[simp] theorem putV_sregs (t : Task) (n : Nat) (v : VReg) : (t.putV n v).sregs = t.sregs := rfl
@[simp] theorem putV_preds (t : Task) (n : Nat) (v : VReg) : (t.putV n v).preds = t.preds := rfl
@[simp] theorem putV_ib0 (t : Task) (n : Nat) (v : VReg) : (t.putV n v).ib0 = t.ib0 := rfl
@[simp] theorem putV_ib1 (t : Task) (n : Nat) (v : VReg) : (t.putV n v).ib1 = t.ib1 := rfl
@[simp] theorem putV_rotBase (t : Task) (n : Nat) (v : VReg) : (t.putV n v).rotBase = t.rotBase := rfl
@[simp] theorem putV_rotSize (t : Task) (n : Nat) (v : VReg) : (t.putV n v).rotSize = t.rotSize := rfl
@[simp] theorem putV_vn (t : Task) (n : Nat) (v : VReg) : (t.putV n v).vn = t.vn := rfl
@[simp] theorem putV_cmask (t : Task) (n : Nat) (v : VReg) : (t.putV n v).cmask = t.cmask := rfl
@[simp] theorem putV_qmask (t : Task) (n : Nat) (v : VReg) : (t.putV n v).qmask = t.qmask := rfl
@[simp] theorem putV_fpmode (t : Task) (n : Nat) (v : VReg) : (t.putV n v).fpmode = t.fpmode := rfl
@[simp] theorem putV_fpflags (t : Task) (n : Nat) (v : VReg) : (t.putV n v).fpflags = t.fpflags := rfl
@[simp] theorem putV_sEmpty (t : Task) (n : Nat) (v : VReg) : (t.putV n v).sEmpty = t.sEmpty := rfl
@[simp] theorem putV_sFail (t : Task) (n : Nat) (v : VReg) : (t.putV n v).sFail = t.sFail := rfl
@[simp] theorem putV_vEmpty (t : Task) (n : Nat) (v : VReg) : (t.putV n v).vEmpty = t.vEmpty := rfl
@[simp] theorem putV_vFail (t : Task) (n : Nat) (v : VReg) : (t.putV n v).vFail = t.vFail := rfl
@[simp] theorem putV_flights (t : Task) (n : Nat) (v : VReg) : (t.putV n v).flights = t.flights := rfl
@[simp] theorem putV_prods (t : Task) (n : Nat) (v : VReg) : (t.putV n v).prods = t.prods := rfl
@[simp] theorem putV_ntok (t : Task) (n : Nat) (v : VReg) : (t.putV n v).ntok = t.ntok := rfl
@[simp] theorem putV_niche (t : Task) (n : Nat) (v : VReg) : (t.putV n v).niche = t.niche := rfl
@[simp] theorem putV_nicheKiB (t : Task) (n : Nat) (v : VReg) : (t.putV n v).nicheKiB = t.nicheKiB := rfl
@[simp] theorem putV_handles (t : Task) (n : Nat) (v : VReg) : (t.putV n v).handles = t.handles := rfl
@[simp] theorem putV_lsq (t : Task) (n : Nat) (v : VReg) : (t.putV n v).lsq = t.lsq := rfl
@[simp] theorem putV_hostPend (t : Task) (n : Nat) (v : VReg) : (t.putV n v).hostPend = t.hostPend := rfl
@[simp] theorem putV_steps (t : Task) (n : Nat) (v : VReg) : (t.putV n v).steps = t.steps := rfl
@[simp] theorem putV_pts (t : Task) (n : Nat) (v : VReg) : (t.putV n v).pts = t.pts := rfl
@[simp] theorem putV_kept (t : Task) (n : Nat) (v : VReg) : (t.putV n v).kept = t.kept := rfl
@[simp] theorem putV_clks (t : Task) (n : Nat) (v : VReg) : (t.putV n v).clks = t.clks := rfl
@[simp] theorem putV_prio (t : Task) (n : Nat) (v : VReg) : (t.putV n v).prio = t.prio := rfl
@[simp] theorem putV_handler (t : Task) (n : Nat) (v : VReg) : (t.putV n v).handler = t.handler := rfl
@[simp] theorem putV_trec (t : Task) (n : Nat) (v : VReg) : (t.putV n v).trec = t.trec := rfl
@[simp] theorem putV_rec8 (t : Task) (n : Nat) (v : VReg) : (t.putV n v).rec8 = t.rec8 := rfl
@[simp] theorem putV_subject (t : Task) (n : Nat) (v : VReg) : (t.putV n v).subject = t.subject := rfl
@[simp] theorem putV_hold (t : Task) (n : Nat) (v : VReg) : (t.putV n v).hold = t.hold := rfl
@[simp] theorem putV_held (t : Task) (n : Nat) (v : VReg) : (t.putV n v).held = t.held := rfl
@[simp] theorem putV_preempt (t : Task) (n : Nat) (v : VReg) : (t.putV n v).preempt = t.preempt := rfl
@[simp] theorem putV_late (t : Task) (n : Nat) (v : VReg) : (t.putV n v).late = t.late := rfl
@[simp] theorem putV_area (t : Task) (n : Nat) (v : VReg) : (t.putV n v).area = t.area := rfl
@[simp] theorem putV_placed (t : Task) (n : Nat) (v : VReg) : (t.putV n v).placed = t.placed := rfl
@[simp] theorem putV_tickAt (t : Task) (n : Nat) (v : VReg) : (t.putV n v).tickAt = t.tickAt := rfl
@[simp] theorem putV_waitFrom (t : Task) (n : Nat) (v : VReg) : (t.putV n v).waitFrom = t.waitFrom := rfl
@[simp] theorem putV_join (t : Task) (n : Nat) (v : VReg) : (t.putV n v).join = t.join := rfl
@[simp] theorem putV_firing (t : Task) (n : Nat) (v : VReg) : (t.putV n v).firing = t.firing := rfl
@[simp] theorem putV_run (t : Task) (n : Nat) (v : VReg) : (t.putV n v).run = t.run := rfl
@[simp] theorem putV_twin (t : Task) (n : Nat) (v : VReg) : (t.putV n v).twin = t.twin := rfl
@[simp] theorem putV_digest (t : Task) (n : Nat) (v : VReg) : (t.putV n v).digest = t.digest := rfl
@[simp] theorem putV_srec (t : Task) (n : Nat) (v : VReg) : (t.putV n v).srec = t.srec := rfl
@[simp] theorem putV_verdict (t : Task) (n : Nat) (v : VReg) : (t.putV n v).verdict = t.verdict := rfl
@[simp] theorem putV_need (t : Task) (n : Nat) (v : VReg) : (t.putV n v).need = t.need := rfl
@[simp] theorem putV_after (t : Task) (n : Nat) (v : VReg) : (t.putV n v).after = t.after := rfl
@[simp] theorem putV_redo (t : Task) (n : Nat) (v : VReg) : (t.putV n v).redo = t.redo := rfl
@[simp] theorem putV_barred (t : Task) (n : Nat) (v : VReg) : (t.putV n v).barred = t.barred := rfl
@[simp] theorem putV_doomed (t : Task) (n : Nat) (v : VReg) : (t.putV n v).doomed = t.doomed := rfl
@[simp] theorem putV_fresh (t : Task) (n : Nat) (v : VReg) : (t.putV n v).fresh = t.fresh := rfl
@[simp] theorem putV_raddr (t : Task) (n : Nat) (v : VReg) : (t.putV n v).raddr = t.raddr := rfl
@[simp] theorem putV_written (t : Task) (n : Nat) (v : VReg) : (t.putV n v).written = t.written := rfl
@[simp] theorem putV_untried (t : Task) (n : Nat) (v : VReg) : (t.putV n v).untried = t.untried := rfl
@[simp] theorem putV_ending (t : Task) (n : Nat) (v : VReg) : (t.putV n v).ending = t.ending := rfl
@[simp] theorem putV_trapAt (t : Task) (n : Nat) (v : VReg) : (t.putV n v).trapAt = t.trapAt := rfl
@[simp] theorem putV_frozeAt (t : Task) (n : Nat) (v : VReg) : (t.putV n v).frozeAt = t.frozeAt := rfl
@[simp] theorem putV_walks (t : Task) (n : Nat) (v : VReg) : (t.putV n v).walks = t.walks := rfl
@[simp] theorem putV_areaPin (t : Task) (n : Nat) (v : VReg) : (t.putV n v).areaPin = t.areaPin := rfl
@[simp] theorem putV_since (t : Task) (n : Nat) (v : VReg) : (t.putV n v).since = t.since := rfl
@[simp] theorem putP_tid (t : Task) (n : Nat) (v : BitVec 16) : (t.putP n v).tid = t.tid := by unfold Task.putP; split <;> rfl
@[simp] theorem putP_part (t : Task) (n : Nat) (v : BitVec 16) : (t.putP n v).part = t.part := by unfold Task.putP; split <;> rfl
@[simp] theorem putP_region (t : Task) (n : Nat) (v : BitVec 16) : (t.putP n v).region = t.region := by unfold Task.putP; split <;> rfl
@[simp] theorem putP_core (t : Task) (n : Nat) (v : BitVec 16) : (t.putP n v).core = t.core := by unfold Task.putP; split <;> rfl
@[simp] theorem putP_status (t : Task) (n : Nat) (v : BitVec 16) : (t.putP n v).status = t.status := by unfold Task.putP; split <;> rfl
@[simp] theorem putP_pc (t : Task) (n : Nat) (v : BitVec 16) : (t.putP n v).pc = t.pc := by unfold Task.putP; split <;> rfl
@[simp] theorem putP_started (t : Task) (n : Nat) (v : BitVec 16) : (t.putP n v).started = t.started := by unfold Task.putP; split <;> rfl
@[simp] theorem putP_idle (t : Task) (n : Nat) (v : BitVec 16) : (t.putP n v).idle = t.idle := by unfold Task.putP; split <;> rfl
@[simp] theorem putP_nb (t : Task) (n : Nat) (v : BitVec 16) : (t.putP n v).nb = t.nb := by unfold Task.putP; split <;> rfl
@[simp] theorem putP_seqno (t : Task) (n : Nat) (v : BitVec 16) : (t.putP n v).seqno = t.seqno := by unfold Task.putP; split <;> rfl
@[simp] theorem putP_loops (t : Task) (n : Nat) (v : BitVec 16) : (t.putP n v).loops = t.loops := by unfold Task.putP; split <;> rfl
@[simp] theorem putP_sregs (t : Task) (n : Nat) (v : BitVec 16) : (t.putP n v).sregs = t.sregs := by unfold Task.putP; split <;> rfl
@[simp] theorem putP_vregs (t : Task) (n : Nat) (v : BitVec 16) : (t.putP n v).vregs = t.vregs := by unfold Task.putP; split <;> rfl
@[simp] theorem putP_ib0 (t : Task) (n : Nat) (v : BitVec 16) : (t.putP n v).ib0 = t.ib0 := by unfold Task.putP; split <;> rfl
@[simp] theorem putP_ib1 (t : Task) (n : Nat) (v : BitVec 16) : (t.putP n v).ib1 = t.ib1 := by unfold Task.putP; split <;> rfl
@[simp] theorem putP_rotBase (t : Task) (n : Nat) (v : BitVec 16) : (t.putP n v).rotBase = t.rotBase := by unfold Task.putP; split <;> rfl
@[simp] theorem putP_rotSize (t : Task) (n : Nat) (v : BitVec 16) : (t.putP n v).rotSize = t.rotSize := by unfold Task.putP; split <;> rfl
@[simp] theorem putP_vn (t : Task) (n : Nat) (v : BitVec 16) : (t.putP n v).vn = t.vn := by unfold Task.putP; split <;> rfl
@[simp] theorem putP_cmask (t : Task) (n : Nat) (v : BitVec 16) : (t.putP n v).cmask = t.cmask := by unfold Task.putP; split <;> rfl
@[simp] theorem putP_qmask (t : Task) (n : Nat) (v : BitVec 16) : (t.putP n v).qmask = t.qmask := by unfold Task.putP; split <;> rfl
@[simp] theorem putP_fpmode (t : Task) (n : Nat) (v : BitVec 16) : (t.putP n v).fpmode = t.fpmode := by unfold Task.putP; split <;> rfl
@[simp] theorem putP_fpflags (t : Task) (n : Nat) (v : BitVec 16) : (t.putP n v).fpflags = t.fpflags := by unfold Task.putP; split <;> rfl
@[simp] theorem putP_sEmpty (t : Task) (n : Nat) (v : BitVec 16) : (t.putP n v).sEmpty = t.sEmpty := by unfold Task.putP; split <;> rfl
@[simp] theorem putP_sFail (t : Task) (n : Nat) (v : BitVec 16) : (t.putP n v).sFail = t.sFail := by unfold Task.putP; split <;> rfl
@[simp] theorem putP_vEmpty (t : Task) (n : Nat) (v : BitVec 16) : (t.putP n v).vEmpty = t.vEmpty := by unfold Task.putP; split <;> rfl
@[simp] theorem putP_vFail (t : Task) (n : Nat) (v : BitVec 16) : (t.putP n v).vFail = t.vFail := by unfold Task.putP; split <;> rfl
@[simp] theorem putP_flights (t : Task) (n : Nat) (v : BitVec 16) : (t.putP n v).flights = t.flights := by unfold Task.putP; split <;> rfl
@[simp] theorem putP_prods (t : Task) (n : Nat) (v : BitVec 16) : (t.putP n v).prods = t.prods := by unfold Task.putP; split <;> rfl
@[simp] theorem putP_ntok (t : Task) (n : Nat) (v : BitVec 16) : (t.putP n v).ntok = t.ntok := by unfold Task.putP; split <;> rfl
@[simp] theorem putP_niche (t : Task) (n : Nat) (v : BitVec 16) : (t.putP n v).niche = t.niche := by unfold Task.putP; split <;> rfl
@[simp] theorem putP_nicheKiB (t : Task) (n : Nat) (v : BitVec 16) : (t.putP n v).nicheKiB = t.nicheKiB := by unfold Task.putP; split <;> rfl
@[simp] theorem putP_handles (t : Task) (n : Nat) (v : BitVec 16) : (t.putP n v).handles = t.handles := by unfold Task.putP; split <;> rfl
@[simp] theorem putP_lsq (t : Task) (n : Nat) (v : BitVec 16) : (t.putP n v).lsq = t.lsq := by unfold Task.putP; split <;> rfl
@[simp] theorem putP_hostPend (t : Task) (n : Nat) (v : BitVec 16) : (t.putP n v).hostPend = t.hostPend := by unfold Task.putP; split <;> rfl
@[simp] theorem putP_steps (t : Task) (n : Nat) (v : BitVec 16) : (t.putP n v).steps = t.steps := by unfold Task.putP; split <;> rfl
@[simp] theorem putP_pts (t : Task) (n : Nat) (v : BitVec 16) : (t.putP n v).pts = t.pts := by unfold Task.putP; split <;> rfl
@[simp] theorem putP_kept (t : Task) (n : Nat) (v : BitVec 16) : (t.putP n v).kept = t.kept := by unfold Task.putP; split <;> rfl
@[simp] theorem putP_clks (t : Task) (n : Nat) (v : BitVec 16) : (t.putP n v).clks = t.clks := by unfold Task.putP; split <;> rfl
@[simp] theorem putP_prio (t : Task) (n : Nat) (v : BitVec 16) : (t.putP n v).prio = t.prio := by unfold Task.putP; split <;> rfl
@[simp] theorem putP_handler (t : Task) (n : Nat) (v : BitVec 16) : (t.putP n v).handler = t.handler := by unfold Task.putP; split <;> rfl
@[simp] theorem putP_trec (t : Task) (n : Nat) (v : BitVec 16) : (t.putP n v).trec = t.trec := by unfold Task.putP; split <;> rfl
@[simp] theorem putP_rec8 (t : Task) (n : Nat) (v : BitVec 16) : (t.putP n v).rec8 = t.rec8 := by unfold Task.putP; split <;> rfl
@[simp] theorem putP_subject (t : Task) (n : Nat) (v : BitVec 16) : (t.putP n v).subject = t.subject := by unfold Task.putP; split <;> rfl
@[simp] theorem putP_hold (t : Task) (n : Nat) (v : BitVec 16) : (t.putP n v).hold = t.hold := by unfold Task.putP; split <;> rfl
@[simp] theorem putP_held (t : Task) (n : Nat) (v : BitVec 16) : (t.putP n v).held = t.held := by unfold Task.putP; split <;> rfl
@[simp] theorem putP_preempt (t : Task) (n : Nat) (v : BitVec 16) : (t.putP n v).preempt = t.preempt := by unfold Task.putP; split <;> rfl
@[simp] theorem putP_late (t : Task) (n : Nat) (v : BitVec 16) : (t.putP n v).late = t.late := by unfold Task.putP; split <;> rfl
@[simp] theorem putP_area (t : Task) (n : Nat) (v : BitVec 16) : (t.putP n v).area = t.area := by unfold Task.putP; split <;> rfl
@[simp] theorem putP_placed (t : Task) (n : Nat) (v : BitVec 16) : (t.putP n v).placed = t.placed := by unfold Task.putP; split <;> rfl
@[simp] theorem putP_tickAt (t : Task) (n : Nat) (v : BitVec 16) : (t.putP n v).tickAt = t.tickAt := by unfold Task.putP; split <;> rfl
@[simp] theorem putP_waitFrom (t : Task) (n : Nat) (v : BitVec 16) : (t.putP n v).waitFrom = t.waitFrom := by unfold Task.putP; split <;> rfl
@[simp] theorem putP_join (t : Task) (n : Nat) (v : BitVec 16) : (t.putP n v).join = t.join := by unfold Task.putP; split <;> rfl
@[simp] theorem putP_firing (t : Task) (n : Nat) (v : BitVec 16) : (t.putP n v).firing = t.firing := by unfold Task.putP; split <;> rfl
@[simp] theorem putP_run (t : Task) (n : Nat) (v : BitVec 16) : (t.putP n v).run = t.run := by unfold Task.putP; split <;> rfl
@[simp] theorem putP_twin (t : Task) (n : Nat) (v : BitVec 16) : (t.putP n v).twin = t.twin := by unfold Task.putP; split <;> rfl
@[simp] theorem putP_digest (t : Task) (n : Nat) (v : BitVec 16) : (t.putP n v).digest = t.digest := by unfold Task.putP; split <;> rfl
@[simp] theorem putP_srec (t : Task) (n : Nat) (v : BitVec 16) : (t.putP n v).srec = t.srec := by unfold Task.putP; split <;> rfl
@[simp] theorem putP_verdict (t : Task) (n : Nat) (v : BitVec 16) : (t.putP n v).verdict = t.verdict := by unfold Task.putP; split <;> rfl
@[simp] theorem putP_need (t : Task) (n : Nat) (v : BitVec 16) : (t.putP n v).need = t.need := by unfold Task.putP; split <;> rfl
@[simp] theorem putP_after (t : Task) (n : Nat) (v : BitVec 16) : (t.putP n v).after = t.after := by unfold Task.putP; split <;> rfl
@[simp] theorem putP_redo (t : Task) (n : Nat) (v : BitVec 16) : (t.putP n v).redo = t.redo := by unfold Task.putP; split <;> rfl
@[simp] theorem putP_barred (t : Task) (n : Nat) (v : BitVec 16) : (t.putP n v).barred = t.barred := by unfold Task.putP; split <;> rfl
@[simp] theorem putP_doomed (t : Task) (n : Nat) (v : BitVec 16) : (t.putP n v).doomed = t.doomed := by unfold Task.putP; split <;> rfl
@[simp] theorem putP_fresh (t : Task) (n : Nat) (v : BitVec 16) : (t.putP n v).fresh = t.fresh := by unfold Task.putP; split <;> rfl
@[simp] theorem putP_raddr (t : Task) (n : Nat) (v : BitVec 16) : (t.putP n v).raddr = t.raddr := by unfold Task.putP; split <;> rfl
@[simp] theorem putP_written (t : Task) (n : Nat) (v : BitVec 16) : (t.putP n v).written = t.written := by unfold Task.putP; split <;> rfl
@[simp] theorem putP_untried (t : Task) (n : Nat) (v : BitVec 16) : (t.putP n v).untried = t.untried := by unfold Task.putP; split <;> rfl
@[simp] theorem putP_ending (t : Task) (n : Nat) (v : BitVec 16) : (t.putP n v).ending = t.ending := by unfold Task.putP; split <;> rfl
@[simp] theorem putP_trapAt (t : Task) (n : Nat) (v : BitVec 16) : (t.putP n v).trapAt = t.trapAt := by unfold Task.putP; split <;> rfl
@[simp] theorem putP_frozeAt (t : Task) (n : Nat) (v : BitVec 16) : (t.putP n v).frozeAt = t.frozeAt := by unfold Task.putP; split <;> rfl
@[simp] theorem putP_walks (t : Task) (n : Nat) (v : BitVec 16) : (t.putP n v).walks = t.walks := by unfold Task.putP; split <;> rfl
@[simp] theorem putP_areaPin (t : Task) (n : Nat) (v : BitVec 16) : (t.putP n v).areaPin = t.areaPin := by unfold Task.putP; split <;> rfl
@[simp] theorem putP_since (t : Task) (n : Nat) (v : BitVec 16) : (t.putP n v).since = t.since := by unfold Task.putP; split <;> rfl

/-- A scalar register just written reads as it was written; s0 reads as zero. -/
theorem getS_putS_self (t : Task) (n : Nat) (v : W64) : (t.putS n v).getS n = if n = 0 then 0 else v := by
  by_cases h : n = 0 <;> simp [Task.getS, Task.putS, h]
theorem getS_putS_ne (t : Task) (n m : Nat) (v : W64) (h : m ≠ n) : (t.putS n v).getS m = t.getS m := by
  by_cases hn : n = 0 <;> simp [Task.getS, Task.putS, hn, tabGet_tabPut_ne _ _ _ _ _ h]
@[simp] theorem getV_putV_self (t : Task) (n : Nat) (v : VReg) : (t.putV n v).getV n = v := by simp [Task.getV, Task.putV]
theorem getV_putV_ne (t : Task) (n m : Nat) (v : VReg) (h : m ≠ n) : (t.putV n v).getV m = t.getV m := by
  simp [Task.getV, Task.putV, tabGet_tabPut_ne _ _ _ _ _ h]
theorem getP_putP_self (t : Task) (n : Nat) (v : BitVec 16) : (t.putP n v).getP n = if n = 0 then 0xFFFF else v := by
  by_cases h : n = 0 <;> simp [Task.getP, Task.putP, h]
theorem getP_putP_ne (t : Task) (n m : Nat) (v : BitVec 16) (h : m ≠ n) : (t.putP n v).getP m = t.getP m := by
  by_cases hn : n = 0 <;> simp [Task.getP, Task.putP, hn, tabGet_tabPut_ne _ _ _ _ _ h]
@[simp] theorem getS_putV (t : Task) (n m : Nat) (v : VReg) : (t.putV n v).getS m = t.getS m := rfl
@[simp] theorem getP_putV (t : Task) (n m : Nat) (v : VReg) : (t.putV n v).getP m = t.getP m := rfl
@[simp] theorem getV_putS (t : Task) (n m : Nat) (v : W64) : (t.putS n v).getV m = t.getV m := by simp [Task.getV]
@[simp] theorem getP_putS (t : Task) (n m : Nat) (v : W64) : (t.putS n v).getP m = t.getP m := by simp [Task.getP]
@[simp] theorem getS_putP (t : Task) (n m : Nat) (v : BitVec 16) : (t.putP n v).getS m = t.getS m := by simp [Task.getS]
@[simp] theorem getV_putP (t : Task) (n m : Nat) (v : BitVec 16) : (t.putP n v).getV m = t.getV m := by simp [Task.getV]
@[simp] theorem rotate_putS (t : Task) (n m : Nat) (v : W64) : (t.putS n v).rotate m = t.rotate m := by simp [Task.rotate]

end Sys2Proof.Machine
end

