-- ==== Sys2Proof/Laws/Commit.lean ====
section
/-! SUPPORT. What a bundle of one slot word comes to: the laws of runSlot, of the commit, and of a step's end. -/

namespace Sys2Proof.Machine

open Host (Outcome)

/-! ### The end of a step -/

/-- The parts of `calm`. -/
theorem calm_iff (s : State) : s.calm = true ↔
    s.doom = [] ∧ (∀ r ∈ s.regions, r.2.waiting = []) ∧ (∀ p ∈ s.parts, p.2.ck = none) ∧ ∀ t ∈ s.tasks, t.2.redo = none := by
  simp [State.calm, List.all_eq_true, and_assoc]

theorem foldl_id {α β : Type} (f : β → α → β) (b : β) (l : List α) (h : ∀ x ∈ l, f b x = b) : l.foldl f b = b := by
  induction l with
  | nil => rfl
  | cons a r ih => rw [List.foldl_cons, h a (by simp)]; exact ih fun x hx => h x (by simp [hx])

/-- Where nothing waits, a step's end changes nothing. -/
theorem settle_of_calm (s : State) (h : s.calm = true) : s.settle = s := by
  obtain ⟨h1, h2, h3, h4⟩ := (calm_iff s).1 h
  have e1 : (if s.doom.isEmpty then s else s.runDoom 64) = s := by simp [h1]
  unfold State.settle
  simp only [e1]
  rw [foldl_id _ s s.regions fun r hr => by simp [h2 r hr]]
  rw [foldl_id _ s s.parts fun p hp => by simp [h3 p hp]]
  exact foldl_id _ s s.tasks fun t ht => by simp [h4 t ht]

theorem calm_congr (s t : State) (h : s.calm = true) (hd : t.doom = s.doom) (hr : t.regions = s.regions) (hp : t.parts = s.parts)
    (ht : t.tasks = s.tasks) : t.calm = true := by
  simpa [State.calm, hd, hr, hp, ht] using h

theorem calm_putTask (s : State) (n : Nat) (k : Task) (h : s.calm = true) (hk : k.redo = none) : (s.putTask n k).calm = true := by
  obtain ⟨h1, h2, h3, h4⟩ := (calm_iff s).1 h
  refine (calm_iff _).2 ⟨h1, h2, h3, ?_⟩
  have := tabPut_all s.tasks n k (fun t => t.2.redo.isNone) (by simpa [List.all_eq_true] using h4) (by simp [hk])
  simpa [List.all_eq_true, State.putTask] using this

theorem tabFind_mem {α : Type} (t : Tab α) (k : Nat) (v : α) (h : tabFind t k = some v) : (k, v) ∈ t := by
  induction t with
  | nil => simp [tabFind] at h
  | cons x r ih =>
    obtain ⟨j, w⟩ := x
    simp only [tabFind] at h
    split at h
    · rename_i he; subst he; simp at h; subst h; simp
    · exact List.mem_cons_of_mem _ (ih h)

/-- A task of a calm state has no return pending. -/
theorem redo_of_calm (s : State) (n : Nat) (h : s.calm = true) : (s.task n).redo = none := by
  obtain ⟨_, _, _, h4⟩ := (calm_iff s).1 h
  unfold State.task tabGet
  cases hf : tabFind s.tasks n with
  | none => rfl
  | some t => exact h4 _ (tabFind_mem _ _ _ hf)

/-! ### One slot word -/

theorem bundleEffects_one (k : Nat) (sh : Shape) (es : List Effect) : bundleEffects [{ slot := k, shape := sh, out := .go es }] = es := by
  by_cases h : k = 5 <;> simp [bundleEffects, h]

/-- The checks of the stages, of one word. -/
theorem admits_iff (s : State) (sh : Shape) : s.admits sh = true ↔
    s.tid ≠ 0 ∧ s.bun.left = 0 ∧ s.bun.logs = [] ∧ (∀ pc, sh.target = some pc → s.targetBad s.now pc = false) ∧ (sh.target.isSome = true ∨ s.closesWell = true) ∧ sh.pend = none ∧
    { s.bun with logs := [{ slot := s.bun.slot, shape := sh, out := .go [] }] }.headerOk = true ∧ sh.bad = false ∧ sh.priv = false ∧
    s.now.outside sh = none ∧ sh.noreg = none ∧ (∀ d ∈ s.now.readsOf sh, s.now.isEmpty d = false ∧ s.now.isFailed d = false) ∧
    ∀ d ∈ s.now.writesOf sh, s.now.isEmpty d = false := by
  cases h : sh.target <;> simp [State.admits, State.alone, h, List.all_eq_true, and_assoc]

theorem portsOk_out (b : Bundle) (k : Nat) (sh : Shape) (o p : SlotOut) :
    { b with logs := [{ slot := k, shape := sh, out := o }] }.headerOk = { b with logs := [{ slot := k, shape := sh, out := p }] }.headerOk := by
  simp only [Bundle.headerOk, Bundle.portsOk, Bundle.log, Bundle.ports, Bundle.present, anyConflict, List.find?, List.all_cons, List.all_nil,
    List.any_nil]
  cases h5 : k == 5 <;> cases h4 : k == 4 <;> simp <;> rfl

/-- The closure of a bundle whose ways out lead to bundles strays nowhere. -/
theorem closure_ok (s : State) (k : Nat) (sh : Shape) (o : SlotOut) (h : sh.target.isSome = true ∨ s.closesWell = true) :
    ((s.closureTarget [{ slot := k, shape := sh, out := o }]).any fun pc => s.targetBad s.now pc) = false := by
  unfold State.closureTarget
  cases hl : s.now.loops.getLast? with
  | none => rfl
  | some l =>
    dsimp only
    simp only [State.closesWell, hl, Option.all_some, Bool.or_eq_true, bne_iff_ne, Bool.and_eq_true, Bool.not_eq_true'] at h
    split
    · rfl
    · rename_i hn
      rcases h with h | h | h
      · exact absurd (.inr (.inr (.inl (by simpa using h)))) hn
      · exact absurd (.inl h) hn
      · simp only [Option.any_some]; split <;> simp [h.1, h.2]

/-- The stages before execution, of one word. -/
theorem verdict_admits (s : State) (sh : Shape) (o : SlotOut) (h : s.admits sh = true) :
    (s.logSlot sh o).verdict = match o with
      | .fault c d a n => .trap (slotTrap s.bun.pc 0 [{ slot := s.bun.slot, cause := c, detail := d, addr := a }]) n
      | .hold x es => .hold x es
      | .go es => match s.now.shrinkAwaits [{ slot := s.bun.slot, shape := sh, out := .go es }] with
        | d :: ds => .hold (.shrink (d :: ds)) []
        | [] => .go es := by
  obtain ⟨_, _, hl, ht, hcw, hp, hh, hb, hv, ho, hn, hr, hw⟩ := (admits_iff s sh).1 h
  have hlogs : (s.logSlot sh o).bun.logs = [{ slot := s.bun.slot, shape := sh, out := o }] := by simp [State.logSlot, hl]
  have hbun : (s.logSlot sh o).bun = { s.bun with logs := [{ slot := s.bun.slot, shape := sh, out := o }] } := by simp [State.logSlot, hl]
  have hnow : (s.logSlot sh o).now = s.now := rfl
  have htb : ∀ pc, (s.logSlot sh o).targetBad s.now pc = s.targetBad s.now pc := fun _ => rfl
  have hho : (s.logSlot sh o).bun.headerOk = true := by rw [hbun, portsOk_out s.bun s.bun.slot sh o (.go [])]; exact hh
  have hfind : (s.now.readsOf sh).find? (fun d => s.now.isFailed d || (s.now.isEmpty d && (s.logSlot sh o).bun.policy s.bun.slot)) = none := by
    simp only [List.find?_eq_none]; intro d hd; simp [(hr d hd).1, (hr d hd).2]
  have hfindw : (s.now.writesOf sh).find? (fun d => s.now.isEmpty d && !(s.now.readsOf sh).contains d) = none := by
    simp only [List.find?_eq_none]; intro d hd; simp [hw d hd]
  have hpc : (s.logSlot sh o).bun.pc = s.bun.pc := rfl
  have haw : s.now.awaited [{ slot := s.bun.slot, shape := sh, out := o }] = [] := by
    simp only [Task.awaited, List.foldr_cons, List.foldr_nil, List.append_nil, List.filter_eq_nil_iff]
    intro d hd; simp [(hr d hd).1]
  have hstray : (s.logSlot sh o).strays [{ slot := s.bun.slot, shape := sh, out := o }] = false := by
    unfold State.strays
    rw [closure_ok (s.logSlot sh o) _ _ _ hcw, Bool.or_false]
    cases hs : sh.target with
    | none => simp [hs]
    | some pc => simp [hs, hnow, htb, ht pc hs]
  unfold State.verdict
  simp only [hlogs, hnow, hho, hstray]
  simp only [List.findSome?_cons, hp, List.findSome?_nil]
  simp only [List.filterMap_cons, List.filterMap_nil, stage3, hb, Task.stage4, hv, ho, hn, Task.stage5, hfind, hfindw, haw, Option.map_none]
  cases o with
  | fault c d a n => simp [stage0, needOf, hpc]
  | hold x es => simp [stage0, Task.shrinkAwaits, List.findSome?]
  | go es =>
    simp only [stage0, bundleEffects_one, hpc]
    cases hsh : s.now.shrinkAwaits [{ slot := s.bun.slot, shape := sh, out := .go es }] <;> simp

/-- A word that comes to effects: its bundle commits. -/
theorem runSlot_go (s : State) (sh : Shape) (es : List Effect) (h : s.admits sh = true)
    (ha : s.now.shrinkAwaits [{ slot := s.bun.slot, shape := sh, out := .go es }] = []) :
    s.runSlot sh (.go es) = .next ((s.logSlot sh (.go es)).commit es).settle := by
  have h0 := (admits_iff s sh).1 h
  simp [State.runSlot, h0.1, h0.2.1, State.closeBundle, verdict_admits s sh _ h, ha]

/-- A word that comes to a fault: its bundle traps at stage 0. -/
theorem runSlot_fault (s : State) (sh : Shape) (c d n : Nat) (a : Option Nat) (h : s.admits sh = true) :
    s.runSlot sh (.fault c d a n) = .next ((s.logSlot sh (.fault c d a n)).trapNow
      (slotTrap s.bun.pc 0 [{ slot := s.bun.slot, cause := c, detail := d, addr := a }]) n).settle := by
  have h0 := (admits_iff s sh).1 h
  simp [State.runSlot, h0.1, h0.2.1, State.closeBundle, verdict_admits s sh _ h]

/-- A word that comes to a hold: its bundle is held for a cycle. -/
theorem runSlot_hold (s : State) (sh : Shape) (x : Hold) (es : List Effect) (h : s.admits sh = true) :
    s.runSlot sh (.hold x es) = .next ((es.foldl State.applyEffect (s.logSlot sh (.hold x es))).heldCycle x).settle := by
  have h0 := (admits_iff s sh).1 h
  simp [State.runSlot, h0.1, h0.2.1, State.closeBundle, verdict_admits s sh _ h]

/-- A word that is not its bundle's last is only put beside the others. -/
theorem runSlot_more (s : State) (sh : Shape) (o : SlotOut) (h : s.tid ≠ 0) (hl : s.bun.left ≠ 0) :
    s.runSlot sh o = .next (s.logSlot sh o) := by
  simp [State.runSlot, h, hl]

/-! ### The commit -/

/-- Effects that act where they stand: no transfer, push, closure, TRAP, END, ERET, YIELD, ALLOT or remote operation. -/
def Effect.plain : Effect → Bool
  | .jump _ => false
  | .push _ => false
  | .lexit _ => false
  | .go _ => false
  | .trap _ _ => false
  | .endTask => false
  | .eret _ _ => false
  | .yield => false
  | .allot _ => false
  | .remote _ _ _ _ _ _ => false
  | .flags _ => false
  | _ => true

theorem findEff_none {α : Type} (es : List Effect) (f : Effect → Option α) (h : ∀ e ∈ es, f e = none) : findEff es f = none := by
  simp only [findEff, List.findSome?_eq_none_iff]; exact h

theorem plain_lexitTo (e : Effect) (h : e.plain = true) : e.lexitTo = none := by cases e <;> first | rfl | exact Bool.noConfusion h
theorem plain_jumpTo (e : Effect) (h : e.plain = true) : e.jumpTo = none := by cases e <;> first | rfl | exact Bool.noConfusion h
theorem plain_pushed (e : Effect) (h : e.plain = true) : e.pushed = none := by cases e <;> first | rfl | exact Bool.noConfusion h
theorem plain_trapped (e : Effect) (h : e.plain = true) : e.trapped = none := by cases e <;> first | rfl | exact Bool.noConfusion h
theorem plain_disposed (e : Effect) (h : e.plain = true) : e.disposed = none := by cases e <;> first | rfl | exact Bool.noConfusion h
theorem plain_allotted (e : Effect) (h : e.plain = true) : e.allotted = none := by cases e <;> first | rfl | exact Bool.noConfusion h
theorem plain_isFlags (e : Effect) (h : e.plain = true) : e.isFlags = false := by cases e <;> first | rfl | exact Bool.noConfusion h
theorem plain_isAllot (e : Effect) (h : e.plain = true) : e.isAllot = false := by cases e <;> first | rfl | exact Bool.noConfusion h
theorem plain_isRemote (e : Effect) (h : e.plain = true) : e.isRemote = false := by cases e <;> first | rfl | exact Bool.noConfusion h

/-- Effects among which no ALLOT stands release no register. -/
theorem shrinkAwaits_none (t : Task) (k : Nat) (sh : Shape) (es : List Effect) (h : ∀ e ∈ es, e.allotted = none) :
    t.shrinkAwaits [{ slot := k, shape := sh, out := .go es }] = [] := by
  have : es.findSome? Effect.allotted = none := by simpa only [List.findSome?_eq_none_iff] using h
  simp only [Task.shrinkAwaits, List.findSome?_cons, List.findSome?_nil, this]

/-- The commit of plain effects, then the flags: they act in turn, and the task moves on. -/
theorem commit_plain (s : State) (es : List Effect) (fl : List Nat) (u : State) (hp : es.all Effect.plain = true)
    (hu : (fl.map Effect.flags).foldl State.applyEffect (es.foldl State.applyEffect s) = u)
    (ht : u.tid = s.tid) (hb : u.bun = s.bun) (hl : (u.now.loops.getLast?.any fun l => l.last == s.bun.pc) = false) :
    s.commit (es ++ fl.map Effect.flags) = u.passed s.tid s.bun := by
  have hmem : ∀ e ∈ es ++ fl.map Effect.flags, (e.plain = true ∨ ∃ f, e = .flags f) := by
    intro e he
    rcases List.mem_append.1 he with he | he
    · exact .inl ((List.all_eq_true.1 hp) e he)
    · obtain ⟨f, _, rfl⟩ := List.mem_map.1 he; exact .inr ⟨f, rfl⟩
  have none_of : ∀ {α : Type} (f : Effect → Option α), (∀ e, e.plain = true → f e = none) → (∀ n, f (.flags n) = none) →
      findEff (es ++ fl.map Effect.flags) f = none := by
    intro α f h1 h2
    refine findEff_none _ _ fun e he => ?_
    rcases hmem e he with h | ⟨n, rfl⟩
    · exact h1 e h
    · exact h2 n
  have hx : ∀ e ∈ es, e.isFlags = false ∧ e.isRemote = false ∧ e.isAllot = false := fun e he =>
    have h := (List.all_eq_true.1 hp) e he
    ⟨plain_isFlags e h, plain_isRemote e h, plain_isAllot e h⟩
  have hf1 : (es ++ fl.map Effect.flags).filter (fun e => !e.isFlags && !e.isRemote && !e.isAllot) = es := by
    rw [List.filter_append, List.filter_eq_self.2, List.filter_eq_nil_iff.2, List.append_nil]
    · intro e he; obtain ⟨f, _, rfl⟩ := List.mem_map.1 he; simp [Effect.isFlags]
    · intro e he; simp [(hx e he).1, (hx e he).2.1, (hx e he).2.2]
  have hf2 : (es ++ fl.map Effect.flags).filter Effect.isFlags = fl.map Effect.flags := by
    rw [List.filter_append, List.filter_eq_nil_iff.2, List.nil_append, List.filter_eq_self.2]
    · intro e he; obtain ⟨f, _, rfl⟩ := List.mem_map.1 he; simp [Effect.isFlags]
    · intro e he; simp [(hx e he).1]
  have hf3 : (es ++ fl.map Effect.flags).filter Effect.isRemote = [] := by
    rw [List.filter_eq_nil_iff]; intro e he
    rcases List.mem_append.1 he with he | he
    · simp [(hx e he).2.1]
    · obtain ⟨f, _, rfl⟩ := List.mem_map.1 he; simp [Effect.isRemote]
  have hno : ∀ x, Effect.plain x = false → (∀ n, x ≠ .flags n) → (es ++ fl.map Effect.flags).contains x = false := by
    intro x h1 h2
    simp only [List.contains_eq_mem, decide_eq_false_iff_not]
    intro hx
    rcases hmem x hx with h | ⟨n, h⟩
    · simp [h1] at h
    · exact h2 n h
  have n1 := none_of Effect.lexitTo plain_lexitTo fun _ => rfl
  have n2 := none_of Effect.jumpTo plain_jumpTo fun _ => rfl
  have n3 := none_of Effect.pushed plain_pushed fun _ => rfl
  have n4 := none_of Effect.trapped plain_trapped fun _ => rfl
  have n5 := none_of Effect.disposed plain_disposed fun _ => rfl
  have hc : u.control (es ++ fl.map Effect.flags) = u.putTask s.tid ((u.task s.tid).issued s.bun) := by
    unfold State.control
    simp only [n1, n2, n3, ht, hb]
    have hl' : ((u.task s.tid).loops.getLast?.any fun l => l.last == s.bun.pc) = false := by rw [← ht]; exact hl
    have e : ∀ k : Task, (u.putTask s.tid k).now = k := by
      intro k
      have : (u.putTask s.tid k).tid = s.tid := ht
      unfold State.now; rw [this]; simp
    simp only [e]
    have hn : u.now = u.task s.tid := by unfold State.now; rw [ht]
    have hl2 : (((u.task s.tid).issued s.bun).loops.getLast?.any fun l => l.last == s.bun.pc) = false := hl'
    rw [hn, hl2]
    rfl
  unfold State.commit
  simp only [hf1, hf2, hf3, hu, List.foldl_nil, hc]
  have ht2 : ∀ k : Task, (u.putTask s.tid k).tid = s.tid := fun _ => ht
  have hal : ∀ w : State, w.reallot s.tid (es ++ fl.map Effect.flags) = w := by
    intro w
    have n6 := none_of Effect.allotted plain_allotted fun _ => rfl
    simp only [findEff] at n6
    simp [State.reallot, n6]
  simp only [task_putTask_self, putTask_putTask, hal]
  unfold State.finish
  simp only [n4, n5, hno .endTask rfl (by simp), hno .yield rfl (by simp), State.passed]
  rfl

end Sys2Proof.Machine
end

