-- ==== Sys2Proof/Laws/Dispatch.lean ====
section
/-! SUPPORT. Each arm of exec, as a law: the meaning that an instruction has. -/

namespace Sys2Proof.Machine

@[simp] theorem exec_nop (s : State) : exec (.nop) s = execNop s := rfl
@[simp] theorem exec_add (d) (a) (b) (p) (s : State) : exec (.add d a b p) s = execAdd d a b p s := rfl
@[simp] theorem exec_sub (d) (a) (b) (p) (s : State) : exec (.sub d a b p) s = execSub d a b p s := rfl
@[simp] theorem exec_and (d) (a) (b) (p) (s : State) : exec (.and d a b p) s = execAnd d a b p s := rfl
@[simp] theorem exec_or (d) (a) (b) (p) (s : State) : exec (.or d a b p) s = execOr d a b p s := rfl
@[simp] theorem exec_xor (d) (a) (b) (p) (s : State) : exec (.xor d a b p) s = execXor d a b p s := rfl
@[simp] theorem exec_andn (d) (a) (b) (p) (s : State) : exec (.andn d a b p) s = execAndn d a b p s := rfl
@[simp] theorem exec_shl (d) (a) (b) (p) (s : State) : exec (.shl d a b p) s = execShl d a b p s := rfl
@[simp] theorem exec_shr (d) (a) (b) (p) (s : State) : exec (.shr d a b p) s = execShr d a b p s := rfl
@[simp] theorem exec_sar (d) (a) (b) (p) (s : State) : exec (.sar d a b p) s = execSar d a b p s := rfl
@[simp] theorem exec_rol (d) (a) (b) (p) (s : State) : exec (.rol d a b p) s = execRol d a b p s := rfl
@[simp] theorem exec_min (d) (a) (b) (p) (s : State) : exec (.min d a b p) s = execMin d a b p s := rfl
@[simp] theorem exec_max (d) (a) (b) (p) (s : State) : exec (.max d a b p) s = execMax d a b p s := rfl
@[simp] theorem exec_minu (d) (a) (b) (p) (s : State) : exec (.minu d a b p) s = execMinu d a b p s := rfl
@[simp] theorem exec_maxu (d) (a) (b) (p) (s : State) : exec (.maxu d a b p) s = execMaxu d a b p s := rfl
@[simp] theorem exec_mul (d) (a) (b) (p) (s : State) : exec (.mul d a b p) s = execMul d a b p s := rfl
@[simp] theorem exec_mulh (d) (a) (b) (p) (s : State) : exec (.mulh d a b p) s = execMulh d a b p s := rfl
@[simp] theorem exec_mulhu (d) (a) (b) (p) (s : State) : exec (.mulhu d a b p) s = execMulhu d a b p s := rfl
@[simp] theorem exec_div (d) (a) (b) (p) (s : State) : exec (.div d a b p) s = execDiv d a b p s := rfl
@[simp] theorem exec_divu (d) (a) (b) (p) (s : State) : exec (.divu d a b p) s = execDivu d a b p s := rfl
@[simp] theorem exec_rem (d) (a) (b) (p) (s : State) : exec (.rem d a b p) s = execRem d a b p s := rfl
@[simp] theorem exec_remu (d) (a) (b) (p) (s : State) : exec (.remu d a b p) s = execRemu d a b p s := rfl
@[simp] theorem exec_clz (d) (a) (p) (s : State) : exec (.clz d a p) s = execClz d a p s := rfl
@[simp] theorem exec_ctz (d) (a) (p) (s : State) : exec (.ctz d a p) s = execCtz d a p s := rfl
@[simp] theorem exec_popc (d) (a) (p) (s : State) : exec (.popc d a p) s = execPopc d a p s := rfl
@[simp] theorem exec_sxb (d) (a) (p) (s : State) : exec (.sxb d a p) s = execSxb d a p s := rfl
@[simp] theorem exec_sxh (d) (a) (p) (s : State) : exec (.sxh d a p) s = execSxh d a p s := rfl
@[simp] theorem exec_sxw (d) (a) (p) (s : State) : exec (.sxw d a p) s = execSxw d a p s := rfl
@[simp] theorem exec_zxb (d) (a) (p) (s : State) : exec (.zxb d a p) s = execZxb d a p s := rfl
@[simp] theorem exec_zxh (d) (a) (p) (s : State) : exec (.zxh d a p) s = execZxh d a p s := rfl
@[simp] theorem exec_zxw (d) (a) (p) (s : State) : exec (.zxw d a p) s = execZxw d a p s := rfl
@[simp] theorem exec_cmpEq (k) (a) (b) (p) (s : State) : exec (.cmpEq k a b p) s = execCmpEq k a b p s := rfl
@[simp] theorem exec_cmpNe (k) (a) (b) (p) (s : State) : exec (.cmpNe k a b p) s = execCmpNe k a b p s := rfl
@[simp] theorem exec_cmpLt (k) (a) (b) (p) (s : State) : exec (.cmpLt k a b p) s = execCmpLt k a b p s := rfl
@[simp] theorem exec_cmpLe (k) (a) (b) (p) (s : State) : exec (.cmpLe k a b p) s = execCmpLe k a b p s := rfl
@[simp] theorem exec_cmpLtu (k) (a) (b) (p) (s : State) : exec (.cmpLtu k a b p) s = execCmpLtu k a b p s := rfl
@[simp] theorem exec_cmpLeu (k) (a) (b) (p) (s : State) : exec (.cmpLeu k a b p) s = execCmpLeu k a b p s := rfl
@[simp] theorem exec_sel (d) (a) (b) (k) (p) (s : State) : exec (.sel d a b k p) s = execSel d a b k p s := rfl
@[simp] theorem exec_addi (d) (a) (im) (s : State) : exec (.addi d a im) s = execAddi d a im s := rfl
@[simp] theorem exec_andi (d) (a) (im) (s : State) : exec (.andi d a im) s = execAndi d a im s := rfl
@[simp] theorem exec_ori (d) (a) (im) (s : State) : exec (.ori d a im) s = execOri d a im s := rfl
@[simp] theorem exec_xori (d) (a) (im) (s : State) : exec (.xori d a im) s = execXori d a im s := rfl
@[simp] theorem exec_shli (d) (a) (im) (s : State) : exec (.shli d a im) s = execShli d a im s := rfl
@[simp] theorem exec_shri (d) (a) (im) (s : State) : exec (.shri d a im) s = execShri d a im s := rfl
@[simp] theorem exec_sari (d) (a) (im) (s : State) : exec (.sari d a im) s = execSari d a im s := rfl
@[simp] theorem exec_cmpeqi (k) (a) (im) (s : State) : exec (.cmpeqi k a im) s = execCmpeqi k a im s := rfl
@[simp] theorem exec_cmplti (k) (a) (im) (s : State) : exec (.cmplti k a im) s = execCmplti k a im s := rfl
@[simp] theorem exec_cmpltui (k) (a) (im) (s : State) : exec (.cmpltui k a im) s = execCmpltui k a im s := rfl
@[simp] theorem exec_movi (d) (h) (im) (s : State) : exec (.movi d h im) s = execMovi d h im s := rfl
@[simp] theorem exec_movk (d) (h) (im) (s : State) : exec (.movk d h im) s = execMovk d h im s := rfl
@[simp] theorem exec_movsr (d) (n) (s : State) : exec (.movsr d n) s = execMovsr d n s := rfl
@[simp] theorem exec_movrs (a) (n) (s : State) : exec (.movrs a n) s = execMovrs a n s := rfl
@[simp] theorem exec_ibset (k) (a) (im) (s : State) : exec (.ibset k a im) s = execIbset k a im s := rfl
@[simp] theorem exec_allot (d) (a) (im) (s : State) : exec (.allot d a im) s = execAllot d a im s := rfl
@[simp] theorem exec_br (p) (im) (s : State) : exec (.br p im) s = execBr p im s := rfl
@[simp] theorem exec_brl (p) (im) (s : State) : exec (.brl p im) s = execBrl p im s := rfl
@[simp] theorem exec_jr (a) (p) (s : State) : exec (.jr a p) s = execJr a p s := rfl
@[simp] theorem exec_jrl (a) (p) (s : State) : exec (.jrl a p) s = execJrl a p s := rfl
@[simp] theorem exec_loop (a) (im) (s : State) : exec (.loop a im) s = execLoop a im s := rfl
@[simp] theorem exec_loopr (a) (sz) (im) (s : State) : exec (.loopr a sz im) s = execLoopr a sz im s := rfl
@[simp] theorem exec_brtop (p) (im) (s : State) : exec (.brtop p im) s = execBrtop p im s := rfl
@[simp] theorem exec_lexit (p) (im) (s : State) : exec (.lexit p im) s = execLexit p im s := rfl
@[simp] theorem exec_trap (a) (im) (s : State) : exec (.trap a im) s = execTrap a im s := rfl
@[simp] theorem exec_endTask (s : State) : exec (.endTask) s = execEndTask s := rfl
@[simp] theorem exec_eret (s : State) : exec (.eret) s = execEret s := rfl
@[simp] theorem exec_faddF32 (d) (a) (b) (p) (x) (s : State) : exec (.faddF32 d a b p x) s = execFaddF32 d a b p x s := rfl
@[simp] theorem exec_fsubF32 (d) (a) (b) (p) (x) (s : State) : exec (.fsubF32 d a b p x) s = execFsubF32 d a b p x s := rfl
@[simp] theorem exec_fmulF32 (d) (a) (b) (p) (x) (s : State) : exec (.fmulF32 d a b p x) s = execFmulF32 d a b p x s := rfl
@[simp] theorem exec_ffmaF32 (d) (a) (b) (p) (x) (s : State) : exec (.ffmaF32 d a b p x) s = execFfmaF32 d a b p x s := rfl
@[simp] theorem exec_fminF32 (d) (a) (b) (p) (x) (s : State) : exec (.fminF32 d a b p x) s = execFminF32 d a b p x s := rfl
@[simp] theorem exec_fmaxF32 (d) (a) (b) (p) (x) (s : State) : exec (.fmaxF32 d a b p x) s = execFmaxF32 d a b p x s := rfl
@[simp] theorem exec_fcmpF32 (c) (k) (a) (b) (p) (x) (s : State) : exec (.fcmpF32 c k a b p x) s = execFcmpF32 c k a b p x s := rfl
@[simp] theorem exec_faddF64 (d) (a) (b) (p) (x) (s : State) : exec (.faddF64 d a b p x) s = execFaddF64 d a b p x s := rfl
@[simp] theorem exec_fsubF64 (d) (a) (b) (p) (x) (s : State) : exec (.fsubF64 d a b p x) s = execFsubF64 d a b p x s := rfl
@[simp] theorem exec_fmulF64 (d) (a) (b) (p) (x) (s : State) : exec (.fmulF64 d a b p x) s = execFmulF64 d a b p x s := rfl
@[simp] theorem exec_ffmaF64 (d) (a) (b) (p) (x) (s : State) : exec (.ffmaF64 d a b p x) s = execFfmaF64 d a b p x s := rfl
@[simp] theorem exec_fminF64 (d) (a) (b) (p) (x) (s : State) : exec (.fminF64 d a b p x) s = execFminF64 d a b p x s := rfl
@[simp] theorem exec_fmaxF64 (d) (a) (b) (p) (x) (s : State) : exec (.fmaxF64 d a b p x) s = execFmaxF64 d a b p x s := rfl
@[simp] theorem exec_fcmpF64 (c) (k) (a) (b) (p) (x) (s : State) : exec (.fcmpF64 c k a b p x) s = execFcmpF64 c k a b p x s := rfl
@[simp] theorem exec_absF32 (d) (a) (p) (x) (s : State) : exec (.absF32 d a p x) s = execAbsF32 d a p x s := rfl
@[simp] theorem exec_negF32 (d) (a) (p) (x) (s : State) : exec (.negF32 d a p x) s = execNegF32 d a p x s := rfl
@[simp] theorem exec_sqrtF32 (d) (a) (p) (x) (s : State) : exec (.sqrtF32 d a p x) s = execSqrtF32 d a p x s := rfl
@[simp] theorem exec_rcpF32 (d) (a) (p) (x) (s : State) : exec (.rcpF32 d a p x) s = execRcpF32 d a p x s := rfl
@[simp] theorem exec_rsqF32 (d) (a) (p) (x) (s : State) : exec (.rsqF32 d a p x) s = execRsqF32 d a p x s := rfl
@[simp] theorem exec_exp2F32 (d) (a) (p) (x) (s : State) : exec (.exp2F32 d a p x) s = execExp2F32 d a p x s := rfl
@[simp] theorem exec_log2F32 (d) (a) (p) (x) (s : State) : exec (.log2F32 d a p x) s = execLog2F32 d a p x s := rfl
@[simp] theorem exec_floorF32 (d) (a) (p) (x) (s : State) : exec (.floorF32 d a p x) s = execFloorF32 d a p x s := rfl
@[simp] theorem exec_ceilF32 (d) (a) (p) (x) (s : State) : exec (.ceilF32 d a p x) s = execCeilF32 d a p x s := rfl
@[simp] theorem exec_rintF32 (d) (a) (p) (x) (s : State) : exec (.rintF32 d a p x) s = execRintF32 d a p x s := rfl
@[simp] theorem exec_truncF32 (d) (a) (p) (x) (s : State) : exec (.truncF32 d a p x) s = execTruncF32 d a p x s := rfl
@[simp] theorem exec_fcvtBf16F32 (d) (a) (p) (x) (s : State) : exec (.fcvtBf16F32 d a p x) s = execFcvtBf16F32 d a p x s := rfl
@[simp] theorem exec_fcvtF16F32 (d) (a) (p) (x) (s : State) : exec (.fcvtF16F32 d a p x) s = execFcvtF16F32 d a p x s := rfl
@[simp] theorem exec_fcvtF32Bf16 (d) (a) (p) (x) (s : State) : exec (.fcvtF32Bf16 d a p x) s = execFcvtF32Bf16 d a p x s := rfl
@[simp] theorem exec_fcvtF32F16 (d) (a) (p) (x) (s : State) : exec (.fcvtF32F16 d a p x) s = execFcvtF32F16 d a p x s := rfl
@[simp] theorem exec_fcvtF64F32 (d) (a) (p) (x) (s : State) : exec (.fcvtF64F32 d a p x) s = execFcvtF64F32 d a p x s := rfl
@[simp] theorem exec_fcvtF32F64 (d) (a) (p) (x) (s : State) : exec (.fcvtF32F64 d a p x) s = execFcvtF32F64 d a p x s := rfl
@[simp] theorem exec_fcvtI32F32 (d) (a) (p) (x) (s : State) : exec (.fcvtI32F32 d a p x) s = execFcvtI32F32 d a p x s := rfl
@[simp] theorem exec_fcvtF32I32 (d) (a) (p) (x) (s : State) : exec (.fcvtF32I32 d a p x) s = execFcvtF32I32 d a p x s := rfl
@[simp] theorem exec_fcvtI64F64 (d) (a) (p) (x) (s : State) : exec (.fcvtI64F64 d a p x) s = execFcvtI64F64 d a p x s := rfl
@[simp] theorem exec_fcvtF64I64 (d) (a) (p) (x) (s : State) : exec (.fcvtF64I64 d a p x) s = execFcvtF64I64 d a p x s := rfl
@[simp] theorem exec_fcvtI32F32Rtz (d) (a) (p) (x) (s : State) : exec (.fcvtI32F32Rtz d a p x) s = execFcvtI32F32Rtz d a p x s := rfl
@[simp] theorem exec_iadd (d) (a) (b) (p) (x) (s : State) : exec (.iadd d a b p x) s = execIadd d a b p x s := rfl
@[simp] theorem exec_isub (d) (a) (b) (p) (x) (s : State) : exec (.isub d a b p x) s = execIsub d a b p x s := rfl
@[simp] theorem exec_imul (d) (a) (b) (p) (x) (s : State) : exec (.imul d a b p x) s = execImul d a b p x s := rfl
@[simp] theorem exec_imin (d) (a) (b) (p) (x) (s : State) : exec (.imin d a b p x) s = execImin d a b p x s := rfl
@[simp] theorem exec_imax (d) (a) (b) (p) (x) (s : State) : exec (.imax d a b p x) s = execImax d a b p x s := rfl
@[simp] theorem exec_iminu (d) (a) (b) (p) (x) (s : State) : exec (.iminu d a b p x) s = execIminu d a b p x s := rfl
@[simp] theorem exec_imaxu (d) (a) (b) (p) (x) (s : State) : exec (.imaxu d a b p x) s = execImaxu d a b p x s := rfl
@[simp] theorem exec_iand (d) (a) (b) (p) (x) (s : State) : exec (.iand d a b p x) s = execIand d a b p x s := rfl
@[simp] theorem exec_ior (d) (a) (b) (p) (x) (s : State) : exec (.ior d a b p x) s = execIor d a b p x s := rfl
@[simp] theorem exec_ixor (d) (a) (b) (p) (x) (s : State) : exec (.ixor d a b p x) s = execIxor d a b p x s := rfl
@[simp] theorem exec_ishl (d) (a) (b) (p) (x) (s : State) : exec (.ishl d a b p x) s = execIshl d a b p x s := rfl
@[simp] theorem exec_ishr (d) (a) (b) (p) (x) (s : State) : exec (.ishr d a b p x) s = execIshr d a b p x s := rfl
@[simp] theorem exec_isar (d) (a) (b) (p) (x) (s : State) : exec (.isar d a b p x) s = execIsar d a b p x s := rfl
@[simp] theorem exec_icmp (c) (k) (a) (b) (p) (x) (s : State) : exec (.icmp c k a b p x) s = execIcmp c k a b p x s := rfl
@[simp] theorem exec_vmov (d) (a) (p) (x) (s : State) : exec (.vmov d a p x) s = execVmov d a p x s := rfl
@[simp] theorem exec_vsel (d) (a) (b) (k) (x) (s : State) : exec (.vsel d a b k x) s = execVsel d a b k x s := rfl
@[simp] theorem exec_vperm (d) (a) (b) (p) (x) (s : State) : exec (.vperm d a b p x) s = execVperm d a b p x s := rfl
@[simp] theorem exec_vbcast (d) (a) (l) (p) (x) (s : State) : exec (.vbcast d a l p x) s = execVbcast d a l p x s := rfl
@[simp] theorem exec_vbcastD (d) (a) (e) (p) (x) (s : State) : exec (.vbcastD d a e p x) s = execVbcastD d a e p x s := rfl
@[simp] theorem exec_vbcastScalar (d) (a) (p) (s : State) : exec (.vbcastScalar d a p) s = execVbcastScalar d a p s := rfl
@[simp] theorem exec_vbcastDScalar (d) (a) (p) (s : State) : exec (.vbcastDScalar d a p) s = execVbcastDScalar d a p s := rfl
@[simp] theorem exec_vext (d) (a) (b) (k) (x) (s : State) : exec (.vext d a b k x) s = execVext d a b k x s := rfl
@[simp] theorem exec_vredFaddF32 (d) (a) (p) (x) (s : State) : exec (.vredFaddF32 d a p x) s = execVredFaddF32 d a p x s := rfl
@[simp] theorem exec_vredFmaxF32 (d) (a) (p) (x) (s : State) : exec (.vredFmaxF32 d a p x) s = execVredFmaxF32 d a p x s := rfl
@[simp] theorem exec_vredFminF32 (d) (a) (p) (x) (s : State) : exec (.vredFminF32 d a p x) s = execVredFminF32 d a p x s := rfl
@[simp] theorem exec_vredIadd (d) (a) (p) (x) (s : State) : exec (.vredIadd d a p x) s = execVredIadd d a p x s := rfl
@[simp] theorem exec_vredImax (d) (a) (p) (x) (s : State) : exec (.vredImax d a p x) s = execVredImax d a p x s := rfl
@[simp] theorem exec_vredImin (d) (a) (p) (x) (s : State) : exec (.vredImin d a p x) s = execVredImin d a p x s := rfl
@[simp] theorem exec_vredFaddF64 (d) (a) (p) (x) (s : State) : exec (.vredFaddF64 d a p x) s = execVredFaddF64 d a p x s := rfl
@[simp] theorem exec_viota (d) (k) (p) (s : State) : exec (.viota d k p) s = execViota d k p s := rfl
@[simp] theorem exec_vplanePack (d) (a) (h) (n) (x) (s : State) : exec (.vplanePack d a h n x) s = execVplanePack d a h n x s := rfl
@[simp] theorem exec_vplaneUnpack (d) (a) (h) (n) (x) (s : State) : exec (.vplaneUnpack d a h n x) s = execVplaneUnpack d a h n x s := rfl
@[simp] theorem exec_pand (d) (a) (b) (p) (s : State) : exec (.pand d a b p) s = execPand d a b p s := rfl
@[simp] theorem exec_por (d) (a) (b) (p) (s : State) : exec (.por d a b p) s = execPor d a b p s := rfl
@[simp] theorem exec_pxor (d) (a) (b) (p) (s : State) : exec (.pxor d a b p) s = execPxor d a b p s := rfl
@[simp] theorem exec_pandn (d) (a) (b) (p) (s : State) : exec (.pandn d a b p) s = execPandn d a b p s := rfl
@[simp] theorem exec_pnot (d) (a) (p) (s : State) : exec (.pnot d a p) s = execPnot d a p s := rfl
@[simp] theorem exec_pmov (d) (a) (p) (s : State) : exec (.pmov d a p) s = execPmov d a p s := rfl
@[simp] theorem exec_pset (d) (p) (s : State) : exec (.pset d p) s = execPset d p s := rfl
@[simp] theorem exec_pclr (d) (p) (s : State) : exec (.pclr d p) s = execPclr d p s := rfl
@[simp] theorem exec_pcnt (d) (k) (p) (s : State) : exec (.pcnt d k p) s = execPcnt d k p s := rfl
@[simp] theorem exec_ld (d) (b) (sz) (im) (s : State) : exec (.ld d b sz im) s = execLd d b sz im s := rfl
@[simp] theorem exec_ldz (d) (b) (sz) (im) (s : State) : exec (.ldz d b sz im) s = execLdz d b sz im s := rfl
@[simp] theorem exec_st (d) (b) (sz) (im) (s : State) : exec (.st d b sz im) s = execSt d b sz im s := rfl
@[simp] theorem exec_vld (d) (b) (im) (s : State) : exec (.vld d b im) s = execVld d b im s := rfl
@[simp] theorem exec_vst (d) (b) (im) (s : State) : exec (.vst d b im) s = execVst d b im s := rfl
@[simp] theorem exec_vlds (d) (b) (x) (im) (s : State) : exec (.vlds d b x im) s = execVlds d b x im s := rfl
@[simp] theorem exec_vsts (d) (b) (x) (im) (s : State) : exec (.vsts d b x im) s = execVsts d b x im s := rfl
@[simp] theorem exec_vgth (d) (b) (x) (sz) (s : State) : exec (.vgth d b x sz) s = execVgth d b x sz s := rfl
@[simp] theorem exec_vsct (d) (b) (x) (sz) (s : State) : exec (.vsct d b x sz) s = execVsct d b x sz s := rfl
@[simp] theorem exec_fil (d) (b) (sz) (im) (s : State) : exec (.fil d b sz im) s = execFil d b sz im s := rfl
@[simp] theorem exec_spl (d) (b) (sz) (im) (s : State) : exec (.spl d b sz im) s = execSpl d b sz im s := rfl
@[simp] theorem exec_vfil (d) (b) (im) (s : State) : exec (.vfil d b im) s = execVfil d b im s := rfl
@[simp] theorem exec_vspl (d) (b) (im) (s : State) : exec (.vspl d b im) s = execVspl d b im s := rfl
@[simp] theorem exec_oclaim (k) (d) (f) (s : State) : exec (.oclaim k d f) s = execOclaim k d f s := rfl
@[simp] theorem exec_orelease (k) (s : State) : exec (.orelease k) s = execOrelease k s := rfl
@[simp] theorem exec_ofill (k) (b) (x) (s : State) : exec (.ofill k b x) s = execOfill k b x s := rfl
@[simp] theorem exec_ostat (d) (k) (s : State) : exec (.ostat d k) s = execOstat d k s := rfl
@[simp] theorem exec_scld (b) (sz) (im) (s : State) : exec (.scld b sz im) s = execScld b sz im s := rfl
@[simp] theorem exec_bfmt (d) (a) (n) (s : State) : exec (.bfmt d a n) s = execBfmt d a n s := rfl
@[simp] theorem exec_aadd (d) (b) (x) (u) (sz) (s : State) : exec (.aadd d b x u sz) s = execAadd d b x u sz s := rfl
@[simp] theorem exec_amin (d) (b) (x) (u) (sz) (s : State) : exec (.amin d b x u sz) s = execAmin d b x u sz s := rfl
@[simp] theorem exec_amax (d) (b) (x) (u) (sz) (s : State) : exec (.amax d b x u sz) s = execAmax d b x u sz s := rfl
@[simp] theorem exec_aand (d) (b) (x) (u) (sz) (s : State) : exec (.aand d b x u sz) s = execAand d b x u sz s := rfl
@[simp] theorem exec_aor (d) (b) (x) (u) (sz) (s : State) : exec (.aor d b x u sz) s = execAor d b x u sz s := rfl
@[simp] theorem exec_axchg (d) (b) (x) (u) (sz) (s : State) : exec (.axchg d b x u sz) s = execAxchg d b x u sz s := rfl
@[simp] theorem exec_acas (d) (b) (x) (u) (sz) (s : State) : exec (.acas d b x u sz) s = execAcas d b x u sz s := rfl
@[simp] theorem exec_aaddf (d) (b) (x) (sz) (s : State) : exec (.aaddf d b x sz) s = execAaddf d b x sz s := rfl
@[simp] theorem exec_fencePackage (s : State) : exec (.fencePackage) s = execFencePackage s := rfl
@[simp] theorem exec_fenceSystem (s : State) : exec (.fenceSystem) s = execFenceSystem s := rfl
@[simp] theorem exec_fencex (e) (l) (s : State) : exec (.fencex e l) s = execFencex e l s := rfl
@[simp] theorem exec_mset (a) (m) (s : State) : exec (.mset a m) s = execMset a m s := rfl
@[simp] theorem exec_mma (c) (a) (b) (z) (sz) (s : State) : exec (.mma c a b z sz) s = execMma c a b z sz s := rfl
@[simp] theorem exec_mmas (c) (a) (b) (m) (z) (sz) (s : State) : exec (.mmas c a b m z sz) s = execMmas c a b m z sz s := rfl
@[simp] theorem exec_mret (c) (a) (d) (f) (k) (s : State) : exec (.mret c a d f k) s = execMret c a d f k s := rfl
@[simp] theorem exec_mretv (c) (v) (d) (f) (k) (s : State) : exec (.mretv c v d f k) s = execMretv c v d f k s := rfl
@[simp] theorem exec_mzero (c) (s : State) : exec (.mzero c) s = execMzero c s := rfl
@[simp] theorem exec_mdrain (s : State) : exec (.mdrain) s = execMdrain s := rfl
@[simp] theorem exec_mlda (c) (a) (s : State) : exec (.mlda c a) s = execMlda c a s := rfl
@[simp] theorem exec_msta (c) (a) (s : State) : exec (.msta c a) s = execMsta c a s := rfl
@[simp] theorem exec_rfwd (d) (a) (s : State) : exec (.rfwd d a) s = execRfwd d a s := rfl
@[simp] theorem exec_rrev (d) (h) (r) (c) (s : State) : exec (.rrev d h r c) s = execRrev d h r c s := rfl
@[simp] theorem exec_rchk (d) (a) (l) (s : State) : exec (.rchk d a l) s = execRchk d a l s := rfl
@[simp] theorem exec_mchanScrub (s : State) : exec (.mchanScrub) s = execMchanScrub s := rfl
@[simp] theorem exec_mchanThresh (a) (s : State) : exec (.mchanThresh a) s = execMchanThresh a s := rfl
@[simp] theorem exec_mchanClear (a) (s : State) : exec (.mchanClear a) s = execMchanClear a s := rfl
@[simp] theorem exec_mchanFail (a) (sz) (s : State) : exec (.mchanFail a sz) s = execMchanFail a sz s := rfl
@[simp] theorem exec_minj (a) (w) (c) (h) (s : State) : exec (.minj a w c h) s = execMinj a w c h s := rfl
@[simp] theorem exec_cset (q) (f) (a) (s : State) : exec (.cset q f a) s = execCset q f a s := rfl
@[simp] theorem exec_cshape (q) (a) (s : State) : exec (.cshape q a) s = execCshape q a s := rfl
@[simp] theorem exec_cgo (q) (a) (b) (s : State) : exec (.cgo q a b) s = execCgo q a b s := rfl
@[simp] theorem exec_cwp (q) (d) (a) (s : State) : exec (.cwp q d a) s = execCwp q d a s := rfl
@[simp] theorem exec_cwait (q) (d) (s : State) : exec (.cwait q d) s = execCwait q d s := rfl
@[simp] theorem exec_crec (q) (d) (s : State) : exec (.crec q d) s = execCrec q d s := rfl
@[simp] theorem exec_ccan (a) (s : State) : exec (.ccan a) s = execCcan a s := rfl
@[simp] theorem exec_fork (a) (s : State) : exec (.fork a) s = execFork a s := rfl
@[simp] theorem exec_join (d) (a) (s : State) : exec (.join d a) s = execJoin d a s := rfl
@[simp] theorem exec_next (d) (s : State) : exec (.next d) s = execNext d s := rfl
@[simp] theorem exec_yield (s : State) : exec (.yield) s = execYield s := rfl
@[simp] theorem exec_watch (d) (a) (b) (t) (s : State) : exec (.watch d a b t) s = execWatch d a b t s := rfl
@[simp] theorem exec_bara (n) (s : State) : exec (.bara n) s = execBara n s := rfl
@[simp] theorem exec_barw (d) (a) (n) (s : State) : exec (.barw d a n) s = execBarw d a n s := rfl
@[simp] theorem exec_bari (a) (n) (s : State) : exec (.bari a n) s = execBari a n s := rfl
@[simp] theorem exec_xenq (d) (a) (b) (s : State) : exec (.xenq d a b) s = execXenq d a b s := rfl
@[simp] theorem exec_xcfgLoad (d) (a) (b) (s : State) : exec (.xcfgLoad d a b) s = execXcfgLoad d a b s := rfl
@[simp] theorem exec_xcfgHalt (d) (a) (s : State) : exec (.xcfgHalt d a) s = execXcfgHalt d a s := rfl
@[simp] theorem exec_xcfgResume (d) (a) (s : State) : exec (.xcfgResume d a) s = execXcfgResume d a s := rfl
@[simp] theorem exec_xcfgPurge (d) (a) (s : State) : exec (.xcfgPurge d a) s = execXcfgPurge d a s := rfl
@[simp] theorem exec_xcfgOff (d) (a) (s : State) : exec (.xcfgOff d a) s = execXcfgOff d a s := rfl
@[simp] theorem exec_xstat (d) (a) (f) (s : State) : exec (.xstat d a f) s = execXstat d a f s := rfl
@[simp] theorem exec_xdisp (d) (a) (s : State) : exec (.xdisp d a) s = execXdisp d a s := rfl
@[simp] theorem exec_xpref (a) (b) (l) (s : State) : exec (.xpref a b l) s = execXpref a b l s := rfl
@[simp] theorem exec_xcan (a) (s : State) : exec (.xcan a) s = execXcan a s := rfl
@[simp] theorem exec_tcreate (d) (a) (s : State) : exec (.tcreate d a) s = execTcreate d a s := rfl
@[simp] theorem exec_tdestroy (d) (a) (s : State) : exec (.tdestroy d a) s = execTdestroy d a s := rfl
@[simp] theorem exec_tedit (d) (a) (b) (s : State) : exec (.tedit d a b) s = execTedit d a b s := rfl
@[simp] theorem exec_tpost (a) (b) (s : State) : exec (.tpost a b) s = execTpost a b s := rfl
@[simp] theorem exec_twait (d) (a) (s : State) : exec (.twait d a) s = execTwait d a s := rfl
@[simp] theorem exec_tfreeze (d) (a) (s : State) : exec (.tfreeze d a) s = execTfreeze d a s := rfl
@[simp] theorem exec_tsave (d) (a) (b) (s : State) : exec (.tsave d a b) s = execTsave d a b s := rfl
@[simp] theorem exec_trestore (d) (a) (b) (s : State) : exec (.trestore d a b) s = execTrestore d a b s := rfl
@[simp] theorem exec_tqry (d) (a) (f) (s : State) : exec (.tqry d a f) s = execTqry d a f s := rfl
@[simp] theorem exec_rld (d) (a) (s : State) : exec (.rld d a) s = execRld d a s := rfl
@[simp] theorem exec_rst (d) (a) (s : State) : exec (.rst d a) s = execRst d a s := rfl
@[simp] theorem exec_ratom (d) (a) (b) (u) (z) (o) (s : State) : exec (.ratom d a b u z o) s = execRatom d a b u z o s := rfl
@[simp] theorem exec_rfence (d) (a) (s : State) : exec (.rfence d a) s = execRfence d a s := rfl
@[simp] theorem exec_rfenceAll (d) (s : State) : exec (.rfenceAll d) s = execRfenceAll d s := rfl
@[simp] theorem exec_fsend (d) (a) (s : State) : exec (.fsend d a) s = execFsend d a s := rfl
@[simp] theorem exec_fclk (d) (a) (f) (s : State) : exec (.fclk d a f) s = execFclk d a f s := rfl
@[simp] theorem exec_hsig (a) (v) (s : State) : exec (.hsig a v) s = execHsig a v s := rfl
@[simp] theorem exec_rgnctlCreate (a) (b) (s : State) : exec (.rgnctlCreate a b) s = execRgnctlCreate a b s := rfl
@[simp] theorem exec_rgnctlDestroy (a) (b) (s : State) : exec (.rgnctlDestroy a b) s = execRgnctlDestroy a b s := rfl
@[simp] theorem exec_rgnctlLaunch (a) (b) (s : State) : exec (.rgnctlLaunch a b) s = execRgnctlLaunch a b s := rfl
@[simp] theorem exec_rgnctlPreempt (a) (b) (s : State) : exec (.rgnctlPreempt a b) s = execRgnctlPreempt a b s := rfl
@[simp] theorem exec_rgnctlPark (a) (b) (s : State) : exec (.rgnctlPark a b) s = execRgnctlPark a b s := rfl
@[simp] theorem exec_rgnctlResume (a) (b) (s : State) : exec (.rgnctlResume a b) s = execRgnctlResume a b s := rfl
@[simp] theorem exec_rgnctlKill (a) (b) (s : State) : exec (.rgnctlKill a b) s = execRgnctlKill a b s := rfl
@[simp] theorem exec_rgnctlReload (a) (b) (s : State) : exec (.rgnctlReload a b) s = execRgnctlReload a b s := rfl
@[simp] theorem exec_rgnctlQuery (a) (b) (s : State) : exec (.rgnctlQuery a b) s = execRgnctlQuery a b s := rfl
@[simp] theorem exec_xlinv (d) (a) (b) (s : State) : exec (.xlinv d a b) s = execXlinv d a b s := rfl
@[simp] theorem exec_xlinvForce (d) (a) (b) (s : State) : exec (.xlinvForce d a b) s = execXlinvForce d a b s := rfl
@[simp] theorem exec_xlpin (d) (a) (b) (s : State) : exec (.xlpin d a b) s = execXlpin d a b s := rfl
@[simp] theorem exec_xlunpin (d) (a) (b) (s : State) : exec (.xlunpin d a b) s = execXlunpin d a b s := rfl
@[simp] theorem exec_idleBundle (s : State) : exec (.idleBundle) s = execIdleBundle s := rfl
@[simp] theorem exec_ofillRow (s : State) : exec (.ofillRow) s = execOfillRow s := rfl
@[simp] theorem exec_msetExecute (s : State) : exec (.msetExecute) s = execMsetExecute s := rfl
@[simp] theorem exec_kstepStart (s : State) : exec (.kstepStart) s = execKstepStart s := rfl
@[simp] theorem exec_kstepMerge (s : State) : exec (.kstepMerge) s = execKstepMerge s := rfl
@[simp] theorem exec_retirement (s : State) : exec (.retirement) s = execRetirement s := rfl
@[simp] theorem exec_mzeroExecute (s : State) : exec (.mzeroExecute) s = execMzeroExecute s := rfl
@[simp] theorem exec_mldaExecute (s : State) : exec (.mldaExecute) s = execMldaExecute s := rfl
@[simp] theorem exec_mstaExecute (s : State) : exec (.mstaExecute) s = execMstaExecute s := rfl
@[simp] theorem exec_mchanExecute (s : State) : exec (.mchanExecute) s = execMchanExecute s := rfl
@[simp] theorem exec_minjExecute (s : State) : exec (.minjExecute) s = execMinjExecute s := rfl
@[simp] theorem exec_copyRecordRead (s : State) : exec (.copyRecordRead) s = execCopyRecordRead s := rfl
@[simp] theorem exec_selectTileRead (s : State) : exec (.selectTileRead) s = execSelectTileRead s := rfl
@[simp] theorem exec_copySectorWrite (s : State) : exec (.copySectorWrite) s = execCopySectorWrite s := rfl
@[simp] theorem exec_copyFaultResolved (s : State) : exec (.copyFaultResolved) s = execCopyFaultResolved s := rfl
@[simp] theorem exec_followOnPresent (s : State) : exec (.followOnPresent) s = execFollowOnPresent s := rfl
@[simp] theorem exec_copyCompletion (s : State) : exec (.copyCompletion) s = execCopyCompletion s := rfl
@[simp] theorem exec_watchTimeout (s : State) : exec (.watchTimeout) s = execWatchTimeout s := rfl
@[simp] theorem exec_xprefUnit (s : State) : exec (.xprefUnit) s = execXprefUnit s := rfl
@[simp] theorem exec_sumpAdmit (s : State) : exec (.sumpAdmit) s = execSumpAdmit s := rfl
@[simp] theorem exec_sumpAgeDue (s : State) : exec (.sumpAgeDue) s = execSumpAgeDue s := rfl
@[simp] theorem exec_firingDecision (s : State) : exec (.firingDecision) s = execFiringDecision s := rfl
@[simp] theorem exec_treeSourceRead (s : State) : exec (.treeSourceRead) s = execTreeSourceRead s := rfl
@[simp] theorem exec_treeChunkArrive (s : State) : exec (.treeChunkArrive) s = execTreeChunkArrive s := rfl
@[simp] theorem exec_treeSlotRefill (s : State) : exec (.treeSlotRefill) s = execTreeSlotRefill s := rfl
@[simp] theorem exec_treeReplicate (s : State) : exec (.treeReplicate) s = execTreeReplicate s := rfl
@[simp] theorem exec_treeDelivery (s : State) : exec (.treeDelivery) s = execTreeDelivery s := rfl
@[simp] theorem exec_treeDataError (s : State) : exec (.treeDataError) s = execTreeDataError s := rfl
@[simp] theorem exec_resultArrival (s : State) : exec (.resultArrival) s = execResultArrival s := rfl
@[simp] theorem exec_holdSuspend (s : State) : exec (.holdSuspend) s = execHoldSuspend s := rfl
@[simp] theorem exec_replayEntryInject (s : State) : exec (.replayEntryInject) s = execReplayEntryInject s := rfl
@[simp] theorem exec_trapAction (s : State) : exec (.trapAction) s = execTrapAction s := rfl
@[simp] theorem exec_replayResume (s : State) : exec (.replayResume) s = execReplayResume s := rfl
@[simp] theorem exec_forwardDelivery (s : State) : exec (.forwardDelivery) s = execForwardDelivery s := rfl
@[simp] theorem exec_preemptRequest (s : State) : exec (.preemptRequest) s = execPreemptRequest s := rfl
@[simp] theorem exec_freeze (s : State) : exec (.freeze) s = execFreeze s := rfl
@[simp] theorem exec_lateFreeze (s : State) : exec (.lateFreeze) s = execLateFreeze s := rfl
@[simp] theorem exec_taskSave (s : State) : exec (.taskSave) s = execTaskSave s := rfl
@[simp] theorem exec_taskRestore (s : State) : exec (.taskRestore) s = execTaskRestore s := rfl
@[simp] theorem exec_taskPlacement (s : State) : exec (.taskPlacement) s = execTaskPlacement s := rfl
@[simp] theorem exec_quantumExpiry (s : State) : exec (.quantumExpiry) s = execQuantumExpiry s := rfl
@[simp] theorem exec_joinRelief (s : State) : exec (.joinRelief) s = execJoinRelief s := rfl
@[simp] theorem exec_tileRefill (s : State) : exec (.tileRefill) s = execTileRefill s := rfl
@[simp] theorem exec_controlDiverge (s : State) : exec (.controlDiverge) s = execControlDiverge s := rfl
@[simp] theorem exec_lsAccessSend (s : State) : exec (.lsAccessSend) s = execLsAccessSend s := rfl
@[simp] theorem exec_pageWalk (s : State) : exec (.pageWalk) s = execPageWalk s := rfl
@[simp] theorem exec_pclkTick (s : State) : exec (.pclkTick) s = execPclkTick s := rfl
@[simp] theorem exec_pclkRaise (s : State) : exec (.pclkRaise) s = execPclkRaise s := rfl
@[simp] theorem exec_taskClockTick (s : State) : exec (.taskClockTick) s = execTaskClockTick s := rfl
@[simp] theorem exec_l2Eviction (s : State) : exec (.l2Eviction) s = execL2Eviction s := rfl
@[simp] theorem exec_backInvalidationResponse (s : State) : exec (.backInvalidationResponse) s = execBackInvalidationResponse s := rfl
@[simp] theorem exec_hostRead (s : State) : exec (.hostRead) s = execHostRead s := rfl
@[simp] theorem exec_hostWrite (s : State) : exec (.hostWrite) s = execHostWrite s := rfl
@[simp] theorem exec_faultSlotOpen (s : State) : exec (.faultSlotOpen) s = execFaultSlotOpen s := rfl
@[simp] theorem exec_faultDisposition (s : State) : exec (.faultDisposition) s = execFaultDisposition s := rfl
@[simp] theorem exec_remoteRequest (s : State) : exec (.remoteRequest) s = execRemoteRequest s := rfl
@[simp] theorem exec_remoteErrorReply (s : State) : exec (.remoteErrorReply) s = execRemoteErrorReply s := rfl
@[simp] theorem exec_remoteUnreachable (s : State) : exec (.remoteUnreachable) s = execRemoteUnreachable s := rfl
@[simp] theorem exec_sendFlit (s : State) : exec (.sendFlit) s = execSendFlit s := rfl
@[simp] theorem exec_sendLinePerform (s : State) : exec (.sendLinePerform) s = execSendLinePerform s := rfl
@[simp] theorem exec_snoteAdd (s : State) : exec (.snoteAdd) s = execSnoteAdd s := rfl
@[simp] theorem exec_flitReceive (s : State) : exec (.flitReceive) s = execFlitReceive s := rfl
@[simp] theorem exec_stopGoSignal (s : State) : exec (.stopGoSignal) s = execStopGoSignal s := rfl
@[simp] theorem exec_wavelengthWindow (s : State) : exec (.wavelengthWindow) s = execWavelengthWindow s := rfl
@[simp] theorem exec_retrainTrigger (s : State) : exec (.retrainTrigger) s = execRetrainTrigger s := rfl
@[simp] theorem exec_stripeSwitch (s : State) : exec (.stripeSwitch) s = execStripeSwitch s := rfl
@[simp] theorem exec_wavelengthWithdraw (s : State) : exec (.wavelengthWithdraw) s = execWavelengthWithdraw s := rfl
@[simp] theorem exec_retrainAdaptationEnd (s : State) : exec (.retrainAdaptationEnd) s = execRetrainAdaptationEnd s := rfl
@[simp] theorem exec_retrainTestEnd (s : State) : exec (.retrainTestEnd) s = execRetrainTestEnd s := rfl
@[simp] theorem exec_wavelengthHandback (s : State) : exec (.wavelengthHandback) s = execWavelengthHandback s := rfl
@[simp] theorem exec_slotBoundary (s : State) : exec (.slotBoundary) s = execSlotBoundary s := rfl
@[simp] theorem exec_guardEnd (s : State) : exec (.guardEnd) s = execGuardEnd s := rfl
@[simp] theorem exec_windowClose (s : State) : exec (.windowClose) s = execWindowClose s := rfl
@[simp] theorem exec_transitReinject (s : State) : exec (.transitReinject) s = execTransitReinject s := rfl
@[simp] theorem exec_ftimeLock (s : State) : exec (.ftimeLock) s = execFtimeLock s := rfl
@[simp] theorem exec_lockLoss (s : State) : exec (.lockLoss) s = execLockLoss s := rfl
@[simp] theorem exec_slotTable (s : State) : exec (.slotTable) s = execSlotTable s := rfl
@[simp] theorem exec_tableActivation (s : State) : exec (.tableActivation) s = execTableActivation s := rfl
@[simp] theorem exec_packageIdentifier (s : State) : exec (.packageIdentifier) s = execPackageIdentifier s := rfl
@[simp] theorem exec_peerTable (s : State) : exec (.peerTable) s = execPeerTable s := rfl
@[simp] theorem exec_launch (s : State) : exec (.launch) s = execLaunch s := rfl
@[simp] theorem exec_createRoot (s : State) : exec (.createRoot) s = execCreateRoot s := rfl
@[simp] theorem exec_controlDestroy (s : State) : exec (.controlDestroy) s = execControlDestroy s := rfl
@[simp] theorem exec_controlLaunch (s : State) : exec (.controlLaunch) s = execControlLaunch s := rfl
@[simp] theorem exec_controlPreempt (s : State) : exec (.controlPreempt) s = execControlPreempt s := rfl
@[simp] theorem exec_controlPark (s : State) : exec (.controlPark) s = execControlPark s := rfl
@[simp] theorem exec_controlResume (s : State) : exec (.controlResume) s = execControlResume s := rfl
@[simp] theorem exec_controlKill (s : State) : exec (.controlKill) s = execControlKill s := rfl
@[simp] theorem exec_controlReload (s : State) : exec (.controlReload) s = execControlReload s := rfl
@[simp] theorem exec_paramPtroot (s : State) : exec (.paramPtroot) s = execParamPtroot s := rfl
@[simp] theorem exec_paramFqbase (s : State) : exec (.paramFqbase) s = execParamFqbase s := rfl
@[simp] theorem exec_paramTtbase (s : State) : exec (.paramTtbase) s = execParamTtbase s := rfl
@[simp] theorem exec_paramLease (s : State) : exec (.paramLease) s = execParamLease s := rfl
@[simp] theorem exec_paramEvqbase (s : State) : exec (.paramEvqbase) s = execParamEvqbase s := rfl
@[simp] theorem exec_paramEvqlen (s : State) : exec (.paramEvqlen) s = execParamEvqlen s := rfl
@[simp] theorem exec_paramErrbase (s : State) : exec (.paramErrbase) s = execParamErrbase s := rfl
@[simp] theorem exec_paramErrlen (s : State) : exec (.paramErrlen) s = execParamErrlen s := rfl
@[simp] theorem exec_paramSevmat (s : State) : exec (.paramSevmat) s = execParamSevmat s := rfl
@[simp] theorem exec_paramPcap (s : State) : exec (.paramPcap) s = execParamPcap s := rfl
@[simp] theorem exec_resync (s : State) : exec (.resync) s = execResync s := rfl
@[simp] theorem exec_reset (s : State) : exec (.reset) s = execReset s := rfl
@[simp] theorem exec_checkpoint (s : State) : exec (.checkpoint) s = execCheckpoint s := rfl
@[simp] theorem exec_restore (s : State) : exec (.restore) s = execRestore s := rfl
@[simp] theorem exec_attest (s : State) : exec (.attest) s = execAttest s := rfl
@[simp] theorem exec_registerWrite (s : State) : exec (.registerWrite) s = execRegisterWrite s := rfl
@[simp] theorem exec_moduleBoot (s : State) : exec (.moduleBoot) s = execModuleBoot s := rfl
@[simp] theorem exec_recoveryImage (s : State) : exec (.recoveryImage) s = execRecoveryImage s := rfl
@[simp] theorem exec_capBroadcast (s : State) : exec (.capBroadcast) s = execCapBroadcast s := rfl
@[simp] theorem exec_rankSet (s : State) : exec (.rankSet) s = execRankSet s := rfl
@[simp] theorem exec_clockLimit (s : State) : exec (.clockLimit) s = execClockLimit s := rfl
@[simp] theorem exec_linkRetry (s : State) : exec (.linkRetry) s = execLinkRetry s := rfl
@[simp] theorem exec_linkDown (s : State) : exec (.linkDown) s = execLinkDown s := rfl
@[simp] theorem exec_clusterFailure (s : State) : exec (.clusterFailure) s = execClusterFailure s := rfl
@[simp] theorem exec_memoryError (s : State) : exec (.memoryError) s = execMemoryError s := rfl
@[simp] theorem exec_redunCompare (s : State) : exec (.redunCompare) s = execRedunCompare s := rfl
@[simp] theorem exec_linkRecovery (s : State) : exec (.linkRecovery) s = execLinkRecovery s := rfl
@[simp] theorem exec_hostWriteCompletion (s : State) : exec (.hostWriteCompletion) s = execHostWriteCompletion s := rfl
@[simp] theorem exec_remoteAcknowledgement (s : State) : exec (.remoteAcknowledgement) s = execRemoteAcknowledgement s := rfl
@[simp] theorem exec_regulatorPhaseFailure (s : State) : exec (.regulatorPhaseFailure) s = execRegulatorPhaseFailure s := rfl
@[simp] theorem exec_ownCap (s : State) : exec (.ownCap) s = execOwnCap s := rfl

end Sys2Proof.Machine
end

