-- ==== Sys2Proof/Laws/Matrix.lean ====
section
/-! SUPPORT. What the matrix queue's shared operations do. -/

namespace Sys2Proof.Machine

/-! ### An entry complete -/

@[simp] theorem mxDrop_mq (k : Core) (e : MxEnt) (n : Nat) : (k.mxDrop e n).mq = k.mq.filter fun x => x.id != e.id := rfl
@[simp] theorem mxDrop_tiles (k : Core) (e : MxEnt) (n : Nat) : (k.mxDrop e n).tiles = k.tiles := rfl
@[simp] theorem mxDrop_tile (k : Core) (e : MxEnt) (n c : Nat) : (k.mxDrop e n).tile c = k.tile c := rfl
@[simp] theorem mxDrop_alcoves (k : Core) (e : MxEnt) (n : Nat) : (k.mxDrop e n).alcoves = k.alcoves := rfl
@[simp] theorem mxDrop_scq (k : Core) (e : MxEnt) (n : Nat) : (k.mxDrop e n).scq = k.scq := rfl
@[simp] theorem mxDrop_chans (k : Core) (e : MxEnt) (n : Nat) : (k.mxDrop e n).chans = k.chans := rfl
@[simp] theorem mxDrop_outmask (k : Core) (e : MxEnt) (n : Nat) : (k.mxDrop e n).outmask = k.outmask := rfl
@[simp] theorem mxDrop_slcount (k : Core) (e : MxEnt) (n : Nat) : (k.mxDrop e n).slcount = k.slcount := rfl
@[simp] theorem mxDrop_slfail (k : Core) (e : MxEnt) (n : Nat) : (k.mxDrop e n).slfail = k.slfail := rfl

/-! ### The entry taken next -/

/-- The entry that a core takes next is one of its queue, of the kind asked for, past every earlier entry that it follows, and its
time has come. -/
theorem mxNext_some {s : State} {c : Nat} {f : MxOp → Bool} {e : MxEnt} (h : s.mxNext c f = some e) :
    e ∈ (s.core c).mq ∧ f e.op = true ∧ (s.core c).mxMayStart e = true ∧
      (s.core c).mxTimed s.cycle (s.imageRows e.op) e = true := by
  have hp := List.find?_some h
  simp only [Bool.and_eq_true] at hp
  exact ⟨List.mem_of_find?_eq_some h, hp.1.1, hp.1.2, hp.2⟩

/-- A K-step that merges is one of the queue's, in the array, with no earlier entry of its tile left, and its 12 cycles have passed. -/
theorem mergeNext_some {s : State} {c : Nat} {e : MxEnt} (h : s.mergeNext c = some e) :
    e ∈ (s.core c).mq ∧ e.op.isMma = true ∧ (s.core c).mxMayMerge e = true ∧ e.due ≤ s.cycle := by
  have hp := List.find?_some h
  simp only [Bool.and_eq_true, decide_eq_true_eq] at hp
  exact ⟨List.mem_of_find?_eq_some h, hp.1.1, hp.1.2, hp.2⟩

/-- A step of the array answers the entry's effect where an entry may be taken, and the state as it is otherwise. -/
theorem mxStep_eq (s : State) (f : MxOp → Bool) (g : Nat → MxEnt → State) :
    s.mxStep f g = .next (match s.mxNext s.arg.unit f with | some e => (g s.arg.unit e).settle | none => s) := by
  unfold State.mxStep
  cases s.mxNext s.arg.unit f <;> rfl

end Sys2Proof.Machine
end

