-- ==== Sys2Proof/Laws/Result.lean ====
section
/-! SUPPORT. What a bundle with one register result comes to. -/

namespace Sys2Proof.Machine

open Host (Outcome)

/-! ### Results landing -/

/-- A task with only its bundle count moved on. -/
def Task.skip (t : Task) (n : Nat) : Task := { t with nb := t.nb + n }

theorem skip_skip (t : Task) (m n : Nat) : (t.skip m).skip n = t.skip (m + n) := by simp [Task.skip, Nat.add_assoc]

theorem bump_none (t : Task) (hf : t.flights = []) (hp : t.prods = []) : t.bump = t.skip 1 := by
  simp [Task.bump, Task.replayDue, Task.landDrawn, Task.land, Task.skip, hf, hp]

/-- With nothing on its way, later bundles only count. -/
theorem later_none (t : Task) (hf : t.flights = []) (hp : t.prods = []) (j : Nat) : t.later j = t.skip j := by
  induction j generalizing t with
  | zero => rfl
  | succ j ih =>
    simp only [Task.later]
    rw [bump_none t hf hp, ih (t.skip 1) hf hp, skip_skip, Nat.add_comm]

/-- A task whose one result has landed. -/
def Task.landed (t : Task) (f : Flight) : Task := { t with flights := [] }.landOne f

theorem landed_flights (t : Task) (f : Flight) : (t.landed f).flights = [] := by
  unfold Task.landed Task.landOne
  split
  · rfl
  · unfold Task.put; cases f.dst <;> simp; split <;> rfl

theorem landed_prods (t : Task) (f : Flight) : (t.landed f).prods = t.prods := by
  unfold Task.landed Task.landOne
  split
  · rfl
  · unfold Task.put; cases f.dst <;> simp; split <;> rfl

theorem put_skip (t : Task) (n : Nat) (d : Dest) (v : VReg) (m : BitVec 16) : (t.skip n).put d v m = (t.put d v m).skip n := by
  cases d with
  | s k =>
    show (t.skip n).putS k _ = (t.putS k _).skip n
    unfold Task.putS
    by_cases hk : k = 0
    · rw [if_pos hk, if_pos hk]
    · rw [if_neg hk, if_neg hk]; rfl
  | v k => rfl
  | p k =>
    show (t.skip n).putP k _ = (t.putP k _).skip n
    unfold Task.putP
    by_cases hk : k = 0
    · rw [if_pos hk, if_pos hk]
    · rw [if_neg hk, if_neg hk]; rfl
  | ib k =>
    show (if k = 0 then _ else _) = Task.skip (if k = 0 then _ else _) n
    by_cases hk : k = 0
    · rw [if_pos hk, if_pos hk]; rfl
    · rw [if_neg hk, if_neg hk]; rfl

theorem landed_skip (t : Task) (n : Nat) (f : Flight) : (t.skip n).landed f = (t.landed f).skip n := by
  have e : ({ t.skip n with flights := [] } : Task) = Task.skip { t with flights := [] } n := rfl
  have he : (Task.skip { t with flights := [] } n).isEmpty f.dst = ({ t with flights := [] } : Task).isEmpty f.dst := rfl
  unfold Task.landed Task.landOne
  rw [e, he]
  split
  · rfl
  · exact put_skip _ n _ _ _

theorem bump_one (t : Task) (f : Flight) (hf : t.flights = [f]) (hp : t.prods = []) (hr : f.replay = false) :
    t.bump = if f.due ≤ t.nb + 1 then (t.landed f).skip 1 else t.skip 1 := by
  have h1 : (t.skip 1).replayDue = false := by simp [Task.replayDue, Task.skip, hf, hr]
  have h2 : (t.skip 1).landDrawn = t.skip 1 := by simp [Task.landDrawn, Task.skip, hp]
  have h3 : t.bump = (t.skip 1).land := by
    show (if (t.skip 1).replayDue then (t.skip 1).landDrawn else (t.skip 1).landDrawn.land) = _
    rw [h1, h2]; rfl
  have h4 : (t.skip 1).flights = [f] := hf
  have h5 : (t.skip 1).nb = t.nb + 1 := rfl
  rw [h3]
  unfold Task.land
  simp only [h4, h5]
  by_cases hd : f.due ≤ t.nb + 1
  · have : ¬ t.nb + 1 < f.due := by omega
    simp only [List.filter_cons, List.filter_nil, hd, this, decide_true, decide_false, if_true, List.foldl_cons, List.foldl_nil]
    exact landed_skip t 1 f
  · have h6 : t.nb + 1 < f.due := by omega
    simp only [List.filter_cons, List.filter_nil, hd, h6, decide_true, decide_false, if_true]
    show ({ t.skip 1 with flights := [f] } : Task) = t.skip 1
    rw [← h4]

/-- One result on its way lands with the bundle it is due for. -/
theorem later_one (t : Task) (f : Flight) (hf : t.flights = [f]) (hp : t.prods = []) (hr : f.replay = false) (hd : t.nb < f.due) (j : Nat) :
    t.later j = if f.due ≤ t.nb + j then (t.landed f).skip j else t.skip j := by
  induction j generalizing t with
  | zero =>
    have : ¬ f.due ≤ t.nb + 0 := by omega
    rw [if_neg this]; rfl
  | succ j ih =>
    simp only [Task.later]
    rw [bump_one t f hf hp hr]
    by_cases h1 : f.due ≤ t.nb + 1
    · have h2 : f.due ≤ t.nb + (j + 1) := by omega
      rw [if_pos h1, if_pos h2, later_none _ (by show (t.landed f).flights = []; exact landed_flights t f) (by show (t.landed f).prods = []; rw [landed_prods, hp]), skip_skip, Nat.add_comm]
    · rw [if_neg h1, ih (t.skip 1) hf hp (by show t.nb + 1 < f.due; omega)]
      have e : (t.skip 1).nb + j = t.nb + (j + 1) := by show t.nb + 1 + j = _; omega
      rw [e, landed_skip, skip_skip, skip_skip, Nat.add_comm 1 j]

theorem sameRegs_refl (t : Task) : t.SameRegs t := ⟨fun _ => rfl, fun _ => rfl, fun _ => rfl, rfl, rfl⟩

/-- Registers are read from these fields alone. -/
theorem sameRegs_of (t u : Task) (h1 : t.sregs = u.sregs) (h2 : t.vregs = u.vregs) (h3 : t.preds = u.preds) (h4 : t.ib0 = u.ib0)
    (h5 : t.ib1 = u.ib1) : t.SameRegs u :=
  ⟨fun n => by simp [Task.getS, h1], fun n => by simp [Task.getV, h2], fun n => by simp [Task.getP, h3], h4, h5⟩

/-- A write goes to the fields that hold registers, and comes from them. -/
theorem sameRegs_put (t u : Task) (d : Dest) (v : VReg) (m : BitVec 16) (h1 : t.sregs = u.sregs) (h2 : t.vregs = u.vregs)
    (h3 : t.preds = u.preds) (h4 : t.ib0 = u.ib0) (h5 : t.ib1 = u.ib1) : (t.put d v m).SameRegs (u.put d v m) := by
  have hv : ∀ n, t.getV n = u.getV n := fun n => by simp [Task.getV, h2]
  have hp : ∀ n, t.getP n = u.getP n := fun n => by simp [Task.getP, h3]
  cases d with
  | s k => apply sameRegs_of <;> simp only [Task.put, Task.putS] <;> split <;> simp_all
  | v k => apply sameRegs_of <;> simp only [Task.put, Task.putV] <;> simp_all
  | p k => apply sameRegs_of <;> simp only [Task.put, Task.putP] <;> split <;> simp_all
  | ib k => apply sameRegs_of <;> simp only [Task.put] <;> split <;> simp_all

/-! ### A bundle of one word with one register result -/

/-- The flags a result raises, as effects. -/
def flagEffects (f : Nat) : List Effect := if f = 0 then [] else [.flags f]

theorem now_logSlot (s : State) (sh : Shape) (o : SlotOut) : (s.logSlot sh o).now = s.now := rfl
theorem tid_logSlot (s : State) (sh : Shape) (o : SlotOut) : (s.logSlot sh o).tid = s.tid := rfl

theorem apply_wr (s : State) (d : Dest) (off : Nat) (v : VReg) (m : BitVec 16) :
    s.applyEffect (.wr d off v m) = s.putTask s.tid (s.now.launch d off v m) := rfl

theorem apply_flags (s : State) (f : Nat) : s.applyEffect (.flags f) = s.putTask s.tid { s.now with fpflags := s.now.fpflags ||| f } := rfl

/-- A state in which only the current task is another. -/
theorem now_putTask (s : State) (k : Task) : (s.putTask s.tid k).now = k := by
  show (s.putTask s.tid k).task s.tid = k
  simp

/-- The commit of a bundle whose effects change the current task alone, into `k`. -/
theorem commit_task (s : State) (es : List Effect) (f : Nat) (k : Task) (hp : es.all Effect.plain = true)
    (hk : es.foldl State.applyEffect s = s.putTask s.tid k) (hl : (k.loops.getLast?.any fun l => l.last == s.bun.pc) = false) :
    s.commit (es ++ flagEffects f) = ((s.putTask s.tid (({ k with fpflags := k.fpflags ||| f }.issued s.bun).bump))).tick 1 := by
  by_cases hf : f = 0
  · subst hf
    have := commit_plain s es [] (s.putTask s.tid k) hp (by simpa using hk) rfl rfl (by rw [now_putTask]; exact hl)
    simpa [flagEffects, State.passed] using this
  · have := commit_plain s es [f] (s.putTask s.tid { k with fpflags := k.fpflags ||| f }) hp
      (by simp only [List.map_cons, List.map_nil, List.foldl_cons, List.foldl_nil, hk, apply_flags]
          rw [now_putTask]; exact putTask_putTask _ _ _ _) rfl rfl (by rw [now_putTask]; exact hl)
    simpa [flagEffects, hf, State.passed] using this

/-- The commit of a bundle with no effect but flags. -/
theorem commit_none (s : State) (f : Nat) (hl : s.straight = true) :
    s.commit (flagEffects f) = ((s.putTask s.tid (({ s.now with fpflags := s.now.fpflags ||| f }.issued s.bun).bump))).tick 1 := by
  have hl' : (s.now.loops.getLast?.any fun l => l.last == s.bun.pc) = false := by simpa [State.straight] using hl
  by_cases hf : f = 0
  · subst hf
    have := commit_plain s [] [] s rfl rfl rfl rfl hl'
    have e : ({ s.now with fpflags := s.now.fpflags ||| 0 } : Task) = s.now := by simp
    rw [e]
    have e2 : s.now = s.task s.tid := rfl
    rw [e2]
    simpa [flagEffects, State.passed] using this
  · have := commit_plain s [] [f] (s.putTask s.tid { s.now with fpflags := s.now.fpflags ||| f }) rfl
      (by simp only [List.map_cons, List.map_nil, List.foldl_cons, List.foldl_nil, apply_flags]) rfl rfl (by rw [now_putTask]; exact hl')
    simpa [flagEffects, hf, State.passed] using this

/-- The parts of `clear`. -/
theorem clear_iff (s : State) (sh : Shape) : s.clear sh = true ↔ s.admits sh = true ∧ s.calm = true ∧ (s.now.flights = [] ∧ s.now.prods = []) ∧
    (s.now.loops.getLast?.any fun l => l.last == s.bun.pc) = false := by
  simp [State.clear, State.quiet, State.straight, and_assoc]

/-- A state in which the current task alone has moved on. -/
theorem sameWorld_passed (s : State) (sh : Shape) (o : SlotOut) (k : Task) : s.SameWorld (((s.logSlot sh o).putTask s.tid k).tick 1) where
  mem := rfl
  cores := rfl
  others := fun x hx => task_putTask_ne (s.logSlot sh o) s.tid x k hx
  dies := ⟨rfl, rfl, rfl, rfl, rfl, rfl, rfl⟩
  owners := ⟨rfl, rfl, rfl, rfl, rfl, rfl⟩
  order := ⟨rfl, rfl, rfl, rfl, rfl, rfl, rfl, rfl, rfl⟩
  fabric := ⟨rfl, rfl, rfl, rfl, rfl, rfl, rfl, rfl, rfl⟩
  host := ⟨rfl, rfl, rfl, rfl, rfl⟩

/-- What is compared of two tasks: nothing of it is their bundle count. -/
theorem sameRest_trans {t u v : Task} (h : t.SameRest u) (g : u.SameRest v) : t.SameRest v := by
  obtain ⟨⟨a1, a2, a3, a4, a5⟩, ⟨b1, b2, b3, b4⟩, ⟨c1, c2, c3, c4⟩, ⟨j1, j2, j3, j4, j5⟩, d1, d2, d3, d4, d5, d6⟩ := h
  obtain ⟨⟨e1, e2, e3, e4, e5⟩, ⟨f1, f2, f3, f4⟩, ⟨g1, g2, g3, g4⟩, ⟨k1, k2, k3, k4, k5⟩, i1, i2, i3, i4, i5, i6⟩ := g
  exact ⟨⟨a1.trans e1, a2.trans e2, a3.trans e3, a4.trans e4, a5.trans e5⟩, ⟨b1.trans f1, b2.trans f2, b3.trans f3, b4.trans f4⟩,
    ⟨c1.trans g1, c2.trans g2, c3.trans g3, c4.trans g4⟩, ⟨j1.trans k1, j2.trans k2, j3.trans k3, j4.trans k4, j5.trans k5⟩, d1.trans i1, d2.trans i2, d3.trans i3, d4.trans i4, d5.trans i5, d6.trans i6⟩

/-- A write to a register touches nothing else of its task. -/
theorem put_rest (u : Task) (d : Dest) (v : VReg) (m : BitVec 16) :
    (u.put d v m).SameRest u ∧ (u.put d v m).fpflags = u.fpflags ∧ (u.put d v m).pc = u.pc ∧ (u.put d v m).redo = u.redo := by
  cases d with
  | s k =>
    show (u.putS k _).SameRest u ∧ _
    exact ⟨⟨by simp, by simp, by simp, by simp, by simp⟩, by simp [Task.put], by simp [Task.put], by simp [Task.put]⟩
  | v k => exact ⟨⟨⟨rfl, rfl, rfl, rfl, rfl⟩, ⟨rfl, rfl, rfl, rfl⟩, ⟨rfl, rfl, rfl, rfl⟩, ⟨rfl, rfl, rfl, rfl, rfl⟩, ⟨rfl, rfl, rfl, rfl, rfl, rfl⟩⟩, rfl, rfl, rfl⟩
  | p k =>
    show (u.putP k _).SameRest u ∧ _
    exact ⟨⟨by simp, by simp, by simp, by simp, by simp⟩, by simp [Task.put], by simp [Task.put], by simp [Task.put]⟩
  | ib k =>
    have e : u.put (.ib k) v m = if k = 0 then { u with ib0 := v.toNat % 128 } else { u with ib1 := v.toNat % 128 } := rfl
    rw [e]
    by_cases hk : k = 0
    · rw [if_pos hk]; exact ⟨⟨⟨rfl, rfl, rfl, rfl, rfl⟩, ⟨rfl, rfl, rfl, rfl⟩, ⟨rfl, rfl, rfl, rfl⟩, ⟨rfl, rfl, rfl, rfl, rfl⟩, ⟨rfl, rfl, rfl, rfl, rfl, rfl⟩⟩, rfl, rfl, rfl⟩
    · rw [if_neg hk]; exact ⟨⟨⟨rfl, rfl, rfl, rfl, rfl⟩, ⟨rfl, rfl, rfl, rfl⟩, ⟨rfl, rfl, rfl, rfl⟩, ⟨rfl, rfl, rfl, rfl, rfl⟩, ⟨rfl, rfl, rfl, rfl, rfl, rfl⟩⟩, rfl, rfl, rfl⟩

/-- The landing of a result touches a register alone. -/
theorem landed_rest (t : Task) (f : Flight) : (t.landed f).SameRest t ∧ (t.landed f).fpflags = t.fpflags ∧ (t.landed f).pc = t.pc ∧
    (t.landed f).redo = t.redo := by
  have h0 : ({ t with flights := [] } : Task).SameRest t :=
    ⟨⟨rfl, rfl, rfl, rfl, rfl⟩, ⟨rfl, rfl, rfl, rfl⟩, ⟨rfl, rfl, rfl, rfl⟩, ⟨rfl, rfl, rfl, rfl, rfl⟩, ⟨rfl, rfl, rfl, rfl, rfl, rfl⟩⟩
  unfold Task.landed Task.landOne
  split
  · exact ⟨h0, rfl, rfl, rfl⟩
  · have h := put_rest { t with flights := [] } f.dst f.val f.mask
    exact ⟨sameRest_trans h.1 h0, h.2.1, h.2.2.1, h.2.2.2⟩

/-- A word with no effect but flags: its task's registers stay. -/
theorem runSlot_nothing (s : State) (sh : Shape) (f : Nat) (h : s.clear sh = true) :
    ∃ t, s.runSlot sh (.go (flagEffects f)) = .next t ∧ s.Gives t none f := by
  obtain ⟨ha, hc, ⟨hf, hp⟩, hl⟩ := (clear_iff s sh).1 h
  have hsh : s.now.shrinkAwaits [{ slot := s.bun.slot, shape := sh, out := .go (flagEffects f) }] = [] := by
    apply shrinkAwaits_none
    intro e he
    unfold flagEffects at he
    split at he
    · simp at he
    · simp at he; subst he; rfl
  let k : Task := { s.now with fpflags := s.now.fpflags ||| f }.issued (s.logSlot sh (.go (flagEffects f))).bun
  have hkf : k.flights = [] := hf
  have hkp : k.prods = [] := hp
  have hst : (s.logSlot sh (.go (flagEffects f))).straight = true := by simp [State.straight]; exact hl
  have hcm := commit_none (s.logSlot sh (.go (flagEffects f))) f hst
  have hkb : k.bump = k.skip 1 := bump_none k hkf hkp
  have hset : ((((s.logSlot sh (.go (flagEffects f))).putTask s.tid (k.skip 1))).tick 1).settle = (((s.logSlot sh (.go (flagEffects f))).putTask s.tid (k.skip 1))).tick 1 := by
    apply settle_of_calm
    refine calm_congr ((s.logSlot sh (.go (flagEffects f))).putTask s.tid (k.skip 1)) _ ?_ rfl rfl rfl rfl
    apply calm_putTask
    · exact calm_congr s _ hc rfl rfl rfl rfl
    · exact redo_of_calm s s.tid hc
  refine ⟨(((s.logSlot sh (.go (flagEffects f))).putTask s.tid (k.skip 1))).tick 1, ?_, ?_⟩
  · rw [runSlot_go s sh _ ha hsh, hcm]
    show Outcome.next (State.settle (State.tick (State.putTask (s.logSlot sh (.go (flagEffects f))) s.tid k.bump) 1)) = _
    rw [hkb, hset]
  · have ht : ((((s.logSlot sh (.go (flagEffects f))).putTask s.tid (k.skip 1))).tick 1).task s.tid = k.skip 1 :=
      task_putTask_self (s.logSlot sh (.go (flagEffects f))) s.tid (k.skip 1)
    refine ⟨?_, ?_, ?_, ?_, sameWorld_passed s sh _ _⟩
    · intro j
      rw [ht, later_none (k.skip 1) hkf hkp j]
      exact sameRegs_of _ _ rfl rfl rfl rfl rfl
    · rw [ht]; rfl
    · rw [ht]; exact ⟨⟨rfl, rfl, rfl, rfl, rfl⟩, ⟨rfl, rfl, rfl, rfl⟩, ⟨rfl, rfl, rfl, rfl⟩, ⟨rfl, rfl, rfl, rfl, rfl⟩, ⟨rfl, rfl, rfl, rfl, rfl, rfl⟩⟩
    · rw [ht]; rfl

/-- A result that leaves, or is discarded where the register is hard-wired. -/
theorem launch_flights (t : Task) (r : Res) (hf : t.flights = []) :
    ((r.dst = .s 0 ∨ r.dst = .p 0) ∧ t.launch r.dst r.off r.val r.mask = t) ∨
    ((r.dst ≠ .s 0 ∧ r.dst ≠ .p 0) ∧ t.launch r.dst r.off r.val r.mask =
      { t with seqno := t.seqno + 1, flights := [{ dst := r.dst, due := t.nb + r.off, ord := t.seqno, val := r.val, mask := r.mask }] }) := by
  by_cases h0 : r.dst = .s 0
  · left; exact ⟨.inl h0, by rw [h0]; rfl⟩
  · by_cases h1 : r.dst = .p 0
    · left; exact ⟨.inr h1, by rw [h1]; rfl⟩
    · right
      refine ⟨⟨h0, h1⟩, ?_⟩
      unfold Task.launch
      split
      · exact absurd ‹_› h0
      · exact absurd ‹_› h1
      · simp [hf, insertFlight]

/-- A word with one register result. -/
theorem runSlot_result (s : State) (sh : Shape) (r : Res) (f : Nat) (h : s.clear sh = true) (ho : 1 ≤ r.off) (he : s.now.isEmpty r.dst = false) :
    ∃ t, s.runSlot sh (.go (.wr r.dst r.off r.val r.mask :: flagEffects f)) = .next t ∧ s.Gives t (some r) f := by
  obtain ⟨ha, hc, ⟨hf, hp⟩, hl⟩ := (clear_iff s sh).1 h
  let es : List Effect := [.wr r.dst r.off r.val r.mask]
  let o : SlotOut := .go (es ++ flagEffects f)
  let u := s.logSlot sh o
  have hsh : s.now.shrinkAwaits [{ slot := s.bun.slot, shape := sh, out := o }] = [] := by
    apply shrinkAwaits_none
    intro e he
    rcases List.mem_append.1 he with he | he
    · simp [es] at he; subst he; rfl
    · unfold flagEffects at he
      split at he
      · simp at he
      · simp at he; subst he; rfl
  let k0 : Task := s.now.launch r.dst r.off r.val r.mask
  have hl0 : (k0.loops.getLast?.any fun l => l.last == s.bun.pc) = false := by
    rcases launch_flights s.now r hf with ⟨_, e⟩ | ⟨_, e⟩
    · show ((s.now.launch r.dst r.off r.val r.mask).loops.getLast?.any _) = false; rw [e]; exact hl
    · show ((s.now.launch r.dst r.off r.val r.mask).loops.getLast?.any _) = false; rw [e]; exact hl
  have hcm := commit_task u es f k0 rfl rfl hl0
  let k : Task := { k0 with fpflags := k0.fpflags ||| f }.issued u.bun
  have hgo : s.runSlot sh o = .next (((u.putTask s.tid k.bump).tick 1).settle) := by
    rw [runSlot_go s sh _ ha hsh]
    exact congrArg (fun x => Outcome.next (State.settle x)) hcm
  have hset : ∀ x : Task, x.redo = none → ((u.putTask s.tid x).tick 1).settle = (u.putTask s.tid x).tick 1 := by
    intro x hx
    apply settle_of_calm
    refine calm_congr (u.putTask s.tid x) _ ?_ rfl rfl rfl rfl
    exact calm_putTask _ _ _ (calm_congr s u hc rfl rfl rfl rfl) hx
  have hred := redo_of_calm s s.tid hc
  have htask : ∀ x : Task, ((u.putTask s.tid x).tick 1).task s.tid = x := fun x => task_putTask_self u s.tid x
  rcases launch_flights s.now r hf with ⟨hd, e⟩ | ⟨hd, e⟩
  · -- a hard-wired register: nothing is written
    have hk : k = { s.now with fpflags := s.now.fpflags ||| f }.issued u.bun := by
      show ({ s.now.launch r.dst r.off r.val r.mask with fpflags := (s.now.launch r.dst r.off r.val r.mask).fpflags ||| f } : Task).issued u.bun = _
      rw [e]
    have hkf : k.flights = [] := by rw [hk]; exact hf
    have hkp : k.prods = [] := by rw [hk]; exact hp
    refine ⟨(u.putTask s.tid (k.skip 1)).tick 1, ?_, ?_⟩
    · show s.runSlot sh o = _
      rw [hgo, bump_none k hkf hkp, hset]
      show k.redo = none; rw [hk]; exact hred
    · refine ⟨?_, ?_, ?_, ?_, sameWorld_passed s sh _ _⟩
      · intro j
        rw [htask, later_none (k.skip 1) hkf hkp j, hk]
        have hw : s.now.wrote (some r) (j + 1) = s.now := by
          simp only [Task.wrote]
          split
          · rcases hd with hd | hd <;> rw [hd] <;> rfl
          · rfl
        rw [hw]
        exact sameRegs_of _ _ rfl rfl rfl rfl rfl
      · rw [htask, hk]; rfl
      · rw [htask, hk]; exact ⟨⟨rfl, rfl, rfl, rfl, rfl⟩, ⟨rfl, rfl, rfl, rfl⟩, ⟨rfl, rfl, rfl, rfl⟩, ⟨rfl, rfl, rfl, rfl, rfl⟩, ⟨rfl, rfl, rfl, rfl, rfl, rfl⟩⟩
      · rw [htask, hk]; rfl
  · let fl : Flight := { dst := r.dst, due := s.now.nb + r.off, ord := s.now.seqno, val := r.val, mask := r.mask }
    have hk : k = { s.now with fpflags := s.now.fpflags ||| f, seqno := s.now.seqno + 1, flights := [fl] }.issued u.bun := by
      show ({ s.now.launch r.dst r.off r.val r.mask with fpflags := (s.now.launch r.dst r.off r.val r.mask).fpflags ||| f } : Task).issued u.bun = _
      rw [e]
    have hkf : k.flights = [fl] := by rw [hk]; rfl
    have hkp : k.prods = [] := by rw [hk]; exact hp
    have hnb : k.nb = s.now.nb := by rw [hk]; rfl
    have hdue : k.nb < fl.due := by rw [hnb]; show s.now.nb < s.now.nb + r.off; omega
    have hlater : ∀ j, k.later j = if fl.due ≤ k.nb + j then (k.landed fl).skip j else k.skip j := later_one k fl hkf hkp rfl hdue
    have hbump : k.bump = k.later 1 := rfl
    have hl1 : ∀ j, k.bump.later j = k.later (j + 1) := fun _ => rfl
    have hempty : ({ k with flights := [] } : Task).isEmpty fl.dst = false := by rw [hk]; exact he
    have hland : k.landed fl = ({ k with flights := [] } : Task).put r.dst r.val r.mask := by
      unfold Task.landed Task.landOne; rw [hempty]; rfl
    have hrest : k.bump.SameRest s.now ∧ k.bump.fpflags = s.now.fpflags ||| f ∧ k.bump.pc = s.bun.next ∧ k.bump.redo = none := by
      have hkr : k.SameRest s.now ∧ k.fpflags = s.now.fpflags ||| f ∧ k.pc = s.bun.next ∧ k.redo = none := by
        rw [hk]; exact ⟨⟨⟨rfl, rfl, rfl, rfl, rfl⟩, ⟨rfl, rfl, rfl, rfl⟩, ⟨rfl, rfl, rfl, rfl⟩, ⟨rfl, rfl, rfl, rfl, rfl⟩, ⟨rfl, rfl, rfl, rfl, rfl, rfl⟩⟩, rfl, rfl, hred⟩
      have hsk : ∀ x : Task, (x.skip 1).SameRest x := fun x =>
        ⟨⟨rfl, rfl, rfl, rfl, rfl⟩, ⟨rfl, rfl, rfl, rfl⟩, ⟨rfl, rfl, rfl, rfl⟩, ⟨rfl, rfl, rfl, rfl, rfl⟩, ⟨rfl, rfl, rfl, rfl, rfl, rfl⟩⟩
      rw [hbump, hlater 1]
      split
      · have hr := landed_rest k fl
        exact ⟨sameRest_trans (hsk _) (sameRest_trans hr.1 hkr.1), hr.2.1.trans hkr.2.1, hr.2.2.1.trans hkr.2.2.1, hr.2.2.2.trans hkr.2.2.2⟩
      · exact ⟨sameRest_trans (hsk _) hkr.1, hkr.2.1, hkr.2.2.1, hkr.2.2.2⟩
    refine ⟨(u.putTask s.tid k.bump).tick 1, ?_, ?_⟩
    · show s.runSlot sh o = _
      rw [hgo, hset _ hrest.2.2.2]
    · refine ⟨?_, ?_, ?_, ?_, sameWorld_passed s sh _ _⟩
      · intro j
        rw [htask, hl1, hlater (j + 1)]
        have hcond : fl.due ≤ k.nb + (j + 1) ↔ r.off ≤ j + 1 := by rw [hnb]; show s.now.nb + r.off ≤ _ ↔ _; omega
        simp only [Task.wrote]
        by_cases hc1 : r.off ≤ j + 1
        · rw [if_pos (hcond.2 hc1), if_pos hc1, hland]
          have hreg : ({ k with flights := [] } : Task).SameRegs s.now := by rw [hk]; exact sameRegs_of _ _ rfl rfl rfl rfl rfl
          have := sameRegs_put { k with flights := [] } s.now r.dst r.val r.mask (by rw [hk]; rfl) (by rw [hk]; rfl) (by rw [hk]; rfl) (by rw [hk]; rfl) (by rw [hk]; rfl)
          exact ⟨this.scalars, this.vectors, this.preds, this.bases⟩
        · rw [if_neg (fun hh => hc1 (hcond.1 hh)), if_neg hc1, hk]
          exact sameRegs_of _ _ rfl rfl rfl rfl rfl
      · rw [htask]; exact hrest.2.1
      · rw [htask]; exact hrest.1
      · rw [htask]; exact hrest.2.2.1

end Sys2Proof.Machine
end

