-- ==== Sys2Proof/Laws/Store.lean ====
section
/-! SUPPORT. What a store does at the homes of its bytes (11 R334, R335): memory takes its bytes and no other; of the state beside memory only
what belongs to lines, banks and the partitions' clocks changes. -/

namespace Sys2Proof.Machine

/-- Two states that differ only in memory, in what belongs to lines and banks, and in the partitions' clocks. -/
structure State.SameButLines (s u : State) : Prop where
  tasks   : u.tasks = s.tasks
  cores   : u.cores = s.cores
  regions : u.regions = s.regions
  sumps   : u.sumps = s.sumps
  trees   : u.trees = s.trees
  bars    : u.bars = s.bars
  ports   : u.ports = s.ports
  fab     : u.fab = s.fab
  sendqs  : u.sendqs = s.sendqs
  rops    : u.rops = s.rops
  cycle   : u.cycle = s.cycle
  bad     : u.bad = s.bad

theorem State.SameButLines.refl (s : State) : s.SameButLines s := by constructor <;> rfl
theorem State.SameButLines.trans {s u w : State} (h : s.SameButLines u) (k : u.SameButLines w) : s.SameButLines w := by
  constructor
  all_goals first
    | exact k.tasks.trans h.tasks | exact k.cores.trans h.cores | exact k.regions.trans h.regions
    | exact k.sumps.trans h.sumps | exact k.trees.trans h.trees | exact k.bars.trans h.bars | exact k.ports.trans h.ports
    | exact k.fab.trans h.fab | exact k.sendqs.trans h.sendqs | exact k.rops.trans h.rops | exact k.cycle.trans h.cycle
    | exact k.bad.trans h.bad

/-- A line brought into an L2 changes no memory. -/
theorem fillL2_same (s : State) (loc : Nat) : s.SameButLines (s.fillL2 loc) ∧ (s.fillL2 loc).mem = s.mem := by
  unfold State.fillL2 State.evict
  constructor
  · constructor <;> (split <;> [rfl; skip]) <;> dsimp only <;> split <;> rfl
  · split
    · rfl
    · dsimp only; split <;> rfl

/-- A write of one line's bytes. -/
theorem writeLine_same (s : State) (cl pts loc : Nat) (bs : List Byte) :
    s.SameButLines (s.writeLine cl pts loc bs).2 ∧ (s.writeLine cl pts loc bs).2.mem = memPutBytes s.mem loc bs := by
  unfold State.writeLine
  split
  · exact ⟨by constructor <;> rfl, rfl⟩
  · have ⟨h, hm⟩ := fillL2_same s loc
    simp only [State.noteWrite, State.serveRow]
    refine ⟨?_, ?_⟩
    · refine h.trans ?_
      constructor <;> (repeat' split) <;> rfl
    · (repeat' split) <;> simp

/-- The pieces of a write, in order, are the write. -/
theorem memPutBytes_append (m : Memory) (a : Nat) (bs cs : List Byte) :
    memPutBytes m a (bs ++ cs) = memPutBytes (memPutBytes m a bs) (a + bs.length) cs := by
  induction bs generalizing m a with
  | nil => rfl
  | cons b r ih => simp [memPutBytes, ih, Nat.add_assoc, Nat.add_comm 1]

/-- A write of pieces that follow one another. -/
theorem writeAll_split (f : Nat) (s : State) (cl pts loc : Nat) (bs : List Byte) (h : bs.length + loc % 64 ≤ 64 * f) :
    s.SameButLines (s.writeAll cl pts bs (splitLines loc bs.length f)).2 ∧
    (s.writeAll cl pts bs (splitLines loc bs.length f)).2.mem = memPutBytes s.mem loc bs := by
  induction f generalizing s pts loc bs with
  | zero =>
    have : bs = [] := List.length_eq_zero_iff.1 (by omega)
    subst this
    exact ⟨.refl s, rfl⟩
  | succ f ih =>
    simp only [splitLines]
    split
    · rename_i h0
      have : bs = [] := List.length_eq_zero_iff.1 h0
      subst this
      exact ⟨.refl s, rfl⟩
    · split
      · have hw := writeLine_same s cl pts loc bs
        simpa [State.writeAll] using hw
      · rename_i h1 h2
        have ⟨a1, a2⟩ := writeLine_same s cl pts loc (bs.take (64 - loc % 64))
        have hd : bs.length - (64 - loc % 64) = (bs.drop (64 - loc % 64)).length := by simp
        have ⟨b1, b2⟩ := ih (s.writeLine cl pts loc (bs.take (64 - loc % 64))).2 (s.writeLine cl pts loc (bs.take (64 - loc % 64))).1
          (loc + (64 - loc % 64)) (bs.drop (64 - loc % 64)) (by simp; omega)
        simp only [State.writeAll, hd]
        refine ⟨a1.trans b1, ?_⟩
        rw [b2, a2]
        have ht : (bs.take (64 - loc % 64)).length = 64 - loc % 64 := by simp; omega
        conv_rhs => rw [← List.take_append_drop (64 - loc % 64) bs, memPutBytes_append, ht]

/-- What a store does: its bytes are in memory, no other byte changes, and beside memory only lines, banks and partition clocks do. -/
theorem store_same (s : State) (cl pts loc : Nat) (bs : List Byte) :
    s.SameButLines (s.store cl pts loc bs).2 ∧ (s.store cl pts loc bs).2.mem = memPutBytes s.mem loc bs :=
  writeAll_split _ s cl pts loc bs (by omega)

/-- What an engine's write at a location's home does. -/
theorem homeWrite_same (s : State) (clk loc : Nat) (bs : List Byte) :
    s.SameButLines (s.homeWrite clk loc bs).2 ∧ (s.homeWrite clk loc bs).2.mem = memPutBytes s.mem loc bs := by
  have ⟨h, hm⟩ := store_same (s.noteHeld loc bs.length) 0xFFFFFF clk loc bs
  exact ⟨.trans (by constructor <;> rfl) h, hm⟩

end Sys2Proof.Machine
end

