-- ==== Sys2Proof/Tests/Slice0.lean ====
section
/-! SUPPORT. Tests: terms that WellFormed refuses, words spelled out from the encodings, single steps with results worked out by hand
from the spec, and a witness for the hypotheses of every statement that has any. -/

namespace Sys2Proof.Tests

set_option Elab.async false

open Sys2Proof Sys2Proof.Machine Sys2Proof.Rules

/-! ### Small states -/

/-- A header with one slot present, and the read ports that its words may need (02 R41, R46). -/
def header (sl : Nat) : Nat :=
  2 ^ sl + match sl with
    | 2 => 3 * 2 ^ 18
    | 4 => 2 ^ 14
    | 5 => 2 ^ 15
    | 7 => 2 * 2 ^ 12
    | _ => 0

/-- Task 1 of region 1, privileged, on core 0, about to execute the one word of a bundle at word 1: it holds every tile and channel,
its region owns the core's banks and alcoves, its cluster's barriers and sump 1. -/
def small (sl : Nat) (f : Task → Task := id) (g : Machine.Core → Machine.Core := id) (h : State → State := id) : State :=
  h { State.reset with
    cycle := 1000
    bun := { hdr := header sl, pc := 1, next := 3, slot := sl }
    parts := [(0, { dies := 1, ptroot := 0x100000, fqbase := 0, pins := [(0, { entry := 0x1001F, k := 0, counts := [(1, 1)] })] })]
    regions := [(1, { id := 1, flags := 4, dies := 1 })]
    banks := (List.range 16).map fun b => (b, 1)
    algr := (List.range 32).map fun b => (b, 1)
    bargr := (List.range 32).map fun b => (b, 1)
    sumpgr := [(1, 1)]
    tasks := [(1, f { tid := 1, region := 1, started := true, vn := 128, cmask := 0xFF, qmask := 0xF, nicheKiB := 8, pc := 1 })]
    cores := [(0, g { tasks := [1], cur := 1 })] }

/-- Scalar registers set. -/
def withS (rs : List (Nat × Nat)) (t : Task) : Task := rs.foldl (fun t r => t.putS r.1 (BitVec.ofNat 64 r.2)) t

/-- The state after a step that goes on. -/
def after (i : Instr) (s : State) : State := match exec i s with | .next t => t | _ => s

/-- Scalar register d as the k-th bundle after the instruction sees it. -/
def sees (i : Instr) (s : State) (d k : Nat) : Nat := ((((after i s).task 1).later (k - 1)).getS d).toNat

/-- Vector register d, likewise. -/
def seesV (i : Instr) (s : State) (d k : Nat) : VReg := ((((after i s).task 1).later (k - 1)).getV d)

/-- Predicate d, likewise. -/
def seesP (i : Instr) (s : State) (d k : Nat) : Nat := ((((after i s).task 1).later (k - 1)).getP d).toNat

/-- Cause and detail bytes of the trap that an instruction takes. -/
def trapOf (i : Instr) (s : State) : Nat × Nat :=
  (((((after i s).task 1).trec.getD 2 0).toNat), (((after i s).task 1).trec.getD 4 0).toNat)

/-- The own scratchpad, 256 bytes from its start. -/
def pad : Nat := spadAddr 0 0x100

/-! ### WellFormed refuses (02 R51) -/

theorem test_illFormed : ([.movsr 0 0x006, .movrs 0 0x007, .loop 1 0, .loopr 1 0 5, .loopr 1 9 5, .loopr 1 1 0, .vplanePack 0 0 0 1 0,
    .vplaneUnpack 0 0 0 9 0, .oclaim 0 0 3, .aadd 0 0 0 0 1, .amin 0 0 0 1 0, .amax 0 0 0 0 1, .aand 0 0 0 0 1, .aor 0 0 0 0 1,
    .axchg 0 0 0 0 1, .acas 0 0 0 0 1, .aaddf 0 0 0 1, .fencex 0 1, .fencex 1 0, .mset 1 0, .mret 0 1 2 6 0, .mretv 0 1 2 1 0,
    .mretv 0 1 2 5 0, .mchanFail 0 22, .minj 0 0 0 21, .cset 0 8 1, .watch 1 2 3 41, .bara 32, .barw 1 2 32, .bari 1 32, .xstat 1 2 11,
    .xpref 1 2 2, .tqry 1 2 9, .ratom 1 2 3 0 1 0, .ratom 1 2 3 1 2 7, .fclk 1 0 7, .fclk 1 2 0, .hsig 1 64] : List Instr).all
    (fun i => !i.wellFormed) = true := by decide

theorem test_wellFormed_bounds : ([.movsr 0 0x051, .loop 1 1, .loopr 1 8 0xFFFF, .vplanePack 0 0 0 2 0, .vplaneUnpack 0 0 0 8 0,
    .oclaim 0 0 2, .aadd 0 0 0 1 3, .mret 0 1 2 5 0, .mretv 0 1 2 4 1, .mchanFail 0 21, .minj 0 0 0 20, .cset 0 7 1, .watch 1 2 3 40,
    .bara 31, .xstat 1 2 10, .xpref 1 2 1, .tqry 1 2 8, .ratom 1 2 3 0 3 7, .fclk 1 2 5, .hsig 1 63] : List Instr).all
    Instr.wellFormed = true := by decide

/-! ### Words written out bit by bit from the formats of 02 R50 and the opcode maps of R52-R57 -/

theorem test_decode_scalar :
    decodeSlot .sa 0b000001_000011_000001_000010_0000_0000 = .ok (.add 3 1 2 0) ∧
    decodeSlot .sb 0b000011_000011_000001_000010_0010_0101 = .ok (.rem 3 1 2 5) ∧
    decodeSlot .sb 0b000100_000011_000001_000000_0111_0000 = .ok (.zxh 3 1 0) ∧
    decodeSlot .sa 0b000101_000011_000101_000100_0010_0000 = .ok (.cmpLt 3 5 4 0) ∧
    decodeSlot .sb 0b000110_000110_000001_000010_1001_0010 = .ok (.sel 6 1 2 9 2) ∧
    decodeSlot .sb 0b001000_001001_000010_11111111111111 = .ok (.addi 9 2 0x3FFF) ∧
    decodeSlot .sa 0b010010_000111_10_00_1011111011101111 = .ok (.movi 7 2 0xBEEF) ∧
    decodeSlot .sa 0b010100_000101_000000_00000000100000 = .ok (.movsr 5 0x020) ∧
    decodeSlot .sa 0b010100_000101_000001_00000000100000 = .error .field := by decide +kernel

theorem test_decode_control :
    decodeSlot .sa 0b100000_0001_1111111111111111111011 = .ok (.br 1 0x3FFFFB) ∧
    decodeSlot .sa 0b100001_0000_0000000001000000000000 = .ok (.brl 0 0x1000) ∧
    decodeSlot .sa 0b100010_000000_111111_000000_0000_0000 = .ok (.jr 63 0) ∧
    decodeSlot .sa 0b100101_000101_0010_0000000000000111 = .ok (.loopr 5 2 7) ∧
    decodeSlot .sa 0b101000_000000_000100_00000001100011 = .ok (.trap 4 99) ∧
    decodeSlot .sa 0b101010_00000000000000000000000000 = .ok .eret ∧
    decodeSlot .sb 0b101001_00000000000000000000000000 = .error .saOnly ∧
    decodeSlot .sb 0b011111_00000000000000000000000000 = .error .opcode := by decide +kernel

theorem test_decode_vector :
    decodeSlot .va 0b000001_0000101_0000001_0000010_0000_0 = .ok (.faddF32 5 1 2 0 0) ∧
    decodeSlot .vb 0b000100_0001000_0000010_0000011_0000_0 = .ok (.ffmaF32 8 2 3 0 0) ∧
    decodeSlot .va 0b000111_0100100_0000110_0000111_0001_0 = .ok (.fcmpF32 2 4 6 7 1 0) ∧
    decodeSlot .vb 0b001000_0000011_0001001_0000010_0000_0 = .ok (.sqrtF32 3 9 0 0) ∧
    decodeSlot .va 0b010000_0001010_0001011_0000000_0000_0 = .ok (.fcvtBf16F32 10 11 0 0) ∧
    decodeSlot .vb 0b110011_0000011_0000111_1000000_0000_0 = .ok (.vbcastScalar 3 7 0) ∧
    decodeSlot .va 0b111000_0000011_0000001_0000010_0000_0 = .ok (.pand 3 1 2 0) := by decide +kernel

theorem test_decode_memory :
    decodeSlot .ls 0b000001_0001010_000100_11_00000000010 = .ok (.ld 10 4 3 2) ∧
    decodeSlot .ls 0b000100_0001000_000010_00_00000000010 = .ok (.vld 8 2 2) ∧
    decodeSlot .ls 0b001010_0000101_000000_11_00000000011 = .ok (.fil 5 0 3 3) ∧
    decodeSlot .ls 0b010000_0000011_001001_000000_0000000 = .ok (.oclaim 3 9 0) ∧
    decodeSlot .ls 0b010100_0000000_000011_01_00000000010 = .ok (.scld 3 1 2) ∧
    decodeSlot .ls 0b011000_0001100_000110_000111_0000011 = .ok (.aadd 12 6 7 0 3) ∧
    decodeSlot .ls 0b100000_0000000_000000_000000_0000001 = .ok .fencePackage ∧
    decodeSlot .ls 0b100001_0000001_000000_000000_0000010 = .ok (.fencex 1 2) := by decide +kernel

theorem test_decode_matrix :
    decodeSlot .mx 0b000001_000100_00000000000000000001 = .ok (.mset 4 1) ∧
    decodeSlot .mx 0b000010_000_0000_0001_0000_1_0_000000000 = .ok (.mma 0 0 1 1 0) ∧
    decodeSlot .mx 0b000100_010_000101_000110_0010_1_000000 = .ok (.mret 2 5 6 2 1) ∧
    decodeSlot .mx 0b001111_00000000000000000000000000 = .error .opcode := by decide +kernel

theorem test_decode_copy_network :
    decodeSlot .cp 0b000001_00_000011_000111_000000_000000 = .ok (.cset 0 3 7) ∧
    decodeSlot .cp 0b000010_01_000000_000101_000000_000000 = .ok (.cshape 1 5) ∧
    decodeSlot .cp 0b000101_01_010010_000000_000000_000000 = .ok (.cwait 1 18) ∧
    decodeSlot .nw 0b000001_0000000_000101_000000_0000000 = .ok (.fork 5) ∧
    decodeSlot .nw 0b000011_0000110_000000_000000_0000000 = .ok (.next 6) ∧
    decodeSlot .nw 0b001001_0001010_001001_000000_0000101 = .ok (.barw 10 9 5) ∧
    decodeSlot .nw 0b001010_0000000_000100_000000_0000101 = .ok (.bari 4 5) ∧
    decodeSlot .nw 0b110000_0000000_001001_000000_0000011 = .ok (.hsig 9 3) := by decide +kernel

/-- The packet of the example of 02 R61: headers at words 1, 5 and 6. -/
theorem test_packet :
    let ws := [0xA0000031, 0x00080025, 0x04304200, 0x04281040, 0x04509802, 0x00600000, 0x00000001, 0x807FFFFB, 0, 0, 0, 0, 0, 0, 0, 0]
    checkPacket ws = true ∧ nextBundle ws 0x1001 = 0x1005 ∧ nextBundle ws 0x1005 = 0x1006 ∧ nextBundle ws 0x1006 = 0x1011 ∧
      bundleSlots ws 1 = [(.sa, 0x04304200), (.va, 0x04281040), (.ls, 0x04509802)] ∧ checkPacket (ws.set 0 0xA0000021) = false := by decide +kernel

/-! ### Single steps, with results worked out by hand -/

theorem test_add_wraps : sees (.add 3 1 2 0) (small 0 (withS [(1, 2 ^ 64 - 1), (2, 3)])) 3 1 = 2 := by decide +kernel
theorem test_sub_source_is_destination : sees (.sub 1 2 1 0) (small 1 (withS [(1, 5), (2, 3)])) 1 1 = 2 ^ 64 - 2 := by decide +kernel
theorem test_sar_keeps_sign : sees (.sar 3 1 2 0) (small 0 (withS [(1, 2 ^ 63), (2, 66)])) 3 1 = 0xE000000000000000 := by decide +kernel
theorem test_mulh_of_minus_one : sees (.mulh 3 1 2 0) (small 0 (withS [(1, 2 ^ 64 - 1), (2, 1)])) 3 3 = 2 ^ 64 - 1 ∧
    sees (.mulhu 3 1 2 0) (small 0 (withS [(1, 2 ^ 64 - 1), (2, 2 ^ 64 - 1)])) 3 3 = 2 ^ 64 - 2 := by decide +kernel
theorem test_cmp_signed : seesP (.cmpLt 3 1 2 0) (small 0 (withS [(1, 2 ^ 64 - 1), (2, 1)])) 3 1 = 0xFFFF ∧
    seesP (.cmpLtu 3 1 2 0) (small 0 (withS [(1, 2 ^ 64 - 1), (2, 1)])) 3 1 = 0 := by decide +kernel
/-- 04: the MOVI and MOVK pair leaves 0x0001_BEEF_0000_0000. -/
theorem test_movk : sees (.movi 7 2 0xBEEF) (small 0) 7 1 = 0x0000BEEF00000000 ∧
    sees (.movk 7 3 1) (small 0 (withS [(7, 0x0000BEEF00000000)])) 7 1 = 0x0001BEEF00000000 := by decide +kernel
/-- 04 R107: the most negative number by -1. -/
theorem test_div_corner : ((after (.div 3 1 2 0) (small 0 (withS [(1, 2 ^ 63), (2, 2 ^ 64 - 1)]))).task 1).prods.map Prod.wait =
    [.ready [BitVec.ofNat 512 (2 ^ 63)]] := by decide +kernel
/-- The example of 01 R23: name 3 reads storage 23, name 10 storage 1. -/
theorem test_rotated_names : let s := small 2 fun t => { (t.putV 23 7).putV 1 9 with vn := 64, rotSize := 16, rotBase := 5, ib0 := 20, ib1 := 60 }
    seesV (.vsel 40 3 10 0 1) s 40 2 = 7 ∧ seesV (.vsel 40 3 10 5 1) s 40 2 = 9 ∧ trapOf (.vmov 70 3 0 1) s = (5 * 2 ^ 16, 0) := by decide +kernel
/-- The example of 01 R26: LOOPR with N = 3 and S = 2. -/
theorem test_loopr : let s := small 0 (withS [(2, 3)]) id fun s => { s with
      mem := memPutBytes [] 0x10000 (natLe 4 0xA0000005 ++ natLe 4 1 ++ natLe 4 0x94220002 ++ natLe 4 1) }
    seesP (.loopr 2 2 2) s 8 1 = 0xFFFF ∧ seesP (.loopr 2 2 2) s 9 1 = 0 ∧ ((after (.loopr 2 2 2) s).task 1).loops.map LoopLevel.lc = [3] := by decide +kernel
/-- The example of 04 R120: the link is the next bundle. -/
theorem test_brl_links : let s := small 0 id id fun s => { s with bun := { s.bun with pc := 1, next := 3 } }
    sees (.brl 0 0x1000) s 63 1 = 3 ∧ ((after (.brl 0 0x1000) s).task 1).pc = 0x1001 ∧ ((after (.brl 0 0x1000) s).core 0).stall = 2 := by decide +kernel
theorem test_fadd_rounds_to_even : seesV (.faddF32 3 1 2 0 0) (small 2 fun t => (t.putV 1 0x4B800000).putV 2 0x3F800000) 3 4 = 0x4B800000 ∧
    ((after (.faddF32 3 1 2 0 0) (small 2 fun t => (t.putV 1 0x4B800000).putV 2 0x3F800000)).task 1).fpflags = 1 := by decide +kernel
/-- The example of 03 R70: 5, -3, -8, 7 in four planes. -/
theorem test_planes : let s := small 2 fun t => t.putV 1 (fromLanes fun i => [5, 0xFFFFFFFD, 0xFFFFFFF8, 7].getD i 0)
    seesV (.vplanePack 3 1 0 4 0) s 3 2 = fromLanes fun i => [6, 0xB, 8, 0xB].getD i 0 := by decide +kernel
theorem test_iadd_guard : seesV (.iadd 3 1 2 2 0) (small 2 fun t => (((t.putV 1 (fromLanes fun _ => 0xFFFFFFFF)).putV 2 (fromLanes fun _ => 2)).putP 2 2).putV 3 9) 3 2 =
    fromLanes fun i => if i = 1 then 1 else if i = 0 then 9 else 0 := by decide +kernel
theorem test_store_little_endian : memBytes (after (.st 3 2 1 0) (small 5 (withS [(2, pad), (3, 0x12345)]))).mem pad 3 = [0x45, 0x23, 0] := by decide +kernel
theorem test_load_sign : let s := small 5 (withS [(2, pad)]) id fun s => { s with mem := [(pad + 2, 0x80)] }
    sees (.ld 3 2 0 2) s 3 6 = 2 ^ 64 - 128 ∧ sees (.ldz 3 2 0 2) s 3 6 = 128 ∧ sees (.ld 3 2 0 2) s 3 5 = 0 := by decide +kernel
/-- 02 R59, 05 R149: a misaligned load traps with cause 0x0A. -/
theorem test_misaligned : trapOf (.ld 3 2 3 0) (small 5 (withS [(2, pad + 1)])) = (0x0A * 2 ^ 40, 0) := by decide +kernel
/-- The example of 05: OSTAT of a filling alcove 0 of kind 1 reads 0x13. -/
theorem test_ostat : sees (.ostat 5 3) (small 5 (fun t => { t with handles := [(3, 0)] }) fun k => { k with
    alcoves := [(0, { st := 3, kind := 1, tid := 1, handle := 3 })] }) 5 1 = 0x13 := by decide +kernel
/-- The example of 03 R74. -/
theorem test_metadata : metaOk 4 0x000F1CC1 = true ∧ (List.range 4).map (metaIdx 0x000F1CC1) = [1, 6, 7, 30] ∧ metaOk 4 0x100F1CC1 = false := by decide +kernel
/-- The worked block of 03: the aligned integers of row m and its exponent. -/
theorem test_block_alignment : alignBlock .bf16 16 [0x3FC0, 0x4040, 0xBEC0, 0x3A81, 0] = ([24576, 49152, -6144, 16, 0], -14) := by decide +kernel
/-- The example of 03 R93: channel 9 changed from 35 to 36 is corrected. -/
theorem test_residue_correction :
    checkLane (fun j => if j = 9 then 36 else residue 1000 j) (laneChans 1) 2 (half 1) = .corrected 9 1000 := by decide +kernel
/-- 04 R124, 07 R205: a TRAP's record. -/
theorem test_trap : let t := (after (.trap 4 99) (small 0 (withS [(4, 7)]))).task 1
    t.status = .trapped ∧ t.pc = 3 ∧ (t.trec.map BitVec.toNat).take 7 = [3, 2 ^ 32 + 1, 0x11, 0, 0, 7, 99] := by decide +kernel
theorem test_bara_completes : (after (.bara 3) (small 7 id id fun s => { s with bars := [(3, { target := 2, arrived := 1, gen := 2 ^ 32 - 1 })] })).bars =
    [(3, { target := 2 })] := by decide +kernel
theorem test_privilege : trapOf (.xlpin 5 2 3) (small 7 id id fun s => { s with regions := [(1, { id := 1, dies := 1 })] }) = (7 * 2 ^ 56, 0) := by decide +kernel

/-! ### Witnesses: concrete states and operands that meet the hypotheses of each statement, clause by clause -/

/-- Every shape is that of a bundle that runs and moves nothing else. -/
def clearAll (s : State) (l : List Shape) : Bool := l.all s.clear
/-- The same for bundles whose task may have results on their way. -/
def readyAll (s : State) (l : List Shape) : Bool := l.all s.ready

theorem witness_TwoRegisterOpsWriteTheirResult : clearAll (small 0) [{ sr := [0, 0], sw := [0] }, { sr := [63, 62], sw := [63] }] = true ∧
    clearAll (small 1) [{ sr := [1, 2], sw := [3] }] = true ∧ twoReg.length = 17 ∧ on (small 0).now 0 = true ∧ on (small 0).now 5 = false := by decide +kernel
theorem witness_BitCountsAndExtensions : clearAll (small 1) [{ sr := [0], sw := [0] }, { sr := [63], sw := [63] }] = true ∧ oneReg.length = 9 := by decide +kernel
theorem witness_SelChoosesByPredicate : clearAll (small 0) [{ sr := [1, 63], sw := [63] }] = true := by decide +kernel
theorem witness_ImmediateOpsWriteTheirResult : clearAll (small 0) [{ sr := [0], sw := [63] }, { sw := [63] }, { sr := [63], sw := [63] }] = true ∧
    withImm.length = 4 ∧ shiftImm.length = 3 ∧ 64 ≤ (64 : BitVec 14).toNat := by decide +kernel
theorem witness_ComparesWriteWholePredicate : clearAll (small 0) [{ sr := [1, 2], pw := [0] }, { sr := [1, 2], pw := [15] }, { sr := [63], pw := [15] }] = true ∧
    compares.length = 6 ∧ comparesImm.length = 3 ∧ 16 ≤ (16 : BitVec 6).toNat := by decide +kernel
theorem witness_DivisionsFillTheirRegister : clearAll (small 0) [{ sr := [1, 2], sw := [0] }, { sr := [0, 63], sw := [63] }] = true ∧
    (small 0).now.status = .ready ∧ divides.length = 4 := by decide +kernel

/-- A task with 64 registers of 128, of which the lower 16 rotate, and index bases that wrap. -/
def turning (t : Task) : Task := { t with vn := 64, rotSize := 16, rotBase := 5, ib0 := 20, ib1 := 60 }

theorem witness_FloatOpsWriteActiveElements :
    clearAll (small 2) [{ ports := 2, vr := [0, 127], vw := [127] }, { ports := 2, vr := [3, 3], vw := [3] }] = true ∧
    clearAll (small 2 turning) [{ ports := 2, vr := [named (turning {}) 127 20 1, named (turning {}) 63 60 0], vw := [63] }] = true ∧
    floatLanes.length = 5 ∧ floatElems.length = 5 := by decide +kernel
theorem witness_FusedMultiplyAddReadsDestination : clearAll (small 2) [{ ports := 3, vr := [1, 2, 127], vw := [127] }] = true := by decide +kernel
theorem witness_VectorComparesWriteActiveBits : clearAll (small 2) [{ ports := 2, vr := [0, 127], pw := [0] }, { ports := 2, vr := [5, 5], pw := [15] }] = true := by
  decide +kernel
theorem witness_UnaryOpsAndConversions : clearAll (small 2) [{ ports := 1, vr := [0], vw := [127] }] = true ∧ unaryLanes.length = 18 ∧
    unaryElems.length = 4 := by decide +kernel
theorem witness_IntegerLaneOps : clearAll (small 2) [{ ports := 2, vr := [127, 0], vw := [0] }] = true ∧ intLanes.length = 13 := by decide +kernel
theorem witness_LaneMoves : clearAll (small 2) [{ ports := 1, vr := [127], vw := [0] }, { ports := 2, vr := [0, 127], vw := [127] },
    { ports := 1, sr := [63], vw := [127] }] = true ∧ (1 : BitVec 7) ≠ 0 := by decide +kernel
theorem witness_ReductionsFollowFixedTree : clearAll (small 2) [{ ports := 1, vr := [127], vw := [0] }] = true ∧ reduceLanes.length = 6 := by decide +kernel
theorem witness_PlanesPackAndUnpack : 2 ≤ (2 : BitVec 4).toNat ∧ (8 : BitVec 4).toNat ≤ 8 ∧
    clearAll (small 2) [{ ports := 1, vr := [0], vw := [127] }] = true := by decide +kernel
theorem witness_PredicateLogicAndCounts : clearAll (small 2) [{ pw := [0] }, { pw := [15] }, { vw := [127] }] = true ∧ predOps2.length = 4 ∧
    predOps1.length = 2 ∧ predOps0.length = 2 := by decide +kernel

/-- Two loop levels open, the inner one a LOOPR whose body ends at word 1. -/
def looping (t : Task) : Task :=
  { t with loops := [{ first := 1, last := 9, lc := 4, li := 1, s := 1, mask := 0, rot := false },
                     { first := 1, last := 1, lc := 2, li := 0, s := 8, mask := 1, rot := true }] }

theorem witness_SpecialRegisterReads : clearAll (small 0) [{ sw := [0] }, { sw := [63] }] = true ∧ readable.length = 15 ∧
    (small 0 fun t => { t with handler := true }).clear { sw := [5] } = true ∧ (small 0 fun t => { t with handler := true }).now.handler = true := by
  decide +kernel
/-- A level below LDEPTH may be written; the highest number of the levels in use. -/
theorem witness_SpecialRegisterWrites :
    clearAll (small 0) [{ sr := [63], xw := [4] }, { sr := [1], xw := [5] }, { sr := [1], xw := [0x20] }, { sr := [1], xw := [0x21] }, { sr := [1], xw := [0x30] }] = true ∧
    clearAll (small 0 (fun t => looping { t with pc := 5 }) id fun s => { s with bun := { s.bun with pc := 5 } })
      [{ sr := [1], xw := [0x10] }, { sr := [1], xw := [0x11] }, { sr := [1], xw := [0x18] }, { sr := [1], xw := [0x19] }] = true := by decide +kernel
theorem witness_IndexBasesAreSeenTwoBundlesLater : clearAll (small 0) [{ sr := [63], ib := [0] }, { sr := [1], ib := [1] }] = true := by decide +kernel
/-- 96 is legal, 33 is not; four tasks of 128 registers leave none free. -/
theorem witness_AllotmentRequests :
    let full := small 0 (fun t => { t with vn := 32 }) (fun k => { k with tasks := [1, 2, 3, 4, 5] }) fun s =>
      { s with tasks := s.tasks ++ [2, 3, 4, 5].map fun i => (i, { tid := i, vn := if i = 2 then 96 else 128 }) }
    clearAll (small 0) [{ sr := [1], sw := [2], allot := true }] = true ∧ full.clear { sr := [1], sw := [2], allot := true } = true ∧
    512 - ((full.core 0).tasks.map fun x => (full.task x).vn).sum < 64 - full.now.vn ∧
    (∀ r < 128, 96 ≤ r → (small 0).now.isEmpty (.v r) = false) := by decide +kernel

/-- Memory with a packet of two bundles at the pinned page: headers at words 1 and 3. -/
def twoBundles (s : State) : State := { s with mem := memPutBytes s.mem 0x10000 (natLe 4 0xA0000005 ++ natLe 4 1 ++ natLe 4 0 ++ natLe 4 1 ++ natLe 4 0) }

theorem witness_TakenTransfersReachTarget :
    let s := small 0 (withS [(5, 3)]) id twoBundles
    on s.now 0 = true ∧ reaches s 2 = 3 ∧ s.able { target := some (reaches s 2) } = true ∧ s.able { sw := [63], target := some (reaches s 2) } = true ∧
    s.able { sr := [5], target := some (s.now.rs 5).toNat } = true ∧ s.able { sr := [5], sw := [63], target := some (s.now.rs 5).toNat } = true := by decide +kernel
theorem witness_UntakenTransfersGoOn : on (small 0).now 5 = false ∧ clearAll (small 0) [{}, { sw := [63] }, { sr := [63] }, { sr := [5], sw := [63] }] = true ∧
    (let s := small 0 looping id fun s => { s with bun := { s.bun with pc := 5 } }
     s.now.loops ≠ [] ∧ s.clear {} = true) := by decide +kernel
theorem witness_LoopsOpenOneLevel : let s := small 0 (withS [(5, 3)]) id twoBundles
    s.able { sr := [5] } = true ∧ s.now.loops.length < 6 ∧ (s.now.rs 5).toNat % 2 ^ 32 ≠ 0 ∧ (s.now.rs 6).toNat % 2 ^ 32 = 0 ∧
    (match s.fetch s.now 3 with | .ok ws => isHeader ws 3 | .error _ => false) = true ∧
    (∀ l ∈ ({ s.now with loops := [{ first := 1, last := 4, lc := 1, li := 0, s := 1, mask := 0, rot := false }] } : Task).loops, 3 < l.last) := by decide +kernel
theorem witness_LoopsCloseOneLevel : let s := small 0 looping id twoBundles
    s.able {} = true ∧ (s.now.loops.getLast?.any fun l => l.last == s.bun.pc && l.rot && reaches s 0 == l.first) = true ∧
    on s.now 0 = true ∧ s.now.loops ≠ [] ∧ s.able { target := some (reaches s 2) } = true := by decide +kernel
theorem witness_BundleEndings : (small 0).able { sr := [4] } = true ∧ (small 0).straight = true ∧ (small 0).admits {} = true ∧
    (small 0).holdClears 1 .ended = true ∧ (small 7).admits {} = true ∧
    (∀ r ≤ 2, let s := small 0 fun t => { withS [(1, r)] t with subject := 9 }
      s.admits { sr := if s.now.rs 1 = 2 then [1, 2] else [1] } = true ∧ s.privileged s.now = true ∧ s.now.subject ≠ 0 ∧ (s.now.rs 1).toNat ≤ 2) := by decide +kernel

/-! #### Memory -/

/-- The LS slot of task 1, s2 an address, s3 a stride or length, and v3 the indices 60, 56, ..., 0. -/
def ls (a : Nat) (h : State → State := id) : State :=
  small 5 (fun t => (withS [(2, a), (3, 12), (4, 0x1234)] t).putV 3 (fromLanes fun i => BitVec.ofNat 32 (4 * (15 - i)))) id h

/-- Two read ports for a VSCT, one of them borrowed from MX (02 R46). -/
def scatter (s : State) : State := { s with bun := { s.bun with hdr := 2 ^ 5 + 2 ^ 15 + 2 ^ 14 } }

/-- Scratchpad bytes of another core that the region may reach. -/
def far : Nat := spadAddr 1 0x100

/-- The region's banks of core 1 too. -/
def twoCores (s : State) : State := { s with banks := (List.range 32).map fun b => (b, 1) }

/-- No global address among these misses. -/
def mapped (s : State) (as : List Nat) : Bool := as.all fun a => match globalOf a with | some va => !s.misses s.now va | none => true

theorem witness_OwnLoadsAreUsableFromSix : (loadForms (ls pad).now 4 2 3 3 3 2 1).all (fun f => (ls pad).clear f.shape && (ls pad).now.lsq == [] &&
    f.addrs.all fun a => decide (placeN a f.size = some (.spad 0 (a - spadAddr 0 0))) && a % f.align == 0 &&
      (ls pad).reachN (ls pad).now.rkey 0 (a - spadAddr 0 0) f.size) = true := by decide +kernel
theorem witness_OwnStoresWriteTheirBytes : (storeForms (ls pad).now 4 2 3 3 3 2 1).all (fun f =>
    let s := if f.shape.vsct then scatter (ls pad) else ls pad
    s.clear f.shape && s.now.run == 0 && f.addrs.all fun a => decide (placeN a f.size = some (.spad 0 (a - spadAddr 0 0))) && a % f.align == 0 &&
      s.reachN s.now.rkey 0 (a - spadAddr 0 0) f.size && s.holdClears 1 (.rows a (a + f.size))) = true := by decide +kernel
theorem witness_OtherAccessesJoinTheQueue : let s := ls far twoCores
    ((loadForms s.now 4 2 3 3 3 2 1).all fun f => s.ready f.shape && mapped s f.addrs && (f.addrs.all fun a => (s.daccess s.now a f.size f.align 1).toOption.isSome) &&
      f.addrs.any fun a => !s.now.own a f.size) = true ∧ s.holdClears 1 .lsRoom = true ∧
    ((storeForms s.now 4 2 3 3 3 2 1).all fun f => (if f.shape.vsct then scatter s else s).ready f.shape && s.now.run == 0 &&
      (f.addrs.all fun a => (s.daccess s.now a f.size f.align 2).toOption.any fun l => s.holdClears 1 (.rows l (l + f.size))) && mapped s f.addrs &&
      f.addrs.any fun a => !s.now.own a f.size) = true ∧
    ((loadForms (ls 0x1000000).now 4 2 3 3 3 2 1).all fun f => (ls 0x1000000).ready f.shape &&
      f.addrs.head?.any fun a => (ls 0x1000000).dcheck (ls 0x1000000).now a f.size f.align == none &&
        (globalOf a).any fun va => (ls 0x1000000).misses (ls 0x1000000).now va) = true := by decide +kernel
/-- An address that is no address; a misaligned one; a bank that is not the region's; each as the first lane of a load and of a store. -/
theorem witness_AccessChecksInOrder : placeN 0xC600000000000000 8 = none ∧ placeN (pad + 1) 8 ≠ none ∧ (pad + 1) % 8 ≠ 0 ∧
    placeN far 8 = some (.spad 1 0x100) ∧ (ls far).reachN (ls far).now.rkey 1 0x100 8 = false ∧
    (loadForms (ls (pad + 1)).now 4 2 3 3 3 2 1).all (fun f => (ls (pad + 1)).ready f.shape &&
      f.addrs.head?.any fun a => ((ls (pad + 1)).daccess (ls (pad + 1)).now a f.size f.align 1).toOption.isNone) = true ∧
    ((loadForms (ls (pad + 1)).now 4 2 3 3 3 2 1).all fun f => mapped (ls (pad + 1)) f.addrs) = true ∧
    ((storeForms (ls (pad + 1)).now 4 2 3 3 3 2 1).all fun f => mapped (ls (pad + 1)) f.addrs) = true ∧
    (storeForms (ls (pad + 1)).now 4 2 3 3 3 2 1).all (fun f => (if f.shape.vsct then scatter (ls (pad + 1)) else ls (pad + 1)).ready f.shape &&
      f.addrs.head?.any fun a => ((ls (pad + 1)).daccess (ls (pad + 1)).now a f.size f.align 2).toOption.isNone) = true := by decide +kernel
/-- The last double word of the window, its last row, and the double word after it. -/
theorem witness_NicheFillsAndSpills : effective ((ls 0).now.rs 0) 1023 8 = 8184 ∧ 8184 % 8 = 0 ∧ 8184 + 8 ≤ 1024 * (ls 0).now.nicheKiB ∧
    clearAll (ls 0) [{ sr := [0], sw := [63] }, { sr := [0, 63] }, { sr := [0], vw := [127] }, { ports := 1, sr := [0], vr := [127] }] = true ∧
    effective ((ls 0).now.rs 0) 127 64 + 64 ≤ 1024 * (ls 0).now.nicheKiB ∧
    (ls 8184).ready { sr := [2], sw := [5] } = true ∧ 1024 * (ls 8184).now.nicheKiB < effective ((ls 8184).now.rs 2) 1 8 + 8 := by decide +kernel

/-- An alcove of task 1, bound to handle 9. -/
def withAlcove (st kind : Nat) : State :=
  small 5 (fun t => { withS [(2, pad), (3, 4096)] t with handles := [(9, 4)] }) fun k => { k with alcoves := [(4, { st := st, kind := kind, tid := 1, handle := 9 })] }

theorem witness_AlcoveHandles : (small 5).ready { sw := [63] } = true ∧ tabFind (small 5).now.handles 15 = none ∧ (small 5).now.handles.length < 8 ∧
    ((small 5).core 0).alcove 0 = {} ∧ tabFind (small 5).algr 0 = some (small 5).now.rkey ∧
    (let s := small 5 id id fun s => { s with algr := [] }
     s.clear { sw := [63] } = true ∧ ∀ c < 32, ¬ (((s.core 0).alcove c).st = 0 ∧ tabFind s.algr (s.now.core * 32 + c) = some s.now.rkey)) ∧
    (∀ st ∈ [1, 4], let s := withAlcove st 1
      s.ready {} = true ∧ tabFind s.now.handles 9 = some 4 ∧ ((s.core 0).alcove 4).st = st ∧ s.ready { sr := [2, 3] } = true ∧
      placeN pad 4096 = some (.spad 0 0x100) ∧ pad % 64 = 0 ∧ s.reachN s.now.rkey 0 0x100 4096 = true ∧ (s.now.rs 3).toNat = 4096) ∧
    ((withAlcove 3 0).core 0).alcove 4 ≠ {} ∧ (withAlcove 3 0).ready {} = true := by decide +kernel
theorem witness_ScaleWordsAndBankFormats : (ls pad).clear { sr := [2] } = true ∧ placeN pad 256 = some (.spad 0 0x100) ∧
    (ls pad).reachN (ls pad).now.rkey 0 0x100 256 = true ∧ ((ls pad).core 0).scq.length + 128 ≤ 512 ∧
    (let s := small 5 (withS [(3, 0x89)])
     s.ready { sr := [3], sw := [5] } = true ∧ s.reach s.now.rkey s.now.core 15 = true ∧ fmtValid (s.now.rs 3).toNat = true) := by decide +kernel
theorem witness_AtomicsJoinTheQueue : (∀ d : List Nat, d ∈ [[], [4]] → (ls pad).ready { sr := [2, 3] ++ d, sw := [4] } = true) ∧
    (ls pad).now.run = 0 ∧ (ls pad).daccess (ls pad).now pad 8 8 3 = .ok pad ∧ (ls pad).daccess (ls pad).now pad 4 4 3 = .ok pad ∧
    (ls pad).holdClears 1 (.rows pad (pad + 8)) = true ∧ (ls pad).holdClears 1 .lsRoom = true ∧ mapped (ls pad) [pad] = true ∧ atomics.length = 15 := by decide +kernel
theorem witness_AtomicsReadAndWriteInOneStep :
    let a : LsAcc := { kind := .atomic 6 true 8 (2 ^ 64 - 1) 0, tok := 3, parts := [(0x10000, 8)], data := [] }
    let s := small 0 (fun t => { t with lsq := [a], ntok := 3, prods := [{ tok := 3, dsts := [.s 1], wait := .ls }] }) id fun s => { s with arg := { unit := 1 } }
    (s.task 1).lsq = a :: [] ∧ (s.task 1).prods = [{ tok := (s.task 1).ntok, dsts := [.s 1], wait := .ls }] ∧ s.calm = true ∧
      s.badAt 0x10000 8 = false ∧ s.hostHeld 0x10000 8 = [] := by decide +kernel

/-- A store of task 1 still to be performed. -/
def storing (t : Task) : Task := { t with lsq := [{ kind := .store, tok := 0, parts := [(0x20000, 8)], data := natLe 8 5 }] }

theorem witness_FencesWaitThenGoOn : (small 5).clear {} = true ∧ (small 5).now.storesPending = false ∧ (small 5).now.hostPend = 0 ∧
    (small 5).classesDone 1 63 = true ∧ (small 5 storing).ready {} = true ∧ (small 5 storing).now.storesPending = true ∧
    (small 5 storing).classesDone 1 1 = false := by decide +kernel

/-! #### The matrix slot -/

/-- Mode words: F16 by F16 into F32; the same with A 8:32 sparse; INT8 by INT8 in the code. -/
def modeF : Nat := 2 * 4 + 2 * 64 + 2 ^ 26
def modeS : Nat := modeF + 2 * 2 ^ 28
def modeI : Nat := 5 * 4 + 5 * 64 + 2 * 2 ^ 10 + 2 * 2 ^ 14 + 2 * 2 ^ 18 + 2 * 2 ^ 22

/-- A group that keeps positions 1, 5, ..., 29, and the bytes of 192 such groups. -/
def group : Nat := ((List.range 8).map fun j => (4 * j + 1) * 2 ^ (5 * j)).sum
def groups : List Byte := (List.replicate 192 (natLe 8 group)).flatten
@[irreducible] def metadata : Memory := memPutBytes [] 0 groups

/-- Tile 3 in a mode, with three full alcoves bound to handles 1, 2 and 9, and 150 scale words. -/
def mx (w : Nat) : State :=
  small 4 (fun t => { withS [(2, spadAddr 0 0x400)] t with handles := [(1, 4), (2, 5), (9, 7)] })
    (fun k => { k with alcoves := [(4, { st := 4, tid := 1, handle := 1 }), (5, { st := 4, kind := 1, tid := 1, handle := 2 }),
                                   (7, { st := 4, kind := 2, tid := 1, handle := 9, data := metadata })]
                       tiles := [(3, { owner := 1, issue := some w, mode := some w })], scq := (List.range 150).map fun i => (1, i) })
    fun s => { s with regions := [(1, { id := 1, flags := 4, dies := 1, maxk := 4096 })] }

theorem witness_MatrixOpsJoinTheQueue : (∀ w ∈ [modeF, modeS, modeI], let s := small 4 (withS [(2, w)])
      s.ready { sr := [2] } = true ∧ s.holdClears 1 (.mqueue 1) = true ∧ holdsTiles s.now (maskTiles 0xFF) = true ∧ modeValid (s.now.rs 2).toNat = true) ∧
    (small 4).ready {} = true ∧ holdsTiles (small 4).now [7] = true ∧ (small 4).privileged (small 4).now = true ∧
    (∀ n ∈ [1, 2], ((mx modeF).imageCheck (mx modeF).now (spadAddr 0 0x400) ((mx modeF).imageLen 0 3) n).toOption.isSome = true) ∧
    ((mx modeF).imageCheck (mx modeF).now (spadAddr 0 0x400) 64 1).toOption = some [(spadAddr 0 0x400, 64)] ∧
    (mx modeF).imageAt [(spadAddr 0 0x400, 64)] = 64 ∧
    ∀ a ∈ spadAddr 0 0x400 :: (pagesOf (spadAddr 0 0x400) 64 ++ pagesOf (spadAddr 0 0x400) ((mx modeF).imageLen 0 3)), globalOf a = none := by decide +kernel

/-- Bytes put from 0 upwards read back. -/
theorem memBytes_list (l : List Byte) : ∀ n a, a + n ≤ l.length → memBytes (memPutBytes [] 0 l) a n = (l.drop a).take n
  | 0, _, _ => by simp [memBytes]
  | n + 1, a, h => by
    have ha : a < l.length := by omega
    have h1 := memByte_memPutBytes_in [] 0 a l ha
    rw [Nat.zero_add] at h1
    rw [memBytes, h1, memBytes_list l n (a + 1) (by omega), List.drop_eq_getElem_cons ha, List.take_succ_cons]

theorem metadata_ok : metaAllOk modeS metadata = true := by
  have hb : ∀ q < 192, leNat ((groups.drop (8 * q)).take 8) = group := by decide +kernel
  have hl : groups.length = 1536 := by decide +kernel
  have hn : mN modeS = 8 := by decide
  have hg : metaOk 8 group = true := by decide
  simp only [metaAllOk, List.all_eq_true, List.mem_range]
  intro m hm g hg'
  rw [hn] at hg' ⊢
  have : metaBits modeS metadata m g = group := by
    rw [← hb (m * 4 + g) (by omega)]
    unfold metaBits memNat metadata
    rw [hn]
    show leNat (memBytes (memPutBytes [] 0 groups) (8 * (m * 4 + g)) 8) = _
    rw [memBytes_list groups 8 _ (by omega)]
  rw [this]
  exact hg

theorem metadata_of (w : Nat) : (((mx w).core (mx w).now.core).alcove 7).data = metadata := rfl

/-- The K-step of a mode may go. -/
theorem stepOk_of (w : Nat) (hm : Option Nat) (h : w ∈ [modeF, modeI] ∧ hm = none ∨ w = modeS ∧ hm = some 7) (z : BitVec 1) :
    StepOk (mx w) 3 z w hm ((((mx w).core 0).scq.filter fun x => x.1 = 1).map Prod.snd |>.take (mWords w)) := by
  rcases h with ⟨h, rfl⟩ | ⟨rfl, rfl⟩
  · simp only [List.mem_cons, List.not_mem_nil, or_false] at h
    rcases h with rfl | rfl
    all_goals
      exact ⟨by decide +kernel, by decide +kernel, by decide +kernel, fun _ h => by simp at h, by decide +kernel, by decide +kernel, by decide +kernel,
        by revert z; decide +kernel, by decide +kernel⟩
  · exact ⟨by decide +kernel, by decide +kernel, by decide +kernel, fun m h => by cases h; rw [metadata_of]; exact metadata_ok, by decide +kernel, by decide +kernel,
      by decide +kernel, by revert z; decide +kernel, by decide +kernel⟩

theorem witness_MatrixStepsJoinTheQueue : (∀ w ∈ [modeF, modeI], (mx w).ready {} = true ∧ holdsTiles (mx w).now [3] = true ∧
      ((mx w).core 0).loading 3 = false ∧ fullOf (mx w) 1 0 4 ∧ fullOf (mx w) 2 1 5 ∧
      ∃ words, StepOk (mx w) 3 0 w none words) ∧
    ((mx modeS).ready {} = true ∧ fullOf (mx modeS) 9 2 7 ∧ ∃ words, StepOk (mx modeS) 3 1 modeS (some 7) words) ∧
    (let s := small 4 id fun k => { k with mq := (List.range 32).map fun i => { id := i, tid := 2, op := .mzero 0 } }
     s.ready {} = true ∧ holdsTiles s.now [0] = true ∧ (s.core 0).mq.length = 32) := by
  refine ⟨fun w h => ⟨?_, ?_, ?_, ?_, ?_, _, stepOk_of w none (Or.inl ⟨h, rfl⟩) 0⟩, ⟨by decide +kernel, by unfold fullOf; decide +kernel, _, stepOk_of modeS (some 7) (Or.inr ⟨rfl, rfl⟩) 1⟩, by decide +kernel⟩ <;>
  · simp only [List.mem_cons, List.not_mem_nil, or_false] at h
    rcases h with rfl | rfl <;> (try unfold fullOf) <;> decide +kernel

theorem witness_RetirementsEmptyTheirRegisters : let s := mx modeF
    s.ready { sr := [2], sw := [5] } = true ∧ holdsTiles s.now [3] = true ∧ (s.core 0).loading 3 = false ∧ issueMode s 3 = some modeF ∧
    fmtFor (mAcc modeF) 2 = true ∧ s.holdClears 1 (.mqueue 1) = true ∧ mRows modeF = 48 ∧
    s.ready { sw := [5], vw := (List.range (mRows modeF)).map fun n => n + 63 } = true ∧ s.clear {} = true ∧ ∀ e ∈ (s.core 0).mq, e.tid ≠ 1 := by decide +kernel
theorem witness_ResidueConversions : clearAll (mx modeI) [{ ports := 1, vr := [127], vw := [0] }, { vw := [127] }] = true ∧ holdsTiles (mx modeI).now [3] = true ∧
    ((mx modeI).core 0).loading 3 = false ∧ issueMode (mx modeI) 3 = some modeI ∧ mAcc modeI = 0 ∧ (47 : BitVec 6).toNat < 48 ∧
    (mx modeI).holdClears 1 (.tile 3) = true := by decide +kernel
/-- Both ends of each lane's half-range, a changed channel, and a second one. -/
theorem witness_ResidueCodeCorrectsOneChannel : ∀ l < 4, (half l : Int).natAbs ≤ half l ∧ (-(half l : Int)).natAbs ≤ half l ∧
    (laneChans l).any (fun i => decide (0 < Config.modulus i ∧ 0 ≠ residue (half l) i)) = true ∧ 2 ≤ (laneChans l).length := by decide +kernel

/-- A matrix queue with one entry. -/
def queued (op : MxOp) (phase : Nat := 0) (k : Machine.Core) : Machine.Core := { k with mq := [{ id := 0, tid := 1, op := op, phase := phase }], mid := 1 }

theorem witness_ArrayEntriesExecute : (small 0).calm = true ∧
    ((small 0 id (queued (.mset 0x81 modeF))).mxNext 0 MxOp.isMset).map MxEnt.op = some (.mset 0x81 modeF) ∧
    ((small 0 id (queued (.mzero 7))).mxNext 0 MxOp.isMzero).map MxEnt.op = some (.mzero 7) ∧
    ((small 0 id (queued (.minj 7 20 255 1))).mxNext 0 MxOp.isMinj).map MxEnt.op = some (.minj 7 20 255 1) ∧
    ((small 0 id (queued (.mma 3 true false 4 5 none []))).mxNext 0 MxOp.isMma).map MxEnt.op = some (.mma 3 true false 4 5 none []) := by decide +kernel

/-! #### The copy and network slots -/

/-- A value that each field of CSET takes, at an end of its range, and one that ringn does not take. -/
theorem witness_ChannelFieldsAreWritten : let s := small 6
    s.ready { sr := [2] } = true ∧ s.now.qmask.testBit 3 = true ∧
    ((0xF3 : Nat) < 256 ∧ (0xF3 : Nat).testBit 3 = false ∧ 0xF3 % 8 ≤ 3) ∧ (pad % 16 = 0 ∧ s.now.own pad 16 = true) ∧
    ((2 ^ 22 - 1 : Nat) < 2 ^ 22 ∧ (2 ^ 22 - 1) % 2 ^ 16 ≠ 0) ∧ (0x87 / 8 ≤ 16 ∧ s.now.cmask.testBit (0x87 % 8) = true) ∧
    (pad % 4 = 0 ∧ s.now.own pad 4 = true) ∧ followOk 0x0C000000 = true ∧ s.now.cmask.testBit (followTile 0x0C000000) = true ∧
    10 < ((small 6 (withS [(2, 11)])).now.rs 2).toNat := by decide +kernel

/-- Copy channel 3 of core 0. -/
def chan3 (ch : Chan) (a : Nat := 1) : State :=
  small 6 (fun t => { t with handles := [(9, 7)] }) fun k => { k.putChan 3 ch with alcoves := [(7, { st := a, tid := 1, handle := 9 })] }

theorem witness_CommandsLaunchAndAnswer : (small 6).ready { sr := [2, 3] } = true ∧ (small 6).now.qmask.testBit 3 = true ∧
    (((small 6).core 0).chan 3).cmd = none ∧ (((small 6).core 0).chan 3).field 7 = 0 ∧
    (∀ st ∈ [1, 4], let s := chan3 { fields := [(7, 25)] } st
      s.ready { sr := [2, 3] } = true ∧ ((s.core 0).chan 3).cmd = none ∧ ((((s.core 0).chan 3).field 7).testBit 4) = true ∧
      tabFind s.now.handles (((s.core 0).chan 3).field 7 % 16) = some 7 ∧ ((s.core 0).alcove 7).st = st) ∧
    (let s := chan3 { cmd := some {} }
     s.ready { sr := [2, 3] } = true ∧ ((s.core 0).chan 3).cmd ≠ none ∧ s.ready { sr := [2], sw := [63] } = true) ∧
    ((((chan3 { fields := [(1, pad)] }).core 0).chan 3).field 1 ≠ 0) ∧ (small 6).ready { sw := [63] } = true ∧ (small 6).admits { sr := [2] } = true := by decide +kernel
theorem witness_BarrierSlots : let s := small 7 (withS [(1, 1), (2, 65535), (3, 0), (4, 65536)])
    s.ready {} = true ∧ s.ready { sr := [2] } = true ∧ s.ready { sr := [2], sw := [63] } = true ∧ s.now.storesPending = false ∧
    s.barGranted (clusterOf s.now.core) 31 s.now.rkey = true ∧ (s.now.rs 1).toNat = 1 ∧ (s.now.rs 2).toNat < 2 ^ 16 ∧ (s.now.rs 3).toNat = 0 ∧
    2 ^ 16 ≤ (s.now.rs 4).toNat ∧ (small 7 id id fun s => { s with bargr := [] }).barGranted 0 31 1 = false := by decide +kernel

/-- A task record of region 1: entry 0x1001, no join counter. -/
def record : List Byte := natLe 8 0x1001 ++ natLe 8 0 ++ natLe 2 1 ++ natLe 46 0

theorem witness_TaskSlots : let s := small 7 (withS [(2, pad), (3, 7)]) id fun s => { s with mem := memPutBytes [] pad record }
    s.ready { sr := [2] } = true ∧ s.now.run = 0 ∧ s.now.lsq = [] ∧ ownOperand s pad 64 64 = true ∧ s.forkOk s.now (memBytes s.mem pad 64) = true ∧
    s.holdClears 1 .forkRoom = true ∧ s.ready { sr := [2], sw := [63] } = true ∧ s.ready { sr := [2, 3], sw := [63] } = true ∧
    s.daccess s.now pad 8 8 1 = .ok pad ∧ mapped s [pad] = true ∧ s.ready { sw := [63] } = true ∧ s.holdClears 1 .event = true := by decide +kernel

/-- Sump 1 with some entries. -/
def sumpState (n : Nat) : State :=
  small 7 (withS [(2, 1), (3, pad), (4, 0x400), (6, 7 * 2 ^ 32 + 2 ^ 12)]) id fun s =>
    { s with sumps := [(1, { st := 1, desc := natLe 256 0, ents := List.replicate n { bytes := natLe 32 0, arr := 0, time := 0 } })] }

theorem witness_SumpSlots : (sumpState 1023).ready { sr := [2, 3], sw := [5] } = true ∧ ownOperand (sumpState 1023) pad 32 32 = true ∧ (sumpState 1023).now.storesPending = false ∧ sumpIdOk 1 = true ∧
    (sumpState 1023).sumpUsable 1 1 = true ∧ (sumpState 1023).sumpRoom 1 = true ∧ (sumpState 1024).sumpRoom 1 = false ∧
    ((sumpRequests (sumpState 1) 5 2).all fun r => (sumpState 1).admits r.2.1 && r.2.2.1) = true ∧
    (sumpState 1).holdClears 1 (.enqueued 1) = true ∧ (sumpState 1).privileged (sumpState 1).now = true ∧
    placeN 0x400 256 = some (.global 0x400) ∧
    ((sumpState 1).lsParts (sumpState 1).now 1 64 64 ((List.range 4).map fun i => 0x400 + 64 * i)).toOption.isSome = true ∧
    (sumpState 1).clear { sr := [2], sw := [5] } = true ∧ ((sumpState 1).now.rs 6).toNat < 2 ^ 48 ∧
    placeN 0x400 (2 ^ 12) = some (.global 0x400) ∧ (sumpState 1).ready { sr := [4, 6] } = true := by decide +kernel

/-- Tree 9 in a state, of a region, with core 0 of this package its one member. -/
def treeState (st region : Nat) : State :=
  small 7 (withS [(2, 9), (3, pad)]) id fun s => { s with
    regions := s.regions ++ [(2, { id := 2 })]
    trees := [(9, { st := st, region := region, desc := natLe 8 0 ++ natLe 4 256 ++ natLe 244 0,
                    ships := [{ e := 0, root := 0, mems := [0xFFF * 2 ^ 20] }] })] }

/-- Every request is accepted, or refused, in one of three states of its tree. -/
theorem witness_TreeSlots :
    ((List.range 11).all fun i => [treeState 1 1, treeState 2 1, treeState 1 2].any fun s =>
      ((treeRequests s 5 2 3)[i]?).any fun r => s.admits r.2.1 && r.2.2.1) = true ∧
    (let s := treeState 1 1
     s.ready { sr := [2, 3] } = true ∧ s.treeUsable 1 9 = true ∧ ownOperand s pad (s.tree 9).segsize 64 = true ∧
     s.postOk (s.tree 9) 0 0 0 = true ∧ s.holdClears 1 (.window 9 0) = true ∧ s.clear { sr := [2], sw := [5] } = true) := by decide +kernel

/-- A slot table of one slot that groups packages 1 and 5. -/
def table : List Byte :=
  natLe 4 0x60001 ++ natLe 60 1 ++ natLe 4 5000 ++ natLe 4 0 ++ natLe 1 2 ++ natLe 55 0 ++ natLe 64 (2 ^ 31 + 5 * 2 ^ 16 + 3 * 2 ^ 10) ++
  natLe 4 (2 ^ 16) ++ natLe 4 (5 * 2 ^ 16 + 1) ++ natLe 248 0

/-- Package 1, locked, in that slot, whose partition 0 may reach package 5. -/
def fabric (rs : List (Nat × Nat)) (h : State → State := id) : State :=
  small 7 (withS rs) id fun s => h { s with
    boot := { s.boot with stage := 3 }
    parts := s.parts.map fun (x : Nat × Part) => (x.1, { x.2 with peers := [(5, (0, 7))] })
    fab := { s.fab with pkg := 1, locked := true, slot := some 0, table := table } }

theorem witness_FabricSlots : let s := fabric [(2, 0x4000), (3, 5), (4, pad), (6, 5)] fun s => { s with mem := memPutBytes [] pad (natLe 16 0 ++ natLe 4 64 ++ natLe 44 5) }
    s.now.getS 3 = BitVec.ofNat 64 5 ∧ 5 ≠ s.fab.pkg ∧ s.peerFlag s.now.part 5 0 = true ∧ s.grouped 5 = true ∧
    s.ready { sr := [2, 3], vw := [126, 127] } = true ∧ s.ready { ports := 2, sr := [2, 3], vr := [126, 127] } = true ∧
    (placeN 0x4000 128).isSome = true ∧ 0x4000 % 64 = 0 ∧ s.ready { sr := [2, 3, 6, 7], sw := [7] } = true ∧ (placeN 0x4000 8).isSome = true ∧
    s.now.run = 0 ∧ s.ready { sr := [6], sw := [5] } = true ∧ s.holdClears 1 (.remoteDone false 5) = true ∧ s.holdClears 1 (.remoteDone true 0) = true ∧
    ownOperand s pad 64 64 = true ∧ s.sendCode s.now.part (memBytes s.mem pad 64) = 0 ∧ s.holdClears 1 (.sendRoom 5) = true ∧
    clearAll s [{ sr := [6], sw := [5] }, { sw := [5] }] = true := by decide +kernel

/-- XLINV with force waits on no other task here; the variant that answers 2 stands where a region's action table lies in the range. -/
theorem witness_SchedulerAndTranslationRequests :
    let s := small 7 (withS [(2, 0x1000000), (3, 2 ^ 12)])
    let u := small 7 (withS [(2, 0), (3, 2 ^ 12)]) id fun s => { s with regions := [(1, { id := 1, flags := 4, dies := 1, act := natLe 32 0 ++ natLe 8 0x800 ++ natLe 24 64 })] }
    ((regionRequests s 2 3).all fun r => s.admits r.2.1 && r.2.2.1) = true ∧
    ((List.range 5).all fun i => [s, u].any fun x => ((rangeRequests x 5 2 3)[i]?).any fun r => x.admits r.2.1 && r.2.2.1) = true ∧
    (let w := small 7 (fun t => storing t)
     ((regionRequests w 2 3).all fun r => w.admits r.2.1) = true ∧ w.privileged w.now = true ∧ w.now.storesPending = true) := by decide +kernel
theorem witness_PrivilegeTrapsAtStageFour :
    let plain (sl : Nat) := small sl id id fun s => { s with regions := [(1, { id := 1, dies := 1 })] }
    ((privilegedForms 5 2 3 1 20 21).all fun f => (plain (if f.1.slotKind = .mx then 4 else 7)).admits f.2) = true ∧
    (∀ sl ∈ [0, 4, 7], (plain sl).privileged (plain sl).now = false) ∧ (plain 0).admits { sr := [1] } = true ∧ (plain 0).now.rs 1 ≠ 2 ∧
    (∀ n ∈ [0x000, 0x047, 0x051], (plain 0).admits { sr := [63], xw := [n] } = true) ∧ (plain 0).admits { sw := [63] } = true ∧
    (plain 0).now.handler = false := by decide +kernel

/-! #### Engine steps: each can happen, in a small state; the number is its place in the list of its statement -/

/-- Small states with operands. -/
def A (a : StepArgs) (f : Task → Task := id) (g : Machine.Core → Machine.Core := id) (h : State → State := id) : State :=
  small 0 f g fun s => h { s with arg := a }
/-- The step at a place of a list can happen in a state. -/
def can (es : State → List (Instr × Option State)) (x : Nat × State) : Bool :=
  match (es x.2)[x.1]? with
  | some (_, some _) => true
  | _ => false
/-- A matrix queue with one entry. -/
def mxe (op : MxOp) (ph : Nat := 0) (k : Machine.Core) : Core := { k with mq := [{ id := 0, tid := 1, op := op, phase := ph }], mid := 1 }
/-- A cycle at which a retirement of 48 rows has had its time. -/
def late (s : State) : State := { s with cycle := 80, cores := s.cores.map fun (x : Nat × Machine.Core) => (x.1, { x.2 with tiles := [(0, { mode := some modeF })] }) }
/-- A task that waits for s5. -/
def pr (w : Wait) (t : Task) : Task := { t with prods := [{ tok := 0, dsts := [.s 5], wait := w }], sEmpty := 32, ntok := 1 }

/-- 01, 05, 06, 11. -/
def coreStates : List (Nat × State) := [
  (0, A {} fun t => { t with idle := 1 }),
  (1, A { sub := 4 } id fun k => { k with alcoves := [(4, { st := 3, tid := 1, handle := 1, rows := 1, src := spadAddr 0 0 })] }),
  (2, A {} id (mxe (.mset 1 0))), (3, A {} id (mxe (.mma 0 false false 0 0 none []) 1)),
  (4, A {} id (mxe (.mlda 0 0x100 []))), (5, late (A {} id (mxe (.msta 0 0x100 [])))), (6, A {} id (mxe (.mchan 1 7))),
  (7, late (A {} id (mxe (.mret 0 0 0 true)))), (7, late (A {} id (mxe (.mretv 0 0 false)))),
  (8, A { unit := 1 } (pr (.ready [7]))),
  (9, { A { unit := 1 } (fun t => { pr (.watch (spadAddr 0 0) 0 999) t with lsq := [{ kind := .await, tok := 0, parts := [], data := [] }] }) with cycle := 999 }),
  (10, A {} fun t => { pr .ls t with held := 64, hold := some (.regs [.s 5]) }),
  (11, A { unit := 1 } fun t => { t with flights := [{ dst := .s 5, due := 3, ord := 0, val := 9, mask := 1, replay := true }], nb := 3 }),
  (12, A { unit := 1 } fun t => { t with lsq := [{ kind := .load false 8, tok := 0, parts := [(0x10000, 8)], data := [] }] }),
  (13, A { addr := 0x200000 } id id fun s => { s with mem := memPutBytes (memPutBytes (memPutBytes (memPutBytes s.mem 0x100000 (natLe 8 0x101001)) 0x101000 (natLe 8 0x102001)) (0x102008) (natLe 8 (0x103001))) 0x103000 (natLe 8 0x10401F) }),
  (14, A {} id id fun s => { s with cycle := 256 }), (15, A {} id id fun s => { s with parts := s.parts.map fun p => (p.1, { p.2 with raise := 17 }) }),
  (16, A { unit := 1 } id id fun s => { s with cycle := 256 }),
  (17, A { addr := 0x400 } id id fun s => { s with stamps := [(0x400, 0, 0)] }), (17, A { flag := true }),
  (18, A {} id id fun s => s.putDie 0 { s.die 0 with xprefs := [{ region := 1, cluster := 0, lvl := 0, handle := 0, addr := 0, left := 64 }] })]

/-- A command on channel 2. -/
def chn (c : Cmd) (f : Tab Nat := []) (k : Machine.Core) : Core := k.putChan 2 { cmd := some c, fields := f }
/-- A record read. -/
def img : List Byte := natLe 160 1
/-- Task records. -/
def rec64 (r : Nat := 1) (res : Nat := 0x00) : List Byte := natLe 8 0x1001 ++ natLe 8 0 ++ natLe 2 r ++ natLe 1 res ++ natLe 45 0
/-- The same with where they wait. -/
def rc (r : Nat := 1) (res : Nat := 0) : Rec := { bytes := rec64 r res, addr := 0, clk := 0, part := 0 }
/-- A sump entry. -/
def ent : SumpEnt := { bytes := natLe 32 7, arr := 0, time := 0 }
/-- A sump descriptor of region 1. -/
def sdesc (age : Nat) : List Byte := natLe 4 0 ++ natLe 2 1 ++ natLe 2 0 ++ natLe 2 1 ++ natLe 1 0 ++ natLe 1 1 ++ natLe 4 age ++ natLe 240 0
/-- A saved task. -/
def sav (t : Task) : Task := { t with status := .saved, srec := rec64 }

/-- Die 0 with one cluster; region 2 of priority 3 with a task at the head of its list. -/
def tight (s : State) : State :=
  let s := s.putDie 0 { s.die 0 with dead := (List.range 23).map (· + 1) }
  { s with regions := [(1, { id := 1, flags := 4, dies := 1, spcount := 2, spbase := 0 }), (2, { id := 2, dies := 1, prio := 3, bcores := 1, lhold := some (rc 2) })] }

/-- 07, 08, 09, 10, 11, 13. -/
def dieStates : List (Nat × State) := [
  (0, A { sub := 2 } id (chn {})),
  (1, A { sub := 2 } id (chn { mode := 2, image := img })),
  (2, A { sub := 2 } id (chn { image := img })),
  (3, A { sub := 2 } id (chn { image := img, faulted := true, verdict := 2 })),
  (4, A { sub := 2 } id (chn { image := img, data := true, follow := 2^32 })),
  (5, A { sub := 2 } id (chn { image := img, shown := true, ends := some (1, 0, 0) })),
  (6, A { unit := 1 } fun t => { t with status := .trapped, trec := (List.range 8).map fun i => if i = 2 then 1 else 0 }),
  (7, A { unit := 1 } fun t => { t with status := .replay, trec := (List.range 8).map fun i => if i = 2 then 1 else 0 }),
  (8, A { unit := 1 } (fun t => { t with status := .await, handler := true }) id fun s => { s with regions := s.regions.map fun (g : Nat × Region) => (g.1, { g.2 with handler := 1, traps := [9] }), tasks := s.tasks ++ [(9, { tid := 9, region := 1, status := .forwarded })] }),
  (9, A { unit := 1 }), (10, A { unit := 1 } fun t => { t with preempt := some 9999 }), (11, A { unit := 1 } fun t => { t with preempt := some 999, steps := 1 }),
  (12, A { unit := 1 } (fun t => { t with status := .frozen }) id fun s => { s with regions := s.regions.map fun (g : Nat × Region) => (g.1, { g.2 with spcount := 1, spbase := 0 }) }),
  (12, A { unit := 1 } fun t => { t with status := .frozen, doomed := true }),
  (13, A {} sav (fun k => { k with tasks := [], cur := 0 }) fun s => let s := tight s; { s with regions := [(1, { id := 1, dies := 1, bcores := 1 })] }),
  (14, A {} id (fun k => { k with deque := [rc] }) tight),
  (14, A {} id id tight),
  (15, A {} id (fun k => { k with tasks := [1, 3, 4, 5] }) fun s => let s := tight s
    { s with cycle := 5000000, tasks := s.tasks ++ ([3, 4, 5].map fun (i : Nat) => (i, { tid := i, region := 2 + i % 3 % 2 })), regions := [(1, { id := 1, flags := 4, dies := 1, spcount := 2, prio := 3 }), (2, { id := 2, dies := 1, prio := 3, bcores := 1, lhold := some (rc 2) }), (3, { id := 3, dies := 1, prio := 3 })] }),
  (16, A {} (fun t => { pr (.join 0) t with status := .suspended, hold := some (.regs [.s 5]) }) (fun k => { k with tasks := [1, 3, 4, 5], deque := [rc] }) fun s => let s := tight s
    { s with cycle := 5000000, tasks := s.tasks ++ ([3, 4, 5].map fun (i : Nat) => (i, { tid := i, region := 1 })), regions := [(1, { id := 1, flags := 4, dies := 1, bcores := 1, spcount := 2, prio := 3 })] }),
  (17, A { sub := 1 } id id fun s => { s with regions := s.regions.map fun (g : Nat × Region) => (g.1, { g.2 with tsrc := natLe 32 1 }) }),
  (18, A { unit := 9 } id id fun s => { s with runs := [1,2].map fun r => { twin := 9, run := r, digest := 7, killed := false, region := 1, core := r, join := 0, clk := 0, src := rc } }),
  (19, A {} id id fun s => s.putDie 0 { s.die 0 with waitq := [{ va := 0x5000, access := 1, cause := 0, waiters := 1, part := 0, reqs := [.task 1] }] }),
  (20, A { sub := 3 } id id fun s => { s.putDie 0 { s.die 0 with slots := [(3, { va := 0x5000, access := 1, cause := 0, waiters := 1, part := 0, reqs := [.task 1] })] } with parts := s.parts.map fun (p : Nat × Part) => (p.1, { p.2 with fqbase := 0 }), mem := memPutBytes s.mem (0x10000 + 96 + 20) [1] }),
  (21, A {} id id fun s => s.putDie 0 { s.die 0 with enq := [{ sump := 1, tid := 1, tok := 0, bytes := natLe 32 0, clk := 0 }] }),
  (22, A { unit := 1 } id id fun s => { s with ns := 500, sumps := [(1, { st := 1, desc := sdesc 400, ents := [ent] })] }),
  (23, A {} id id fun s => { s with ns := 500, sumps := [(1, { st := 1, desc := sdesc 0, ents := [ent], due := true })] }),
  (24, A {} id id fun s => { s with boot := { s.boot with stage := 3 } }),
  (25, A { sub := 5 } id id fun s => { s with boot := { s.boot with stage := 3 } })]

/-- Tree 9 of core 0. -/
def tr (a : StepArgs) (f : Tree → Tree) : State := A a id id fun s => { s with refills := [(9, 65536)], trees := [(9, f { st := 1, region := 1, desc := natLe 4 2 ++ natLe 4 1 ++ natLe 4 256 ++ natLe 2 0 ++ natLe 2 4 ++ natLe 240 0, ships := [{ e := 0, root := 0, mems := [0xFFF * 2^20] }] })], parts := s.parts.map fun (p : Nat × Part) => (p.1, { p.2 with peers := [(5, (0, 7))] }) }
/-- A chunk. -/
def ck (at_ : Nat) (from_ : Nat := 0) : Chunk := { at_ := at_, from_ := from_, seg := 0, chunk := 0, mask := 1, data := natLe 256 0 }

/-- 12. -/
def treeStates : List (Nat × State) := [
  (0, tr { addr := 9 } fun t => { t with posts := [{ mem := 0, seg := 0, src := spadAddr 0 0, tid := 1, clk := 0 }] }),
  (1, tr { addr := 9 } fun t => { t with up := [ck 65536] }), (1, tr { addr := 9, unit := 5, flag := true } id),
  (2, tr { addr := 9, num := 65536 } fun t => { t with up := [{ ck 65536 with held := true }], slots := [(65536, false)] }),
  (3, tr { addr := 9 } fun t => { t with down := [ck 65536] }), (3, tr { addr := 9, unit := 5, flag := true } id),
  (4, tr { addr := 9 } fun t => { t with delivs := [{ core := 0, seg := 0, chunk := 0, data := natLe 256 0, clk := 0 }] }),
  (4, tr { addr := 9, unit := 5, flag := true } id), (5, tr { addr := 9 } fun t => { t with bufs := [ck 65536] }),
  (5, tr { addr := 9, unit := 5, flag := true } id), (5, tr { addr := 9, sub := 65536, aux := 1, flag := true } fun t => { t with slots := [(65536, true)] })]

/-- A slot table with a port of this package. -/
def tab : List Byte := natLe 4 0x60001 ++ natLe 1 1 ++ natLe 59 0 ++ natLe 4 5000 ++ natLe 2 0 ++ natLe 2 0 ++ natLe 1 2 ++ natLe 55 0 ++
  natLe 4 (2^31 + 5 * 2^16 + 3 * 2^10) ++ natLe 60 0 ++ natLe 4 (1 * 2^16) ++ natLe 4 (5*2^16+1) ++ natLe 248 0
/-- Package 1 in its slot. -/
def fb (a : StepArgs) (p : Port → Port := id) (h : State → State := id) : State := A a id id fun s => h { s with
  boot := { s.boot with stage := 3 }, parts := s.parts.map (fun (x : Nat × Part) => (x.1, { x.2 with peers := [(5, (0, 7))] })), ports := [(0, p { st := 2, peer := 5 })],
  fab := { s.fab with pkg := 1, locked := true, slot := some 0, table := tab } }
/-- A scheduled send. -/
def snd (f : Send → Send := id) (s : State) : State := { s with sendqs := [(0, { pkg := 5, list := [f { ticket := 0, tid := 1, part := 0, src := 0, dst := 0, len := 64, dnote := none, snote := none }] })] }
/-- A remote operation. -/
def rop (f : ROp → ROp := id) (s : State) : State := { s with rops := [f { tid := 1, tok := 0, kind := 2, pkg := 5, addr := 0 }] }
/-- Wavelength 1. -/
def wv (f : Wave → Wave) (p : Port) : Port := { p with waves := [(1, f {})] }

/-- 14. -/
def fabStates : List (Nat × State) := [
  (0, fb { num := 1, sub := 5, addr := 0x10000 }), (0, fb { num := 2, addr := 64, bytes := natLe 128 0 }), (0, fb { num := 3, aux := 16, addr := 4, bytes := natLe 16 0 }),
  (1, fb { flag := true } id (snd fun x => { x with pos := 64 })), (1, fb { unit := 1 } id (rop fun o => { o with sent := true })),
  (2, fb { flag := true } id fun s => snd id { s with cycle := 80000000, ns := 20000000 }), (2, fb { unit := 1 } id fun s => rop id { s with cycle := 80000000, ns := 20000000 }),
  (3, fb { flag := true } id (snd id)), (3, fb { unit := 1 } id (rop fun o => { o with sent := true })),
  (4, fb {} id (snd id)), (4, fb { flag := true } id fun s => { s with outbox := [{ cls := 0, dst := 5, src := 1, data := natLe 128 0 }] }), (5, fb { bytes := natLe 64 0, addr := 0x10000 }), (6, fb {} id (snd fun x => { x with pos := 64, acked := 64 })),
  (7, fb { bytes := natLe 16 0 }), (8, fb { sub := 3, flag := true }), (9, fb {} id fun s => { s with ns := 1000000 }),
  (10, fb { sub := 1 } (wv fun w => { w with cc := 4096 })), (10, fb { sub := 1 } (wv fun w => { w with st := 3 })),
  (11, fb {} fun p => { p with sw := some (0, 1) }), (12, fb {} (wv fun w => { w with st := 3, ub := 64 })),
  (13, fb { sub := 1 } (wv fun w => { w with st := 1 })), (14, fb { sub := 1 } (wv fun w => { w with st := 2 })), (15, fb {} fun p => { p with hb := some (0, 1) }),
  (16, fb {} id fun s => { s with ns := 5000, fab := { s.fab with synced := true } }), (17, fb {} fun p => { p with st := 1 }), (18, fb {} id fun s => { s with ns := 4960, fab := { s.fab with table := s.fab.table.set 131 0 } }),
  (19, fb {} id fun s => { s with transit := [{ cls := 1, dst := 5, src := 1, data := natLe 16 0 }] }),
  (20, fb { num := 77 }), (21, fb {}), (22, fb { bytes := tab }), (23, fb {} id fun s => { s with fab := { s.fab with pend := tab } }), (24, fb { num := 4094 }), (25, fb { bytes := natLe 256 0 })]

/-- 13 R395-R397: each command taken, refused for a bit it does not name, counted while busy, and answered RESETTING. -/
def cmdStates : List (Nat × State) := (List.range 20).flatMap fun i =>
  [(i, fb { sub := 1 }), (i, fb { num := 2 ^ 55 })] ++ [{}, { busy := true }, { st := 1 }].map fun (q : Part) => (i, fb {} id fun s => { s with parts := [(0, q)] })

/-- 13 R412, R413: the same for RESYNC and RESET, a reset's end, and LAUNCH of a region and of none. -/
def resetStates : List (Nat × State) := (List.range 3).flatMap (fun i =>
  [(i, fb { num := 1 }), (i, fb { num := 2 ^ 55 })] ++ [{ busy := true }, { st := 1 }].map fun (q : Part) => (i, fb {} id fun s => { s with parts := [(0, q)] })) ++
  [(1, fb { sub := 1 } id fun s => { s with parts := [(0, { st := 1, busy := true })] }), (2, fb { num := 7 })]

/-- 11, 13. -/
def hostStates : List (Nat × State) := [
  (0, fb { num := 7 }), (0, fb { sub := 1 } id fun s => { s with boot := { s.boot with busy := some 64 } }), (1, fb { num := 9 * 2 ^ 56 }),
  (1, fb { addr := 8, num := 5 }), (1, fb { unit := 1, addr := 0x20, num := 5 }), (1, fb { unit := 1, num := 9 * 2 ^ 56 }), (2, A { bytes := natLe 100 0 }),
  (3, A { num := 100 } id id fun s => { s with boot := { s.boot with stage := 7 } }), (4, fb { bytes := natLe 64 0 }), (5, fb { num := 63 }), (6, fb { num := 65535 }),
  (7, fb { num := 1000 }), (8, fb { unit := 3 }), (9, fb {}), (10, fb {}), (11, fb { num := 128, aux := 16 }), (12, fb { addr := 5 } id fun s => { s with binv := [(5, 0)] }),
  (13, fb { addr := 0x10000, num := 64 }), (14, fb { addr := 0x10000, bytes := natLe 64 7 }), (14, A { addr := 2^51, bytes := [1] }),
  (15, A { unit := 1 } fun t => { t with hostPend := 1 }), (16, fb { addr := 0x10000 })]

theorem witness_EngineStepsTakeEffect : coreStates.all (can coreEvents) = true ∧ dieStates.all (can dieEvents) = true ∧
    treeStates.all (can treeEvents) = true := by decide +kernel
theorem witness_OutsideStepsTakeEffect : fabStates.all (can fabricEvents) = true ∧ cmdStates.all (can commandEvents) = true ∧
    resetStates.all (can resetEvents) = true ∧ hostStates.all (can hostEvents) = true := by decide +kernel

/-! #### What effects and engine steps change: states that meet the hypotheses -/

/-- Tasks 1 and 9, one after the other on the list; the ninth as given. -/
def two (f : Task → Task) (g : Task → Task := id) (h : State → State := id) : State :=
  small 0 g id fun s => h { s with tasks := s.tasks ++ [(9, f { tid := 9, region := 1 })] }

theorem witness_JoinsAdd : (small 0).engLoc 0 pad 8 3 = some pad ∧ (small 0).badAt pad 8 = false ∧ pad ≠ 0 := by decide +kernel
theorem witness_EndsFreeTheCore : (small 0).tid ≠ 0 ∧ (small 0).now.resident = true ∧ (small 0).holdClears 1 .ended = true ∧ (small 0).goStatus 1 = .ready := by
  decide +kernel
theorem witness_ReturnsDispose : ∀ st ∈ [TStatus.forwarded, .saved], let s := two (fun t => { t with status := st }) fun t => { t with subject := 9 }
    s.tid ≠ 0 ∧ s.now.subject = 9 ∧ 9 ≠ s.tid ∧ (tabFind s.tasks 9).map Task.status = some st := by decide +kernel
/-- No other task; another one, with room for its results and without. -/
theorem witness_YieldsSwitch : let u (s : State) := s.putTask s.tid (s.now.issued s.bun).bump
    let s := two fun t => { t with started := true }
    let f (n : Nat) : Task → Task := fun t => { t with flights := (List.range n).map fun i => { dst := .s 5, due := 9, ord := i, val := 0, mask := 1 } }
    let o (n : Nat) := small 0 (f n) (fun k => { k with tasks := [1, 9] }) fun x => { x with tasks := x.tasks ++ [(9, { tid := 9, region := 1, started := true })] }
    s.straight = true ∧ (s.core 0).cur = 1 ∧ (u s).choose 0 1 = none ∧ (o 0).straight = true ∧ (u (o 0)).choose 0 1 = some 9 ∧
    (u (o 0)).replayFits 0 = true ∧ (u (o 65)).choose 0 1 = some 9 ∧ (u (o 65)).replayFits 0 = false := by decide +kernel
theorem witness_CancelsEnd : ∀ b ∈ [false, true], let s := small 0 id fun k => k.putChan 2 { cmd := some { handle := 5, data := b } }
    (s.task 1).qmask.testBit 2 = true ∧ (((s.core 0).chan 2).cmd.any fun c => c.handle == 5 && c.ends.isNone && !c.multicast && c.data == b) = true ∧
    ((List.range 4).all fun r => r == 2 || ((s.core 0).chan r).cmd.isNone) = true := by decide +kernel
theorem witness_PhasesWake : (tabFind (small 0 (pr (.barw 3 0))).tasks 1).map Task.prods = some [{ tok := 0, dsts := [.s 5], wait := .barw (0 * 32 + 3) 0 }] := by
  decide +kernel
theorem witness_ForksPush : ((small 0).core 0).deque.length < 16 ∧ (∃ r y, ((small 0 id fun k => { k with deque := List.replicate 16 rc }).core 0).deque = r ++ [y]) ∧
    16 ≤ ((small 0 id fun k => { k with deque := List.replicate 16 rc }).core 0).deque.length :=
  ⟨by decide +kernel, ⟨List.replicate 15 rc, rc, by decide +kernel⟩, by decide +kernel⟩
theorem witness_NextsDraw : let s := small 7 id id fun s => { s with regions := s.regions.map fun g => (g.1, { g.2 with returns := [(0, [5, 6])] }) }
    s.waitingNexts 0 1 = [] ∧ tabGet (s.region 1).returns [] 0 = [5, 6] := by decide +kernel
theorem witness_EventsPost : (natLe 32 0).length = 32 ∧ ({} : Part).events ≠ 2 ^ ({} : Part).evqlen ∧
    ({ evqlen := 6, evqhead := 64 } : Part).events = 2 ^ 6 := by decide +kernel
/-- A sump of the region and one that is not; each state, with entries and without, with refill slots and without. -/
theorem witness_SumpsFollow : (small 0).sumpBelow 1 1 = true ∧ (small 0).sumpBelow 1 2 = false ∧
    ∀ st < 3, ∀ x ∈ [({ st := st } : Sump), { st := st, slots := [0] }, { st := st, ents := [] ++ [ent] }],
      ((small 0 id id fun s => { s with sumps := [(1, x)] }).sump 1).st = st := by decide +kernel
theorem witness_RemotesPark : let d (pkg : Nat) := natLe 16 0 ++ natLe 4 64 ++ natLe 2 pkg ++ natLe 42 0
    let s := fabric []
    s.sendCode 0 (d 5) = 0 ∧ s.queueOf 5 = none ∧ s.freeQueue = some 0 ∧ s.sendCode 0 (d 7) ≠ 0 ∧ (snd id s).sendCode 0 (d 5) = 0 ∧ (snd id s).queueOf 5 = some 0 := by
  decide +kernel
/-- A region with a child and one without; a task of the region; a range that is not mapped. -/
theorem witness_RequestsAct : let s := small 0 id id fun s => { s with regions := s.regions ++ [(2, { id := 2, parent := 1 })] }
    (s.regions.any fun x => x.2.parent == 1) = true ∧ (s.regions.any fun x => x.2.parent == 2) = false ∧ (s.task 1).rkey = 1 ∧
    tabFind s.tasks 1 ≠ none ∧ (s.task 1).status ≠ .saved ∧ (s.pinRange 1 0x5000 0x1000).2 ≠ 0 := by decide +kernel

/-- A task trapped by a cause, in a region that gives it an action, with a handler or without. -/
def trapped (cause act h : Nat) : State := small 0 (fun t => { t with status := .trapped, trec := [0, 1, BitVec.ofNat 64 cause] }) id fun s =>
  { s with regions := s.regions.map fun g => (g.1, { g.2 with handler := h, actOwner := 1, act := (List.replicate 64 (BitVec.ofNat 8 act)) })
           tasks := s.tasks ++ [(9, { tid := 9, region := 1, handler := true })] }

theorem witness_TrapsAreDisposed : (∀ act < 4, ∀ h ∈ [0, 9], ((trapped 1 act h).region 1).action (trapCause ((trapped 1 act h).task 1).trec) = act ∧
      ((trapped 1 act h).task 1).handler = false) ∧ ((trapped 1 3 9).region ((trapped 1 3 9).region 1).actOwner).handler = 9 ∧
    ((trapped 1 3 0).region ((trapped 1 3 0).region 1).actOwner).handler = 0 ∧ tabFind (trapped 1 3 9).tasks 9 ≠ none ∧
    ¬ (trapCause ((trapped 1 1 0).task 1).trec = 0x08 ∧ 2 ≤ ((trapped 1 1 0).task 1).verdict) ∧ ¬ trapCause ((trapped 1 1 0).task 1).trec = 0x14 ∧
    ((two id id fun s => { s with regions := s.regions.map fun g => (g.1, { g.2 with traps := [9], handler := 1 }) }).region 1).traps = 9 :: [] := by
  decide +kernel
theorem witness_TasksMove : (small 0).tid ≠ 0 ∧ (small 0).now.status ≠ .saved ∧
    ({ src := .deque 0 0, x := rc, r := 1, late := false, ord := 0, dies := 1, at_ := [3], need := {} } : Waiting).at_ = [3] := by decide +kernel

/-- A copy of one run of 64 bytes within the scratchpad. -/
def oneRun : Cmd := { image := natLe 8 pad ++ natLe 8 (pad + 0x100) ++ natLe 4 0 ++ natLe 4 64 ++ (List.replicate 5 (natLe 4 1)).flatten ++ natLe 4 0 ++ natLe 112 0 }

theorem witness_CopiesWrite : let s := small 0 id (chn oneRun) fun s => { s with mem := memPutBytes [] pad (natLe 64 7) }
    let r := shapeRec oneRun.image
    oneRun.multicast = false ∧ oneRun.placeFor r 0 = 0 ∧ s.chanOwner 0 2 = 1 ∧
    (match unitAt (oneRun.units r 0) 0 with
     | some u => (match s.copySource 0 oneRun s.now 0 u with
       | .ok (bs, _, s1) => (match oneRun.unitData u bs with
         | some out => decide (out.length = u.n) && decide (s1.copyAlcove 0 2 oneRun = none) && decide (s1.hostHeld (pad + 0x100) u.n = []) &&
             (s1.copyPieces s.now 0 2 2 u.addr u.n).toOption == some [(pad + 0x100, u.n)]
         | none => false)
       | .error _ => false)
     | none => false) = true ∧
    (∀ f ∈ [0, pad, spadAddr 0 0 + 2 ^ 19 - 8], (((small 0 id (chn { oneRun with ends := some (0, 0, 0) } [(1, f)])).core 0).chan 2).cmd.bind Cmd.ends = some (0, 0, 0)) ∧
    ({ fields := [(1, pad)] } : Chan).ringOver = false ∧ ({ fields := [(1, spadAddr 0 0 + 2 ^ 19 - 8)] } : Chan).ringOver = true := by decide +kernel
theorem witness_EnginesTake : let e : Enq := { sump := 1, tid := 1, tok := 0, bytes := natLe 32 0, clk := 0 }
    let x : FSlot := { va := 0x5000, access := 1, cause := 0, waiters := 1, part := 0, reqs := [.task 1] }
    let s := (small 0).putDie 0 { (small 0).die 0 with enq := [e], waitq := [x] }
    (s.die 0).enq = e :: [] ∧ (keyOf (natLe 32 0) == keyOf e.bytes) = true ∧ (keyOf (natLe 32 7) == keyOf e.bytes) = false ∧
    (s.die 0).nextWaiter = some 0 ∧ (s.die 0).openFor x = none ∧ ((List.range 256).find? fun i => (tabFind (s.die 0).slots i).isNone) = some 0 ∧
    ((treeState 1 1).tree 9).st ≠ 0 := by decide +kernel

/-- A line of a transfer's 64 bytes. -/
def lineArgs : StepArgs := { unit := 5, addr := 0, aux := 2 ^ 40, bytes := natLe 64 7 }

theorem witness_FabricActs : let s := fb lineArgs
    slotAt s.fab.table s.ftime = some (0, 0) ∧ (tabFind (rop id (small 0 fun t => { t with status := .remote })).tasks 1).map Task.status = some .remote ∧
    (tabFind s.parts 0).isSome = true ∧ (s.recv 5).past lineArgs = false ∧ ((s.takeFlits 3 0).recv 5).past lineArgs = false ∧
    (tabFind (s.takeFlits 3 0).parts 0).isSome = true ∧ (s.takeFlits 3 0).farLoc 0 0 64 2 = .ok 0x10000 ∧
    (let u := fb {} id (snd fun x => { x with pos := 64, acked := 64, snote := some pad })
     (u.sendAt 0 0).any (fun x => x.snote == some pad && !(x.fault && decide (2 ≤ x.verdict)) && (u.sendLoc x pad 8 3).toOption == some pad) = true ∧ u.badAt pad 8 = false) ∧
    (s.part 0).st ≠ 1 := by decide +kernel

/-! #### The whole machine -/

theorem witness_StepRunsDecoded : let s := State.reset.withFetchWord 32 0x04304200
    let u := State.pick { s with turn := s.turn + 1, cur := 0 }
    s.agenda = [] ∧ s.turn % 2 = 0 ∧ State.nextCore { s with turn := s.turn + 1 } = some 0 ∧ u.tid ≠ 0 ∧ (u.core u.cur).stall = 0 ∧ (u.core u.cur).wait = 0 ∧
    u.now.idle = 0 ∧ u.now.hold = none ∧ ((u.fetch u.now u.now.pc).toOption.any fun ws => checkPacket ws && isHeader ws (u.now.pc % 16) &&
      decide (bundleSlots ws (u.now.pc % 16) = [(.sa, 0x04304200)])) = true ∧ decodeSlot .sa 0x04304200 = .ok (.add 3 1 2 0) ∧
    Instr.pclkTick.slotKind = .event := by decide +kernel
theorem witness_StepKeepsMemoryForm : State.reset.Inv ∧ ∃ t, step (State.reset.withFetchWord 32 0x04304200) = .next t := by
  refine ⟨rfl, ?_⟩
  have h : (match step (State.reset.withFetchWord 32 0x04304200) with | .next _ => true | _ => false) = true := by decide +kernel
  revert h
  cases step (State.reset.withFetchWord 32 0x04304200) <;> simp
theorem witness_ResetAndTaskStart : (natLe 64 0x1001).length = 64 := by decide
/-- A bundle with a word to come; a bundle that a misaligned load traps. -/
theorem witness_BundlesCommitWholeOrNotAtAll : (Instr.add 3 1 2 0).slotKind ≠ .event ∧ (small 0).tid ≠ 0 ∧
    (small 0 id id fun s => { s with bun := { s.bun with left := 1 } }).bun.left ≠ 0 ∧
    (let s := (ls (pad + 1)).logSlot { sr := [2], sw := [3] } (.fault 0x0A 0 (some (pad + 1)) 0)
     s.calm = true ∧ (match s.verdict with | .trap x _ => (List.range 8).all fun k => x.causes / 2 ^ (8 * k) % 256 != 0x08 | _ => false) = true) := by decide +kernel
theorem witness_ConstantsAndLandingOrder : clearAll (small 0) [{ sr := [1], sw := [0] }] = true ∧ clearAll (small 2) [{ pw := [0] }] = true ∧
    (small 0).now.flights = [] ∧ (small 0).now.prods = [] ∧ (small 0).now.isEmpty (.s 63) = false := by decide +kernel
theorem witness_DecodeAndEncodeAgree : (Instr.aadd 12 6 7 0 3).wellFormed = true ∧ encode (.aadd 12 6 7 0 3) = some 0x6060C383 ∧
    standsIn (Instr.aadd 12 6 7 0 3).slotKind .ls = true := by decide +kernel
/-- 1, the smallest subnormal number and the largest finite one of each format; the zeros, infinities and NaNs of their tables. -/
theorem witness_ArithmeticRoundsOnce : ∀ f ∈ [Fmt.f64, Fmt.f32, Fmt.f16, Fmt.bf16], (fpVal f 1).isSome = true ∧ (fpVal f (f.inf false - 1)).isSome = true ∧
    (fpVal f (f.bias * 2 ^ (f.prec - 1))) = some 1 ∧ fpVal f 0 = some 0 ∧ fpVal f (f.zero true) = some 0 ∧ minus f (f.zero true) = true ∧
    f.inf true < 2 ^ f.w ∧ nan f f.nan = true ∧ snan f f.nan = false ∧ snan f (f.inf false + 1) = true := by
  decide +kernel
/-- A NaN that signals and one that does not, the zeros, the infinities, -1 and 2 with its logarithm: operands of the tables of 04 R130-R133. -/
theorem witness_FunctionTable : nan .f32 0x7FC00000 = true ∧ nan .f32 0x7F800001 = true ∧ nan .f32 (Fmt.f32.inf true) = false ∧ fpVal .f32 0 = some 0 ∧
    fpVal .f32 0xBF800000 = some (-1) ∧ fpVal .f32 0x40000000 = some 2 ∧ Fmt.f32.log2 0 (Fmt.f32.decode 0x40000000) = (0x3F800000, 0) ∧
    fpVal .f32 0x43000000 = some 128 ∧ (2 ^ 63 : Int).natAbs ≤ 2 ^ 63 := by decide +kernel

end Sys2Proof.Tests
end

/-! The allotment unit (01 R18-R20; 04 R116): what a request writes, and what a bundle with a granted one comes to. -/

namespace Sys2Proof.Machine

open Host (Outcome)

/-! ### What a request writes -/

/-- A register and a sign-extended immediate add up as integers modulo 2^64. -/
theorem toNat_add_imm64 {k : Nat} (x : W64) (i : BitVec k) : (x + imm64 i).toNat = ((x.toNat + i.toInt) % 2 ^ 64).toNat := by
  have hsum : x + imm64 i = BitVec.ofInt 64 (x.toNat + i.toInt) := by
    rw [BitVec.ofInt_add, BitVec.ofInt_natCast, BitVec.ofNat_toNat, BitVec.setWidth_eq]; rfl
  rw [hsum, BitVec.toNat_ofInt]; rfl

/-- The free registers of a core, as a sum over its residents. -/
theorem freeRegs_eq (s : State) (c : Nat) : s.freeRegs c = 512 - ((s.core c).tasks.map fun x => (s.task x).vn).sum := by
  simp only [State.freeRegs, List.sum_eq_foldl, List.foldl_map]

/-- A legal request (01 R18): one of the four sizes, with the rotating registers inside it. -/
def Task.mayAllot (t : Task) (n : Nat) : Prop := n ∈ [32, 64, 96, 128] ∧ t.rotSize ≤ n

theorem allotResult_of_illegal (s : State) (t : Task) (a : W64) (h : ¬ t.mayAllot a.toNat) : s.allotResult t a = 0xFFFFFFFFFFFFFFFF := by
  have hc : (!([32, 64, 96, 128].contains a.toNat) || decide (a.toNat < t.rotSize)) = true := by
    rw [Bool.or_eq_true, decide_eq_true_eq, Bool.not_eq_true', ← Bool.not_eq_true, List.contains_iff_mem, ← Nat.not_le]
    exact not_and_or.1 h
  simp only [State.allotResult, hc, if_true]

/-- A legal request is refused or answered with its own size, by the free registers alone. -/
theorem allotResult_of_legal (s : State) (t : Task) (a : W64) (h : t.mayAllot a.toNat) :
    s.allotResult t a = if t.vn < a.toNat ∧ s.freeRegs t.core < a.toNat - t.vn then 0 else a := by
  have hc : (!([32, 64, 96, 128].contains a.toNat) || decide (a.toNat < t.rotSize)) = false := by
    rw [Bool.or_eq_false_iff, decide_eq_false_iff_not, Bool.not_eq_false', List.contains_iff_mem, Nat.not_lt]
    exact h
  simp only [State.allotResult, hc, Bool.false_eq_true, if_false]

/-- Neither answer of a request that is not granted is a legal size. -/
theorem ne_of_mayAllot (t : Task) (a : W64) (h : t.mayAllot a.toNat) : a ≠ 0 ∧ a ≠ 0xFFFFFFFFFFFFFFFF := by
  constructor <;> rintro rfl <;> exact absurd h.1 (by decide)

/-- An ALLOT that is not granted writes its answer and asks for no new allotment. -/
theorem execAllot_ungranted (s : State) (d a : BitVec 6) (i : BitVec 14) (v : W64) (hv : s.allotResult s.now (s.now.rs a + imm64 i) = v)
    (h : v = 0 ∨ v = 0xFFFFFFFFFFFFFFFF) :
    execAllot d a i s = s.runSlot { sr := [a.toNat], sw := [d.toNat], allot := true } (.go [resS d.toNat 1 v]) := by
  have hno : ¬ (v = s.now.rs a + imm64 i ∧ s.now.rs a + imm64 i ≠ 0 ∧ s.now.rs a + imm64 i ≠ 0xFFFFFFFFFFFFFFFF) := by
    rintro ⟨rfl, h1, h2⟩; exact h.elim h1 h2
  simp only [execAllot, hv, if_neg hno]

/-- An ALLOT that is granted writes the size and asks for it. -/
theorem execAllot_granted (s : State) (d a : BitVec 6) (i : BitVec 14) (hl : s.now.mayAllot (s.now.rs a + imm64 i).toNat)
    (hv : s.allotResult s.now (s.now.rs a + imm64 i) = s.now.rs a + imm64 i) :
    execAllot d a i s = s.runSlot { sr := [a.toNat], sw := [d.toNat], allot := true }
      (.go [resS d.toNat 1 (s.now.rs a + imm64 i), .allot (s.now.rs a + imm64 i).toNat]) := by
  have hyes := ne_of_mayAllot s.now _ hl
  simp only [execAllot, hv, true_and, if_pos hyes]

/-! ### The new allotment of a task -/

theorem setAllot_flights_nil (t : Task) (n : Nat) (h : t.flights = []) : (t.setAllot n).flights = [] := by
  simp [Task.setAllot, h]

theorem setAllot_prods_nil (t : Task) (n : Nat) (h : t.prods = []) : (t.setAllot n).prods = [] := by
  simp [Task.setAllot, h]

/-- Of a task with nothing on its way, and with its rotating registers inside the new allotment, only the vector registers change. -/
theorem setAllot_of_quiet (t : Task) (n : Nat) (hf : t.flights = []) (hp : t.prods = []) (hr : t.rotSize ≤ n) :
    t.setAllot n = { t with
      vn := n, vregs := t.vregs.filter fun x => decide (x.1 < min t.vn n)
      vEmpty := t.vEmpty &&& BitVec.ofNat 128 (2 ^ min t.vn n - 1)
      vFail := t.vFail &&& BitVec.ofNat 128 (2 ^ min t.vn n - 1) } := by
  simp [Task.setAllot, hf, hp, Nat.not_lt.2 hr]

/-- The allotment and a scalar register are apart. -/
theorem setAllot_putS (t : Task) (n k : Nat) (v : W64) : (t.putS k v).setAllot n = (t.setAllot n).putS k v := by
  unfold Task.putS; by_cases hk : k = 0
  · rw [if_pos hk, if_pos hk]
  · rw [if_neg hk, if_neg hk]; rfl

theorem setAllot_skip (t : Task) (n k : Nat) : (t.skip k).setAllot n = (t.setAllot n).skip k := rfl

/-- A shrink that releases no empty register waits for none (01 R19). -/
theorem shrinkAwaits_full (t : Task) (k n : Nat) (sh : Shape) (es : List Effect) (hn : es.findSome? Effect.allotted = some n)
    (h : ∀ r, n ≤ r → r < t.vn → t.isEmpty (.v r) = false) : t.shrinkAwaits [{ slot := k, shape := sh, out := .go es }] = [] := by
  simp only [Task.shrinkAwaits, List.findSome?_cons, hn, List.map_eq_nil_iff, List.filter_eq_nil_iff]
  rintro r - hr
  simp only [Bool.and_eq_true, decide_eq_true_eq] at hr
  obtain ⟨⟨h1, h2⟩, hempty⟩ := hr
  rw [h r h1 h2] at hempty
  cases hempty

/-! ### A bundle with a granted ALLOT -/

/-- What a bundle sends to a register is not what its issue changes. -/
theorem launch_issued (t : Task) (b : Bundle) (d : Dest) (off : Nat) (v : VReg) (m : BitVec 16) :
    (t.launch d off v m).issued b = (t.issued b).launch d off v m := by
  unfold Task.launch; split <;> rfl

/-- A scalar result that is usable in the next bundle stands in its register once its own bundle has issued. -/
theorem bump_launch_scalar (t : Task) (d : Nat) (val : VReg) (hf : t.flights = []) (hp : t.prods = []) (he : t.isEmpty (.s d) = false) :
    ∃ q, (t.launch (.s d) 1 val 0xFFFF).bump = ({ t with seqno := q }.put (.s d) val 0xFFFF).skip 1 := by
  rcases launch_flights t { dst := .s d, off := 1, val := val } hf with ⟨hd, e⟩ | ⟨-, e⟩
  · obtain rfl : d = 0 := by simpa using hd
    exact ⟨t.seqno, bump_none t hf hp⟩
  · let f : Flight := { dst := .s d, due := t.nb + 1, ord := t.seqno, val := val, mask := 0xFFFF }
    let u : Task := { t with seqno := t.seqno + 1, flights := [f] }
    have hland : u.landed f = ({ t with seqno := t.seqno + 1 } : Task).put (.s d) val 0xFFFF := by
      have hu : ({ u with flights := [] } : Task) = { t with seqno := t.seqno + 1 } := by rw [← hf]
      have hfull : ({ t with seqno := t.seqno + 1 } : Task).isEmpty f.dst = false := he
      unfold Task.landed Task.landOne
      rw [hu, hfull]; rfl
    refine ⟨t.seqno + 1, ?_⟩
    calc (t.launch (.s d) 1 val 0xFFFF).bump = u.bump := congrArg Task.bump e
      _ = (u.landed f).skip 1 := (bump_one u f rfl hp rfl).trans (if_pos (Nat.le_refl _))
      _ = _ := by rw [hland]

/-- The commit of a register result and a granted ALLOT: the allotment follows every result of the bundle. -/
theorem commit_wr_allot (s : State) (r : Res) (n : Nat) (hl : s.straight = true) :
    s.commit [.wr r.dst r.off r.val r.mask, .allot n] =
      (s.putTask s.tid ((((s.now.launch r.dst r.off r.val r.mask).issued s.bun).bump).setAllot n)).tick 1 := by
  let es : List Effect := [.wr r.dst r.off r.val r.mask, .allot n]
  let u := s.putTask s.tid (s.now.launch r.dst r.off r.val r.mask)
  have hlu : (u.now.loops.getLast?.any fun l => l.last == s.bun.pc) = false := by
    have hloops : u.now.loops = s.now.loops := by
      rw [now_putTask]; unfold Task.launch; split <;> rfl
    simpa [State.straight, hloops] using hl
  have hcontrol : u.control es = u.putTask s.tid (u.now.issued s.bun) := by
    unfold State.control
    have hmoves : findEff es Effect.lexitTo = none ∧ findEff es Effect.jumpTo = none ∧ findEff es Effect.pushed = none := ⟨rfl, rfl, rfl⟩
    obtain ⟨h1, h2, h3⟩ := hmoves
    simp only [h1, h2, h3]
    rw [now_putTask]
    exact if_neg (by rw [Bool.not_eq_true]; exact hlu)
  have hfinish : ∀ w : State, w.finish s.tid es = w := fun w => rfl
  calc s.commit es = ((((u.control es).putTask s.tid ((u.control es).task s.tid).bump).reallot s.tid es).finish s.tid es).tick 1 := rfl
    _ = _ := by
      rw [hfinish, hcontrol, task_putTask_self, putTask_putTask]
      show ((u.putTask s.tid _).putTask s.tid (Task.setAllot ((u.putTask s.tid _).task s.tid) n)).tick 1 = _
      rw [task_putTask_self, putTask_putTask, putTask_putTask, now_putTask]

/-- The count of bundles is not compared. -/
theorem skip_rest (t : Task) (n : Nat) : (t.skip n).SameRest t :=
  ⟨⟨rfl, rfl, rfl, rfl, rfl⟩, ⟨rfl, rfl, rfl, rfl⟩, ⟨rfl, rfl, rfl, rfl⟩, ⟨rfl, rfl, rfl, rfl, rfl⟩, ⟨rfl, rfl, rfl, rfl, rfl, rfl⟩⟩

theorem wrote_of_le (t : Task) (r : Res) (k : Nat) (h : r.off ≤ k) : t.wrote (some r) k = t.put r.dst r.val r.mask := if_pos h

/-- The end of a step that has moved on the current task of a calm state. -/
theorem settle_moved (s : State) (sh : Shape) (o : SlotOut) (w : Task) (hc : s.calm = true) (hw : w.redo = none) :
    (((s.logSlot sh o).putTask s.tid w).tick 1).settle = ((s.logSlot sh o).putTask s.tid w).tick 1 :=
  settle_of_calm _ (calm_congr _ _ (calm_putTask _ s.tid w (calm_congr s (s.logSlot sh o) hc rfl rfl rfl rfl) hw) rfl rfl rfl rfl)

/-- The current task moved on to `k` and its one result written, where `k` stands as `u`: what `Leads` compares. -/
theorem leads_moved (s : State) (sh : Shape) (o : SlotOut) (k u : Task) (d : Nat) (val : VReg) (hf : k.flights = []) (hp : k.prods = [])
    (hreg : (k.put (.s d) val 0xFFFF).SameRegs (u.put (.s d) val 0xFFFF)) (hku : k.SameRest u) (hfl : k.fpflags = u.fpflags) (hpc : k.pc = u.pc) :
    s.Leads (((s.logSlot sh o).putTask s.tid ((k.put (.s d) val 0xFFFF).skip 1)).tick 1) u (some { dst := .s d, off := 1, val := val }) 0 := by
  let w : Task := (k.put (.s d) val 0xFFFF).skip 1
  have hw : (((s.logSlot sh o).putTask s.tid w).tick 1).task s.tid = w := task_putTask_self (s.logSlot sh o) s.tid w
  obtain ⟨hrest, hflags, hpcs, -⟩ := put_rest k (.s d) val 0xFFFF
  constructor
  case regs =>
    intro j
    rw [hw, later_none w ((putS_flights ..).trans hf) ((putS_prods ..).trans hp), wrote_of_le _ _ _ (Nat.le_add_left 1 j)]
    exact ⟨hreg.scalars, hreg.vectors, hreg.preds, hreg.bases⟩
  case flags => rw [hw]; exact hflags.trans hfl
  case rest => rw [hw]; exact sameRest_trans (skip_rest _ 1) (sameRest_trans hrest hku)
  case pc => rw [hw]; exact hpcs.trans hpc
  case cores => intro c; split <;> rfl
  case world => exact sameWorld_passed s sh o w

/-- A word with one scalar result and a granted ALLOT that releases no empty register: its task goes on with the new allotment. -/
theorem runSlot_allot (s : State) (sh : Shape) (d n : Nat) (v : W64) (h : s.clear sh = true) (he : s.now.isEmpty (.s d) = false)
    (hs : ∀ r, n ≤ r → r < s.now.vn → s.now.isEmpty (.v r) = false) :
    ∃ t, s.runSlot sh (.go [resS d 1 v, .allot n]) = .next t ∧
      s.Leads t { s.now.setAllot n with pc := s.bun.next } (some { dst := .s d, off := 1, val := v.setWidth 512 }) 0 := by
  obtain ⟨ha, hc, ⟨hf, hp⟩, -⟩ := (clear_iff s sh).1 h
  have hl : s.straight = true := ((Bool.and_eq_true ..).mp h).2
  let r : Res := { dst := .s d, off := 1, val := v.setWidth 512 }
  let u := s.logSlot sh (.go [resS d 1 v, .allot n])
  obtain ⟨q, hq⟩ := bump_launch_scalar (s.now.issued u.bun) d r.val hf hp he
  let k : Task := ({ s.now.issued u.bun with seqno := q } : Task).setAllot n
  have htask : ((s.now.launch (.s d) 1 r.val 0xFFFF).issued u.bun).bump.setAllot n = (k.put (.s d) r.val 0xFFFF).skip 1 := by
    rw [launch_issued, hq, setAllot_skip]
    exact congrArg (Task.skip · 1) (setAllot_putS _ n d _)
  have hcommit : u.commit [resS d 1 v, .allot n] = (u.putTask s.tid ((k.put (.s d) r.val 0xFFFF).skip 1)).tick 1 :=
    htask ▸ commit_wr_allot u r n hl
  have hredo : ((k.put (.s d) r.val 0xFFFF).skip 1).redo = none := (putS_redo ..).trans (redo_of_calm s s.tid hc)
  refine ⟨(u.putTask s.tid ((k.put (.s d) r.val 0xFFFF).skip 1)).tick 1, ?_, ?_⟩
  · rw [runSlot_go s sh _ ha (shrinkAwaits_full _ _ n _ _ rfl hs)]
    exact congrArg Outcome.next ((congrArg State.settle hcommit).trans (settle_moved s sh _ _ hc hredo))
  · refine leads_moved s sh _ k _ d r.val (setAllot_flights_nil _ n hf) (setAllot_prods_nil _ n hp)
      (sameRegs_put k _ _ _ _ rfl rfl rfl rfl rfl) ?_ rfl rfl
    exact ⟨⟨rfl, rfl, rfl, rfl, rfl⟩, ⟨rfl, rfl, rfl, rfl⟩, ⟨rfl, rfl, rfl, rfl⟩, ⟨rfl, rfl, rfl, rfl, rfl⟩, ⟨rfl, rfl, rfl, rfl, rfl, rfl⟩⟩

end Sys2Proof.Machine

/-! The rows of ALLOT (01 R18). -/

namespace Sys2Proof.Proofs

open Sys2Proof Sys2Proof.Machine Sys2Proof.Rules

/-- An integer that is a register's value is that register's result. -/
theorem reg64_eq (d : BitVec 6) (off : Nat) (v : W64) (z : Int) (h : BitVec.ofInt 64 z = v) :
    reg64 d off z = { dst := .s d.toNat, off := off, val := v.setWidth 512 } := by
  rw [reg64, h]

/-- The register that a word admitted writes is full. -/
theorem isEmpty_of_clear (s : State) (sh : Shape) (d : Nat) (h : s.clear sh = true) (hd : d ∈ sh.sw) : s.now.isEmpty (.s d) = false := by
  obtain ⟨-, -, -, -, -, -, -, -, -, -, -, -, hw⟩ := (admits_iff s sh).1 ((clear_iff s sh).1 h).1
  exact hw (.s d) (List.mem_append_left _ (List.mem_map_of_mem hd))

/-- A request that is not granted writes its answer and changes nothing else. -/
theorem allot_ungranted (s : State) (d a : BitVec 6) (i : BitVec 14) (z : Int)
    (h : s.clear { sr := [a.toNat], sw := [d.toNat], allot := true } = true)
    (hv : s.allotResult s.now (s.now.rs a + imm64 i) = BitVec.ofInt 64 z) (hz : z = 0 ∨ z = -1) :
    Runs (.allot d a i) s fun t => s.Gives t (some (reg64 d 1 z)) 0 := by
  have hno : BitVec.ofInt 64 z = 0 ∨ BitVec.ofInt 64 z = 0xFFFFFFFFFFFFFFFF := by
    rcases hz with rfl | rfl
    · exact .inl rfl
    · exact .inr (by decide)
  unfold Runs
  rw [exec_allot, execAllot_ungranted s d a i _ hv hno]
  exact runSlot_result s _ (reg64 d 1 z) 0 h (Nat.le_refl 1) (isEmpty_of_clear s _ _ h (List.mem_singleton_self _))

/-- Settles O19: what is written is decided by whether the size is legal and, of a legal one, by the free registers; only a granted request
changes the allotment. -/
theorem allotmentRequests : Obligations.AllotmentRequests := by
  intro s d a i h n legal free
  have hn : n = (s.now.rs a + imm64 i).toNat := (toNat_add_imm64 _ i).symm
  have hfree : free = s.freeRegs s.now.core := (freeRegs_eq s s.now.core).symm
  have hlegal : legal ↔ s.now.mayAllot (s.now.rs a + imm64 i).toNat := by rw [← hn]; exact Iff.rfl
  refine ⟨fun hill => ?_, fun hleg hgrow hfew => ?_, fun hleg hroom hfull => ?_⟩
  · have hv := allotResult_of_illegal s s.now _ fun hm => hill (hlegal.2 hm)
    exact allot_ungranted s d a i (-1) h (hv.trans (by decide)) (.inr rfl)
  · have hv := allotResult_of_legal s s.now _ (hlegal.1 hleg)
    rw [← hn, ← hfree, if_pos ⟨hgrow, hfew⟩] at hv
    exact allot_ungranted s d a i 0 h hv (.inl rfl)
  · have hv := allotResult_of_legal s s.now _ (hlegal.1 hleg)
    rw [← hn, ← hfree, if_neg hroom] at hv
    obtain ⟨-, -, ⟨hf, hp⟩, -⟩ := (clear_iff s _).1 h
    have hres : reg64 d 1 n = { dst := .s d.toNat, off := 1, val := (s.now.rs a + imm64 i).setWidth 512 } :=
      reg64_eq d 1 _ _ (by rw [hn, BitVec.ofInt_natCast, BitVec.ofNat_toNat, BitVec.setWidth_eq])
    unfold Runs
    rw [exec_allot, execAllot_granted s d a i (hlegal.1 hleg) hv, ← hn, hres, goesTo, ← setAllot_of_quiet s.now n hf hp hleg.2]
    exact runSlot_allot s _ d.toNat n _ h (isEmpty_of_clear s _ _ h (List.mem_singleton_self _)) hfull

end Sys2Proof.Proofs

/-! How the decoder reads a word (02 R50-R53): the rows of one opcode as a table, and the fields of the word formats. -/

namespace Sys2Proof

/-! ### The rows of one opcode -/

/-- The rows of a slot's map with an opcode. -/
def opRows (sl : Slot) (op : Nat) : List Row := (slotRows sl).filter fun r => r.op == op

/-- A word has the fixed fields of a row. -/
def fixedFit (fixed : List (Nat × Nat × Nat)) (w : BitVec 32) : Bool :=
  fixed.all fun f => w.toNat / 2 ^ f.1 % 2 ^ f.2.1 == f.2.2

theorem fixedFit_one {lo len v : Nat} {w : BitVec 32} : fixedFit [(lo, len, v)] w = decide (w.toNat / 2 ^ lo % 2 ^ len = v) :=
  Bool.and_true _

/-- The answer of the decoder for a word of an opcode of the map: the instruction, or a wrong field where there is none. -/
def readOut : Option Instr → Except DecodeError Instr
  | some i => .ok i
  | none => .error .field

/-- The row that a word fits is searched among the rows of its opcode alone. -/
theorem find_fits (sl : Slot) (w : BitVec 32) (op : Nat) (hop : w.toNat / 2 ^ 26 = op) :
    (slotRows sl).find? (fun r => r.fits w) = (opRows sl op).find? fun r => fixedFit r.fixed w := by
  rw [opRows, List.find?_filter]
  congr 1
  funext r
  rw [Row.fits, fixedFit, hop, BEq.comm (a := op), Bool.decide_and, Bool.decide_eq_true, Bool.decide_eq_true]

/-- A word of an opcode of the map is decoded by the row that it fits; where it fits none, a field is wrong. -/
theorem decodeSlot_eq (sl : Slot) (w : BitVec 32) (op : Nat) (hop : w.toNat / 2 ^ 26 = op) (h0 : op ≠ 0) (hmap : opRows sl op ≠ [])
    (hwf : ∀ r ∈ opRows sl op, (r.build w).wellFormed = true) :
    decodeSlot sl w = readOut (((opRows sl op).find? fun r => fixedFit r.fixed w).map fun r => r.build w) := by
  have hw : w ≠ 0 := by rintro rfl; exact h0 hop.symm
  have hdef : opcodeDefined sl w = true := by
    obtain ⟨r, hr⟩ := List.exists_mem_of_ne_nil _ hmap
    obtain ⟨hmem, hrop⟩ := List.mem_filter.1 hr
    exact List.any_eq_true.2 ⟨r, hmem, by rw [hop, BEq.comm]; exact hrop⟩
  rw [decodeSlot, if_neg hw, find_fits sl w op hop, hdef]
  cases hfind : (opRows sl op).find? fun r => fixedFit r.fixed w with
  | none => rfl
  | some r => exact if_pos (hwf r (List.mem_of_find?_eq_some hfind))

/-- Of rows told apart by the values 0, 1, 2, ... of one field, that field's value picks the row. -/
theorem find_selected (lo len : Nat) (rest : List (Nat × Nat × Nat)) (w : BitVec 32) (hrest : fixedFit rest w = true) (rows : List Row) :
    ∀ k, rows.map Row.fixed = (List.range' k rows.length).map (fun i => (lo, len, i) :: rest) → ∀ n, w.toNat / 2 ^ lo % 2 ^ len = k + n →
      rows.find? (fun r => fixedFit r.fixed w) = rows[n]? := by
  induction rows with
  | nil => intro k _ n _; rfl
  | cons r rows ih =>
    intro k hfix n hn
    obtain ⟨hr, htail⟩ := List.cons.inj hfix
    have hfit : fixedFit r.fixed w = decide (n = 0) := by
      rw [hr, fixedFit, List.all_cons, ← fixedFit, hrest, Bool.and_true, hn, Bool.eq_iff_iff, beq_iff_eq, decide_eq_true_eq, Nat.add_eq_left]
    cases n with
    | zero => rw [List.find?_cons, hfit]; rfl
    | succ n =>
      rw [List.find?_cons, hfit]
      exact ih (k + 1) htail n (by omega)

/-- In each of these slots an opcode's rows are told apart by a selector field, in the order of a table, and have the other fixed
fields `rest`; `term` is the instruction of an entry of the table. -/
structure RowsBySelector {α : Type} (sls : List Slot) (op lo len : Nat) (rest : List (Nat × Nat × Nat)) (table : List α)
    (term : α → BitVec 32 → Instr) : Prop where
  opcode : op ≠ 0
  entries : table ≠ []
  fixed : ∀ sl ∈ sls, (opRows sl op).map Row.fixed = (List.range table.length).map fun i => (lo, len, i) :: rest
  build : ∀ sl ∈ sls, (opRows sl op).map Row.build = table.map term
  wellFormed : ∀ w, (table.all fun x => (term x w).wellFormed) = true

section
variable {α : Type} {sls : List Slot} {op lo len : Nat} {rest : List (Nat × Nat × Nat)} {table : List α} {term : α → BitVec 32 → Instr}

theorem RowsBySelector.length_rows (h : RowsBySelector sls op lo len rest table term) {sl : Slot} (hsl : sl ∈ sls) :
    (opRows sl op).length = table.length := by
  simpa using congrArg List.length (h.build sl hsl)

theorem RowsBySelector.decode (h : RowsBySelector sls op lo len rest table term) {sl : Slot} (hsl : sl ∈ sls) {w : BitVec 32}
    (hop : w.toNat / 2 ^ 26 = op) :
    decodeSlot sl w = readOut (((opRows sl op).find? fun r => fixedFit r.fixed w).map fun r => r.build w) := by
  refine decodeSlot_eq sl w op hop h.opcode ?_ fun r hr => ?_
  · rw [← List.length_pos_iff, h.length_rows hsl, List.length_pos_iff]; exact h.entries
  · have hmem : r.build ∈ table.map term := h.build sl hsl ▸ List.mem_map_of_mem hr
    obtain ⟨x, hx, hterm⟩ := List.mem_map.1 hmem
    rw [← hterm]
    exact List.all_eq_true.1 (h.wellFormed w) x hx

/-- The selector picks the table's entry; a selector past the table is no instruction. -/
theorem RowsBySelector.decode_selected (h : RowsBySelector sls op lo len rest table term) {sl : Slot} (hsl : sl ∈ sls) {w : BitVec 32} {n : Nat}
    (hop : w.toNat / 2 ^ 26 = op) (hn : w.toNat / 2 ^ lo % 2 ^ len = n) (hrest : fixedFit rest w = true) :
    decodeSlot sl w = readOut (table[n]?.map fun x => term x w) := by
  have hfind := find_selected lo len rest w hrest (opRows sl op) 0
    (by rw [h.fixed sl hsl, h.length_rows hsl, List.range_eq_range']) n (by rw [hn, Nat.zero_add])
  have hbuild : (opRows sl op)[n]?.map Row.build = table[n]?.map term := by
    rw [← List.getElem?_map, h.build sl hsl, List.getElem?_map]
  have happly := congrArg (Option.map fun f => f w) hbuild
  rw [Option.map_map, Option.map_map] at happly
  rw [h.decode hsl hop, hfind]
  exact congrArg readOut happly

/-- A word with another of the fixed fields wrong is no instruction. -/
theorem RowsBySelector.decode_unfit (h : RowsBySelector sls op lo len rest table term) {sl : Slot} (hsl : sl ∈ sls) {w : BitVec 32}
    (hop : w.toNat / 2 ^ 26 = op) (hrest : fixedFit rest w = false) : decodeSlot sl w = .error .field := by
  have hnone : (opRows sl op).find? (fun r => fixedFit r.fixed w) = none := by
    refine List.find?_eq_none.2 fun r hr => ?_
    have hmem : r.fixed ∈ (List.range table.length).map fun i => (lo, len, i) :: rest := h.fixed sl hsl ▸ List.mem_map_of_mem hr
    obtain ⟨i, -, hi⟩ := List.mem_map.1 hmem
    rw [← hi, fixedFit, List.all_cons, ← fixedFit, hrest, Bool.and_false]
    exact Bool.false_ne_true
  rw [h.decode hsl hop, hnone]
  rfl

end

/-- In each of these slots an opcode has one row, with these fixed fields and this instruction. -/
structure OneRow (sls : List Slot) (op : Nat) (fixed : List (Nat × Nat × Nat)) (term : BitVec 32 → Instr) : Prop where
  opcode : op ≠ 0
  rows : ∀ sl ∈ sls, (opRows sl op).map Row.fixed = [fixed] ∧ (opRows sl op).map Row.build = [term]
  wellFormed : ∀ w, (term w).wellFormed = true

theorem OneRow.decode {sls : List Slot} {op : Nat} {fixed : List (Nat × Nat × Nat)} {term : BitVec 32 → Instr} (h : OneRow sls op fixed term)
    {sl : Slot} (hsl : sl ∈ sls) {w : BitVec 32} (hop : w.toNat / 2 ^ 26 = op) :
    decodeSlot sl w = readOut (if fixedFit fixed w then some (term w) else none) := by
  obtain ⟨hfixed, hbuild⟩ := h.rows sl hsl
  obtain ⟨r, hr, rfl⟩ := List.map_eq_singleton_iff.1 hfixed
  obtain rfl : r.build = term := by rw [hr] at hbuild; exact List.singleton_inj.1 hbuild
  have hwf : ∀ q ∈ opRows sl op, (q.build w).wellFormed = true := by
    rw [hr]; exact fun q hq => List.mem_singleton.1 hq ▸ h.wellFormed w
  rw [decodeSlot_eq sl w op hop h.opcode (by rw [hr]; exact List.cons_ne_nil _ _) hwf, hr]
  cases hfit : fixedFit r.fixed w <;> simp [hfit]

/-! ### Words read and words refused -/

section
variable {α : Type} {sls : List Slot} {op lo len n : Nat} {rest : List (Nat × Nat × Nat)} {table : List α} {term : α → BitVec 32 → Instr}
  {w : BitVec 32}

theorem RowsBySelector.reads (h : RowsBySelector sls op lo len rest table term) {x : α} {i : Instr} (hop : w.toNat / 2 ^ 26 = op)
    (hn : w.toNat / 2 ^ lo % 2 ^ len = n) (hrest : fixedFit rest w = true) (hx : table[n]? = some x) (hi : term x w = i) : Rules.Reads sls w i := by
  intro sl hsl
  rw [h.decode_selected hsl hop hn hrest, hx, ← hi]
  rfl

theorem RowsBySelector.refuses (h : RowsBySelector sls op lo len rest table term) (hop : w.toNat / 2 ^ 26 = op)
    (hn : w.toNat / 2 ^ lo % 2 ^ len = n) (hbad : table.length ≤ n ∨ fixedFit rest w = false) : Rules.RefusesField sls w := by
  intro sl hsl
  cases hrest : fixedFit rest w with
  | false => exact h.decode_unfit hsl hop hrest
  | true =>
    rw [h.decode_selected hsl hop hn hrest, List.getElem?_eq_none (hbad.resolve_right (by simp [hrest]))]
    rfl

end

section
variable {sls : List Slot} {op : Nat} {fixed : List (Nat × Nat × Nat)} {term : BitVec 32 → Instr} {w : BitVec 32}

theorem OneRow.reads (h : OneRow sls op fixed term) {i : Instr} (hop : w.toNat / 2 ^ 26 = op) (hfit : fixedFit fixed w = true)
    (hi : term w = i) : Rules.Reads sls w i := by
  intro sl hsl
  rw [h.decode hsl hop, hfit, ← hi]
  rfl

theorem OneRow.refuses (h : OneRow sls op fixed term) (hop : w.toNat / 2 ^ 26 = op) (hfit : fixedFit fixed w = false) :
    Rules.RefusesField sls w := by
  intro sl hsl
  rw [h.decode hsl hop, hfit]
  rfl

end

end Sys2Proof

namespace Sys2Proof.Proofs

open Sys2Proof Sys2Proof.Machine Sys2Proof.Rules

/-! ### The fields of a word -/

/-- A field is the value that its bits spell. -/
theorem fld_eq {w : BitVec 32} {lo len : Nat} {v : BitVec len} (h : w.toNat / 2 ^ lo % 2 ^ len = v.toNat) : fld w lo len = v :=
  BitVec.eq_of_toNat_eq ((BitVec.toNat_ofNat ..).trans h)

/-- The fields of a word of format SR. The destination is six bits, or a predicate's four with two bits above; sb and fn together are the
ten bits that tell the rows of a one-register opcode apart. -/
structure SrFields (w : BitVec 32) (op d a b fn p : Nat) : Prop where
  opcode : w.toNat / 2 ^ 26 = op
  dst : w.toNat / 2 ^ 20 % 2 ^ 6 = d
  pred : w.toNat / 2 ^ 20 % 2 ^ 4 = d % 2 ^ 4
  above : w.toNat / 2 ^ 24 % 2 ^ 2 = d / 2 ^ 4
  srcA : w.toNat / 2 ^ 14 % 2 ^ 6 = a
  srcB : w.toNat / 2 ^ 8 % 2 ^ 6 = b
  selector : w.toNat / 2 ^ 4 % 2 ^ 4 = fn
  selector10 : w.toNat / 2 ^ 4 % 2 ^ 10 = b * 2 ^ 4 + fn
  guard : w.toNat / 2 ^ 0 % 2 ^ 4 = p

theorem srWord_fields {op d a b fn p : Nat} (hop : op < 2 ^ 6) (hd : d < 2 ^ 6) (ha : a < 2 ^ 6) (hb : b < 2 ^ 6) (hfn : fn < 2 ^ 4)
    (hp : p < 2 ^ 4) : SrFields (srWord op d a b fn p) op d a b fn p := by
  have hw : (srWord op d a b fn p).toNat = op * 2 ^ 26 + d * 2 ^ 20 + a * 2 ^ 14 + b * 2 ^ 8 + fn * 2 ^ 4 + p := by
    rw [srWord, BitVec.toNat_ofNat, Nat.mod_eq_of_lt (by omega)]
  constructor <;> rw [hw] <;> omega

/-- The fields of a word of format SI. Of the immediate, the low six bits are a shift's amount. -/
structure SiFields (w : BitVec 32) (op d a i : Nat) : Prop where
  opcode : w.toNat / 2 ^ 26 = op
  dst : w.toNat / 2 ^ 20 % 2 ^ 6 = d
  pred : w.toNat / 2 ^ 20 % 2 ^ 4 = d % 2 ^ 4
  above : w.toNat / 2 ^ 24 % 2 ^ 2 = d / 2 ^ 4
  src : w.toNat / 2 ^ 14 % 2 ^ 6 = a
  imm : w.toNat / 2 ^ 0 % 2 ^ 14 = i
  amount : w.toNat / 2 ^ 0 % 2 ^ 6 = i % 2 ^ 6
  aboveAmount : w.toNat / 2 ^ 6 % 2 ^ 8 = i / 2 ^ 6

theorem siWord_fields {op d a i : Nat} (hop : op < 2 ^ 6) (hd : d < 2 ^ 6) (ha : a < 2 ^ 6) (hi : i < 2 ^ 14) :
    SiFields (siWord op d a i) op d a i := by
  have hw : (siWord op d a i).toNat = op * 2 ^ 26 + d * 2 ^ 20 + a * 2 ^ 14 + i := by
    rw [siWord, BitVec.toNat_ofNat, Nat.mod_eq_of_lt (by omega)]
  constructor <;> rw [hw] <;> omega

/-- The fields of a word of format VR. -/
structure VrFields (w : BitVec 32) (op d a b p x : Nat) : Prop where
  opcode : w.toNat / 2 ^ 26 = op
  dst : w.toNat / 2 ^ 19 % 2 ^ 7 = d
  srcA : w.toNat / 2 ^ 12 % 2 ^ 7 = a
  srcB : w.toNat / 2 ^ 5 % 2 ^ 7 = b
  guard : w.toNat / 2 ^ 1 % 2 ^ 4 = p
  ix : w.toNat / 2 ^ 0 % 2 ^ 1 = x

theorem vrWord_fields {op d a b p x : Nat} (hop : op < 2 ^ 6) (hd : d < 2 ^ 7) (ha : a < 2 ^ 7) (hb : b < 2 ^ 7) (hp : p < 2 ^ 4) (hx : x < 2 ^ 1) :
    VrFields (vrWord op d a b p x) op d a b p x := by
  have hw : (vrWord op d a b p x).toNat = op * 2 ^ 26 + d * 2 ^ 19 + a * 2 ^ 12 + b * 2 ^ 5 + p * 2 + x := by
    rw [vrWord, BitVec.toNat_ofNat, Nat.mod_eq_of_lt (by omega)]
  constructor <;> rw [hw] <;> omega

end Sys2Proof.Proofs

/-! The opcodes of SA and SB that the scalar operations have (02 R52). -/

namespace Sys2Proof.Proofs

open Sys2Proof Sys2Proof.Machine Sys2Proof.Rules

/-! ### The instruction that a word's fields make -/

/-- The instruction of a word of format SR with two source registers. -/
def srTerm (op : TwoReg) (w : BitVec 32) : Instr := op (fld w 20 6) (fld w 14 6) (fld w 8 6) (fld w 0 4)

/-- The instruction of a word of format SR with one source register. -/
def srTerm1 (op : OneReg) (w : BitVec 32) : Instr := op (fld w 20 6) (fld w 14 6) (fld w 0 4)

/-- The instruction of a word of format SR that compares two registers. -/
def srTermP (op : BitVec 4 → BitVec 6 → BitVec 6 → BitVec 4 → Instr) (w : BitVec 32) : Instr :=
  op (fld w 20 4) (fld w 14 6) (fld w 8 6) (fld w 0 4)

/-- The instruction of a word of format SI. -/
def siTerm (op : BitVec 6 → BitVec 6 → BitVec 14 → Instr) (w : BitVec 32) : Instr := op (fld w 20 6) (fld w 14 6) (fld w 0 14)

/-- The instruction of a word of format SI with a shift amount. -/
def siTermShift (op : BitVec 6 → BitVec 6 → BitVec 6 → Instr) (w : BitVec 32) : Instr := op (fld w 20 6) (fld w 14 6) (fld w 0 6)

/-- The instruction of a word of format SI that compares with an immediate. -/
def siTermP (op : BitVec 4 → BitVec 6 → BitVec 14 → Instr) (w : BitVec 32) : Instr := op (fld w 20 4) (fld w 14 6) (fld w 0 14)

section
variable {w : BitVec 32} {op fn : Nat} {d a b : BitVec 6} {k p : BitVec 4} {i : BitVec 14} {n : BitVec 6}

theorem SrFields.srTerm_eq (h : SrFields w op d.toNat a.toNat b.toNat fn p.toNat) (f : TwoReg) : srTerm f w = f d a b p := by
  rw [srTerm, fld_eq h.dst, fld_eq h.srcA, fld_eq h.srcB, fld_eq h.guard]

theorem SrFields.srTerm1_eq {b : Nat} (h : SrFields w op d.toNat a.toNat b fn p.toNat) (f : OneReg) : srTerm1 f w = f d a p := by
  rw [srTerm1, fld_eq h.dst, fld_eq h.srcA, fld_eq h.guard]

theorem SrFields.srTermP_eq (h : SrFields w op k.toNat a.toNat b.toNat fn p.toNat) (f : BitVec 4 → BitVec 6 → BitVec 6 → BitVec 4 → Instr) :
    srTermP f w = f k a b p := by
  rw [srTermP, fld_eq (h.pred.trans (Nat.mod_eq_of_lt k.isLt)), fld_eq h.srcA, fld_eq h.srcB, fld_eq h.guard]

theorem SiFields.siTerm_eq (h : SiFields w op d.toNat a.toNat i.toNat) (f : BitVec 6 → BitVec 6 → BitVec 14 → Instr) : siTerm f w = f d a i := by
  rw [siTerm, fld_eq h.dst, fld_eq h.src, fld_eq h.imm]

theorem SiFields.siTermShift_eq (h : SiFields w op d.toNat a.toNat n.toNat) (f : BitVec 6 → BitVec 6 → BitVec 6 → Instr) :
    siTermShift f w = f d a n := by
  rw [siTermShift, fld_eq h.dst, fld_eq h.src, fld_eq (h.amount.trans (Nat.mod_eq_of_lt n.isLt))]

theorem SiFields.siTermP_eq (h : SiFields w op k.toNat a.toNat i.toNat) (f : BitVec 4 → BitVec 6 → BitVec 14 → Instr) : siTermP f w = f k a i := by
  rw [siTermP, fld_eq (h.pred.trans (Nat.mod_eq_of_lt k.isLt)), fld_eq h.src, fld_eq h.imm]

end

/-! ### The rows -/

/-- What holds of both scalar slots. -/
theorem both_scalar {P : Slot → Prop} (ha : P .sa) (hb : P .sb) : ∀ sl ∈ [Slot.sa, Slot.sb], P sl :=
  List.forall_mem_cons.2 ⟨ha, List.forall_mem_singleton.2 hb⟩

theorem rows_op1 : RowsBySelector [.sa, .sb] 1 4 4 [] (twoReg.take 14) fun e => srTerm e.1 where
  opcode := by decide
  entries := by decide
  fixed := by decide
  build := both_scalar rfl rfl
  wellFormed := fun _ => rfl

theorem rows_op2 : RowsBySelector [.sa, .sb] 2 4 4 [] (twoReg.drop 14) fun e => srTerm e.1 where
  opcode := by decide
  entries := by decide
  fixed := by decide
  build := both_scalar rfl rfl
  wellFormed := fun _ => rfl

theorem rows_op4 : RowsBySelector [.sa, .sb] 4 4 10 [] oneReg fun e => srTerm1 e.1 where
  opcode := by decide
  entries := by decide
  fixed := by decide
  build := both_scalar rfl rfl
  wellFormed := fun _ => rfl

theorem rows_op5 : RowsBySelector [.sa, .sb] 5 4 4 [(24, 2, 0)] compares fun e => srTermP e.1 where
  opcode := by decide
  entries := by decide
  fixed := by decide
  build := both_scalar rfl rfl
  wellFormed := fun _ => rfl

theorem row_op6 : OneRow [.sa, .sb] 6 [] fun w => .sel (fld w 20 6) (fld w 14 6) (fld w 8 6) (fld w 4 4) (fld w 0 4) where
  opcode := by decide
  rows := both_scalar ⟨rfl, rfl⟩ ⟨rfl, rfl⟩
  wellFormed := fun _ => rfl

/-- The opcodes from 0x08 have one row each, in the order of the table. -/
theorem row_withImm : ∀ n e, withImm[n]? = some e → OneRow [.sa, .sb] (8 + n) [] (siTerm e.1)
  | 0, _, rfl => ⟨by decide, both_scalar ⟨rfl, rfl⟩ ⟨rfl, rfl⟩, fun _ => rfl⟩
  | 1, _, rfl => ⟨by decide, both_scalar ⟨rfl, rfl⟩ ⟨rfl, rfl⟩, fun _ => rfl⟩
  | 2, _, rfl => ⟨by decide, both_scalar ⟨rfl, rfl⟩ ⟨rfl, rfl⟩, fun _ => rfl⟩
  | 3, _, rfl => ⟨by decide, both_scalar ⟨rfl, rfl⟩ ⟨rfl, rfl⟩, fun _ => rfl⟩

/-- The opcodes from 0x0C have one row each, in the order of the table; the bits above the amount are 0. -/
theorem row_shiftImm : ∀ n e, shiftImm[n]? = some e → OneRow [.sa, .sb] (0x0C + n) [(6, 8, 0)] (siTermShift e.1)
  | 0, _, rfl => ⟨by decide, both_scalar ⟨rfl, rfl⟩ ⟨rfl, rfl⟩, fun _ => rfl⟩
  | 1, _, rfl => ⟨by decide, both_scalar ⟨rfl, rfl⟩ ⟨rfl, rfl⟩, fun _ => rfl⟩
  | 2, _, rfl => ⟨by decide, both_scalar ⟨rfl, rfl⟩ ⟨rfl, rfl⟩, fun _ => rfl⟩

/-- The opcodes from 0x0F have one row each, in the order of the table; bits [5:4] of the predicate field are 0. -/
theorem row_comparesImm : ∀ n e, comparesImm[n]? = some e → OneRow [.sa, .sb] (0x0F + n) [(24, 2, 0)] (siTermP e.1)
  | 0, _, rfl => ⟨by decide, both_scalar ⟨rfl, rfl⟩ ⟨rfl, rfl⟩, fun _ => rfl⟩
  | 1, _, rfl => ⟨by decide, both_scalar ⟨rfl, rfl⟩ ⟨rfl, rfl⟩, fun _ => rfl⟩
  | 2, _, rfl => ⟨by decide, both_scalar ⟨rfl, rfl⟩ ⟨rfl, rfl⟩, fun _ => rfl⟩

end Sys2Proof.Proofs

/-! The values of the scalar operations in integers (04 R105-R113). -/

namespace Sys2Proof.Proofs

open Sys2Proof Sys2Proof.Machine Sys2Proof.Rules

/-! ### Integers modulo 2^64 -/

/-- The integer that a register holds, unsigned, is that register modulo 2^64. -/
@[simp] theorem ofInt_toNat (v : W64) : BitVec.ofInt 64 (v.toNat : Int) = v := by
  rw [BitVec.ofInt_natCast, BitVec.ofNat_toNat, BitVec.setWidth_eq]

theorem ofInt_of_toNat {v : W64} {n : Nat} (h : v.toNat = n) : BitVec.ofInt 64 (n : Int) = v := h ▸ ofInt_toNat v

theorem ofInt_of_toInt {v : W64} {z : Int} (h : v.toInt = z) : BitVec.ofInt 64 z = v := h ▸ BitVec.ofInt_toInt

theorem ofInt_add_toNat (x y : W64) : BitVec.ofInt 64 (x.toNat + y.toNat) = x + y := by
  rw [BitVec.ofInt_add, ofInt_toNat, ofInt_toNat]

theorem ofInt_sub_toNat (x y : W64) : BitVec.ofInt 64 ((x.toNat : Int) - y.toNat) = x - y := by
  rw [Int.sub_eq_add_neg, BitVec.ofInt_add, BitVec.ofInt_neg, ofInt_toNat, ofInt_toNat, BitVec.sub_eq_add_neg]

theorem ofInt_andn (x y : W64) : BitVec.ofInt 64 (x.toNat &&& (2 ^ 64 - 1 - y.toNat) : Nat) = x &&& ~~~ y :=
  ofInt_of_toNat (by rw [BitVec.toNat_and, BitVec.toNat_not])

theorem ofNat_mul_pow (x : W64) (n : Nat) : BitVec.ofNat 64 (x.toNat * 2 ^ n) = x <<< n :=
  BitVec.eq_of_toNat_eq (by rw [BitVec.toNat_shiftLeft, BitVec.toNat_ofNat, Nat.shiftLeft_eq])

theorem ofInt_shl (x : W64) (n : Nat) : BitVec.ofInt 64 (x.toNat * 2 ^ n : Nat) = x <<< n := by
  rw [BitVec.ofInt_natCast, ofNat_mul_pow]

theorem ofInt_shr (x : W64) (n : Nat) : BitVec.ofInt 64 (x.toNat / 2 ^ n : Nat) = x >>> n :=
  ofInt_of_toNat (by rw [BitVec.toNat_ushiftRight, Nat.shiftRight_eq_div_pow])

theorem ofInt_sar (x : W64) (n : Nat) : BitVec.ofInt 64 (x.toInt / 2 ^ n) = x.sshiftRight n :=
  ofInt_of_toInt (by rw [BitVec.toInt_sshiftRight, Int.shiftRight_eq_div_pow]; norm_cast)

/-- The two parts of a rotation share no bit. -/
theorem shl_and_shr (x : W64) {k : Nat} (hk : k < 64) : x <<< k &&& x >>> (64 - k) = 0#64 := by
  ext i hi
  by_cases h : i < k
  · simp [h]
  · have hout : x.getLsbD (64 - k + i) = false := BitVec.getLsbD_of_ge _ _ (by omega)
    simp [hout]

/-- ROL as a sum: what leaves at the top comes in at the bottom. -/
theorem ofInt_rol (x : W64) {k : Nat} (hk : k < 64) : BitVec.ofInt 64 (x.toNat * 2 ^ k + x.toNat / 2 ^ (64 - k) : Nat) = x.rotateLeft k := by
  rw [Nat.cast_add, BitVec.ofInt_add, ofInt_shl, ofInt_shr, BitVec.add_eq_or_of_and_eq_zero _ _ (shl_and_shr x hk), BitVec.rotateLeft_def,
    Nat.mod_eq_of_lt hk]

theorem ofInt_min (x y : W64) : BitVec.ofInt 64 (min x.toInt y.toInt) = if y.slt x then y else x := by
  refine ofInt_of_toInt ?_
  simp only [apply_ite BitVec.toInt, BitVec.slt_iff_toInt_lt]
  split <;> omega

theorem ofInt_max (x y : W64) : BitVec.ofInt 64 (max x.toInt y.toInt) = if x.slt y then y else x := by
  refine ofInt_of_toInt ?_
  simp only [apply_ite BitVec.toInt, BitVec.slt_iff_toInt_lt]
  split <;> omega

theorem ofInt_minu (x y : W64) : BitVec.ofInt 64 (min x.toNat y.toNat : Nat) = if y.ult x then y else x := by
  refine ofInt_of_toNat ?_
  simp only [apply_ite BitVec.toNat, BitVec.ult_iff_toNat_lt]
  split <;> omega

theorem ofInt_maxu (x y : W64) : BitVec.ofInt 64 (max x.toNat y.toNat : Nat) = if x.ult y then y else x := by
  refine ofInt_of_toNat ?_
  simp only [apply_ite BitVec.toNat, BitVec.ult_iff_toNat_lt]
  split <;> omega

theorem ofInt_mul_toInt (x y : W64) : BitVec.ofInt 64 (x.toInt * y.toInt) = x * y := by
  rw [BitVec.ofInt_mul, BitVec.ofInt_toInt, BitVec.ofInt_toInt]

/-! ### Immediates -/

/-- A sign-extended immediate, unsigned. -/
theorem toNat_imm64 {k : Nat} (i : BitVec k) : (imm64 i).toNat = (i.toInt % 2 ^ 64).toNat := BitVec.toNat_ofInt _

/-- A sign-extended immediate, signed. -/
theorem toInt_imm64 (i : BitVec 14) : (imm64 i).toInt = i.toInt := BitVec.toInt_signExtend_of_le (by decide)

theorem ofInt_addi (x : W64) (i : BitVec 14) : BitVec.ofInt 64 (x.toNat + i.toInt) = x + imm64 i := by
  rw [BitVec.ofInt_add, ofInt_toNat]; rfl

/-! ### Bit counts and extensions (04 R108) -/

theorem clz64_spec (x : W64) : let n := (clz64 x).toNat
    n ≤ 64 ∧ x.toNat < 2 ^ (64 - n) ∧ (n = 64 ∨ 2 ^ (63 - n) ≤ x.toNat) := by
  by_cases hx : x = 0
  · subst hx; decide
  · have hne : x.toNat ≠ 0 := fun h => hx (BitVec.eq_of_toNat_eq h)
    have htop : Nat.log2 x.toNat < 64 := (Nat.log2_lt hne).2 x.isLt
    have hn : (clz64 x).toNat = 63 - Nat.log2 x.toNat := by
      rw [clz64, if_neg hx, BitVec.toNat_ofNat, Nat.mod_eq_of_lt (by omega)]
    have hlo : 63 - (63 - Nat.log2 x.toNat) = Nat.log2 x.toNat := by omega
    have hhi : 64 - (63 - Nat.log2 x.toNat) = Nat.log2 x.toNat + 1 := by omega
    simp only [hn, hlo, hhi]
    exact ⟨by omega, Nat.lt_log2_self, .inr (Nat.log2_self_le hne)⟩

/-- Where the run of zero bits from bit 0 ends: below it every bit is 0, and the bit there, if there is one, is 1. -/
theorem zeros_below (x : W64) : let n := ((List.range 64).takeWhile fun i => !x.getLsbD i).length
    n ≤ 64 ∧ (∀ i < n, x.getLsbD i = false) ∧ (n = 64 ∨ x.getLsbD n = true) := by
  have hlen : ((List.range 64).takeWhile fun i => !x.getLsbD i).length = (List.range 64).findIdx x.getLsbD := by
    rw [List.takeWhile_eq_take_findIdx_not, List.length_take, Nat.min_eq_left List.findIdx_le_length]
    simp only [Bool.not_not]
  have hle : (List.range 64).findIdx x.getLsbD ≤ 64 := by simpa using List.findIdx_le_length (p := x.getLsbD) (xs := List.range 64)
  simp only [hlen]
  refine ⟨hle, fun i hi => ?_, ?_⟩
  · simpa using List.not_of_lt_findIdx hi
  · rcases Nat.lt_or_eq_of_le hle with hlt | heq
    · have hbit := List.findIdx_getElem (p := x.getLsbD) (xs := List.range 64) (w := by simpa using hlt)
      rw [List.getElem_range] at hbit
      exact .inr hbit
    · exact .inl heq

theorem ctz64_spec (x : W64) : let n := (ctz64 x).toNat
    n ≤ 64 ∧ x.toNat % 2 ^ n = 0 ∧ (n = 64 ∨ x.toNat / 2 ^ n % 2 = 1) := by
  obtain ⟨hle, hzero, hone⟩ := zeros_below x
  have hn : (ctz64 x).toNat = ((List.range 64).takeWhile fun i => !x.getLsbD i).length := by
    rw [ctz64, BitVec.toNat_ofNat, Nat.mod_eq_of_lt (by omega)]
  rw [← hn] at hle hzero hone
  refine ⟨hle, Nat.eq_of_testBit_eq fun i => ?_, hone.imp_right fun h => ?_⟩
  · rw [Nat.testBit_mod_two_pow, Nat.zero_testBit]
    by_cases hi : i < (ctz64 x).toNat
    · rw [BitVec.testBit_toNat, hzero i hi, Bool.and_false]
    · rw [decide_eq_false hi, Bool.false_and]
  · rw [← BitVec.testBit_toNat, Nat.testBit_eq_decide_div_mod_eq] at h
    exact of_decide_eq_true h

/-- A count of bits is the sum of the bits. -/
theorem length_filter_bits (x : W64) (l : List Nat) :
    (l.filter fun i => x.getLsbD i).length = (l.map fun i => x.toNat / 2 ^ i % 2).sum := by
  induction l with
  | nil => rfl
  | cons i l ih =>
    rw [List.map_cons, List.sum_cons, ← ih, List.filter_cons, ← BitVec.testBit_toNat, Nat.testBit_eq_decide_div_mod_eq]
    rcases Nat.mod_two_eq_zero_or_one (x.toNat / 2 ^ i) with h | h <;> simp [h, Nat.add_comm]

theorem popc64_spec (x : W64) : (popc64 x).toNat = ((List.range 64).map fun i => x.toNat / 2 ^ i % 2).sum := by
  have hle : ((List.range 64).filter fun i => x.getLsbD i).length ≤ 64 := by
    simpa using List.length_filter_le (fun i => x.getLsbD i) (List.range 64)
  rw [popc64, BitVec.toNat_ofNat, Nat.mod_eq_of_lt (by omega), length_filter_bits]

theorem sextLow_spec (w : Nat) (x : W64) : ((sextLow w x).toNat : Int) = (BitVec.ofNat w x.toNat).toInt % 2 ^ 64 := by
  rw [sextLow, BitVec.ofNat_toNat]
  exact (congrArg Nat.cast (BitVec.toNat_ofInt _)).trans (Int.toNat_of_nonneg (Int.emod_nonneg _ (by decide)))

theorem zextLow_spec {w : Nat} (hw : w ≤ 64) (x : W64) : (zextLow w x).toNat = x.toNat % 2 ^ w := by
  have hlt : x.toNat % 2 ^ w < 2 ^ 64 := (Nat.mod_lt _ (Nat.two_pow_pos w)).trans_le (Nat.pow_le_pow_right (by decide) hw)
  rw [zextLow, BitVec.toNat_setWidth, BitVec.toNat_setWidth, Nat.mod_eq_of_lt hlt]

/-! ### MOVI and MOVK (04 R113) -/

theorem ofInt_movi (h : BitVec 2) (i : BitVec 16) : BitVec.ofInt 64 (i.toNat * 2 ^ (16 * h.toNat)) = i.setWidth 64 <<< (16 * h.toNat) := by
  have hi : i.toNat = (i.setWidth 64).toNat := by rw [BitVec.toNat_setWidth, Nat.mod_eq_of_lt (by omega)]
  rw [hi, ← ofInt_shl]
  norm_cast

theorem getLsbD_halfword (j : Nat) : (0xFFFF : W64).getLsbD j = decide (j < 16) := by
  have hones : (0xFFFF : W64) = (BitVec.allOnes 16).setWidth 64 := by decide
  rw [hones, BitVec.getLsbD_setWidth, BitVec.getLsbD_allOnes]
  by_cases h : j < 16 <;> simp [h]
  omega

/-- The bits of MOVK's result: sixteen of the immediate, the others of the register. -/
theorem getLsbD_movk (x : W64) (i : BitVec 16) (k : Nat) {n : Nat} (hn : n < 64) :
    ((x &&& ~~~ ((0xFFFF : W64) <<< k)) ||| (i.setWidth 64 <<< k)).getLsbD n =
      if k ≤ n ∧ n < k + 16 then i.getLsbD (n - k) else x.getLsbD n := by
  simp only [BitVec.getLsbD_or, BitVec.getLsbD_and, BitVec.getLsbD_not, BitVec.getLsbD_shiftLeft, BitVec.getLsbD_setWidth, getLsbD_halfword]
  rcases Nat.lt_or_ge n k with hlo | hlo
  · simp [hn, hlo, Nat.not_le.2 hlo]
  rcases Nat.lt_or_ge n (k + 16) with hhi | hhi
  · have hin : n - k < 16 := by omega
    have hword : n - k < 64 := by omega
    simp [hn, hlo, hhi, hin, hword, Nat.not_lt.2 hlo]
  · have hout : ¬ n - k < 16 := by omega
    have hzero : i.getLsbD (n - k) = false := BitVec.getLsbD_of_ge _ _ (by omega)
    simp [hn, hlo, hout, hzero, Nat.not_lt.2 hhi]

/-! ### Compares (04 R104) -/

/-- The predicate that a compare writes is decided by its condition. -/
theorem decides_allOnes {c : Prop} {b : Bool} (h : b = true ↔ c) : Decides c ((allOnes b).setWidth 512) := by
  cases b with
  | true => exact ⟨fun _ => by simp [allOnes], fun hc => absurd (h.1 rfl) hc⟩
  | false => exact ⟨fun hc => absurd (h.2 hc) Bool.false_ne_true, fun _ => BitVec.setWidth_zero ..⟩

end Sys2Proof.Proofs

/-! What a scalar instruction comes to: its one result, under its guard (04 R102-R113). -/

namespace Sys2Proof.Proofs

open Sys2Proof Sys2Proof.Machine Sys2Proof.Rules

/-! ### A word with one result under a guard -/

/-- A word whose one result stands under a guard, and that raises no flag. -/
theorem runSlot_guarded (s : State) (sh : Shape) (p : BitVec 4) (r : Res) (h : s.clear sh = true) (ho : 1 ≤ r.off) (he : s.now.isEmpty r.dst = false) :
    ∃ t, s.runSlot sh (.go (if s.now.bit0 p then [.wr r.dst r.off r.val r.mask] else [])) = .next t ∧ s.Gives t (guarded s.now p r) 0 := by
  have hguard : guarded s.now p r = if s.now.bit0 p then some r else none := rfl
  rw [hguard]
  cases s.now.bit0 p with
  | true => exact runSlot_result s sh r 0 h ho he
  | false => exact runSlot_nothing s sh 0 h

section
variable {s : State} {d a b : BitVec 6} {k p : BitVec 4}

theorem scalar2_gives {off : Nat} {f : W64 → W64 → W64} {z : Int} (h : s.clear { sr := [a.toNat, b.toNat], sw := [d.toNat] } = true) (ho : 1 ≤ off)
    (hz : BitVec.ofInt 64 z = f (s.now.rs a) (s.now.rs b)) :
    ∃ t, s.scalar2 d a b p off f = .next t ∧ s.Gives t (guarded s.now p (reg64 d off z)) 0 := by
  rw [reg64_eq d off _ z hz]
  exact runSlot_guarded s _ p { dst := .s d.toNat, off := off, val := (f (s.now.rs a) (s.now.rs b)).setWidth 512 } h ho
    (isEmpty_of_clear s _ _ h (List.mem_singleton_self _))

theorem scalar1_gives {f : W64 → W64} {z : Int} (h : s.clear { sr := [a.toNat], sw := [d.toNat] } = true) (hz : BitVec.ofInt 64 z = f (s.now.rs a)) :
    ∃ t, s.scalar1 d a p f = .next t ∧ s.Gives t (guarded s.now p (reg64 d 1 z)) 0 := by
  rw [reg64_eq d 1 _ z hz]
  exact runSlot_guarded s _ p { dst := .s d.toNat, off := 1, val := (f (s.now.rs a)).setWidth 512 } h (Nat.le_refl 1)
    (isEmpty_of_clear s _ _ h (List.mem_singleton_self _))

/-- A word with one scalar result and no guard. -/
theorem runSlot_scalar {sh : Shape} {v : W64} {z : Int} (h : s.clear sh = true) (hd : d.toNat ∈ sh.sw) (hz : BitVec.ofInt 64 z = v) :
    ∃ t, s.runSlot sh (.go [resS d.toNat 1 v]) = .next t ∧ s.Gives t (some (reg64 d 1 z)) 0 := by
  rw [reg64_eq d 1 _ z hz]
  exact runSlot_result s sh { dst := .s d.toNat, off := 1, val := v.setWidth 512 } 0 h (Nat.le_refl 1) (isEmpty_of_clear s _ _ h hd)

theorem scalarI_gives {f : W64 → W64} {z : Int} (h : s.clear { sr := [a.toNat], sw := [d.toNat] } = true) (hz : BitVec.ofInt 64 z = f (s.now.rs a)) :
    ∃ t, s.scalarI d a f = .next t ∧ s.Gives t (some (reg64 d 1 z)) 0 :=
  runSlot_scalar h (List.mem_singleton_self _) hz

theorem compare2_gives {f : W64 → W64 → Bool} (h : s.clear { sr := [a.toNat, b.toNat], pw := [k.toNat] } = true) :
    ∃ t, s.compare2 k a b p f = .next t ∧ s.Gives t
      (guarded s.now p { dst := .p k.toNat, off := 1, val := (allOnes (f (s.now.rs a) (s.now.rs b))).setWidth 512 }) 0 :=
  runSlot_guarded s _ p { dst := .p k.toNat, off := 1, val := (allOnes (f (s.now.rs a) (s.now.rs b))).setWidth 512 } h (Nat.le_refl 1) rfl

theorem compareI_gives {f : W64 → Bool} (h : s.clear { sr := [a.toNat], pw := [k.toNat] } = true) :
    ∃ t, s.compareI k a f = .next t ∧
      s.Gives t (some { dst := .p k.toNat, off := 1, val := (allOnes (f (s.now.rs a))).setWidth 512 }) 0 :=
  runSlot_result s _ { dst := .p k.toNat, off := 1, val := (allOnes (f (s.now.rs a))).setWidth 512 } 0 h (Nat.le_refl 1) rfl

end

/-! ### The tables' functions are the model's -/

/-- The model runs an instruction as a two-register operation, with a word function that the integer function gives modulo 2^64. -/
def RunsScalar2 (op : TwoReg) (off : Nat) (f : W64 → W64 → Int) : Prop :=
  ∃ g, (∀ d a b p s, exec (op d a b p) s = s.scalar2 d a b p off g) ∧ 1 ≤ off ∧ ∀ x y, BitVec.ofInt 64 (f x y) = g x y

theorem runsScalar2_of_mem : ∀ e ∈ twoReg, RunsScalar2 e.1 e.2.1 e.2.2 := by
  have hamt : ∀ y : W64, y.toNat % 64 < 64 := fun y => Nat.mod_lt _ (by decide)
  simp only [twoReg, List.forall_mem_cons, List.not_mem_nil, false_implies, implies_true, and_true]
  exact ⟨⟨_, exec_add, by decide, ofInt_add_toNat⟩,
    ⟨_, exec_sub, by decide, ofInt_sub_toNat⟩,
    ⟨_, exec_and, by decide, fun _ _ => ofInt_of_toNat (BitVec.toNat_and ..)⟩,
    ⟨_, exec_or, by decide, fun _ _ => ofInt_of_toNat (BitVec.toNat_or ..)⟩,
    ⟨_, exec_xor, by decide, fun _ _ => ofInt_of_toNat (BitVec.toNat_xor ..)⟩,
    ⟨_, exec_andn, by decide, ofInt_andn⟩,
    ⟨_, exec_shl, by decide, fun x _ => ofInt_shl x _⟩,
    ⟨_, exec_shr, by decide, fun x _ => ofInt_shr x _⟩,
    ⟨_, exec_sar, by decide, fun x _ => ofInt_sar x _⟩,
    ⟨_, exec_rol, by decide, fun x y => ofInt_rol x (hamt y)⟩,
    ⟨_, exec_min, by decide, ofInt_min⟩,
    ⟨_, exec_max, by decide, ofInt_max⟩,
    ⟨_, exec_minu, by decide, ofInt_minu⟩,
    ⟨_, exec_maxu, by decide, ofInt_maxu⟩,
    ⟨_, exec_mul, by decide, ofInt_mul_toInt⟩,
    ⟨_, exec_mulh, by decide, fun _ _ => rfl⟩,
    ⟨_, exec_mulhu, by decide, fun _ _ => BitVec.ofInt_natCast ..⟩⟩

/-- The model runs an instruction as a one-register operation, whose result has the table's property. -/
def RunsScalar1 (op : OneReg) (f : W64 → Nat → Prop) : Prop :=
  ∃ g, (∀ d a p s, exec (op d a p) s = s.scalar1 d a p g) ∧ ∀ x, f x (g x).toNat

theorem runsScalar1_of_mem : ∀ e ∈ oneReg, RunsScalar1 e.1 e.2 := by
  simp only [oneReg, List.forall_mem_cons, List.not_mem_nil, false_implies, implies_true, and_true]
  exact ⟨⟨_, exec_clz, clz64_spec⟩, ⟨_, exec_ctz, ctz64_spec⟩, ⟨_, exec_popc, popc64_spec⟩,
    ⟨_, exec_sxb, sextLow_spec 8⟩, ⟨_, exec_sxh, sextLow_spec 16⟩, ⟨_, exec_sxw, sextLow_spec 32⟩,
    ⟨_, exec_zxb, zextLow_spec (by decide)⟩, ⟨_, exec_zxh, zextLow_spec (by decide)⟩, ⟨_, exec_zxw, zextLow_spec (by decide)⟩⟩

/-- The model runs an instruction with an immediate as the word function that the integer function gives modulo 2^64. -/
def RunsScalarI {k : Nat} (op : BitVec 6 → BitVec 6 → BitVec k → Instr) (f : W64 → BitVec k → Int) : Prop :=
  ∃ g : BitVec k → W64 → W64, (∀ d a i s, exec (op d a i) s = s.scalarI d a (g i)) ∧ ∀ x i, BitVec.ofInt 64 (f x i) = g i x

theorem runsScalarI_of_mem_withImm : ∀ e ∈ withImm, RunsScalarI e.1 fun x i => e.2 x i.toInt := by
  simp only [withImm, List.forall_mem_cons, List.not_mem_nil, false_implies, implies_true, and_true]
  exact ⟨⟨_, exec_addi, ofInt_addi⟩,
    ⟨_, exec_andi, fun x i => ofInt_of_toNat (by rw [BitVec.toNat_and, toNat_imm64])⟩,
    ⟨_, exec_ori, fun x i => ofInt_of_toNat (by rw [BitVec.toNat_or, toNat_imm64])⟩,
    ⟨_, exec_xori, fun x i => ofInt_of_toNat (by rw [BitVec.toNat_xor, toNat_imm64])⟩⟩

theorem runsScalarI_of_mem_shiftImm : ∀ e ∈ shiftImm, RunsScalarI e.1 fun x i => e.2 x i.toNat := by
  simp only [shiftImm, List.forall_mem_cons, List.not_mem_nil, false_implies, implies_true, and_true]
  exact ⟨⟨_, exec_shli, fun x _ => ofInt_shl x _⟩, ⟨_, exec_shri, fun x _ => ofInt_shr x _⟩, ⟨_, exec_sari, fun x _ => ofInt_sar x _⟩⟩

/-- The model runs an instruction as a compare of two registers under the table's condition. -/
def RunsCompare2 (op : BitVec 4 → BitVec 6 → BitVec 6 → BitVec 4 → Instr) (c : W64 → W64 → Prop) : Prop :=
  ∃ g, (∀ k a b p s, exec (op k a b p) s = s.compare2 k a b p g) ∧ ∀ x y, g x y = true ↔ c x y

theorem runsCompare2_of_mem : ∀ e ∈ compares, RunsCompare2 e.1 e.2 := by
  simp only [compares, List.forall_mem_cons, List.not_mem_nil, false_implies, implies_true, and_true]
  exact ⟨⟨_, exec_cmpEq, fun _ _ => beq_iff_eq.trans BitVec.toNat_inj.symm⟩,
    ⟨_, exec_cmpNe, fun _ _ => bne_iff_ne.trans BitVec.toNat_inj.not.symm⟩,
    ⟨_, exec_cmpLt, fun _ _ => BitVec.slt_iff_toInt_lt⟩,
    ⟨_, exec_cmpLe, fun _ _ => BitVec.sle_iff_toInt_le⟩,
    ⟨_, exec_cmpLtu, fun _ _ => BitVec.ult_iff_toNat_lt⟩,
    ⟨_, exec_cmpLeu, fun _ _ => BitVec.ule_iff_toNat_le⟩⟩

/-- The model runs an instruction as a compare with an immediate under the table's condition. -/
def RunsCompareI (op : BitVec 4 → BitVec 6 → BitVec 14 → Instr) (c : W64 → Int → Prop) : Prop :=
  ∃ g : BitVec 14 → W64 → Bool, (∀ k a i s, exec (op k a i) s = s.compareI k a (g i)) ∧ ∀ x i, g i x = true ↔ c x i.toInt

theorem runsCompareI_of_mem : ∀ e ∈ comparesImm, RunsCompareI e.1 e.2 := by
  have himm : ∀ i : BitVec 14, ((imm64 i).toNat : Int) = i.toInt % 2 ^ 64 := fun i => by
    rw [toNat_imm64, Int.toNat_of_nonneg (Int.emod_nonneg _ (by decide))]
  simp only [comparesImm, List.forall_mem_cons, List.not_mem_nil, false_implies, implies_true, and_true]
  refine ⟨⟨_, exec_cmpeqi, fun x i => ?_⟩, ⟨_, exec_cmplti, fun x i => ?_⟩, ⟨_, exec_cmpltui, fun x i => ?_⟩⟩ <;> dsimp only
  · rw [beq_iff_eq, ← himm, Int.natCast_inj, BitVec.toNat_inj]
  · rw [BitVec.slt_iff_toInt_lt, toInt_imm64]
  · rw [BitVec.ult_iff_toNat_lt, ← himm, Int.ofNat_lt]

end Sys2Proof.Proofs

/-! The scalar instructions (04 R105-R113). -/

namespace Sys2Proof.Proofs

open Sys2Proof Sys2Proof.Machine Sys2Proof.Rules

/-- Settles O1: the rows of an opcode are told apart by fn in the table's order, and each instruction is a two-register operation whose word
function the table gives in integers. -/
theorem twoRegisterOpsWriteTheirResult : Obligations.TwoRegisterOpsWriteTheirResult := by
  refine ⟨fun op off f hmem s d a b p h => ?_, fun n op off f hn d a b p => ?_, fun d a b p fn => ⟨fun hfn => ?_, fun hfn => ?_⟩⟩
  · obtain ⟨g, hexec, hoff, hval⟩ := runsScalar2_of_mem _ hmem
    rw [Runs, hexec]
    exact scalar2_gives h hoff (hval _ _)
  · have hlt : n < 17 := (List.getElem?_eq_some_iff.1 hn).1
    by_cases h14 : n < 14
    · rw [if_pos h14, if_pos h14]
      have hw := srWord_fields (op := 1) (by decide) d.isLt a.isLt b.isLt (h14.trans (by decide)) p.isLt
      exact rows_op1.reads hw.opcode hw.selector rfl ((List.getElem?_take_of_lt h14).trans hn) (hw.srTerm_eq op)
    · rw [if_neg h14, if_neg h14]
      have hw := srWord_fields (op := 2) (fn := n - 14) (by decide) d.isLt a.isLt b.isLt (by omega) p.isLt
      have hentry : (twoReg.drop 14)[n - 14]? = some (op, off, f) := by
        rw [List.getElem?_drop, Nat.add_sub_cancel' (Nat.not_lt.1 h14), hn]
      exact rows_op2.reads hw.opcode hw.selector rfl hentry (hw.srTerm_eq op)
  · have hw := srWord_fields (op := 1) (by decide) d.isLt a.isLt b.isLt fn.isLt p.isLt
    exact rows_op1.refuses hw.opcode hw.selector (.inl hfn)
  · have hw := srWord_fields (op := 2) (by decide) d.isLt a.isLt b.isLt fn.isLt p.isLt
    exact rows_op2.refuses hw.opcode hw.selector (.inl hfn)

/-- Settles O2: a count or an extension has the property that defines it, and the rows are told apart by sb and fn together. -/
theorem bitCountsAndExtensions : Obligations.BitCountsAndExtensions := by
  refine ⟨fun op f hmem s d a p h => ?_, fun n op f hn d a p => ?_, fun d a b p fn hbad => ?_⟩
  · obtain ⟨g, hexec, hval⟩ := runsScalar1_of_mem _ hmem
    refine ⟨(g (s.now.rs a)).toNat, hval _, ?_⟩
    rw [Runs, hexec]
    exact scalar1_gives h (ofInt_toNat _)
  · have hlt : n < 9 := (List.getElem?_eq_some_iff.1 hn).1
    have hw := srWord_fields (op := 4) (b := 0) (fn := n) (by decide) d.isLt a.isLt (by decide) (by omega) p.isLt
    exact rows_op4.reads hw.opcode (hw.selector10.trans (by omega)) rfl hn (hw.srTerm1_eq op)
  · have hw := srWord_fields (op := 4) (by decide) d.isLt a.isLt b.isLt fn.isLt p.isLt
    refine rows_op4.refuses hw.opcode hw.selector10 (.inl ?_)
    show 9 ≤ b.toNat * 2 ^ 4 + fn.toNat
    rcases hbad with hfn | hb
    · omega
    · have hpos : b.toNat ≠ 0 := fun h0 => hb (BitVec.eq_of_toNat_eq h0)
      omega

/-- Settles O3: SEL's selector only chooses which register is written; its guard is that of any two-register operation. -/
theorem selChoosesByPredicate : Obligations.SelChoosesByPredicate := by
  refine ⟨fun s d a b k p h => ?_, fun d a b k p => ?_⟩
  · rw [Runs, exec_sel]
    refine scalar2_gives h (Nat.le_refl 1) ?_
    show BitVec.ofInt 64 (if s.now.bit0 k then _ else _) = if s.now.bit0 k then _ else _
    cases s.now.bit0 k <;> exact ofInt_toNat _
  · have hw := srWord_fields (op := 6) (by decide) d.isLt a.isLt b.isLt k.isLt p.isLt
    exact row_op6.reads hw.opcode rfl (by rw [fld_eq hw.dst, fld_eq hw.srcA, fld_eq hw.srcB, fld_eq hw.selector, fld_eq hw.guard])

/-- Settles O4: the opcodes follow the tables, each instruction is an unguarded operation whose word function the table gives in integers, and
MOVK's result is known bit by bit. -/
theorem immediateOpsWriteTheirResult : Obligations.ImmediateOpsWriteTheirResult := by
  refine ⟨fun n op f hn d a i => ?_, fun n op f hn d a i => ?_, fun n hn d a i hi => ?_, fun op f hmem s d a i h => ?_,
    fun op f hmem s d a i h => ?_, fun s d h i hc => ?_, fun s d h i hc => ?_⟩
  · have hlt : n < 4 := (List.getElem?_eq_some_iff.1 hn).1
    have hw := siWord_fields (op := 8 + n) (by omega) d.isLt a.isLt i.isLt
    exact (row_withImm n _ hn).reads hw.opcode rfl (hw.siTerm_eq op)
  · have hlt : n < 3 := (List.getElem?_eq_some_iff.1 hn).1
    have hw := siWord_fields (op := 0x0C + n) (i := i.toNat) (by omega) d.isLt a.isLt (i.isLt.trans (by decide))
    exact (row_shiftImm n _ hn).reads hw.opcode
      (by rw [fixedFit_one, hw.aboveAmount, decide_eq_true_eq, Nat.div_eq_of_lt i.isLt]) (hw.siTermShift_eq op)
  · have hw := siWord_fields (op := 0x0C + n) (by omega) d.isLt a.isLt i.isLt
    exact (row_shiftImm n _ (List.getElem?_eq_getElem hn)).refuses hw.opcode
      (by rw [fixedFit_one, hw.aboveAmount, decide_eq_false_iff_not]; omega)
  · obtain ⟨g, hexec, hval⟩ := runsScalarI_of_mem_withImm _ hmem
    rw [Runs, hexec]
    exact scalarI_gives h (hval _ _)
  · obtain ⟨g, hexec, hval⟩ := runsScalarI_of_mem_shiftImm _ hmem
    rw [Runs, hexec]
    exact scalarI_gives h (hval _ _)
  · rw [Runs, exec_movi]
    exact runSlot_scalar hc (List.mem_singleton_self _) (ofInt_movi h i)
  · obtain ⟨t, hrun, hgives⟩ := runSlot_scalar hc (List.mem_singleton_self _) (ofInt_toNat
      ((s.now.rs d &&& ~~~ ((0xFFFF : W64) <<< (16 * h.toNat))) ||| (i.setWidth 64 <<< (16 * h.toNat))))
    exact ⟨t, hrun, _, hgives, fun n hn => getLsbD_movk _ i _ hn⟩

/-- Settles O5: a compare writes all ones or all zeros as its condition decides, and the rows are told apart by fn, or by the opcode. -/
theorem comparesWriteWholePredicate : Obligations.ComparesWriteWholePredicate := by
  refine ⟨fun n op c hn k a b p => ?_, fun d a b p fn hbad => ?_, fun n op c hn k a i => ?_, fun n hn d a i hd => ?_,
    fun op c hmem s k a b p h => ?_, fun op c hmem s k a i h => ?_⟩
  · have hlt : n < 6 := (List.getElem?_eq_some_iff.1 hn).1
    have hw := srWord_fields (op := 5) (d := k.toNat) (fn := n) (by decide) (k.isLt.trans (by decide)) a.isLt b.isLt (by omega) p.isLt
    exact rows_op5.reads hw.opcode hw.selector (by rw [fixedFit_one, hw.above, decide_eq_true_eq, Nat.div_eq_of_lt k.isLt]) hn (hw.srTermP_eq op)
  · have hw := srWord_fields (op := 5) (by decide) d.isLt a.isLt b.isLt fn.isLt p.isLt
    refine rows_op5.refuses hw.opcode hw.selector (hbad.imp_right fun hd => ?_)
    rw [fixedFit_one, hw.above, decide_eq_false_iff_not]
    omega
  · have hlt : n < 3 := (List.getElem?_eq_some_iff.1 hn).1
    have hw := siWord_fields (op := 0x0F + n) (d := k.toNat) (by omega) (k.isLt.trans (by decide)) a.isLt i.isLt
    exact (row_comparesImm n _ hn).reads hw.opcode (by rw [fixedFit_one, hw.above, decide_eq_true_eq, Nat.div_eq_of_lt k.isLt]) (hw.siTermP_eq op)
  · have hw := siWord_fields (op := 0x0F + n) (by omega) d.isLt a.isLt i.isLt
    exact (row_comparesImm n _ (List.getElem?_eq_getElem hn)).refuses hw.opcode
      (by rw [fixedFit_one, hw.above, decide_eq_false_iff_not]; omega)
  · obtain ⟨g, hexec, hcond⟩ := runsCompare2_of_mem _ hmem
    refine ⟨_, decides_allOnes (hcond _ _), ?_⟩
    rw [Runs, hexec]
    exact compare2_gives h
  · obtain ⟨g, hexec, hcond⟩ := runsCompareI_of_mem _ hmem
    refine ⟨_, decides_allOnes (hcond _ _), ?_⟩
    rw [Runs, hexec]
    exact compareI_gives h

end Sys2Proof.Proofs

/-! Lanes and elements of a vector register, and what a vector word comes to (04 R127, R136-R138). -/

namespace Sys2Proof.Proofs

open Sys2Proof Sys2Proof.Machine Sys2Proof.Rules

/-! ### Lanes and elements -/

/-- Digit i of a number built from its digits. -/
theorem digit_foldr (B : Nat) (hB : 0 < B) (f : Nat → Nat) (hf : ∀ i, f i < B) {n i : Nat} (hi : i < n) :
    (List.range n).foldr (fun i acc => f i + B * acc) 0 / B ^ i % B = f i := by
  have hdigits : (List.range n).foldr (fun i acc => f i + B * acc) 0 = Nat.ofDigits B ((List.range n).map f) := by
    rw [Nat.ofDigits_eq_foldr, List.foldr_map]; rfl
  have hlt : ∀ x ∈ (List.range n).map f, x < B := by
    intro x hx
    obtain ⟨j, -, rfl⟩ := List.mem_map.1 hx
    exact hf j
  have hdrop : ((List.range n).map f).drop i = f i :: ((List.range n).map f).drop (i + 1) := by
    rw [List.drop_eq_getElem_cons (by simpa using hi)]; simp
  rw [hdigits, Nat.ofDigits_div_pow_eq_ofDigits_drop i hB _ hlt, hdrop, Nat.ofDigits_cons, Nat.add_mul_mod_self_left, Nat.mod_eq_of_lt (hf i)]

/-- A digit below a power of the base is not touched by a reduction modulo that power. -/
theorem digit_mod_pow (B N : Nat) {n i : Nat} (hi : i < n) : N % B ^ n / B ^ i % B = N / B ^ i % B := by
  obtain ⟨m, rfl⟩ : ∃ m, n = i + (m + 1) := ⟨n - i - 1, by omega⟩
  rw [Nat.pow_add, Nat.mod_mul_right_div_self, Nat.pow_succ, Nat.mod_mul_left_mod]

/-- Digit i of a register of n digits. -/
theorem digit_toNat_ofNat (w N : Nat) {n i : Nat} (hi : i < n) :
    (BitVec.ofNat (w * n) N).toNat / (2 ^ w) ^ i % 2 ^ w = N / (2 ^ w) ^ i % 2 ^ w := by
  rw [BitVec.toNat_ofNat, Nat.pow_mul, digit_mod_pow _ _ hi]

@[simp] theorem lane_fromLanes (f : Nat → Word) {i : Nat} (hi : i < 16) : lane (fromLanes f) i = f i := by
  apply BitVec.eq_of_toNat_eq
  rw [lane, BitVec.toNat_ofNat, Nat.pow_mul]
  exact (digit_toNat_ofNat 32 _ hi).trans (digit_foldr (2 ^ 32) (by decide) (fun i => (f i).toNat) (fun i => (f i).isLt) hi)

@[simp] theorem elem_fromElems (f : Nat → W64) {j : Nat} (hj : j < 8) : elem (fromElems f) j = f j := by
  apply BitVec.eq_of_toNat_eq
  rw [elem, BitVec.toNat_ofNat, Nat.pow_mul]
  exact (digit_toNat_ofNat 64 _ hj).trans (digit_foldr (2 ^ 64) (by decide) (fun i => (f i).toNat) (fun i => (f i).isLt) hj)

/-- Bit n of an element mask is bit 2j of the guard, where lane n belongs to element j. -/
theorem getLsbD_elemMask (m : BitVec 16) {n : Nat} (hn : n < 16) : (elemMask m).getLsbD n = m.getLsbD (2 * (n / 2)) := by
  let pair (j : Nat) : Nat := if m.getLsbD (2 * j) then 3 else 0
  have hpair : ∀ j, pair j < 4 := fun j => by dsimp only [pair]; split <;> decide
  have hdigit := digit_foldr 4 (by decide) pair hpair (show n / 2 < 8 by omega)
  have hbit : ∀ N : Nat, N.testBit n = (N / 4 ^ (n / 2) % 4).testBit (n % 2) := fun N => by
    have hpow : (4 : Nat) ^ (n / 2) = 2 ^ (2 * (n / 2)) := (Nat.pow_mul 2 2 _).symm
    have hlow : n % 2 < 2 := Nat.mod_lt _ (by decide)
    rw [show (4 : Nat) = 2 ^ 2 from rfl, Nat.testBit_mod_two_pow, decide_eq_true hlow, Bool.true_and, ← Nat.pow_mul, Nat.testBit_div_two_pow,
      Nat.mod_add_div]
  rw [elemMask, BitVec.getLsbD_ofNat, decide_eq_true hn, Bool.true_and, hbit]
  refine (congrArg (Nat.testBit · (n % 2)) hdigit).trans ?_
  dsimp only [pair]
  rcases Nat.mod_two_eq_zero_or_one n with h | h <;> cases m.getLsbD (2 * (n / 2)) <;> rw [h] <;> rfl

theorem elemMask_eq_pairMask (m : BitVec 16) : elemMask m = pairMask m := by
  apply BitVec.eq_of_getLsbD_eq
  intro n hn
  rw [getLsbD_elemMask m hn, pairMask]
  interval_cases n <;> simp

/-! ### The lanes that a guard admits -/

/-- The value of an active lane. -/
theorem lane_perLane (m : BitVec 16) (g : Nat → Nat × Nat) {i : Nat} (hi : i < 16) (hm : m.getLsbD i = true) :
    lane (perLane m g).1 i = BitVec.ofNat 32 (g i).1 := by
  rw [perLane, lane_fromLanes _ hi, List.getD_eq_getElem?_getD, List.getElem?_map, List.getElem?_range hi, Option.map_some, Option.getD_some,
    if_pos hm]

/-- Lanes that raise no flag raise none together. -/
theorem perLane_flags (m : BitVec 16) (g : Nat → Nat) : (perLane m fun i => (g i, 0)).2 = 0 := by
  have hnone : ∀ l : List Nat, (l.map fun i => if m.getLsbD i then (g i, 0) else (0, 0)).foldl (fun f x => f ||| x.2) 0 = 0 := by
    intro l
    induction l with
    | nil => rfl
    | cons i l ih =>
      rw [List.map_cons, List.foldl_cons]
      have hflag : 0 ||| (if m.getLsbD i then (g i, 0) else (0, 0)).2 = 0 := by split <;> exact Nat.or_zero 0
      rw [hflag]
      exact ih
  exact hnone _

theorem ofNat_laneN (v : VReg) (i : Nat) : BitVec.ofNat 32 (laneN v i) = lane v i := by
  rw [laneN, BitVec.ofNat_toNat, BitVec.setWidth_eq]

/-! ### The registers that a vector word names -/

theorem vaName_eq_named (t : Task) (f : BitVec 7) (x : BitVec 1) : t.vaName f x = named t f t.ib0 x := by
  simp [Task.vaName, Task.indexed, named]

theorem vbName_eq_named (t : Task) (f : BitVec 7) (x : BitVec 1) : t.vbName f x = named t f t.ib1 x := by
  simp [Task.vbName, Task.indexed, named]

theorem rv_named (t : Task) (f : BitVec 7) (base : Nat) (x : BitVec 1) : t.rv (named t f base x) = readsVec t f base x := rfl

/-- The vector register that a word admitted writes is full. -/
theorem isEmpty_turned_of_clear (s : State) (sh : Shape) (d : BitVec 7) (h : s.clear sh = true) (hd : d.toNat ∈ sh.vw) :
    s.now.isEmpty (.v (turned s.now d)) = false := by
  obtain ⟨-, -, -, -, -, -, -, -, -, -, -, -, hw⟩ := (admits_iff s sh).1 ((clear_iff s sh).1 h).1
  exact hw (.v (s.now.rotate d.toNat)) (List.mem_append_right _ (List.mem_map_of_mem hd))

/-! ### A word with one vector result -/

/-- A word whose result is the lanes of a mask: it writes none of an empty mask. -/
theorem runSlot_vector {s : State} {sh : Shape} {d : BitVec 7} (off : Nat) (m : BitVec 16) (v : VReg) (fl : Nat) (h : s.clear sh = true)
    (ho : 1 ≤ off) (hd : d.toNat ∈ sh.vw) :
    ∃ t, s.runSlot sh (.go (vecEffects s.now d.toNat off m (v, fl))) = .next t ∧ s.Gives t (vecRes s.now d off m v) fl := by
  by_cases hm : m = 0
  · have heff : vecEffects s.now d.toNat off m (v, fl) = flagEffects fl := by rw [vecEffects, if_pos hm]; rfl
    rw [heff, vecRes, if_pos hm]
    exact runSlot_nothing s sh fl h
  · have heff : vecEffects s.now d.toNat off m (v, fl) = .wr (.v (turned s.now d)) off v m :: flagEffects fl := by
      rw [vecEffects, if_neg hm]; rfl
    rw [heff, vecRes, if_neg hm]
    exact runSlot_result s sh { dst := .v (turned s.now d), off := off, val := v, mask := m } fl h ho (isEmpty_turned_of_clear s sh d h hd)

end Sys2Proof.Proofs

/-! Moves, permutations and broadcasts (04 R136-R138). -/

namespace Sys2Proof.Proofs

open Sys2Proof Sys2Proof.Machine Sys2Proof.Rules

/-! ### The rows of VA and VB -/

/-- The instruction of a word of format VR with two source registers. -/
def vrTerm (op : VecOp2) (w : BitVec 32) : Instr := op (fld w 19 7) (fld w 12 7) (fld w 5 7) (fld w 1 4) (fld w 0 1)

/-- The instruction of a word of format VR with one source register. -/
def vrTerm1 (op : VecOp1) (w : BitVec 32) : Instr := op (fld w 19 7) (fld w 12 7) (fld w 1 4) (fld w 0 1)

section
variable {w : BitVec 32} {op : Nat} {d a b : BitVec 7} {p : BitVec 4} {x : BitVec 1}

theorem VrFields.vrTerm_eq (h : VrFields w op d.toNat a.toNat b.toNat p.toNat x.toNat) (f : VecOp2) : vrTerm f w = f d a b p x := by
  rw [vrTerm, fld_eq h.dst, fld_eq h.srcA, fld_eq h.srcB, fld_eq h.guard, fld_eq h.ix]

theorem VrFields.vrTerm1_eq {b : Nat} (h : VrFields w op d.toNat a.toNat b p.toNat x.toNat) (f : VecOp1) : vrTerm1 f w = f d a p x := by
  rw [vrTerm1, fld_eq h.dst, fld_eq h.srcA, fld_eq h.guard, fld_eq h.ix]

end

/-- What holds of both vector slots. -/
theorem both_vector {P : Slot → Prop} (ha : P .va) (hb : P .vb) : ∀ sl ∈ [Slot.va, Slot.vb], P sl :=
  List.forall_mem_cons.2 ⟨ha, List.forall_mem_singleton.2 hb⟩

theorem row_vmov : OneRow [.va, .vb] 0x30 [(5, 7, 0)] (vrTerm1 .vmov) :=
  ⟨by decide, both_vector ⟨rfl, rfl⟩ ⟨rfl, rfl⟩, fun _ => rfl⟩

theorem row_vsel : OneRow [.va, .vb] 0x31 [] (vrTerm .vsel) := ⟨by decide, both_vector ⟨rfl, rfl⟩ ⟨rfl, rfl⟩, fun _ => rfl⟩

theorem row_vperm : OneRow [.va, .vb] 0x32 [] (vrTerm .vperm) := ⟨by decide, both_vector ⟨rfl, rfl⟩ ⟨rfl, rfl⟩, fun _ => rfl⟩

theorem row_vext : OneRow [.va, .vb] 0x34 [] (vrTerm .vext) := ⟨by decide, both_vector ⟨rfl, rfl⟩ ⟨rfl, rfl⟩, fun _ => rfl⟩

/-- A row of two source registers and no fixed field reads every word of its opcode. -/
theorem reads_vr {op : Nat} {f : VecOp2} (hrow : OneRow [.va, .vb] op [] (vrTerm f)) (hop : op < 2 ^ 6) (d a b : BitVec 7) (p : BitVec 4)
    (x : BitVec 1) : Reads [.va, .vb] (vrWord op d.toNat a.toNat b.toNat p.toNat x.toNat) (f d a b p x) := by
  have hw := vrWord_fields hop d.isLt a.isLt b.isLt p.isLt x.isLt
  exact hrow.reads hw.opcode rfl (hw.vrTerm_eq f)

/-! ### What a word comes to -/

/-- A vector word of two sources, whose result is the lanes of a mask and raises no flag. -/
theorem runSlot_vector2 {s : State} {d a b : BitVec 7} {x : BitVec 1} (m : BitVec 16) (v : VReg)
    (h : s.clear { ports := 2, vr := [named s.now a s.now.ib0 x, named s.now b s.now.ib1 x], vw := [d.toNat] } = true) :
    ∃ t, s.runSlot { ports := 2, vr := [s.now.vaName a x, s.now.vbName b x], vw := [d.toNat] } (.go (vecEffects s.now d.toNat 2 m (v, 0))) = .next t ∧
      s.Gives t (vecRes s.now d 2 m v) 0 := by
  rw [vaName_eq_named, vbName_eq_named]
  exact runSlot_vector 2 m v 0 h (by decide) (List.mem_singleton_self _)

/-- The same of one source. -/
theorem runSlot_vector1 {s : State} {d a : BitVec 7} {x : BitVec 1} (m : BitVec 16) (v : VReg)
    (h : s.clear { ports := 1, vr := [named s.now a s.now.ib0 x], vw := [d.toNat] } = true) :
    ∃ t, s.runSlot { ports := 1, vr := [s.now.vaName a x], vw := [d.toNat] } (.go (vecEffects s.now d.toNat 2 m (v, 0))) = .next t ∧
      s.Gives t (vecRes s.now d 2 m v) 0 := by
  rw [vaName_eq_named]
  exact runSlot_vector 2 m v 0 h (by decide) (List.mem_singleton_self _)

/-- Lanes whose function raises no flag come to their values alone. -/
theorem perLane_flagless (m : BitVec 16) (g : Nat → Nat) : perLane m (fun i => (g i, 0)) = ((perLane m fun i => (g i, 0)).1, 0) :=
  Prod.ext rfl (perLane_flags m g)

section
variable {s : State} {d a b : BitVec 7} {k p : BitVec 4} {x : BitVec 1}

theorem vmov_moves (h : s.clear { ports := 1, vr := [named s.now a s.now.ib0 x], vw := [d.toNat] } = true) :
    ∃ v, (∀ i < 16, (s.now.rp p).getLsbD i = true → lane v i = lane (readsVec s.now a s.now.ib0 x) i) ∧
      Runs (.vmov d a p x) s fun t => s.Gives t (vecRes s.now d 2 (s.now.rp p) v) 0 := by
  let g (i : Nat) : Nat := laneN (s.now.rv (s.now.vaName a x)) i
  refine ⟨(perLane (s.now.rp p) fun i => (g i, 0)).1, fun i hi hm => ?_, ?_⟩
  · rw [lane_perLane _ _ hi hm, ofNat_laneN, vaName_eq_named, rv_named]
  · obtain ⟨t, hrun, hgives⟩ := runSlot_vector1 (s.now.rp p) (perLane (s.now.rp p) fun i => (g i, 0)).1 h
    rw [← perLane_flagless] at hrun
    exact ⟨t, hrun, hgives⟩

theorem vperm_permutes (h : s.clear { ports := 2, vr := [named s.now a s.now.ib0 x, named s.now b s.now.ib1 x], vw := [d.toNat] } = true) :
    ∃ v, (∀ i < 16, (s.now.rp p).getLsbD i = true →
        lane v i = lane (readsVec s.now a s.now.ib0 x) ((lane (readsVec s.now b s.now.ib1 x) i).toNat % 16)) ∧
      Runs (.vperm d a b p x) s fun t => s.Gives t (vecRes s.now d 2 (s.now.rp p) v) 0 := by
  let g (i : Nat) : Nat := laneN (s.now.rv (s.now.vaName a x)) (laneN (s.now.rv (s.now.vbName b x)) i % 16)
  refine ⟨(perLane (s.now.rp p) fun i => (g i, 0)).1, fun i hi hm => ?_, ?_⟩
  · rw [lane_perLane _ _ hi hm, ofNat_laneN, vaName_eq_named, vbName_eq_named, rv_named, rv_named, laneN]
  · obtain ⟨t, hrun, hgives⟩ := runSlot_vector2 (s.now.rp p) (perLane (s.now.rp p) fun i => (g i, 0)).1 h
    rw [← perLane_flagless] at hrun
    exact ⟨t, hrun, hgives⟩

theorem vsel_selects (h : s.clear { ports := 2, vr := [named s.now a s.now.ib0 x, named s.now b s.now.ib1 x], vw := [d.toNat] } = true) :
    ∃ v, (∀ i < 16, lane v i =
        if (s.now.rp k).getLsbD i then lane (readsVec s.now a s.now.ib0 x) i else lane (readsVec s.now b s.now.ib1 x) i) ∧
      Runs (.vsel d a b k x) s fun t => s.Gives t (vecRes s.now d 2 0xFFFF v) 0 := by
  refine ⟨_, fun i hi => ?_, runSlot_vector2 0xFFFF (fromLanes fun i =>
    if (s.now.rp k).getLsbD i then lane (s.now.rv (s.now.vaName a x)) i else lane (s.now.rv (s.now.vbName b x)) i) h⟩
  rw [lane_fromLanes _ hi, vaName_eq_named, vbName_eq_named, rv_named, rv_named]

theorem vext_extracts (h : s.clear { ports := 2, vr := [named s.now a s.now.ib0 x, named s.now b s.now.ib1 x], vw := [d.toNat] } = true) :
    ∃ v, (∀ i < 16, lane v i = if i + k.toNat < 16 then lane (readsVec s.now a s.now.ib0 x) (i + k.toNat)
        else lane (readsVec s.now b s.now.ib1 x) (i + k.toNat - 16)) ∧
      Runs (.vext d a b k x) s fun t => s.Gives t (vecRes s.now d 2 0xFFFF v) 0 := by
  refine ⟨_, fun i hi => ?_, runSlot_vector2 0xFFFF (fromLanes fun i =>
    if i + k.toNat < 16 then lane (s.now.rv (s.now.vaName a x)) (i + k.toNat) else lane (s.now.rv (s.now.vbName b x)) (i + k.toNat - 16)) h⟩
  rw [lane_fromLanes _ hi, vaName_eq_named, vbName_eq_named, rv_named, rv_named]

end

/-- Settles O12: each word has one result, whose lanes or elements are named by the rule; an element mask is its guard's pairs of lanes. -/
theorem laneMoves : Obligations.LaneMoves := by
  refine ⟨fun d a p x => ?_, fun d a b p x hb => ?_, fun d a b k x => ⟨?_, ?_, ?_⟩, fun s d a p x h => vmov_moves h,
    fun s d a b k x h => vsel_selects h, fun s d a b p x h => vperm_permutes h, fun s d a b k x h => vext_extracts h,
    fun s d a l p x h => ?_, fun s d a e p x h => ?_, fun s d a p h => ?_, fun s d a p h => ?_⟩
  · have hw := vrWord_fields (op := 0x30) (b := 0) (by decide) d.isLt a.isLt (by decide) p.isLt x.isLt
    exact row_vmov.reads hw.opcode (by rw [fixedFit_one, hw.srcB, decide_eq_true_eq]) (hw.vrTerm1_eq _)
  · have hw := vrWord_fields (op := 0x30) (by decide) d.isLt a.isLt b.isLt p.isLt x.isLt
    refine row_vmov.refuses hw.opcode ?_
    rw [fixedFit_one, hw.srcB, decide_eq_false_iff_not]
    exact fun h0 => hb (BitVec.eq_of_toNat_eq h0)
  · exact reads_vr row_vsel (by decide) d a b k x
  · exact reads_vr row_vperm (by decide) d a b k x
  · exact reads_vr row_vext (by decide) d a b k x
  · refine ⟨_, fun i hi _ => lane_fromLanes _ hi, ?_⟩
    rw [← rv_named, ← vaName_eq_named]
    exact runSlot_vector1 _ _ h
  · refine ⟨_, fun j hj _ => elem_fromElems _ hj, ?_⟩
    rw [← rv_named, ← vaName_eq_named, ← elemMask_eq_pairMask]
    exact runSlot_vector1 _ _ h
  · exact ⟨_, fun i hi _ => lane_fromLanes _ hi, runSlot_vector 2 _ _ 0 h (by decide) (List.mem_singleton_self _)⟩
  · refine ⟨_, fun j hj _ => elem_fromElems _ hj, ?_⟩
    rw [← elemMask_eq_pairMask]
    exact runSlot_vector 2 _ _ 0 h (by decide) (List.mem_singleton_self _)

end Sys2Proof.Proofs

/-! A bundle of one word whose whole effect is on the cores (04 R103), in a state where results of its task may be on their way. -/

namespace Sys2Proof.Machine

open Host (Outcome)

/-! ### Results that land leave a return alone -/

/-- A fold whose every step keeps the pending return keeps it. -/
theorem foldl_redo {β : Type} (f : Task → β → Task) (h : ∀ t x, (f t x).redo = t.redo) (l : List β) (t : Task) :
    (l.foldl f t).redo = t.redo :=
  calc (l.foldl f t).redo = l.foldl (fun r _ => r) t.redo := (List.foldl_hom Task.redo fun t x => (h t x).symm).symm
    _ = t.redo := List.foldl_fixed l

@[simp] theorem put_redo (t : Task) (d : Dest) (v : VReg) (m : BitVec 16) : (t.put d v m).redo = t.redo := (put_rest t d v m).2.2.2

@[simp] theorem setFull_redo (t : Task) (d : Dest) : (t.setFull d).redo = t.redo := by cases d <;> rfl

@[simp] theorem landOne_redo (t : Task) (f : Flight) : (t.landOne f).redo = t.redo := by
  unfold Task.landOne
  split
  · rfl
  · exact put_redo ..

@[simp] theorem fill_redo (t : Task) (p : Prod) (vs : List VReg) : (t.fill p vs).redo = t.redo :=
  foldl_redo _ (fun _ _ => by rw [setFull_redo, put_redo]) _ _

@[simp] theorem land_redo (t : Task) : t.land.redo = t.redo := foldl_redo _ landOne_redo _ _

@[simp] theorem landDrawn_redo (t : Task) : t.landDrawn.redo = t.redo := by
  refine foldl_redo _ (fun u p => ?_) _ _
  split
  · split
    · exact fill_redo ..
    · rfl
  · rfl

@[simp] theorem bump_redo (t : Task) : t.bump.redo = t.redo := by
  unfold Task.bump
  dsimp only
  split
  · rw [landDrawn_redo]
  · rw [land_redo, landDrawn_redo]

/-! ### One word whose effect is on the cores -/

/-- The parts of `ready`. -/
theorem ready_iff (s : State) (sh : Shape) : s.ready sh = true ↔ s.admits sh = true ∧ s.calm = true ∧
    (s.now.loops.getLast?.any fun l => l.last == s.bun.pc) = false := by
  simp [State.ready, State.straight, and_assoc]

/-- A word that tries no memory, the only one of its bundle, leaves no mark on the task that issues it. -/
theorem issued_logSlot (s : State) (t : Task) (sh : Shape) (o : SlotOut) (hl : s.bun.logs = [])
    (hm : Bundle.triesMemory { logs := [{ slot := s.bun.slot, shape := sh, out := o }] } = false) :
    t.issued (s.logSlot sh o).bun = t.issued s.bun := by
  have hbare : s.bun.triesMemory = false := by rw [Bundle.triesMemory, hl]; rfl
  have hlogged : (s.logSlot sh o).bun.triesMemory = false := by rw [State.logSlot, hl]; exact hm
  unfold Task.issued
  rw [hlogged, hbare]
  rfl

/-- A calm state in which a task moves on is settled, whatever the cores hold. -/
theorem settle_passed (u : State) (n : Nat) (b : Bundle) (h : u.calm = true) : (u.passed n b).settle = u.passed n b := by
  have hredo : ((u.task n).issued b).bump.redo = none := (bump_redo _).trans (redo_of_calm u n h)
  exact settle_of_calm _ (calm_congr _ _ (calm_putTask u n _ h hredo) rfl rfl rfl rfl)

/-- A word of plain effects that change the cores alone, not the task that is current: they act, and its task moves on. -/
theorem runSlot_cores {s : State} {sh : Shape} {es : List Effect} (cs : Tab Core) (h : s.ready sh = true) (hp : es.all Effect.plain = true)
    (hm : Bundle.triesMemory { logs := [{ slot := s.bun.slot, shape := sh, out := .go es }] } = false)
    (he : es.foldl State.applyEffect (s.logSlot sh (.go es)) = { s.logSlot sh (.go es) with cores := cs })
    (ht : State.tid { s with cores := cs } = s.tid) :
    s.runSlot sh (.go es) = .next (State.passed { s.logSlot sh (.go es) with cores := cs } s.tid s.bun) := by
  obtain ⟨ha, hc, hl⟩ := (ready_iff s sh).1 h
  obtain ⟨-, -, hlogs, -⟩ := (admits_iff s sh).1 ha
  let u : State := { s.logSlot sh (.go es) with cores := cs }
  have hcalm : u.calm = true := calm_congr s u hc rfl rfl rfl rfl
  have hshrink := shrinkAwaits_none s.now s.bun.slot sh es fun e hmem => plain_allotted e (List.all_eq_true.1 hp e hmem)
  have hnow : u.now = s.now := congrArg s.task ht
  have hcommit := commit_plain (s.logSlot sh (.go es)) es [] u hp he ht rfl (by rw [hnow]; exact hl)
  rw [List.map_nil, List.append_nil] at hcommit
  have hissued : u.passed s.tid (s.logSlot sh (.go es)).bun = u.passed s.tid s.bun := by
    rw [State.passed, issued_logSlot s _ sh _ hlogs hm]
    rfl
  rw [runSlot_go s sh es ha hshrink, hcommit]
  exact congrArg Outcome.next ((congrArg State.settle hissued).trans (settle_passed u s.tid s.bun hcalm))

end Sys2Proof.Machine

/-! The fields of a copy channel and the words that write them (08 R224, R225, R248, R249). -/

namespace Sys2Proof.Proofs

open Sys2Proof Sys2Proof.Machine Sys2Proof.Rules

/-! ### The word of CSHAPE -/

/-- The fields of a word of format CF; the bits below the second source register are 0. -/
structure CfFields (w : BitVec 32) (op q fs a b : Nat) : Prop where
  opcode : w.toNat / 2 ^ 26 = op
  channel : w.toNat / 2 ^ 24 % 2 ^ 2 = q
  selector : w.toNat / 2 ^ 18 % 2 ^ 6 = fs
  srcA : w.toNat / 2 ^ 12 % 2 ^ 6 = a
  below : w.toNat / 2 ^ 0 % 2 ^ 12 = b * 2 ^ 6

theorem cfWord_fields {op q fs a b : Nat} (hop : op < 2 ^ 6) (hq : q < 2 ^ 2) (hfs : fs < 2 ^ 6) (ha : a < 2 ^ 6) (hb : b < 2 ^ 6) :
    CfFields (cfWord op q fs a b) op q fs a b := by
  have hw : (cfWord op q fs a b).toNat = op * 2 ^ 26 + q * 2 ^ 24 + fs * 2 ^ 18 + a * 2 ^ 12 + b * 2 ^ 6 := by
    rw [cfWord, BitVec.toNat_ofNat, Nat.mod_eq_of_lt (by omega)]
  constructor <;> rw [hw] <;> omega

/-- The instruction of a word of opcode 0x02 of CP. -/
def cshapeTerm (w : BitVec 32) : Instr := .cshape (fld w 24 2) (fld w 12 6)

theorem row_cshape : OneRow [.cp] 2 [(0, 12, 0), (18, 6, 0)] cshapeTerm :=
  ⟨by decide, List.forall_mem_singleton.2 ⟨rfl, rfl⟩, fun _ => rfl⟩

theorem CfFields.cshapeTerm_eq {w : BitVec 32} {op fs b : Nat} {q : BitVec 2} {a : BitVec 6} (h : CfFields w op q.toNat fs a.toNat b) :
    cshapeTerm w = .cshape q a := by
  rw [cshapeTerm, fld_eq h.channel, fld_eq h.srcA]

/-- The fixed fields of CSHAPE are the field selector and the second source register. -/
theorem CfFields.cshape_fit {w : BitVec 32} {op q a : Nat} {fs b : BitVec 6} (h : CfFields w op q fs.toNat a b.toNat) :
    fixedFit [(0, 12, 0), (18, 6, 0)] w = decide (fs = 0 ∧ b = 0) := by
  have hsplit : fixedFit [(0, 12, 0), (18, 6, 0)] w = (fixedFit [(0, 12, 0)] w && fixedFit [(18, 6, 0)] w) := List.all_append (xs := [_])
  rw [hsplit, fixedFit_one, fixedFit_one, h.below, h.selector, ← Bool.decide_and, decide_eq_decide, ← BitVec.toNat_inj, ← BitVec.toNat_inj]
  show b.toNat * 2 ^ 6 = 0 ∧ fs.toNat = 0 ↔ fs.toNat = 0 ∧ b.toNat = 0
  omega

theorem reads_cshape (q : BitVec 2) {fs b : BitVec 6} (a : BitVec 6) (h : fs = 0 ∧ b = 0) :
    Reads [.cp] (cfWord 2 q.toNat fs.toNat a.toNat b.toNat) (.cshape q a) := by
  have hw := cfWord_fields (op := 2) (by decide) q.isLt fs.isLt a.isLt b.isLt
  exact row_cshape.reads hw.opcode (hw.cshape_fit.trans (decide_eq_true h)) hw.cshapeTerm_eq

theorem refuses_cshape (q : BitVec 2) {fs b : BitVec 6} (a : BitVec 6) (h : ¬ (fs = 0 ∧ b = 0)) :
    RefusesField [.cp] (cfWord 2 q.toNat fs.toNat a.toNat b.toNat) := by
  have hw := cfWord_fields (op := 2) (by decide) q.isLt fs.isLt a.isLt b.isLt
  exact row_cshape.refuses hw.opcode (hw.cshape_fit.trans (decide_eq_false h))

/-! ### What a channel's word comes to -/

/-- A set bit, as the model reads it. -/
theorem bit_of_testBit {x i : Nat} (h : x.testBit i = true) : x / 2 ^ i % 2 = 1 := by
  rwa [Nat.testBit_eq_decide_div_mod_eq, decide_eq_true_eq] at h

/-- A channel of VALLOT.qmask raises no REG-ALLOT. -/
theorem noChan_of_qmask {t : Task} {q : Nat} (h : t.qmask.testBit q = true) : t.noChan q = none := if_pos (bit_of_testBit h)

theorem execCset_eq {s : State} {q : BitVec 2} {f a : BitVec 6} (hq : s.now.qmask.testBit q.toNat = true) :
    execCset q f a s = s.runSlot { sr := [a.toNat] } (s.csetOut q.toNat f.toNat (s.now.rs a)) := by
  rw [execCset, noChan_of_qmask hq]

theorem execCshape_eq {s : State} {q : BitVec 2} {a : BitVec 6} (hq : s.now.qmask.testBit q.toNat = true) :
    execCshape q a s = s.runSlot { sr := [a.toNat] } (.go [.cshape q.toNat (s.now.rs a)]) := by
  rw [execCshape, noChan_of_qmask hq]

/-- Every value that a field takes passes CSET's checks, field by field of 08 R225. -/
theorem csetOut_of_fieldOk {s : State} {f : Nat} {v : W64} (q : Nat) (hf : f < 8) (h : FieldOk s.now f v.toNat) :
    s.csetOut q f v = .go [.cset q f v] := by
  match f, hf with
  | 0, _ =>
    obtain ⟨hlt, hbit, hmode⟩ : v.toNat < 256 ∧ v.toNat.testBit 3 = false ∧ v.toNat % 8 ≤ 3 := h
    rw [Nat.testBit_eq_decide_div_mod_eq, decide_eq_false_iff_not] at hbit
    exact if_pos ⟨Nat.div_eq_of_lt hlt, by omega, hmode⟩
  | 1, _ => exact if_pos h
  | 2, _ => exact if_pos h
  | 3, _ =>
    obtain ⟨hlt, hlow⟩ : v.toNat < 2 ^ 22 ∧ v.toNat % 2 ^ 16 ≠ 0 := h
    exact if_pos ⟨Nat.div_eq_of_lt hlt, hlow⟩
  | 4, _ =>
    obtain ⟨hlt, hlo, hhi, htile⟩ : v.toNat < 256 ∧ 1 ≤ v.toNat / 8 ∧ v.toNat / 8 ≤ 16 ∧ s.now.cmask.testBit (v.toNat % 8) = true := h
    exact (if_pos ⟨Nat.div_eq_of_lt hlt, hlo, hhi⟩).trans (if_neg (by rw [bit_of_testBit htile]; decide))
  | 5, _ => exact if_pos h
  | 6, _ =>
    rcases (h : v.toNat < 2 ^ 32 ∨ _) with hlt | ⟨hlt, hword, htile⟩
    · -- the valid bit is 0, and the word is not checked (notes/assumptions/125)
      exact (if_neg (by omega)).trans (if_pos (Nat.div_eq_of_lt hlt))
    · by_cases hvalid : v.toNat / 2 ^ 32 = 0
      · exact (if_neg (by omega)).trans (if_pos hvalid)
      · exact (if_neg (by omega)).trans ((if_neg hvalid).trans ((if_neg (by rw [hword]; decide)).trans
          (if_neg (by rw [bit_of_testBit htile]; decide))))
  | 7, _ => exact if_pos h

/-- What the commit of a CSET makes of its channel is a field written as 08 R225 says. -/
theorem apply_cset (u : State) (q : BitVec 2) (f : Nat) (v : W64) :
    u.applyEffect (.cset q.toNat f v) = withChan q (fun ch => fieldSet ch f v.toNat) u := by
  have hfield (ch : Chan) : fieldSet ch f v.toNat =
      if (f = 1 ∨ f = 2) ∧ ch.cmd.isSome = true then { ch with ringSet := ch.ringSet ++ [(f, v.toNat)] } else ch.setField f v.toNat := by
    by_cases hring : f = 1 ∨ f = 2 <;> cases hcmd : ch.cmd.isSome <;> simp [fieldSet, Chan.setField, hring, hcmd]
  rw [funext hfield]
  rfl

/-- A core with another channel issues from the same task. -/
theorem tid_withChan (q : BitVec 2) (F : Chan → Chan) (u : State) : (withChan q F u).tid = u.tid := by
  show ((u.putCore u.now.core _).core u.cur).cur = (u.core u.cur).cur
  by_cases hc : u.cur = u.now.core
  · rw [hc, core_putCore_self]
    rfl
  · rw [core_putCore_ne _ _ _ _ hc]

/-- A word whose one effect writes a channel of its core. -/
theorem runSlot_chan {s : State} {sh : Shape} {e : Effect} {q : BitVec 2} {F : Chan → Chan} (h : s.ready sh = true) (hp : e.plain = true)
    (hm : Bundle.triesMemory { logs := [{ slot := s.bun.slot, shape := sh, out := .go [e] }] } = false)
    (he : ∀ u : State, u.applyEffect e = withChan q F u) :
    s.runSlot sh (.go [e]) = .next ((withChan q F (s.logSlot sh (.go [e]))).passed s.tid s.bun) :=
  runSlot_cores (withChan q F (s.logSlot sh (.go [e]))).cores h (by rw [List.all_cons, hp]; rfl) hm (he _) (tid_withChan q F (s.logSlot sh (.go [e])))

/-- Settles O41: a value that the field takes comes to the one effect that writes it, and a ring size above 10 to a fault. -/
theorem channelFieldsAreWritten : Obligations.ChannelFieldsAreWritten := by
  refine ⟨fun s q f a h hq hf hv => ?_, fun s q a h hq => ?_, fun q fs a b => ⟨reads_cshape q a, refuses_cshape q a⟩,
    fun s q a h hq hbig => ?_⟩
  · unfold Does
    rw [exec_cset, execCset_eq hq, csetOut_of_fieldOk q.toNat hf hv]
    exact ⟨_, _, runSlot_chan h rfl rfl fun u => apply_cset u q _ _⟩
  · unfold Does
    rw [exec_cshape, execCshape_eq hq]
    exact ⟨_, _, runSlot_chan h rfl rfl fun _ => rfl⟩
  · have hfault : s.csetOut q.toNat 2 (s.now.rs a) = .fault 0x01 0 none 0 := if_neg (Nat.not_le.2 hbig)
    unfold Traps
    rw [exec_cset, execCset_eq hq]
    exact ⟨_, _, 0, (congrArg (s.runSlot _) hfault).trans (runSlot_fault s _ 0x01 0 0 none ((ready_iff s _).1 h).1)⟩

end Sys2Proof.Proofs

/-! Words as fields side by side, and the forms of the slot words (02 R50-R57). -/

namespace Sys2Proof.Proofs

open Sys2Proof Sys2Proof.Machine Sys2Proof.Rules

/-! ### Fields side by side -/

/-- Two ranges (low bit, length) share no bit. -/
def Apart (p q : Nat × Nat) : Prop := p.1 + p.2 ≤ q.1 ∨ q.1 + q.2 ≤ p.1

/-- A bit lies in a range. -/
def Within (p : Nat × Nat) (k : Nat) : Prop := p.1 ≤ k ∧ k < p.1 + p.2

/-- Ranges divide a word among them. -/
structure Divide (ps : List (Nat × Nat)) : Prop where
  apart  : ps.Pairwise Apart
  inWord : ∀ p ∈ ps, p.1 + p.2 ≤ 32
  covers : ∀ k < 32, ∃ p ∈ ps, Within p k

/-- The range of a field (low bit, length, value). -/
def rangeOf (f : Nat × Nat × Nat) : Nat × Nat := (f.1, f.2.1)

/-- A field's value fits its length. -/
def InRange (f : Nat × Nat × Nat) : Prop := f.2.2 < 2 ^ f.2.1

/-- The word that fields spell together. -/
def spelledBy (fs : List (Nat × Nat × Nat)) : BitVec 32 := encodeFields (fs.map fun f => (f.2.2, f.1))

/-- Bit k of the word that a field spells alone. -/
def bitOf (f : Nat × Nat × Nat) (k : Nat) : Bool := decide (f.1 ≤ k) && f.2.2.testBit (k - f.1)

/-- A field's bits lie in its range. -/
theorem within_of_bitOf {f : Nat × Nat × Nat} {k : Nat} (hf : InRange f) (h : bitOf f k = true) : Within (rangeOf f) k := by
  obtain ⟨hlo, hbit⟩ := Bool.and_eq_true_iff.1 h
  refine ⟨of_decide_eq_true hlo, Nat.lt_of_not_le fun hge => ?_⟩
  have hzero : f.2.2.testBit (k - f.1) = false :=
    Nat.testBit_lt_two_pow (Nat.lt_of_lt_of_le hf (Nat.pow_le_pow_right (by decide) (Nat.le_sub_of_add_le' hge)))
  exact Bool.false_ne_true (hzero.symm.trans hbit)

/-- No bit lies in two ranges that are apart. -/
theorem Apart.not_within {p q : Nat × Nat} {k : Nat} (h : Apart p q) (hp : Within p k) : ¬ Within q k := by
  unfold Apart at h
  unfold Within at *
  omega

theorem getLsbD_field (f : Nat × Nat × Nat) (k : Nat) : (BitVec.ofNat 32 (f.2.2 * 2 ^ f.1)).getLsbD k = (decide (k < 32) && bitOf f k) := by
  rw [BitVec.getLsbD_ofNat, ← Nat.shiftLeft_eq, Nat.testBit_shiftLeft, bitOf]

theorem spelledBy_cons (f : Nat × Nat × Nat) (fs : List (Nat × Nat × Nat)) :
    spelledBy (f :: fs) = BitVec.ofNat 32 (f.2.2 * 2 ^ f.1) + spelledBy fs := BitVec.ofNat_add ..

/-- Fields that are apart each keep their bits in the word. -/
theorem getLsbD_spelledBy {fs : List (Nat × Nat × Nat)} (hap : (fs.map rangeOf).Pairwise Apart) (hr : ∀ f ∈ fs, InRange f) (k : Nat) :
    (spelledBy fs).getLsbD k = (decide (k < 32) && fs.any fun f => bitOf f k) := by
  induction fs generalizing k with
  | nil => simp [spelledBy, encodeFields]
  | cons f fs ih =>
    obtain ⟨hf, hfs⟩ := List.pairwise_cons.1 hap
    obtain ⟨hrf, hrfs⟩ := List.forall_mem_cons.1 hr
    have hrest := ih hfs hrfs
    have hshare : BitVec.ofNat 32 (f.2.2 * 2 ^ f.1) &&& spelledBy fs = 0#32 := by
      apply BitVec.eq_of_getLsbD_eq
      intro j hj
      rw [BitVec.getLsbD_and, getLsbD_field, hrest, BitVec.getLsbD_zero, decide_eq_true hj, Bool.true_and, Bool.true_and,
        Bool.and_eq_false_iff, or_iff_not_imp_left, List.any_eq_false]
      intro hfj g hg hgj
      exact (hf _ (List.mem_map_of_mem hg)).not_within (within_of_bitOf hrf (Bool.eq_true_of_not_eq_false hfj)) (within_of_bitOf (hrfs g hg) hgj)
    rw [spelledBy_cons, BitVec.add_eq_or_of_and_eq_zero _ _ hshare, BitVec.getLsbD_or, getLsbD_field, hrest, List.any_cons,
      Bool.and_or_distrib_left]

/-- Bit j of a field of a word. -/
theorem testBit_fieldIn (w : BitVec 32) (lo len j : Nat) : (w.toNat / 2 ^ lo % 2 ^ len).testBit j = (decide (j < len) && w.getLsbD (lo + j)) := by
  rw [Nat.testBit_mod_two_pow, Nat.testBit_div_two_pow, BitVec.testBit_toNat, Nat.add_comm]

/-- The word that fields spell has each of them. -/
theorem fixedFit_spelledBy {fs : List (Nat × Nat × Nat)} (hd : Divide (fs.map rangeOf)) (hr : ∀ f ∈ fs, InRange f) :
    fixedFit fs (spelledBy fs) = true := by
  have hsymm : Std.Symm fun f g => Apart (rangeOf f) (rangeOf g) := ⟨fun _ _ hab => hab.symm⟩
  rw [fixedFit, List.all_eq_true]
  intro f hf
  rw [beq_iff_eq]
  apply Nat.eq_of_testBit_eq
  intro j
  rw [testBit_fieldIn, getLsbD_spelledBy hd.apart hr]
  by_cases hj : j < f.2.1
  · have hin : Within (rangeOf f) (f.1 + j) := ⟨Nat.le_add_right _ _, Nat.add_lt_add_left hj _⟩
    have hword : f.1 + j < 32 := Nat.lt_of_lt_of_le hin.2 (hd.inWord _ (List.mem_map_of_mem hf))
    have hself : bitOf f (f.1 + j) = f.2.2.testBit j := by
      rw [bitOf, decide_eq_true (Nat.le_add_right f.1 j), Bool.true_and, Nat.add_sub_cancel_left]
    rw [decide_eq_true hj, decide_eq_true hword, Bool.true_and, Bool.true_and, ← hself, Bool.eq_iff_iff, List.any_eq_true]
    refine ⟨fun ⟨g, hg, hgj⟩ => ?_, fun hfj => ⟨f, hf, hfj⟩⟩
    by_contra hne
    have hfg : f ≠ g := fun h => hne (h ▸ hgj)
    exact ((List.pairwise_map.1 hd.apart).forall hf hg hfg).not_within hin (within_of_bitOf (hr g hg) hgj)
  · have hzero : f.2.2.testBit j = false :=
      Nat.testBit_lt_two_pow (Nat.lt_of_lt_of_le (hr f hf) (Nat.pow_le_pow_right (by decide) (Nat.le_of_not_lt hj)))
    rw [decide_eq_false hj, Bool.false_and, hzero]

/-- Words with the same fields are the same, where the fields cover a word. -/
theorem eq_of_fixedFit {fs : List (Nat × Nat × Nat)} {w u : BitVec 32} (hd : Divide (fs.map rangeOf)) (hw : fixedFit fs w = true)
    (hu : fixedFit fs u = true) : w = u := by
  apply BitVec.eq_of_getLsbD_eq
  intro k hk
  obtain ⟨_, hmem, hin⟩ := hd.covers k hk
  obtain ⟨f, hf, rfl⟩ := List.mem_map.1 hmem
  have hlo : f.1 ≤ k := hin.1
  have hhi : k < f.1 + f.2.1 := hin.2
  have hval := (beq_iff_eq.1 (List.all_eq_true.1 hw f hf)).trans (beq_iff_eq.1 (List.all_eq_true.1 hu f hf)).symm
  have hbit := congrArg (Nat.testBit · (k - f.1)) hval
  simpa only [testBit_fieldIn, decide_eq_true (Nat.sub_lt_left_of_lt_add hlo hhi), Bool.true_and, Nat.add_sub_cancel' hlo] using hbit

/-- A field of zero may be left out. -/
theorem spelledBy_nonzero (fs gs : List (Nat × Nat × Nat)) : spelledBy (fs.filter (fun f => f.2.2 != 0) ++ gs) = spelledBy (fs ++ gs) := by
  induction fs with
  | nil => rfl
  | cons f fs ih =>
    rw [List.filter_cons, List.cons_append, spelledBy_cons, ← ih]
    split
    · exact spelledBy_cons ..
    · rename_i h
      have hzero : f.2.2 = 0 := by simpa using h
      rw [hzero, Nat.zero_mul, BitVec.zero_add]

/-! ### The form of an instruction -/

/-- Values of fields with these ranges. -/
def Values : List (Nat × Nat) → Type
  | [] => Unit
  | p :: ps => BitVec p.2 × Values ps

/-- What makes an instruction of the values of fields. -/
def Maker : List (Nat × Nat) → Type
  | [] => Instr
  | p :: ps => BitVec p.2 → Maker ps

/-- The instruction made of values. -/
def Maker.of : (ps : List (Nat × Nat)) → Maker ps → Values ps → Instr
  | [], i, _ => i
  | _ :: ps, m, xs => Maker.of ps (m xs.1) xs.2

/-- The values that fields have in a word. -/
def valuesIn (w : BitVec 32) : (ps : List (Nat × Nat)) → Values ps
  | [] => ()
  | p :: ps => (fld w p.1 p.2, valuesIn w ps)

/-- Fields with their values. -/
def fieldsOf : (ps : List (Nat × Nat)) → Values ps → List (Nat × Nat × Nat)
  | [], _ => []
  | p :: ps, xs => (p.1, p.2, xs.1.toNat) :: fieldsOf ps xs.2

theorem map_rangeOf_fieldsOf (ps : List (Nat × Nat)) (xs : Values ps) : (fieldsOf ps xs).map rangeOf = ps := by
  induction ps with
  | nil => rfl
  | cons p ps ih => exact congrArg (p :: ·) (ih xs.2)

theorem inRange_fieldsOf (ps : List (Nat × Nat)) (xs : Values ps) : ∀ f ∈ fieldsOf ps xs, InRange f := by
  induction ps with
  | nil => intro f hf; cases hf
  | cons p ps ih => exact List.forall_mem_cons.2 ⟨xs.1.isLt, ih xs.2⟩

/-- A word has the fields of these values where they are its own. -/
theorem fixedFit_fieldsOf (w : BitVec 32) (ps : List (Nat × Nat)) (xs : Values ps) : fixedFit (fieldsOf ps xs) w = true ↔ valuesIn w ps = xs := by
  induction ps with
  | nil => exact ⟨fun _ => rfl, fun _ => rfl⟩
  | cons p ps ih =>
    have hhead : w.toNat / 2 ^ p.1 % 2 ^ p.2 = xs.1.toNat ↔ fld w p.1 p.2 = xs.1 := by
      rw [fld, ← BitVec.toNat_inj, BitVec.toNat_ofNat]
    have hcons : fixedFit (fieldsOf (p :: ps) xs) w = (w.toNat / 2 ^ p.1 % 2 ^ p.2 == xs.1.toNat && fixedFit (fieldsOf ps xs.2) w) := rfl
    rw [hcons, Bool.and_eq_true, beq_iff_eq, hhead, ih]
    exact ⟨fun ⟨h1, h2⟩ => Prod.ext h1 h2, fun h => ⟨congrArg Prod.fst h, congrArg Prod.snd h⟩⟩

/-- The form of an instruction: the ranges of its variable fields, in the encoder's order, and its term. -/
structure Form where
  vars : List (Nat × Nat)
  make : Maker vars

/-- The instruction of a form with these values. -/
def Form.instr (e : Form) (xs : Values e.vars) : Instr := e.make.of e.vars xs

/-- The fields that a row fixes, its opcode among them. -/
def fixedOf (r : Row) : List (Nat × Nat × Nat) := (26, 6, r.op) :: r.fixed

/-- Ranges divide a word among them, as a check. -/
def divides (ps : List (Nat × Nat)) : Bool :=
  decide (ps.Pairwise fun p q => p.1 + p.2 ≤ q.1 ∨ q.1 + q.2 ≤ p.1) && ps.all (fun p => decide (p.1 + p.2 ≤ 32)) &&
    (List.range 32).all fun k => ps.any fun p => decide (p.1 ≤ k ∧ k < p.1 + p.2)

theorem divide_of_divides {ps : List (Nat × Nat)} (h : divides ps = true) : Divide ps := by
  simp only [divides, Bool.and_eq_true, decide_eq_true_eq] at h
  obtain ⟨⟨hap, hin⟩, hcov⟩ := h
  refine ⟨hap, fun p hp => of_decide_eq_true (List.all_eq_true.1 hin p hp), fun k hk => ?_⟩
  obtain ⟨p, hp, hpk⟩ := List.any_eq_true.1 (List.all_eq_true.1 hcov k (List.mem_range.2 hk))
  exact ⟨p, hp, of_decide_eq_true (p := p.1 ≤ k ∧ k < p.1 + p.2) hpk⟩

/-- A row reads and writes a form: it builds the form's instruction of the variable fields; the encoder spells its fields, leaving out those
fixed at zero; and all of them divide the word. -/
structure RowOf (k : SlotKind) (r : Row) (e : Form) : Prop where
  builds  : ∀ w, r.build w = e.instr (valuesIn w e.vars)
  spells  : ∀ xs, encode (e.instr xs) = some (spelledBy ((fixedOf r).filter (fun f => f.2.2 != 0) ++ fieldsOf e.vars xs))
  stands  : ∀ xs, (e.instr xs).slotKind = k
  fixed   : (fixedOf r).all (fun f => decide (f.2.2 < 2 ^ f.2.1)) = true
  divided : divides ((fixedOf r).map rangeOf ++ e.vars) = true

/-- A word fits a row where it has the row's fixed fields. -/
theorem fits_iff (r : Row) (w : BitVec 32) : r.fits w = fixedFit (fixedOf r) w := by
  have hop : w.toNat / 2 ^ 26 % 2 ^ 6 = w.toNat / 2 ^ 26 := Nat.mod_eq_of_lt (by omega)
  show (w.toNat / 2 ^ 26 == r.op && r.fixed.all _) = (w.toNat / 2 ^ 26 % 2 ^ 6 == r.op && r.fixed.all _)
  rw [hop]

section
variable {k : SlotKind} {r : Row} {e : Form}

theorem RowOf.encode_instr (h : RowOf k r e) (xs : Values e.vars) : encode (e.instr xs) = some (spelledBy (fixedOf r ++ fieldsOf e.vars xs)) := by
  rw [h.spells, spelledBy_nonzero]

theorem RowOf.divide (h : RowOf k r e) (xs : Values e.vars) : Divide ((fixedOf r ++ fieldsOf e.vars xs).map rangeOf) := by
  rw [List.map_append, map_rangeOf_fieldsOf]
  exact divide_of_divides h.divided

theorem RowOf.fixedFit_spelled (h : RowOf k r e) (xs : Values e.vars) :
    fixedFit (fixedOf r ++ fieldsOf e.vars xs) (spelledBy (fixedOf r ++ fieldsOf e.vars xs)) = true :=
  fixedFit_spelledBy (h.divide xs) fun f hf => (List.mem_append.1 hf).elim
    (fun hf => of_decide_eq_true (p := f.2.2 < 2 ^ f.2.1) (List.all_eq_true.1 h.fixed f hf)) (inRange_fieldsOf _ _ f)

theorem fixedFit_append (fs gs : List (Nat × Nat × Nat)) (w : BitVec 32) : fixedFit (fs ++ gs) w = (fixedFit fs w && fixedFit gs w) :=
  List.all_append

/-- The encoder spells the instruction that a row builds of a word as that word. -/
theorem RowOf.encode_build (h : RowOf k r e) {w : BitVec 32} (hw : r.fits w = true) : encode (r.build w) = some w := by
  have hfit : fixedFit (fixedOf r ++ fieldsOf e.vars (valuesIn w e.vars)) w = true := by
    rw [fixedFit_append, ← fits_iff, hw, (fixedFit_fieldsOf w _ _).2 rfl]
    rfl
  rw [h.builds, h.encode_instr, eq_of_fixedFit (h.divide _) (h.fixedFit_spelled _) hfit]

/-- A row builds an instruction of its form from the word that the encoder spells. -/
theorem RowOf.build_encoded (h : RowOf k r e) {xs : Values e.vars} {w : BitVec 32} (hw : encode (e.instr xs) = some w) :
    r.fits w = true ∧ r.build w = e.instr xs := by
  have hspelled : spelledBy (fixedOf r ++ fieldsOf e.vars xs) = w := Option.some.inj ((h.encode_instr xs).symm.trans hw)
  have hfit := h.fixedFit_spelled xs
  rw [hspelled, fixedFit_append, Bool.and_eq_true, ← fits_iff, fixedFit_fieldsOf] at hfit
  exact ⟨hfit.1, by rw [h.builds, hfit.2]⟩

end

/-! ### The forms of each slot's rows -/

/-- Three registers and a predicate of format SR. -/
abbrev srThree : List (Nat × Nat) := [(20, 6), (14, 6), (8, 6), (0, 4)]

/-- Two registers and a predicate of format SR. -/
abbrev srTwo : List (Nat × Nat) := [(20, 6), (14, 6), (0, 4)]

/-- Three registers, a predicate and the index bit of format VR. -/
abbrev vrThree : List (Nat × Nat) := [(19, 7), (12, 7), (5, 7), (1, 4), (0, 1)]

/-- Two registers, a predicate and the index bit of format VR. -/
abbrev vrTwo : List (Nat × Nat) := [(19, 7), (12, 7), (1, 4), (0, 1)]

/-- Two registers of formats LS and NW. -/
abbrev memTwo : List (Nat × Nat) := [(19, 6), (13, 6)]

/-- Three registers of formats LS and NW. -/
abbrev memThree : List (Nat × Nat) := [(19, 6), (13, 6), (7, 6)]

/-- The forms of the rows of SA and SB, in their order. -/
def scalarForms : List Form := [
  ⟨srThree, Instr.add⟩, ⟨srThree, Instr.sub⟩, ⟨srThree, Instr.and⟩, ⟨srThree, Instr.or⟩, ⟨srThree, Instr.xor⟩, ⟨srThree, Instr.andn⟩,
  ⟨srThree, Instr.shl⟩, ⟨srThree, Instr.shr⟩, ⟨srThree, Instr.sar⟩, ⟨srThree, Instr.rol⟩, ⟨srThree, Instr.min⟩, ⟨srThree, Instr.max⟩,
  ⟨srThree, Instr.minu⟩, ⟨srThree, Instr.maxu⟩, ⟨srThree, Instr.mul⟩, ⟨srThree, Instr.mulh⟩, ⟨srThree, Instr.mulhu⟩, ⟨srThree, Instr.div⟩,
  ⟨srThree, Instr.divu⟩, ⟨srThree, Instr.rem⟩, ⟨srThree, Instr.remu⟩, ⟨srTwo, Instr.clz⟩, ⟨srTwo, Instr.ctz⟩, ⟨srTwo, Instr.popc⟩,
  ⟨srTwo, Instr.sxb⟩, ⟨srTwo, Instr.sxh⟩, ⟨srTwo, Instr.sxw⟩, ⟨srTwo, Instr.zxb⟩, ⟨srTwo, Instr.zxh⟩, ⟨srTwo, Instr.zxw⟩,
  ⟨[(20, 4), (14, 6), (8, 6), (0, 4)], Instr.cmpEq⟩, ⟨[(20, 4), (14, 6), (8, 6), (0, 4)], Instr.cmpNe⟩,
  ⟨[(20, 4), (14, 6), (8, 6), (0, 4)], Instr.cmpLt⟩, ⟨[(20, 4), (14, 6), (8, 6), (0, 4)], Instr.cmpLe⟩,
  ⟨[(20, 4), (14, 6), (8, 6), (0, 4)], Instr.cmpLtu⟩, ⟨[(20, 4), (14, 6), (8, 6), (0, 4)], Instr.cmpLeu⟩,
  ⟨[(20, 6), (14, 6), (8, 6), (4, 4), (0, 4)], Instr.sel⟩, ⟨[(20, 6), (14, 6), (0, 14)], Instr.addi⟩, ⟨[(20, 6), (14, 6), (0, 14)], Instr.andi⟩,
  ⟨[(20, 6), (14, 6), (0, 14)], Instr.ori⟩, ⟨[(20, 6), (14, 6), (0, 14)], Instr.xori⟩, ⟨[(20, 6), (14, 6), (0, 6)], Instr.shli⟩,
  ⟨[(20, 6), (14, 6), (0, 6)], Instr.shri⟩, ⟨[(20, 6), (14, 6), (0, 6)], Instr.sari⟩, ⟨[(20, 4), (14, 6), (0, 14)], Instr.cmpeqi⟩,
  ⟨[(20, 4), (14, 6), (0, 14)], Instr.cmplti⟩, ⟨[(20, 4), (14, 6), (0, 14)], Instr.cmpltui⟩, ⟨[(20, 6), (18, 2), (0, 16)], Instr.movi⟩,
  ⟨[(20, 6), (18, 2), (0, 16)], Instr.movk⟩, ⟨[(20, 6), (0, 12)], Instr.movsr⟩, ⟨[(14, 6), (0, 12)], Instr.movrs⟩,
  ⟨[(20, 1), (14, 6), (0, 14)], Instr.ibset⟩, ⟨[(20, 6), (14, 6), (0, 14)], Instr.allot⟩]

/-- The forms of the rows of SA alone, in their order. -/
def controlForms : List Form := [
  ⟨[(22, 4), (0, 22)], Instr.br⟩, ⟨[(22, 4), (0, 22)], Instr.brl⟩, ⟨[(14, 6), (0, 4)], Instr.jr⟩, ⟨[(14, 6), (0, 4)], Instr.jrl⟩,
  ⟨[(20, 6), (0, 16)], Instr.loop⟩, ⟨[(20, 6), (16, 4), (0, 16)], Instr.loopr⟩, ⟨[(22, 4), (0, 22)], Instr.brtop⟩, ⟨[(22, 4), (0, 22)], Instr.lexit⟩,
  ⟨[(14, 6), (0, 14)], Instr.trap⟩, ⟨[], Instr.endTask⟩, ⟨[], Instr.eret⟩]

/-- The forms of the rows of VA and VB, in their order. -/
def vectorForms : List Form := [
  ⟨vrThree, Instr.faddF32⟩, ⟨vrThree, Instr.fsubF32⟩, ⟨vrThree, Instr.fmulF32⟩, ⟨vrThree, Instr.ffmaF32⟩, ⟨vrThree, Instr.fminF32⟩,
  ⟨vrThree, Instr.fmaxF32⟩, ⟨[(23, 3), (19, 4), (12, 7), (5, 7), (1, 4), (0, 1)], Instr.fcmpF32⟩, ⟨vrThree, Instr.faddF64⟩, ⟨vrThree, Instr.fsubF64⟩,
  ⟨vrThree, Instr.fmulF64⟩, ⟨vrThree, Instr.ffmaF64⟩, ⟨vrThree, Instr.fminF64⟩, ⟨vrThree, Instr.fmaxF64⟩,
  ⟨[(23, 3), (19, 4), (12, 7), (5, 7), (1, 4), (0, 1)], Instr.fcmpF64⟩, ⟨vrTwo, Instr.absF32⟩, ⟨vrTwo, Instr.negF32⟩, ⟨vrTwo, Instr.sqrtF32⟩,
  ⟨vrTwo, Instr.rcpF32⟩, ⟨vrTwo, Instr.rsqF32⟩, ⟨vrTwo, Instr.exp2F32⟩, ⟨vrTwo, Instr.log2F32⟩, ⟨vrTwo, Instr.floorF32⟩, ⟨vrTwo, Instr.ceilF32⟩,
  ⟨vrTwo, Instr.rintF32⟩, ⟨vrTwo, Instr.truncF32⟩, ⟨vrTwo, Instr.fcvtBf16F32⟩, ⟨vrTwo, Instr.fcvtF16F32⟩, ⟨vrTwo, Instr.fcvtF32Bf16⟩,
  ⟨vrTwo, Instr.fcvtF32F16⟩, ⟨vrTwo, Instr.fcvtF64F32⟩, ⟨vrTwo, Instr.fcvtF32F64⟩, ⟨vrTwo, Instr.fcvtI32F32⟩, ⟨vrTwo, Instr.fcvtF32I32⟩,
  ⟨vrTwo, Instr.fcvtI64F64⟩, ⟨vrTwo, Instr.fcvtF64I64⟩, ⟨vrTwo, Instr.fcvtI32F32Rtz⟩, ⟨vrThree, Instr.iadd⟩, ⟨vrThree, Instr.isub⟩,
  ⟨vrThree, Instr.imul⟩, ⟨vrThree, Instr.imin⟩, ⟨vrThree, Instr.imax⟩, ⟨vrThree, Instr.iminu⟩, ⟨vrThree, Instr.imaxu⟩, ⟨vrThree, Instr.iand⟩,
  ⟨vrThree, Instr.ior⟩, ⟨vrThree, Instr.ixor⟩, ⟨vrThree, Instr.ishl⟩, ⟨vrThree, Instr.ishr⟩, ⟨vrThree, Instr.isar⟩,
  ⟨[(23, 3), (19, 4), (12, 7), (5, 7), (1, 4), (0, 1)], Instr.icmp⟩, ⟨vrTwo, Instr.vmov⟩, ⟨vrThree, Instr.vsel⟩, ⟨vrThree, Instr.vperm⟩,
  ⟨[(19, 7), (12, 7), (5, 4), (1, 4), (0, 1)], Instr.vbcast⟩, ⟨[(19, 7), (12, 7), (5, 3), (1, 4), (0, 1)], Instr.vbcastD⟩,
  ⟨[(19, 7), (12, 6), (1, 4)], Instr.vbcastScalar⟩, ⟨[(19, 7), (12, 6), (1, 4)], Instr.vbcastDScalar⟩, ⟨vrThree, Instr.vext⟩,
  ⟨vrTwo, Instr.vredFaddF32⟩, ⟨vrTwo, Instr.vredFmaxF32⟩, ⟨vrTwo, Instr.vredFminF32⟩, ⟨vrTwo, Instr.vredIadd⟩, ⟨vrTwo, Instr.vredImax⟩,
  ⟨vrTwo, Instr.vredImin⟩, ⟨vrTwo, Instr.vredFaddF64⟩, ⟨[(19, 7), (12, 4), (1, 4)], Instr.viota⟩,
  ⟨[(19, 7), (12, 7), (10, 1), (5, 4), (0, 1)], Instr.vplanePack⟩, ⟨[(19, 7), (12, 7), (10, 1), (5, 4), (0, 1)], Instr.vplaneUnpack⟩,
  ⟨[(19, 4), (12, 4), (5, 4), (1, 4)], Instr.pand⟩, ⟨[(19, 4), (12, 4), (5, 4), (1, 4)], Instr.por⟩,
  ⟨[(19, 4), (12, 4), (5, 4), (1, 4)], Instr.pxor⟩, ⟨[(19, 4), (12, 4), (5, 4), (1, 4)], Instr.pandn⟩, ⟨[(19, 4), (12, 4), (1, 4)], Instr.pnot⟩,
  ⟨[(19, 4), (12, 4), (1, 4)], Instr.pmov⟩, ⟨[(19, 4), (1, 4)], Instr.pset⟩, ⟨[(19, 4), (1, 4)], Instr.pclr⟩,
  ⟨[(19, 7), (12, 4), (1, 4)], Instr.pcnt⟩]

/-- The forms of the rows of LS, in their order. -/
def lsForms : List Form := [
  ⟨[(19, 6), (13, 6), (11, 2), (0, 11)], Instr.ld⟩, ⟨[(19, 6), (13, 6), (11, 2), (0, 11)], Instr.ldz⟩,
  ⟨[(19, 6), (13, 6), (11, 2), (0, 11)], Instr.st⟩, ⟨[(19, 7), (13, 6), (0, 11)], Instr.vld⟩, ⟨[(19, 7), (13, 6), (0, 11)], Instr.vst⟩,
  ⟨[(19, 7), (13, 6), (7, 6), (0, 7)], Instr.vlds⟩, ⟨[(19, 7), (13, 6), (7, 6), (0, 7)], Instr.vsts⟩,
  ⟨[(19, 7), (13, 6), (7, 6), (0, 2)], Instr.vgth⟩, ⟨[(19, 7), (13, 6), (7, 6), (0, 2)], Instr.vsct⟩,
  ⟨[(19, 6), (13, 6), (11, 2), (0, 11)], Instr.fil⟩, ⟨[(19, 6), (13, 6), (11, 2), (0, 11)], Instr.spl⟩, ⟨[(19, 7), (13, 6), (0, 11)], Instr.vfil⟩,
  ⟨[(19, 7), (13, 6), (0, 11)], Instr.vspl⟩, ⟨[(19, 4), (13, 6), (0, 7)], Instr.oclaim⟩, ⟨[(19, 4)], Instr.orelease⟩,
  ⟨[(19, 4), (13, 6), (7, 6)], Instr.ofill⟩, ⟨[(19, 6), (0, 4)], Instr.ostat⟩, ⟨[(13, 6), (11, 2), (0, 11)], Instr.scld⟩,
  ⟨[(19, 6), (7, 6), (0, 4)], Instr.bfmt⟩, ⟨[(19, 6), (13, 6), (7, 6), (2, 1), (0, 2)], Instr.aadd⟩,
  ⟨[(19, 6), (13, 6), (7, 6), (2, 1), (0, 2)], Instr.amin⟩, ⟨[(19, 6), (13, 6), (7, 6), (2, 1), (0, 2)], Instr.amax⟩,
  ⟨[(19, 6), (13, 6), (7, 6), (2, 1), (0, 2)], Instr.aand⟩, ⟨[(19, 6), (13, 6), (7, 6), (2, 1), (0, 2)], Instr.aor⟩,
  ⟨[(19, 6), (13, 6), (7, 6), (2, 1), (0, 2)], Instr.axchg⟩, ⟨[(19, 6), (13, 6), (7, 6), (2, 1), (0, 2)], Instr.acas⟩,
  ⟨[(19, 6), (13, 6), (7, 6), (0, 2)], Instr.aaddf⟩, ⟨[], Instr.fencePackage⟩, ⟨[], Instr.fenceSystem⟩, ⟨[(19, 7), (0, 7)], Instr.fencex⟩]

/-- The forms of the rows of MX, in their order. -/
def mxForms : List Form := [
  ⟨[(20, 6), (0, 8)], Instr.mset⟩, ⟨[(23, 3), (19, 4), (15, 4), (10, 1), (9, 1)], Instr.mma⟩,
  ⟨[(23, 3), (19, 4), (15, 4), (11, 4), (10, 1), (9, 1)], Instr.mmas⟩, ⟨[(23, 3), (17, 6), (11, 6), (7, 4), (6, 1)], Instr.mret⟩,
  ⟨[(23, 3), (17, 6), (11, 6), (7, 4), (6, 1)], Instr.mretv⟩, ⟨[(23, 3)], Instr.mzero⟩, ⟨[], Instr.mdrain⟩, ⟨[(23, 3), (17, 6)], Instr.mlda⟩,
  ⟨[(23, 3), (17, 6)], Instr.msta⟩, ⟨[(19, 7), (12, 7)], Instr.rfwd⟩, ⟨[(19, 7), (18, 1), (12, 6), (5, 3)], Instr.rrev⟩,
  ⟨[(19, 7), (12, 7), (5, 2)], Instr.rchk⟩, ⟨[], Instr.mchanScrub⟩, ⟨[(20, 6)], Instr.mchanThresh⟩, ⟨[(20, 6)], Instr.mchanClear⟩,
  ⟨[(20, 6), (0, 5)], Instr.mchanFail⟩, ⟨[(20, 6), (8, 1), (5, 3), (0, 5)], Instr.minj⟩]

/-- The forms of the rows of CP, in their order. -/
def cpForms : List Form := [
  ⟨[(24, 2), (18, 6), (12, 6)], Instr.cset⟩, ⟨[(24, 2), (12, 6)], Instr.cshape⟩, ⟨[(24, 2), (12, 6), (6, 6)], Instr.cgo⟩,
  ⟨[(24, 2), (18, 6), (12, 6)], Instr.cwp⟩, ⟨[(24, 2), (18, 6)], Instr.cwait⟩, ⟨[(24, 2), (18, 6)], Instr.crec⟩, ⟨[(12, 6)], Instr.ccan⟩]

/-- The forms of the rows of NW, in their order. -/
def nwForms : List Form := [
  ⟨[(13, 6)], Instr.fork⟩, ⟨memTwo, Instr.join⟩, ⟨[(19, 6)], Instr.next⟩, ⟨[], Instr.yield⟩, ⟨[(19, 6), (13, 6), (7, 6), (0, 7)], Instr.watch⟩,
  ⟨[(0, 7)], Instr.bara⟩, ⟨[(19, 6), (13, 6), (0, 7)], Instr.barw⟩, ⟨[(13, 6), (0, 7)], Instr.bari⟩, ⟨memThree, Instr.xenq⟩,
  ⟨memThree, Instr.xcfgLoad⟩, ⟨memTwo, Instr.xcfgHalt⟩, ⟨memTwo, Instr.xcfgResume⟩, ⟨memTwo, Instr.xcfgPurge⟩, ⟨memTwo, Instr.xcfgOff⟩,
  ⟨[(19, 6), (13, 6), (0, 7)], Instr.xstat⟩, ⟨memTwo, Instr.xdisp⟩, ⟨[(13, 6), (7, 6), (0, 7)], Instr.xpref⟩, ⟨[(13, 6)], Instr.xcan⟩,
  ⟨memTwo, Instr.tcreate⟩, ⟨memTwo, Instr.tdestroy⟩, ⟨memThree, Instr.tedit⟩, ⟨[(13, 6), (7, 6)], Instr.tpost⟩, ⟨memTwo, Instr.twait⟩,
  ⟨memTwo, Instr.tfreeze⟩, ⟨memThree, Instr.tsave⟩, ⟨memThree, Instr.trestore⟩, ⟨[(19, 6), (13, 6), (0, 7)], Instr.tqry⟩,
  ⟨[(20, 6), (14, 5)], Instr.rld⟩, ⟨[(20, 6), (14, 5)], Instr.rst⟩, ⟨[(19, 6), (14, 5), (7, 6), (5, 1), (3, 2), (0, 3)], Instr.ratom⟩,
  ⟨memTwo, Instr.rfence⟩, ⟨[(19, 6)], Instr.rfenceAll⟩, ⟨memTwo, Instr.fsend⟩, ⟨[(19, 6), (13, 6), (0, 7)], Instr.fclk⟩,
  ⟨[(13, 6), (0, 7)], Instr.hsig⟩, ⟨[(13, 6), (7, 6)], Instr.rgnctlCreate⟩, ⟨[(13, 6), (7, 6)], Instr.rgnctlDestroy⟩,
  ⟨[(13, 6), (7, 6)], Instr.rgnctlLaunch⟩, ⟨[(13, 6), (7, 6)], Instr.rgnctlPreempt⟩, ⟨[(13, 6), (7, 6)], Instr.rgnctlPark⟩,
  ⟨[(13, 6), (7, 6)], Instr.rgnctlResume⟩, ⟨[(13, 6), (7, 6)], Instr.rgnctlKill⟩, ⟨[(13, 6), (7, 6)], Instr.rgnctlReload⟩,
  ⟨[(13, 6), (7, 6)], Instr.rgnctlQuery⟩, ⟨memThree, Instr.xlinv⟩, ⟨memThree, Instr.xlinvForce⟩, ⟨memThree, Instr.xlpin⟩, ⟨memThree, Instr.xlunpin⟩]

/-- The rows and the forms of the instructions of a kind. -/
def rowsOf : SlotKind → List Row
  | .scalar => scalarRows
  | .control => controlRows
  | .vector => vectorRows
  | .ls => lsRows
  | .mx => mxRows
  | .cp => cpRows
  | .nw => nwRows
  | _ => []

/-- The forms of the instructions of a kind. -/
def formsOf : SlotKind → List Form
  | .scalar => scalarForms
  | .control => controlForms
  | .vector => vectorForms
  | .ls => lsForms
  | .mx => mxForms
  | .cp => cpForms
  | .nw => nwForms
  | _ => []

/-- Each row reads and writes the form at its place. -/
theorem rowsOf_formsOf (k : SlotKind) : List.Forall₂ (RowOf k) (rowsOf k) (formsOf k) := by
  cases k
  case any => exact .nil
  case event => exact .nil
  all_goals
    repeat refine List.Forall₂.cons (by exact ⟨fun _ => rfl, fun _ => rfl, fun _ => rfl, by decide, by decide⟩) ?_
    exact .nil

/-- Every instruction of a slot but NOP has a form. -/
theorem exists_form (i : Instr) (hk : i.slotKind ≠ .event) (hn : i ≠ .nop) : ∃ e ∈ formsOf i.slotKind, ∃ xs, e.instr xs = i := by
  cases i with
  | add a b c d => exact ⟨_, List.mem_of_getElem? (i := 0) rfl, (a, b, c, d, ()), rfl⟩
  | sub a b c d => exact ⟨_, List.mem_of_getElem? (i := 1) rfl, (a, b, c, d, ()), rfl⟩
  | and a b c d => exact ⟨_, List.mem_of_getElem? (i := 2) rfl, (a, b, c, d, ()), rfl⟩
  | or a b c d => exact ⟨_, List.mem_of_getElem? (i := 3) rfl, (a, b, c, d, ()), rfl⟩
  | xor a b c d => exact ⟨_, List.mem_of_getElem? (i := 4) rfl, (a, b, c, d, ()), rfl⟩
  | andn a b c d => exact ⟨_, List.mem_of_getElem? (i := 5) rfl, (a, b, c, d, ()), rfl⟩
  | shl a b c d => exact ⟨_, List.mem_of_getElem? (i := 6) rfl, (a, b, c, d, ()), rfl⟩
  | shr a b c d => exact ⟨_, List.mem_of_getElem? (i := 7) rfl, (a, b, c, d, ()), rfl⟩
  | sar a b c d => exact ⟨_, List.mem_of_getElem? (i := 8) rfl, (a, b, c, d, ()), rfl⟩
  | rol a b c d => exact ⟨_, List.mem_of_getElem? (i := 9) rfl, (a, b, c, d, ()), rfl⟩
  | min a b c d => exact ⟨_, List.mem_of_getElem? (i := 10) rfl, (a, b, c, d, ()), rfl⟩
  | max a b c d => exact ⟨_, List.mem_of_getElem? (i := 11) rfl, (a, b, c, d, ()), rfl⟩
  | minu a b c d => exact ⟨_, List.mem_of_getElem? (i := 12) rfl, (a, b, c, d, ()), rfl⟩
  | maxu a b c d => exact ⟨_, List.mem_of_getElem? (i := 13) rfl, (a, b, c, d, ()), rfl⟩
  | mul a b c d => exact ⟨_, List.mem_of_getElem? (i := 14) rfl, (a, b, c, d, ()), rfl⟩
  | mulh a b c d => exact ⟨_, List.mem_of_getElem? (i := 15) rfl, (a, b, c, d, ()), rfl⟩
  | mulhu a b c d => exact ⟨_, List.mem_of_getElem? (i := 16) rfl, (a, b, c, d, ()), rfl⟩
  | div a b c d => exact ⟨_, List.mem_of_getElem? (i := 17) rfl, (a, b, c, d, ()), rfl⟩
  | divu a b c d => exact ⟨_, List.mem_of_getElem? (i := 18) rfl, (a, b, c, d, ()), rfl⟩
  | rem a b c d => exact ⟨_, List.mem_of_getElem? (i := 19) rfl, (a, b, c, d, ()), rfl⟩
  | remu a b c d => exact ⟨_, List.mem_of_getElem? (i := 20) rfl, (a, b, c, d, ()), rfl⟩
  | clz a b c => exact ⟨_, List.mem_of_getElem? (i := 21) rfl, (a, b, c, ()), rfl⟩
  | ctz a b c => exact ⟨_, List.mem_of_getElem? (i := 22) rfl, (a, b, c, ()), rfl⟩
  | popc a b c => exact ⟨_, List.mem_of_getElem? (i := 23) rfl, (a, b, c, ()), rfl⟩
  | sxb a b c => exact ⟨_, List.mem_of_getElem? (i := 24) rfl, (a, b, c, ()), rfl⟩
  | sxh a b c => exact ⟨_, List.mem_of_getElem? (i := 25) rfl, (a, b, c, ()), rfl⟩
  | sxw a b c => exact ⟨_, List.mem_of_getElem? (i := 26) rfl, (a, b, c, ()), rfl⟩
  | zxb a b c => exact ⟨_, List.mem_of_getElem? (i := 27) rfl, (a, b, c, ()), rfl⟩
  | zxh a b c => exact ⟨_, List.mem_of_getElem? (i := 28) rfl, (a, b, c, ()), rfl⟩
  | zxw a b c => exact ⟨_, List.mem_of_getElem? (i := 29) rfl, (a, b, c, ()), rfl⟩
  | cmpEq a b c d => exact ⟨_, List.mem_of_getElem? (i := 30) rfl, (a, b, c, d, ()), rfl⟩
  | cmpNe a b c d => exact ⟨_, List.mem_of_getElem? (i := 31) rfl, (a, b, c, d, ()), rfl⟩
  | cmpLt a b c d => exact ⟨_, List.mem_of_getElem? (i := 32) rfl, (a, b, c, d, ()), rfl⟩
  | cmpLe a b c d => exact ⟨_, List.mem_of_getElem? (i := 33) rfl, (a, b, c, d, ()), rfl⟩
  | cmpLtu a b c d => exact ⟨_, List.mem_of_getElem? (i := 34) rfl, (a, b, c, d, ()), rfl⟩
  | cmpLeu a b c d => exact ⟨_, List.mem_of_getElem? (i := 35) rfl, (a, b, c, d, ()), rfl⟩
  | sel a b c d e => exact ⟨_, List.mem_of_getElem? (i := 36) rfl, (a, b, c, d, e, ()), rfl⟩
  | addi a b c => exact ⟨_, List.mem_of_getElem? (i := 37) rfl, (a, b, c, ()), rfl⟩
  | andi a b c => exact ⟨_, List.mem_of_getElem? (i := 38) rfl, (a, b, c, ()), rfl⟩
  | ori a b c => exact ⟨_, List.mem_of_getElem? (i := 39) rfl, (a, b, c, ()), rfl⟩
  | xori a b c => exact ⟨_, List.mem_of_getElem? (i := 40) rfl, (a, b, c, ()), rfl⟩
  | shli a b c => exact ⟨_, List.mem_of_getElem? (i := 41) rfl, (a, b, c, ()), rfl⟩
  | shri a b c => exact ⟨_, List.mem_of_getElem? (i := 42) rfl, (a, b, c, ()), rfl⟩
  | sari a b c => exact ⟨_, List.mem_of_getElem? (i := 43) rfl, (a, b, c, ()), rfl⟩
  | cmpeqi a b c => exact ⟨_, List.mem_of_getElem? (i := 44) rfl, (a, b, c, ()), rfl⟩
  | cmplti a b c => exact ⟨_, List.mem_of_getElem? (i := 45) rfl, (a, b, c, ()), rfl⟩
  | cmpltui a b c => exact ⟨_, List.mem_of_getElem? (i := 46) rfl, (a, b, c, ()), rfl⟩
  | movi a b c => exact ⟨_, List.mem_of_getElem? (i := 47) rfl, (a, b, c, ()), rfl⟩
  | movk a b c => exact ⟨_, List.mem_of_getElem? (i := 48) rfl, (a, b, c, ()), rfl⟩
  | movsr a b => exact ⟨_, List.mem_of_getElem? (i := 49) rfl, (a, b, ()), rfl⟩
  | movrs a b => exact ⟨_, List.mem_of_getElem? (i := 50) rfl, (a, b, ()), rfl⟩
  | ibset a b c => exact ⟨_, List.mem_of_getElem? (i := 51) rfl, (a, b, c, ()), rfl⟩
  | allot a b c => exact ⟨_, List.mem_of_getElem? (i := 52) rfl, (a, b, c, ()), rfl⟩
  | br a b => exact ⟨_, List.mem_of_getElem? (i := 0) rfl, (a, b, ()), rfl⟩
  | brl a b => exact ⟨_, List.mem_of_getElem? (i := 1) rfl, (a, b, ()), rfl⟩
  | jr a b => exact ⟨_, List.mem_of_getElem? (i := 2) rfl, (a, b, ()), rfl⟩
  | jrl a b => exact ⟨_, List.mem_of_getElem? (i := 3) rfl, (a, b, ()), rfl⟩
  | loop a b => exact ⟨_, List.mem_of_getElem? (i := 4) rfl, (a, b, ()), rfl⟩
  | loopr a b c => exact ⟨_, List.mem_of_getElem? (i := 5) rfl, (a, b, c, ()), rfl⟩
  | brtop a b => exact ⟨_, List.mem_of_getElem? (i := 6) rfl, (a, b, ()), rfl⟩
  | lexit a b => exact ⟨_, List.mem_of_getElem? (i := 7) rfl, (a, b, ()), rfl⟩
  | trap a b => exact ⟨_, List.mem_of_getElem? (i := 8) rfl, (a, b, ()), rfl⟩
  | endTask => exact ⟨_, List.mem_of_getElem? (i := 9) rfl, (), rfl⟩
  | eret => exact ⟨_, List.mem_of_getElem? (i := 10) rfl, (), rfl⟩
  | faddF32 a b c d e => exact ⟨_, List.mem_of_getElem? (i := 0) rfl, (a, b, c, d, e, ()), rfl⟩
  | fsubF32 a b c d e => exact ⟨_, List.mem_of_getElem? (i := 1) rfl, (a, b, c, d, e, ()), rfl⟩
  | fmulF32 a b c d e => exact ⟨_, List.mem_of_getElem? (i := 2) rfl, (a, b, c, d, e, ()), rfl⟩
  | ffmaF32 a b c d e => exact ⟨_, List.mem_of_getElem? (i := 3) rfl, (a, b, c, d, e, ()), rfl⟩
  | fminF32 a b c d e => exact ⟨_, List.mem_of_getElem? (i := 4) rfl, (a, b, c, d, e, ()), rfl⟩
  | fmaxF32 a b c d e => exact ⟨_, List.mem_of_getElem? (i := 5) rfl, (a, b, c, d, e, ()), rfl⟩
  | fcmpF32 a b c d e f => exact ⟨_, List.mem_of_getElem? (i := 6) rfl, (a, b, c, d, e, f, ()), rfl⟩
  | faddF64 a b c d e => exact ⟨_, List.mem_of_getElem? (i := 7) rfl, (a, b, c, d, e, ()), rfl⟩
  | fsubF64 a b c d e => exact ⟨_, List.mem_of_getElem? (i := 8) rfl, (a, b, c, d, e, ()), rfl⟩
  | fmulF64 a b c d e => exact ⟨_, List.mem_of_getElem? (i := 9) rfl, (a, b, c, d, e, ()), rfl⟩
  | ffmaF64 a b c d e => exact ⟨_, List.mem_of_getElem? (i := 10) rfl, (a, b, c, d, e, ()), rfl⟩
  | fminF64 a b c d e => exact ⟨_, List.mem_of_getElem? (i := 11) rfl, (a, b, c, d, e, ()), rfl⟩
  | fmaxF64 a b c d e => exact ⟨_, List.mem_of_getElem? (i := 12) rfl, (a, b, c, d, e, ()), rfl⟩
  | fcmpF64 a b c d e f => exact ⟨_, List.mem_of_getElem? (i := 13) rfl, (a, b, c, d, e, f, ()), rfl⟩
  | absF32 a b c d => exact ⟨_, List.mem_of_getElem? (i := 14) rfl, (a, b, c, d, ()), rfl⟩
  | negF32 a b c d => exact ⟨_, List.mem_of_getElem? (i := 15) rfl, (a, b, c, d, ()), rfl⟩
  | sqrtF32 a b c d => exact ⟨_, List.mem_of_getElem? (i := 16) rfl, (a, b, c, d, ()), rfl⟩
  | rcpF32 a b c d => exact ⟨_, List.mem_of_getElem? (i := 17) rfl, (a, b, c, d, ()), rfl⟩
  | rsqF32 a b c d => exact ⟨_, List.mem_of_getElem? (i := 18) rfl, (a, b, c, d, ()), rfl⟩
  | exp2F32 a b c d => exact ⟨_, List.mem_of_getElem? (i := 19) rfl, (a, b, c, d, ()), rfl⟩
  | log2F32 a b c d => exact ⟨_, List.mem_of_getElem? (i := 20) rfl, (a, b, c, d, ()), rfl⟩
  | floorF32 a b c d => exact ⟨_, List.mem_of_getElem? (i := 21) rfl, (a, b, c, d, ()), rfl⟩
  | ceilF32 a b c d => exact ⟨_, List.mem_of_getElem? (i := 22) rfl, (a, b, c, d, ()), rfl⟩
  | rintF32 a b c d => exact ⟨_, List.mem_of_getElem? (i := 23) rfl, (a, b, c, d, ()), rfl⟩
  | truncF32 a b c d => exact ⟨_, List.mem_of_getElem? (i := 24) rfl, (a, b, c, d, ()), rfl⟩
  | fcvtBf16F32 a b c d => exact ⟨_, List.mem_of_getElem? (i := 25) rfl, (a, b, c, d, ()), rfl⟩
  | fcvtF16F32 a b c d => exact ⟨_, List.mem_of_getElem? (i := 26) rfl, (a, b, c, d, ()), rfl⟩
  | fcvtF32Bf16 a b c d => exact ⟨_, List.mem_of_getElem? (i := 27) rfl, (a, b, c, d, ()), rfl⟩
  | fcvtF32F16 a b c d => exact ⟨_, List.mem_of_getElem? (i := 28) rfl, (a, b, c, d, ()), rfl⟩
  | fcvtF64F32 a b c d => exact ⟨_, List.mem_of_getElem? (i := 29) rfl, (a, b, c, d, ()), rfl⟩
  | fcvtF32F64 a b c d => exact ⟨_, List.mem_of_getElem? (i := 30) rfl, (a, b, c, d, ()), rfl⟩
  | fcvtI32F32 a b c d => exact ⟨_, List.mem_of_getElem? (i := 31) rfl, (a, b, c, d, ()), rfl⟩
  | fcvtF32I32 a b c d => exact ⟨_, List.mem_of_getElem? (i := 32) rfl, (a, b, c, d, ()), rfl⟩
  | fcvtI64F64 a b c d => exact ⟨_, List.mem_of_getElem? (i := 33) rfl, (a, b, c, d, ()), rfl⟩
  | fcvtF64I64 a b c d => exact ⟨_, List.mem_of_getElem? (i := 34) rfl, (a, b, c, d, ()), rfl⟩
  | fcvtI32F32Rtz a b c d => exact ⟨_, List.mem_of_getElem? (i := 35) rfl, (a, b, c, d, ()), rfl⟩
  | iadd a b c d e => exact ⟨_, List.mem_of_getElem? (i := 36) rfl, (a, b, c, d, e, ()), rfl⟩
  | isub a b c d e => exact ⟨_, List.mem_of_getElem? (i := 37) rfl, (a, b, c, d, e, ()), rfl⟩
  | imul a b c d e => exact ⟨_, List.mem_of_getElem? (i := 38) rfl, (a, b, c, d, e, ()), rfl⟩
  | imin a b c d e => exact ⟨_, List.mem_of_getElem? (i := 39) rfl, (a, b, c, d, e, ()), rfl⟩
  | imax a b c d e => exact ⟨_, List.mem_of_getElem? (i := 40) rfl, (a, b, c, d, e, ()), rfl⟩
  | iminu a b c d e => exact ⟨_, List.mem_of_getElem? (i := 41) rfl, (a, b, c, d, e, ()), rfl⟩
  | imaxu a b c d e => exact ⟨_, List.mem_of_getElem? (i := 42) rfl, (a, b, c, d, e, ()), rfl⟩
  | iand a b c d e => exact ⟨_, List.mem_of_getElem? (i := 43) rfl, (a, b, c, d, e, ()), rfl⟩
  | ior a b c d e => exact ⟨_, List.mem_of_getElem? (i := 44) rfl, (a, b, c, d, e, ()), rfl⟩
  | ixor a b c d e => exact ⟨_, List.mem_of_getElem? (i := 45) rfl, (a, b, c, d, e, ()), rfl⟩
  | ishl a b c d e => exact ⟨_, List.mem_of_getElem? (i := 46) rfl, (a, b, c, d, e, ()), rfl⟩
  | ishr a b c d e => exact ⟨_, List.mem_of_getElem? (i := 47) rfl, (a, b, c, d, e, ()), rfl⟩
  | isar a b c d e => exact ⟨_, List.mem_of_getElem? (i := 48) rfl, (a, b, c, d, e, ()), rfl⟩
  | icmp a b c d e f => exact ⟨_, List.mem_of_getElem? (i := 49) rfl, (a, b, c, d, e, f, ()), rfl⟩
  | vmov a b c d => exact ⟨_, List.mem_of_getElem? (i := 50) rfl, (a, b, c, d, ()), rfl⟩
  | vsel a b c d e => exact ⟨_, List.mem_of_getElem? (i := 51) rfl, (a, b, c, d, e, ()), rfl⟩
  | vperm a b c d e => exact ⟨_, List.mem_of_getElem? (i := 52) rfl, (a, b, c, d, e, ()), rfl⟩
  | vbcast a b c d e => exact ⟨_, List.mem_of_getElem? (i := 53) rfl, (a, b, c, d, e, ()), rfl⟩
  | vbcastD a b c d e => exact ⟨_, List.mem_of_getElem? (i := 54) rfl, (a, b, c, d, e, ()), rfl⟩
  | vbcastScalar a b c => exact ⟨_, List.mem_of_getElem? (i := 55) rfl, (a, b, c, ()), rfl⟩
  | vbcastDScalar a b c => exact ⟨_, List.mem_of_getElem? (i := 56) rfl, (a, b, c, ()), rfl⟩
  | vext a b c d e => exact ⟨_, List.mem_of_getElem? (i := 57) rfl, (a, b, c, d, e, ()), rfl⟩
  | vredFaddF32 a b c d => exact ⟨_, List.mem_of_getElem? (i := 58) rfl, (a, b, c, d, ()), rfl⟩
  | vredFmaxF32 a b c d => exact ⟨_, List.mem_of_getElem? (i := 59) rfl, (a, b, c, d, ()), rfl⟩
  | vredFminF32 a b c d => exact ⟨_, List.mem_of_getElem? (i := 60) rfl, (a, b, c, d, ()), rfl⟩
  | vredIadd a b c d => exact ⟨_, List.mem_of_getElem? (i := 61) rfl, (a, b, c, d, ()), rfl⟩
  | vredImax a b c d => exact ⟨_, List.mem_of_getElem? (i := 62) rfl, (a, b, c, d, ()), rfl⟩
  | vredImin a b c d => exact ⟨_, List.mem_of_getElem? (i := 63) rfl, (a, b, c, d, ()), rfl⟩
  | vredFaddF64 a b c d => exact ⟨_, List.mem_of_getElem? (i := 64) rfl, (a, b, c, d, ()), rfl⟩
  | viota a b c => exact ⟨_, List.mem_of_getElem? (i := 65) rfl, (a, b, c, ()), rfl⟩
  | vplanePack a b c d e => exact ⟨_, List.mem_of_getElem? (i := 66) rfl, (a, b, c, d, e, ()), rfl⟩
  | vplaneUnpack a b c d e => exact ⟨_, List.mem_of_getElem? (i := 67) rfl, (a, b, c, d, e, ()), rfl⟩
  | pand a b c d => exact ⟨_, List.mem_of_getElem? (i := 68) rfl, (a, b, c, d, ()), rfl⟩
  | por a b c d => exact ⟨_, List.mem_of_getElem? (i := 69) rfl, (a, b, c, d, ()), rfl⟩
  | pxor a b c d => exact ⟨_, List.mem_of_getElem? (i := 70) rfl, (a, b, c, d, ()), rfl⟩
  | pandn a b c d => exact ⟨_, List.mem_of_getElem? (i := 71) rfl, (a, b, c, d, ()), rfl⟩
  | pnot a b c => exact ⟨_, List.mem_of_getElem? (i := 72) rfl, (a, b, c, ()), rfl⟩
  | pmov a b c => exact ⟨_, List.mem_of_getElem? (i := 73) rfl, (a, b, c, ()), rfl⟩
  | pset a b => exact ⟨_, List.mem_of_getElem? (i := 74) rfl, (a, b, ()), rfl⟩
  | pclr a b => exact ⟨_, List.mem_of_getElem? (i := 75) rfl, (a, b, ()), rfl⟩
  | pcnt a b c => exact ⟨_, List.mem_of_getElem? (i := 76) rfl, (a, b, c, ()), rfl⟩
  | ld a b c d => exact ⟨_, List.mem_of_getElem? (i := 0) rfl, (a, b, c, d, ()), rfl⟩
  | ldz a b c d => exact ⟨_, List.mem_of_getElem? (i := 1) rfl, (a, b, c, d, ()), rfl⟩
  | st a b c d => exact ⟨_, List.mem_of_getElem? (i := 2) rfl, (a, b, c, d, ()), rfl⟩
  | vld a b c => exact ⟨_, List.mem_of_getElem? (i := 3) rfl, (a, b, c, ()), rfl⟩
  | vst a b c => exact ⟨_, List.mem_of_getElem? (i := 4) rfl, (a, b, c, ()), rfl⟩
  | vlds a b c d => exact ⟨_, List.mem_of_getElem? (i := 5) rfl, (a, b, c, d, ()), rfl⟩
  | vsts a b c d => exact ⟨_, List.mem_of_getElem? (i := 6) rfl, (a, b, c, d, ()), rfl⟩
  | vgth a b c d => exact ⟨_, List.mem_of_getElem? (i := 7) rfl, (a, b, c, d, ()), rfl⟩
  | vsct a b c d => exact ⟨_, List.mem_of_getElem? (i := 8) rfl, (a, b, c, d, ()), rfl⟩
  | fil a b c d => exact ⟨_, List.mem_of_getElem? (i := 9) rfl, (a, b, c, d, ()), rfl⟩
  | spl a b c d => exact ⟨_, List.mem_of_getElem? (i := 10) rfl, (a, b, c, d, ()), rfl⟩
  | vfil a b c => exact ⟨_, List.mem_of_getElem? (i := 11) rfl, (a, b, c, ()), rfl⟩
  | vspl a b c => exact ⟨_, List.mem_of_getElem? (i := 12) rfl, (a, b, c, ()), rfl⟩
  | oclaim a b c => exact ⟨_, List.mem_of_getElem? (i := 13) rfl, (a, b, c, ()), rfl⟩
  | orelease a => exact ⟨_, List.mem_of_getElem? (i := 14) rfl, (a, ()), rfl⟩
  | ofill a b c => exact ⟨_, List.mem_of_getElem? (i := 15) rfl, (a, b, c, ()), rfl⟩
  | ostat a b => exact ⟨_, List.mem_of_getElem? (i := 16) rfl, (a, b, ()), rfl⟩
  | scld a b c => exact ⟨_, List.mem_of_getElem? (i := 17) rfl, (a, b, c, ()), rfl⟩
  | bfmt a b c => exact ⟨_, List.mem_of_getElem? (i := 18) rfl, (a, b, c, ()), rfl⟩
  | aadd a b c d e => exact ⟨_, List.mem_of_getElem? (i := 19) rfl, (a, b, c, d, e, ()), rfl⟩
  | amin a b c d e => exact ⟨_, List.mem_of_getElem? (i := 20) rfl, (a, b, c, d, e, ()), rfl⟩
  | amax a b c d e => exact ⟨_, List.mem_of_getElem? (i := 21) rfl, (a, b, c, d, e, ()), rfl⟩
  | aand a b c d e => exact ⟨_, List.mem_of_getElem? (i := 22) rfl, (a, b, c, d, e, ()), rfl⟩
  | aor a b c d e => exact ⟨_, List.mem_of_getElem? (i := 23) rfl, (a, b, c, d, e, ()), rfl⟩
  | axchg a b c d e => exact ⟨_, List.mem_of_getElem? (i := 24) rfl, (a, b, c, d, e, ()), rfl⟩
  | acas a b c d e => exact ⟨_, List.mem_of_getElem? (i := 25) rfl, (a, b, c, d, e, ()), rfl⟩
  | aaddf a b c d => exact ⟨_, List.mem_of_getElem? (i := 26) rfl, (a, b, c, d, ()), rfl⟩
  | fencePackage => exact ⟨_, List.mem_of_getElem? (i := 27) rfl, (), rfl⟩
  | fenceSystem => exact ⟨_, List.mem_of_getElem? (i := 28) rfl, (), rfl⟩
  | fencex a b => exact ⟨_, List.mem_of_getElem? (i := 29) rfl, (a, b, ()), rfl⟩
  | mset a b => exact ⟨_, List.mem_of_getElem? (i := 0) rfl, (a, b, ()), rfl⟩
  | mma a b c d e => exact ⟨_, List.mem_of_getElem? (i := 1) rfl, (a, b, c, d, e, ()), rfl⟩
  | mmas a b c d e f => exact ⟨_, List.mem_of_getElem? (i := 2) rfl, (a, b, c, d, e, f, ()), rfl⟩
  | mret a b c d e => exact ⟨_, List.mem_of_getElem? (i := 3) rfl, (a, b, c, d, e, ()), rfl⟩
  | mretv a b c d e => exact ⟨_, List.mem_of_getElem? (i := 4) rfl, (a, b, c, d, e, ()), rfl⟩
  | mzero a => exact ⟨_, List.mem_of_getElem? (i := 5) rfl, (a, ()), rfl⟩
  | mdrain => exact ⟨_, List.mem_of_getElem? (i := 6) rfl, (), rfl⟩
  | mlda a b => exact ⟨_, List.mem_of_getElem? (i := 7) rfl, (a, b, ()), rfl⟩
  | msta a b => exact ⟨_, List.mem_of_getElem? (i := 8) rfl, (a, b, ()), rfl⟩
  | rfwd a b => exact ⟨_, List.mem_of_getElem? (i := 9) rfl, (a, b, ()), rfl⟩
  | rrev a b c d => exact ⟨_, List.mem_of_getElem? (i := 10) rfl, (a, b, c, d, ()), rfl⟩
  | rchk a b c => exact ⟨_, List.mem_of_getElem? (i := 11) rfl, (a, b, c, ()), rfl⟩
  | mchanScrub => exact ⟨_, List.mem_of_getElem? (i := 12) rfl, (), rfl⟩
  | mchanThresh a => exact ⟨_, List.mem_of_getElem? (i := 13) rfl, (a, ()), rfl⟩
  | mchanClear a => exact ⟨_, List.mem_of_getElem? (i := 14) rfl, (a, ()), rfl⟩
  | mchanFail a b => exact ⟨_, List.mem_of_getElem? (i := 15) rfl, (a, b, ()), rfl⟩
  | minj a b c d => exact ⟨_, List.mem_of_getElem? (i := 16) rfl, (a, b, c, d, ()), rfl⟩
  | cset a b c => exact ⟨_, List.mem_of_getElem? (i := 0) rfl, (a, b, c, ()), rfl⟩
  | cshape a b => exact ⟨_, List.mem_of_getElem? (i := 1) rfl, (a, b, ()), rfl⟩
  | cgo a b c => exact ⟨_, List.mem_of_getElem? (i := 2) rfl, (a, b, c, ()), rfl⟩
  | cwp a b c => exact ⟨_, List.mem_of_getElem? (i := 3) rfl, (a, b, c, ()), rfl⟩
  | cwait a b => exact ⟨_, List.mem_of_getElem? (i := 4) rfl, (a, b, ()), rfl⟩
  | crec a b => exact ⟨_, List.mem_of_getElem? (i := 5) rfl, (a, b, ()), rfl⟩
  | ccan a => exact ⟨_, List.mem_of_getElem? (i := 6) rfl, (a, ()), rfl⟩
  | fork a => exact ⟨_, List.mem_of_getElem? (i := 0) rfl, (a, ()), rfl⟩
  | join a b => exact ⟨_, List.mem_of_getElem? (i := 1) rfl, (a, b, ()), rfl⟩
  | next a => exact ⟨_, List.mem_of_getElem? (i := 2) rfl, (a, ()), rfl⟩
  | yield => exact ⟨_, List.mem_of_getElem? (i := 3) rfl, (), rfl⟩
  | watch a b c d => exact ⟨_, List.mem_of_getElem? (i := 4) rfl, (a, b, c, d, ()), rfl⟩
  | bara a => exact ⟨_, List.mem_of_getElem? (i := 5) rfl, (a, ()), rfl⟩
  | barw a b c => exact ⟨_, List.mem_of_getElem? (i := 6) rfl, (a, b, c, ()), rfl⟩
  | bari a b => exact ⟨_, List.mem_of_getElem? (i := 7) rfl, (a, b, ()), rfl⟩
  | xenq a b c => exact ⟨_, List.mem_of_getElem? (i := 8) rfl, (a, b, c, ()), rfl⟩
  | xcfgLoad a b c => exact ⟨_, List.mem_of_getElem? (i := 9) rfl, (a, b, c, ()), rfl⟩
  | xcfgHalt a b => exact ⟨_, List.mem_of_getElem? (i := 10) rfl, (a, b, ()), rfl⟩
  | xcfgResume a b => exact ⟨_, List.mem_of_getElem? (i := 11) rfl, (a, b, ()), rfl⟩
  | xcfgPurge a b => exact ⟨_, List.mem_of_getElem? (i := 12) rfl, (a, b, ()), rfl⟩
  | xcfgOff a b => exact ⟨_, List.mem_of_getElem? (i := 13) rfl, (a, b, ()), rfl⟩
  | xstat a b c => exact ⟨_, List.mem_of_getElem? (i := 14) rfl, (a, b, c, ()), rfl⟩
  | xdisp a b => exact ⟨_, List.mem_of_getElem? (i := 15) rfl, (a, b, ()), rfl⟩
  | xpref a b c => exact ⟨_, List.mem_of_getElem? (i := 16) rfl, (a, b, c, ()), rfl⟩
  | xcan a => exact ⟨_, List.mem_of_getElem? (i := 17) rfl, (a, ()), rfl⟩
  | tcreate a b => exact ⟨_, List.mem_of_getElem? (i := 18) rfl, (a, b, ()), rfl⟩
  | tdestroy a b => exact ⟨_, List.mem_of_getElem? (i := 19) rfl, (a, b, ()), rfl⟩
  | tedit a b c => exact ⟨_, List.mem_of_getElem? (i := 20) rfl, (a, b, c, ()), rfl⟩
  | tpost a b => exact ⟨_, List.mem_of_getElem? (i := 21) rfl, (a, b, ()), rfl⟩
  | twait a b => exact ⟨_, List.mem_of_getElem? (i := 22) rfl, (a, b, ()), rfl⟩
  | tfreeze a b => exact ⟨_, List.mem_of_getElem? (i := 23) rfl, (a, b, ()), rfl⟩
  | tsave a b c => exact ⟨_, List.mem_of_getElem? (i := 24) rfl, (a, b, c, ()), rfl⟩
  | trestore a b c => exact ⟨_, List.mem_of_getElem? (i := 25) rfl, (a, b, c, ()), rfl⟩
  | tqry a b c => exact ⟨_, List.mem_of_getElem? (i := 26) rfl, (a, b, c, ()), rfl⟩
  | rld a b => exact ⟨_, List.mem_of_getElem? (i := 27) rfl, (a, b, ()), rfl⟩
  | rst a b => exact ⟨_, List.mem_of_getElem? (i := 28) rfl, (a, b, ()), rfl⟩
  | ratom a b c d e f => exact ⟨_, List.mem_of_getElem? (i := 29) rfl, (a, b, c, d, e, f, ()), rfl⟩
  | rfence a b => exact ⟨_, List.mem_of_getElem? (i := 30) rfl, (a, b, ()), rfl⟩
  | rfenceAll a => exact ⟨_, List.mem_of_getElem? (i := 31) rfl, (a, ()), rfl⟩
  | fsend a b => exact ⟨_, List.mem_of_getElem? (i := 32) rfl, (a, b, ()), rfl⟩
  | fclk a b c => exact ⟨_, List.mem_of_getElem? (i := 33) rfl, (a, b, c, ()), rfl⟩
  | hsig a b => exact ⟨_, List.mem_of_getElem? (i := 34) rfl, (a, b, ()), rfl⟩
  | rgnctlCreate a b => exact ⟨_, List.mem_of_getElem? (i := 35) rfl, (a, b, ()), rfl⟩
  | rgnctlDestroy a b => exact ⟨_, List.mem_of_getElem? (i := 36) rfl, (a, b, ()), rfl⟩
  | rgnctlLaunch a b => exact ⟨_, List.mem_of_getElem? (i := 37) rfl, (a, b, ()), rfl⟩
  | rgnctlPreempt a b => exact ⟨_, List.mem_of_getElem? (i := 38) rfl, (a, b, ()), rfl⟩
  | rgnctlPark a b => exact ⟨_, List.mem_of_getElem? (i := 39) rfl, (a, b, ()), rfl⟩
  | rgnctlResume a b => exact ⟨_, List.mem_of_getElem? (i := 40) rfl, (a, b, ()), rfl⟩
  | rgnctlKill a b => exact ⟨_, List.mem_of_getElem? (i := 41) rfl, (a, b, ()), rfl⟩
  | rgnctlReload a b => exact ⟨_, List.mem_of_getElem? (i := 42) rfl, (a, b, ()), rfl⟩
  | rgnctlQuery a b => exact ⟨_, List.mem_of_getElem? (i := 43) rfl, (a, b, ()), rfl⟩
  | xlinv a b c => exact ⟨_, List.mem_of_getElem? (i := 44) rfl, (a, b, c, ()), rfl⟩
  | xlinvForce a b c => exact ⟨_, List.mem_of_getElem? (i := 45) rfl, (a, b, c, ()), rfl⟩
  | xlpin a b c => exact ⟨_, List.mem_of_getElem? (i := 46) rfl, (a, b, c, ()), rfl⟩
  | xlunpin a b c => exact ⟨_, List.mem_of_getElem? (i := 47) rfl, (a, b, c, ()), rfl⟩
  | nop => exact absurd rfl hn
  | _ => exact absurd rfl hk

/-! ### No word fits two rows -/

/-- Two fields ask for different values of one bit. -/
def differ (f g : Nat × Nat × Nat) : Bool :=
  (List.range 32).any fun k => decide (f.1 ≤ k ∧ k < f.1 + f.2.1) && decide (g.1 ≤ k ∧ k < g.1 + g.2.1) &&
    f.2.2.testBit (k - f.1) != g.2.2.testBit (k - g.1)

/-- Two rows fix a bit differently. -/
def clash (r q : Row) : Bool := r.op != q.op || r.fixed.any fun f => q.fixed.any fun g => differ f g

/-- A bit of a word that has a field. -/
theorem getLsbD_of_fixedFit {fs : List (Nat × Nat × Nat)} {w : BitVec 32} (hw : fixedFit fs w = true) {f : Nat × Nat × Nat} (hf : f ∈ fs) {k : Nat}
    (hlo : f.1 ≤ k) (hhi : k < f.1 + f.2.1) : w.getLsbD k = f.2.2.testBit (k - f.1) := by
  rw [← beq_iff_eq.1 (List.all_eq_true.1 hw f hf), testBit_fieldIn, decide_eq_true (Nat.sub_lt_left_of_lt_add hlo hhi), Bool.true_and,
    Nat.add_sub_cancel' hlo]

/-- No word fits two rows that clash. -/
theorem fits_of_clash {r q : Row} (h : clash r q = true) {w : BitVec 32} (hr : r.fits w = true) : q.fits w ≠ true := by
  intro hq
  obtain ⟨hrop, hrfix⟩ := Bool.and_eq_true_iff.1 hr
  obtain ⟨hqop, hqfix⟩ := Bool.and_eq_true_iff.1 hq
  have hop : (r.op != q.op) = false := by rw [← beq_iff_eq.1 hrop, ← beq_iff_eq.1 hqop, bne_self_eq_false]
  rw [clash, hop, Bool.false_or] at h
  obtain ⟨f, hf, h⟩ := List.any_eq_true.1 h
  obtain ⟨g, hg, h⟩ := List.any_eq_true.1 h
  obtain ⟨k, -, h⟩ := List.any_eq_true.1 h
  obtain ⟨h, hne⟩ := Bool.and_eq_true_iff.1 h
  obtain ⟨hfk, hgk⟩ := Bool.and_eq_true_iff.1 h
  have hfk := of_decide_eq_true hfk
  have hgk := of_decide_eq_true hgk
  rw [← getLsbD_of_fixedFit hrfix hf hfk.1 hfk.2, ← getLsbD_of_fixedFit hqfix hg hgk.1 hgk.2, bne_self_eq_false] at hne
  exact Bool.false_ne_true hne

/-- The rows of a slot clash, each with each. -/
theorem slotRows_clash (sl : Slot) : (slotRows sl).Pairwise fun r q => clash r q = true := by
  cases sl <;> decide +kernel

/-- No row of a slot has the opcode of NOP. -/
theorem op_ne_zero (sl : Slot) : ∀ r ∈ slotRows sl, r.op ≠ 0 := by
  cases sl <;> decide

/-- The row that a word fits is the one that the decoder finds. -/
theorem find_of_fits {rows : List Row} (hclash : rows.Pairwise fun r q => clash r q = true) {r : Row} (hr : r ∈ rows) {w : BitVec 32}
    (hw : r.fits w = true) : rows.find? (fun r => r.fits w) = some r := by
  induction rows with
  | nil => cases hr
  | cons q rows ih =>
    obtain ⟨hq, hrows⟩ := List.pairwise_cons.1 hclash
    rw [List.find?_cons]
    cases hqw : q.fits w with
    | true =>
      cases hr with
      | head => rfl
      | tail _ hr => exact absurd hw (fits_of_clash (hq r hr) hqw)
    | false =>
      cases hr with
      | head => exact absurd hw (hqw ▸ Bool.false_ne_true)
      | tail _ hr => exact ih hrows hr

/-- A slot's rows are those of the kinds that stand in it. -/
theorem mem_slotRows (sl : Slot) (r : Row) : r ∈ slotRows sl ↔ ∃ k, standsIn k sl = true ∧ r ∈ rowsOf k := by
  constructor
  · intro h
    cases sl with
    | sa => exact (List.mem_append.1 h).elim (⟨.scalar, rfl, ·⟩) (⟨.control, rfl, ·⟩)
    | sb => exact ⟨.scalar, rfl, h⟩
    | va => exact ⟨.vector, rfl, h⟩
    | vb => exact ⟨.vector, rfl, h⟩
    | mx => exact ⟨.mx, rfl, h⟩
    | ls => exact ⟨.ls, rfl, h⟩
    | cp => exact ⟨.cp, rfl, h⟩
    | nw => exact ⟨.nw, rfl, h⟩
  · rintro ⟨k, hk, h⟩
    cases k with
    | any => cases h
    | event => cases h
    | scalar =>
      obtain rfl | rfl : sl = .sa ∨ sl = .sb := by simpa [standsIn] using hk
      · exact List.mem_append_left _ h
      · exact h
    | control =>
      obtain rfl : sl = .sa := by simpa [standsIn] using hk
      exact List.mem_append_right _ h
    | vector =>
      obtain rfl | rfl : sl = .va ∨ sl = .vb := by simpa [standsIn] using hk
      · exact h
      · exact h
    | ls =>
      obtain rfl : sl = .ls := by simpa [standsIn] using hk
      exact h
    | mx =>
      obtain rfl : sl = .mx := by simpa [standsIn] using hk
      exact h
    | cp =>
      obtain rfl : sl = .cp := by simpa [standsIn] using hk
      exact h
    | nw =>
      obtain rfl : sl = .nw := by simpa [standsIn] using hk
      exact h

/-- A row of a slot has a form, whose instructions stand there. -/
theorem exists_rowOf {sl : Slot} {r : Row} (h : r ∈ slotRows sl) : ∃ k e, standsIn k sl = true ∧ RowOf k r e := by
  obtain ⟨k, hk, hr⟩ := (mem_slotRows sl r).1 h
  obtain ⟨i, hi, rfl⟩ := List.getElem_of_mem hr
  exact ⟨k, _, hk, (rowsOf_formsOf k).get hi ((rowsOf_formsOf k).length_eq ▸ hi)⟩

/-- An instruction that stands in a slot, but NOP, has a row there. -/
theorem exists_row {sl : Slot} {i : Instr} (hn : i ≠ .nop) (hi : standsIn i.slotKind sl = true) :
    ∃ r ∈ slotRows sl, ∃ e xs, RowOf i.slotKind r e ∧ e.instr xs = i := by
  have hk : i.slotKind ≠ .event := fun h => Bool.false_ne_true (by rw [h] at hi; exact hi)
  obtain ⟨e, he, xs, hxs⟩ := exists_form i hk hn
  obtain ⟨n, hlt, rfl⟩ := List.getElem_of_mem he
  have hrows : n < (rowsOf i.slotKind).length := (rowsOf_formsOf i.slotKind).length_eq ▸ hlt
  exact ⟨_, (mem_slotRows sl _).2 ⟨_, hi, List.getElem_mem hrows⟩, _, xs, (rowsOf_formsOf i.slotKind).get hrows hlt, hxs⟩

/-- What a slot takes a word other than NOP's as: what the row that it fits builds, where that is well formed. -/
theorem decodeSlot_ok {sl : Slot} {w : BitVec 32} (hw : w ≠ 0) (i : Instr) :
    decodeSlot sl w = .ok i ↔ ∃ r ∈ slotRows sl, r.fits w = true ∧ r.build w = i ∧ i.wellFormed = true := by
  rw [decodeSlot, if_neg hw]
  constructor
  · intro h
    cases hfind : (slotRows sl).find? fun r => r.fits w with
    | none =>
      rw [hfind] at h
      simp only at h
      split at h
      · cases h
      · split at h <;> cases h
    | some r =>
      rw [hfind] at h
      simp only at h
      split at h
      · cases h
        exact ⟨r, List.mem_of_find?_eq_some hfind, List.find?_some (p := fun q : Row => q.fits w) hfind, rfl, ‹_›⟩
      · cases h
  · rintro ⟨r, hr, hfit, rfl, hwf⟩
    rw [find_of_fits (slotRows_clash sl) hr hfit]
    exact if_pos hwf

/-- Settles O58: each row reads the fields that the encoder spells, they divide the word, and no word fits two rows of a slot. -/
theorem decodeAndEncodeAgree : Obligations.DecodeAndEncodeAgree := by
  intro sl w i
  by_cases hw : w = 0
  · subst hw
    constructor
    · rintro h
      cases h
      exact ⟨rfl, rfl, rfl⟩
    · rintro ⟨-, henc, hst⟩
      by_contra hne
      have hn : i ≠ .nop := fun h => hne (h ▸ rfl)
      obtain ⟨r, hr, e, xs, hrow, rfl⟩ := exists_row hn hst
      have hop := (Bool.and_eq_true_iff.1 (hrow.build_encoded henc).1).1
      exact op_ne_zero sl r hr (beq_iff_eq.1 hop).symm
  · rw [decodeSlot_ok hw]
    constructor
    · rintro ⟨r, hr, hfit, rfl, hwf⟩
      obtain ⟨k, e, hk, hrow⟩ := exists_rowOf hr
      exact ⟨hwf, hrow.encode_build hfit, by rw [hrow.builds, hrow.stands, hk]⟩
    · rintro ⟨hwf, henc, hst⟩
      have hn : i ≠ .nop := by
        rintro rfl
        exact hw (Option.some.inj henc).symm
      obtain ⟨r, hr, e, xs, hrow, rfl⟩ := exists_row hn hst
      obtain ⟨hfit, hbuild⟩ := hrow.build_encoded henc
      exact ⟨r, hr, hfit, hbuild, hwf⟩

end Sys2Proof.Proofs

/-! What a step answers: every slot instruction is a slot of its bundle, every engine's step a next state. -/

namespace Sys2Proof.Proofs

open Sys2Proof Sys2Proof.Machine Sys2Proof.Rules

/-- A SLOT INSTRUCTION only adds to its bundle, or closes it. -/
theorem exec_slot (i : Instr) (s : State) (hk : i.slotKind ≠ .event) : ∃ sh out, exec i s = s.runSlot sh out := by
  cases i
  case br p i =>
    rw [exec_br, execBr]
    split <;> exact ⟨_, _, rfl⟩
  case brl p i =>
    rw [exec_brl, execBrl]
    split <;> exact ⟨_, _, rfl⟩
  case jr a p =>
    rw [exec_jr, execJr]
    split <;> exact ⟨_, _, rfl⟩
  case jrl a p =>
    rw [exec_jrl, execJrl]
    split <;> exact ⟨_, _, rfl⟩
  all_goals first | exact absurd rfl hk | exact ⟨_, _, rfl⟩

/-- An outcome is a next state. -/
def GoesOn (o : Host.Outcome State Fault Refusal) : Prop := ∃ t, o = .next t

theorem goesOn_next (t : State) : GoesOn (.next t) := ⟨t, rfl⟩

theorem goesOn_stepIf (s : State) (can : Bool) (t : State) : GoesOn (s.stepIf can t) := ⟨_, rfl⟩

theorem goesOn_mxStep (s : State) (f : MxOp → Bool) (g : Nat → MxEnt → State) : GoesOn (s.mxStep f g) := by
  rw [State.mxStep]
  split <;> exact goesOn_next _

theorem goesOn_command (s : State) (w : Nat) : GoesOn (s.command w) := goesOn_stepIf ..

theorem goesOn_ite {c : Prop} [Decidable c] {x y : Host.Outcome State Fault Refusal} (hx : GoesOn x) (hy : GoesOn y) :
    GoesOn (if c then x else y) := by
  split
  · exact hx
  · exact hy

theorem goesOn_resultArrival (s : State) : GoesOn (execResultArrival s) := by
  rw [execResultArrival]
  split
  · exact goesOn_next _
  · split <;> exact goesOn_next _

theorem goesOn_watchTimeout (s : State) : GoesOn (execWatchTimeout s) := by
  rw [execWatchTimeout]
  split
  · exact goesOn_next _
  · split <;> exact goesOn_next _

/-- A step of an engine, of the host or of the fabric answers a next state. -/
theorem exec_event (i : Instr) (s : State) (hk : i.slotKind = .event) : GoesOn (exec i s) := by
  cases i
  case msetExecute => exact goesOn_mxStep ..
  case kstepStart => rw [exec_kstepStart, execKstepStart]; exact goesOn_mxStep ..
  case mzeroExecute => rw [exec_mzeroExecute, execMzeroExecute]; exact goesOn_mxStep ..
  case mldaExecute => exact goesOn_mxStep ..
  case mstaExecute => exact goesOn_mxStep ..
  case mchanExecute => rw [exec_mchanExecute, execMchanExecute]; exact goesOn_mxStep ..
  case minjExecute => rw [exec_minjExecute, execMinjExecute]; exact goesOn_mxStep ..
  case kstepMerge => rw [exec_kstepMerge, execKstepMerge]; split <;> exact goesOn_next _
  case retirement => rw [exec_retirement, execRetirement]; split <;> [split; skip] <;> exact goesOn_next _
  case resultArrival => exact goesOn_resultArrival s
  case watchTimeout => exact goesOn_watchTimeout s
  case treeChunkArrive => exact goesOn_ite (goesOn_stepIf ..) (goesOn_stepIf ..)
  case treeReplicate => exact goesOn_ite (goesOn_stepIf ..) (goesOn_stepIf ..)
  case treeDelivery => exact goesOn_ite (goesOn_stepIf ..) (goesOn_stepIf ..)
  case treeDataError => exact goesOn_ite (goesOn_stepIf ..) (goesOn_ite (goesOn_stepIf ..) (goesOn_stepIf ..))
  case taskRestore => rw [exec_taskRestore, execTaskRestore]; split <;> exact goesOn_next _
  case taskPlacement => rw [exec_taskPlacement, execTaskPlacement]; split <;> exact goesOn_next _
  case quantumExpiry => rw [exec_quantumExpiry, execQuantumExpiry]; split <;> exact goesOn_next _
  case joinRelief => rw [exec_joinRelief, execJoinRelief]; split <;> exact goesOn_next _
  case pageWalk => rw [exec_pageWalk, execPageWalk]; split <;> exact goesOn_next _
  case l2Eviction => exact goesOn_ite (goesOn_stepIf ..) (goesOn_stepIf ..)
  case hostWrite => exact goesOn_ite (goesOn_stepIf ..) (goesOn_stepIf ..)
  case remoteErrorReply => exact goesOn_ite (goesOn_stepIf ..) (goesOn_stepIf ..)
  case remoteUnreachable => exact goesOn_ite (goesOn_stepIf ..) (goesOn_stepIf ..)
  case remoteAcknowledgement => exact goesOn_ite (goesOn_stepIf ..) (goesOn_stepIf ..)
  case sendFlit => exact goesOn_ite (goesOn_stepIf ..) (goesOn_ite (goesOn_stepIf ..) (goesOn_stepIf ..))
  case stripeSwitch => exact goesOn_ite (goesOn_stepIf ..) (goesOn_stepIf ..)
  case wavelengthHandback => exact goesOn_ite (goesOn_stepIf ..) (goesOn_stepIf ..)
  case wavelengthWithdraw =>
    refine goesOn_ite (goesOn_stepIf ..) ?_
    split <;> exact goesOn_next _
  case reset => exact goesOn_ite (goesOn_command ..) (goesOn_stepIf ..)
  case attest => exact goesOn_ite (goesOn_stepIf ..) (goesOn_stepIf ..)
  case registerWrite => exact goesOn_ite (goesOn_stepIf ..) (goesOn_stepIf ..)
  all_goals first | exact absurd hk SlotKind.noConfusion | exact goesOn_next _

/-! ### A bundle and a turn -/

/-- A slot of a task's bundle goes on. -/
theorem goesOn_runSlot {s : State} (h : s.tid ≠ 0) (sh : Shape) (out : SlotOut) : GoesOn (s.runSlot sh out) := by
  rw [State.runSlot, if_neg h]
  exact goesOn_next _

/-- What a slot word comes to: what it decodes to runs; one that is no instruction of its slot is only noted. -/
def runWord (sl : Slot) (w : BitVec 32) (s : State) : Host.Outcome State Fault Refusal :=
  match decodeSlot sl w with
  | .ok i => exec i s
  | .error _ => s.runSlot (badShape sl w) (.go [])

/-- The state in which a slot word runs: `n` words follow it. -/
def State.atSlot (s : State) (sl : Slot) (n : Nat) : State := { s with bun := { s.bun with left := n, slot := sl.num } }

theorem runSlots_cons (sl : Slot) (w : BitVec 32) (ws : List (Slot × BitVec 32)) (s : State) :
    State.runSlots exec ((sl, w) :: ws) s = match runWord sl w (State.atSlot s sl ws.length) with
      | .next t => State.runSlots exec ws t
      | x => x := rfl

/-- A slot word that is an instruction of its slot has no engine's step for a meaning. -/
theorem slotKind_of_decodeSlot {sl : Slot} {w : BitVec 32} {i : Instr} (h : decodeSlot sl w = .ok i) : i.slotKind ≠ .event := by
  intro hk
  have hst := ((decodeAndEncodeAgree sl w i).1 h).2.2
  rw [hk] at hst
  exact Bool.false_ne_true hst

/-- A slot word is a slot of its bundle. -/
theorem runWord_eq (sl : Slot) (w : BitVec 32) (s : State) : ∃ sh out, runWord sl w s = s.runSlot sh out := by
  rw [runWord]
  split
  · exact exec_slot _ s (slotKind_of_decodeSlot ‹_›)
  · exact ⟨_, _, rfl⟩

/-- The slots of a task's bundle all run. -/
theorem goesOn_runSlots (ws : List (Slot × BitVec 32)) (s : State) (h : s.tid ≠ 0) : GoesOn (State.runSlots exec ws s) := by
  induction ws generalizing s with
  | nil => exact goesOn_next s
  | cons x ws ih =>
    obtain ⟨sl, w⟩ := x
    obtain ⟨sh, out, hrun⟩ := runWord_eq sl w (State.atSlot s sl ws.length)
    rw [runSlots_cons, hrun]
    cases ws with
    | nil =>
      obtain ⟨t, ht⟩ := goesOn_runSlot (s := State.atSlot s sl 0) h sh out
      rw [List.length_nil, ht]
      exact goesOn_next t
    | cons y ws =>
      rw [runSlot_more (State.atSlot s sl (y :: ws).length) sh out h (Nat.succ_ne_zero _)]
      exact ih _ h

/-- The turn of a core that has a bundle is one of its task. -/
theorem tid_of_turnOf {s : State} {b : Bundle} {ws : List (Slot × BitVec 32)} (h : s.turnOf = .bundle b ws) : s.tid ≠ 0 := by
  intro h0
  rw [State.turnOf] at h
  simp only [h0, true_or, if_true] at h
  cases h

theorem goesOn_takeTurn (s : State) : GoesOn (s.takeTurn exec) := by
  rw [State.takeTurn]
  split
  · exact goesOn_next _
  · exact exec_event .idleBundle s rfl
  · exact goesOn_next _
  · exact goesOn_next _
  · exact goesOn_next _
  · exact goesOn_next _
  · exact goesOn_runSlots _ _ (tid_of_turnOf ‹_›)

theorem goesOn_oneOf {s : State} {a b : Option (Host.Outcome State Fault Refusal)} (ha : ∀ x ∈ a, GoesOn x) (hb : ∀ x ∈ b, GoesOn x) :
    GoesOn (s.oneOf a b) := by
  unfold State.oneOf
  split
  · exact ha _ rfl
  · exact hb _ rfl
  · exact goesOn_next _

theorem goesOn_coreTurn (s : State) : ∀ x ∈ s.coreTurn, GoesOn x := by
  intro x hx
  obtain ⟨c, -, rfl⟩ := Option.map_eq_some_iff.1 hx
  exact goesOn_takeTurn _

/-! ### The engines' turn -/

/-- Every step offered is one of an engine. -/
def AllEvents (l : List Timed) : Prop := ∀ x ∈ l, x.1.slotKind = .event

theorem allEvents_nil : AllEvents [] := fun _ h => nomatch h

theorem allEvents_append {l m : List Timed} : AllEvents (l ++ m) ↔ AllEvents l ∧ AllEvents m := List.forall_mem_append

theorem allEvents_offerStep (can : Bool) (i : Instr) (a : StepArgs) : AllEvents (offerStep can i a) ↔ (can = true → i.slotKind = .event) := by
  rw [offerStep]
  cases can with
  | false => exact ⟨fun _ h => absurd h Bool.false_ne_true, fun _ => allEvents_nil⟩
  | true => exact List.forall_mem_singleton.trans ⟨fun h _ => h, fun h => h rfl⟩

theorem allEvents_offerEach {α : Type} (l : List α) (f : α → List Timed) : AllEvents (offerEach l f) ↔ ∀ x ∈ l, AllEvents (f x) := by
  rw [offerEach]
  induction l with
  | nil => exact ⟨fun _ _ hx => absurd hx List.not_mem_nil, fun _ => allEvents_nil⟩
  | cons x l ih => rw [List.foldr_cons, allEvents_append, ih, List.forall_mem_cons]

theorem allEvents_taskSteps (s : State) (tid : Nat) : AllEvents (s.taskSteps tid) := by
  simp only [State.taskSteps, allEvents_append, allEvents_offerEach, allEvents_offerStep, forall_and]
  and_intros <;> intros <;> rfl

theorem allEvents_chanSteps (s : State) (core q : Nat) : AllEvents (s.chanSteps core q) := by
  simp only [State.chanSteps, allEvents_append, allEvents_offerEach, allEvents_offerStep]
  and_intros <;> intros <;> rfl

theorem allEvents_matrixSteps (s : State) (core : Nat) : AllEvents (s.matrixSteps core) := by
  unfold State.matrixSteps
  split
  · exact allEvents_nil
  · simp only [allEvents_append, allEvents_offerStep]
    and_intros <;> intros <;> rfl

theorem allEvents_walk (s : State) (core t : Nat) : AllEvents (match (s.task t).hold with
    | some (.walk va) => offerStep (s.misses (s.task t) va) .pageWalk { unit := core, addr := va }
    | _ => []) := by
  split
  · exact (allEvents_offerStep ..).2 fun _ => rfl
  · exact allEvents_nil

theorem allEvents_coreSteps (s : State) (core : Nat) : AllEvents (s.coreSteps core) := by
  simp only [State.coreSteps, allEvents_append, allEvents_offerEach, allEvents_offerStep, allEvents_matrixSteps, allEvents_chanSteps,
    implies_true, and_true]
  refine ⟨⟨⟨fun _ => rfl, fun t _ => allEvents_walk s core t⟩, fun _ _ _ => rfl⟩, fun _ _ _ => rfl⟩

theorem allEvents_dieSteps (s : State) (die : Nat) : AllEvents (s.dieSteps die) := by
  simp only [State.dieSteps, allEvents_append, allEvents_offerEach, allEvents_offerStep]
  and_intros
  · split
    · simp only [allEvents_append, allEvents_offerStep]
      and_intros <;> intros <;> rfl
    · exact allEvents_nil
  all_goals intros; rfl

theorem allEvents_treeSteps (s : State) (key : Nat) : AllEvents (s.treeSteps key) := by
  simp only [State.treeSteps, allEvents_append, allEvents_offerEach, allEvents_offerStep]
  and_intros <;> intros <;> rfl

theorem allEvents_queueSteps (s : State) (n : Nat) : AllEvents (s.queueSteps n) := by
  simp only [State.queueSteps, allEvents_append, allEvents_offerStep]
  and_intros <;> intros <;> rfl

theorem allEvents_portSteps (s : State) (j : Nat) : AllEvents (s.portSteps j) := by
  simp only [State.portSteps, allEvents_append, allEvents_offerEach, allEvents_offerStep, forall_and]
  and_intros <;> intros <;> rfl

/-- The engines offer their own steps only. -/
theorem allEvents_ownSteps (s : State) : AllEvents s.ownSteps := by
  simp only [State.ownSteps, allEvents_append, allEvents_offerEach, allEvents_offerStep, allEvents_taskSteps, allEvents_coreSteps,
    allEvents_dieSteps, allEvents_treeSteps, allEvents_queueSteps, allEvents_portSteps, implies_true, and_true, true_and, forall_and]
  and_intros <;> intros <;> rfl

theorem goesOn_ownTurn (s : State) : ∀ x ∈ s.ownTurn, GoesOn x := by
  intro x hx
  obtain ⟨y, hy, rfl⟩ := Option.map_eq_some_iff.1 hx
  exact exec_event _ _ (allEvents_ownSteps s y (List.mem_of_getElem? hy))

/-! ### A step -/

theorem goesOn_concluded (s : State) {o : Host.Outcome State Fault Refusal} (h : GoesOn o) : GoesOn (s.concluded o) := by
  obtain ⟨t, rfl⟩ := h
  exact goesOn_next _

/-- Every step answers a next state. -/
theorem goesOn_step (s : State) : s.goesOn := by
  show GoesOn (step s)
  unfold step
  split
  · split
    · exact goesOn_concluded s (exec_event _ _ ‹_›)
    · exact goesOn_next _
  · refine goesOn_concluded _ ?_
    split
    · exact goesOn_oneOf (goesOn_coreTurn _) (goesOn_ownTurn _)
    · exact goesOn_oneOf (goesOn_ownTurn _) (goesOn_coreTurn _)

/-- Settles O55: slot instructions of a task's bundle and engines' steps all answer a next state; a run then goes on, step by step. -/
theorem everyStepGoesOn : Obligations.EveryStepGoesOn := by
  refine ⟨goesOn_step, fun s n => ?_⟩
  induction n generalizing s with
  | zero => exact ⟨s, rfl⟩
  | succ n ih =>
    obtain ⟨t, ht⟩ := goesOn_step s
    obtain ⟨u, hu⟩ := ih t
    refine ⟨u, ?_⟩
    have hstep : Sys2Proof.core.step s = .next t := ht
    simp only [Host.Core.run, hstep]
    exact hu

/-- Settles O59: each spelled word is decoded. -/
theorem spelledWordsDecode : Obligations.SpelledWordsDecode := by
  unfold Obligations.SpelledWordsDecode
  decide +kernel

end Sys2Proof.Proofs

/-! A step runs the bundle at the program counter, or what the agenda names. -/

namespace Sys2Proof.Proofs

open Sys2Proof Sys2Proof.Machine Sys2Proof.Rules

/-- No slot is left to run. -/
theorem runSlots_last (v : Host.Outcome State Fault Refusal) : (match v with | .next t => State.runSlots exec [] t | x => x) = v := by
  cases v <;> rfl

/-- The turn of a task that issues: the bundle at its program counter. -/
theorem turnOf_bundle {u : State} {ws : List Nat} (hid : u.tid ≠ 0) (hstall : (u.core u.cur).stall = 0) (hwait : (u.core u.cur).wait = 0)
    (hidle : u.now.idle = 0) (hhold : ∀ h, u.now.hold = some h → u.holdClears u.tid h = true) (hend : u.now.ending = false)
    (hfetch : u.fetch u.now u.now.pc = .ok ws) (hpacket : checkPacket ws = true) (hheader : isHeader ws (u.now.pc % 16) = true) :
    u.turnOf = .bundle { hdr := ws.getD (u.now.pc % 16) 0, pc := u.now.pc, next := nextBundle ws u.now.pc } (bundleSlots ws (u.now.pc % 16)) := by
  unfold State.turnOf
  cases h : u.now.hold with
  | none => simp [hid, hstall, hwait, hidle, hend, hfetch, hpacket, hheader, h]
  | some x => simp [hid, hstall, hwait, hidle, hend, hfetch, hpacket, hheader, h, hhold x h]

/-- An even turn with nothing on the agenda is the cores'. -/
theorem step_coreTurn {s : State} (hagenda : s.agenda = []) (hturn : s.turn % 2 = 0) {o : Host.Outcome State Fault Refusal}
    (hcore : State.coreTurn { s with turn := s.turn + 1 } = some o) : step s = State.concluded { s with turn := s.turn + 1 } o := by
  unfold step
  rw [hagenda]
  dsimp only
  rw [if_pos hturn]
  refine congrArg _ ?_
  rw [show State.coreTurn { s with agenda := [], turn := s.turn + 1 } = some o by rw [← hagenda]; exact hcore]
  rfl

/-- Settles O52: the turn of a core that issues is its bundle's, and the first word of it runs as what it decodes to. -/
theorem stepRunsDecoded : Obligations.StepRunsDecoded := by
  constructor
  · intro s c ws sl w i r hagenda hturn hnext u k hid hstall hwait hidle hhold hend hfetch hpacket hheader hslots hdec v done
    have hturnOf := turnOf_bundle hid hstall hwait hidle hhold hend hfetch hpacket hheader
    have hcore : State.coreTurn { s with turn := s.turn + 1 } = some (u.takeTurn exec) := by rw [State.coreTurn, hnext]; rfl
    have hrun : u.takeTurn exec = match v with | .next t => State.runSlots exec r t | x => x := by
      rw [State.takeTurn, hturnOf, hslots]
      simp only [State.runSlots, hdec]
      rfl
    rw [step_coreTurn hagenda hturn hcore, hrun]
    refine ⟨rfl, fun hr => ?_⟩
    rw [hr, runSlots_last]
  · intro s i a r hagenda hk
    unfold step
    rw [hagenda]
    exact if_pos hk

end Sys2Proof.Proofs

/-! What the services and the error log change: memory, lines, banks and partitions, and nothing of a unit. -/

namespace Sys2Proof.Machine

open Sys2Proof.Rules

/-- A state after a service has written or reported: no unit has changed, and memory has its form where it had it. -/
structure State.Served (s u : State) : Prop where
  same : s.SameButLines u
  inv  : s.Inv → u.Inv

theorem State.Served.refl (s : State) : s.Served s := ⟨.refl s, id⟩

theorem State.Served.trans {s u w : State} (h : s.Served u) (k : u.Served w) : s.Served w := ⟨h.same.trans k.same, k.inv ∘ h.inv⟩

theorem served_ite {c : Prop} [Decidable c] {s u w : State} (hu : s.Served u) (hw : s.Served w) : s.Served (if c then u else w) := by
  split
  · exact hu
  · exact hw

theorem served_foldl {α : Type} {f : State → α → State} (hf : ∀ (s : State) (x : α), s.Served (f s x)) (l : List α) (s : State) : s.Served (l.foldl f s) := by
  induction l generalizing s with
  | nil => exact .refl s
  | cons x l ih => exact (hf s x).trans (ih _)

theorem served_putPart (s : State) (p : Nat) (q : Part) : s.Served (s.putPart p q) := ⟨by constructor <;> rfl, id⟩

theorem served_homeWrite (s : State) (clk loc : Nat) (bs : List Byte) : s.Served (s.homeWrite clk loc bs).2 := by
  obtain ⟨hsame, hmem⟩ := homeWrite_same s clk loc bs
  refine ⟨hsame, fun h => ?_⟩
  show Memory.wf _ = true
  rw [hmem]
  exact memPutBytes_wf _ _ _ h

/-- One piece of an engine's write, at its home. -/
def writePiece (x : State × Nat × List Byte) (y : Nat × Nat) : State × Nat × List Byte :=
  ((x.1.homeWrite x.2.1 y.1 (x.2.2.take y.2)).2, (x.1.homeWrite x.2.1 y.1 (x.2.2.take y.2)).1, x.2.2.drop y.2)

/-- An engine's write is made piece by piece. -/
theorem engWriteClk_eq (s : State) (p clk a : Nat) (bs : List Byte) : s.engWriteClk p clk a bs =
    (s.engPieces p 2 (bs.length / 4096 + 2) a bs.length).map fun ps => ((ps.foldl writePiece (s, clk, bs)).2.1, (ps.foldl writePiece (s, clk, bs)).1) := rfl

theorem served_pieces (ps : List (Nat × Nat)) (x : State × Nat × List Byte) : x.1.Served (ps.foldl writePiece x).1 := by
  induction ps generalizing x with
  | nil => exact .refl _
  | cons y ps ih => exact (served_homeWrite x.1 x.2.1 y.1 (x.2.2.take y.2)).trans (ih (writePiece x y))

theorem served_engWriteClk {s u : State} {p clk a c : Nat} {bs : List Byte} (h : s.engWriteClk p clk a bs = some (c, u)) : s.Served u := by
  rw [engWriteClk_eq] at h
  obtain ⟨ps, -, hps⟩ := Option.map_eq_some_iff.1 h
  cases hps
  exact served_pieces ps (s, clk, bs)

theorem served_engWrite {s u : State} {p clk a : Nat} {bs : List Byte} (h : s.engWrite p clk a bs = some u) : s.Served u := by
  obtain ⟨⟨c, w⟩, hw, rfl⟩ := Option.map_eq_some_iff.1 h
  exact served_engWriteClk hw

theorem served_engWrite' (s : State) (p a : Nat) (bs : List Byte) : s.Served (s.engWrite' p a bs) := by
  rw [State.engWrite']
  cases h : s.engWrite p (s.part p).pclk a bs with
  | none => exact .refl s
  | some u => exact served_engWrite h

theorem served_postEvent (s : State) (p : Nat) (rec : List Byte) (vec : Nat) : s.Served (s.postEvent p rec vec) := by
  unfold State.postEvent
  exact served_ite (served_putPart ..) ⟨by constructor <;> rfl, memPutBytes_wf _ _ _⟩

theorem served_logError (s : State) (x : Err) : s.Served (s.logError x) := (served_engWrite' ..).trans (served_putPart ..)

theorem served_doom (s : State) (l : List (Nat × Nat)) : s.Served { s with doom := l } := ⟨by constructor <;> rfl, id⟩

theorem served_error (s : State) (x : Err) : s.Served (s.error x) := by
  unfold State.error
  extract_lets q want act idx s2 vec s3 src s4
  have hlog : s.Served s2 := served_logError s x
  have hpost : s.Served s3 := hlog.trans (served_ite (.refl _) (served_postEvent ..))
  have hcount : s.Served s4 := hpost.trans (served_putPart ..)
  refine served_ite (.refl s) (served_ite hlog (hcount.trans ?_))
  exact served_ite (served_doom ..) (served_ite (served_doom ..) (.refl _))

theorem served_formatError (s : State) (cause src p region core tid va : Nat) : s.Served (s.formatError cause src p region core tid va) :=
  served_ite (served_error ..) (.refl s)

theorem served_engFormat (s : State) (src p region core a : Nat) : s.Served (s.engFormat src p region core a) := by
  unfold State.engFormat
  split
  · exact .refl s
  · split
    · exact served_formatError ..
    · exact .refl s

theorem served_pagesFormat (s : State) (src p region core tid a n : Nat) : s.Served (s.pagesFormat src p region core tid a n) := by
  unfold State.pagesFormat
  split
  · exact served_formatError ..
  · exact .refl s

theorem served_structFormat (s : State) (src p region a n : Nat) : s.Served (s.structFormat src p region a n) := by
  unfold State.structFormat
  split
  · exact .refl s
  · exact served_pagesFormat ..

theorem served_svcWrite (s : State) (src p region a : Nat) (bs : List Byte) : s.Served (s.svcWrite src p region a bs) := by
  unfold State.svcWrite
  split
  · exact served_engWrite ‹_›
  · exact served_structFormat ..

theorem served_svcRead (s : State) (src p region a n : Nat) : s.Served (s.svcRead src p region a n) :=
  served_ite (served_structFormat ..) (.refl s)

theorem served_taskError (s : State) (tid cls src : Nat) (tail : List Byte) : s.Served (s.taskError tid cls src tail) := served_error ..

theorem served_putRcb (s : State) (r off n v : Nat) : s.Served (s.putRcb r off n v) := served_ite (served_svcWrite ..) (.refl s)

theorem served_writeUsage (s : State) (r : Nat) : s.Served (s.writeUsage r) := served_putRcb ..

end Sys2Proof.Machine

/-! What reset leaves, and how a task starts (01 R7; 09 R265). -/

namespace Sys2Proof.Machine

open Sys2Proof.Rules

/-! ### Tables made of a function, and units set one after another -/

/-- One entry of a table made of a function. -/
def tabEntry {α : Type} [DecidableEq α] (d : α) (f : Nat → α) (i : Nat) (acc : Tab α) : Tab α := if f i = d then acc else (i, f i) :: acc

theorem tabFind_append {α : Type} (t r : Tab α) (k : Nat) : tabFind (t ++ r) k = (tabFind t k).or (tabFind r k) := by
  induction t with
  | nil => rfl
  | cons x t ih =>
    rw [List.cons_append, tabFind, tabFind, ih]
    split <;> rfl

/-- A table of a function over distinct keys lists the values that are not the default. -/
theorem tabFind_foldr {α : Type} [DecidableEq α] (d : α) (f : Nat → α) (l : List Nat) (k : Nat) :
    tabFind (l.foldr (tabEntry d f) []) k = if k ∈ l ∧ f k ≠ d then some (f k) else none := by
  induction l with
  | nil => simp [tabFind]
  | cons i l ih =>
    rw [List.foldr_cons, tabEntry]
    split
    · rw [ih]
      by_cases hk : k = i
      · subst hk; simp [*]
      · simp [hk]
    · rw [tabFind, ih]
      split
      · subst_vars; simp [*]
      · simp [Ne.symm ‹_›]

/-- A table of a function reads as the function on its range. -/
theorem tabGet_tabOf_append {α : Type} [DecidableEq α] (n : Nat) (d : α) (f : Nat → α) (r : Tab α) (k : Nat) (hr : k < n → tabFind r k = none) :
    tabGet (tabOf n d f ++ r) d k = if k < n then f k else tabGet r d k := by
  have hof : tabFind (tabOf n d f) k = if k < n ∧ f k ≠ d then some (f k) else none := by
    have := tabFind_foldr d f (List.range n) k
    simp only [List.mem_range] at this
    exact this
  rw [tabGet, tabFind_append, hof]
  by_cases hk : k < n
  · rw [hr hk]
    by_cases hd : f k = d <;> simp [hk, hd]
  · simp [hk, tabGet]

/-- A tile of a set that is set reads as it is set; another one stays. -/
theorem tile_foldl_putTile (l : List Nat) (x : Tile) (k : Core) (c : Nat) :
    (l.foldl (fun k c => k.putTile c x) k).tile c = if c ∈ l then x else k.tile c := by
  induction l generalizing k with
  | nil => simp
  | cons i l ih =>
    simp only [List.foldl_cons, ih, List.mem_cons]
    by_cases hl : c ∈ l
    · simp [hl]
    · by_cases hc : c = i
      · subst hc
        simp [Core.tile, Core.putTile]
      · simp [hl, hc, Core.tile, Core.putTile, tabGet_tabPut_ne]

/-- A channel of a set that is set reads as it is set; another one stays. -/
theorem chan_foldl_putChan (l : List Nat) (x : Chan) (k : Core) (q : Nat) :
    (l.foldl (fun k q => k.putChan q x) k).chan q = if q ∈ l then x else k.chan q := by
  induction l generalizing k with
  | nil => simp
  | cons i l ih =>
    simp only [List.foldl_cons, ih, List.mem_cons]
    by_cases hl : q ∈ l
    · simp [hl]
    · by_cases hq : q = i
      · subst hq
        simp [Core.chan, Core.putChan]
      · simp [hl, hq, Core.chan, Core.putChan, tabGet_tabPut_ne]

theorem tiles_foldl_putChan (l : List Nat) (x : Chan) (k : Core) : (l.foldl (fun k q => k.putChan q x) k).tiles = k.tiles := by
  induction l generalizing k with
  | nil => rfl
  | cons i l ih => exact ih _

theorem mem_bitsOf (m n i : Nat) : i ∈ bitsOf m n ↔ i < n ∧ m.testBit i = true := by
  rw [bitsOf, List.mem_filter, List.mem_range, Nat.testBit_eq_decide_div_mod_eq, beq_iff_eq, decide_eq_true_eq]

/-- A signed 32-bit value as 64 bits. -/
theorem ofNat_intBits_signed (n : Nat) : BitVec.ofNat 64 (intBits 64 (signed 32 n)) = (BitVec.ofNat 32 n).signExtend 64 := by
  have hint : (BitVec.ofNat 32 n).toInt = signed 32 n := by
    rw [BitVec.toInt_eq_toNat_cond, BitVec.toNat_ofNat, signed]
    simp only [Nat.reducePow, Nat.reduceSub]
    split <;> split <;> omega
  rw [BitVec.signExtend, hint, BitVec.ofInt, intBits]
  apply BitVec.eq_of_toNat_eq
  simp
  omega

/-- What the registers of a task read as at its start. -/
def startWord (b : List Byte) (i : Nat) : W64 :=
  if i < 2 then BitVec.ofNat 64 (fieldAt b (24 + 8 * i) 8) else BitVec.ofNat 64 (intBits 64 (signed 32 (fieldAt b (40 + 4 * (i - 2)) 4)))

/-- The scalar registers of a task at its start. -/
def startRegs (b : List Byte) (a : Nat) : Tab W64 :=
  (tabOf 9 0 fun i => if i = 0 then 0 else startWord b (i - 1)) ++ (if a % 2 ^ 64 = 0 then [] else [(62, BitVec.ofNat 64 a)])

/-- A record's arguments stand in s1 to s8, its address in s62, and every other register is zero. -/
theorem tabGet_startRegs (b : List Byte) (a n : Nat) : tabGet (startRegs b a) 0 n =
    if n < 9 then (if n = 0 then 0 else startWord b (n - 1)) else if n = 62 then BitVec.ofNat 64 a else 0 := by
  have hlast : tabFind (if a % 2 ^ 64 = 0 then [] else [(62, BitVec.ofNat 64 a)]) n =
      if n = 62 then (if a % 2 ^ 64 = 0 then none else some (BitVec.ofNat 64 a)) else none := by
    split
    · exact (ite_self none).symm
    · by_cases hn : n = 62
      · rw [tabFind, if_pos hn, if_pos hn.symm]
      · rw [tabFind, if_neg hn, if_neg (Ne.symm hn), tabFind]
  rw [startRegs, tabGet_tabOf_append _ _ _ _ _ fun h => by rw [hlast, if_neg (by omega)], tabGet, hlast]
  congr 1
  split
  · split
    · exact (BitVec.eq_of_toNat_eq (by rw [BitVec.toNat_ofNat, ‹a % 2 ^ 64 = 0›]; rfl)).symm
    · rfl
  · rfl

theorem startWord_arg (b : List Byte) {i : Nat} (hi : i < 2) : startWord b i = BitVec.ofNat 64 (fieldAt b (24 + 8 * i) 8) := if_pos hi

theorem startWord_small (b : List Byte) (i : Nat) : startWord b (2 + i) = (BitVec.ofNat 32 (fieldAt b (40 + 4 * i) 4)).signExtend 64 := by
  rw [startWord, if_neg (by omega), ofNat_intBits_signed, Nat.add_sub_cancel_left]

/-! ### A task's start -/

/-- The core of a task that starts: its tiles and channels are its own, and cleared. -/
theorem started_core (k : Core) (tid cm qm : Nat) :
    let k3 := (bitsOf qm 4).foldl (fun k q => k.putChan q {}) ((bitsOf cm 8).foldl (fun k c => k.putTile c { owner := tid }) k)
    (∀ c < 8, cm.testBit c = true → k3.tile c = { owner := tid }) ∧ ∀ q < 4, qm.testBit q = true → k3.chan q = {} := by
  constructor
  · intro c hc hbit
    rw [Core.tile, tiles_foldl_putChan, ← Core.tile, tile_foldl_putTile, if_pos ((mem_bitsOf ..).2 ⟨hc, hbit⟩)]
  · intro q hq hbit
    rw [chan_foldl_putChan, if_pos ((mem_bitsOf ..).2 ⟨hq, hbit⟩)]

/-- Settles O53: reset by its fields; a task starts with its record's arguments, its tiles and channels cleared, and the usage word that is
written last changes no unit. -/
theorem resetAndTaskStart : Obligations.ResetAndTaskStart := by
  have hmbox : ({} : Part).mbstat = 0 := by decide
  refine ⟨⟨rfl, rfl, rfl, rfl, rfl, rfl, rfl, rfl, fun _ => hmbox, rfl⟩, fun s x core _ => ?_⟩
  unfold State.startTask
  extract_lets b r n k ts tid cm qm h arg regs t k1 k2 k3 s1 s2 g s3 u v
  have hsame := (served_writeUsage s3 r).same
  have hv : v = t := by
    have htask : s3.task tid = t := by
      show (if h then _ else _ : State).task tid = t
      split <;> exact task_putTask_self s1 tid t
    show tabGet u.tasks {} tid = t
    rw [hsame.tasks]
    exact htask
  have hcore : u.core core = k3 := by
    have hput : s3.core core = k3 := by
      show (if h then _ else _ : State).core core = k3
      split <;> exact core_putCore_self _ core k3
    show tabGet u.cores {} core = k3
    rw [hsame.cores]
    exact hput
  have hregs (i : Nat) (hi : i ≠ 0) : t.getS i = _ := (if_neg hi).trans (tabGet_startRegs b x.addr i)
  rw [hv, hcore]
  obtain ⟨htiles, hchans⟩ := started_core k1 tid cm qm
  refine ⟨rfl, rfl, rfl, fun i hi => ?_, fun i hi => ?_, ?_, fun i hi h9 h62 => ?_, fun _ => rfl, fun i _ => ?_, rfl, rfl, rfl, rfl, rfl, rfl,
    rfl, rfl, rfl, rfl, fun d => ?_, htiles, hchans⟩
  · rw [hregs _ (by omega), if_pos (by omega), if_neg (by omega), Nat.add_sub_cancel_left, startWord_arg b hi]
  · rw [hregs _ (by omega), if_pos (by omega), if_neg (by omega), show 3 + i - 1 = 2 + i by omega, startWord_small]
  · rw [hregs _ (by omega)]
    rfl
  · rw [hregs _ (by omega), if_neg (by omega), if_neg h62]
  · rfl
  · cases d <;> simp [Task.isEmpty, Task.isFailed, t]

end Sys2Proof.Machine

/-! Stage 4: PRIVILEGE (02 R58, R59; 01 R31). -/

namespace Sys2Proof.Proofs

open Sys2Proof Sys2Proof.Machine Sys2Proof.Rules

/-- The header's checks of a lone word look at its vector reads only. -/
theorem headerOk_shape {sh sh' : Shape} (b : Bundle) (k : Nat) (o p : SlotOut) (hports : sh'.ports = sh.ports) (hvsct : sh'.vsct = sh.vsct) :
    { b with logs := [{ slot := k, shape := sh', out := o }] }.headerOk = { b with logs := [{ slot := k, shape := sh, out := p }] }.headerOk := by
  simp only [Bundle.headerOk, Bundle.portsOk, Bundle.log, Bundle.ports, Bundle.present, anyConflict, List.find?, List.all_cons, List.all_nil,
    List.any_nil]
  cases h5 : k == 5 <;> cases h4 : k == 4 <;> simp [hports, hvsct] <;> rfl

/-- A word whose privilege fails: its bundle traps at stage 4, where its other checks before execution pass. -/
theorem verdict_denied {s : State} {sh sh' : Shape} {r : Option (Bool × Nat)} (o : SlotOut) (h : s.admits sh = true)
    (hsh : sh' = { sh with priv := true, noreg := r }) :
    (s.logSlot sh' o).verdict = .trap (slotTrap s.bun.pc 4 [{ slot := s.bun.slot, cause := 0x07 }]) 0 := by
  obtain ⟨-, -, hl, ht, hcw, hp, hh, hb, -⟩ := (admits_iff s sh).1 h
  have hports : sh'.ports = sh.ports := by rw [hsh]
  have hvsct : sh'.vsct = sh.vsct := by rw [hsh]
  have htarget : sh'.target = sh.target := by rw [hsh]
  have hpend : sh'.pend = none := by rw [hsh]; exact hp
  have hbad : sh'.bad = false := by rw [hsh]; exact hb
  have hpriv : sh'.priv = true := by rw [hsh]
  have hbun : (s.logSlot sh' o).bun = { s.bun with logs := [{ slot := s.bun.slot, shape := sh', out := o }] } := by simp [State.logSlot, hl]
  have hheader : (s.logSlot sh' o).bun.headerOk = true := by
    rw [hbun]
    exact (headerOk_shape s.bun s.bun.slot o (.go []) hports hvsct).trans hh
  have hstray : (s.logSlot sh' o).strays [{ slot := s.bun.slot, shape := sh', out := o }] = false := by
    rw [← htarget] at hcw ht
    unfold State.strays
    rw [closure_ok (s.logSlot sh' o) s.bun.slot sh' o hcw, Bool.or_false]
    cases hs : sh'.target with
    | none => simp [hs]
    | some pc =>
      have hok : (s.logSlot sh' o).targetBad (s.logSlot sh' o).now pc = false := ht pc hs
      simp [hs, hok]
  unfold State.verdict
  simp only [congrArg Bundle.logs hbun, hheader, hstray, List.findSome?_cons, List.findSome?_nil, List.filterMap_cons, List.filterMap_nil, hpend]
  simp only [stage3, Task.stage4, hbad, hpriv]
  rfl

/-- A word whose privilege fails is denied. -/
theorem runSlot_denied {i : Instr} {s : State} {sh sh' : Shape} {r : Option (Bool × Nat)} {o : SlotOut} (h : s.admits sh = true)
    (hi : exec i s = s.runSlot sh' o) (hsh : sh' = { sh with priv := true, noreg := r }) : Denied i s := by
  obtain ⟨hid, hleft, -⟩ := (admits_iff s sh).1 h
  refine ⟨sh', o, ?_⟩
  rw [hi, State.runSlot, if_neg hid]
  simp only [hleft, if_true, State.closeBundle, verdict_denied o h hsh]

theorem specialWritable_of_readOnly : ∀ n ∈ [0x000, 0x001, 0x002, 0x003, 0x008, 0x028, 0x029, 0x02A, 0x040, 0x041, 0x042, 0x043, 0x044, 0x045, 0x046,
    0x047, 0x050, 0x051], specialWritable n = false ∧ (BitVec.ofNat 12 n).toNat = n := by decide

theorem specialHandler_of_lt : ∀ k < 8, specialHandler (BitVec.ofNat 12 (0x040 + k)).toNat = true := by decide

/-- Settles O49: each form asks for privilege in its shape. -/
theorem privilegeTrapsAtStageFour : Obligations.PrivilegeTrapsAtStageFour := by
  refine ⟨fun s d a b w h sl f hf hadm hpriv => ?_, fun s hadm hpriv hword => ?_, fun s a n hn hadm => ?_, fun s d k hk hadm hhand => ?_⟩
  · have hno : (!s.privileged s.now) = true := by rw [hpriv]; rfl
    revert f
    simp only [privilegedForms, List.forall_mem_cons, List.not_mem_nil, false_implies, implies_true, and_true]
    and_intros <;> intro hadm <;> exact runSlot_denied hadm rfl (by rw [hno])
  · have hshape : (!s.privileged s.now || s.now.subject == 0) = true := by rw [hpriv]; rfl
    exact runSlot_denied (r := none) hadm (by rw [exec_eret, execEret, if_neg hword, hshape]) rfl
  · obtain ⟨hro, hval⟩ := specialWritable_of_readOnly n hn
    exact runSlot_denied (r := none) hadm (by rw [exec_movrs, execMovrs, hval, hro]; rfl) rfl
  · exact runSlot_denied (r := none) hadm (by rw [exec_movsr, execMovsr, specialHandler_of_lt k hk, hhand]; rfl) rfl

end Sys2Proof.Proofs

/-! A bundle that traps commits nothing (02 R59; 07 R203, R205). -/

namespace Sys2Proof.Proofs

open Sys2Proof Sys2Proof.Machine Sys2Proof.Rules

/-! ### What landing leaves of a task -/

/-- A task with other registers and results in flight. -/
def withRegs (t : Task) (r : Task) (fs : List Flight) : Task :=
  { t with sregs := r.sregs, vregs := r.vregs, preds := r.preds, ib0 := r.ib0, ib1 := r.ib1, flights := fs }

theorem put_form (t : Task) (d : Dest) (v : VReg) (m : BitVec 16) : t.put d v m = withRegs t (t.put d v m) t.flights := by
  cases d with
  | s n => unfold Task.put Task.putS; dsimp only; split <;> rfl
  | v n => rfl
  | p n => unfold Task.put Task.putP; dsimp only; split <;> rfl
  | ib n => unfold Task.put; dsimp only; split <;> rfl

theorem landOne_form (t : Task) (f : Flight) : t.landOne f = withRegs t (t.landOne f) t.flights := by
  unfold Task.landOne
  split
  · rfl
  · exact put_form ..

theorem landOne_need (t : Task) (f : Flight) (n : Nat) : Task.landOne { t with need := n } f = { t.landOne f with need := n } := by
  unfold Task.landOne Task.put Task.putS Task.putP Task.putV
  split
  · rw [if_pos (c := t.isEmpty f.dst = true) ‹_›]
  · rw [if_neg (c := t.isEmpty f.dst = true) ‹_›]
    cases f.dst with
    | s m => dsimp only; split <;> rfl
    | v m => rfl
    | p m => dsimp only; split <;> rfl
    | ib m => dsimp only; split <;> rfl

theorem foldl_landOne_need (fs : List Flight) (t : Task) (n : Nat) :
    fs.foldl Task.landOne { t with need := n } = { fs.foldl Task.landOne t with need := n } := by
  induction fs generalizing t with
  | nil => rfl
  | cons f fs ih => rw [List.foldl_cons, landOne_need, ih, List.foldl_cons]

theorem land_need (t : Task) (n : Nat) : Task.land { t with need := n } = { t.land with need := n } :=
  foldl_landOne_need _ { t with flights := t.flights.filter fun f => decide (t.nb < f.due) } n

theorem foldl_landOne_form (fs : List Flight) (t : Task) : fs.foldl Task.landOne t = withRegs t (fs.foldl Task.landOne t) t.flights := by
  induction fs generalizing t with
  | nil => rfl
  | cons f fs ih =>
    rw [List.foldl_cons, ih, landOne_form]
    rfl

/-- Landing changes registers, and takes what has landed out of flight. -/
theorem land_form (t : Task) : t.land = withRegs t t.land (t.flights.filter fun f => decide (t.nb < f.due)) := by
  unfold Task.land
  exact foldl_landOne_form ..

/-- A task that stops: what is due has landed, the rest is caught. -/
theorem catchFlights_form (t : Task) : t.catchFlights =
    withRegs t t.land ((t.land.flights.filter fun f => !t.isEmpty f.dst).map fun f => { f with replay := true }) := by
  have hempty (d : Dest) : t.land.isEmpty d = t.isEmpty d := by rw [land_form]; rfl
  unfold Task.catchFlights
  simp only [hempty]
  rw [land_form]
  rfl

/-! ### The trap -/

/-- The task that a trap leaves. -/
def trappedTask (s : State) (x : Trap) (need : Nat) : Task :=
  { Task.catchFlights { s.now with need := need } with
    status := .trapped, trec := x.words s.tid (s.cycle - (s.core s.now.core).cycle0), trapAt := s.cycle, pc := x.pc, idle := 0,
    hold := none, held := 0, walks := [] }

/-- The core that a trap leaves: the task no longer issues. -/
def stoppedCore (k : Core) (tid : Nat) : Core := if k.cur = tid then { k with cur := 0, last := tid } else k

theorem stopIssue_form (s : State) (tid : Nat) : s.stopIssue tid = { s with cores := (s.stopIssue tid).cores } := by
  unfold State.stopIssue
  dsimp only
  split <;> rfl

theorem core_stopIssue (s : State) (tid c : Nat) :
    (s.stopIssue tid).core c = if c = (s.task tid).core then stoppedCore (s.core c) tid else s.core c := by
  unfold State.stopIssue stoppedCore
  dsimp only
  split
  · by_cases hc : c = (s.task tid).core
    · subst hc
      rw [core_putCore_self, if_pos rfl, if_pos ‹_›]
    · rw [core_putCore_ne _ _ _ _ hc, if_neg hc]
  · split
    · subst_vars
      rw [if_neg ‹_›]
    · rfl

/-- A trap whose causes are no failed translation changes its task and its core alone. -/
theorem trapNow_eq (s : State) (x : Trap) (need : Nat) (hx : ∀ k < 8, x.causes / 2 ^ (8 * k) % 256 ≠ 0x08) :
    s.trapNow x need = ((s.putTask s.tid (trappedTask s x need)).stopIssue s.tid).tick 1 := by
  have hmask : ((bitsOf x.mask 8).any fun k => x.causes / 2 ^ (8 * k) % 256 == 0x08) = false := by
    rw [List.any_eq_false]
    intro k hk
    rw [beq_iff_eq]
    exact hx k (List.mem_range.1 (List.mem_filter.1 hk).1)
  have hfetch : (x.causes == 0x08) = false := by
    have h0 := hx 0 (by decide)
    rw [beq_eq_false_iff_ne]
    rintro hc
    rw [hc] at h0
    exact h0 rfl
  unfold State.trapNow
  dsimp only
  rw [hmask, hfetch, Bool.and_false, Bool.or_false, if_neg Bool.false_ne_true]
  unfold State.takeTrap
  simp only [task_putTask_self, putTask_putTask]
  rfl

/-- A calm state stays calm through a trap. -/
theorem calm_trapNow {s : State} {x : Trap} (need : Nat) (h : s.calm = true) (hx : ∀ k < 8, x.causes / 2 ^ (8 * k) % 256 ≠ 0x08) :
    (s.trapNow x need).calm = true := by
  have hput := calm_putTask s s.tid (trappedTask s x need) h (by rw [trappedTask, catchFlights_form]; exact redo_of_calm s s.tid h)
  rw [trapNow_eq s x need hx, stopIssue_form]
  exact calm_congr _ _ hput rfl rfl rfl rfl

/-- The word of a trap record that names its task. -/
theorem ofNat_taskWord (tid n : Nat) : BitVec.ofNat 64 (tid % 2 ^ 32 * 2 ^ 32 + n) = BitVec.ofNat 64 (tid * 2 ^ 32 + n) := by
  have hmod : (tid % 2 ^ 32 * 2 ^ 32 + n) % 2 ^ 64 = (tid * 2 ^ 32 + n) % 2 ^ 64 := by omega
  apply BitVec.eq_of_toNat_eq
  rw [BitVec.toNat_ofNat, BitVec.toNat_ofNat, hmod]

/-- The words of a trap record. -/
theorem words_eq (x : Trap) (tid cycle : Nat) : x.words tid cycle = [BitVec.ofNat 64 x.pc,
    BitVec.ofNat 64 (tid * 2 ^ 32 + x.stage * 2 ^ 16 + b2n x.entry * 2 ^ 9 + b2n x.fetch * 2 ^ 8 + x.mask), BitVec.ofNat 64 x.causes,
    BitVec.ofNat 64 x.addr, BitVec.ofNat 64 x.detail, x.operand, BitVec.ofNat 64 (b2n x.vec * 2 ^ 23 + x.reg * 2 ^ 16 + x.code),
    BitVec.ofNat 64 cycle] := by
  simp only [Trap.words, Nat.add_assoc, ofNat_taskWord]

theorem trappedTask_form (s : State) (x : Trap) (need : Nat) : trappedTask s x need =
    { withRegs s.now s.now.land ((s.now.land.flights.filter fun f => !s.now.isEmpty f.dst).map fun f => { f with replay := true }) with
      need := need, status := .trapped, trec := x.words s.tid (s.cycle - (s.core s.now.core).cycle0), trapAt := s.cycle, pc := x.pc, idle := 0,
      hold := none, held := 0, walks := [] } := by
  rw [trappedTask, catchFlights_form, land_need]
  rfl

/-- What of a core a trap leaves alone. -/
theorem stoppedCore_rest (k : Core) (tid : Nat) : (stoppedCore k tid).mq = k.mq ∧ (∀ q, (stoppedCore k tid).chan q = k.chan q) ∧
    (∀ a, (stoppedCore k tid).alcove a = k.alcove a) ∧ ∀ a, (stoppedCore k tid).tile a = k.tile a := by
  unfold stoppedCore
  split <;> exact ⟨rfl, fun _ => rfl, fun _ => rfl, fun _ => rfl⟩

theorem sameWorld_stopped (s : State) (k : Task) : s.SameWorld { ((s.putTask s.tid k).stopIssue s.tid).tick 1 with cores := s.cores } := by
  rw [stopIssue_form]
  exact ⟨rfl, rfl, fun n hn => task_putTask_ne s s.tid n k hn, ⟨rfl, rfl, rfl, rfl, rfl, rfl, rfl⟩, ⟨rfl, rfl, rfl, rfl, rfl, rfl⟩,
    ⟨rfl, rfl, rfl, rfl, rfl, rfl, rfl, rfl, rfl⟩, ⟨rfl, rfl, rfl, rfl, rfl, rfl, rfl, rfl, rfl⟩, ⟨rfl, rfl, rfl, rfl, rfl⟩⟩

/-- Settles O56: a slot word with more to come is put beside the others; a trap stops its task with the record, and its core. -/
theorem bundlesCommitWholeOrNotAtAll : Obligations.BundlesCommitWholeOrNotAtAll := by
  constructor
  · intro i s hk hid hleft
    obtain ⟨sh, out, hrun⟩ := exec_slot i s hk
    exact ⟨{ slot := s.bun.slot, shape := sh, out := out }, rfl, hrun.trans (runSlot_more s sh out hid hleft)⟩
  · intro s x need hcalm hverdict hx t u
    have ht : t = ((s.putTask s.tid (trappedTask s x need)).stopIssue s.tid).tick 1 := by
      show s.closeBundle = _
      rw [State.closeBundle, hverdict]
      exact (settle_of_calm _ (calm_trapNow need hcalm hx)).trans (trapNow_eq s x need hx)
    have hu : u = _ := calc
      u = (s.putTask s.tid (trappedTask s x need)).task s.tid := by
        show t.task s.tid = _
        rw [ht, stopIssue_form]
        rfl
      _ = _ := (task_putTask_self ..).trans (trappedTask_form s x need)
    rw [hu]
    refine ⟨rfl, rfl, rfl, ⟨fun _ => rfl, fun _ => rfl, fun _ => rfl, rfl, rfl⟩, rfl, rfl, rfl, rfl, rfl, rfl, rfl, rfl, rfl, rfl, rfl, rfl, rfl,
      List.map_map, words_eq x s.tid _, ?_, fun c => ?_⟩
    · rw [ht]
      exact sameWorld_stopped s _
    · have hcore : t.core c = if c = ((s.putTask s.tid (trappedTask s x need)).task s.tid).core then stoppedCore (s.core c) s.tid else s.core c := by
        rw [ht]
        exact core_stopIssue ..
      rw [hcore]
      split
      · exact stoppedCore_rest ..
      · exact ⟨rfl, fun _ => rfl, fun _ => rfl, fun _ => rfl⟩

end Sys2Proof.Proofs

/-! Constants, and the order in which results land (01 R8, R9, R13, R15). -/

namespace Sys2Proof.Proofs

open Sys2Proof Sys2Proof.Machine Sys2Proof.Rules

/-! ### Writes of the constants -/

/-- A result for a constant is no result. -/
theorem gives_none_of_constant {s t : State} {r : Res} {fl : Nat} (h : s.Gives t (some r) fl) (hr : r.dst = .s 0 ∨ r.dst = .p 0) :
    s.Gives t none fl := by
  have hput : s.now.put r.dst r.val r.mask = s.now := by rcases hr with hr | hr <;> rw [hr] <;> rfl
  refine { h with regs := fun k => ?_ }
  have hregs := h.regs k
  rwa [Task.wrote, hput, ite_self] at hregs

/-- An instruction that sends a result to s0 changes no register. -/
theorem addi_zero_gives (s : State) (a : BitVec 6) (i : BitVec 14) (h : s.clear { sr := [a.toNat], sw := [0] } = true) :
    Runs (.addi 0 a i) s fun t => s.Gives t none 0 := by
  obtain ⟨t, hrun, hgives⟩ := scalarI_gives (d := 0) (f := fun x => x + imm64 i) h (ofInt_addi _ i)
  exact ⟨t, hrun, gives_none_of_constant hgives (.inl rfl)⟩

/-- An instruction that sends a result to p0 changes no predicate. -/
theorem pset_zero_gives (s : State) (p : BitVec 4) (h : s.clear { pw := [0] } = true) : Runs (.pset 0 p) s fun t => s.Gives t none 0 := by
  by_cases hp : s.now.rp p = 0
  · obtain ⟨t, hrun, hgives⟩ := runSlot_nothing s _ 0 h
    refine ⟨t, ?_, hgives⟩
    rw [exec_pset, execPset, State.plog, predEffects, if_pos hp]
    exact hrun
  · obtain ⟨t, hrun, hgives⟩ := runSlot_result s _ { dst := .p 0, off := 1, val := BitVec.setWidth 512 0xFFFF#16, mask := s.now.rp p } 0 h (Nat.le_refl 1) rfl
    refine ⟨t, ?_, gives_none_of_constant hgives (.inr rfl)⟩
    rw [exec_pset, execPset, State.plog, predEffects, if_neg hp]
    exact hrun

/-! ### Two results on their way -/

theorem later_succ (t : Task) (k : Nat) : t.later (k + 1) = (t.later k).bump := by
  induction k generalizing t with
  | zero => rfl
  | succ k ih => exact ih t.bump

/-- A bundle for which nothing is due lands nothing. -/
theorem bump_early (t : Task) (hp : t.prods = []) (hf : ∀ f ∈ t.flights, t.nb + 1 < f.due) : t.bump = t.skip 1 := by
  have hlate (f : Flight) (hm : f ∈ (t.skip 1).flights) : decide (f.due ≤ (t.skip 1).nb) = false := decide_eq_false (Nat.not_le.2 (hf f hm))
  have hreplay : (t.skip 1).replayDue = false := by
    rw [Task.replayDue, List.any_eq_false]
    intro f hm
    rw [hlate f hm, Bool.and_false]
    exact Bool.false_ne_true
  have hnone : (t.skip 1).flights.filter (fun f => decide (f.due ≤ (t.skip 1).nb)) = [] := by
    rw [List.filter_eq_nil_iff]
    intro f hm
    rw [hlate f hm]
    exact Bool.false_ne_true
  have hall : (t.skip 1).flights.filter (fun f => decide ((t.skip 1).nb < f.due)) = (t.skip 1).flights := by
    rw [List.filter_eq_self]
    intro f hm
    exact decide_eq_true (hf f hm)
  have hdrawn : (t.skip 1).landDrawn = t.skip 1 := by simp [Task.landDrawn, Task.skip, hp]
  calc t.bump = if (t.skip 1).replayDue then (t.skip 1).landDrawn else (t.skip 1).landDrawn.land := rfl
    _ = (t.skip 1).land := by rw [hreplay, hdrawn]; rfl
    _ = t.skip 1 := by
      rw [Task.land, hnone, hall]
      rfl

/-- Before anything is due, later bundles only count. -/
theorem later_early (t : Task) (k : Nat) (hp : t.prods = []) (hf : ∀ f ∈ t.flights, t.nb + k < f.due) : t.later k = t.skip k := by
  induction k with
  | zero => rfl
  | succ k ih =>
    rw [later_succ, ih fun f hm => Nat.lt_of_succ_lt (hf f hm), bump_early (t.skip k) hp hf, skip_skip]

/-- Two results due for the next bundle land in their order. -/
theorem bump_two (t : Task) (f g : Flight) (hp : t.prods = []) (hflights : t.flights = [f, g]) (hf : f.due = t.nb + 1) (hg : g.due = t.nb + 1)
    (hfr : f.replay = false) (hgr : g.replay = false) : t.bump = (Task.landOne { t.skip 1 with flights := [] } f).landOne g := by
  have hreplay : (t.skip 1).replayDue = false := by simp [Task.replayDue, Task.skip, hflights, hfr, hgr]
  have hdrawn : (t.skip 1).landDrawn = t.skip 1 := by simp [Task.landDrawn, Task.skip, hp]
  calc t.bump = if (t.skip 1).replayDue then (t.skip 1).landDrawn else (t.skip 1).landDrawn.land := rfl
    _ = (t.skip 1).land := by rw [hreplay, hdrawn]; rfl
    _ = _ := by
      rw [Task.land]
      simp [Task.skip, hflights, hf, hg]

/-- Of two results for one full scalar register that land together, the one that lands last stays. -/
theorem getS_landOne_landOne (t : Task) (f g : Flight) (d : Nat) (hd : d ≠ 0) (hf : f.dst = .s d) (hg : g.dst = .s d)
    (he : t.isEmpty (.s d) = false) : ((t.landOne f).landOne g).getS d = BitVec.ofNat 64 g.val.toNat := by
  have hkept : (t.landOne f).isEmpty (.s d) = false := by
    rw [Task.landOne, hf, he, if_neg Bool.false_ne_true, Task.put, Task.putS, if_neg hd]
    exact he
  rw [Task.landOne, hg, hkept, if_neg Bool.false_ne_true, Task.put, getS_putS_self, if_neg hd]

/-- Settles O57: a constant's write is none; results land with the bundle they are due for, in the order of their issue. -/
theorem constantsAndLandingOrder : Obligations.ConstantsAndLandingOrder := by
  refine ⟨fun t v m => ⟨rfl, rfl, sameRegs_refl t, sameRegs_refl t⟩, addi_zero_gives, pset_zero_gives, ?_⟩
  intro t d n v w hflights hprods hd0 hd64 hempty u
  have hd : d ≠ 0 := Nat.ne_of_gt hd0
  let f : Flight := { dst := .s d, due := t.nb + (n + 2), ord := t.seqno, val := v, mask := 0xFFFF }
  let g : Flight := { dst := .s d, due := t.nb + 1 + (n + 1), ord := t.seqno + 1, val := w, mask := 0xFFFF }
  have hfirst : t.launch (.s d) (n + 2) v 0xFFFF = { t with seqno := t.seqno + 1, flights := [f] } := by
    cases d with
    | zero => exact absurd rfl hd
    | succ d => simp [Task.launch, hflights, insertFlight, f]
  have hbump : (t.launch (.s d) (n + 2) v 0xFFFF).bump = { t.skip 1 with seqno := t.seqno + 1, flights := [f] } := by
    rw [hfirst]
    exact bump_early _ hprods (List.forall_mem_singleton.2 (by show t.nb + 1 < t.nb + (n + 2); omega))
  have hu : u = { t.skip 1 with seqno := t.seqno + 1 + 1, flights := [f, g] } := by
    show Task.launch _ _ _ _ _ = _
    rw [hbump]
    have horder : ¬ (g.due < f.due ∨ g.due = f.due ∧ g.ord < f.ord) := by
      show ¬ (t.nb + 1 + (n + 1) < t.nb + (n + 2) ∨ t.nb + 1 + (n + 1) = t.nb + (n + 2) ∧ t.seqno + 1 < t.seqno)
      omega
    have hins : insertFlight g [f] = [f, g] := if_neg horder
    cases d with
    | zero => exact absurd rfl hd
    | succ d => exact congrArg (fun fs => ({ t.skip 1 with seqno := t.seqno + 1 + 1, flights := fs } : Task)) hins
  have hearly (k : Nat) (hk : k ≤ n) : u.later k = u.skip k := by
    refine later_early u k (by rw [hu]; exact hprods) ?_
    rw [hu]
    simp [Task.skip, f, g]
    omega
  refine ⟨fun k hk => by rw [hearly k hk, hu]; rfl, ?_⟩
  have hland := bump_two (u.skip n) f g (by rw [hu]; exact hprods) (by rw [hu]; rfl)
    (by rw [hu]; show t.nb + (n + 2) = t.nb + 1 + n + 1; omega) (by rw [hu]; show t.nb + 1 + (n + 1) = t.nb + 1 + n + 1; omega) rfl rfl
  rw [later_succ, hearly n (Nat.le_refl n), hland, getS_landOne_landOne _ f g d hd rfl rfl (by rw [hu]; exact hempty)]
  rfl

end Sys2Proof.Proofs

/-! Vector results (04 R127, R128): the values and the flags of the lanes, elements and predicate bits that a guard admits. -/

namespace Sys2Proof.Proofs

open Sys2Proof Sys2Proof.Machine Sys2Proof.Rules

/-! ### Flags of the active units -/

/-- The flags of a list of units, ORed in order, are those of its active units. -/
theorem foldl_flags {α : Type} (on : Nat → Bool) (g : Nat → α × Nat) (z : α) (l : List Nat) : ∀ a,
    (l.map fun i => if on i = true then g i else (z, 0)).foldl (fun f x => f ||| x.2) a = a ||| (l.filter on).foldr (fun i f => (g i).2 ||| f) 0 := by
  induction l with
  | nil => intro a; exact (Nat.or_zero a).symm
  | cons i l ih =>
    intro a
    rw [List.map_cons, List.foldl_cons, ih, List.filter_cons]
    cases on i with
    | true => rw [if_pos rfl, if_pos rfl, List.foldr_cons, Nat.or_assoc]
    | false => rw [if_neg Bool.false_ne_true, if_neg Bool.false_ne_true, Nat.or_zero]

/-- The flags of the units that a mask admits (04 R128). -/
theorem foldl_eq_orFlags {α : Type} (on : Nat → Bool) (g : Nat → α × Nat) (z : α) (n : Nat) :
    ((List.range n).map fun i => if on i = true then g i else (z, 0)).foldl (fun f x => f ||| x.2) 0 = orFlags n on fun i => (g i).2 :=
  (foldl_flags on g z _ 0).trans (Nat.zero_or _)

theorem byLane_perLane (m : BitVec 16) (g : Nat → Nat × Nat) : ByLane m g (perLane m g).1 (perLane m g).2 :=
  ⟨fun _ hi hm => lane_perLane m g hi hm, foldl_eq_orFlags (fun i => m.getLsbD i) g 0 16⟩

/-- The value of an active element. -/
theorem elem_perElem (m : BitVec 16) (g : Nat → Nat × Nat) {j : Nat} (hj : j < 8) (hm : m.getLsbD (2 * j) = true) :
    elem (perElem m g).1 j = BitVec.ofNat 64 (g j).1 := by
  rw [perElem, elem_fromElems _ hj, List.getD_eq_getElem?_getD, List.getElem?_map, List.getElem?_range hj, Option.map_some, Option.getD_some,
    if_pos hm]

theorem byElem_perElem (m : BitVec 16) (g : Nat → Nat × Nat) : ByElem m g (perElem m g).1 (perElem m g).2 :=
  ⟨fun _ hj hm => elem_perElem m g hj hm, foldl_eq_orFlags (fun j => m.getLsbD (2 * j)) g 0 8⟩

/-! ### What the shared forms come to -/

section
variable {s : State} {d a b : BitVec 7} {k p : BitVec 4} {x : BitVec 1} {off : Nat}

theorem lanes2_gives {f : Nat → Nat → Nat → Nat × Nat} (ho : 1 ≤ off)
    (h : s.clear { ports := 2, vr := [named s.now a s.now.ib0 x, named s.now b s.now.ib1 x], vw := [d.toNat] } = true) :
    ∃ v fl, ByLane (s.now.rp p)
        (fun i => f s.now.fpmode (lane (readsVec s.now a s.now.ib0 x) i).toNat (lane (readsVec s.now b s.now.ib1 x) i).toNat) v fl ∧
      ∃ t, s.lanes2 d a b p x off f = .next t ∧ s.Gives t (vecRes s.now d off (s.now.rp p) v) fl := by
  refine ⟨_, _, byLane_perLane _ _, ?_⟩
  dsimp only [State.lanes2]
  rw [vaName_eq_named, vbName_eq_named]
  exact runSlot_vector off _ _ _ h ho (List.mem_singleton_self _)

theorem elems2_gives {f : Nat → Nat → Nat → Nat × Nat} (ho : 1 ≤ off)
    (h : s.clear { ports := 2, vr := [named s.now a s.now.ib0 x, named s.now b s.now.ib1 x], vw := [d.toNat] } = true) :
    ∃ v fl, ByElem (s.now.rp p)
        (fun j => f s.now.fpmode (elem (readsVec s.now a s.now.ib0 x) j).toNat (elem (readsVec s.now b s.now.ib1 x) j).toNat) v fl ∧
      ∃ t, s.elems2 d a b p x off f = .next t ∧ s.Gives t (vecRes s.now d off (pairMask (s.now.rp p)) v) fl := by
  refine ⟨_, _, byElem_perElem _ _, ?_⟩
  dsimp only [State.elems2]
  rw [vaName_eq_named, vbName_eq_named, elemMask_eq_pairMask]
  exact runSlot_vector off _ _ _ h ho (List.mem_singleton_self _)

theorem lanes1_gives {f : Nat → Nat → Nat × Nat} (ho : 1 ≤ off)
    (h : s.clear { ports := 1, vr := [named s.now a s.now.ib0 x], vw := [d.toNat] } = true) :
    ∃ v fl, ByLane (s.now.rp p) (fun i => f s.now.fpmode (lane (readsVec s.now a s.now.ib0 x) i).toNat) v fl ∧
      ∃ t, s.lanes1 d a p x off f = .next t ∧ s.Gives t (vecRes s.now d off (s.now.rp p) v) fl := by
  refine ⟨_, _, byLane_perLane _ _, ?_⟩
  dsimp only [State.lanes1]
  rw [vaName_eq_named]
  exact runSlot_vector off _ _ _ h ho (List.mem_singleton_self _)

theorem elems1_gives {src : VReg → Nat → Nat} {f : Nat → Nat → Nat × Nat} (ho : 1 ≤ off)
    (h : s.clear { ports := 1, vr := [named s.now a s.now.ib0 x], vw := [d.toNat] } = true) :
    ∃ v fl, ByElem (s.now.rp p) (fun j => f s.now.fpmode (src (readsVec s.now a s.now.ib0 x) j)) v fl ∧
      ∃ t, s.elems1 d a p x off src f = .next t ∧ s.Gives t (vecRes s.now d off (pairMask (s.now.rp p)) v) fl := by
  refine ⟨_, _, byElem_perElem _ _, ?_⟩
  dsimp only [State.elems1]
  rw [vaName_eq_named, elemMask_eq_pairMask]
  exact runSlot_vector off _ _ _ h ho (List.mem_singleton_self _)

theorem whole1_gives {f : Nat → VReg → VReg × Nat} (ho : 1 ≤ off)
    (h : s.clear { ports := 1, vr := [named s.now a s.now.ib0 x], vw := [d.toNat] } = true) :
    let r := f s.now.fpmode (readsVec s.now a s.now.ib0 x)
    ∃ t, s.whole1 d a x off f = .next t ∧ s.Gives t (vecRes s.now d off 0xFFFF r.1) r.2 := by
  dsimp only [State.whole1]
  rw [vaName_eq_named]
  exact runSlot_vector off _ _ _ h ho (List.mem_singleton_self _)

/-- A word whose result is the predicate bits of a mask: it writes none of an empty mask. -/
theorem runSlot_predicate {sh : Shape} (m v : BitVec 16) (fl : Nat) (h : s.clear sh = true) (ho : 1 ≤ off) :
    ∃ t, s.runSlot sh (.go (predEffects k off m v fl)) = .next t ∧ s.Gives t (predRes k off m v) fl := by
  by_cases hm : m = 0
  · have heff : predEffects k off m v fl = flagEffects fl := by rw [predEffects, if_pos hm]; rfl
    rw [heff, predRes, if_pos hm]
    exact runSlot_nothing s sh fl h
  · have heff : predEffects k off m v fl = .wr (.p k.toNat) off (v.setWidth 512) m :: flagEffects fl := by
      rw [predEffects, if_neg hm]; rfl
    rw [heff, predRes, if_neg hm]
    exact runSlot_result s sh { dst := .p k.toNat, off := off, val := v.setWidth 512, mask := m } fl h ho rfl

end

/-! ### Fused multiply-add (04 R130) -/

/-- Settles O8: FFMA is its format's fused operation on three registers' lanes or elements, the destination the third. -/
theorem fusedMultiplyAddReadsDestination : Obligations.FusedMultiplyAddReadsDestination := by
  refine ⟨fun s d a b p x h => ⟨_, _, byLane_perLane _ _, ?_⟩, fun s d a b p x h => ⟨_, _, byElem_perElem _ _, ?_⟩⟩
  · rw [Runs, exec_ffmaF32, execFfmaF32, vaName_eq_named, vbName_eq_named]
    exact runSlot_vector 4 _ _ _ h (by decide) (List.mem_singleton_self _)
  · rw [Runs, exec_ffmaF64, execFfmaF64, vaName_eq_named, vbName_eq_named, elemMask_eq_pairMask]
    exact runSlot_vector 6 _ _ _ h (by decide) (List.mem_singleton_self _)

end Sys2Proof.Proofs

/-! Vector results without rounding: integer lanes, reductions, bit planes and predicate logic (04 R134, R139-R142). -/

namespace Sys2Proof.Proofs

open Sys2Proof Sys2Proof.Machine Sys2Proof.Rules

/-! ### Integers modulo 2^32 -/

theorem ofInt32_of_toNat {v : Word} {n : Nat} (h : v.toNat = n) : BitVec.ofInt 32 (n : Int) = v := by
  rw [← h, BitVec.ofInt_natCast, BitVec.ofNat_toNat, BitVec.setWidth_eq]

theorem ofInt32_of_toInt {v : Word} {z : Int} (h : v.toInt = z) : BitVec.ofInt 32 z = v := h ▸ BitVec.ofInt_toInt

theorem ofInt32_add (x y : Word) : BitVec.ofInt 32 (x.toNat + y.toNat) = x + y := by
  rw [BitVec.ofInt_add, ofInt32_of_toNat rfl, ofInt32_of_toNat rfl]

theorem ofInt32_sub (x y : Word) : BitVec.ofInt 32 ((x.toNat : Int) - y.toNat) = x - y := by
  rw [Int.sub_eq_add_neg, BitVec.ofInt_add, BitVec.ofInt_neg, ofInt32_of_toNat rfl, ofInt32_of_toNat rfl, BitVec.sub_eq_add_neg]

theorem ofInt32_mul (x y : Word) : BitVec.ofInt 32 (x.toInt * y.toInt) = x * y := by
  rw [BitVec.ofInt_mul, BitVec.ofInt_toInt, BitVec.ofInt_toInt]

theorem ofInt32_min (x y : Word) : BitVec.ofInt 32 (min x.toInt y.toInt) = if y.slt x then y else x := by
  refine ofInt32_of_toInt ?_
  simp only [apply_ite BitVec.toInt, BitVec.slt_iff_toInt_lt]
  split <;> omega

theorem ofInt32_max (x y : Word) : BitVec.ofInt 32 (max x.toInt y.toInt) = if x.slt y then y else x := by
  refine ofInt32_of_toInt ?_
  simp only [apply_ite BitVec.toInt, BitVec.slt_iff_toInt_lt]
  split <;> omega

theorem ofInt32_minu (x y : Word) : BitVec.ofInt 32 (min x.toNat y.toNat : Nat) = if y.ult x then y else x := by
  refine ofInt32_of_toNat ?_
  simp only [apply_ite BitVec.toNat, BitVec.ult_iff_toNat_lt]
  split <;> omega

theorem ofInt32_maxu (x y : Word) : BitVec.ofInt 32 (max x.toNat y.toNat : Nat) = if x.ult y then y else x := by
  refine ofInt32_of_toNat ?_
  simp only [apply_ite BitVec.toNat, BitVec.ult_iff_toNat_lt]
  split <;> omega

theorem ofInt32_shl (x : Word) (n : Nat) : BitVec.ofInt 32 (x.toNat * 2 ^ n : Nat) = x <<< n := by
  rw [BitVec.ofInt_natCast]
  exact BitVec.eq_of_toNat_eq (by rw [BitVec.toNat_shiftLeft, BitVec.toNat_ofNat, Nat.shiftLeft_eq])

theorem ofInt32_shr (x : Word) (n : Nat) : BitVec.ofInt 32 (x.toNat / 2 ^ n : Nat) = x >>> n :=
  ofInt32_of_toNat (by rw [BitVec.toNat_ushiftRight, Nat.shiftRight_eq_div_pow])

theorem ofInt32_sar (x : Word) (n : Nat) : BitVec.ofInt 32 (x.toInt / 2 ^ n) = x.sshiftRight n :=
  ofInt32_of_toInt (by rw [BitVec.toInt_sshiftRight, Int.shiftRight_eq_div_pow]; norm_cast)

/-! ### Integer operations on lanes (04 R134) -/

/-- The model runs an instruction on lanes as a word function that the integer function gives modulo 2^32. -/
def RunsLanes (op : VecOp2) (f : Word → Word → Int) : Prop :=
  ∃ g, (∀ d a b p x s, exec (op d a b p x) s = State.ilanes s d a b p x g) ∧ ∀ x y, BitVec.ofInt 32 (f x y) = g x y

theorem runsLanes_of_mem : ∀ e ∈ intLanes, RunsLanes e.1 e.2 := by
  simp only [intLanes, List.forall_mem_cons, List.not_mem_nil, false_implies, implies_true, and_true]
  exact ⟨⟨_, exec_iadd, ofInt32_add⟩, ⟨_, exec_isub, ofInt32_sub⟩, ⟨_, exec_imul, ofInt32_mul⟩, ⟨_, exec_imin, ofInt32_min⟩,
    ⟨_, exec_imax, ofInt32_max⟩, ⟨_, exec_iminu, ofInt32_minu⟩, ⟨_, exec_imaxu, ofInt32_maxu⟩,
    ⟨_, exec_iand, fun _ _ => ofInt32_of_toNat (BitVec.toNat_and ..)⟩,
    ⟨_, exec_ior, fun _ _ => ofInt32_of_toNat (BitVec.toNat_or ..)⟩,
    ⟨_, exec_ixor, fun _ _ => ofInt32_of_toNat (BitVec.toNat_xor ..)⟩,
    ⟨_, exec_ishl, fun x _ => ofInt32_shl x _⟩, ⟨_, exec_ishr, fun x _ => ofInt32_shr x _⟩, ⟨_, exec_isar, fun x _ => ofInt32_sar x _⟩⟩

/-- Units that raise no flag raise none together. -/
theorem orFlags_zero (n : Nat) (on : Nat → Bool) : orFlags n on (fun _ => 0) = 0 := by
  have hall : ∀ l : List Nat, l.foldr (fun _ f => 0 ||| f) 0 = 0 := fun l => by
    induction l with
    | nil => rfl
    | cons i l ih => rw [List.foldr_cons, ih, Nat.or_zero]
  exact hall _

/-- Settles O11: each operation is a word function, which its integer function gives modulo 2^32. -/
theorem integerLaneOps : Obligations.IntegerLaneOps := by
  intro op f hmem s d a b p x h
  obtain ⟨g, hexec, hg⟩ := runsLanes_of_mem (op, f) hmem
  obtain ⟨v, fl, ⟨hv, hfl⟩, hrun⟩ := lanes2_gives (off := 2) (p := p) (f := fun _ y z => ((g (BitVec.ofNat 32 y) (BitVec.ofNat 32 z)).toNat, 0))
    (by decide) h
  rw [orFlags_zero] at hfl
  subst hfl
  refine ⟨v, fun i hi hm => ?_, ?_⟩
  · rw [hv i hi hm, hg]
    simp only [BitVec.ofNat_toNat, BitVec.setWidth_eq]
  · rw [Runs, hexec]
    exact hrun

/-! ### Reductions (04 R139) -/

theorem redPair_eq_meet (op : Nat → Nat → Nat × Nat) (x y : Option Nat) : redPair op x y = meet op x y := by
  cases x <;> cases y <;> rfl

/-- One level of the tree over two halves, the first of an even length. -/
theorem combinePairs_append (op : Nat → Nat → Nat × Nat) (r : List (Option Nat)) : ∀ (n : Nat) (l : List (Option Nat)), l.length = 2 * n →
    combinePairs op (l ++ r) = ((combinePairs op l).1 ++ (combinePairs op r).1, (combinePairs op l).2 ||| (combinePairs op r).2) ∧
      (combinePairs op l).1.length = n := by
  intro n
  induction n with
  | zero =>
    intro l hl
    rw [List.length_eq_zero_iff.1 hl]
    exact ⟨Prod.ext rfl (Nat.zero_or _).symm, rfl⟩
  | succ n ih =>
    intro l hl
    match l, hl with
    | x :: y :: l, hl =>
      obtain ⟨heq, hlen⟩ := ih l (by simp only [List.length_cons] at hl; omega)
      refine ⟨?_, congrArg Nat.succ hlen⟩
      simp only [List.cons_append, combinePairs, heq, Nat.or_assoc]

/-- The tree over two halves of 2^n leaves is the combination of their trees. -/
theorem redTree_append (op : Nat → Nat → Nat × Nat) : ∀ (n : Nat) (l r : List (Option Nat)), l.length = 2 ^ n → r.length = 2 ^ n →
    redTree op (n + 1) (l ++ r) = ((meet op (redTree op n l).1 (redTree op n r).1).1,
      (redTree op n l).2 ||| (redTree op n r).2 ||| (meet op (redTree op n l).1 (redTree op n r).1).2) := by
  intro n
  induction n with
  | zero =>
    intro l r hl hr
    obtain ⟨x, rfl⟩ := List.length_eq_one_iff.1 hl
    obtain ⟨y, rfl⟩ := List.length_eq_one_iff.1 hr
    simp [redTree, combinePairs, redPair_eq_meet]
  | succ n ih =>
    intro l r hl hr
    have hl2 : l.length = 2 * 2 ^ n := by rw [hl, Nat.pow_succ, Nat.mul_comm]
    have hr2 : r.length = 2 * 2 ^ n := by rw [hr, Nat.pow_succ, Nat.mul_comm]
    obtain ⟨heq, hlen⟩ := combinePairs_append op r (2 ^ n) l hl2
    have hrlen := (combinePairs_append op [] (2 ^ n) r hr2).2
    rw [redTree, heq]
    dsimp only
    rw [ih _ _ hlen hrlen]
    simp only [redTree]
    refine Prod.ext rfl ?_
    ac_rfl

/-- The model's tree over a list of leaves is the rule's over their numbers. -/
theorem redTree_eq_treeOf (op : Nat → Nat → Nat × Nat) (x : Nat → Option Nat) : ∀ n i,
    redTree op n ((List.range (2 ^ n)).map fun j => x (i + j)) = treeOf op x n i := by
  intro n
  induction n with
  | zero => intro i; rfl
  | succ n ih =>
    intro i
    have hsplit : (List.range (2 ^ (n + 1))).map (fun j => x (i + j)) =
        ((List.range (2 ^ n)).map fun j => x (i + j)) ++ (List.range (2 ^ n)).map fun j => x (i + 2 ^ n + j) := by
      rw [Nat.pow_succ, Nat.mul_two, List.range_add, List.map_append, List.map_map]
      simp only [Function.comp_def, Nat.add_assoc]
    rw [hsplit, redTree_append op n _ _ (by simp) (by simp), ih, ih]
    rfl

/-- The model runs an instruction as the reduction of lanes by an operation, with a value for no lane. -/
def RunsReduction (op : VecOp1) (f : Nat → Nat → Nat → Nat × Nat) (absent : Word) : Prop :=
  ∃ n, BitVec.ofNat 32 n = absent ∧ ∀ d a p x s, exec (op d a p x) s = State.redLanes s d a p x n f

/-- A word function is the operation on numbers of the integer function that gives it modulo 2^32. -/
theorem ilane_eq_onWords {f : Word → Word → Int} {g : Word → Word → Word} (h : ∀ x y, BitVec.ofInt 32 (f x y) = g x y) : ilane g = onWords f := by
  funext _ y z
  simp only [ilane, onWords, ← h, BitVec.toNat_ofInt]
  rfl

theorem runsReduction_of_mem : ∀ e ∈ reduceLanes, RunsReduction e.1 e.2.1 e.2.2 := by
  simp only [reduceLanes, List.forall_mem_cons, List.not_mem_nil, false_implies, implies_true, and_true]
  refine ⟨⟨_, rfl, exec_vredFaddF32⟩, ⟨_, by decide, exec_vredFmaxF32⟩, ⟨_, by decide, exec_vredFminF32⟩, ⟨0, rfl, fun d a p x s => ?_⟩,
    ⟨2 ^ 31, rfl, fun d a p x s => ?_⟩, ⟨2 ^ 31 - 1, rfl, fun d a p x s => ?_⟩⟩
  · rw [exec_vredIadd, execVredIadd, ilane_eq_onWords ofInt32_add]
  · rw [exec_vredImax, execVredImax, ilane_eq_onWords ofInt32_max]
  · rw [exec_vredImin, execVredImin, ilane_eq_onWords ofInt32_min]

theorem ofNat_getD (w : Nat) (o : Option Nat) {n : Nat} {z : BitVec w} (h : BitVec.ofNat w n = z) :
    BitVec.ofNat w (o.getD n) = (o.map (BitVec.ofNat w)).getD z := by
  cases o with
  | none => exact h
  | some _ => rfl

/-- Settles O13: the model combines neighbours level by level, which is the tree over halves. -/
theorem reductionsFollowFixedTree : Obligations.ReductionsFollowFixedTree := by
  refine ⟨fun op f absent hmem s d a p x h => ?_, fun s d a p x h => ?_⟩
  · obtain ⟨n, hn, hexec⟩ := runsReduction_of_mem (op, f, absent) hmem
    dsimp only
    rw [← redTree_eq_treeOf]
    simp only [Nat.zero_add]
    refine ⟨_, fun i hi => (lane_fromLanes _ hi).trans (ofNat_getD 32 _ hn), ?_⟩
    rw [Runs, hexec, State.redLanes]
    exact whole1_gives (by decide) h
  · dsimp only
    rw [← redTree_eq_treeOf]
    simp only [Nat.zero_add]
    refine ⟨_, fun j hj => (elem_fromElems _ hj).trans (ofNat_getD 64 _ rfl), ?_⟩
    rw [Runs, exec_vredFaddF64, execVredFaddF64]
    exact whole1_gives (by decide) h

/-! ### Bit planes (04 R141) -/

/-- Adding a power of two sets its bit, where that was clear. -/
theorem testBit_add_two_pow {y k : Nat} (h : y.testBit k = false) (i : Nat) : (y + 2 ^ k).testBit i = (y.testBit i || decide (i = k)) := by
  have hlow : y % 2 ^ (k + 1) < 2 ^ k := Nat.lt_pow_two_of_testBit _ fun j hj => by
    rw [Nat.testBit_mod_two_pow]
    rcases Nat.eq_or_lt_of_le hj with rfl | hlt
    · rw [h, Bool.and_false]
    · rw [decide_eq_false (by omega), Bool.false_and]
  have hpow : 2 ^ (k + 1) = 2 ^ k + 2 ^ k := by rw [Nat.pow_succ]; omega
  have hsum : 2 ^ k * 1 + y % 2 ^ (k + 1) < 2 ^ (k + 1) := by omega
  have hy : y = 2 ^ (k + 1) * (y / 2 ^ (k + 1)) + y % 2 ^ (k + 1) := (Nat.div_add_mod ..).symm
  rw [show y + 2 ^ k = 2 ^ (k + 1) * (y / 2 ^ (k + 1)) + (2 ^ k * 1 + y % 2 ^ (k + 1)) by omega, Nat.testBit_two_pow_mul_add _ hsum]
  conv_rhs => rw [hy, Nat.testBit_two_pow_mul_add _ (by omega : y % 2 ^ (k + 1) < 2 ^ (k + 1))]
  rw [Nat.testBit_two_pow_mul_add _ hlow]
  by_cases hk : i < k + 1
  · rw [if_pos hk, if_pos hk]
    rcases Nat.lt_or_ge i k with hlt | hge
    · rw [if_pos hlt, decide_eq_false (by omega), Bool.or_false]
    · obtain rfl : i = k := by omega
      simp
  · rw [if_neg hk, if_neg hk, decide_eq_false (by omega), Bool.or_false]

/-- A number put together from bits at different places has exactly those bits. -/
theorem testBit_foldl_bits (e f : Nat → Nat) (hf : ∀ j, f j < 2) (k : Nat) : ∀ (l : List Nat) (a : Nat), l.Pairwise (fun i j => e i ≠ e j) →
    (∀ j ∈ l, a.testBit (e j) = false) →
    ((l.foldl (fun y j => y + f j * 2 ^ e j) a).testBit k = true ↔ a.testBit k = true ∨ ∃ j ∈ l, e j = k ∧ f j = 1) := by
  intro l
  induction l with
  | nil => intro a _ _; simp
  | cons j l ih =>
    intro a hp ha
    obtain ⟨hj, hp⟩ := List.pairwise_cons.1 hp
    have hset : ∀ i, (a + f j * 2 ^ e j).testBit i = (a.testBit i || (decide (i = e j) && decide (f j = 1))) := fun i => by
      rcases (show f j = 0 ∨ f j = 1 from by have := hf j; omega) with h0 | h1
      · simp [h0]
      · rw [h1, Nat.one_mul, testBit_add_two_pow (ha j List.mem_cons_self)]; simp
    rw [List.foldl_cons, ih _ hp fun i hi => by
      rw [hset, ha i (List.mem_cons_of_mem _ hi), decide_eq_false fun h => hj i hi h.symm]; rfl]
    simp only [hset, Bool.or_eq_true, Bool.and_eq_true, decide_eq_true_eq, List.mem_cons, exists_eq_or_imp, or_assoc, @eq_comm _ k]

theorem div_two_pow_mod_two_lt (x k : Nat) : x / 2 ^ k % 2 < 2 := Nat.mod_lt _ (by decide)

/-- Sixteen bits in their order, from the lanes. -/
theorem testBit_plane (f : Nat → Nat) (hf : ∀ j, f j < 2) (k : Nat) :
    ((List.range 16).foldl (fun w i => w + f i * 2 ^ i) 0).testBit k = (decide (k < 16) && decide (f k = 1)) := by
  rw [Bool.eq_iff_iff, testBit_foldl_bits (fun i => i) f hf k _ 0 (List.nodup_range) fun j _ => Nat.zero_testBit _]
  simp only [Nat.zero_testBit, Bool.false_eq_true, false_or, List.mem_range, Bool.and_eq_true, decide_eq_true_eq]
  exact ⟨fun ⟨j, hj, hk, h1⟩ => hk ▸ ⟨hj, h1⟩, fun ⟨hk, h1⟩ => ⟨k, hk, rfl, h1⟩⟩

/-- n bits from the highest down, from the planes. -/
theorem testBit_unplaned (f : Nat → Nat) (hf : ∀ j, f j < 2) {n j : Nat} (hj : j < n) :
    ((List.range n).foldl (fun y j => y + f j * 2 ^ (n - 1 - j)) 0).testBit (n - 1 - j) = decide (f j = 1) := by
  have hp : (List.range n).Pairwise fun i j => n - 1 - i ≠ n - 1 - j := by
    refine List.Pairwise.imp_of_mem (fun hi hj hlt => ?_) List.pairwise_lt_range
    have := List.mem_range.1 hi
    have := List.mem_range.1 hj
    omega
  rw [Bool.eq_iff_iff, testBit_foldl_bits (fun j => n - 1 - j) f hf _ _ 0 hp fun j _ => Nat.zero_testBit _]
  simp only [Nat.zero_testBit, Bool.false_eq_true, false_or, List.mem_range, decide_eq_true_eq]
  refine ⟨fun ⟨i, hi, he, h1⟩ => ?_, fun h1 => ⟨j, hj, rfl, h1⟩⟩
  obtain rfl : i = j := by omega
  exact h1

theorem satInt_eq_saturated {n : Nat} (hn : 2 ≤ n) (x : Int) : (satInt n x).1 = saturated n x := by
  have hpos : (2 : Int) ≤ 2 ^ (n - 1) := by
    have := Nat.pow_le_pow_right (n := 2) (by decide) (show 1 ≤ n - 1 by omega)
    exact_mod_cast this
  unfold satInt saturated
  push_cast
  split
  · omega
  · split <;> omega

theorem signed_eq_toInt {w : Nat} (hw : 0 < w) (x : Nat) : signed w x = (BitVec.ofNat w x).toInt := by
  have hpow : 2 ^ w = 2 * 2 ^ (w - 1) := by rw [← Nat.pow_succ']; congr 1; omega
  rw [BitVec.toInt_eq_toNat_cond, BitVec.toNat_ofNat, signed]
  split <;> split <;> omega

theorem intBits_eq_toNat (w : Nat) (x : Int) : intBits w x = (BitVec.ofInt w x).toNat := (BitVec.toNat_ofInt ..).symm

theorem testBit_eq_div (x k : Nat) : decide (x / 2 ^ k % 2 = 1) = x.testBit k := Nat.testBit_eq_decide_div_mod_eq.symm

/-- The bit of a packed plane. -/
theorem getLsbD_planePack {h n j b : Nat} (hn : 2 ≤ n) (hj : j < 16) (hb : b < 32) (v : VReg) :
    (lane (planePack h n v) j).getLsbD b = (decide (j < n) && decide (b / 16 = h) &&
      (BitVec.ofInt n (saturated n (lane v (b % 16)).toInt)).getLsbD (n - 1 - j)) := by
  rw [planePack, lane_fromLanes _ hj]
  by_cases hjn : j < n
  · rw [if_pos hjn, decide_eq_true hjn, Bool.true_and, BitVec.getLsbD_ofNat, decide_eq_true hb, Bool.true_and, Nat.testBit_mul_two_pow,
      testBit_plane _ fun i => div_two_pow_mod_two_lt _ _, testBit_eq_div, intBits_eq_toNat, satInt_eq_saturated hn, signed_eq_toInt (by decide),
      ofNat_laneN]
    by_cases hhalf : b / 16 = h
    · have hle : 16 * h ≤ b := by omega
      have hlow : b - 16 * h = b % 16 := by omega
      have hlt : b % 16 < 16 := Nat.mod_lt _ (by decide)
      rw [hlow, decide_eq_true hle, decide_eq_true hlt, decide_eq_true hhalf, Bool.true_and, Bool.true_and, Bool.true_and]
      rfl
    · rw [decide_eq_false hhalf, Bool.false_and]
      rcases Nat.lt_or_ge b (16 * h) with hlt | hge
      · rw [decide_eq_false (by omega), Bool.false_and]
      · have hout : ¬ b - 16 * h < 16 := by omega
        rw [decide_eq_false hout, Bool.false_and, Bool.and_false]
  · rw [if_neg hjn, decide_eq_false hjn]
    simp

/-- Settles O14: packed and unpacked bits, each read at its place. -/
theorem planesPackAndUnpack : Obligations.PlanesPackAndUnpack := by
  refine ⟨fun s d a h n x hn _ hc => ⟨_, fun j hj b hb => getLsbD_planePack hn hj hb _, ?_⟩,
    fun s d a h n x hn _ hc => ⟨planeUnpack h.toNat n.toNat (readsVec s.now a s.now.ib0 x), fun i hi => ?_, ?_⟩⟩
  · exact whole1_gives (f := fun _ v => (planePack h.toNat n.toNat v, 0)) (by decide) hc
  · refine ⟨BitVec.ofNat n.toNat ((List.range n.toNat).foldl (fun y j =>
      y + laneN (readsVec s.now a s.now.ib0 x) j / 2 ^ (16 * h.toNat + i) % 2 * 2 ^ (n.toNat - 1 - j)) 0), fun j hj => ?_, ?_⟩
    · rw [BitVec.getLsbD_ofNat, testBit_unplaned _ (fun j => div_two_pow_mod_two_lt _ _) hj, testBit_eq_div, decide_eq_true (by omega), Bool.true_and]
      rfl
    · rw [planeUnpack, lane_fromLanes _ hi, signed_eq_toInt (by omega), intBits_eq_toNat, BitVec.ofNat_toNat, BitVec.setWidth_eq]
      rfl
  · exact whole1_gives (f := fun _ v => (planeUnpack h.toNat n.toNat v, 0)) (by decide) hc

/-! ### Predicate logic and counts (04 R140, R142) -/

theorem plog_gives {s : State} {d p : BitVec 4} {v : BitVec 16} (h : s.clear { pw := [d.toNat] } = true) :
    ∃ t, s.plog d p v = .next t ∧ s.Gives t (predRes d 1 (s.now.rp p) v) 0 :=
  runSlot_predicate _ _ 0 h (Nat.le_refl 1)

theorem onesBelow_eq_onesOf (v : BitVec 16) (n : Nat) : onesBelow v n = onesOf v n := by
  have hcount : ∀ l : List Nat, (l.filter fun i => v.getLsbD i).length = (l.map fun i => if v.getLsbD i then 1 else 0).sum := fun l => by
    induction l with
    | nil => rfl
    | cons i l ih =>
      rw [List.filter_cons, List.map_cons, List.sum_cons, ← ih]
      cases v.getLsbD i <;> simp [Nat.add_comm]
  exact hcount _

/-- The model runs an instruction of two sources as a word function that works bit by bit. -/
def RunsPred2 (op : BitVec 4 → BitVec 4 → BitVec 4 → BitVec 4 → Instr) (f : Bool → Bool → Bool) : Prop :=
  ∃ g : BitVec 16 → BitVec 16 → BitVec 16, (∀ d a b p s, exec (op d a b p) s = State.plog s d p (g (s.now.rp a) (s.now.rp b))) ∧
    ∀ x y, ∀ i < 16, (g x y).getLsbD i = f (x.getLsbD i) (y.getLsbD i)

theorem runsPred2_of_mem : ∀ e ∈ predOps2, RunsPred2 e.1 e.2 := by
  simp only [predOps2, List.forall_mem_cons, List.not_mem_nil, false_implies, implies_true, and_true]
  exact ⟨⟨fun x y => x &&& y, exec_pand, fun _ _ _ _ => BitVec.getLsbD_and⟩, ⟨fun x y => x ||| y, exec_por, fun _ _ _ _ => BitVec.getLsbD_or⟩,
    ⟨fun x y => x ^^^ y, exec_pxor, fun _ _ _ _ => BitVec.getLsbD_xor⟩, ⟨fun x y => x &&& ~~~ y, exec_pandn, fun _ _ i hi => by simp [hi]⟩⟩

/-- Settles O15: each operation is a word function that works bit by bit; a count is the sum of its bits. -/
theorem predicateLogicAndCounts : Obligations.PredicateLogicAndCounts := by
  refine ⟨fun op f hmem s d a b p h => ?_, fun op f hmem s d a p h => ?_, fun op b hmem s d p h => ?_,
    fun s d k p h => ⟨fromLanes fun i => BitVec.ofNat 32 (onesBelow (s.now.rp k) i), fun i hi _ => ?_, ?_⟩,
    fun s d k p h => ⟨fromLanes fun _ => BitVec.ofNat 32 (onesBelow (s.now.rp k) 16), fun i hi _ => ?_, ?_⟩⟩
  · obtain ⟨g, hexec, hg⟩ := runsPred2_of_mem (op, f) hmem
    refine ⟨_, fun i hi _ => hg _ _ i hi, ?_⟩
    rw [Runs, hexec]
    exact plog_gives h
  · simp only [predOps1, List.mem_cons, Prod.mk.injEq, List.not_mem_nil, or_false] at hmem
    rcases hmem with ⟨rfl, rfl⟩ | ⟨rfl, rfl⟩
    · exact ⟨_, fun i hi _ => by rw [BitVec.getLsbD_not]; simp [hi], plog_gives h⟩
    · exact ⟨_, fun i _ _ => rfl, plog_gives h⟩
  · simp only [predOps0, List.mem_cons, Prod.mk.injEq, List.not_mem_nil, or_false] at hmem
    rcases hmem with ⟨rfl, rfl⟩ | ⟨rfl, rfl⟩
    · refine ⟨0xFFFF, fun i hi _ => (by decide : ∀ i < 16, (0xFFFF : BitVec 16).getLsbD i = true) i hi, ?_⟩
      rw [Runs, exec_pset, execPset]
      exact plog_gives h
    · refine ⟨0, fun i _ _ => BitVec.getLsbD_zero, ?_⟩
      rw [Runs, exec_pclr, execPclr]
      exact plog_gives h
  · rw [lane_fromLanes _ hi, onesBelow_eq_onesOf]
  · exact runSlot_vector 2 _ _ 0 h (by decide) (List.mem_singleton_self _)
  · rw [lane_fromLanes _ hi, onesBelow_eq_onesOf]
  · exact runSlot_vector 2 _ _ 0 h (by decide) (List.mem_singleton_self _)

end Sys2Proof.Proofs

/-! Producers: a word whose result comes later leaves its registers empty, and the arrival fills them (01 R10, R13; 04 R107). -/

namespace Sys2Proof.Proofs

open Sys2Proof Sys2Proof.Machine Sys2Proof.Rules
open Host (Outcome)

/-! ### A word of plain effects -/

/-- A word of plain effects, whatever they change: they act, and its task moves on. -/
theorem runSlot_plain {s u : State} {sh : Shape} {es : List Effect} (ha : s.admits sh = true) (hp : es.all Effect.plain = true)
    (hu : es.foldl State.applyEffect (s.logSlot sh (.go es)) = u) (ht : u.tid = s.tid) (hb : u.bun = (s.logSlot sh (.go es)).bun)
    (hc : u.calm = true) (hl : (u.now.loops.getLast?.any fun l => l.last == s.bun.pc) = false) :
    s.runSlot sh (.go es) = .next (u.passed s.tid (s.logSlot sh (.go es)).bun) := by
  have hallot : s.now.shrinkAwaits [{ slot := s.bun.slot, shape := sh, out := .go es }] = [] :=
    shrinkAwaits_none _ _ _ _ fun e he => plain_allotted e (List.all_eq_true.1 hp e he)
  have hcommit := commit_plain (s.logSlot sh (.go es)) es [] u hp hu ht hb hl
  rw [List.map_nil, List.append_nil] at hcommit
  rw [runSlot_go s sh es ha hallot, hcommit]
  exact congrArg Outcome.next (settle_passed u _ _ hc)

/-! ### Full and empty registers -/

theorem getLsbD_two_pow {w n : Nat} (hn : n < w) : (BitVec.ofNat w (2 ^ n)).getLsbD n = true := by
  rw [BitVec.getLsbD_ofNat, decide_eq_true hn, Nat.testBit_two_pow_self]; rfl

theorem isEmpty_setEmpty_s (t : Machine.Task) {n : Nat} (hn : n < 64) : (t.setEmpty (.s n)).isEmpty (.s n) = decide (n ≠ 0) := by
  by_cases h0 : n = 0
  · subst h0; rfl
  · rw [Task.setEmpty, if_neg h0, Task.isEmpty, BitVec.getLsbD_or, getLsbD_two_pow hn, Bool.or_true, Bool.and_true]
    exact (bne_iff_ne.2 h0).trans (decide_eq_true h0).symm

theorem isEmpty_setFull_s (t : Machine.Task) {n : Nat} (hn : n < 64) : (t.setFull (.s n)).isEmpty (.s n) = false := by
  rw [Task.setFull, Task.isEmpty, BitVec.getLsbD_and, BitVec.getLsbD_not, getLsbD_two_pow hn, Bool.not_true, Bool.and_false, Bool.and_false,
    Bool.and_false]

theorem setEmpty_eq (t : Machine.Task) (d : Dest) : ∃ x y, t.setEmpty d = { t with sEmpty := x, vEmpty := y } := by
  cases d with
  | s n =>
    unfold Task.setEmpty
    by_cases h0 : n = 0
    · exact ⟨t.sEmpty, t.vEmpty, if_pos h0⟩
    · exact ⟨_, t.vEmpty, if_neg h0⟩
  | v n => exact ⟨t.sEmpty, _, rfl⟩
  | p n => exact ⟨t.sEmpty, t.vEmpty, rfl⟩
  | ib n => exact ⟨t.sEmpty, t.vEmpty, rfl⟩

theorem foldl_setEmpty_eq (ds : List Dest) : ∀ t : Machine.Task, ∃ x y, ds.foldl Task.setEmpty t = { t with sEmpty := x, vEmpty := y } := by
  induction ds with
  | nil => exact fun t => ⟨t.sEmpty, t.vEmpty, rfl⟩
  | cons d ds ih =>
    intro t
    obtain ⟨x, y, hd⟩ := setEmpty_eq t d
    obtain ⟨x', y', hds⟩ := ih { t with sEmpty := x, vEmpty := y }
    exact ⟨x', y', by rw [List.foldl_cons, hd, hds]⟩

/-- A producer changes the task's producers, its full bits, and nothing else where no result is on its way. -/
theorem produce_eq {t : Machine.Task} (hf : t.flights = []) (ds : List Dest) (w : Wait) : ∃ x y, t.produce ds w =
    { t with ntok := t.ntok + 1, prods := t.prods ++ [{ tok := t.ntok, dsts := ds, wait := w }], sEmpty := x, vEmpty := y } := by
  obtain ⟨x, y, h⟩ := foldl_setEmpty_eq ds { t with ntok := t.ntok + 1, prods := t.prods ++ [{ tok := t.ntok, dsts := ds, wait := w }] }
  refine ⟨x, y, ?_⟩
  unfold Task.produce
  rw [hf, List.filter_nil, ← hf]
  exact h

/-- A producer leaves the values of the registers. -/
theorem produce_regs {t : Machine.Task} (hf : t.flights = []) (ds : List Dest) (w : Wait) : (t.produce ds w).sregs = t.sregs ∧
    (t.produce ds w).vregs = t.vregs ∧ (t.produce ds w).preds = t.preds ∧ (t.produce ds w).ib0 = t.ib0 ∧ (t.produce ds w).ib1 = t.ib1 := by
  obtain ⟨x, y, h⟩ := produce_eq hf ds w
  rw [h]
  exact ⟨rfl, rfl, rfl, rfl, rfl⟩

/-! ### Divisions (04 R107) -/

/-- The model runs an instruction as a division by a word function that the integer function gives modulo 2^64. -/
def RunsDivide (op : TwoReg) (f : W64 → W64 → Int) : Prop :=
  ∃ g, (∀ d a b p s, exec (op d a b p) s = s.divide d a b p g) ∧ ∀ x y, BitVec.ofInt 64 (f x y) = g x y

theorem toInt_eq_zero_iff (y : W64) : y.toInt = 0 ↔ y = 0 := by
  rw [← BitVec.toInt_inj]; rfl

theorem toNat_eq_zero_iff (y : W64) : y.toNat = 0 ↔ y = 0 := by
  rw [← BitVec.toNat_inj]; rfl

theorem runsDivide_of_mem : ∀ e ∈ Rules.divides, RunsDivide e.1 e.2 := by
  simp only [Rules.divides, List.forall_mem_cons, List.not_mem_nil, false_implies, implies_true, and_true]
  refine ⟨⟨_, exec_div, fun x y => ?_⟩, ⟨_, exec_divu, fun x y => ?_⟩, ⟨_, exec_rem, fun x y => ?_⟩, ⟨_, exec_remu, fun x y => ?_⟩⟩
  · simp only [divS, toInt_eq_zero_iff]; split <;> rfl
  · simp only [divU, toNat_eq_zero_iff]
    split
    · rfl
    · rw [BitVec.ofInt_natCast]
  · simp only [remS, toInt_eq_zero_iff]
    split
    · exact BitVec.ofInt_toInt
    · rw [Int.tmod_def]
  · simp only [remU, toNat_eq_zero_iff]
    split
    · exact ofInt_toNat x
    · rw [← BitVec.ofInt_natCast, Int.natCast_emod, Int.emod_def, Int.natCast_ediv]

/-- A task whose one producer waits for a value that it has, moved on. -/
theorem bump_ready {t : Machine.Task} {p : Prod} {vs : List VReg} (hf : t.flights = []) (hp : t.prods = [p]) (hw : p.wait = .ready vs) :
    t.bump = t.skip 1 := by
  simp [Task.bump, Task.replayDue, Task.landDrawn, Task.land, Task.skip, hf, hp, hw]

/-- A word whose whole effect is one producer of a scalar register, its value at hand. -/
theorem runSlot_produce {s : State} {sh : Shape} {es : List Effect} {ds : List Dest} {vs : List VReg} (h : s.clear sh = true)
    (he : es = [.produce ds (.ready vs)]) :
    s.runSlot sh (.go es) = .next (((s.logSlot sh (.go es)).putTask s.tid
      (((s.now.produce ds (.ready vs)).issued (s.logSlot sh (.go es)).bun).skip 1)).tick 1) := by
  obtain ⟨ha, hc, ⟨hf, hp⟩, hl⟩ := (clear_iff s sh).1 h
  obtain ⟨x, y, ht⟩ := produce_eq hf ds (.ready vs)
  have hredo : (s.now.produce ds (.ready vs)).redo = none := by rw [ht]; exact redo_of_calm s s.tid hc
  have hflights : (s.now.produce ds (.ready vs)).flights = [] := by rw [ht]; exact hf
  have hprods : (s.now.produce ds (.ready vs)).prods = [⟨s.now.ntok, ds, .ready vs⟩] := by rw [ht, hp]; rfl
  have hloops : (s.now.produce ds (.ready vs)).loops = s.now.loops := by rw [ht]
  have happly : es.foldl State.applyEffect (s.logSlot sh (.go es)) =
      (s.logSlot sh (.go es)).putTask s.tid (s.now.produce ds (.ready vs)) := by rw [he]; rfl
  have hnow : ((s.logSlot sh (.go es)).putTask s.tid (s.now.produce ds (.ready vs))).now = s.now.produce ds (.ready vs) :=
    now_putTask (s.logSlot sh (.go es)) _
  rw [runSlot_plain ha (by rw [he]; rfl) happly rfl rfl (calm_putTask _ _ _ (calm_congr s _ hc rfl rfl rfl rfl) hredo)
    (by rw [hnow, hloops]; exact hl), State.passed, task_putTask_self, putTask_putTask]
  exact congrArg (fun k => Outcome.next (((s.logSlot sh (.go es)).putTask s.tid k).tick 1)) (bump_ready hflights hprods rfl)

/-- A task whose one producer's value has arrived. -/
def arrived (t : Machine.Task) (d : Dest) (v : VReg) : Machine.Task := (({ t with prods := [] } : Machine.Task).put d v 0xFFFF).setFull d

/-- A value that a producer of one register has at hand arrives. -/
theorem resultArrival_ready {s : State} {tid tok : Nat} {d : Dest} {v : VReg} (hc : s.calm = true) (hr : (s.task tid).status ≠ .saved)
    (hp : (s.task tid).prods = [⟨tok, [d], .ready [v]⟩]) :
    exec .resultArrival { s with arg := { unit := tid, num := tok } } =
      .next (({ s with arg := { unit := tid, num := tok } } : State).putTask tid (arrived (s.task tid) d v)) := by
  let s1 : State := { s with arg := { unit := tid, num := tok } }
  have hfind : s1.prodOf tid tok = some ⟨tok, [d], .ready [v]⟩ := by
    show (s.task tid).prods.find? _ = _
    rw [hp]; simp
  have hfill : (s.task tid).fill ⟨tok, [d], .ready [v]⟩ [v] = arrived (s.task tid) d v := by
    simp [Task.fill, arrived, hp]
  have hres : (s.task tid).resident = true := by simpa [Task.resident] using hr
  have hredo : (arrived (s.task tid) d v).redo = none := by
    rw [arrived, setFull_redo, put_redo]; exact redo_of_calm s tid hc
  have harrive : s1.arrive tid ⟨tok, [d], .ready [v]⟩ (some [v]) =
      s1.putTask tid (arrived (s.task tid) d v) := by
    rw [← hfill]
    exact if_pos hres
  show execResultArrival s1 = _
  unfold execResultArrival
  show (match s1.prodOf tid tok with | none => _ | some p => _) = _
  rw [hfind]
  show Outcome.next (s1.arrive tid ⟨tok, [d], .ready [v]⟩ (some [v])).settle = _
  rw [harrive, settle_of_calm _ (calm_putTask s1 tid _ (calm_congr s s1 hc rfl rfl rfl rfl) hredo)]

/-- Settles O6: the producer holds the quotient as its task moves on, and the arrival fills the register from it. -/
theorem divisionsFillTheirRegister : Obligations.DivisionsFillTheirRegister := by
  intro op f hmem s d a b p h hready
  obtain ⟨g, hexec, hg⟩ := runsDivide_of_mem (op, f) hmem
  dsimp only at hexec hg
  by_cases hon : on s.now p = true
  · obtain ⟨-, hc, ⟨hf, hp⟩, -⟩ := (clear_iff s _).1 h
    have hd : d.toNat < 64 := d.isLt
    let v : VReg := (g (s.now.rs a) (s.now.rs b)).setWidth 512
    let es : List Effect := [.produce [.s d.toNat] (.ready [v])]
    let sh : Shape := { sr := [a.toNat, b.toNat], sw := [d.toNat] }
    let k : Machine.Task := ((s.now.produce [.s d.toNat] (.ready [v])).issued (s.logSlot sh (.go es)).bun).skip 1
    let t : State := ((s.logSlot sh (.go es)).putTask s.tid k).tick 1
    have hk : t.task s.tid = k := task_putTask_self (s.logSlot sh (.go es)) s.tid k
    obtain ⟨x, y, hprod⟩ := produce_eq hf [.s d.toNat] (.ready [v])
    have hprods : k.prods = [⟨s.now.ntok, [.s d.toNat], .ready [v]⟩] := by
      show (s.now.produce [.s d.toNat] (.ready [v])).prods = _
      rw [hprod, hp]; rfl
    have hstatus : k.status = .ready := by
      show (s.now.produce [.s d.toNat] (.ready [v])).status = _
      rw [hprod]; exact hready
    have hredo : k.redo = none := by
      show (s.now.produce [.s d.toNat] (.ready [v])).redo = _
      rw [hprod]; exact redo_of_calm s s.tid hc
    have hcalm : t.calm = true := calm_congr ((s.logSlot sh (.go es)).putTask s.tid k) _
      (calm_putTask _ _ _ (calm_congr s _ hc rfl rfl rfl rfl) hredo) rfl rfl rfl rfl
    have harrive := resultArrival_ready (s := t) (tid := s.tid) hcalm (by rw [hk, hstatus]; decide) (by rw [hk]; exact hprods)
    rw [if_pos hon]
    refine ⟨t, ?_, sameWorld_passed s sh _ k, ?_, _, harrive, ?_⟩
    · have hbit : s.now.bit0 p = true := hon
      rw [hexec, State.divide, if_pos hbit]
      exact runSlot_produce h rfl
    · rw [hk]
      refine (isEmpty_setEmpty_s _ hd).trans (decide_eq_decide.2 (not_congr ?_))
      rw [← BitVec.toNat_inj]; rfl
    · have hu : ∀ w : State, w = ({ t with arg := { unit := s.tid, num := s.now.ntok } } : State).putTask s.tid (arrived (t.task s.tid) (.s d.toNat) v) →
          w.task s.tid = arrived k (.s d.toNat) v := fun w hw => by rw [hw, task_putTask_self, hk]
      refine ⟨?_, ?_, rfl, rfl, ?_⟩ <;> rw [hu _ rfl]
      · exact isEmpty_setFull_s _ hd
      · exact (put_rest { k with prods := [] } (.s d.toNat) v 0xFFFF).1.store.2.2.2
      · rw [hg]
        obtain ⟨h1, h2, h3, h4, h5⟩ := produce_regs hf [.s d.toNat] (.ready [v])
        obtain ⟨hs, hv, hpr, hib⟩ := sameRegs_put { k with prods := [] } s.now (.s d.toNat) v 0xFFFF h1 h2 h3 h4 h5
        exact ⟨hs, hv, hpr, hib⟩
  · have hbit : ¬ s.now.bit0 p = true := hon
    rw [if_neg hon, Runs, hexec, State.divide, if_neg hbit]
    exact runSlot_nothing s _ 0 h

end Sys2Proof.Proofs

/-! Floating-point codes: the values of a format's encodings, in order, and the code that a rounded magnitude has (03 R67; 04 R128). -/

namespace Sys2Proof.Proofs

open Sys2Proof Sys2Proof.Machine Sys2Proof.Rules

/-! ### Formats -/

/-- What the formats of 03 R67 have in common. -/
structure Proper (f : Fmt) : Prop where
  frac  : 1 ≤ f.fb
  expo  : 2 ≤ f.eb
  width : f.w = f.eb + f.fb + 1

theorem proper_of_mem : ∀ f ∈ [Fmt.f64, Fmt.f32, Fmt.f16, Fmt.bf16], Proper f := by
  simp only [List.forall_mem_cons, List.not_mem_nil, false_implies, implies_true, and_true]
  exact ⟨⟨by decide, by decide, rfl⟩, ⟨by decide, by decide, rfl⟩, ⟨by decide, by decide, rfl⟩, ⟨by decide, by decide, rfl⟩⟩

theorem proper_f32 : Proper .f32 := proper_of_mem _ (by decide)
theorem proper_f64 : Proper .f64 := proper_of_mem _ (by decide)

/-- The significand of a code, a sign-less encoding. -/
def sigOf (f : Fmt) (c : Nat) : Nat := if c < 2 ^ f.fb then c else c % 2 ^ f.fb + 2 ^ f.fb

/-- The exponent of its last place. -/
def expOf (f : Fmt) (c : Nat) : Int := ((max (c / 2 ^ f.fb) 1 : Nat) : Int) - f.bias - f.fb

/-- The value of a code, in a field; the codes go on beyond the largest finite one. -/
def mag (K : Type) [Field K] (f : Fmt) (c : Nat) : K := (sigOf f c : K) * (2 : K) ^ expOf f c

/-- The first code that is no finite value: infinity's. -/
def limit (f : Fmt) : Nat := f.eall * 2 ^ f.fb

/-- The code of t units of 2^q, as the model puts it together. -/
def codeOf (f : Fmt) (q : Int) (t : Nat) : Nat := if t < 2 ^ f.fb then t else (q + f.fb + f.bias).toNat * 2 ^ f.fb + (t - 2 ^ f.fb)

/-- t units of 2^q are a significand at its exponent: normal, or of the lowest exponent. -/
structure Fits (f : Fmt) (q : Int) (t : Nat) : Prop where
  low   : f.emin - f.fb ≤ q
  below : t < 2 ^ (f.fb + 1)
  small : t < 2 ^ f.fb → q = f.emin - f.fb

section
variable {f : Fmt} {q : Int} {t : Nat}

theorem codeOf_small (h : t < 2 ^ f.fb) : codeOf f q t = t := if_pos h

theorem codeOf_div (hfit : Fits f q t) (h : ¬ t < 2 ^ f.fb) : codeOf f q t / 2 ^ f.fb = (q + f.fb + f.bias).toNat ∧
    codeOf f q t % 2 ^ f.fb = t - 2 ^ f.fb ∧ 1 ≤ q + f.fb + f.bias := by
  have hlt : t - 2 ^ f.fb < 2 ^ f.fb := by have := hfit.below; rw [Nat.pow_succ] at this; omega
  have hpos : 0 < 2 ^ f.fb := Nat.two_pow_pos _
  have hlow := hfit.low
  rw [codeOf, if_neg h, Nat.mul_comm, Nat.mul_add_div hpos, Nat.div_eq_of_lt hlt, Nat.mul_add_mod, Nat.mod_eq_of_lt hlt]
  exact ⟨rfl, rfl, by simp only [Fmt.emin] at hlow; omega⟩

theorem two_pow_le_codeOf (hfit : Fits f q t) (h : ¬ t < 2 ^ f.fb) : 2 ^ f.fb ≤ codeOf f q t := by
  obtain ⟨-, -, h1⟩ := codeOf_div hfit h
  rw [codeOf, if_neg h]
  have : 1 * 2 ^ f.fb ≤ (q + f.fb + f.bias).toNat * 2 ^ f.fb := Nat.mul_le_mul_right _ (by omega)
  omega

theorem sigOf_codeOf (hfit : Fits f q t) : sigOf f (codeOf f q t) = t := by
  by_cases h : t < 2 ^ f.fb
  · rw [codeOf_small h, sigOf, if_pos h]
  · rw [sigOf, if_neg (Nat.not_lt.2 (two_pow_le_codeOf hfit h)), (codeOf_div hfit h).2.1]
    omega

theorem expOf_codeOf (hfit : Fits f q t) : expOf f (codeOf f q t) = q := by
  by_cases h : t < 2 ^ f.fb
  · rw [codeOf_small h, expOf, Nat.div_eq_of_lt h, hfit.small h, Fmt.emin]
    simp only [Nat.zero_le, sup_of_le_right, Nat.cast_one]
  · obtain ⟨hdiv, -, h1⟩ := codeOf_div hfit h
    rw [expOf, hdiv, Nat.max_eq_left (by omega)]
    omega

theorem mag_codeOf (K : Type) [Field K] (hfit : Fits f q t) : mag K f (codeOf f q t) = (t : K) * (2 : K) ^ q := by
  rw [mag, sigOf_codeOf hfit, expOf_codeOf hfit]

theorem fits_sigOf (f : Fmt) (c : Nat) : Fits f (expOf f c) (sigOf f c) := by
  have hpos : 0 < 2 ^ f.fb := Nat.two_pow_pos _
  have hmod := Nat.mod_lt c hpos
  refine ⟨?_, ?_, fun h => ?_⟩
  · simp only [expOf, Fmt.emin]
    have : 1 ≤ max (c / 2 ^ f.fb) 1 := le_max_right ..
    omega
  · rw [sigOf, Nat.pow_succ]; split <;> omega
  · have hc : c < 2 ^ f.fb := by
      by_contra hc
      rw [sigOf, if_neg hc] at h
      omega
    rw [expOf, Nat.div_eq_of_lt hc, Fmt.emin]
    simp only [Nat.zero_le, sup_of_le_right, Nat.cast_one]

theorem codeOf_sigOf (f : Fmt) (c : Nat) : codeOf f (expOf f c) (sigOf f c) = c := by
  have hpos : 0 < 2 ^ f.fb := Nat.two_pow_pos _
  by_cases hc : c < 2 ^ f.fb
  · rw [sigOf, if_pos hc, codeOf_small hc]
  · have hdiv : 1 ≤ c / 2 ^ f.fb := (Nat.one_le_div_iff hpos).2 (Nat.not_lt.1 hc)
    rw [codeOf, sigOf, if_neg hc, if_neg (by omega), expOf, Nat.max_eq_left hdiv]
    have hq : (((c / 2 ^ f.fb : Nat) : Int) - f.bias - f.fb + f.fb + f.bias).toNat = c / 2 ^ f.fb := by omega
    rw [hq, Nat.add_sub_cancel]
    exact Nat.div_add_mod' c _

/-- A carry out of the fraction lands in the exponent field of its own accord. -/
theorem codeOf_succ (hfit : Fits f q t) : codeOf f q (t + 1) = codeOf f q t + 1 := by
  by_cases h : t < 2 ^ f.fb
  · rw [codeOf_small h, codeOf]
    split
    · rfl
    · have hq := hfit.small h
      have hone : (q + f.fb + f.bias).toNat = 1 := by rw [hq, Fmt.emin]; omega
      rw [hone]
      omega
  · rw [codeOf, codeOf, if_neg h, if_neg (by omega)]
    omega

/-- The next code is one unit of the last place above. -/
theorem mag_codeOf_succ (K : Type) [Field K] [CharZero K] (hfit : Fits f q t) : mag K f (codeOf f q t + 1) = ((t + 1 : Nat) : K) * (2 : K) ^ q := by
  by_cases hlast : t + 1 < 2 ^ (f.fb + 1)
  · have hfit' : Fits f q (t + 1) := ⟨hfit.low, hlast, fun h => hfit.small (by omega)⟩
    rw [← codeOf_succ hfit, mag_codeOf K hfit']
  · -- the significand overflows: one half of it, at the next exponent
    have hbelow := hfit.below
    have hpow : 2 ^ (f.fb + 1) = 2 * 2 ^ f.fb := by rw [Nat.pow_succ, Nat.mul_comm]
    have ht : t + 1 = 2 * 2 ^ f.fb := by omega
    have hpos : 0 < 2 ^ f.fb := Nat.two_pow_pos _
    have hbig : ¬ t < 2 ^ f.fb := by omega
    have hlow := hfit.low
    obtain ⟨-, -, h1⟩ := codeOf_div hfit hbig
    have hfit' : Fits f (q + 1) (2 ^ f.fb) := ⟨by omega, by omega, fun h => absurd h (Nat.lt_irrefl _)⟩
    have hcode : codeOf f q t + 1 = codeOf f (q + 1) (2 ^ f.fb) := by
      have hq : (q + 1 + f.fb + f.bias).toNat = (q + f.fb + f.bias).toNat + 1 := by omega
      rw [codeOf, codeOf, if_neg hbig, if_neg (Nat.lt_irrefl _), hq, Nat.add_mul]
      omega
    have htwo : (2 : K) ≠ 0 := two_ne_zero
    rw [hcode, mag_codeOf K hfit', ht, zpow_add_one₀ htwo]
    push_cast
    ring

end

section
variable (K : Type) [Field K] [LinearOrder K] [IsStrictOrderedRing K] (f : Fmt)

theorem mag_nonneg (c : Nat) : 0 ≤ mag K f c := mul_nonneg (Nat.cast_nonneg _) (zpow_nonneg zero_le_two _)

theorem mag_strictMono : StrictMono (mag K f) := by
  refine strictMono_nat_of_lt_succ fun c => ?_
  have hsucc := mag_codeOf_succ K (fits_sigOf f c)
  rw [codeOf_sigOf] at hsucc
  rw [hsucc, mag]
  have hpos : (0 : K) < 2 ^ expOf f c := zpow_pos two_pos _
  exact mul_lt_mul_of_pos_right (Nat.cast_lt.2 (Nat.lt_succ_self _)) hpos

omit [LinearOrder K] [IsStrictOrderedRing K] in
theorem mag_zero : mag K f 0 = 0 := by
  rw [mag, sigOf, if_pos (Nat.two_pow_pos _), Nat.cast_zero, zero_mul]

theorem mag_eq_zero_iff (c : Nat) : mag K f c = 0 ↔ c = 0 := by
  rw [← mag_zero K f]
  exact (mag_strictMono K f).injective.eq_iff

theorem mag_cast (c : Nat) : ((mag ℚ f c : ℚ) : K) = mag K f c := by
  rw [mag, mag]
  push_cast
  rfl

end

/-! ### Encodings -/

section
variable {f : Fmt} (hf : Proper f)
include hf

theorem eall_eq : f.eall = 2 * f.bias + 1 := by
  have hpow : 2 ^ f.eb = 2 * 2 ^ (f.eb - 1) := by rw [← Nat.pow_succ']; congr 1; have := hf.expo; omega
  have hpos : 0 < 2 ^ (f.eb - 1) := Nat.two_pow_pos _
  rw [Fmt.eall, Fmt.bias, hpow]
  omega

theorem one_le_bias : 1 ≤ f.bias := by
  have : 2 ^ 1 ≤ 2 ^ (f.eb - 1) := Nat.pow_le_pow_right (by decide) (by have := hf.expo; omega)
  rw [Fmt.bias]
  omega

/-- The sign bit stands above every code. -/
theorem two_pow_sign : 2 ^ (f.w - 1) = limit f + 2 ^ f.fb := by
  have hw : f.w - 1 = f.eb + f.fb := by have := hf.width; omega
  have hpos : 0 < 2 ^ f.eb := Nat.two_pow_pos _
  rw [hw, limit, Fmt.eall, Nat.pow_add, ← Nat.succ_mul]
  congr 1
  omega

theorem two_pow_width : 2 ^ f.w = 2 * 2 ^ (f.w - 1) := by
  rw [← Nat.pow_succ']; congr 1; have := hf.width; omega

/-- The sign and the code of an encoding. -/
theorem decode_eq (x : Nat) : f.decode x =
    let c := x % 2 ^ (f.w - 1)
    let neg := x / 2 ^ (f.w - 1) % 2 == 1
    if c < limit f then .fin neg (sigOf f c) (expOf f c) else if c = limit f then .inf neg else .nan (c % 2 ^ f.fb / 2 ^ (f.fb - 1) == 0) := by
  have hw : f.w - 1 = f.fb + f.eb := by have := hf.width; omega
  have hpos : 0 < 2 ^ f.fb := Nat.two_pow_pos _
  have hsign := two_pow_sign hf
  have hex : x / 2 ^ f.fb % 2 ^ f.eb = x % 2 ^ (f.w - 1) / 2 ^ f.fb := by
    rw [hw, Nat.pow_add, Nat.mod_mul_right_div_self]
  have hfr : x % 2 ^ f.fb = x % 2 ^ (f.w - 1) % 2 ^ f.fb := by
    rw [hw, Nat.pow_add, Nat.mod_mul_right_mod]
  have hlt : x % 2 ^ (f.w - 1) < limit f + 2 ^ f.fb := by rw [← hsign]; exact Nat.mod_lt _ (Nat.two_pow_pos _)
  dsimp only
  unfold Fmt.decode
  dsimp only
  rw [hex, hfr]
  generalize x % 2 ^ (f.w - 1) = c at hlt
  have hsplit := Nat.div_add_mod' c (2 ^ f.fb)
  have hmod := Nat.mod_lt c hpos
  by_cases hall : c / 2 ^ f.fb = f.eall
  · have hge : limit f ≤ c := by rw [limit, ← hall]; omega
    rw [if_pos hall, if_neg (Nat.not_lt.2 hge)]
    have hiff : c % 2 ^ f.fb = 0 ↔ c = limit f := by rw [limit, ← hall]; omega
    simp only [hiff]
  · have hfin : c < limit f := by
      by_contra hge
      refine hall (Nat.div_eq_of_lt_le ?_ ?_)
      · exact Nat.not_lt.1 hge
      · rw [Nat.succ_mul]; exact hlt
    rw [if_neg hall, if_pos hfin, sigOf, expOf]
    by_cases h0 : c / 2 ^ f.fb = 0
    · have hsmall : c < 2 ^ f.fb := (Nat.div_eq_zero_iff_lt hpos).1 h0
      rw [if_pos h0, if_pos hsmall, h0, Nat.mod_eq_of_lt hsmall]
      rfl
    · have hbig : ¬ c < 2 ^ f.fb := fun h => h0 (Nat.div_eq_of_lt h)
      rw [if_neg h0, if_neg hbig, Nat.max_eq_left (Nat.one_le_iff_ne_zero.2 h0)]

end

/-- A value with its sign. -/
def signedBy (neg : Bool) (v : ℚ) : ℚ := if neg then -v else v

section
variable {f : Fmt} (hf : Proper f)
include hf

/-- The values of a format are those of its finite codes, with either sign. -/
theorem fpVal_eq (x : Nat) : fpVal f x =
    if x % 2 ^ (f.w - 1) < limit f then some (signedBy (x / 2 ^ (f.w - 1) % 2 == 1) (mag ℚ f (x % 2 ^ (f.w - 1)))) else none := by
  rw [fpVal, decode_eq hf]
  dsimp only
  by_cases h : x % 2 ^ (f.w - 1) < limit f
  · rw [if_pos h, if_pos h]
    refine congrArg some ?_
    rw [signedBy, mag]
    split <;> simp
  · rw [if_neg h, if_neg h]
    split <;> rename_i heq
    · split at heq <;> cases heq
    · rfl

/-- The encoding of a sign and a code. -/
theorem code_split (neg : Bool) {c : Nat} (hc : c ≤ limit f) : (f.zero neg + c) % 2 ^ (f.w - 1) = c ∧
    ((f.zero neg + c) / 2 ^ (f.w - 1) % 2 == 1) = neg ∧ f.zero neg + c < 2 ^ f.w := by
  have hsign := two_pow_sign hf
  have hwid := two_pow_width hf
  have hpos : 0 < 2 ^ f.fb := Nat.two_pow_pos _
  have hlt : c < 2 ^ (f.w - 1) := by omega
  have hp : 0 < 2 ^ (f.w - 1) := Nat.two_pow_pos _
  cases neg with
  | false =>
    simp only [Fmt.zero, Bool.false_eq_true, if_false, Nat.zero_add]
    rw [Nat.mod_eq_of_lt hlt, Nat.div_eq_of_lt hlt]
    exact ⟨rfl, rfl, by omega⟩
  | true =>
    simp only [Fmt.zero, if_true]
    rw [Nat.add_mod_left, Nat.mod_eq_of_lt hlt, Nat.add_div_left _ hp, Nat.div_eq_of_lt hlt]
    exact ⟨rfl, rfl, by omega⟩

theorem fpVal_code (neg : Bool) {c : Nat} (hc : c < limit f) : fpVal f (f.zero neg + c) = some (signedBy neg (mag ℚ f c)) := by
  obtain ⟨hmod, hneg, -⟩ := code_split hf neg (Nat.le_of_lt hc)
  rw [fpVal_eq hf, hmod, hneg, if_pos hc]

theorem fpVal_inf (neg : Bool) : fpVal f (f.inf neg) = none := by
  obtain ⟨hmod, -, -⟩ := code_split hf neg (Nat.le_refl (limit f))
  have hinf : f.inf neg = f.zero neg + limit f := rfl
  rw [hinf, fpVal_eq hf, hmod, if_neg (Nat.lt_irrefl _)]

/-- Every value is one of a finite code. -/
theorem code_of_fpVal {x : Nat} {q : ℚ} (h : fpVal f x = some q) : ∃ neg, ∃ c < limit f, q = signedBy neg (mag ℚ f c) := by
  rw [fpVal_eq hf] at h
  split at h
  · exact ⟨_, _, ‹_›, (Option.some.inj h).symm⟩
  · cases h

/-- An encoding is that of its sign and its code. -/
theorem zero_add_code {x : Nat} (hx : x < 2 ^ f.w) : f.zero (x / 2 ^ (f.w - 1) % 2 == 1) + x % 2 ^ (f.w - 1) = x := by
  have hwid := two_pow_width hf
  have hp : 0 < 2 ^ (f.w - 1) := Nat.two_pow_pos _
  have hdiv : x / 2 ^ (f.w - 1) < 2 := Nat.div_lt_of_lt_mul (by rw [Nat.mul_comm, ← hwid]; exact hx)
  have hsplit := Nat.div_add_mod' x (2 ^ (f.w - 1))
  generalize x / 2 ^ (f.w - 1) = k at hdiv hsplit
  rcases (show k = 0 ∨ k = 1 from by omega) with rfl | rfl
  · rw [Nat.zero_mul] at hsplit
    exact hsplit
  · rw [Nat.one_mul] at hsplit
    exact hsplit

theorem one_lt_limit : 1 < limit f := by
  have h2 : 2 ^ 1 ≤ 2 ^ f.fb := Nat.pow_le_pow_right (by decide) hf.frac
  have h1 : 1 * 2 ^ f.fb ≤ f.eall * 2 ^ f.fb := Nat.mul_le_mul_right _ (by rw [eall_eq hf]; omega)
  rw [limit]
  omega

theorem mag_limit (K : Type) [Field K] [CharZero K] : mag K f (limit f) = (2 : K) ^ ((f.bias : Int) + 1) := by
  have hb := eall_eq hf
  have hfit : Fits f ((f.bias : Int) + 1 - f.fb) (2 ^ f.fb) :=
    ⟨by simp only [Fmt.emin]; omega, by rw [Nat.pow_succ]; have := Nat.two_pow_pos f.fb; omega, fun h => absurd h (Nat.lt_irrefl _)⟩
  have hcode : limit f = codeOf f ((f.bias : Int) + 1 - f.fb) (2 ^ f.fb) := by
    rw [codeOf, if_neg (Nat.lt_irrefl _), Nat.sub_self, Nat.add_zero, limit]
    congr 1
    omega
  have htwo : (2 : K) ≠ 0 := two_ne_zero
  rw [hcode, mag_codeOf K hfit, Nat.cast_pow, Nat.cast_ofNat, ← zpow_natCast, ← zpow_add₀ htwo]
  congr 1
  omega

end

end Sys2Proof.Proofs

/-! Rounding a magnitude once: the model's result is the code below or above it, by the mode (03 R77; 04 R128). -/

namespace Sys2Proof.Proofs

open Sys2Proof Sys2Proof.Machine Sys2Proof.Rules

section
variable {K : Type} [Field K] [LinearOrder K] [IsStrictOrderedRing K]

/-! ### Values and their truncated magnitudes -/

/-- v is m units of u; or, where something was cut off it, lies strictly between m - 1 and m + 1 units, m odd. -/
def Approx (stick : Bool) (m : Nat) (u v : K) : Prop :=
  if stick then m % 2 = 1 ∧ ((m : K) - 1) * u < v ∧ v < ((m : K) + 1) * u else v = m * u

/-- Such a value compares with a number of units as m does; with an even number, where something was cut off. -/
theorem Approx.compare {stick : Bool} {m N : Nat} {u v : K} (h : Approx stick m u v) (hu : 0 < u) (hN : stick = true → N % 2 = 0) :
    ((N : K) * u < v ↔ N < m) ∧ (v < (N : K) * u ↔ m < N) := by
  cases stick with
  | false =>
    have hv : v = m * u := h
    rw [hv]
    exact ⟨(mul_lt_mul_iff_left₀ hu).trans Nat.cast_lt, (mul_lt_mul_iff_left₀ hu).trans Nat.cast_lt⟩
  | true =>
    obtain ⟨hodd, hlo, hhi⟩ : m % 2 = 1 ∧ ((m : K) - 1) * u < v ∧ v < ((m : K) + 1) * u := h
    have heven := hN rfl
    rcases (show N + 1 ≤ m ∨ m + 1 ≤ N from by omega) with hlt | hgt
    · have hle : (N : K) * u ≤ ((m : K) - 1) * u := mul_le_mul_of_nonneg_right (by rw [le_sub_iff_add_le]; exact_mod_cast hlt) hu.le
      have hNv := hle.trans_lt hlo
      exact ⟨⟨fun _ => hlt, fun _ => hNv⟩, ⟨fun hc => absurd hc hNv.not_gt, fun hc => by omega⟩⟩
    · have hle : ((m : K) + 1) * u ≤ (N : K) * u := mul_le_mul_of_nonneg_right (by exact_mod_cast hgt) hu.le
      have hvN := hhi.trans_le hle
      exact ⟨⟨fun hc => absurd hc hvN.not_gt, fun hc => by omega⟩, ⟨fun _ => hgt, fun _ => hvN⟩⟩

theorem Approx.eq_iff {stick : Bool} {m N : Nat} {u v : K} (h : Approx stick m u v) (hu : 0 < u) (hN : stick = true → N % 2 = 0) :
    v = (N : K) * u ↔ m = N := by
  obtain ⟨hlt, hgt⟩ := h.compare hu hN
  refine ⟨fun he => ?_, fun he => ?_⟩
  · exact Nat.le_antisymm (Nat.not_lt.1 fun hc => (hlt.2 hc).ne' he) (Nat.not_lt.1 fun hc => (hgt.2 hc).ne he)
  · exact le_antisymm (not_lt.1 fun hc => absurd (hlt.1 hc) (by omega)) (not_lt.1 fun hc => absurd (hgt.1 hc) (by omega))

/-- Whether a value between lo and hi goes up under a mode; odd: the lower one's last place. -/
def Up (rm : Nat) (neg : Bool) (odd : Bool) (lo hi v : K) : Prop :=
  match rm with
  | 0 => lo + hi < 2 * v ∨ lo + hi = 2 * v ∧ odd = true
  | 1 => False
  | 2 => neg = false
  | _ => neg = true

omit [IsStrictOrderedRing K] in
/-- The model's decision, for what stands above lo: its place between lo and hi decides. -/
theorem goesUp_iff_up {rm rem half : Nat} {neg odd : Bool} {lo hi v : K} (h0 : rem ≠ 0) (hgt : lo + hi < 2 * v ↔ half < rem)
    (heq : lo + hi = 2 * v ↔ rem = half) : goesUp rm neg odd rem half = true ↔ Up rm neg odd lo hi v := by
  unfold goesUp
  rw [if_neg h0]
  match rm with
  | 0 => simp only [Up, hgt, heq, Bool.or_eq_true, Bool.and_eq_true, decide_eq_true_eq, beq_iff_eq]
  | 1 => simp only [Up, Bool.false_eq_true]
  | 2 => simp only [Up, Bool.not_eq_true']
  | _ + 3 => simp only [Up]

/-- t units of w stand next to v, and the integer n and the mark nx come from rounding v to them under a mode. -/
structure RoundsTo (rm : Nat) (neg : Bool) (w v : K) (t n : Nat) (nx : Bool) : Prop where
  low   : (t : K) * w ≤ v
  high  : v < ((t + 1 : Nat) : K) * w
  exact : nx = true ↔ (t : K) * w ≠ v
  up    : nx = true → Up rm neg (t % 2 == 1) ((t : K) * w) (((t + 1 : Nat) : K) * w) v → n = t + 1
  down  : (nx = true → ¬ Up rm neg (t % 2 == 1) ((t : K) * w) (((t + 1 : Nat) : K) * w) v) → n = t

theorem zpow_split (e : Int) (n : Nat) : (2 : K) ^ (e + n) = ((2 ^ n : Nat) : K) * (2 : K) ^ e := by
  rw [zpow_add₀ two_ne_zero, zpow_natCast, mul_comm]
  push_cast
  rfl

/-- The model's rounding to a multiple of 2^q. -/
theorem roundsTo_roundAt (rm : Nat) (neg : Bool) {stick : Bool} {m : Nat} {e q : Int} {v : K} (h : Approx stick m ((2 : K) ^ e) v)
    (hq : stick = true → e + 1 < q) :
    ∃ t, RoundsTo rm neg ((2 : K) ^ q) v t (roundAt rm neg m e q).1 (roundAt rm neg m e q).2 := by
  have hu : (0 : K) < 2 ^ e := zpow_pos two_pos _
  by_cases hqe : q ≤ e
  · -- nothing is cut off
    have hs : stick = false := by
      cases stick with
      | false => rfl
      | true => have := hq rfl; omega
    subst hs
    have hv : v = m * (2 : K) ^ e := h
    have hsplit : (2 : K) ^ e = ((2 ^ (e - q).toNat : Nat) : K) * (2 : K) ^ q := by rw [← zpow_split]; congr 1; omega
    have hvt : ((m * 2 ^ (e - q).toNat : Nat) : K) * (2 : K) ^ q = v := by rw [hv, hsplit]; push_cast; ring
    have hw : (0 : K) < 2 ^ q := zpow_pos two_pos _
    refine ⟨m * 2 ^ (e - q).toNat, ?_⟩
    rw [roundAt, if_pos hqe]
    refine ⟨hvt.le, ?_, ?_, fun hc => absurd hc Bool.false_ne_true, fun _ => rfl⟩
    · rw [← hvt]
      exact mul_lt_mul_of_pos_right (Nat.cast_lt.2 (Nat.lt_succ_self _)) hw
    · exact ⟨fun hc => absurd hc Bool.false_ne_true, fun hc => absurd hvt hc⟩
  · obtain ⟨k, hk⟩ : ∃ k : Nat, q = e + (k + 1 : Nat) := ⟨(q - e - 1).toNat, by omega⟩
    have hsh : (q - e).toNat = k + 1 := by omega
    have hk1 : stick = true → 1 ≤ k := fun hs => by have := hq hs; omega
    let t := m / 2 ^ (k + 1)
    let rem := m % 2 ^ (k + 1)
    have hm : m = t * 2 ^ (k + 1) + rem := (Nat.div_add_mod' m _).symm
    have hrem : rem < 2 ^ (k + 1) := Nat.mod_lt _ (Nat.two_pow_pos _)
    have hpow : 2 ^ (k + 1) = 2 ^ k + 2 ^ k := by rw [Nat.pow_succ]; omega
    have heven : stick = true → 2 ^ k % 2 = 0 := fun hs => by
      obtain ⟨j, hj⟩ : ∃ j, k = j + 1 := ⟨k - 1, by have := hk1 hs; omega⟩
      rw [hj, Nat.pow_succ]; omega
    have hw : (2 : K) ^ q = ((2 ^ (k + 1) : Nat) : K) * 2 ^ e := by rw [hk, zpow_split]
    have hunits : ∀ n : Nat, (n : K) * (2 : K) ^ q = ((n * 2 ^ (k + 1) : Nat) : K) * 2 ^ e := fun n => by rw [hw]; push_cast; ring
    have hmid : (t : K) * (2 : K) ^ q + ((t + 1 : Nat) : K) * (2 : K) ^ q = 2 * (((t * 2 ^ (k + 1) + 2 ^ k : Nat) : K) * 2 ^ e) := by
      rw [hunits, hunits]
      push_cast
      ring
    have heven1 : ∀ n : Nat, n * 2 ^ (k + 1) % 2 = 0 := fun n => by rw [Nat.pow_succ, ← Nat.mul_assoc]; omega
    obtain ⟨hlo, hlo'⟩ := h.compare hu (N := t * 2 ^ (k + 1)) fun _ => heven1 t
    obtain ⟨-, hhi⟩ := h.compare hu (N := (t + 1) * 2 ^ (k + 1)) fun _ => heven1 (t + 1)
    have hlow := h.eq_iff hu (N := t * 2 ^ (k + 1)) fun _ => heven1 t
    obtain ⟨hmlt, -⟩ := h.compare hu (N := t * 2 ^ (k + 1) + 2 ^ k) fun hs => by rw [Nat.add_mod, heven1, heven hs]
    have hmeq := h.eq_iff hu (N := t * 2 ^ (k + 1) + 2 ^ k) fun hs => by rw [Nat.add_mod, heven1, heven hs]
    have hgoes (h0 : rem ≠ 0) : goesUp rm neg (t % 2 == 1) rem (2 ^ k) = true ↔
        Up rm neg (t % 2 == 1) ((t : K) * (2 : K) ^ q) (((t + 1 : Nat) : K) * (2 : K) ^ q) v := by
      refine goesUp_iff_up h0 ?_ ?_
      · rw [hmid, mul_lt_mul_iff_right₀ two_pos, hmlt]
        omega
      · rw [hmid, mul_right_inj' two_ne_zero, eq_comm, hmeq]
        omega
    have hr : roundAt rm neg m e q = (if goesUp rm neg (t % 2 == 1) rem (2 ^ k) then t + 1 else t, rem != 0) := by
      rw [roundAt, if_neg hqe, hsh]
      rfl
    have hexact : ((rem != 0) = true ↔ (t : K) * (2 : K) ^ q ≠ v) := by
      rw [bne_iff_ne, hunits, ne_comm (b := v), Ne, Ne, hlow]
      omega
    refine ⟨t, ?_⟩
    rw [hr]
    refine ⟨?_, ?_, hexact, fun hnx hU => if_pos ((hgoes (bne_iff_ne.1 hnx)).2 hU), fun hU => if_neg ?_⟩
    · rw [hunits]
      exact not_lt.1 fun hc => absurd (hlo'.1 hc) (by omega)
    · rw [hunits, hhi, Nat.succ_mul]
      omega
    · by_cases h0 : rem = 0
      · unfold goesUp; rw [if_pos h0]; exact Bool.false_ne_true
      · exact fun hg => hU (bne_iff_ne.2 h0) ((hgoes h0).1 hg)

/-! ### Rounding into a format -/

/-- A result and its flags are a magnitude rounded: c is the code below it, n the code that it goes to; tiny tells an inexact
result below the normal range. -/
structure RoundsCode (f : Fmt) (rm : Nat) (neg : Bool) (v : K) (c n : Nat) (nx tiny : Bool) (r : Nat × Nat) : Prop where
  low   : mag K f c ≤ v
  high  : v < mag K f (c + 1)
  exact : nx = true ↔ mag K f c ≠ v
  up    : nx = true → Up rm neg (c % 2 == 1) (mag K f c) (mag K f (c + 1)) v → n = c + 1
  down  : (nx = true → ¬ Up rm neg (c % 2 == 1) (mag K f c) (mag K f (c + 1)) v) → n = c
  range : (2 : K) ^ f.emin ≤ v → tiny = false
  huge  : limit f ≤ n → r = (if rm == 0 || (rm == 2 && !neg) || (rm == 3 && neg) then f.inf neg else f.big neg, 5)
  fits  : n < limit f → r = (f.zero neg + n, (if nx then 1 else 0) + if nx && tiny then 2 else 0)

/-- What the model's `round` is given for a magnitude: m units of 2^e, or a little more than them where something was cut off. -/
def Given (f : Fmt) (stick : Bool) (m : Nat) (e : Int) (v : K) : Prop :=
  m ≠ 0 ∧ if stick then 2 ^ (f.fb + 1) ≤ m ∧ (m : K) * (2 : K) ^ e < v ∧ v < ((m : K) + 1) * (2 : K) ^ e else v = (m : K) * (2 : K) ^ e

theorem two_pow_log2_le_approx {stick : Bool} {m : Nat} {e : Int} {v : K} (h : Approx stick m ((2 : K) ^ e) v) (hm : m ≠ 0)
    (hs : stick = true → 1 ≤ Nat.log2 m) : (2 : K) ^ ((Nat.log2 m : Int) + e) ≤ v ∧ v < (2 : K) ^ ((Nat.log2 m : Int) + e + 1) := by
  have hu : (0 : K) < 2 ^ e := zpow_pos two_pos _
  have heven : ∀ k, 1 ≤ k → 2 ^ k % 2 = 0 := fun k hk => by
    obtain ⟨j, rfl⟩ : ∃ j, k = j + 1 := ⟨k - 1, by omega⟩
    rw [Nat.pow_succ]; omega
  obtain ⟨-, hlo⟩ := h.compare hu (N := 2 ^ Nat.log2 m) fun h1 => heven _ (hs h1)
  obtain ⟨-, hhi⟩ := h.compare hu (N := 2 ^ (Nat.log2 m + 1)) fun _ => heven _ (Nat.le_add_left ..)
  have hle : 2 ^ Nat.log2 m ≤ m := Nat.log2_self_le hm
  have hlt : m < 2 ^ (Nat.log2 m + 1) := Nat.lt_log2_self
  constructor
  · rw [add_comm, zpow_split]
    exact not_lt.1 fun hc => absurd (hlo.1 hc) (by omega)
  · have hsum : (Nat.log2 m : Int) + e + 1 = e + (Nat.log2 m + 1 : Nat) := by push_cast; ring
    rw [hsum, zpow_split]
    exact hhi.2 hlt

/-- The model's `round` is the rounding of a magnitude, once. -/
theorem roundsCode_round (f : Fmt) (hf : Proper f) (rm : Nat) (neg : Bool) {stick : Bool} {m0 : Nat} {e0 : Int} {v : K}
    (h : Given f stick m0 e0 v) : ∃ c n nx tiny, RoundsCode f rm neg v c n nx tiny (f.round rm neg m0 e0 stick) := by
  obtain ⟨hm0, hg⟩ := h
  let m := if stick then 2 * m0 + 1 else m0
  let e := if stick then e0 - 1 else e0
  have hm : m ≠ 0 := by dsimp only [m]; split <;> omega
  have happrox : Approx stick m ((2 : K) ^ e) v := by
    cases stick with
    | false => exact hg
    | true =>
      obtain ⟨-, hlo, hhi⟩ : 2 ^ (f.fb + 1) ≤ m0 ∧ (m0 : K) * (2 : K) ^ e0 < v ∧ v < ((m0 : K) + 1) * (2 : K) ^ e0 := hg
      have hpow : (2 : K) ^ e0 = 2 * 2 ^ (e0 - 1) := by rw [zpow_sub_one₀ two_ne_zero]; field_simp
      refine ⟨by dsimp only [m]; rw [if_pos rfl]; omega, ?_, ?_⟩ <;> simp only [m, e, if_true]
      · refine lt_of_eq_of_lt ?_ hlo
        rw [hpow]; push_cast; ring
      · refine lt_of_lt_of_eq hhi ?_
        rw [hpow]; push_cast; ring
  let top : Int := (Nat.log2 m : Int) + e
  let q := max (top - f.fb) (f.emin - f.fb)
  have hcut : stick = true → 1 ≤ Nat.log2 m ∧ e + 1 < q := by
    intro hs
    subst hs
    obtain ⟨hbig, -, -⟩ : 2 ^ (f.fb + 1) ≤ m0 ∧ (m0 : K) * (2 : K) ^ e0 < v ∧ v < ((m0 : K) + 1) * (2 : K) ^ e0 := hg
    have hlog : f.fb + 2 ≤ Nat.log2 m := (Nat.le_log2 hm).2 (by
      have : 2 ^ (f.fb + 2) = 2 * 2 ^ (f.fb + 1) := by rw [Nat.pow_succ, Nat.mul_comm]
      dsimp only [m]
      rw [if_pos rfl, this]
      omega)
    have hle : top - f.fb ≤ q := le_max_left _ _
    exact ⟨by omega, by dsimp only [top] at hle; omega⟩
  obtain ⟨hvlo, hvhi⟩ := two_pow_log2_le_approx happrox hm fun hs => (hcut hs).1
  obtain ⟨t, hlow, hhigh, hexact, hup, hdown⟩ := roundsTo_roundAt rm neg happrox fun hs => (hcut hs).2
  have hw : (0 : K) < 2 ^ q := zpow_pos two_pos _
  have hfit : Fits f q t := by
    refine ⟨le_max_right _ _, ?_, fun hsmall => ?_⟩
    · have hlt : (t : K) * 2 ^ q < ((2 ^ (f.fb + 1) : Nat) : K) * 2 ^ q := by
        rw [← zpow_split]
        refine (hlow.trans_lt hvhi).trans_le (zpow_le_zpow_right₀ one_le_two ?_)
        have : top - f.fb ≤ q := le_max_left _ _
        push_cast
        omega
      exact_mod_cast lt_of_mul_lt_mul_right hlt hw.le
    · by_contra hne
      have hq : q = top - f.fb := by dsimp only [q] at hne ⊢; omega
      have hle : ((2 ^ f.fb : Nat) : K) * 2 ^ q < ((t + 1 : Nat) : K) * 2 ^ q := by
        rw [← zpow_split]
        refine lt_of_le_of_lt ?_ hhigh
        rwa [hq, sub_add_cancel]
      have : 2 ^ f.fb < t + 1 := by exact_mod_cast lt_of_mul_lt_mul_right hle hw.le
      omega
  have hmag := mag_codeOf K hfit
  have hmag1 := mag_codeOf_succ K hfit
  have hodd : codeOf f q t % 2 = t % 2 := by
    have hev : 2 ^ f.fb % 2 = 0 := by
      obtain ⟨j, hj⟩ : ∃ j, f.fb = j + 1 := ⟨f.fb - 1, by have := hf.frac; omega⟩
      rw [hj, Nat.pow_succ]; omega
    rw [codeOf]
    split
    · rfl
    · rw [Nat.add_mod, Nat.mul_mod, hev, Nat.mul_zero, Nat.zero_mod, Nat.zero_add, Nat.mod_mod]
      omega
  let tiny := decide (top < f.emin) && decide ((roundAt rm neg m e (top - f.fb)).1 < 2 ^ (f.emin - (top - f.fb)).toNat)
  have hround : f.round rm neg m0 e0 stick = if limit f ≤ codeOf f q (roundAt rm neg m e q).1 then
      (if rm == 0 || (rm == 2 && !neg) || (rm == 3 && neg) then f.inf neg else f.big neg, 5)
    else (f.zero neg + codeOf f q (roundAt rm neg m e q).1, (if (roundAt rm neg m e q).2 then 1 else 0) +
      if (roundAt rm neg m e q).2 && tiny then 2 else 0) := rfl
  refine ⟨codeOf f q t, codeOf f q (roundAt rm neg m e q).1, (roundAt rm neg m e q).2, tiny, ?_, ?_, ?_, ?_, ?_, ?_, fun ho => ?_, fun hu => ?_⟩
  · rw [hmag]; exact hlow
  · rw [hmag1]; exact hhigh
  · rw [hmag]; exact hexact
  · rw [hmag, hmag1, hodd]
    intro hnx hU
    rw [hup hnx hU, codeOf_succ hfit]
  · rw [hmag, hmag1, hodd]
    intro hU
    rw [hdown hU]
  · intro hle
    have : ¬ top < f.emin := fun hc => by
      have := hle.trans_lt hvhi
      rw [zpow_lt_zpow_iff_right₀ one_lt_two] at this
      omega
    dsimp only [tiny]
    rw [decide_eq_false this, Bool.false_and]
  · rw [hround, if_pos ho]
  · rw [hround, if_neg (Nat.not_le.2 hu)]

end

end Sys2Proof.Proofs

/-! A magnitude rounded once is its value rounded once: RoundedTo, mode by mode (03 R68; 01 R30). -/

namespace Sys2Proof.Proofs

open Sys2Proof Sys2Proof.Machine Sys2Proof.Rules

/-! ### Signs -/

theorem signedBy_inj {neg : Bool} {x y : ℚ} : signedBy neg x = signedBy neg y ↔ x = y := by
  cases neg <;> simp [signedBy]

theorem signedBy_signedBy (neg : Bool) (x : ℚ) : signedBy neg (signedBy neg x) = x := by
  cases neg <;> simp [signedBy]

theorem abs_signedBy (neg : Bool) (x : ℚ) : |signedBy neg x| = |x| := by
  cases neg <;> simp [signedBy]

theorem abs_signedBy_sub (neg : Bool) (x y : ℚ) : |signedBy neg x - y| = |x - signedBy neg y| := by
  cases neg
  · rfl
  · simp only [signedBy, if_true]
    rw [← abs_neg]
    congr 1
    ring

theorem signedBy_abs (v : ℚ) : signedBy (decide (v < 0)) |v| = v := by
  rcases lt_or_ge v 0 with h | h
  · rw [decide_eq_true h, abs_of_neg h]; simp [signedBy]
  · rw [decide_eq_false h.not_gt, abs_of_nonneg h]; rfl

/-- A value of a format. -/
def Val (f : Fmt) (q : ℚ) : Prop := ∃ neg, ∃ c < limit f, q = signedBy neg (mag ℚ f c)

theorem Val.signedBy {f : Fmt} {q : ℚ} (h : Val f q) (neg : Bool) : Val f (signedBy neg q) := by
  obtain ⟨s, c, hc, rfl⟩ := h
  cases neg
  · exact ⟨s, c, hc, rfl⟩
  · exact ⟨!s, c, hc, by cases s <;> simp [Proofs.signedBy]⟩

/-- No value of a format lies between two codes that follow each other. -/
theorem Val.gap {f : Fmt} {q : ℚ} (h : Val f q) (c : Nat) : q ≤ mag ℚ f c ∨ mag ℚ f (c + 1) ≤ q := by
  obtain ⟨s, d, -, rfl⟩ := h
  have hmono := (mag_strictMono ℚ f).monotone
  cases s with
  | true =>
    left
    have h1 := mag_nonneg ℚ f d
    have h2 := mag_nonneg ℚ f c
    show -mag ℚ f d ≤ _
    linarith
  | false =>
    rcases Nat.lt_or_ge c d with hlt | hge
    · exact .inr (hmono hlt)
    · exact .inl (hmono hge)

theorem Val.abs_le {f : Fmt} {q : ℚ} (h : Val f q) : |q| ≤ mag ℚ f (limit f - 1) := by
  obtain ⟨s, d, hd, rfl⟩ := h
  rw [abs_signedBy, abs_of_nonneg (mag_nonneg ℚ f d)]
  exact (mag_strictMono ℚ f).monotone (by omega)

section
variable {K : Type} [Field K] [LinearOrder K] {f : Fmt} {rm : Nat} {neg : Bool} {x : K} {c n : Nat} {nx tiny : Bool}
  {r : Nat × Nat} (h : RoundsCode f rm neg x c n nx tiny r)
include h

/-- The code a value goes to is the one below it, or, for an inexact value that goes up, the one above it. -/
theorem RoundsCode.below_or_above : (n = c ∧ (nx = true → ¬ Up rm neg (c % 2 == 1) (mag K f c) (mag K f (c + 1)) x)) ∨
    (n = c + 1 ∧ nx = true ∧ Up rm neg (c % 2 == 1) (mag K f c) (mag K f (c + 1)) x) := by
  by_cases hup : nx = true ∧ Up rm neg (c % 2 == 1) (mag K f c) (mag K f (c + 1)) x
  · exact .inr ⟨h.up hup.1 hup.2, hup⟩
  · exact .inl ⟨h.down fun hnx hU => hup ⟨hnx, hU⟩, fun hnx hU => hup ⟨hnx, hU⟩⟩

theorem RoundsCode.low_lt (hnx : nx = true) : mag K f c < x := lt_of_le_of_ne h.low (h.exact.1 hnx)

theorem RoundsCode.eq_of_exact (hnx : nx = false) : mag K f c = x := by
  by_contra hne
  exact absurd (h.exact.2 hne) (by rw [hnx]; decide)

/-- A result is inexact where it is another value. -/
theorem RoundsCode.inexact_iff : nx = true ↔ mag K f n ≠ x := by
  rcases h.below_or_above with ⟨rfl, -⟩ | ⟨rfl, hnx, -⟩
  · exact h.exact
  · exact ⟨fun _ => h.high.ne', fun _ => hnx⟩

end

section
variable {f : Fmt} {rm : Nat} {neg : Bool} {x : ℚ} {c n : Nat} {nx tiny : Bool} {r : Nat × Nat} (h : RoundsCode f rm neg x c n nx tiny r)
include h

/-- What goes beyond the finite codes is larger than the last of them. -/
theorem RoundsCode.lt_of_huge (hn : limit f ≤ n) (hl : 1 ≤ limit f) : mag ℚ f (limit f - 1) < x := by
  have hmono := mag_strictMono ℚ f
  rcases h.below_or_above with ⟨rfl, -⟩ | ⟨rfl, hnx, -⟩
  · exact (hmono (by omega : limit f - 1 < n)).trans_le h.low
  · exact (hmono.monotone (by omega : limit f - 1 ≤ c)).trans_lt (h.low_lt hnx)

theorem RoundsCode.outward (hU : Up rm neg (c % 2 == 1) (mag ℚ f c) (mag ℚ f (c + 1)) x) :
    x ≤ mag ℚ f n ∧ ∀ q, Val f q → x ≤ q → mag ℚ f n ≤ q := by
  rcases h.below_or_above with ⟨rfl, hnot⟩ | ⟨rfl, hnx, -⟩
  · have heq := h.eq_of_exact (Bool.eq_false_iff.2 fun hnx => hnot hnx hU)
    exact ⟨heq.ge, fun q _ hq => heq.trans_le hq⟩
  · refine ⟨h.high.le, fun q hv hq => ?_⟩
    rcases hv.gap c with hle | hge
    · exact absurd (h.low_lt hnx) (by linarith)
    · exact hge

theorem RoundsCode.inward (hU : ¬ Up rm neg (c % 2 == 1) (mag ℚ f c) (mag ℚ f (c + 1)) x) :
    n = c ∧ mag ℚ f n ≤ x ∧ ∀ q, Val f q → q ≤ x → q ≤ mag ℚ f n := by
  obtain rfl : n = c := h.down fun _ => hU
  refine ⟨rfl, h.low, fun q hv hq => ?_⟩
  rcases hv.gap n with hle | hge
  · exact hle
  · exact absurd h.high (by linarith)

end

/-- To the nearest, ties to even. -/
theorem RoundsCode.nearest {f : Fmt} {neg : Bool} {x : ℚ} {c n : Nat} {nx tiny : Bool} {r : Nat × Nat} (h : RoundsCode f 0 neg x c n nx tiny r)
    {q : ℚ} (hv : Val f q) : |mag ℚ f n - x| ≤ |q - x| ∧ (|mag ℚ f n - x| = |q - x| → mag ℚ f n = q ∨ n % 2 = 0) := by
  have hlow := h.low
  have hhigh := h.high
  have hq : (q ≤ mag ℚ f c ∧ |q - x| = x - q) ∨ (mag ℚ f (c + 1) ≤ q ∧ |q - x| = q - x) := by
    rcases hv.gap c with hle | hge
    · exact .inl ⟨hle, by rw [abs_of_nonpos (by linarith)]; ring⟩
    · exact .inr ⟨hge, abs_of_nonneg (by linarith)⟩
  rcases h.below_or_above with ⟨rfl, hnot⟩ | ⟨rfl, hnx, hU⟩
  · have hn : |mag ℚ f n - x| = x - mag ℚ f n := by rw [abs_of_nonpos (by linarith)]; ring
    have hhalf : 2 * x ≤ mag ℚ f n + mag ℚ f (n + 1) ∧ (2 * x = mag ℚ f n + mag ℚ f (n + 1) → n % 2 = 0) := by
      cases hx : nx with
      | false =>
        have heq := h.eq_of_exact hx
        exact ⟨by linarith, fun _ => by linarith⟩
      | true =>
        have hU : ¬ (mag ℚ f n + mag ℚ f (n + 1) < 2 * x ∨ mag ℚ f n + mag ℚ f (n + 1) = 2 * x ∧ (n % 2 == 1) = true) := hnot hx
        rw [not_or, not_and, beq_iff_eq] at hU
        exact ⟨not_lt.1 hU.1, fun he => by have := hU.2 he.symm; omega⟩
    rw [hn]
    rcases hq with ⟨hle, he⟩ | ⟨hge, he⟩ <;> rw [he]
    · exact ⟨by linarith, fun heq => .inl (by linarith)⟩
    · exact ⟨by linarith, fun heq => .inr (hhalf.2 (by linarith))⟩
  · have hn : |mag ℚ f (c + 1) - x| = mag ℚ f (c + 1) - x := abs_of_nonneg (by linarith)
    have hU : mag ℚ f c + mag ℚ f (c + 1) < 2 * x ∨ mag ℚ f c + mag ℚ f (c + 1) = 2 * x ∧ (c % 2 == 1) = true := hU
    have hhalf : mag ℚ f c + mag ℚ f (c + 1) ≤ 2 * x := hU.elim le_of_lt fun he => he.1.le
    rw [hn]
    rcases hq with ⟨hle, he⟩ | ⟨hge, he⟩ <;> rw [he]
    · refine ⟨by linarith, fun heq => .inr ?_⟩
      rcases hU with hlt | ⟨-, hodd⟩
      · linarith
      · rw [beq_iff_eq] at hodd
        omega
    · exact ⟨by linarith, fun heq => .inl (by linarith)⟩

/-! ### The end of the range -/

section
variable {f : Fmt} (hf : Proper f)
include hf

theorem mag_last (K : Type) [Field K] [CharZero K] :
    mag K f (limit f - 1) = ((2 ^ (f.fb + 1) - 1 : Nat) : K) * (2 : K) ^ ((f.bias : Int) - f.fb) ∧ (limit f - 1) % 2 = 1 := by
  have hb := eall_eq hf
  have hb1 := one_le_bias hf
  have hpow : 2 ^ (f.fb + 1) = 2 ^ f.fb + 2 ^ f.fb := by rw [Nat.pow_succ]; omega
  have hpos : 0 < 2 ^ f.fb := Nat.two_pow_pos _
  have hfit : Fits f ((f.bias : Int) - f.fb) (2 ^ (f.fb + 1) - 1) :=
    ⟨by simp only [Fmt.emin]; omega, by omega, fun h => absurd h (by omega)⟩
  have hcode : codeOf f ((f.bias : Int) - f.fb) (2 ^ (f.fb + 1) - 1) = limit f - 1 := by
    have hq : ((f.bias : Int) - f.fb + f.fb + f.bias).toNat = 2 * f.bias := by omega
    rw [codeOf, if_neg (by omega), hq, limit, hb, Nat.add_mul, Nat.one_mul]
    omega
  refine ⟨by rw [← hcode, mag_codeOf K hfit], ?_⟩
  have hev : 2 ^ f.fb % 2 = 0 := by
    obtain ⟨j, hj⟩ : ∃ j, f.fb = j + 1 := ⟨f.fb - 1, by have := hf.frac; omega⟩
    rw [hj, Nat.pow_succ]; omega
  have hlim : limit f % 2 = 0 := by rw [limit, Nat.mul_mod, hev, Nat.mul_zero, Nat.zero_mod]
  have := one_lt_limit hf
  omega

/-- Where round to nearest even overflows lies half way between the last finite value and the next. -/
theorem two_mul_overflowAt : 2 * overflowAt f = mag ℚ f (limit f - 1) + mag ℚ f (limit f) := by
  have htwo : (2 : ℚ) ≠ 0 := two_ne_zero
  have hpos : 1 ≤ 2 ^ (f.fb + 1) := Nat.one_le_two_pow
  have h1 : (2 : ℚ) ^ ((f.bias : Int) - f.prec) = 2 ^ ((f.bias : Int) - f.fb) / 2 := by
    have hsum : (f.bias : Int) - f.prec = (f.bias - f.fb : Int) - 1 := by rw [Fmt.prec]; push_cast; ring
    rw [hsum, zpow_sub_one₀ htwo, div_eq_mul_inv]
  have h2 : (2 : ℚ) ^ ((f.bias : Int) + 1) = 2 ^ (f.fb + 1) * 2 ^ ((f.bias : Int) - f.fb) := by
    rw [← zpow_natCast, ← zpow_add₀ htwo]
    congr 1
    push_cast
    ring
  rw [mag_limit hf, (mag_last hf ℚ).1, overflowAt, h1, h2, Nat.cast_sub hpos]
  push_cast
  ring

theorem fits_iff_lt_overflowAt {neg : Bool} {x : ℚ} {c n : Nat} {nx tiny : Bool} {r : Nat × Nat} (h : RoundsCode f 0 neg x c n nx tiny r) :
    n < limit f ↔ x < overflowAt f := by
  have hmono := mag_strictMono ℚ f
  have hmid := two_mul_overflowAt hf
  have hlast : mag ℚ f (limit f - 1) < mag ℚ f (limit f) := hmono (by have := one_lt_limit hf; omega)
  have hlow := h.low
  have hhigh := h.high
  rcases h.below_or_above with ⟨rfl, hnot⟩ | ⟨rfl, hnx, hU⟩
  · refine ⟨fun hn => ?_, fun hx => ?_⟩
    · rcases Nat.lt_or_ge (n + 1) (limit f) with hlt | hge
      · have := hmono.monotone (show n + 1 ≤ limit f - 1 by omega)
        linarith
      · obtain rfl : n = limit f - 1 := by omega
        rw [show limit f - 1 + 1 = limit f by omega] at hnot hhigh
        cases hx : nx with
        | false =>
          have := h.eq_of_exact hx
          linarith
        | true =>
          have hU : ¬ (mag ℚ f (limit f - 1) + mag ℚ f (limit f) < 2 * x ∨
            mag ℚ f (limit f - 1) + mag ℚ f (limit f) = 2 * x ∧ ((limit f - 1) % 2 == 1) = true) := hnot hx
          rw [not_or, not_and, beq_iff_eq] at hU
          have hne : mag ℚ f (limit f - 1) + mag ℚ f (limit f) ≠ 2 * x := fun he => hU.2 he (mag_last hf ℚ).2
          have := lt_of_le_of_ne (not_lt.1 hU.1) hne.symm
          linarith
    · by_contra hge
      have := hmono.monotone (Nat.not_lt.1 hge)
      linarith
  · have hU : mag ℚ f c + mag ℚ f (c + 1) < 2 * x ∨ mag ℚ f c + mag ℚ f (c + 1) = 2 * x ∧ (c % 2 == 1) = true := hU
    have hhalf : mag ℚ f c + mag ℚ f (c + 1) ≤ 2 * x := hU.elim le_of_lt fun he => he.1.le
    refine ⟨fun hn => ?_, fun hx => ?_⟩
    · have := hmono.monotone (show c + 1 ≤ limit f - 1 by omega)
      linarith
    · by_contra hge
      have h1 := hmono.monotone (show limit f - 1 ≤ c by omega)
      have h2 := hmono.monotone (Nat.not_lt.1 hge)
      linarith

/-! ### The result's value -/

theorem zero_mod_two (neg : Bool) : f.zero neg % 2 = 0 := by
  obtain ⟨j, hj⟩ : ∃ j, f.w - 1 = j + 1 := ⟨f.w - 2, by have := hf.width; have := hf.expo; omega⟩
  rw [Fmt.zero]
  split
  · rw [hj, Nat.pow_succ]; omega
  · rfl

theorem big_eq (neg : Bool) : f.big neg = f.zero neg + (limit f - 1) := by
  have h1 := one_lt_limit hf
  have hinf : f.inf neg = f.zero neg + limit f := rfl
  rw [Fmt.big, hinf]
  omega

section
variable {rm : Nat} {neg : Bool} {x : ℚ} {c n : Nat} {nx tiny : Bool} {r : Nat × Nat} (h : RoundsCode f rm neg x c n nx tiny r)
include h

theorem RoundsCode.encoding_lt : r.1 < 2 ^ f.w := by
  have h1 := one_lt_limit hf
  rcases Nat.lt_or_ge n (limit f) with hn | hn
  · rw [h.fits hn]
    exact (code_split hf neg hn.le).2.2
  · rw [h.huge hn]
    dsimp only
    split
    · exact (code_split hf neg (Nat.le_refl _)).2.2
    · rw [big_eq hf]
      exact (code_split hf neg (Nat.sub_le ..)).2.2

theorem RoundsCode.flag_iff : r.2 % 2 = 1 ↔ fpVal f r.1 ≠ some (signedBy neg x) := by
  have h1 := one_lt_limit hf
  rcases Nat.lt_or_ge n (limit f) with hn | hn
  · rw [h.fits hn, fpVal_code hf neg hn, Ne, Option.some_inj, signedBy_inj, ← Ne, ← h.inexact_iff]
    cases nx <;> cases tiny <;> simp
  · have hlt := h.lt_of_huge hn h1.le
    rw [h.huge hn]
    refine iff_of_true (show 5 % 2 = 1 from rfl) ?_
    dsimp only
    split
    · rw [fpVal_inf hf]; exact (Option.some_ne_none _).symm
    · rw [big_eq hf, fpVal_code hf neg (Nat.sub_lt (by omega) Nat.one_pos), Ne, Option.some_inj, signedBy_inj]
      exact hlt.ne

/-- A mode that goes away from zero gives the least value that is no less, or infinity where there is none. -/
theorem RoundsCode.outward_result (hU : ∀ odd lo hi, Up rm neg odd lo hi x) (hinf : (rm == 0 || (rm == 2 && !neg) || (rm == 3 && neg)) = true) :
    (∃ m, fpVal f r.1 = some (signedBy neg m) ∧ x ≤ m ∧ ∀ q, Val f q → x ≤ q → m ≤ q) ∨
      (r.1 = f.inf neg ∧ ∀ q, Val f q → q < x) := by
  have h1 := one_lt_limit hf
  obtain ⟨hle, hleast⟩ := h.outward (hU ..)
  rcases Nat.lt_or_ge n (limit f) with hn | hn
  · rw [h.fits hn]
    exact .inl ⟨_, fpVal_code hf neg hn, hle, hleast⟩
  · rw [h.huge hn]
    exact .inr ⟨if_pos hinf, fun q hq => ((le_abs_self q).trans hq.abs_le).trans_lt (h.lt_of_huge hn h1.le)⟩

/-- A mode that goes toward zero gives the greatest value that is no more. -/
theorem RoundsCode.inward_result (hU : ∀ odd lo hi, ¬ Up rm neg odd lo hi x) (hbig : (rm == 0 || (rm == 2 && !neg) || (rm == 3 && neg)) = false) :
    ∃ m, fpVal f r.1 = some (signedBy neg m) ∧ 0 ≤ m ∧ m ≤ x ∧ ∀ q, Val f q → q ≤ x → q ≤ m := by
  have h1 := one_lt_limit hf
  obtain ⟨rfl, hle, hgreatest⟩ := h.inward (hU _ _ _)
  rcases Nat.lt_or_ge n (limit f) with hn | hn
  · rw [h.fits hn]
    exact ⟨_, fpVal_code hf neg hn, mag_nonneg ℚ f n, hle, hgreatest⟩
  · rw [h.huge hn]
    refine ⟨mag ℚ f (limit f - 1), ?_, mag_nonneg ℚ f _, (h.lt_of_huge hn h1.le).le, fun q hq _ => (le_abs_self q).trans hq.abs_le⟩
    dsimp only
    rw [if_neg (by rw [hbig]; exact Bool.false_ne_true), big_eq hf]
    exact fpVal_code hf neg (by omega)

end

/-- A code next to a value, by the mode, is that value rounded once. -/
theorem roundedTo_of_roundsCode {rm : Nat} (hrm : rm < 4) {v : ℚ} {c n : Nat} {nx tiny : Bool} {r : Nat × Nat}
    (h : RoundsCode f rm (decide (v < 0)) |v| c n nx tiny r) : RoundedTo f rm v r := by
  have hflag := h.flag_iff hf
  have hlt := h.encoding_lt hf
  rw [signedBy_abs] at hflag
  have hval : ∀ {y q}, fpVal f y = some q → Val f q := fun hq => code_of_fpVal hf hq
  refine ⟨hlt, hflag, ?_⟩
  match rm, hrm with
  | 0, _ =>
    show if |v| < overflowAt f then _ else _
    by_cases hx : |v| < overflowAt f
    · have hn := (fits_iff_lt_overflowAt hf h).2 hx
      rw [if_pos hx, h.fits hn]
      refine ⟨_, fpVal_code hf _ hn, fun y _ q hq => ?_⟩
      obtain ⟨hle, htie⟩ := h.nearest ((hval hq).signedBy (decide (v < 0)))
      rw [abs_signedBy_sub _ q, signedBy_abs] at hle htie
      rw [abs_signedBy_sub, show signedBy (decide (v < 0)) v = |v| from by rw [← signedBy_inj, signedBy_signedBy, signedBy_abs]]
      refine ⟨hle, fun he => (htie he).imp (fun h1 => ?_) fun h2 => ?_⟩
      · rw [h1, signedBy_signedBy]
      · have := zero_mod_two hf (decide (v < 0))
        omega
    · have hn : limit f ≤ n := not_lt.1 fun hc => hx ((fits_iff_lt_overflowAt hf h).1 hc)
      rw [if_neg hx, h.huge hn]
      rfl
  | 1, _ =>
    obtain ⟨m, hp, h0, hle, hgreatest⟩ := h.inward_result hf (fun _ _ _ => id) rfl
    refine ⟨_, hp, ?_, ?_, fun y _ q hq hqv => ?_⟩
    · rw [abs_signedBy, abs_of_nonneg h0]; exact hle
    · have hprod : signedBy (decide (v < 0)) m * v = m * |v| := by
        conv_lhs => rw [← signedBy_abs v]
        rw [show decide (signedBy (decide (v < 0)) |v| < 0) = decide (v < 0) from by rw [signedBy_abs]]
        cases decide (v < 0) <;> simp [signedBy]
      rw [hprod]
      exact mul_nonneg h0 (abs_nonneg v)
    · rw [abs_signedBy, abs_of_nonneg h0]
      refine hgreatest _ ?_ hqv
      rcases abs_choice q with he | he <;> rw [he]
      · exact hval hq
      · exact (hval hq).signedBy true
  | 2, _ =>
    rcases lt_or_ge v 0 with hneg | hpos
    · rw [decide_eq_true hneg, abs_of_neg hneg] at h
      obtain ⟨m, hp, h0, hle, hgreatest⟩ := h.inward_result hf (fun _ _ _ => Bool.true_eq_false_eq_False.elim) rfl
      have hp : fpVal f r.1 = some (-m) := hp
      refine ⟨fun p hq => ?_, fun y _ q hq hqv => ⟨-m, hp, ?_⟩, fun hall => ?_⟩
      · rw [hp, Option.some_inj] at hq; linarith
      · have := hgreatest (-q) ((hval hq).signedBy true) (by linarith); linarith
      · have := hall r.1 hlt _ hp; linarith
    · rw [decide_eq_false hpos.not_gt, abs_of_nonneg hpos] at h
      rcases h.outward_result hf (fun _ _ _ => rfl) rfl with ⟨m, hp, hle, hleast⟩ | ⟨hinf, hall⟩
      · have hp : fpVal f r.1 = some m := hp
        refine ⟨fun p hq => ?_, fun y _ q hq hqv => ⟨m, hp, hleast q (hval hq) hqv⟩, fun hall => ?_⟩
        · rw [hp, Option.some_inj] at hq; linarith
        · have := hall r.1 hlt _ hp; linarith
      · refine ⟨fun p hq => ?_, fun y _ q hq hqv => ?_, fun _ => hinf⟩
        · rw [hinf, fpVal_inf hf] at hq; cases hq
        · have := hall q (hval hq); linarith
  | 3, _ =>
    rcases lt_or_ge v 0 with hneg | hpos
    · rw [decide_eq_true hneg, abs_of_neg hneg] at h
      rcases h.outward_result hf (fun _ _ _ => rfl) rfl with ⟨m, hp, hle, hleast⟩ | ⟨hinf, hall⟩
      · have hp : fpVal f r.1 = some (-m) := hp
        refine ⟨fun p hq => ?_, fun y _ q hq hqv => ⟨-m, hp, ?_⟩, fun hall => ?_⟩
        · rw [hp, Option.some_inj] at hq; linarith
        · have := hleast (-q) ((hval hq).signedBy true) (by linarith); linarith
        · have := hall r.1 hlt _ hp; linarith
      · refine ⟨fun p hq => ?_, fun y _ q hq hqv => ?_, fun _ => hinf⟩
        · rw [hinf, fpVal_inf hf] at hq; cases hq
        · have := hall (-q) ((hval hq).signedBy true); linarith
    · rw [decide_eq_false hpos.not_gt, abs_of_nonneg hpos] at h
      obtain ⟨m, hp, h0, hle, hgreatest⟩ := h.inward_result hf (fun _ _ _ => Bool.false_ne_true) rfl
      have hp : fpVal f r.1 = some m := hp
      refine ⟨fun p hq => ?_, fun y _ q hq hqv => ⟨m, hp, hgreatest q (hval hq) hqv⟩, fun hall => ?_⟩
      · rw [hp, Option.some_inj] at hq; linarith
      · have := hall r.1 hlt _ hp; linarith

/-- The model's `round` of a magnitude that is given is its value rounded once. -/
theorem roundedTo_round {rm : Nat} (hrm : rm < 4) {v : ℚ} {stick : Bool} {m : Nat} {e : Int} {neg : Bool} (hneg : decide (v < 0) = neg)
    (h : Given f stick m e |v|) : RoundedTo f rm v (f.round rm neg m e stick) := by
  subst hneg
  obtain ⟨c, n, nx, tiny, hc⟩ := roundsCode_round f hf rm (decide (v < 0)) h
  exact roundedTo_of_roundsCode hf hrm hc

end

end Sys2Proof.Proofs

/-! Sums, products and fused products are exact values rounded once (03 R67, R68; 04 R128). -/

namespace Sys2Proof.Proofs

open Sys2Proof Sys2Proof.Machine Sys2Proof.Rules

/-! ### Decoded values -/

/-- The value of a decoded number. -/
def finVal (neg : Bool) (m : Nat) (e : Int) : ℚ := signedBy neg ((m : ℚ) * (2 : ℚ) ^ e)

theorem fin_of_fpVal {f : Fmt} {x : Nat} {p : ℚ} (h : fpVal f x = some p) : ∃ m e, f.decode x = .fin (minus f x) m e ∧ p = finVal (minus f x) m e := by
  rw [fpVal] at h
  split at h
  · rename_i neg m e hd
    have hneg : minus f x = neg := by rw [minus, hd]; rfl
    refine ⟨m, e, by rw [hd, hneg], ?_⟩
    rw [hneg, finVal, ← Option.some_inj.1 h, signedBy]
    cases neg <;> simp
  · cases h

theorem finVal_eq_zero_iff {neg : Bool} {m : Nat} {e : Int} : finVal neg m e = 0 ↔ m = 0 := by
  have h2 : (2 : ℚ) ^ e ≠ 0 := zpow_ne_zero _ two_ne_zero
  cases neg <;> simp [finVal, signedBy, h2]

theorem finVal_eq_sgnInt (neg : Bool) (m : Nat) (e : Int) : finVal neg m e = (sgnInt neg m : ℚ) * (2 : ℚ) ^ e := by
  cases neg <;> simp [finVal, signedBy, sgnInt]

theorem finVal_neg_iff {neg : Bool} {m : Nat} {e : Int} (hm : m ≠ 0) : decide (finVal neg m e < 0) = neg := by
  have h2 : (0 : ℚ) < 2 ^ e := zpow_pos two_pos _
  have hm' : (0 : ℚ) < m := by exact_mod_cast Nat.pos_of_ne_zero hm
  have hpos := mul_pos hm' h2
  cases neg
  · exact decide_eq_false (by show ¬ (m : ℚ) * 2 ^ e < 0; linarith)
  · exact decide_eq_true (by show -((m : ℚ) * 2 ^ e) < 0; linarith)

theorem abs_finVal (neg : Bool) (m : Nat) (e : Int) : |finVal neg m e| = (m : ℚ) * (2 : ℚ) ^ e := by
  rw [finVal, abs_signedBy, abs_of_nonneg (mul_nonneg (Nat.cast_nonneg m) (zpow_nonneg zero_le_two _))]

theorem scaleInt_cast {n e q : Int} (h : q ≤ e) : ((scaleInt n e q : Int) : ℚ) * (2 : ℚ) ^ q = (n : ℚ) * (2 : ℚ) ^ e := by
  have hsplit : (2 : ℚ) ^ e = ((2 ^ (e - q).toNat : Nat) : ℚ) * (2 : ℚ) ^ q := by rw [← zpow_split]; congr 1; omega
  rw [scaleInt, hsplit]
  push_cast
  ring

section
variable {f : Fmt} (hf : Proper f) {rm : Nat} (hrm : rm < 4)
include hf hrm

/-! ### Exact values rounded -/

theorem roundedTo_ofFin {neg : Bool} {m : Nat} {e : Int} (h : finVal neg m e ≠ 0) : RoundedTo f rm (finVal neg m e) (f.ofFin rm neg m e) := by
  have hm : m ≠ 0 := fun hc => h (finVal_eq_zero_iff.2 hc)
  rw [Fmt.ofFin, if_neg hm]
  exact roundedTo_round hf hrm (finVal_neg_iff hm) ⟨hm, abs_finVal neg m e⟩

theorem roundedTo_ofInt {n e : Int} (h : n ≠ 0) : RoundedTo f rm ((n : ℚ) * 2 ^ e) (f.ofInt rm n e) := by
  have hp : (0 : ℚ) < 2 ^ e := zpow_pos two_pos _
  rw [Fmt.ofInt, if_neg h]
  refine roundedTo_round hf hrm ?_ ⟨Int.natAbs_ne_zero.2 h, ?_⟩
  · refine decide_eq_decide.2 ?_
    rw [mul_neg_iff]
    constructor
    · rintro (⟨-, hc⟩ | ⟨hn, -⟩)
      · exact absurd hp hc.not_gt
      · exact_mod_cast hn
    · exact fun hn => .inr ⟨by exact_mod_cast hn, hp⟩
  · rw [abs_mul, abs_of_pos hp]
    show _ = ((n.natAbs : Nat) : ℚ) * 2 ^ e
    rw [Nat.cast_natAbs]
    push_cast
    rfl

theorem roundedTo_addFin {n1 n2 : Bool} {m1 m2 : Nat} {e1 e2 : Int} (h : finVal n1 m1 e1 + finVal n2 m2 e2 ≠ 0) :
    RoundedTo f rm (finVal n1 m1 e1 + finVal n2 m2 e2) (f.addFin rm n1 m1 e1 n2 m2 e2) := by
  have hz : ¬ (m1 = 0 ∧ m2 = 0 ∧ n1 = n2) := fun ⟨h1, h2, _⟩ => h (by rw [finVal_eq_zero_iff.2 h1, finVal_eq_zero_iff.2 h2, add_zero])
  have hsum : finVal n1 m1 e1 + finVal n2 m2 e2 =
      ((scaleInt (sgnInt n1 m1) e1 (min e1 e2) + scaleInt (sgnInt n2 m2) e2 (min e1 e2) : Int) : ℚ) * 2 ^ min e1 e2 := by
    rw [Int.cast_add, add_mul, scaleInt_cast (min_le_left _ _), scaleInt_cast (min_le_right _ _), ← finVal_eq_sgnInt, ← finVal_eq_sgnInt]
  rw [Fmt.addFin, if_neg hz]
  rw [hsum] at h ⊢
  exact roundedTo_ofInt hf hrm fun hc => h (by rw [hc]; simp)

end

/-- An exact zero sum is +0, or -0 under RDN, but for zeros of one sign. -/
theorem addFin_zero {f : Fmt} {rm : Nat} {n1 n2 : Bool} {m1 m2 : Nat} {e1 e2 : Int} (h : finVal n1 m1 e1 + finVal n2 m2 e2 = 0) :
    f.addFin rm n1 m1 e1 n2 m2 e2 = (f.zero (if n1 = n2 then n1 else rm == 3), 0) := by
  have hsum : ((scaleInt (sgnInt n1 m1) e1 (min e1 e2) + scaleInt (sgnInt n2 m2) e2 (min e1 e2) : Int) : ℚ) * 2 ^ min e1 e2 = 0 := by
    rw [Int.cast_add, add_mul, scaleInt_cast (min_le_left _ _), scaleInt_cast (min_le_right _ _), ← finVal_eq_sgnInt, ← finVal_eq_sgnInt, h]
  have hint : scaleInt (sgnInt n1 m1) e1 (min e1 e2) + scaleInt (sgnInt n2 m2) e2 (min e1 e2) = 0 := by
    rcases mul_eq_zero.1 hsum with h0 | h0
    · exact_mod_cast h0
    · exact absurd h0 (zpow_ne_zero _ two_ne_zero)
  rw [Fmt.addFin]
  by_cases hn : n1 = n2
  · -- of one sign both are zeros
    subst hn
    have h1 : (0 : ℚ) ≤ (m1 : ℚ) * 2 ^ e1 := mul_nonneg (Nat.cast_nonneg _) (zpow_nonneg zero_le_two _)
    have h2 : (0 : ℚ) ≤ (m2 : ℚ) * 2 ^ e2 := mul_nonneg (Nat.cast_nonneg _) (zpow_nonneg zero_le_two _)
    have hboth : (m1 : ℚ) * 2 ^ e1 = 0 ∧ (m2 : ℚ) * 2 ^ e2 = 0 := by
      cases n1 <;> simp only [finVal, signedBy, if_true, Bool.false_eq_true, if_false] at h <;> constructor <;> linarith
    have hm1 : m1 = 0 := (finVal_eq_zero_iff (neg := false) (e := e1)).1 hboth.1
    have hm2 : m2 = 0 := (finVal_eq_zero_iff (neg := false) (e := e2)).1 hboth.2
    rw [if_pos ⟨hm1, hm2, rfl⟩, if_pos rfl]
  · rw [if_neg fun hc => hn hc.2.2, if_neg hn]
    dsimp only
    rw [hint, Fmt.ofInt, if_pos rfl]

theorem finVal_mul (n1 n2 : Bool) (m1 m2 : Nat) (e1 e2 : Int) :
    finVal n1 m1 e1 * finVal n2 m2 e2 = finVal (n1 != n2) (m1 * m2) (e1 + e2) := by
  have h2 : (2 : ℚ) ^ (e1 + e2) = 2 ^ e1 * 2 ^ e2 := zpow_add₀ two_ne_zero _ _
  cases n1 <;> cases n2 <;> simp [finVal, signedBy, h2] <;> ring

/-- Settles O60: decoded numbers are exact integers at an exponent, so are their sums and products, and the model rounds these once. -/
theorem arithmeticRoundsOnce : Obligations.ArithmeticRoundsOnce := by
  intro f hmem rm hrm x y z p q r hx hy hz
  have hf := proper_of_mem f hmem
  obtain ⟨m1, e1, hdx, rfl⟩ := fin_of_fpVal hx
  obtain ⟨m2, e2, hdy, rfl⟩ := fin_of_fpVal hy
  obtain ⟨m3, e3, hdz, rfl⟩ := fin_of_fpVal hz
  have hadd : f.add rm (f.decode x) (f.decode y) = f.addFin rm (minus f x) m1 e1 (minus f y) m2 e2 := by rw [hdx, hdy]; rfl
  have hmul : f.mul rm (f.decode x) (f.decode y) = f.ofFin rm (minus f x != minus f y) (m1 * m2) (e1 + e2) := by rw [hdx, hdy]; rfl
  have hfma : f.fma rm (f.decode z) (f.decode x) (f.decode y) =
      f.addFin rm (minus f z) m3 e3 (minus f x != minus f y) (m1 * m2) (e1 + e2) := by rw [hdx, hdy, hdz]; rfl
  rw [hadd, hmul, hfma, finVal_mul, add_comm (finVal (minus f x != minus f y) _ _)]
  refine ⟨roundedTo_addFin hf hrm, roundedTo_ofFin hf hrm, roundedTo_addFin hf hrm, addFin_zero, fun h => ?_, fun h => ?_⟩
  · rw [Fmt.ofFin, if_pos (finVal_eq_zero_iff.1 h)]
  · rw [addFin_zero h]
    refine congrArg (fun b => (f.zero b, 0)) ?_
    by_cases hs : (minus f x != minus f y) = minus f z
    · rw [if_pos hs, if_pos hs.symm]
    · rw [if_neg hs, if_neg fun hc => hs hc.symm]

end Sys2Proof.Proofs

/-! The tables of minima, maxima and comparisons, and the instructions that follow them (04 R130, R131, R135). -/

namespace Sys2Proof.Proofs

open Sys2Proof Sys2Proof.Machine Sys2Proof.Rules

theorem eq_of_signedBy_eq {s t : Bool} {a b : ℚ} (ha : 0 ≤ a) (hb : 0 ≤ b) (h0 : signedBy s a ≠ 0) (h : signedBy s a = signedBy t b) :
    s = t ∧ a = b := by
  cases s with
  | false =>
    cases t with
    | false => exact ⟨rfl, h⟩
    | true => exact absurd (le_antisymm (h.le.trans (neg_nonpos.2 hb)) ha) h0
  | true =>
    cases t with
    | false => exact absurd (le_antisymm (neg_nonpos.2 ha) (hb.trans h.ge)) h0
    | true => exact ⟨rfl, neg_inj.1 h⟩

/-! ### Encodings of equal values, of zeros and of infinities -/

section
variable {f : Fmt} (hf : Proper f)
include hf

theorem decode_inf (n : Bool) : f.decode (f.inf n) = .inf n := by
  obtain ⟨hmod, hneg, -⟩ := code_split hf n (Nat.le_refl (limit f))
  have hinf : f.inf n = f.zero n + limit f := rfl
  rw [hinf, decode_eq hf]
  dsimp only
  rw [hmod, hneg, if_neg (Nat.lt_irrefl _), if_pos rfl]

theorem minus_eq_of_finite {x : Nat} (h : (fpVal f x).isSome = true) : minus f x = (x / 2 ^ (f.w - 1) % 2 == 1) := by
  rw [fpVal_eq hf] at h
  split at h
  · rw [minus, decode_eq hf]
    dsimp only
    rw [if_pos ‹_›]
    rfl
  · cases h

/-- A finite encoding by its sign and code. -/
theorem encoding_of_fpVal {x : Nat} {p : ℚ} (hx : x < 2 ^ f.w) (h : fpVal f x = some p) :
    ∃ c < limit f, x = f.zero (minus f x) + c ∧ p = signedBy (minus f x) (mag ℚ f c) := by
  have hminus := minus_eq_of_finite hf (by rw [h]; rfl : (fpVal f x).isSome = true)
  rw [fpVal_eq hf] at h
  split at h
  · refine ⟨_, ‹_›, ?_, ?_⟩ <;> rw [hminus]
    · exact (zero_add_code hf hx).symm
    · exact (Option.some_inj.1 h).symm
  · cases h

theorem eq_zero_of_fpVal_zero {x : Nat} (hx : x < 2 ^ f.w) (h : fpVal f x = some 0) : x = f.zero (minus f x) := by
  obtain ⟨c, -, hxc, h0⟩ := encoding_of_fpVal hf hx h
  have hz : mag ℚ f c = 0 := by
    have : signedBy (minus f x) (mag ℚ f c) = signedBy (minus f x) 0 := by rw [← h0]; cases minus f x <;> simp [signedBy]
    exact signedBy_inj.1 this
  rw [mag_eq_zero_iff] at hz
  rw [hz] at hxc
  exact hxc

theorem fpVal_injective {x y : Nat} {p : ℚ} (hx : x < 2 ^ f.w) (hy : y < 2 ^ f.w) (h : fpVal f x = some p) (h' : fpVal f y = some p)
    (hp : p ≠ 0) : x = y := by
  obtain ⟨c, -, hxc, hpc⟩ := encoding_of_fpVal hf hx h
  obtain ⟨d, -, hyd, hpd⟩ := encoding_of_fpVal hf hy h'
  have hsame := eq_of_signedBy_eq (mag_nonneg ℚ f c) (mag_nonneg ℚ f d) (hpc ▸ hp) (hpc.symm.trans hpd)
  rw [hxc, hyd, hsame.1, (mag_strictMono ℚ f).injective hsame.2]

/-- A number is an infinity, then in its one encoding, or finite. -/
theorem not_nan_cases {x : Nat} (hx : x < 2 ^ f.w) (h : nan f x = false) :
    (∃ k, x = f.inf k ∧ f.decode x = .inf k) ∨ ∃ m e, f.decode x = .fin (minus f x) m e := by
  by_cases hfin : (fpVal f x).isSome = true
  · obtain ⟨p, hp⟩ := Option.isSome_iff_exists.1 hfin
    obtain ⟨m, e, hd, -⟩ := fin_of_fpVal hp
    exact .inr ⟨m, e, hd⟩
  · left
    have hge : ¬ x % 2 ^ (f.w - 1) < limit f := fun hc => hfin (by rw [fpVal_eq hf, if_pos hc]; rfl)
    by_cases heq : x % 2 ^ (f.w - 1) = limit f
    · refine ⟨x / 2 ^ (f.w - 1) % 2 == 1, ?_, ?_⟩
      · rw [← zero_add_code hf hx]
        conv_lhs => rw [heq]
        rw [zero_add_code hf hx]
        rfl
      · rw [decode_eq hf]
        dsimp only
        rw [if_neg hge, if_pos heq]
    · rw [nan, decode_eq hf] at h
      dsimp only at h
      rw [if_neg hge, if_neg heq] at h
      cases h

end

theorem fpLt_fin (n1 n2 : Bool) (m1 m2 : Nat) (e1 e2 : Int) :
    fpLt (.fin n1 m1 e1) (.fin n2 m2 e2) = decide (finVal n1 m1 e1 < finVal n2 m2 e2) := by
  have hp : (0 : ℚ) < 2 ^ min e1 e2 := zpow_pos two_pos _
  refine decide_eq_decide.2 ?_
  rw [finVal_eq_sgnInt, finVal_eq_sgnInt, ← scaleInt_cast (min_le_left e1 e2), ← scaleInt_cast (min_le_right e1 e2),
    mul_lt_mul_iff_left₀ hp, Int.cast_lt]

theorem isZero_fin (n : Bool) (m : Nat) (e : Int) : (Fp.fin n m e).isZero = decide (finVal n m e = 0) := by
  rw [decide_eq_decide.2 finVal_eq_zero_iff]
  exact beq_eq_decide m 0

/-! ### FMIN and FMAX (04 R130) -/

theorem nvIf_eq (b : Bool) : nvIf b = invalidIf b := rfl

/-- Two numbers, the lesser or the greater. -/
theorem minmax_of_not_nan {f : Fmt} {big : Bool} {x y : Nat} (hx : nan f x = false) (hy : nan f y = false) : (f.minmax big x y).1 =
    if (fpLt (f.decode x) (f.decode y) || ((f.decode x).isZero && (f.decode y).isZero && minus f x && !minus f y)) != big then x else y := by
  rw [nan] at hx hy
  simp only [Fmt.minmax, hx, hy, Bool.and_false, Bool.false_eq_true, if_false]
  rfl

theorem minMaxTable {f : Fmt} (hf : Proper f) (big : Bool) : MinMaxTable f big := by
  intro x hx y hy
  have hnot_nan : ∀ {z q}, fpVal f z = some q → nan f z = false := fun h => by
    obtain ⟨m, e, hd, -⟩ := fin_of_fpVal h
    rw [nan, hd]; rfl
  have hinf : ∀ n, nan f (f.inf n) = false := fun n => by rw [nan, decode_inf hf]; rfl
  have hflags : (f.minmax big x y).2 = invalidIf (snan f x || snan f y) := by
    unfold Fmt.minmax
    dsimp only
    split
    · rfl
    · split
      · rfl
      · split <;> rfl
  refine ⟨hflags, fun h1 h2 => ?_, fun h1 h2 => ?_, fun h1 h2 => ?_, fun p q hp hq => ?_, ?_, ?_⟩
  · rw [nan] at h1 h2
    simp only [Fmt.minmax, h1, h2, Bool.and_self, if_true]
  · rw [nan] at h1 h2
    simp only [Fmt.minmax, h1, h2, Bool.and_false, Bool.false_eq_true, if_false, if_true]
  · rw [nan] at h1 h2
    simp only [Fmt.minmax, h1, h2, Bool.false_and, Bool.false_eq_true, if_false, if_true]
  · rw [minmax_of_not_nan (hnot_nan hp) (hnot_nan hq)]
    obtain ⟨m1, e1, hd1, hv1⟩ := fin_of_fpVal hp
    obtain ⟨m2, e2, hd2, hv2⟩ := fin_of_fpVal hq
    rw [hd1, hd2, fpLt_fin, isZero_fin, isZero_fin, ← hv1, ← hv2]
    refine ⟨fun h => ?_, fun h => ?_, fun h h0 => ?_, fun h0 h0' => ?_⟩
    · rw [decide_eq_true h]
      cases big <;> rfl
    · have hz : ¬ (p = 0 ∧ q = 0) := fun ⟨h0, h0'⟩ => by linarith
      rw [decide_eq_false h.not_gt, ← Bool.decide_and, decide_eq_false hz]
      cases big <;> rfl
    · subst h
      obtain rfl := fpVal_injective hf hx hy hp hq h0
      exact ⟨ite_self _, rfl⟩
    · subst h0 h0'
      have hzx := eq_zero_of_fpVal_zero hf hx hp
      have hzy := eq_zero_of_fpVal_zero hf hy hq
      rw [decide_eq_false (lt_irrefl (0 : ℚ)), decide_eq_true rfl]
      cases hsx : minus f x <;> cases hsy : minus f y <;> rw [hsx] at hzx <;> rw [hsy] at hzy <;> rw [hzx, hzy] <;> cases big <;> rfl
  · intro n hn hny
    rw [minmax_of_not_nan (hn ▸ hinf n) hny]
    have hdx : f.decode x = .inf n := by rw [hn, decode_inf hf]
    rcases not_nan_cases hf hy hny with ⟨k, hyk, hdy⟩ | ⟨m, e, hdy⟩ <;> rw [hdx, hdy]
    · rw [hn, hyk]
      cases n <;> cases k <;> cases big <;> rfl
    · cases n <;> cases big <;> rfl
  · intro n hn hnx
    rw [minmax_of_not_nan hnx (hn ▸ hinf n)]
    have hdy : f.decode y = .inf n := by rw [hn, decode_inf hf]
    rcases not_nan_cases hf hx hnx with ⟨k, hxk, hdx⟩ | ⟨m, e, hdx⟩ <;> rw [hdx, hdy]
    · rw [hn, hxk]
      cases n <;> cases k <;> cases big <;> rfl
    · have hzero : (Fp.inf n).isZero = false := rfl
      rw [hzero, Bool.and_false]
      cases n <;> cases big <;> rfl

/-! ### FCMP (04 R131) -/

/-- The outcome of a comparison of two numbers. -/
theorem cmp_of_not_nan {f : Fmt} {c x y : Nat} {o : Ordering} (hx : nan f x = false) (hy : nan f y = false)
    (hlt : fpLt (f.decode x) (f.decode y) = (o == .lt)) (hgt : fpLt (f.decode y) (f.decode x) = (o == .gt)) (hc : c < 8) :
    (f.cmp c x y).1 = condHolds c o := by
  rw [nan] at hx hy
  simp only [Fmt.cmp, hx, hy, hlt, hgt, Bool.or_self, Bool.not_false, Bool.true_and]
  interval_cases c <;> cases o <;> rfl

theorem compareTable {f : Fmt} (hf : Proper f) : CompareTable f := by
  intro c hc x hx y hy
  have hnot_nan : ∀ {z q}, fpVal f z = some q → nan f z = false := fun h => by
    obtain ⟨m, e, hd, -⟩ := fin_of_fpVal h
    rw [nan, hd]; rfl
  have hinf : ∀ n, nan f (f.inf n) = false := fun n => by rw [nan, decode_inf hf]; rfl
  refine ⟨?_, fun hn => ?_, fun p q hp hq => ?_, fun n q hn hq => ?_, fun n p hn hp => ?_, fun m n hm hn => ?_⟩
  · have hquiet : (decide (c < 2) || decide (c ≥ 6)) = decide (c < 2 ∨ 6 ≤ c) := (Bool.decide_or ..).symm
    simp only [Fmt.cmp, hquiet, decide_eq_true_eq]
    rfl
  · have hor : ((f.decode x).isNan || (f.decode y).isNan) = true := Bool.or_eq_true_iff.2 hn
    simp only [Fmt.cmp, hor]
    interval_cases c <;> rfl
  · obtain ⟨m1, e1, hd1, hv1⟩ := fin_of_fpVal hp
    obtain ⟨m2, e2, hd2, hv2⟩ := fin_of_fpVal hq
    refine cmp_of_not_nan (hnot_nan hp) (hnot_nan hq) ?_ ?_ hc <;> rw [hd1, hd2, fpLt_fin, ← hv1, ← hv2]
    · rw [Bool.eq_iff_iff, decide_eq_true_eq, beq_iff_eq, compare_lt_iff_lt]
    · rw [Bool.eq_iff_iff, decide_eq_true_eq, beq_iff_eq, compare_gt_iff_gt]
  · obtain ⟨m, e, hd, -⟩ := fin_of_fpVal hq
    refine cmp_of_not_nan (hn ▸ hinf n) (hnot_nan hq) ?_ ?_ hc <;> rw [hn, decode_inf hf, hd] <;> cases n <;> rfl
  · obtain ⟨m, e, hd, -⟩ := fin_of_fpVal hp
    refine cmp_of_not_nan (hnot_nan hp) (hn ▸ hinf n) ?_ ?_ hc <;> rw [hn, decode_inf hf, hd] <;> cases n <;> rfl
  · refine cmp_of_not_nan (hm ▸ hinf m) (hn ▸ hinf n) ?_ ?_ hc <;> rw [hm, hn, decode_inf hf, decode_inf hf] <;> cases m <;> cases n <;> rfl

/-! ### The instructions -/

/-- The model runs an instruction on lanes as a function of the mode and two operands. -/
def RunsLanes2 (op : VecOp2) (f : Nat → Nat → Nat → Nat × Nat) : Prop := ∀ d a b p x s, exec (op d a b p x) s = State.lanes2 s d a b p x 4 f

theorem runsLanes2_of_mem : ∀ e ∈ floatLanes, RunsLanes2 e.1 e.2 := by
  simp only [floatLanes, List.forall_mem_cons, List.not_mem_nil, false_implies, implies_true, and_true]
  exact ⟨exec_faddF32, exec_fsubF32, exec_fmulF32, exec_fminF32, exec_fmaxF32⟩

/-- The model runs an instruction on elements as a function of the mode and two operands. -/
def RunsElems2 (op : VecOp2) (f : Nat → Nat → Nat → Nat × Nat) : Prop := ∀ d a b p x s, exec (op d a b p x) s = State.elems2 s d a b p x 6 f

theorem runsElems2_of_mem : ∀ e ∈ floatElems, RunsElems2 e.1 e.2 := by
  simp only [floatElems, List.forall_mem_cons, List.not_mem_nil, false_implies, implies_true, and_true]
  exact ⟨exec_faddF64, exec_fsubF64, exec_fmulF64, exec_fminF64, exec_fmaxF64⟩

/-- Settles O7: each word is its function on the active lanes or elements; the order of values decides FMIN and FMAX. -/
theorem floatOpsWriteActiveElements : Obligations.FloatOpsWriteActiveElements := by
  refine ⟨fun op f hmem s d a b p x h => ?_, fun op f hmem s d a b p x h => ?_, fun f hmem big => ?_⟩
  · obtain ⟨v, fl, hv, hrun⟩ := lanes2_gives (off := 4) (p := p) (f := f) (by decide) h
    refine ⟨v, fl, hv, ?_⟩
    rw [Runs, runsLanes2_of_mem (op, f) hmem]
    exact hrun
  · obtain ⟨v, fl, hv, hrun⟩ := elems2_gives (off := 6) (p := p) (f := f) (by decide) h
    refine ⟨v, fl, hv, ?_⟩
    rw [Runs, runsElems2_of_mem (op, f) hmem]
    exact hrun
  · simp only [List.mem_cons, List.not_mem_nil, or_false] at hmem
    rcases hmem with rfl | rfl
    · exact minMaxTable proper_f32 big
    · exact minMaxTable proper_f64 big

/-! ### Predicate bits from lanes and elements (04 R131, R135) -/

/-- The bit that a comparison writes for an active lane. -/
theorem getLsbD_laneBits (on : Nat → Bool) (g : Nat → Bool × Nat) {i : Nat} (hi : i < 16) (h : on i = true) :
    (BitVec.ofNat 16 (((List.range 16).map fun i => if on i = true then g i else (false, 0)).foldr (fun y n => b2n y.1 + 2 * n) 0)).getLsbD i =
      (g i).1 := by
  have hbit : ∀ j, b2n (if on j = true then g j else (false, 0)).1 < 2 := fun j => (by decide : ∀ b, b2n b < 2) _
  have hdigit := digit_foldr 2 (by decide) (fun j => b2n (if on j = true then g j else (false, 0)).1) hbit hi
  rw [List.foldr_map, BitVec.getLsbD_ofNat, decide_eq_true hi, Bool.true_and, Nat.testBit_eq_decide_div_mod_eq, hdigit, if_pos h]
  cases (g i).1 <;> rfl

/-- The two bits that a comparison writes for an active element. -/
theorem getLsbD_elemBits (on : Nat → Bool) (g : Nat → Bool × Nat) {j k : Nat} (hj : j < 8) (hk : k < 2) (h : on j = true) :
    (BitVec.ofNat 16 (((List.range 8).map fun j => if on j = true then g j else (false, 0)).foldr (fun y n => 3 * b2n y.1 + 4 * n) 0)).getLsbD
      (2 * j + k) = (g j).1 := by
  have hbit : ∀ j, 3 * b2n (if on j = true then g j else (false, 0)).1 < 4 := fun j => (by decide : ∀ b, 3 * b2n b < 4) _
  have hdigit := digit_foldr 4 (by decide) (fun j => 3 * b2n (if on j = true then g j else (false, 0)).1) hbit hj
  have hlt : 2 * j + k < 16 := by omega
  have hpow : (4 : Nat) ^ j = 2 ^ (2 * j) := (Nat.pow_mul 2 2 _).symm
  have hlow : ∀ N : Nat, N.testBit (2 * j + k) = (N / 4 ^ j % 4).testBit k := fun N => by
    rw [show (4 : Nat) = 2 ^ 2 from rfl, Nat.testBit_mod_two_pow, decide_eq_true hk, Bool.true_and, ← Nat.pow_mul, Nat.testBit_div_two_pow,
      Nat.add_comm]
  rw [List.foldr_map, BitVec.getLsbD_ofNat, decide_eq_true hlt, Bool.true_and, hlow, hdigit, if_pos h]
  interval_cases k <;> cases (g j).1 <;> rfl

section
variable {s : State} {k : BitVec 4} {a b : BitVec 7} {p : BitVec 4} {x : BitVec 1} {off : Nat} {f : Nat → Nat → Bool × Nat}

theorem cmpLanes_gives (ho : 1 ≤ off)
    (h : s.clear { ports := 2, vr := [named s.now a s.now.ib0 x, named s.now b s.now.ib1 x], pw := [k.toNat] } = true) :
    let g (i : Nat) := f (lane (readsVec s.now a s.now.ib0 x) i).toNat (lane (readsVec s.now b s.now.ib1 x) i).toNat
    ∃ v : BitVec 16, (∀ i < 16, (s.now.rp p).getLsbD i = true → v.getLsbD i = (g i).1) ∧
      ∃ t, s.cmpLanes k a b p x off f = .next t ∧
        s.Gives t (predRes k off (s.now.rp p) v) (orFlags 16 (fun i => (s.now.rp p).getLsbD i) fun i => (g i).2) := by
  intro g
  refine ⟨_, fun i hi hm => getLsbD_laneBits (fun i => (s.now.rp p).getLsbD i) g hi hm, ?_⟩
  rw [← foldl_eq_orFlags (fun i => (s.now.rp p).getLsbD i) g false 16]
  dsimp only [State.cmpLanes]
  rw [vaName_eq_named, vbName_eq_named]
  exact runSlot_predicate _ _ _ h ho

theorem cmpElems_gives (ho : 1 ≤ off)
    (h : s.clear { ports := 2, vr := [named s.now a s.now.ib0 x, named s.now b s.now.ib1 x], pw := [k.toNat] } = true) :
    let g (j : Nat) := f (elem (readsVec s.now a s.now.ib0 x) j).toNat (elem (readsVec s.now b s.now.ib1 x) j).toNat
    ∃ v : BitVec 16, (∀ j < 8, (s.now.rp p).getLsbD (2 * j) = true → v.getLsbD (2 * j) = (g j).1 ∧ v.getLsbD (2 * j + 1) = (g j).1) ∧
      ∃ t, s.cmpElems k a b p x off f = .next t ∧
        s.Gives t (predRes k off (pairMask (s.now.rp p)) v) (orFlags 8 (fun j => (s.now.rp p).getLsbD (2 * j)) fun j => (g j).2) := by
  intro g
  refine ⟨_, fun j hj hm => ⟨getLsbD_elemBits (k := 0) (fun j => (s.now.rp p).getLsbD (2 * j)) g hj (by decide) hm,
    getLsbD_elemBits (k := 1) (fun j => (s.now.rp p).getLsbD (2 * j)) g hj (by decide) hm⟩, ?_⟩
  rw [← foldl_eq_orFlags (fun j => (s.now.rp p).getLsbD (2 * j)) g false 8, ← elemMask_eq_pairMask]
  dsimp only [State.cmpElems]
  rw [vaName_eq_named, vbName_eq_named]
  exact runSlot_predicate _ _ _ h ho

end

/-- ICMP's outcome on two words. -/
def icmpBit (c : BitVec 3) (u v : Word) : Bool :=
  match c.toNat with
  | 0 => u == v
  | 1 => u != v
  | 2 => u.slt v
  | 3 => u.sle v
  | 4 => v.slt u
  | 5 => v.sle u
  | 6 => u.ult v
  | _ => u.ule v

theorem icmpBit_iff (c : BitVec 3) (u v : Word) : icmpBit c u v = true ↔ intCond c u v := by
  unfold icmpBit intCond
  generalize c.toNat = n
  match n with
  | 0 => exact beq_iff_eq.trans BitVec.toNat_inj.symm
  | 1 => exact bne_iff_ne.trans BitVec.toNat_inj.not.symm
  | 2 => exact BitVec.slt_iff_toInt_lt
  | 3 => exact BitVec.sle_iff_toInt_le
  | 4 => exact BitVec.slt_iff_toInt_lt
  | 5 => exact BitVec.sle_iff_toInt_le
  | 6 => exact BitVec.ult_iff_toNat_lt
  | _ + 7 => exact BitVec.ule_iff_toNat_le

theorem icmp_gives {s : State} {c : BitVec 3} {k : BitVec 4} {a b : BitVec 7} {p : BitVec 4} {x : BitVec 1}
    (h : s.clear { ports := 2, vr := [named s.now a s.now.ib0 x, named s.now b s.now.ib1 x], pw := [k.toNat] } = true) :
    ∃ v : BitVec 16, (∀ i < 16, (s.now.rp p).getLsbD i = true →
        (v.getLsbD i = true ↔ intCond c (lane (readsVec s.now a s.now.ib0 x) i) (lane (readsVec s.now b s.now.ib1 x) i))) ∧
      Runs (.icmp c k a b p x) s fun t => s.Gives t (predRes k 2 (s.now.rp p) v) 0 := by
  obtain ⟨v, hv, hrun⟩ := cmpLanes_gives (off := 2) (p := p) (f := fun y z => (icmpBit c (BitVec.ofNat 32 y) (BitVec.ofNat 32 z), 0)) (by decide) h
  rw [orFlags_zero] at hrun
  refine ⟨v, fun i hi hm => ?_, ?_⟩
  · rw [hv i hi hm]
    simp only [BitVec.ofNat_toNat, BitVec.setWidth_eq]
    exact icmpBit_iff ..
  · rw [Runs, exec_icmp]
    exact hrun

/-- Settles O9: each comparison is its table on the active lanes or elements. -/
theorem vectorComparesWriteActiveBits : Obligations.VectorComparesWriteActiveBits := by
  refine ⟨fun s c k a b p x h => ?_, fun s c k a b p x h => ?_, fun s c k a b p x h => icmp_gives h, fun f hmem => ?_⟩
  · dsimp only
    obtain ⟨v, hv, hrun⟩ := cmpLanes_gives (off := 4) (p := p) (f := Fmt.f32.cmp c.toNat) (by decide) h
    refine ⟨v, hv, ?_⟩
    rw [Runs, exec_fcmpF32]
    exact hrun
  · dsimp only
    obtain ⟨v, hv, hrun⟩ := cmpElems_gives (off := 6) (p := p) (f := Fmt.f64.cmp c.toNat) (by decide) h
    refine ⟨v, hv, ?_⟩
    rw [Runs, exec_fcmpF64]
    exact hrun
  · simp only [List.mem_cons, List.not_mem_nil, or_false] at hmem
    rcases hmem with rfl | rfl
    · exact compareTable proper_f32
    · exact compareTable proper_f64

end Sys2Proof.Proofs

/-! Conversions between formats, and from and to integers (03 R69, R77; 04 R133). -/

namespace Sys2Proof.Proofs

open Sys2Proof Sys2Proof.Machine Sys2Proof.Rules

/-! ### Values that a format holds -/

/-- Every significand at an exponent that is not too low has a code. -/
theorem exists_code {f : Fmt} {q : Int} {t : Nat} (ht : t < 2 ^ (f.fb + 1)) (hq : f.emin - f.fb ≤ q) (K : Type) [Field K] [LinearOrder K]
    [IsStrictOrderedRing K] : ∃ c, mag K f c = (t : K) * (2 : K) ^ q := by
  by_cases h0 : t = 0
  · exact ⟨0, by rw [mag_zero, h0, Nat.cast_zero, zero_mul]⟩
  · -- as many places to the left as the fraction and the lowest exponent admit
    let j := min (f.fb - Nat.log2 t) (q - (f.emin - f.fb)).toNat
    have hlog : Nat.log2 t ≤ f.fb := Nat.lt_succ_iff.1 ((Nat.log2_lt h0).2 ht)
    have hlt : t < 2 ^ (Nat.log2 t + 1) := Nat.lt_log2_self
    have hle : 2 ^ Nat.log2 t ≤ t := Nat.log2_self_le h0
    have hj : j ≤ f.fb - Nat.log2 t := min_le_left _ _
    have hj' : j ≤ (q - (f.emin - f.fb)).toNat := min_le_right _ _
    have hfit : Fits f (q - j) (t * 2 ^ j) := by
      refine ⟨by omega, ?_, fun hsmall => ?_⟩
      · calc t * 2 ^ j < 2 ^ (Nat.log2 t + 1) * 2 ^ j := Nat.mul_lt_mul_of_pos_right hlt (Nat.two_pow_pos _)
          _ = 2 ^ (Nat.log2 t + 1 + j) := (Nat.pow_add ..).symm
          _ ≤ 2 ^ (f.fb + 1) := Nat.pow_le_pow_right (by decide) (by omega)
      · have hne : j ≠ f.fb - Nat.log2 t := fun he => by
          have : 2 ^ f.fb ≤ t * 2 ^ j := by
            calc 2 ^ f.fb = 2 ^ Nat.log2 t * 2 ^ j := by rw [← Nat.pow_add]; congr 1; omega
              _ ≤ t * 2 ^ j := Nat.mul_le_mul_right _ hle
          omega
        omega
    refine ⟨codeOf f (q - j) (t * 2 ^ j), ?_⟩
    have hsplit : (2 : K) ^ q = ((2 ^ j : Nat) : K) * (2 : K) ^ (q - j) := by
      rw [← zpow_split]
      congr 1
      omega
    rw [mag_codeOf K hfit, hsplit]
    push_cast
    ring

section
variable {K : Type} [Field K] [LinearOrder K] [IsStrictOrderedRing K] {f : Fmt} (hf : Proper f)
include hf

/-- A value that the format holds is rounded to itself, without a flag. -/
theorem round_exact (rm : Nat) (neg : Bool) {stick : Bool} {m : Nat} {e : Int} {v : K} {d : Nat} (h : Given f stick m e v)
    (hd : mag K f d = v) (hlim : d < limit f) : f.round rm neg m e stick = (f.zero neg + d, 0) := by
  obtain ⟨c, n, nx, tiny, hc⟩ := roundsCode_round f hf rm neg h
  have hmono := mag_strictMono K f
  have hcd : c = d := by
    have h1 : c ≤ d := hmono.le_iff_le.1 (hc.low.trans hd.ge)
    have h2 : d < c + 1 := hmono.lt_iff_lt.1 (hd.trans_lt hc.high)
    omega
  subst hcd
  have hnx : nx = false := Bool.eq_false_iff.2 fun hc' => hc.exact.1 hc' hd
  have hn : n = c := hc.down fun hc' => absurd hc' (by rw [hnx]; exact Bool.false_ne_true)
  rw [hn] at hc
  rw [hc.fits hlim, hnx]
  rfl

end

theorem fpVal_zero {f : Fmt} (hf : Proper f) (neg : Bool) : fpVal f (f.zero neg) = some 0 := by
  have h1 := one_lt_limit hf
  have h := fpVal_code hf neg (c := 0) (by omega)
  rw [mag_zero] at h
  exact h.trans (by cases neg <;> simp [signedBy])

/-- A finite value that the format holds, converted, is itself. -/
theorem ofFin_exact {f : Fmt} (hf : Proper f) (rm : Nat) (neg : Bool) {t : Nat} {q : Int} (ht : t < 2 ^ (f.fb + 1)) (hq : f.emin - f.fb ≤ q)
    (hlim : (t : ℚ) * 2 ^ q < 2 ^ ((f.bias : Int) + 1)) : fpVal f (f.ofFin rm neg t q).1 = some (finVal neg t q) ∧ (f.ofFin rm neg t q).2 = 0 := by
  by_cases h0 : t = 0
  · rw [Fmt.ofFin, if_pos h0, finVal_eq_zero_iff.2 h0]
    exact ⟨fpVal_zero hf neg, rfl⟩
  · obtain ⟨c, hc⟩ := exists_code ht hq ℚ
    have hclim : c < limit f := by
      rw [← hc, ← mag_limit hf] at hlim
      exact (mag_strictMono ℚ f).lt_iff_lt.1 hlim
    rw [Fmt.ofFin, if_neg h0, round_exact hf rm neg (stick := false) ⟨h0, rfl⟩ hc hclim]
    exact ⟨by rw [fpVal_code hf neg hclim, hc]; rfl, rfl⟩

/-! ### Conversions between formats -/

theorem convertTable {f g : Fmt} (hf : Proper f) (hg : Proper g) : ConvertTable f g := by
  intro rm hrm x hx
  refine ⟨fun hn => ?_, fun n hn => ?_, fun p hp => ?_⟩
  · rw [nan] at hn
    unfold Fmt.conv snan
    cases hd : f.decode x with
    | nan s => rfl
    | inf n => rw [hd] at hn; cases hn
    | fin n m e => rw [hd] at hn; cases hn
  · rw [hn, Fmt.conv, decode_inf hf]
  · obtain ⟨m, e, hd, rfl⟩ := fin_of_fpVal hp
    have hconv : f.conv g rm x = g.ofFin rm (minus f x) m e := by rw [Fmt.conv, hd]
    rw [hconv]
    exact ⟨fun h0 => by rw [Fmt.ofFin, if_pos (finVal_eq_zero_iff.1 h0)], roundedTo_ofFin hg hrm⟩

/-! ### Conversions from and to integers -/

theorem fromIntegerTable {f : Fmt} (hf : Proper f) : FromIntegerTable f := by
  intro rm hrm i _
  refine ⟨rfl, fun h => ?_⟩
  have hfrom : f.fromInt rm i = f.ofInt rm i 0 := by rw [Fmt.fromInt, if_neg h, Fmt.ofInt, if_neg h]
  have hval : (i : ℚ) = (i : ℚ) * 2 ^ (0 : Int) := by rw [zpow_zero, mul_one]
  rw [hfrom, hval]
  exact roundedTo_ofInt hf hrm h

section
variable {rm : Nat} {neg : Bool} {v : ℚ} {t n : Nat} {nx : Bool} (h : RoundsTo rm neg 1 v t n nx)
include h

theorem RoundsTo.floor_eq : ⌊v⌋ = (t : Int) := by
  have hlow := h.low
  have hhigh := h.high
  rw [mul_one] at hlow hhigh
  rw [Int.floor_eq_iff]
  push_cast at hhigh ⊢
  exact ⟨hlow, hhigh⟩

theorem RoundsTo.nat_of_exact (hnx : nx = false) : (t : ℚ) = v := by
  by_contra hne
  have := h.exact.2 (by rwa [mul_one])
  rw [hnx] at this
  cases this

/-- Away from zero: the next integer, or the number itself. -/
theorem RoundsTo.ceil_eq (hU : ∀ odd lo hi, Up rm neg odd lo hi v) : ⌈v⌉ = (n : Int) := by
  have hlow := h.low
  have hhigh := h.high
  rw [mul_one] at hlow hhigh
  cases hnx : nx with
  | false =>
    have hn : n = t := h.down fun hc => by rw [hnx] at hc; cases hc
    rw [hn, ← h.nat_of_exact hnx, Int.ceil_natCast]
  | true =>
    have hne := h.exact.1 hnx
    rw [mul_one] at hne
    rw [h.up hnx (hU ..), Int.ceil_eq_iff]
    push_cast at hhigh ⊢
    exact ⟨by linarith [lt_of_le_of_ne hlow hne], hhigh.le⟩

theorem RoundsTo.eq_of_inward (hU : ∀ odd lo hi, ¬ Up rm neg odd lo hi v) : n = t := h.down fun _ => hU _ _ _

end

/-- To the nearest integer, ties to even. -/
theorem RoundsTo.nearest {neg : Bool} {v : ℚ} {t n : Nat} {nx : Bool} (h : RoundsTo 0 neg 1 v t n nx) :
    |(n : ℚ) - v| ≤ 1 / 2 ∧ (|(n : ℚ) - v| = 1 / 2 → n % 2 = 0) := by
  have hlow := h.low
  have hhigh := h.high
  rw [mul_one] at hlow hhigh
  push_cast at hhigh
  by_cases hup : nx = true ∧ Up 0 neg (t % 2 == 1) ((t : ℚ) * 1) (((t + 1 : Nat) : ℚ) * 1) v
  · obtain ⟨hnx, hU⟩ := hup
    rw [h.up hnx hU]
    have hU' : (t : ℚ) * 1 + ((t + 1 : Nat) : ℚ) * 1 < 2 * v ∨ (t : ℚ) * 1 + ((t + 1 : Nat) : ℚ) * 1 = 2 * v ∧ (t % 2 == 1) = true := hU
    push_cast at hU' ⊢
    rw [abs_of_nonneg (by linarith)]
    rcases hU' with hlt | ⟨heq, hodd⟩
    · exact ⟨by linarith, fun he => by linarith⟩
    · rw [beq_iff_eq] at hodd
      exact ⟨by linarith, fun _ => by omega⟩
  · rw [h.down fun hnx hU => hup ⟨hnx, hU⟩, abs_of_nonpos (by linarith)]
    cases hnx : nx with
    | false =>
      have := h.nat_of_exact hnx
      exact ⟨by linarith, fun he => by linarith⟩
    | true =>
      have hU' : ¬ ((t : ℚ) * 1 + ((t + 1 : Nat) : ℚ) * 1 < 2 * v ∨
        (t : ℚ) * 1 + ((t + 1 : Nat) : ℚ) * 1 = 2 * v ∧ (t % 2 == 1) = true) := fun hc => hup ⟨hnx, hc⟩
      rw [not_or, not_and, beq_iff_eq, not_lt] at hU'
      push_cast at hU'
      exact ⟨by linarith, fun he => by have := hU'.2 (by linarith); omega⟩

theorem sgnInt_cast (neg : Bool) (n : Nat) : ((sgnInt neg n : Int) : ℚ) = signedBy neg n := by
  cases neg <;> simp [sgnInt, signedBy]

/-- A magnitude rounded to an integer is, with its sign, an integer to which its number is rounded. -/
theorem integerOf_of_roundsTo {rm : Nat} (hrm : rm < 4) {neg : Bool} {v : ℚ} {t n : Nat} {nx : Bool} (h0 : 0 ≤ v)
    (h : RoundsTo rm neg 1 v t n nx) : IntegerOf rm (signedBy neg v) (sgnInt neg n) := by
  match rm, hrm with
  | 0, _ =>
    obtain ⟨hle, htie⟩ := h.nearest
    have habs : |((sgnInt neg n : Int) : ℚ) - signedBy neg v| = |(n : ℚ) - v| := by rw [sgnInt_cast, abs_signedBy_sub, signedBy_signedBy]
    have hmod : n % 2 = 0 → sgnInt neg n % 2 = 0 := fun hn => by cases neg <;> simp only [sgnInt, if_true, Bool.false_eq_true, if_false] <;> omega
    exact ⟨habs.trans_le hle, fun he => hmod (htie (habs.symm.trans he))⟩
  | 1, _ =>
    have hn := h.eq_of_inward fun _ _ _ => id
    have hfl := h.floor_eq
    show sgnInt neg n = if 0 ≤ signedBy neg v then ⌊signedBy neg v⌋ else ⌈signedBy neg v⌉
    cases neg with
    | false => exact (if_pos h0).trans hfl |>.trans (by rw [hn]; rfl) |>.symm
    | true =>
      show -(n : Int) = if 0 ≤ -v then ⌊-v⌋ else ⌈-v⌉
      split
      · have hv : v = 0 := by linarith
        rw [hv, Int.floor_zero] at hfl
        rw [hv, neg_zero, Int.floor_zero, hn, ← hfl, neg_zero]
      · rw [Int.ceil_neg, hfl, hn]
  | 2, _ =>
    cases neg with
    | false => exact (h.ceil_eq fun _ _ _ => rfl).symm
    | true =>
      show -(n : Int) = ⌈-v⌉
      rw [Int.ceil_neg, h.floor_eq, h.eq_of_inward fun _ _ _ => Bool.true_eq_false_eq_False.elim]
  | 3, _ =>
    cases neg with
    | false =>
      show (n : Int) = ⌊v⌋
      rw [h.floor_eq, h.eq_of_inward fun _ _ _ => Bool.false_ne_true]
    | true =>
      show -(n : Int) = ⌊-v⌋
      rw [Int.floor_neg, h.ceil_eq fun _ _ _ => rfl]

theorem integerOf_self {rm : Nat} (hrm : rm < 4) (i : Int) : IntegerOf rm (i : ℚ) i := by
  match rm, hrm with
  | 0, _ => exact ⟨by rw [sub_self, abs_zero]; norm_num, fun he => by rw [sub_self, abs_zero] at he; norm_num at he⟩
  | 1, _ => show i = if (0 : ℚ) ≤ i then ⌊(i : ℚ)⌋ else ⌈(i : ℚ)⌉; rw [Int.floor_intCast, Int.ceil_intCast, ite_self]
  | 2, _ => exact (Int.ceil_intCast i).symm
  | 3, _ => exact (Int.floor_intCast i).symm

theorem RoundsTo.inexact_iff {rm : Nat} {neg : Bool} {v : ℚ} {t n : Nat} {nx : Bool} (h : RoundsTo rm neg 1 v t n nx) :
    nx = true ↔ ((sgnInt neg n : Int) : ℚ) ≠ signedBy neg v := by
  have hhigh := h.high
  have hexact := h.exact
  rw [mul_one] at hexact hhigh
  rw [sgnInt_cast, Ne, signedBy_inj, ← Ne]
  by_cases hup : nx = true ∧ Up rm neg (t % 2 == 1) ((t : ℚ) * 1) (((t + 1 : Nat) : ℚ) * 1) v
  · rw [h.up hup.1 hup.2]
    exact ⟨fun _ => hhigh.ne', fun _ => hup.1⟩
  · rw [h.down fun hnx hU => hup ⟨hnx, hU⟩]
    exact hexact

/-- A finite number rounded to an integer under a mode, and whether that is another number. -/
theorem finToInt_spec {rm : Nat} (hrm : rm < 4) (neg : Bool) (m : Nat) (e : Int) :
    IntegerOf rm (finVal neg m e) (finToInt rm neg m e).1 ∧ ((finToInt rm neg m e).2 = true ↔ ((finToInt rm neg m e).1 : ℚ) ≠ finVal neg m e) := by
  by_cases he : 0 ≤ e
  · -- an integer as it stands
    have hval : finVal neg m e = ((sgnInt neg (m * 2 ^ e.toNat) : Int) : ℚ) := by
      have hpow : (2 : ℚ) ^ e = 2 ^ e.toNat := by rw [← zpow_natCast, Int.toNat_of_nonneg he]
      rw [sgnInt_cast, finVal, hpow]
      push_cast
      rfl
    have hfin : finToInt rm neg m e = (sgnInt neg (m * 2 ^ e.toNat), (roundAt rm neg m e (max e 0)).2 && decide (e < 0)) := by
      simp only [finToInt, if_pos he]
    rw [hfin, hval]
    refine ⟨integerOf_self hrm _, ?_⟩
    rw [decide_eq_false (not_lt.2 he), Bool.and_false]
    simp
  · have hneg : e < 0 := not_le.1 he
    obtain ⟨t, hround⟩ := roundsTo_roundAt (K := ℚ) rm neg (stick := false) (q := 0) (show Approx false m ((2 : ℚ) ^ e) _ from rfl)
      (fun hc => by cases hc)
    rw [zpow_zero] at hround
    have hfin : finToInt rm neg m e = (sgnInt neg (roundAt rm neg m e 0).1, (roundAt rm neg m e 0).2) := by
      simp only [finToInt, if_neg he, max_eq_right hneg.le, decide_eq_true hneg, Bool.and_true]
    rw [hfin]
    exact ⟨integerOf_of_roundsTo hrm (mul_nonneg (Nat.cast_nonneg m) (zpow_nonneg zero_le_two _)) hround, hround.inexact_iff⟩

theorem satInt_snd {w : Nat} (hw : 2 ≤ w) (x : Int) : (satInt w x).2 = decide (saturated w x ≠ x) := by
  have hpos : (2 : Int) ≤ 2 ^ (w - 1) := by
    have := Nat.pow_le_pow_right (n := 2) (by decide) (show 1 ≤ w - 1 by omega)
    exact_mod_cast this
  rw [eq_comm, Bool.eq_iff_iff, decide_eq_true_eq]
  unfold satInt saturated
  push_cast
  split
  · exact iff_of_true (by omega) rfl
  · split
    · exact iff_of_true (by omega) rfl
    · exact iff_of_false (by omega) Bool.false_ne_true

theorem toIntegerTable {f : Fmt} (hf : Proper f) {w : Nat} (hw : 2 ≤ w) : ToIntegerTable f w := by
  intro rm hrm x hx
  refine ⟨fun hn => ?_, fun n hn => ?_, fun p hp => ?_⟩
  · rw [nan] at hn
    unfold Fmt.toInt
    cases hd : f.decode x with
    | nan s => rfl
    | inf n => rw [hd] at hn; cases hn
    | fin n m e => rw [hd] at hn; cases hn
  · rw [hn, Fmt.toInt, decode_inf hf]
    cases n <;> simp
  · obtain ⟨m, e, hd, rfl⟩ := fin_of_fpVal hp
    obtain ⟨hint, hnx⟩ := finToInt_spec hrm (minus f x) m e
    have hto : f.toInt w rm x = ((satInt w (finToInt rm (minus f x) m e).1).1,
        if (satInt w (finToInt rm (minus f x) m e).1).2 then 16 else if (finToInt rm (minus f x) m e).2 then 1 else 0) := by
      rw [Fmt.toInt, hd]
    rw [hto]
    refine ⟨_, hint, satInt_eq_saturated hw _, ?_⟩
    dsimp only
    simp only [satInt_snd hw, decide_eq_true_eq, hnx]

end Sys2Proof.Proofs

/-! Square roots: the integer square root, and a root rounded once by its square (04 R132). -/

namespace Sys2Proof.Proofs

open Sys2Proof Sys2Proof.Machine Sys2Proof.Rules

/-! ### The integer square root -/

/-- A step of the descent from above the root stays above it, and at least halves the distance. -/
theorem newton_step {n x : Nat} (hx : Nat.sqrt n < x) : Nat.sqrt n ≤ (x + n / x) / 2 ∧ (x + n / x) / 2 ≤ (x + Nat.sqrt n) / 2 := by
  have hlt : n < (Nat.sqrt n + 1) * (Nat.sqrt n + 1) := Nat.lt_succ_sqrt n
  have hle : Nat.sqrt n * Nat.sqrt n ≤ n := Nat.sqrt_le n
  generalize Nat.sqrt n = r at hx hlt hle ⊢
  have hx0 : 0 < x := by omega
  have hdiv : n / x ≤ r := by
    rw [← Nat.lt_succ_iff, Nat.div_lt_iff_lt_mul hx0]
    exact hlt.trans_le (Nat.mul_le_mul_left _ hx)
  refine ⟨?_, Nat.div_le_div_right (by omega)⟩
  have hlow : 2 * r - x ≤ n / x := by
    rw [Nat.le_div_iff_mul_le hx0]
    rcases Nat.le_total (2 * r) x with h | h
    · rw [Nat.sub_eq_zero_of_le h, Nat.zero_mul]
      exact Nat.zero_le _
    · obtain ⟨y, hy⟩ := Nat.exists_eq_add_of_le h
      have : 2 * r - x = y := by omega
      rw [this]
      -- y (2 r - y) ≤ r²
      have hxy : x * y + x * y ≤ r * r + r * r := by nlinarith [sq_nonneg ((x : ℤ) - y)]
      nlinarith
  omega

theorem isqrtFrom_eq_sqrt (n : Nat) : ∀ k x, Nat.sqrt n ≤ x → x < Nat.sqrt n + 2 ^ k → isqrtFrom n k x = Nat.sqrt n := by
  intro k
  induction k with
  | zero =>
    intro x h1 h2
    rw [isqrtFrom]
    omega
  | succ k ih =>
    intro x h1 h2
    rw [isqrtFrom]
    rcases Nat.eq_or_lt_of_le h1 with heq | hlt
    · have hge : x ≤ (x + n / x) / 2 := by
        rcases Nat.eq_zero_or_pos x with h0 | hpos
        · rw [h0]; exact Nat.zero_le _
        · have : x ≤ n / x := by rw [Nat.le_div_iff_mul_le hpos, ← heq]; exact Nat.sqrt_le n
          omega
      rw [if_neg (Nat.not_lt.2 hge), heq]
    · obtain ⟨hlo, hhi⟩ := newton_step hlt
      rw [if_pos (by omega)]
      refine ih _ hlo ?_
      rw [Nat.pow_succ] at h2
      omega

theorem isqrt_eq_sqrt (n : Nat) : isqrt n = Nat.sqrt n := by
  rw [isqrt]
  by_cases h0 : n = 0
  · rw [if_pos h0, h0, Nat.sqrt_zero]
  · rw [if_neg h0]
    have hstart : Nat.sqrt n < 2 ^ (Nat.log2 n / 2 + 1) := by
      rw [Nat.sqrt_lt', ← Nat.pow_mul]
      exact (Nat.lt_log2_self).trans_le (Nat.pow_le_pow_right (by decide) (by omega))
    refine isqrtFrom_eq_sqrt n _ _ hstart.le ?_
    have : 2 ^ (Nat.log2 n / 2 + 1) < 2 ^ (Nat.log2 n + 2) := Nat.pow_lt_pow_right (by decide) (by omega)
    omega

/-! ### Roots of rational numbers -/

/-- An integer next to a root, and whether that was cut off, give the root of a number times a power of four. -/
theorem given_root {V : ℝ} {r : Nat} {st : Bool} (hr : 2 ^ 24 ≤ r) (hlo : ((r : ℝ)) ^ 2 ≤ V) (hhi : V < ((r : ℝ) + 1) ^ 2)
    (hst : st = true ↔ ((r : ℝ)) ^ 2 ≠ V) (q : Int) : Given .f32 st r q (√(V * ((2 : ℝ) ^ q) ^ 2)) := by
  have hp : (0 : ℝ) < 2 ^ q := zpow_pos two_pos _
  have hV : 0 ≤ V := (sq_nonneg _).trans hlo
  have hr0 : (0 : ℝ) ≤ r := Nat.cast_nonneg r
  have h1 : (r : ℝ) ≤ √V := Real.le_sqrt_of_sq_le hlo
  have h2 : √V < (r : ℝ) + 1 := (Real.sqrt_lt' (by linarith)).2 hhi
  rw [Real.sqrt_mul hV, Real.sqrt_sq hp.le]
  refine ⟨by have : 0 < 2 ^ 24 := Nat.two_pow_pos _; omega, ?_⟩
  cases st with
  | false =>
    have heq : ((r : ℝ)) ^ 2 = V := by
      by_contra hne
      exact Bool.false_ne_true (hst.2 hne)
    show √V * 2 ^ q = r * 2 ^ q
    rw [← heq, Real.sqrt_sq hr0]
  | true =>
    have hne : (r : ℝ) ≠ √V := fun he => hst.1 rfl (by rw [he, Real.sq_sqrt hV])
    exact ⟨hr, mul_lt_mul_of_pos_right (lt_of_le_of_ne h1 hne) hp, mul_lt_mul_of_pos_right h2 hp⟩

theorem le_sq_iff {v x : ℚ} (hx : 0 ≤ x) : v ≤ x ^ 2 ↔ √(v : ℝ) ≤ (x : ℝ) := by
  have hx' : (0 : ℝ) ≤ x := by exact_mod_cast hx
  rw [Real.sqrt_le_left hx']
  exact_mod_cast Iff.rfl

theorem sq_le_iff {v x : ℚ} (hv : 0 ≤ v) (hx : 0 ≤ x) : x ^ 2 ≤ v ↔ (x : ℝ) ≤ √(v : ℝ) := by
  have hx' : (0 : ℝ) ≤ x := by exact_mod_cast hx
  have hv' : (0 : ℝ) ≤ v := by exact_mod_cast hv
  rw [Real.le_sqrt hx' hv']
  exact_mod_cast Iff.rfl

theorem Val.code_of_nonneg {f : Fmt} {q : ℚ} (h : Val f q) (h0 : 0 ≤ q) : ∃ d, q = mag ℚ f d := by
  obtain ⟨s, d, -, rfl⟩ := h
  cases s with
  | false => exact ⟨d, rfl⟩
  | true =>
    have hd := mag_nonneg ℚ f d
    have h0 : 0 ≤ -mag ℚ f d := h0
    refine ⟨0, ?_⟩
    rw [mag_zero]
    show -mag ℚ f d = 0
    linarith

section
variable {K : Type} [Field K] [LinearOrder K] [IsStrictOrderedRing K] {f : Fmt} {neg : Bool} {x : K} {c n : Nat} {nx tiny : Bool}
  {r : Nat × Nat}

/-- To the nearest: the half of the gap decides. -/
theorem RoundsCode.below_or_above_half (h : RoundsCode f 0 neg x c n nx tiny r) :
    (n = c ∧ 2 * x ≤ mag K f c + mag K f (c + 1)) ∨ (n = c + 1 ∧ mag K f c + mag K f (c + 1) ≤ 2 * x) := by
  rcases h.below_or_above with ⟨hn, hnot⟩ | ⟨hn, -, hU⟩
  · refine .inl ⟨hn, ?_⟩
    cases hx : nx with
    | false =>
      have heq := h.eq_of_exact hx
      have hlt : mag K f c < mag K f (c + 1) := mag_strictMono K f (Nat.lt_succ_self c)
      linarith
    | true => exact not_lt.1 fun hc => hnot hx (.inl hc)
  · exact .inr ⟨hn, (show _ ∨ _ from hU).elim le_of_lt fun he => he.1.le⟩

/-- Away from zero: the least code that is no less. -/
theorem RoundsCode.outward_code {rm : Nat} (h : RoundsCode f rm neg x c n nx tiny r)
    (hU : Up rm neg (c % 2 == 1) (mag K f c) (mag K f (c + 1)) x) {d : Nat} : x ≤ mag K f n ∧ (x ≤ mag K f d → n ≤ d) := by
  have hmono := mag_strictMono K f
  rcases h.below_or_above with ⟨hn, hnot⟩ | ⟨hn, hnx, -⟩ <;> subst hn
  · have heq := h.eq_of_exact (Bool.eq_false_iff.2 fun hnx => hnot hnx hU)
    exact ⟨heq.ge, fun hd => hmono.le_iff_le.1 (heq.trans_le hd)⟩
  · exact ⟨h.high.le, fun hd => hmono.lt_iff_lt.1 ((h.low_lt hnx).trans_le hd)⟩

end

/-- A root that is given, well within the normal range, is rounded once. -/
theorem rootRounded_round {v : ℚ} (hlo : (2 : ℚ) ^ (-252 : Int) ≤ v) (hhi : v < (2 : ℚ) ^ (252 : Int)) {rm : Nat} (hrm : rm < 4) {st : Bool}
    {m : Nat} {e : Int} (h : Given .f32 st m e (√(v : ℝ))) : RootRounded v rm (Fmt.f32.round rm false m e st) := by
  have hf := proper_f32
  have hmono := mag_strictMono ℝ Fmt.f32
  obtain ⟨c, n, nx, tiny, hc⟩ := roundsCode_round Fmt.f32 hf rm false h
  have hvq : 0 ≤ v := (zpow_nonneg zero_le_two _).trans hlo
  have hroot_lo : (2 : ℝ) ^ (-126 : Int) ≤ √(v : ℝ) := by
    have : ((2 ^ (-126 : Int) : ℚ) : ℝ) ≤ √(v : ℝ) := (sq_le_iff hvq (zpow_nonneg zero_le_two _)).1 (by rw [← zpow_natCast, ← zpow_mul]; exact hlo)
    rwa [Rat.cast_zpow, Rat.cast_ofNat] at this
  have hroot_hi : √(v : ℝ) < (2 : ℝ) ^ (126 : Int) := by
    have : ¬ ((2 ^ (126 : Int) : ℚ) : ℝ) ≤ √(v : ℝ) := fun hcon => by
      have := (sq_le_iff hvq (zpow_nonneg zero_le_two _)).2 hcon
      rw [← zpow_natCast, ← zpow_mul] at this
      exact absurd hhi (not_lt.2 this)
    rw [Rat.cast_zpow, Rat.cast_ofNat] at this
    exact not_le.1 this
  have hsmall : c < limit .f32 - 1 := by
    have hlast := (mag_last hf ℝ).1
    refine hmono.lt_iff_lt.1 (hc.low.trans_lt (hroot_hi.trans ?_))
    rw [hlast]
    norm_num [Fmt.f32, Fmt.bias]
  have hn : n < limit .f32 := by rcases hc.below_or_above with ⟨rfl, -⟩ | ⟨rfl, -, -⟩ <;> omega
  have hpos : 0 < n := by
    have h1 : mag ℝ Fmt.f32 1 < mag ℝ Fmt.f32 (c + 1) := by
      refine lt_of_lt_of_le ?_ (hroot_lo.trans hc.high.le)
      norm_num [mag, sigOf, expOf, Fmt.f32, Fmt.bias]
    have := hmono.lt_iff_lt.1 h1
    rcases hc.below_or_above with ⟨rfl, -⟩ | ⟨rfl, -, -⟩ <;> omega
  have hp : 0 < mag ℚ Fmt.f32 n := by rw [← mag_zero ℚ Fmt.f32]; exact mag_strictMono ℚ Fmt.f32 hpos
  have hcast : ∀ d, ((mag ℚ Fmt.f32 d : ℚ) : ℝ) = mag ℝ Fmt.f32 d := mag_cast ℝ Fmt.f32
  have hv0 : (0 : ℝ) ≤ v := by exact_mod_cast hvq
  have hexact : nx = false ↔ mag ℚ Fmt.f32 n * mag ℚ Fmt.f32 n = v := by
    rw [← Bool.not_eq_true, hc.inexact_iff, not_not, ← hcast, eq_comm, Real.sqrt_eq_iff_mul_self_eq hv0 (by exact_mod_cast hp.le)]
    exact_mod_cast eq_comm
  have hflag : (Fmt.f32.round rm false m e st).2 = if mag ℚ Fmt.f32 n * mag ℚ Fmt.f32 n = v then 0 else 1 := by
    rw [hc.fits hn, hc.range hroot_lo]
    by_cases heq : mag ℚ Fmt.f32 n * mag ℚ Fmt.f32 n = v
    · rw [if_pos heq, hexact.2 heq]; rfl
    · have : nx = true := by
        cases hx : nx with
        | false => exact absurd (hexact.1 hx) heq
        | true => rfl
      rw [if_neg heq, this]; rfl
  refine ⟨mag ℚ Fmt.f32 n, ?_, hp, hflag, fun y _ q hq h0 => ?_⟩
  · rw [hc.fits hn]
    exact fpVal_code hf false hn
  obtain ⟨d, rfl⟩ := (show Val .f32 q from code_of_fpVal hf hq).code_of_nonneg h0
  have hlow := hc.low
  have hhigh := hc.high
  have hd0 := mag_nonneg ℚ Fmt.f32 d
  have hmid : (((mag ℚ Fmt.f32 n + mag ℚ Fmt.f32 d) / 2 : ℚ) : ℝ) = (mag ℝ Fmt.f32 n + mag ℝ Fmt.f32 d) / 2 := by push_cast; rw [hcast, hcast]
  have hmid0 : 0 ≤ (mag ℚ Fmt.f32 n + mag ℚ Fmt.f32 d) / 2 := by linarith
  have hlt : ∀ {i j}, mag ℚ Fmt.f32 i < mag ℚ Fmt.f32 j ↔ i < j := (mag_strictMono ℚ Fmt.f32).lt_iff_lt
  have hle : ∀ {i j}, mag ℚ Fmt.f32 i ≤ mag ℚ Fmt.f32 j ↔ i ≤ j := (mag_strictMono ℚ Fmt.f32).le_iff_le
  have hleR : ∀ {i j}, i ≤ j → mag ℝ Fmt.f32 i ≤ mag ℝ Fmt.f32 j := fun h => hmono.monotone h
  have hdown : n = c → mag ℚ Fmt.f32 n * mag ℚ Fmt.f32 n ≤ v ∧ (mag ℚ Fmt.f32 d * mag ℚ Fmt.f32 d ≤ v → mag ℚ Fmt.f32 d ≤ mag ℚ Fmt.f32 n) := by
    rintro rfl
    rw [← pow_two, ← pow_two, sq_le_iff hvq hp.le, sq_le_iff hvq hd0, hcast, hcast, hle]
    exact ⟨hlow, fun h1 => Nat.lt_succ_iff.1 (hmono.lt_iff_lt.1 (h1.trans_lt hhigh))⟩
  match rm, hrm with
  | 0, _ =>
    rw [hlt, hlt, le_sq_iff hmid0, sq_le_iff hvq hmid0, hmid]
    rcases hc.below_or_above_half with ⟨hnc, hhalf⟩ | ⟨hnc, hhalf⟩ <;> subst hnc
    · exact ⟨fun h1 => by have := hleR h1; linarith, fun h1 => by have := hleR h1.le; linarith⟩
    · exact ⟨fun h1 => by have := hleR h1.le; linarith, fun h1 => by have := hleR (Nat.lt_succ_iff.1 h1); linarith⟩
  | 1, _ => exact hdown (hc.down fun _ => id)
  | 2, _ =>
    rw [← pow_two, ← pow_two, le_sq_iff hp.le, le_sq_iff hd0, hcast, hcast, hle]
    exact hc.outward_code rfl
  | 3, _ => exact hdown (hc.down fun _ => Bool.false_ne_true)

end Sys2Proof.Proofs

/-! FUN.f32 and the conversions, by their tables (04 R132, R133). -/

namespace Sys2Proof.Proofs

open Sys2Proof Sys2Proof.Machine Sys2Proof.Rules

/-! ### Operands -/

theorem decode_of_nan {f : Fmt} {x : Nat} (h : nan f x = true) : f.decode x = .nan (snan f x) := by
  rw [nan] at h
  rw [snan]
  cases hd : f.decode x with
  | nan g => rfl
  | inf n => rw [hd] at h; cases h
  | fin n m e => rw [hd] at h; cases h

/-- The bounds of a finite operand's significand and exponent. -/
theorem fin_bounds {f : Fmt} (hf : Proper f) {x m : Nat} {n : Bool} {e : Int} (h : f.decode x = .fin n m e) :
    m < 2 ^ (f.fb + 1) ∧ f.emin - f.fb ≤ e := by
  rw [decode_eq hf] at h
  dsimp only at h
  split at h
  · obtain ⟨-, rfl, rfl⟩ := Fp.fin.inj h
    exact ⟨(fits_sigOf f _).below, (fits_sigOf f _).low⟩
  · split at h <;> cases h

theorem mag_one_f32 : mag ℚ Fmt.f32 1 = (2 : ℚ) ^ (-149 : Int) := by
  norm_num [mag, sigOf, expOf, Fmt.f32, Fmt.bias]

/-- The range of the positive numbers of binary32. -/
theorem f32_range {p : ℚ} (h : Val .f32 p) (h0 : 0 < p) : (2 : ℚ) ^ (-149 : Int) ≤ p ∧ p < (2 : ℚ) ^ (128 : Int) := by
  have hmono := mag_strictMono ℚ Fmt.f32
  obtain ⟨s, c, hc, rfl⟩ := h
  have hs : s = false := by
    cases s with
    | false => rfl
    | true => exact absurd h0 (not_lt.2 (neg_nonpos.2 (mag_nonneg ℚ Fmt.f32 c)))
  subst hs
  have h0 : 0 < mag ℚ Fmt.f32 c := h0
  have hc0 : 0 < c := Nat.pos_of_ne_zero fun hz => by rw [hz, mag_zero] at h0; exact lt_irrefl _ h0
  have hlim : mag ℚ Fmt.f32 (limit .f32) = (2 : ℚ) ^ (128 : Int) := mag_limit proper_f32 ℚ
  exact ⟨by rw [← mag_one_f32]; exact hmono.monotone hc0, by rw [← hlim]; exact hmono hc⟩

theorem minus_of_pos {f : Fmt} {x m : Nat} {e : Int} (h : 0 < finVal (minus f x) m e) : minus f x = false ∧ m ≠ 0 := by
  have hm : m ≠ 0 := fun hz => h.ne' (finVal_eq_zero_iff.2 hz)
  have hneg := finVal_neg_iff (neg := minus f x) (e := e) hm
  rw [decide_eq_false h.not_gt] at hneg
  exact ⟨hneg.symm, hm⟩

theorem minus_of_neg {f : Fmt} {x m : Nat} {e : Int} (h : finVal (minus f x) m e < 0) : minus f x = true ∧ m ≠ 0 := by
  have hm : m ≠ 0 := fun hz => h.ne (finVal_eq_zero_iff.2 hz)
  have hneg := finVal_neg_iff (neg := minus f x) (e := e) hm
  rw [decide_eq_true h] at hneg
  exact ⟨hneg.symm, hm⟩

theorem finVal_false (m : Nat) (e : Int) : finVal false m e = (m : ℚ) * 2 ^ e := rfl

/-! ### SQRT and RSQ -/

theorem sqrt_rounded {rm : Nat} (hrm : rm < 4) {m : Nat} {e : Int} (hm : m ≠ 0) (hlo : (2 : ℚ) ^ (-149 : Int) ≤ (m : ℚ) * 2 ^ e)
    (hhi : (m : ℚ) * 2 ^ e < (2 : ℚ) ^ (128 : Int)) : RootRounded ((m : ℚ) * 2 ^ e) rm (Fmt.f32.sqrt rm (.fin false m e)) := by
  obtain ⟨sh, hsh, hcut, hbig⟩ : ∃ sh : Nat, (if e % 2 = 0 then 160 else 161) = sh ∧ (e - sh) % 2 = 0 ∧ 160 ≤ sh := by
    by_cases he : e % 2 = 0
    · exact ⟨160, if_pos he, by omega, by omega⟩
    · exact ⟨161, if_neg he, by omega, by omega⟩
  have hsqrt : Fmt.f32.sqrt rm (.fin false m e) =
      Fmt.f32.round rm false (isqrt (m * 2 ^ sh)) ((e - sh) / 2) (isqrt (m * 2 ^ sh) * isqrt (m * 2 ^ sh) != m * 2 ^ sh) := by
    rw [Fmt.sqrt, if_neg hm, if_neg Bool.false_ne_true, sqrtParts]
    dsimp only
    rw [hsh]
  rw [hsqrt, isqrt_eq_sqrt]
  generalize hn : m * 2 ^ sh = n
  have hle : Nat.sqrt n * Nat.sqrt n ≤ n := Nat.sqrt_le n
  have hlt : n < (Nat.sqrt n + 1) * (Nat.sqrt n + 1) := Nat.lt_succ_sqrt n
  have hr : 2 ^ 24 ≤ Nat.sqrt n := by
    rw [Nat.le_sqrt, ← hn]
    calc 2 ^ 24 * 2 ^ 24 ≤ 1 * 2 ^ sh := by rw [Nat.one_mul, ← Nat.pow_add]; exact Nat.pow_le_pow_right (by decide) (by omega)
      _ ≤ m * 2 ^ sh := Nat.mul_le_mul_right _ (Nat.one_le_iff_ne_zero.2 hm)
  have hval : ((((m : ℚ) * 2 ^ e : ℚ)) : ℝ) = (n : ℝ) * ((2 : ℝ) ^ ((e - sh) / 2)) ^ 2 := by
    rw [← zpow_natCast, ← zpow_mul, ← hn]
    have hsum : (2 : ℝ) ^ e = ((2 ^ sh : Nat) : ℝ) * 2 ^ ((e - sh) / 2 * ((2 : Nat) : Int)) := by
      rw [← zpow_split]; congr 1; omega
    push_cast [hsum]
    ring
  refine rootRounded_round (le_trans (zpow_le_zpow_right₀ one_le_two (by omega)) hlo) (hhi.trans (zpow_lt_zpow_right₀ one_lt_two (by omega))) hrm ?_
  rw [hval]
  refine given_root hr ?_ ?_ ?_ _
  · rw [pow_two]; exact_mod_cast hle
  · rw [pow_two]; exact_mod_cast hlt
  · rw [bne_iff_ne, pow_two, Ne, Ne]
    exact_mod_cast Iff.rfl

theorem rsq_rounded {rm : Nat} (hrm : rm < 4) {m : Nat} {e : Int} (hm : m ≠ 0) (hm24 : m < 2 ^ 24) (hlo : (2 : ℚ) ^ (-149 : Int) ≤ (m : ℚ) * 2 ^ e)
    (hhi : (m : ℚ) * 2 ^ e < (2 : ℚ) ^ (128 : Int)) : RootRounded (1 / ((m : ℚ) * 2 ^ e)) rm (Fmt.f32.rsq rm (.fin false m e)) := by
  obtain ⟨k, hk, hcut, hbig⟩ : ∃ k : Nat, (if e % 2 = 0 then 320 else 321) = k ∧ (-e - k) % 2 = 0 ∧ 320 ≤ k := by
    by_cases he : e % 2 = 0
    · exact ⟨320, if_pos he, by omega, by omega⟩
    · exact ⟨321, if_neg he, by omega, by omega⟩
  have hrsq : Fmt.f32.rsq rm (.fin false m e) =
      Fmt.f32.round rm false (isqrt (2 ^ k / m)) ((-e - k) / 2) (isqrt (2 ^ k / m) * isqrt (2 ^ k / m) * m != 2 ^ k) := by
    rw [Fmt.rsq, if_neg hm, if_neg Bool.false_ne_true]
    dsimp only
    rw [hk]
  have hmpos : 0 < m := Nat.pos_of_ne_zero hm
  have hmR : (0 : ℝ) < m := by exact_mod_cast hmpos
  have hp : 0 < (m : ℚ) * 2 ^ e := lt_of_lt_of_le (zpow_pos two_pos _) hlo
  rw [hrsq, isqrt_eq_sqrt]
  have hdiv : 2 ^ k / m * m ≤ 2 ^ k := Nat.div_mul_le_self _ _
  have hdiv1 : 2 ^ k < (2 ^ k / m + 1) * m := by rw [Nat.mul_comm]; exact Nat.lt_mul_div_succ _ hmpos
  generalize hn : 2 ^ k / m = n at hdiv hdiv1
  have hle : Nat.sqrt n * Nat.sqrt n ≤ n := Nat.sqrt_le n
  have hlt : n + 1 ≤ (Nat.sqrt n + 1) * (Nat.sqrt n + 1) := Nat.lt_succ_sqrt n
  have hr : 2 ^ 24 ≤ Nat.sqrt n := by
    rw [Nat.le_sqrt, ← hn, Nat.le_div_iff_mul_le hmpos]
    calc 2 ^ 24 * 2 ^ 24 * m ≤ 2 ^ 24 * 2 ^ 24 * 2 ^ 24 := Nat.mul_le_mul_left _ hm24.le
      _ = 2 ^ 72 := by norm_num
      _ ≤ 2 ^ k := Nat.pow_le_pow_right (by decide) (by omega)
  have hval : (((1 / ((m : ℚ) * 2 ^ e) : ℚ)) : ℝ) = ((2 ^ k : Nat) : ℝ) / m * ((2 : ℝ) ^ ((-e - k) / 2)) ^ 2 := by
    have hsum : (2 : ℝ) ^ (-e) = ((2 ^ k : Nat) : ℝ) * 2 ^ ((-e - k) / 2 * ((2 : Nat) : Int)) := by
      rw [← zpow_split]; congr 1; omega
    rw [← zpow_natCast ((2 : ℝ) ^ ((-e - (k : Int)) / 2)), ← zpow_mul, div_mul_eq_mul_div, ← hsum, zpow_neg]
    push_cast
    field_simp
  have hhi' : 1 / ((m : ℚ) * 2 ^ e) < 2 ^ (252 : Int) := by
    have : 1 / ((m : ℚ) * 2 ^ e) ≤ 1 / 2 ^ (-149 : Int) := one_div_le_one_div_of_le (zpow_pos two_pos _) hlo
    refine this.trans_lt ?_
    norm_num
  have hlo' : (2 : ℚ) ^ (-252 : Int) ≤ 1 / ((m : ℚ) * 2 ^ e) := by
    have : 1 / (2 : ℚ) ^ (128 : Int) ≤ 1 / ((m : ℚ) * 2 ^ e) := one_div_le_one_div_of_le hp hhi.le
    refine le_trans ?_ this
    norm_num
  refine rootRounded_round hlo' hhi' hrm ?_
  rw [hval]
  refine given_root hr ?_ ?_ ?_ _
  · rw [le_div_iff₀ hmR, pow_two]
    exact_mod_cast (Nat.mul_le_mul_right m hle).trans hdiv
  · rw [div_lt_iff₀ hmR, pow_two]
    exact_mod_cast hdiv1.trans_le (Nat.mul_le_mul_right m hlt)
  · rw [bne_iff_ne, pow_two, Ne, Ne, eq_div_iff hmR.ne']
    exact_mod_cast Iff.rfl

/-! ### RCP -/

theorem rcp_rounded {rm : Nat} (hrm : rm < 4) {neg : Bool} {m : Nat} {e : Int} (hm : m ≠ 0) (hm24 : m < 2 ^ 24) :
    RoundedTo .f32 rm (1 / finVal neg m e) (Fmt.f32.rcp rm (.fin neg m e)) := by
  have hmpos : 0 < m := Nat.pos_of_ne_zero hm
  have hmQ : (0 : ℚ) < m := by exact_mod_cast hmpos
  have hp : (0 : ℚ) < 2 ^ (-e - 160) := zpow_pos two_pos _
  have habs : |1 / finVal neg m e| = ((2 ^ 160 : Nat) : ℚ) / m * 2 ^ (-e - 160) := by
    have hsum : (2 : ℚ) ^ (-e) = ((2 ^ 160 : Nat) : ℚ) * 2 ^ (-e - 160) := by rw [← zpow_split]; congr 1; push_cast; ring
    rw [abs_div, abs_one, abs_finVal, div_mul_eq_mul_div, ← hsum, zpow_neg]
    field_simp
  have hsign : decide (1 / finVal neg m e < 0) = neg := (decide_eq_decide.2 one_div_neg).trans (finVal_neg_iff hm)
  have hdiv := Nat.div_add_mod' (2 ^ 160) m
  have hmod := Nat.mod_lt (2 ^ 160) hmpos
  have hbig : 2 ^ 24 ≤ 2 ^ 160 / m := by
    rw [Nat.le_div_iff_mul_le hmpos]
    calc 2 ^ 24 * m ≤ 2 ^ 24 * 2 ^ 24 := Nat.mul_le_mul_left _ hm24.le
      _ ≤ 2 ^ 160 := by norm_num
  rw [Fmt.rcp, if_neg hm]
  refine roundedTo_round proper_f32 hrm hsign ⟨by have : 0 < 2 ^ 24 := Nat.two_pow_pos _; omega, ?_⟩
  rw [habs]
  by_cases h0 : 2 ^ 160 % m = 0
  · have hst : (2 ^ 160 % m != 0) = false := by rw [h0]; rfl
    rw [hst, if_neg Bool.false_ne_true]
    congr 1
    rw [div_eq_iff hmQ.ne']
    exact_mod_cast (by omega : 2 ^ 160 = 2 ^ 160 / m * m)
  · rw [if_pos (bne_iff_ne.2 h0)]
    refine ⟨hbig, mul_lt_mul_of_pos_right ?_ hp, mul_lt_mul_of_pos_right ?_ hp⟩
    · rw [lt_div_iff₀ hmQ]
      exact_mod_cast (by omega : 2 ^ 160 / m * m < 2 ^ 160)
    · rw [div_lt_iff₀ hmQ]
      exact_mod_cast (by rw [Nat.add_mul, Nat.one_mul]; omega : 2 ^ 160 < (2 ^ 160 / m + 1) * m)

end Sys2Proof.Proofs

/-! Integral values, EXP2 and LOG2 at the exact powers of two, and the table of FUN.f32 (04 R132). -/

namespace Sys2Proof.Proofs

open Sys2Proof Sys2Proof.Machine Sys2Proof.Rules

/-! ### FLOOR, CEIL, RINT, TRUNC -/

theorem sgnInt_eq_finVal (neg : Bool) (t : Nat) : finVal neg t 0 = ((sgnInt neg t : Int) : ℚ) := by
  rw [finVal_eq_sgnInt, zpow_zero, mul_one]

theorem integral_spec {m : Nat} (hm : m < 4) (b : Bool) {x : Nat} {p : ℚ} (hp : fpVal .f32 x = some p) :
    ∃ i, IntegerOf m p i ∧ fpVal .f32 (Fmt.f32.integral m b x).1 = some (i : ℚ) ∧
      (Fmt.f32.integral m b x).2 = if b = true ∧ (i : ℚ) ≠ p then 1 else 0 := by
  obtain ⟨k, e, hd, rfl⟩ := fin_of_fpVal hp
  obtain ⟨hk, -⟩ := fin_bounds proper_f32 hd
  by_cases he : 0 ≤ e
  · -- an integer as it stands
    have hint : Fmt.f32.integral m b x = (x, 0) := by simp only [Fmt.integral, hd, if_pos he, ge_iff_le]
    have hval : finVal (minus .f32 x) k e = ((sgnInt (minus .f32 x) (k * 2 ^ e.toNat) : Int) : ℚ) := by
      have hpow : (2 : ℚ) ^ e = 2 ^ e.toNat := by rw [← zpow_natCast, Int.toNat_of_nonneg he]
      rw [sgnInt_cast, finVal, hpow]
      push_cast
      rfl
    rw [hint]
    refine ⟨_, by rw [hval]; exact integerOf_self hm _, hp.trans (congrArg some hval), ?_⟩
    rw [if_neg fun hc => hc.2 hval.symm]
  · have hneg : e < 0 := not_le.1 he
    obtain ⟨t, hround⟩ := roundsTo_roundAt (K := ℚ) m (minus .f32 x) (stick := false) (q := 0) (show Approx false k ((2 : ℚ) ^ e) _ from rfl)
      (fun hc => by cases hc)
    rw [zpow_zero] at hround
    have hint : Fmt.f32.integral m b x = ((Fmt.f32.ofFin 0 (minus .f32 x) (roundAt m (minus .f32 x) k e 0).1 0).1,
        if ((roundAt m (minus .f32 x) k e 0).2 && b) = true then 1 else 0) := by
      simp only [Fmt.integral, hd, ge_iff_le, if_neg he, max_eq_right hneg.le]
    generalize (roundAt m (minus .f32 x) k e 0).1 = n at hround hint
    generalize (roundAt m (minus .f32 x) k e 0).2 = nx at hround hint
    have hn : n ≤ t + 1 := by
      by_cases hup : nx = true ∧ Up m (minus .f32 x) (t % 2 == 1) ((t : ℚ) * 1) (((t + 1 : Nat) : ℚ) * 1) ((k : ℚ) * 2 ^ e)
      · exact (hround.up hup.1 hup.2).le
      · exact (hround.down fun hnx hU => hup ⟨hnx, hU⟩).le.trans (Nat.le_succ t)
    have ht : t < 2 ^ 23 := by
      have hlow := hround.low
      have hhalf : (2 : ℚ) ^ e ≤ 1 / 2 := by
        have : (2 : ℚ) ^ e ≤ 2 ^ (-1 : Int) := zpow_le_zpow_right₀ one_le_two (by omega)
        exact this.trans (by norm_num)
      have hk' : (k : ℚ) < 2 ^ 24 := by exact_mod_cast hk
      have : (t : ℚ) < 2 ^ 23 := by
        have hmul : (k : ℚ) * 2 ^ e ≤ (k : ℚ) * (1 / 2) := mul_le_mul_of_nonneg_left hhalf (Nat.cast_nonneg k)
        linarith
      exact_mod_cast this
    have hlim : (n : ℚ) * 2 ^ (0 : Int) < 2 ^ ((Fmt.f32.bias : Int) + 1) := by
      have : (n : ℚ) < 2 ^ 24 := by exact_mod_cast (by omega : n < 2 ^ 24)
      rw [zpow_zero, mul_one]
      exact this.trans (by norm_num [Fmt.bias, Fmt.f32])
    have hexact := (ofFin_exact proper_f32 0 (minus .f32 x) (t := n) (q := 0) (by show n < 2 ^ 24; omega) (by decide) hlim).1
    rw [hint]
    refine ⟨sgnInt (minus .f32 x) n, ?_, hexact.trans (congrArg some (sgnInt_eq_finVal _ _)), ?_⟩
    · exact integerOf_of_roundsTo hm (mul_nonneg (Nat.cast_nonneg k) (zpow_nonneg zero_le_two _)) hround
    · have hiff := hround.inexact_iff
      dsimp only
      refine if_congr ?_ rfl rfl
      rw [Bool.and_eq_true, hiff, and_comm]
      rfl

/-! ### EXP2 and LOG2 at the exact powers of two -/

/-- A power of two in the range of binary32, rounded, is itself. -/
theorem round_two_pow {rm : Nat} {i : Int} (hlo : -149 ≤ i) (hhi : i ≤ 127) :
    fpVal .f32 (Fmt.f32.round rm false 1 i false).1 = some ((2 : ℚ) ^ i) ∧ (Fmt.f32.round rm false 1 i false).2 = 0 := by
  have hlim : ((1 : Nat) : ℚ) * 2 ^ i < 2 ^ ((Fmt.f32.bias : Int) + 1) := by
    rw [Nat.cast_one, one_mul]
    exact zpow_lt_zpow_right₀ one_lt_two (by have : ((Fmt.f32.bias : Nat) : Int) = 127 := rfl; omega)
  have h := ofFin_exact proper_f32 rm false (t := 1) (q := i) (by decide) (by show -126 - 23 ≤ i; omega) hlim
  rw [Fmt.ofFin, if_neg Nat.one_ne_zero, finVal_false, Nat.cast_one, one_mul] at h
  exact h

theorem finVal_eq_intCast {n : Bool} {m : Nat} {e i : Int} (h : finVal n m e = i) {q : Int} (hq : q ≤ e) (hq0 : q ≤ 0) :
    scaleInt (sgnInt n m) e q = i * (2 ^ (-q).toNat : Nat) := by
  have hp : (0 : ℚ) < 2 ^ q := zpow_pos two_pos _
  have hone : ((2 ^ (-q).toNat : Nat) : ℚ) * 2 ^ q = 1 := by
    rw [← zpow_split, Int.toNat_of_nonneg (by omega), add_neg_cancel, zpow_zero]
  have : ((scaleInt (sgnInt n m) e q : Int) : ℚ) * 2 ^ q = ((i * (2 ^ (-q).toNat : Nat) : Int) : ℚ) * 2 ^ q := by
    rw [scaleInt_cast hq, ← finVal_eq_sgnInt, h]
    push_cast
    rw [mul_assoc]
    push_cast at hone
    rw [hone, mul_one]
  exact_mod_cast mul_right_cancel₀ hp.ne' this

theorem two_pow_log2_le_finVal {n : Bool} {m : Nat} {e : Int} (hm : m ≠ 0) : (2 : ℚ) ^ ((Nat.log2 m : Int) + e) ≤ |finVal n m e| := by
  rw [abs_finVal, add_comm, zpow_split]
  refine mul_le_mul_of_nonneg_right ?_ (zpow_nonneg zero_le_two _)
  exact_mod_cast Nat.log2_self_le hm

theorem exp2_of_int {rm : Nat} {n : Bool} {m : Nat} {e i : Int} (h : finVal n m e = i) (hlo : -149 ≤ i) (hhi : i ≤ 127) :
    fpVal .f32 (Fmt.f32.exp2 rm (.fin n m e)).1 = some ((2 : ℚ) ^ i) ∧ (Fmt.f32.exp2 rm (.fin n m e)).2 = 0 := by
  by_cases hm : m = 0
  · have hi : i = 0 := by
      rw [finVal_eq_zero_iff.2 hm] at h
      exact_mod_cast h.symm
    rw [Fmt.exp2, if_pos hm, hi]
    exact round_two_pow (by decide) (by decide)
  · have htop : ¬ (Nat.log2 m : Int) + e ≥ 11 := fun hge => by
      have h1 := two_pow_log2_le_finVal (n := n) (e := e) hm
      have h2 : (2 : ℚ) ^ (11 : Int) ≤ 2 ^ ((Nat.log2 m : Int) + e) := zpow_le_zpow_right₀ one_le_two hge
      rw [h] at h1
      have h3 : |(i : ℚ)| ≤ 149 := by rw [abs_le]; constructor <;> norm_cast; omega
      have h4 : (2 : ℚ) ^ (11 : Int) = 2048 := by norm_num
      linarith
    have hscale := finVal_eq_intCast h (q := min e (-160)) (min_le_left _ _) (by omega)
    have hu : (0 : Int) < (2 ^ (-(min e (-160))).toNat : Nat) := by exact_mod_cast Nat.two_pow_pos _
    have hexp : Fmt.f32.exp2 rm (.fin n m e) = Fmt.f32.round rm false 1 i false := by
      unfold Fmt.exp2
      dsimp only
      rw [if_neg hm, if_neg htop, hscale, Int.mul_ediv_cancel _ hu.ne', sub_self, Int.toNat_zero, if_pos rfl]
    rw [hexp]
    exact round_two_pow hlo hhi

theorem sgnInt_natAbs (i : Int) : sgnInt (decide (i < 0)) i.natAbs = i := by
  rcases lt_or_ge i 0 with h | h
  · rw [decide_eq_true h, sgnInt, if_pos rfl]; omega
  · rw [decide_eq_false h.not_gt, sgnInt, if_neg Bool.false_ne_true]; omega

theorem log2_of_two_pow {rm : Nat} {m : Nat} {e i : Int} (he : -149 ≤ e) (hhi : (m : ℚ) * 2 ^ e < 2 ^ (128 : Int))
    (h : (m : ℚ) * 2 ^ e = 2 ^ i) :
    fpVal .f32 (Fmt.f32.log2 rm (.fin false m e)).1 = some (i : ℚ) ∧ (Fmt.f32.log2 rm (.fin false m e)).2 = 0 := by
  have hp : (0 : ℚ) < 2 ^ e := zpow_pos two_pos _
  have hm : m ≠ 0 := fun hz => by
    rw [hz, Nat.cast_zero, zero_mul] at h
    exact (zpow_pos two_pos i).ne h
  have hie : e ≤ i := by
    have hm1 : (1 : ℚ) ≤ m := by exact_mod_cast Nat.one_le_iff_ne_zero.2 hm
    have : (2 : ℚ) ^ e ≤ 2 ^ i := by rw [← h]; exact le_mul_of_one_le_left hp.le hm1
    exact (zpow_le_zpow_iff_right₀ one_lt_two).1 this
  have hi : i < 128 := by rw [h] at hhi; exact (zpow_lt_zpow_iff_right₀ one_lt_two).1 hhi
  have hpow : m = 2 ^ (i - e).toNat := by
    have : (m : ℚ) * 2 ^ e = ((2 ^ (i - e).toNat : Nat) : ℚ) * 2 ^ e := by rw [← zpow_split, h]; congr 1; omega
    exact_mod_cast mul_right_cancel₀ hp.ne' this
  have hlog : Nat.log2 m = (i - e).toNat := by rw [hpow, Nat.log2_two_pow]
  have htop : (Nat.log2 m : Int) + e = i := by rw [hlog]; omega
  have hself : m = 2 ^ Nat.log2 m := by rw [hlog]; exact hpow
  rw [Fmt.log2, if_neg hm, if_neg Bool.false_ne_true]
  dsimp only
  rw [if_pos hself, htop]
  by_cases h0 : i = 0
  · rw [if_pos h0, h0]
    exact ⟨fpVal_zero proper_f32 false, rfl⟩
  · have hlim : (i.natAbs : ℚ) * 2 ^ (0 : Int) < 2 ^ ((Fmt.f32.bias : Int) + 1) := by
      have : (i.natAbs : ℚ) < 2 ^ 24 := by exact_mod_cast (by omega : i.natAbs < 2 ^ 24)
      rw [zpow_zero, mul_one]
      exact this.trans (by norm_num [Fmt.bias, Fmt.f32])
    have hexact := ofFin_exact proper_f32 rm (decide (i < 0)) (t := i.natAbs) (q := 0) (by show i.natAbs < 2 ^ 24; omega) (by decide) hlim
    rw [Fmt.ofFin, if_neg (Int.natAbs_ne_zero.2 h0), sgnInt_eq_finVal, sgnInt_natAbs] at hexact
    rw [if_neg h0]
    exact hexact

/-! ### The table -/

theorem funF32_abs {rm x : Nat} (h : nan .f32 x = false) : funF32 0 rm x = (x % 2 ^ 31, 0) := by
  rw [nan] at h
  simp only [funF32, h, Bool.false_eq_true, if_false]

theorem funF32_neg {rm x : Nat} (h : nan .f32 x = false) : funF32 1 rm x = ((x + 2 ^ 31) % 2 ^ 32, 0) := by
  rw [nan] at h
  simp only [funF32, h, Bool.false_eq_true, if_false]

theorem nansPass : ∀ g ∈ [funF32 0, funF32 1, fun rm x => Fmt.f32.sqrt rm (Fmt.f32.decode x), fun rm x => Fmt.f32.rcp rm (Fmt.f32.decode x),
    fun rm x => Fmt.f32.rsq rm (Fmt.f32.decode x), fun rm x => Fmt.f32.exp2 rm (Fmt.f32.decode x), fun rm x => Fmt.f32.log2 rm (Fmt.f32.decode x),
    fun _ => Fmt.f32.integral 3 false, fun _ => Fmt.f32.integral 2 false, fun rm => Fmt.f32.integral rm true, fun _ => Fmt.f32.integral 1 false],
    NansPass g := by
  simp only [List.forall_mem_cons, List.not_mem_nil, false_implies, implies_true, and_true]
  refine ⟨fun rm x h => ?_, fun rm x h => ?_, fun rm x h => ?_, fun rm x h => ?_, fun rm x h => ?_, fun rm x h => ?_, fun rm x h => ?_,
    fun rm x h => ?_, fun rm x h => ?_, fun rm x h => ?_, fun rm x h => ?_⟩
  · simp only [funF32, decode_of_nan h]; rfl
  · simp only [funF32, decode_of_nan h]; rfl
  · simp only [decode_of_nan h]; rfl
  · simp only [decode_of_nan h]; rfl
  · simp only [decode_of_nan h]; rfl
  · simp only [decode_of_nan h]; rfl
  · simp only [decode_of_nan h]; rfl
  · simp only [Fmt.integral, decode_of_nan h]; rfl
  · simp only [Fmt.integral, decode_of_nan h]; rfl
  · simp only [Fmt.integral, decode_of_nan h]; rfl
  · simp only [Fmt.integral, decode_of_nan h]; rfl

/-- The infinities. -/
theorem functions_of_inf (rm : Nat) (n : Bool) :
    Fmt.f32.sqrt rm (.inf n) = (if n then (Fmt.f32.nan, 16) else (Fmt.f32.inf n, 0)) ∧ Fmt.f32.rcp rm (.inf n) = (Fmt.f32.zero n, 0) ∧
      Fmt.f32.rsq rm (.inf n) = (if n then (Fmt.f32.nan, 16) else (0, 0)) ∧ Fmt.f32.exp2 rm (.inf n) = (if n then 0 else Fmt.f32.inf n, 0) ∧
      Fmt.f32.log2 rm (.inf n) = (if n then (Fmt.f32.nan, 16) else (Fmt.f32.inf n, 0)) := by
  refine ⟨?_, by rw [Fmt.rcp], ?_, ?_, ?_⟩
  · cases n <;> simp only [Fmt.sqrt, if_true, Bool.false_eq_true, if_false]
  · cases n <;> simp only [Fmt.rsq, Fmt.zero, if_true, Bool.false_eq_true, if_false]
  · cases n <;> simp only [Fmt.exp2, Fmt.zero, if_true, Bool.false_eq_true, if_false]
  · cases n <;> simp only [Fmt.log2, if_true, Bool.false_eq_true, if_false]

/-- The zeros. -/
theorem functions_of_zero (rm : Nat) (n : Bool) (e : Int) :
    Fmt.f32.sqrt rm (.fin n 0 e) = (Fmt.f32.zero n, 0) ∧ Fmt.f32.rcp rm (.fin n 0 e) = (Fmt.f32.inf n, 8) ∧
      Fmt.f32.rsq rm (.fin n 0 e) = (Fmt.f32.inf n, 8) ∧ Fmt.f32.log2 rm (.fin n 0 e) = (Fmt.f32.inf true, 8) :=
  ⟨by rw [Fmt.sqrt, if_pos rfl], by rw [Fmt.rcp, if_pos rfl], by rw [Fmt.rsq, if_pos rfl], by rw [Fmt.log2, if_pos rfl]⟩

/-- The negative numbers. -/
theorem functions_of_neg (rm : Nat) {m : Nat} (hm : m ≠ 0) (e : Int) : Fmt.f32.sqrt rm (.fin true m e) = (Fmt.f32.nan, 16) ∧
    Fmt.f32.rsq rm (.fin true m e) = (Fmt.f32.nan, 16) ∧ Fmt.f32.log2 rm (.fin true m e) = (Fmt.f32.nan, 16) :=
  ⟨by rw [Fmt.sqrt, if_neg hm, if_pos rfl], by rw [Fmt.rsq, if_neg hm, if_pos rfl], by rw [Fmt.log2, if_neg hm, if_pos rfl]⟩

/-- A positive operand by its significand and exponent, and its range. -/
theorem positive_operand {x m : Nat} {e : Int} {p : ℚ} (hp : fpVal .f32 x = some p) (hval : p = finVal (minus .f32 x) m e) (h : 0 < p) :
    minus .f32 x = false ∧ m ≠ 0 ∧ p = (m : ℚ) * 2 ^ e ∧ (2 : ℚ) ^ (-149 : Int) ≤ (m : ℚ) * 2 ^ e ∧ (m : ℚ) * 2 ^ e < (2 : ℚ) ^ (128 : Int) := by
  obtain ⟨hs, hm⟩ := minus_of_pos (hval ▸ h)
  have hpm : p = (m : ℚ) * 2 ^ e := by rw [hval, hs, finVal_false]
  obtain ⟨hlo, hhi⟩ := f32_range (code_of_fpVal proper_f32 hp) h
  exact ⟨hs, hm, hpm, hpm ▸ hlo, hpm ▸ hhi⟩

theorem functions_of_fin {rm : Nat} (hrm : rm < 4) {x : Nat} (hx : x < 2 ^ 32) {p : ℚ} (hp : fpVal .f32 x = some p) :
    let a := Fmt.f32.decode x
    (p = 0 → Fmt.f32.sqrt rm a = (x, 0) ∧ Fmt.f32.rcp rm a = (Fmt.f32.inf (minus .f32 x), 8) ∧ Fmt.f32.rsq rm a = (Fmt.f32.inf (minus .f32 x), 8) ∧
      Fmt.f32.log2 rm a = (Fmt.f32.inf true, 8)) ∧
    (p < 0 → Fmt.f32.sqrt rm a = (Fmt.f32.nan, 16) ∧ Fmt.f32.rsq rm a = (Fmt.f32.nan, 16) ∧ Fmt.f32.log2 rm a = (Fmt.f32.nan, 16)) ∧
    (0 < p → RootRounded p rm (Fmt.f32.sqrt rm a) ∧ RootRounded (1 / p) rm (Fmt.f32.rsq rm a)) ∧
    (p ≠ 0 → RoundedTo .f32 rm (1 / p) (Fmt.f32.rcp rm a)) ∧
    (∀ i : Int, p = i → -149 ≤ i → i ≤ 127 → fpVal .f32 (Fmt.f32.exp2 rm a).1 = some ((2 : ℚ) ^ i) ∧ (Fmt.f32.exp2 rm a).2 = 0) ∧
    ∀ i : Int, p = (2 : ℚ) ^ i → fpVal .f32 (Fmt.f32.log2 rm a).1 = some (i : ℚ) ∧ (Fmt.f32.log2 rm a).2 = 0 := by
  intro a
  obtain ⟨m, e, hd, hval⟩ := fin_of_fpVal hp
  obtain ⟨hm24, he⟩ := fin_bounds proper_f32 hd
  have ha : a = .fin (minus .f32 x) m e := hd
  rw [ha]
  refine ⟨fun h0 => ?_, fun hneg => ?_, fun h => ?_, fun h0 => ?_, fun i hi hlo hhi => ?_, fun i hi => ?_⟩
  · have hm : m = 0 := finVal_eq_zero_iff.1 (hval.symm.trans h0)
    have hz : x = Fmt.f32.zero (minus .f32 x) := eq_zero_of_fpVal_zero proper_f32 hx (hp.trans (congrArg some h0))
    obtain ⟨hsqrt, hrest⟩ := functions_of_zero rm (minus .f32 x) e
    rw [hm]
    exact ⟨hsqrt.trans (congrArg (·, 0) hz.symm), hrest⟩
  · obtain ⟨hs, hm⟩ := minus_of_neg (hval ▸ hneg)
    rw [hs]
    exact functions_of_neg rm hm e
  · obtain ⟨hs, hm, hpm, hlo, hhi⟩ := positive_operand hp hval h
    rw [hs, hpm]
    exact ⟨sqrt_rounded hrm hm hlo hhi, rsq_rounded hrm hm hm24 hlo hhi⟩
  · have hm : m ≠ 0 := fun hz => h0 (hval.trans (finVal_eq_zero_iff.2 hz))
    rw [hval]
    exact rcp_rounded hrm hm hm24
  · exact exp2_of_int (hval.symm.trans hi) hlo hhi
  · obtain ⟨hs, -, hpm, -, hhi⟩ := positive_operand hp hval (hi ▸ zpow_pos two_pos i)
    rw [hs]
    exact log2_of_two_pow he hhi (hpm.symm.trans hi)

theorem functionTable : FunctionTable := by
  refine ⟨nansPass, fun rm hrm x hx hnan => ⟨funF32_abs hnan, funF32_neg hnan, fun n hn => ?_, fun p hp => ?_⟩⟩
  · have hd : Fmt.f32.decode x = .inf n := by rw [hn, decode_inf proper_f32]
    obtain ⟨hsqrt, hrcp, hrsq, hexp, hlog⟩ := functions_of_inf rm n
    rw [← hn] at hsqrt hexp hlog
    rw [hd]
    exact ⟨hsqrt, hrcp, hrsq, hexp, hlog, fun m _ b => by simp only [Fmt.integral, hd]⟩
  · obtain ⟨hzero, hneg, hpos, hrcp, hexp, hlog⟩ := functions_of_fin hrm hx hp
    exact ⟨hzero, hneg, hpos, hrcp, hexp, hlog, fun k hk b => integral_spec hk b hp⟩

/-! ### The instructions -/

/-- The model runs an instruction on lanes as a function of the mode and one operand. -/
def RunsLanes1 (op : VecOp1) (off : Nat) (f : Nat → Nat → Nat × Nat) : Prop :=
  1 ≤ off ∧ ∀ d a p x s, exec (op d a p x) s = State.lanes1 s d a p x off f

theorem intBits_eq (w : Nat) (r : Int × Nat) : (intBits w r.1, r.2) = ((r.1 % 2 ^ w).toNat, r.2) := by
  rw [intBits]
  push_cast
  rfl

theorem runsLanes1_of_mem : ∀ e ∈ unaryLanes, RunsLanes1 e.1 e.2.1 e.2.2 := by
  have htoInt : fcvt 6 = fun rm x => (((Fmt.f32.toInt 32 rm x).1 % 2 ^ 32).toNat, (Fmt.f32.toInt 32 rm x).2) := by
    funext rm x; exact intBits_eq 32 _
  have hrtz : fcvt 10 = fun _ x => (((Fmt.f32.toInt 32 1 x).1 % 2 ^ 32).toNat, (Fmt.f32.toInt 32 1 x).2) := by
    funext rm x; exact intBits_eq 32 _
  have hfrom : fcvt 7 = fun rm x => Fmt.f32.fromInt rm (BitVec.ofNat 32 x).toInt := by
    funext rm x; rw [← signed_eq_toInt (by decide)]; rfl
  simp only [unaryLanes, List.forall_mem_cons, List.not_mem_nil, false_implies, implies_true, and_true, ← htoInt, ← hrtz, ← hfrom]
  exact ⟨⟨by decide, exec_absF32⟩, ⟨by decide, exec_negF32⟩, ⟨by decide, exec_sqrtF32⟩, ⟨by decide, exec_rcpF32⟩, ⟨by decide, exec_rsqF32⟩,
    ⟨by decide, exec_exp2F32⟩, ⟨by decide, exec_log2F32⟩, ⟨by decide, exec_floorF32⟩, ⟨by decide, exec_ceilF32⟩, ⟨by decide, exec_rintF32⟩,
    ⟨by decide, exec_truncF32⟩, ⟨by decide, exec_fcvtBf16F32⟩, ⟨by decide, exec_fcvtF16F32⟩, ⟨by decide, exec_fcvtF32Bf16⟩,
    ⟨by decide, exec_fcvtF32F16⟩, ⟨by decide, exec_fcvtI32F32⟩, ⟨by decide, exec_fcvtF32I32⟩, ⟨by decide, exec_fcvtI32F32Rtz⟩⟩

/-- The model runs an instruction on elements as a function of the mode and the operand's bits. -/
def RunsElems1 (op : VecOp1) (src : VReg → Nat → Nat) (f : Nat → Nat → Nat × Nat) : Prop :=
  ∀ d a p x s, exec (op d a p x) s = State.elems1 s d a p x 4 src f

theorem runsElems1_of_mem : ∀ e ∈ unaryElems, RunsElems1 e.1 e.2.1 e.2.2 := by
  have htoInt : fcvt 8 = fun rm x => (((Fmt.f64.toInt 64 rm x).1 % 2 ^ 64).toNat, (Fmt.f64.toInt 64 rm x).2) := by
    funext rm x; exact intBits_eq 64 _
  have hfrom : fcvt 9 = fun rm x => Fmt.f64.fromInt rm (BitVec.ofNat 64 x).toInt := by
    funext rm x; rw [← signed_eq_toInt (by decide)]; rfl
  simp only [unaryElems, List.forall_mem_cons, List.not_mem_nil, false_implies, implies_true, and_true, ← htoInt, ← hfrom]
  exact ⟨exec_fcvtF64F32, exec_fcvtF32F64, exec_fcvtI64F64, exec_fcvtF64I64⟩

/-- Settles O10: each word is its function on the active lanes or elements; the tables follow from rounding once. -/
theorem unaryOpsAndConversions : Obligations.UnaryOpsAndConversions := by
  refine ⟨fun op off f hmem s d a p x h => ?_, fun op src f hmem s d a p x h => ?_, functionTable, ?_, toIntegerTable proper_f32 (by decide),
    toIntegerTable proper_f64 (by decide), fromIntegerTable proper_f32, fromIntegerTable proper_f64⟩
  · obtain ⟨ho, hexec⟩ := runsLanes1_of_mem (op, off, f) hmem
    obtain ⟨v, fl, hv, hrun⟩ := lanes1_gives (off := off) (p := p) (f := f) ho h
    refine ⟨v, fl, hv, ?_⟩
    rw [Runs, hexec]
    exact hrun
  · obtain ⟨v, fl, hv, hrun⟩ := elems1_gives (off := 4) (p := p) (src := src) (f := f) (by decide) h
    refine ⟨v, fl, hv, ?_⟩
    rw [Runs, runsElems1_of_mem (op, src, f) hmem]
    exact hrun
  · have hbf16 : Proper .bf16 := proper_of_mem _ (by decide)
    have hf16 : Proper .f16 := proper_of_mem _ (by decide)
    simp only [List.forall_mem_cons, List.not_mem_nil, false_implies, implies_true, and_true]
    exact ⟨convertTable proper_f32 hbf16, convertTable proper_f32 hf16, convertTable hbf16 proper_f32, convertTable hf16 proper_f32,
      convertTable proper_f32 proper_f64, convertTable proper_f64 proper_f32⟩

end Sys2Proof.Proofs

/-! Special registers: a word whose one effect changes the task or the core it stands on (01 R18-R31; 04 R114, R115). -/

namespace Sys2Proof.Proofs

open Sys2Proof Sys2Proof.Machine Sys2Proof.Rules
open Host (Outcome)

/-! ### What a task shows from its next bundle on -/

/-- From its next bundle on the task `k` shows the registers of `u` with the result `r` landing in time, and the rest of `u`. -/
structure Follows (k u : Machine.Task) (r : Option Res) : Prop where
  regs  : ∀ j, (k.later j).SameRegs (u.wrote r (j + 1))
  flags : k.fpflags = u.fpflags
  rest  : k.SameRest u
  pc    : k.pc = u.pc

/-- Two tasks with the same registers, and the same in what `Follows` compares beside them. -/
structure Alike (u w : Machine.Task) : Prop where
  regs  : u.sregs = w.sregs ∧ u.vregs = w.vregs ∧ u.preds = w.preds ∧ u.ib0 = w.ib0 ∧ u.ib1 = w.ib1
  flags : u.fpflags = w.fpflags
  rest  : u.SameRest w
  pc    : u.pc = w.pc

theorem sameRest_refl (t : Machine.Task) : t.SameRest t :=
  ⟨⟨rfl, rfl, rfl, rfl, rfl⟩, ⟨rfl, rfl, rfl, rfl⟩, ⟨rfl, rfl, rfl, rfl⟩, ⟨rfl, rfl, rfl, rfl, rfl⟩, ⟨rfl, rfl, rfl, rfl, rfl, rfl⟩⟩

theorem alike_refl (u : Machine.Task) : Alike u u := ⟨⟨rfl, rfl, rfl, rfl, rfl⟩, rfl, sameRest_refl u, rfl⟩

theorem sameRegs_trans {t u v : Machine.Task} (h : t.SameRegs u) (g : u.SameRegs v) : t.SameRegs v :=
  ⟨fun n => (h.scalars n).trans (g.scalars n), fun n => (h.vectors n).trans (g.vectors n), fun n => (h.preds n).trans (g.preds n),
    h.bases.1.trans g.bases.1, h.bases.2.trans g.bases.2⟩

theorem Alike.wrote {u w : Machine.Task} (h : Alike u w) (r : Option Res) (j : Nat) : (u.wrote r j).SameRegs (w.wrote r j) := by
  obtain ⟨h1, h2, h3, h4, h5⟩ := h.regs
  cases r with
  | none => exact sameRegs_of u w h1 h2 h3 h4 h5
  | some r =>
    by_cases hj : r.off ≤ j
    · rw [wrote_of_le u r j hj, wrote_of_le w r j hj]
      exact sameRegs_put u w _ _ _ h1 h2 h3 h4 h5
    · simp only [Task.wrote, if_neg hj]
      exact sameRegs_of u w h1 h2 h3 h4 h5

theorem Follows.of_alike {k u w : Machine.Task} {r : Option Res} (h : Follows k u r) (g : Alike u w) : Follows k w r :=
  ⟨fun j => sameRegs_trans (h.regs j) (g.wrote r (j + 1)), h.flags.trans g.flags, sameRest_trans h.rest g.rest, h.pc.trans g.pc⟩

/-- A task with nothing on its way shows what it holds. -/
theorem follows_bump {t : Machine.Task} (hf : t.flights = []) (hp : t.prods = []) : Follows t.bump t none := by
  rw [bump_none t hf hp]
  refine ⟨fun j => ?_, rfl, skip_rest t 1, rfl⟩
  rw [later_none (t.skip 1) hf hp]
  exact sameRegs_of _ _ rfl rfl rfl rfl rfl

/-- A task whose one result has just left shows it from its offset on. -/
theorem follows_launch {t : Machine.Task} {r : Res} (hf : t.flights = []) (hp : t.prods = []) (ho : 1 ≤ r.off) (he : t.isEmpty r.dst = false) :
    Follows (t.launch r.dst r.off r.val r.mask).bump t (some r) := by
  rcases launch_flights t r hf with ⟨hd, e⟩ | ⟨-, e⟩
  · have hw : ∀ j, t.wrote (some r) j = t := fun j => by
      simp only [Task.wrote]
      split
      · rcases hd with hd | hd <;> rw [hd] <;> rfl
      · rfl
    obtain ⟨hregs, hflags, hrest, hpc⟩ := follows_bump hf hp
    rw [e]
    exact ⟨fun j => (hw (j + 1)).symm ▸ hregs j, hflags, hrest, hpc⟩
  · let f : Flight := { dst := r.dst, due := t.nb + r.off, ord := t.seqno, val := r.val, mask := r.mask }
    let k : Machine.Task := { t with seqno := t.seqno + 1, flights := [f] }
    have hlater : ∀ j, k.bump.later j = if f.due ≤ t.nb + (j + 1) then (k.landed f).skip (j + 1) else k.skip (j + 1) := fun j =>
      later_one k f rfl hp rfl (show t.nb < t.nb + r.off by omega) (j + 1)
    have hland : k.landed f = ({ t with seqno := t.seqno + 1, flights := [] } : Machine.Task).put r.dst r.val r.mask := by
      have hfull : ({ t with seqno := t.seqno + 1, flights := [] } : Machine.Task).isEmpty f.dst = false := he
      unfold Task.landed Task.landOne
      rw [if_neg (by rw [hfull]; decide)]
    have hbump : ∃ w : Machine.Task, k.bump = w.skip 1 ∧ w.SameRest t ∧ w.fpflags = t.fpflags ∧ w.pc = t.pc := by
      obtain ⟨hrest, hflags, hpc, -⟩ := landed_rest k f
      have hk : k.SameRest t :=
        ⟨⟨rfl, rfl, rfl, rfl, rfl⟩, ⟨rfl, rfl, rfl, rfl⟩, ⟨rfl, rfl, rfl, rfl⟩, ⟨rfl, rfl, rfl, rfl, rfl⟩, ⟨rfl, rfl, rfl, rfl, rfl, rfl⟩⟩
      rw [bump_one k f rfl hp rfl]
      split
      · exact ⟨_, rfl, sameRest_trans hrest hk, hflags, hpc⟩
      · exact ⟨_, rfl, hk, rfl, rfl⟩
    obtain ⟨w, hw, hrest, hflags, hpc⟩ := hbump
    rw [e]
    refine ⟨fun j => ?_, hw ▸ hflags, hw ▸ sameRest_trans (skip_rest w 1) hrest, hw ▸ hpc⟩
    rw [hlater]
    by_cases hj : r.off ≤ j + 1
    · have hdue : f.due ≤ t.nb + (j + 1) := show t.nb + r.off ≤ _ by omega
      rw [if_pos hdue, wrote_of_le t r _ hj, hland]
      have hput := sameRegs_put { t with seqno := t.seqno + 1, flights := [] } t r.dst r.val r.mask rfl rfl rfl rfl rfl
      exact ⟨hput.scalars, hput.vectors, hput.preds, hput.bases⟩
    · have hdue : ¬ f.due ≤ t.nb + (j + 1) := show ¬ t.nb + r.off ≤ _ by omega
      rw [if_neg hdue]
      simp only [Task.wrote, if_neg hj]
      exact sameRegs_of _ _ rfl rfl rfl rfl rfl

/-- A state whose current task follows `u`, its core having paid the stall and all else standing. -/
theorem leads_of_follows {s t : State} {u : Machine.Task} {r : Option Res} {n : Nat} (h : Follows (t.task s.tid) u r)
    (hc : ∀ c, t.core c = if c = s.now.core then { s.core c with stall := (s.core c).stall + n } else s.core c)
    (hw : s.SameWorld { t with cores := s.cores }) : s.Leads t u r n :=
  ⟨h.regs, h.flags, h.rest, h.pc, hc, hw⟩

/-- A step that leaves the cores alone pays no stall. -/
theorem leads_unstalled {s t : State} {u : Machine.Task} {r : Option Res} (h : Follows (t.task s.tid) u r) (hw : s.SameWorld t) : s.Leads t u r 0 := by
  refine leads_of_follows h (fun c => ?_) ?_
  · rw [State.core, hw.cores]
    split <;> rfl
  · have hcores : ({ t with cores := s.cores } : State) = t := by rw [← hw.cores]
    rw [hcores]
    exact hw

/-- A task moved on with nothing on its way stands at its next bundle. -/
theorem follows_passed {v : State} {n : Nat} {b : Bundle} (hf : (v.task n).flights = []) (hp : (v.task n).prods = []) :
    Follows ((v.passed n b).task n) (goesTo (v.task n) b.next) none := by
  have hk : (v.passed n b).task n = ((v.task n).issued b).bump := task_putTask_self v n _
  rw [hk]
  exact (follows_bump (t := (v.task n).issued b) hf hp).of_alike ⟨⟨rfl, rfl, rfl, rfl, rfl⟩, rfl, ⟨⟨rfl, rfl, rfl, rfl, rfl⟩,
    ⟨rfl, rfl, rfl, rfl⟩, ⟨rfl, rfl, rfl, rfl⟩, ⟨rfl, rfl, rfl, rfl, rfl⟩, ⟨rfl, rfl, rfl, rfl, rfl, rfl⟩⟩, rfl⟩

/-! ### Words that change their task alone -/

/-- A word of plain effects that come to another task `k`, with nothing on its way. -/
theorem runSlot_becomes {s : State} {sh : Shape} {es : List Effect} {k : Machine.Task} (ha : s.admits sh = true) (hc : s.calm = true)
    (hp : es.all Effect.plain = true) (he : es.foldl State.applyEffect (s.logSlot sh (.go es)) = (s.logSlot sh (.go es)).putTask s.tid k)
    (hr : k.redo = none) (hl : (k.loops.getLast?.any fun l => l.last == s.bun.pc) = false) :
    s.runSlot sh (.go es) = .next (((s.logSlot sh (.go es)).putTask s.tid ((k.issued (s.logSlot sh (.go es)).bun).bump)).tick 1) := by
  have hnow : ((s.logSlot sh (.go es)).putTask s.tid k).now = k := now_putTask (s.logSlot sh (.go es)) k
  rw [runSlot_plain ha hp he rfl rfl (calm_putTask _ _ _ (calm_congr s _ hc rfl rfl rfl rfl) hr) (by rw [hnow]; exact hl), State.passed,
    task_putTask_self, putTask_putTask]

/-- A word whose one effect puts the task at `f`, where `f` is no register: what it leads to. -/
theorem leads_becomes {s : State} {sh : Shape} {e : Effect} {k u : Machine.Task} (h : s.clear sh = true) (hp : e.plain = true)
    (he : (s.logSlot sh (.go [e])).applyEffect e = (s.logSlot sh (.go [e])).putTask s.tid k) (hf : k.flights = s.now.flights)
    (hq : k.prods = s.now.prods) (hr : k.redo = s.now.redo) (hl : (k.loops.getLast?.any fun l => l.last == s.bun.pc) = false)
    (hu : Alike (goesTo k s.bun.next) u) :
    ∃ t, s.runSlot sh (.go [e]) = .next t ∧ s.Leads t u none 0 := by
  obtain ⟨ha, hc, ⟨hf0, hp0⟩, -⟩ := (clear_iff s sh).1 h
  refine ⟨_, runSlot_becomes (es := [e]) ha hc (by simp [hp]) he (hr.trans (redo_of_calm s s.tid hc)) hl, leads_unstalled ?_ (sameWorld_passed s sh _ _)⟩
  have hk : (((s.logSlot sh (.go [e])).putTask s.tid ((k.issued (s.logSlot sh (.go [e])).bun).bump)).tick 1).task s.tid =
      (k.issued (s.logSlot sh (.go [e])).bun).bump := task_putTask_self (s.logSlot sh (.go [e])) s.tid _
  rw [hk]
  refine (follows_bump (t := k.issued (s.logSlot sh (.go [e])).bun) (hf.trans hf0) (hq.trans hp0)).of_alike ?_
  obtain ⟨hregs, hflags, hrest, hpc⟩ := hu
  exact ⟨hregs, hflags, ⟨hrest.modes, hrest.bits, hrest.store, hrest.held, hrest.place⟩, hpc⟩

end Sys2Proof.Proofs

/-! The special registers and the index bases (01 R18-R31; 04 R114, R115). -/

namespace Sys2Proof.Proofs

open Sys2Proof Sys2Proof.Machine Sys2Proof.Rules
open Host (Outcome)

/-! ### Reads -/

/-- A read of a special register that the task may make gives what the register holds. -/
theorem movsr_gives {s : State} {d : BitVec 6} {n v : Nat} (hn : n < 2 ^ 12) (h : s.clear { sw := [d.toNat] } = true)
    (hpriv : (specialHandler n && !s.now.handler) = false) (hv : s.special s.tid n = BitVec.ofNat 64 v) :
    Runs (.movsr d (BitVec.ofNat 12 n)) s fun t => s.Gives t (some (reg64 d 1 v)) 0 := by
  have hexec : exec (.movsr d (BitVec.ofNat 12 n)) s = s.runSlot { sw := [d.toNat] } (.go [resS d.toNat 1 (BitVec.ofNat 64 v)]) := by
    rw [exec_movsr, execMovsr, BitVec.toNat_ofNat, Nat.mod_eq_of_lt hn, hpriv, hv]
  rw [Runs, hexec, ← BitVec.ofInt_natCast]
  exact runSlot_result s _ (reg64 d 1 v) 0 h (Nat.le_refl 1) (isEmpty_of_clear s _ _ h (List.mem_singleton_self _))

/-- The register that a number names, of those that any task reads. -/
def ReadsSpecial (n : Nat) (f : State → Nat) : Prop :=
  n < 2 ^ 12 ∧ specialHandler n = false ∧ ∀ s : State, s.special s.tid n = BitVec.ofNat 64 (f s)

theorem readsSpecial_of_mem : ∀ e ∈ readable, ReadsSpecial e.1 e.2 := by
  simp only [readable, List.forall_mem_cons, List.not_mem_nil, false_implies, implies_true, and_true]
  refine ⟨⟨by decide, rfl, fun s => rfl⟩, ⟨by decide, rfl, fun s => rfl⟩, ⟨by decide, rfl, fun s => rfl⟩, ⟨by decide, rfl, fun s => rfl⟩,
    ⟨by decide, rfl, fun s => rfl⟩, ⟨by decide, rfl, fun s => rfl⟩, ⟨by decide, rfl, fun s => rfl⟩, ⟨by decide, rfl, fun s => rfl⟩,
    ⟨by decide, rfl, fun s => rfl⟩, ⟨by decide, rfl, fun s => rfl⟩, ⟨by decide, rfl, fun s => ?_⟩, ⟨by decide, rfl, fun s => rfl⟩,
    ⟨by decide, rfl, fun s => rfl⟩, ⟨by decide, rfl, fun s => rfl⟩, ⟨by decide, rfl, fun s => rfl⟩⟩
  exact BitVec.eq_of_toNat_eq (by
    show ((s.ns + s.fab.ftime0) % 2 ^ 64) % 2 ^ 64 = (s.ns + s.fab.ftime0) % 2 ^ 64
    exact Nat.mod_mod _ _)

theorem level_eq (t : Machine.Task) (k : Nat) (f : LoopLevel → Nat) : t.level k f = (t.loops[k]?.map f).getD 0 := by
  unfold Task.level
  cases t.loops[k]? <;> rfl

theorem special_li (s : State) {k : Nat} (hk : k < 6) : s.special s.tid (0x010 + k) = BitVec.ofNat 64 (s.now.level k LoopLevel.li) := by
  interval_cases k <;> rfl

theorem special_lc (s : State) {k : Nat} (hk : k < 6) : s.special s.tid (0x018 + k) = BitVec.ofNat 64 (s.now.level k LoopLevel.lc) := by
  interval_cases k <;> rfl

theorem special_rec8 (s : State) {k : Nat} (hk : k < 8) : s.special s.tid (0x040 + k) = BitVec.ofNat 64 (s.now.rec8.getD k 0).toNat := by
  interval_cases k <;> rfl

theorem specialHandler_of_low {n : Nat} (h : n < 0x040) : specialHandler n = false := by
  rw [specialHandler, decide_eq_false_iff_not]; omega

/-- Settles O16: each number is looked up; a level not in use reads zero. -/
theorem specialRegisterReads : Obligations.SpecialRegisterReads := by
  refine ⟨fun n f hmem s d h => ?_, fun s d k hk h => ⟨?_, ?_⟩, fun s d k hk h hh => ?_⟩
  · obtain ⟨hn, hpriv, hv⟩ := readsSpecial_of_mem (n, f) hmem
    exact movsr_gives hn h (by rw [hpriv]; rfl) (hv s)
  · exact movsr_gives (by omega) h (by rw [specialHandler_of_low (by omega)]; rfl) (by rw [special_li s hk, level_eq])
  · exact movsr_gives (by omega) h (by rw [specialHandler_of_low (by omega)]; rfl) (by rw [special_lc s hk, level_eq])
  · exact movsr_gives (by omega) h (by rw [hh, Bool.not_true, Bool.and_false]) (special_rec8 s hk)

/-! ### Writes -/

/-- A write of a writable special register is the word's one effect. -/
theorem exec_movrs_writable {n : Nat} (hn : n < 2 ^ 12) (hw : specialWritable n = true) (a : BitVec 6) (s : State) :
    exec (.movrs a (BitVec.ofNat 12 n)) s = s.runSlot { sr := [a.toNat], xw := [n] } (.go [.sr n (s.now.rs a)]) := by
  rw [exec_movrs, execMovrs, BitVec.toNat_ofNat, Nat.mod_eq_of_lt hn, hw]
  rfl

/-- A write of one of the task's own registers, given what it leaves of the task. -/
theorem movrs_leads {s : State} {a : BitVec 6} {n : Nat} {u : Machine.Task} (hn : n < 2 ^ 12) (hw : specialWritable n = true) (hc : n ≠ 0x030)
    (h : s.clear { sr := [a.toNat], xw := [n] } = true) (hu : s.now.setSpecial n (s.now.rs a) = u) (hf : u.flights = s.now.flights)
    (hp : u.prods = s.now.prods) (hr : u.redo = s.now.redo) (hl : (u.loops.getLast?.any fun l => l.last == s.bun.pc) = false) :
    Runs (.movrs a (BitVec.ofNat 12 n)) s fun t => s.Leads t (goesTo u s.bun.next) none 0 := by
  rw [Runs, exec_movrs_writable hn hw]
  refine leads_becomes h rfl ?_ hf hp hr hl (alike_refl _)
  rw [← hu]
  exact if_neg hc

/-- A number names a register of the task whose write leaves the loop levels and everything on its way alone. -/
def WritesSpecial (n : Nat) (f : Machine.Task → W64 → Machine.Task) : Prop :=
  n < 2 ^ 12 ∧ specialWritable n = true ∧ n ≠ 0x030 ∧ ∀ (t : Machine.Task) v, t.setSpecial n v = f t v ∧ (f t v).flights = t.flights ∧
    (f t v).prods = t.prods ∧ (f t v).redo = t.redo ∧ (f t v).loops = t.loops

theorem writesSpecial_of_mem : ∀ e ∈ writable, WritesSpecial e.1 e.2 := by
  simp only [writable, List.forall_mem_cons, List.not_mem_nil, false_implies, implies_true, and_true]
  exact ⟨⟨by decide, rfl, by decide, fun t v => ⟨rfl, rfl, rfl, rfl, rfl⟩⟩, ⟨by decide, rfl, by decide, fun t v => ⟨rfl, rfl, rfl, rfl, rfl⟩⟩,
    ⟨by decide, rfl, by decide, fun t v => ⟨rfl, rfl, rfl, rfl, rfl⟩⟩, ⟨by decide, rfl, by decide, fun t v => ⟨rfl, rfl, rfl, rfl, rfl⟩⟩⟩

theorem setLevel_eq (t : Machine.Task) (k : Nat) (f : LoopLevel → LoopLevel) : t.setLevel k f = { t with loops := t.loops.modify k f } := by
  unfold Task.setLevel
  cases hl : t.loops[k]? with
  | none =>
    have hle : t.loops.length ≤ k := List.getElem?_eq_none_iff.1 hl
    rw [List.modify_eq_self hle]
  | some l =>
    rw [List.modify_eq_set_getElem?, hl]
    rfl

/-- Changing a level's counters moves no loop's end. -/
theorem modify_straight {s : State} {k : Nat} {f : LoopLevel → LoopLevel} (hf : ∀ l, (f l).last = l.last)
    (h : (s.now.loops.getLast?.any fun l => l.last == s.bun.pc) = false) :
    ((s.now.loops.modify k f).getLast?.any fun l => l.last == s.bun.pc) = false := by
  rw [List.getLast?_eq_getElem?] at h ⊢
  rw [List.length_modify, List.getElem?_modify]
  cases hl : s.now.loops[s.now.loops.length - 1]? with
  | none => rfl
  | some l =>
    rw [hl] at h
    simp only [Option.map_eq_map, Option.map_some, Option.any_some] at h ⊢
    split
    · rw [hf]; exact h
    · exact h

theorem setSpecial_li (t : Machine.Task) (v : W64) {k : Nat} (hk : k < 6) :
    t.setSpecial (0x010 + k) v = { t with loops := t.loops.modify k fun l => { l with li := v.toNat } } := by
  rw [← setLevel_eq]
  interval_cases k <;> rfl

theorem setSpecial_lc (t : Machine.Task) (v : W64) {k : Nat} (hk : k < 6) :
    t.setSpecial (0x018 + k) v = { t with loops := t.loops.modify k fun l => { l with lc := v.toNat % 2 ^ 32 } } := by
  rw [← setLevel_eq]
  interval_cases k <;> rfl

theorem specialWritable_li {k : Nat} (hk : k < 6) : specialWritable (0x010 + k) = true := by interval_cases k <;> rfl

theorem specialWritable_lc {k : Nat} (hk : k < 6) : specialWritable (0x018 + k) = true := by interval_cases k <;> rfl

/-- The bits of THRCAUSE that a write leaves: those not written as ones, and those that bind (01 R29; 13 R416). -/
theorem testBit_thrcause (x y : Nat) (v : W64) {b : Nat} (hb : b < 5) :
    ((x &&& (31 - v.toNat % 32)) ||| y).testBit b = (x.testBit b && !v.getLsbD b || y.testBit b) := by
  have h31 : 31 - v.toNat % 32 = 2 ^ 5 - (v.toNat % 2 ^ 5 + 1) := by omega
  have hlt : v.toNat % 2 ^ 5 < 2 ^ 5 := Nat.mod_lt _ (by decide)
  rw [Nat.testBit_or, Nat.testBit_and, h31, Nat.testBit_two_pow_sub_succ hlt, Nat.testBit_mod_two_pow, BitVec.getLsbD]
  simp [hb]

theorem core_putCore (s : State) (c d : Nat) (k : Machine.Core) : (s.putCore c k).core d = if d = c then k else s.core d := by
  by_cases h : d = c
  · rw [if_pos h, h, core_putCore_self]
  · rw [if_neg h, core_putCore_ne s c d k h]

/-- A core that runs the same task keeps the task that is current. -/
theorem tid_putCore (s : State) {c : Nat} {k : Machine.Core} (h : k.cur = (s.core c).cur) : (s.putCore c k).tid = s.tid := by
  show ((s.putCore c k).core s.cur).cur = (s.core s.cur).cur
  rw [core_putCore]
  split
  · next hc => rw [h, hc]
  · rfl

/-- A write of THRCAUSE changes the core's register and nothing else. -/
theorem movrs_thrcause {s : State} {a : BitVec 6} (h : s.clear { sr := [a.toNat], xw := [0x030] } = true) :
    ∃ t, exec (.movrs a 0x030) s = .next t ∧ s.SameWorld { t with cores := s.cores } ∧ Follows (t.task s.tid) (goesTo s.now s.bun.next) none ∧
      ∀ c, t.core c = if c = s.now.core then { s.core s.now.core with
        thrcause := ((s.core s.now.core).thrcause &&& (31 - (s.now.rs a).toNat % 32)) ||| (s.die (dieOf s.now.core)).bound } else s.core c := by
  obtain ⟨-, -, ⟨hf, hp⟩, hl⟩ := (clear_iff s _).1 h
  have hready : s.ready { sr := [a.toNat], xw := [0x030] } = true := by
    obtain ⟨ha, hc, -, -⟩ := (clear_iff s _).1 h
    exact (ready_iff s _).2 ⟨ha, hc, hl⟩
  let k : Machine.Core := { s.core s.now.core with
        thrcause := ((s.core s.now.core).thrcause &&& (31 - (s.now.rs a).toNat % 32)) ||| (s.die (dieOf s.now.core)).bound }
  refine ⟨_, (exec_movrs_writable (n := 0x030) (by decide) rfl a s).trans
    (runSlot_cores (tabPut s.cores s.now.core k) hready rfl rfl rfl (tid_putCore s rfl)), ?_, ?_, fun c => core_putCore s s.now.core c k⟩
  · exact sameWorld_passed s _ _ _
  · let v : State := { s.logSlot { sr := [a.toNat], xw := [0x030] } (.go [.sr 0x030 (s.now.rs a)]) with cores := tabPut s.cores s.now.core k }
    exact follows_passed (v := v) (n := s.tid) (b := s.bun) hf hp

/-- Settles O17: a task's register is written at the commit; THRCAUSE stands with the core. -/
theorem specialRegisterWrites : Obligations.SpecialRegisterWrites := by
  refine ⟨fun n f hmem s a h => ?_, fun s a k hk => ⟨fun h => ?_, fun h => ?_⟩, fun s a h => ?_⟩
  · obtain ⟨hn, hw, hc, hf⟩ := writesSpecial_of_mem (n, f) hmem
    obtain ⟨hset, hflights, hprods, hredo, hloops⟩ := hf s.now (s.now.rs a)
    exact movrs_leads hn hw hc h hset hflights hprods hredo (by rw [hloops]; exact ((clear_iff s _).1 h).2.2.2)
  · exact movrs_leads (by omega) (specialWritable_li hk) (by omega) h (setSpecial_li _ _ hk) rfl rfl rfl
      (modify_straight (fun _ => rfl) ((clear_iff s _).1 h).2.2.2)
  · exact movrs_leads (by omega) (specialWritable_lc hk) (by omega) h (setSpecial_lc _ _ hk) rfl rfl rfl
      (modify_straight (fun _ => rfl) ((clear_iff s _).1 h).2.2.2)
  · obtain ⟨t, hexec, hworld, hfollows, hcores⟩ := movrs_thrcause h
    have hown := (hcores s.now.core).trans (if_pos rfl)
    refine ⟨t, hexec, fun b hb => ?_, fun c hc => (hcores c).trans (if_neg hc), ?_, hworld, ?_, ?_⟩
    · rw [hown]; exact testBit_thrcause _ _ _ hb
    · rw [hown]
    · exact ⟨hfollows.rest.modes, hfollows.rest.bits, hfollows.rest.store, hfollows.rest.held, hfollows.rest.place⟩
    · intro j
      exact sameRegs_trans (hfollows.regs j) (sameRegs_of _ _ rfl rfl rfl rfl rfl)

/-! ### Index bases -/

theorem and127_eq_mod (n : Nat) : n &&& 127 = n % 128 := Nat.and_two_pow_sub_one_eq_mod n 7

theorem ofInt512_index (x : W64) (i : BitVec 14) :
    BitVec.ofInt 512 (((x.toNat : Int) + i.toInt) % 128) = (x + imm64 i).setWidth 512 &&& 127 := by
  have himm := toNat_imm64 i
  have hmod : ((x.toNat : Int) + i.toInt) % 128 = ((x + imm64 i).toNat % 128 : Nat) := by
    rw [BitVec.toNat_add]
    omega
  have hand : (x + imm64 i).setWidth 512 &&& 127 = BitVec.ofNat 512 ((x + imm64 i).toNat % 128) := by
    rw [← and127_eq_mod, BitVec.ofNat_and, BitVec.ofNat_toNat]
    rfl
  rw [hmod, hand, BitVec.ofInt_natCast]

/-- Settles O18: the base is a result of offset 2. -/
theorem indexBasesAreSeenTwoBundlesLater : Obligations.IndexBasesAreSeenTwoBundlesLater := by
  intro s k a i h
  let r : Res := { dst := .ib k.toNat, off := 2, val := BitVec.ofInt 512 (((s.now.rs a).toNat + i.toInt) % 128) }
  have hexec : exec (.ibset k a i) s = s.runSlot { sr := [a.toNat], ib := [k.toNat] } (.go [.wr r.dst r.off r.val r.mask]) := by
    rw [exec_ibset, execIbset, ← ofInt512_index]
  rw [Runs, hexec]
  exact runSlot_result s _ r 0 h (show 1 ≤ 2 by decide) rfl

end Sys2Proof.Proofs

/-! Control transfers and hardware loops: what step 3 of 04 R103 makes of the task and its core (01 R25-R27; 04 R117-R123). -/

namespace Sys2Proof.Machine

open Host (Outcome)

/-- Effects that act where they stand, transfer, push a level, or answer a closure: none ends its bundle or comes after the others. -/
def Effect.moving (e : Effect) : Bool := e.plain || e.moves || e.guarded.isSome

/-- The commit of moving effects: they act in turn, control follows, and the task moves on. -/
theorem commit_moving (s : State) (es : List Effect) (h : es.all Effect.moving = true) :
    let u := (es.foldl State.applyEffect s).control es
    s.commit es = (u.putTask s.tid (u.task s.tid).bump).tick 1 := by
  have hall : ∀ e ∈ es, e.isFlags = false ∧ e.isRemote = false ∧ e.isAllot = false ∧ e.trapped = none ∧ e.disposed = none ∧
      e.allotted = none ∧ e ≠ .endTask ∧ e ≠ .yield := fun e he => by
    have hm := List.all_eq_true.1 h e he
    cases e <;> first | exact Bool.noConfusion hm | exact ⟨rfl, rfl, rfl, rfl, rfl, rfl, nofun, nofun⟩
  have hfirst : es.filter (fun e => !e.isFlags && !e.isRemote && !e.isAllot) = es :=
    List.filter_eq_self.2 fun e he => by obtain ⟨h1, h2, h3, -⟩ := hall e he; rw [h1, h2, h3]; rfl
  have hflags : es.filter Effect.isFlags = [] := List.filter_eq_nil_iff.2 fun e he => by rw [(hall e he).1]; decide
  have hremote : es.filter Effect.isRemote = [] := List.filter_eq_nil_iff.2 fun e he => by rw [(hall e he).2.1]; decide
  have htrap : findEff es Effect.trapped = none := findEff_none _ _ fun e he => (hall e he).2.2.2.1
  have hdispose : findEff es Effect.disposed = none := findEff_none _ _ fun e he => (hall e he).2.2.2.2.1
  have hallot : es.findSome? Effect.allotted = none := findEff_none _ _ fun e he => (hall e he).2.2.2.2.2.1
  have hend : es.contains .endTask = false := by
    rw [List.contains_eq_mem, decide_eq_false_iff_not]; exact fun he => (hall _ he).2.2.2.2.2.2.1 rfl
  have hyield : es.contains .yield = false := by
    rw [List.contains_eq_mem, decide_eq_false_iff_not]; exact fun he => (hall _ he).2.2.2.2.2.2.2 rfl
  unfold State.commit
  simp only [hfirst, hflags, hremote, List.foldl_nil, State.reallot, hallot, State.finish, htrap, hdispose, hend, hyield]
  rfl

/-- A taken transfer's stall is paid where it is one. -/
def State.pays (s : State) (b : Bool) : State := if b then s.stallFor s.bun.idle else s

theorem pays_eq (s : State) (b : Bool) : ∃ cs, s.pays b = { s with cores := cs } := by
  cases b
  · exact ⟨s.cores, rfl⟩
  · exact ⟨_, rfl⟩

theorem control_lexit {u : State} {es : List Effect} {p : Nat} (h : findEff es Effect.lexitTo = some p) :
    u.control es = (u.putTask u.tid { (u.now.issued u.bun).popLevel with pc := p }).pays true := by
  unfold State.control
  simp only [h, now_putTask, putTask_putTask]
  rfl

theorem control_jump {u : State} {es : List Effect} {p : Nat} (h0 : findEff es Effect.lexitTo = none) (h : findEff es Effect.jumpTo = some p) :
    u.control es = (u.putTask u.tid { u.now.issued u.bun with pc := p }).pays true := by
  unfold State.control
  simp only [h0, h, now_putTask, putTask_putTask]
  rfl

theorem control_push {u : State} {es : List Effect} {l : LoopLevel} (h0 : findEff es Effect.lexitTo = none)
    (h1 : findEff es Effect.jumpTo = none) (h : findEff es Effect.pushed = some l) :
    u.control es = (u.putTask u.tid ((u.now.issued u.bun).pushLevel l)).pays false := by
  unfold State.control
  simp only [h0, h1, h, now_putTask, putTask_putTask]
  rfl

theorem control_close {u : State} {es : List Effect} (h0 : findEff es Effect.lexitTo = none) (h1 : findEff es Effect.jumpTo = none)
    (h2 : findEff es Effect.pushed = none) (hl : (u.now.loops.getLast?.any fun l => l.last == u.bun.pc) = true) :
    let r := (u.now.issued u.bun).closeLevel ((findEff es Effect.guarded).getD true)
    u.control es = (u.putTask u.tid r.1).pays (r.2 && (findEff es Effect.guarded).isSome) := by
  have hl' : ((u.now.issued u.bun).loops.getLast?.any fun l => l.last == u.bun.pc) = true := hl
  unfold State.control
  simp only [h0, h1, h2, now_putTask, putTask_putTask, hl', if_true]
  rfl

end Sys2Proof.Machine

namespace Sys2Proof.Proofs

open Sys2Proof Sys2Proof.Machine Sys2Proof.Rules
open Host (Outcome)

/-! ### A word that moves its task -/

theorem able_iff (s : State) (sh : Shape) : s.able sh = true ↔ s.admits sh = true ∧ s.calm = true ∧ s.now.flights = [] ∧ s.now.prods = [] := by
  simp [State.able, State.quiet, and_assoc]

/-- A word whose control moves its task to `k`: what it leads to. -/
theorem runSlot_moving {s : State} {sh : Shape} {es : List Effect} {k u : Machine.Task} {r : Option Res} {b : Bool} (h : s.able sh = true)
    (hm : es.all Effect.moving = true)
    (hctl : (es.foldl State.applyEffect (s.logSlot sh (.go es))).control es = ((s.logSlot sh (.go es)).putTask s.tid k).pays b)
    (hr : k.redo = s.now.redo) (hcore : k.core = s.now.core) (hf : Follows k.bump u r) :
    ∃ t, s.runSlot sh (.go es) = .next t ∧ s.Leads t u r (if b then stallOf s else 0) := by
  obtain ⟨ha, hc, -⟩ := (able_iff s sh).1 h
  have hshrink : s.now.shrinkAwaits [{ slot := s.bun.slot, shape := sh, out := .go es }] = [] := by
    refine shrinkAwaits_none _ _ _ _ fun e hmem => ?_
    have hme := List.all_eq_true.1 hm e hmem
    cases e <;> first | rfl | exact Bool.noConfusion hme
  let v := s.logSlot sh (.go es)
  let w : State := (((v.putTask s.tid k).pays b).putTask s.tid k.bump).tick 1
  obtain ⟨cs, hcs⟩ := pays_eq (v.putTask s.tid k) b
  have hw : w = { (v.putTask s.tid k.bump).tick 1 with cores := cs } := by
    show (((v.putTask s.tid k).pays b).putTask s.tid k.bump).tick 1 = _
    rw [hcs, ← putTask_putTask v s.tid k k.bump]
    rfl
  have hcommit : v.commit es = w := by
    have hput : (((v.putTask s.tid k).pays b).task s.tid) = k := by rw [hcs]; exact task_putTask_self v s.tid k
    rw [commit_moving v es hm, hctl]
    show (((v.putTask s.tid k).pays b).putTask s.tid (((v.putTask s.tid k).pays b).task s.tid).bump).tick 1 = w
    rw [hput]
  have hredo : k.bump.redo = none := (bump_redo _).trans (hr.trans (redo_of_calm s s.tid hc))
  have hcalm : w.calm = true := by
    rw [hw]
    exact calm_congr _ _ (calm_putTask v s.tid k.bump (calm_congr s v hc rfl rfl rfl rfl) hredo) rfl rfl rfl rfl
  have htask : w.task s.tid = k.bump := task_putTask_self ((v.putTask s.tid k).pays b) s.tid k.bump
  refine ⟨w, ?_, leads_of_follows (by rw [htask]; exact hf) ?_ ?_⟩
  · rw [runSlot_go s sh es ha hshrink]
    exact congrArg Outcome.next ((congrArg State.settle hcommit).trans (settle_of_calm w hcalm))
  · intro c
    cases b with
    | false =>
      show s.core c = _
      split <;> rfl
    | true =>
      have hnow : (v.putTask s.tid k).now = k := now_putTask v k
      show (State.putCore (v.putTask s.tid k) (v.putTask s.tid k).now.core _).core c = _
      rw [core_putCore, hnow, hcore]
      split
      · next hcs => rw [hcs]; rfl
      · rfl
  · rw [hw]
    exact sameWorld_passed s sh (.go es) k.bump

end Sys2Proof.Proofs

/-! Branches, jumps and loops (01 R25-R27; 04 R117-R123). -/

namespace Sys2Proof.Proofs

open Sys2Proof Sys2Proof.Machine Sys2Proof.Rules
open Host (Outcome)

/-! ### Transfers (04 R117-R119, R123) -/

theorem able_of_clear {s : State} {sh : Shape} (h : s.clear sh = true) : s.able sh = true := by
  obtain ⟨ha, hc, ⟨hf, hp⟩, -⟩ := (clear_iff s sh).1 h
  exact (able_iff s sh).2 ⟨ha, hc, hf, hp⟩

theorem dispTarget_eq (s : State) (i : BitVec 22) : s.dispTarget i = reaches s i := by
  have himm := toNat_imm64 i
  have hsum : ((s.dispTarget i : Nat) : Int) = ((s.bun.pc : Int) + i.toInt) % 2 ^ 64 := by
    rw [State.dispTarget, BitVec.toNat_add, BitVec.toNat_ofNat]
    omega
  rw [reaches, ← hsum, Int.toNat_natCast]

theorem alike_jump (t : Machine.Task) (b : Bundle) (p : Nat) : Alike { t.issued b with pc := p } (goesTo t p) :=
  ⟨⟨rfl, rfl, rfl, rfl, rfl⟩, rfl, ⟨⟨rfl, rfl, rfl, rfl, rfl⟩, ⟨rfl, rfl, rfl, rfl⟩, ⟨rfl, rfl, rfl, rfl⟩, ⟨rfl, rfl, rfl, rfl, rfl⟩,
    ⟨rfl, rfl, rfl, rfl, rfl, rfl⟩⟩, rfl⟩

/-- A taken transfer that writes nothing. -/
theorem runSlot_jump {s : State} {sh : Shape} {p : Nat} (h : s.able sh = true) :
    ∃ t, s.runSlot sh (.go [.jump p]) = .next t ∧ s.Leads t (goesTo s.now p) none (stallOf s) := by
  obtain ⟨-, -, hf, hp⟩ := (able_iff s sh).1 h
  exact runSlot_moving (b := true) h rfl (control_jump rfl rfl) rfl rfl
    ((follows_bump (t := { s.now.issued (s.logSlot sh (.go [.jump p])).bun with pc := p }) hf hp).of_alike (alike_jump _ _ _))

theorem launch_goesTo (t : Machine.Task) (p : Nat) (r : Res) :
    ({ t.launch r.dst r.off r.val r.mask with pc := p } : Machine.Task) = ({ t with pc := p } : Machine.Task).launch r.dst r.off r.val r.mask := by
  unfold Task.launch
  split <;> rfl

theorem launch_kept (t : Machine.Task) (d : Dest) (off : Nat) (v : VReg) (m : BitVec 16) :
    (t.launch d off v m).redo = t.redo ∧ (t.launch d off v m).core = t.core := by
  unfold Task.launch
  split <;> exact ⟨rfl, rfl⟩

/-- A taken transfer that links. -/
theorem runSlot_link {s : State} {sh : Shape} {p : Nat} (h : s.able sh = true) (hd : 63 ∈ sh.sw) :
    ∃ t, s.runSlot sh (.go [s.linkEffect, .jump p]) = .next t ∧ s.Leads t (goesTo s.now p) (some (linked s)) (stallOf s) := by
  obtain ⟨ha, -, hf, hp⟩ := (able_iff s sh).1 h
  have hfull : s.now.isEmpty (linked s).dst = false := by
    obtain ⟨-, -, -, -, -, -, -, -, -, -, -, -, hw⟩ := (admits_iff s sh).1 ha
    exact hw (.s 63) (List.mem_append_left _ (List.mem_map_of_mem hd))
  have hlink : s.linkEffect = .wr (linked s).dst (linked s).off (linked s).val (linked s).mask := by
    show Effect.wr _ _ ((BitVec.ofNat 64 s.bun.next).setWidth 512) _ = .wr _ _ ((BitVec.ofInt 64 (s.bun.next : Int)).setWidth 512) _
    rw [BitVec.ofInt_natCast]
    rfl
  rw [hlink]
  let v := s.logSlot sh (.go [.wr (linked s).dst (linked s).off (linked s).val (linked s).mask, .jump p])
  let k : Machine.Task := { s.now.issued v.bun with pc := p }
  have hctl : State.control (v.putTask s.tid (s.now.launch (linked s).dst (linked s).off (linked s).val (linked s).mask))
      [.wr (linked s).dst (linked s).off (linked s).val (linked s).mask, .jump p] =
      (v.putTask s.tid (k.launch (linked s).dst (linked s).off (linked s).val (linked s).mask)).pays true := by
    refine (control_jump rfl rfl).trans ?_
    have hnow : (v.putTask s.tid (s.now.launch (linked s).dst (linked s).off (linked s).val (linked s).mask)).now =
      s.now.launch (linked s).dst (linked s).off (linked s).val (linked s).mask := now_putTask v _
    rw [hnow]
    show State.pays ((v.putTask s.tid _).putTask s.tid _) true = _
    rw [putTask_putTask, launch_issued, launch_goesTo]
    rfl
  obtain ⟨hredo, hcore⟩ := launch_kept k (linked s).dst (linked s).off (linked s).val (linked s).mask
  exact runSlot_moving (b := true) h rfl hctl hredo hcore
    ((follows_launch (t := k) (r := linked s) hf hp (Nat.le_add_right 1 _) hfull).of_alike (alike_jump _ _ _))

/-- Settles O20: control takes the target in place of the closure; the link leaves before it. -/
theorem takenTransfersReachTarget : Obligations.TakenTransfersReachTarget := by
  refine ⟨fun s p i hon h => ?_, fun s p i hon h => ?_, fun s a p hon h => ?_, fun s a p hon h => ?_⟩ <;> rw [Runs]
  · rw [exec_br, execBr, if_pos (show s.now.bit0 p = true from hon), dispTarget_eq]
    exact runSlot_jump h
  · rw [exec_brl, execBrl, if_pos (show s.now.bit0 p = true from hon), dispTarget_eq]
    exact runSlot_link h (List.mem_singleton_self 63)
  · rw [exec_jr, execJr, if_pos (show s.now.bit0 p = true from hon)]
    exact runSlot_jump h
  · rw [exec_jrl, execJrl, if_pos (show s.now.bit0 p = true from hon)]
    exact runSlot_link h (List.mem_singleton_self 63)

/-- Settles O21: a word that is not taken comes to no effect. -/
theorem untakenTransfersGoOn : Obligations.UntakenTransfersGoOn := by
  have hno : ∀ {s : State} {p : BitVec 4}, on s.now p = false → ¬ s.now.bit0 p = true := fun h => by rw [Bool.not_eq_true]; exact h
  refine ⟨fun s p i hon h => ?_, fun s p i hon h => ?_, fun s a p hon h => ?_, fun s a p hon h => ?_, fun s p i hon hl h => ?_, fun s h => ?_⟩ <;>
    rw [Runs]
  · rw [exec_br, execBr, if_neg (hno hon)]
    exact runSlot_nothing s _ 0 h
  · rw [exec_brl, execBrl, if_neg (hno hon)]
    exact runSlot_nothing s _ 0 h
  · rw [exec_jr, execJr, if_neg (hno hon)]
    exact runSlot_nothing s _ 0 h
  · rw [exec_jrl, execJrl, if_neg (hno hon)]
    exact runSlot_nothing s _ 0 h
  · have hexec : exec (.lexit p i) s = s.runSlot {} (.go []) := by
      have hbit : s.now.bit0 p = false := hon
      have hloops : s.now.loops.isEmpty = false := by simpa using hl
      rw [exec_lexit, execLexit, hbit, hloops]
      rfl
    rw [hexec]
    exact runSlot_nothing s _ 0 h
  · exact runSlot_nothing s _ 0 h

/-! ### Stage predicates -/

/-- The predicates with the stages of a loop written from its mask (01 R22). -/
def stagePreds (ps : Tab (BitVec 16)) (n mask : Nat) : Tab (BitVec 16) :=
  (List.range n).foldl (fun ps j => tabPut ps (8 + j) (if mask.testBit j then 0xFFFF else 0)) ps

theorem foldl_stages {f : Machine.Task → Nat → Machine.Task} {g : Tab (BitVec 16) → Nat → Tab (BitVec 16)}
    (h : ∀ (t : Machine.Task) j, t.flights = [] → f t j = { t with preds := g t.preds j }) (l : List Nat) :
    ∀ t : Machine.Task, t.flights = [] → l.foldl f t = { t with preds := l.foldl g t.preds } := by
  induction l with
  | nil => exact fun t _ => rfl
  | cons j l ih =>
    intro t ht
    rw [List.foldl_cons, List.foldl_cons, h t j ht, ih { t with preds := g t.preds j } ht]

theorem putP_stage (t : Machine.Task) (j : Nat) (v : BitVec 16) : t.putP (8 + j) v = { t with preds := tabPut t.preds (8 + j) v } :=
  if_neg (by omega)

theorem stagesOf_eq {t : Machine.Task} (hf : t.flights = []) (n mask : Nat) : stagesOf t n mask = { t with preds := stagePreds t.preds n mask } :=
  foldl_stages (g := fun ps j => tabPut ps (8 + j) (if mask.testBit j then 0xFFFF else 0)) (fun t j _ => putP_stage t j _) _ t hf

theorem setStage_eq {t : Machine.Task} (hf : t.flights = []) (j : Nat) (b : Bool) :
    t.setStage (8 + j) b = { t with preds := tabPut t.preds (8 + j) (allOnes b) } := by
  unfold Task.setStage
  rw [putP_stage, hf]
  show ({ t with flights := [], preds := _ } : Machine.Task) = _
  rw [← hf]

/-- With no result on its way, the model writes the stages as the rule says. -/
theorem setStages_eq {t : Machine.Task} (hf : t.flights = []) (n mask : Nat) : t.setStages n mask = stagesOf t n mask := by
  rw [stagesOf_eq hf]
  refine foldl_stages (g := fun ps j => tabPut ps (8 + j) (if mask.testBit j then 0xFFFF else 0)) (fun t j ht => ?_) _ t hf
  have hbit : (mask / 2 ^ j % 2 == 1) = mask.testBit j := by rw [Nat.testBit_eq_decide_div_mod_eq]; rfl
  rw [setStage_eq ht, hbit]
  rfl

end Sys2Proof.Proofs

/-! Hardware loops: the push, the closure and the exit of a level (01 R25-R27; 04 R121-R123). -/

namespace Sys2Proof.Proofs

open Sys2Proof Sys2Proof.Machine Sys2Proof.Rules
open Host (Outcome)

/-! ### Opening a level -/

/-- What a LOOP or LOOPR comes to once its checks have passed. -/
theorem loopOut_eq {s : State} {a : BitVec 6} {i : BitVec 16} {ws : List Nat} (stages : Nat) (rot : Bool) (hd : s.now.loops.length < 6)
    (hw : s.fetch s.now (s.bun.pc + i.toNat) = .ok ws) (hh : isHeader ws ((s.bun.pc + i.toNat) % 16) = true)
    (hn : ∀ l, s.now.loops.getLast? = some l → s.bun.pc + i.toNat < l.last) :
    s.loopOut a stages rot i = if (s.now.rs a).toNat % 2 ^ 32 = 0 then .go [.jump (nextBundle ws (s.bun.pc + i.toNat))]
      else .go [.push (opened s (s.bun.pc + i.toNat) ((s.now.rs a).toNat % 2 ^ 32) stages rot)] := by
  have hnest : (s.now.loops.getLast?.any fun l => decide (l.last ≤ s.bun.pc + i.toNat)) = false := by
    cases hl : s.now.loops.getLast? with
    | none => rfl
    | some l => exact decide_eq_false (by have := hn l hl; omega)
  unfold State.loopOut
  simp only [if_neg (Nat.ne_of_lt hd), hw, hh, hnest, Bool.not_true]
  rfl

theorem pushLevel_eq {t : Machine.Task} (hf : t.flights = []) {l : LoopLevel} (hm : l.rot = true → l.mask = 1) : t.pushLevel l = pushes t l := by
  unfold Task.pushLevel pushes
  by_cases hr : l.rot = true
  · simp only [if_pos hr]
    rw [setStages_eq (t := { t with loops := t.loops ++ [l] }) hf, hm hr]
  · simp only [if_neg hr]

/-- A push, given as an update of the task. -/
theorem pushes_eq {t : Machine.Task} (hf : t.flights = []) (l : LoopLevel) :
    pushes t l = { t with loops := t.loops ++ [l], preds := if l.rot then stagePreds t.preds l.s 1 else t.preds } := by
  unfold pushes
  by_cases hr : l.rot = true
  · simp only [if_pos hr]
    rw [stagesOf_eq (t := { t with loops := t.loops ++ [l] }) hf]
  · simp only [if_neg hr]

/-- Settles O22: the checks pass; a count of zero is a taken transfer, any other is a push. -/
theorem loopsOpenOneLevel : Obligations.LoopsOpenOneLevel := by
  intro s a st i rot ws h hd last hw hh hn op n
  obtain ⟨-, -, hf, hp⟩ := (able_iff s _).1 h
  have hop : exec op s = s.runSlot { sr := [a.toNat] } (s.loopOut a (if rot then st.toNat else 1) rot i) := by
    cases rot <;> rfl
  have hout := loopOut_eq (a := a) (if rot then st.toNat else 1) rot hd hw hh hn
  refine ⟨fun h0 => ?_, fun h0 => ?_⟩ <;> rw [Runs, hop, hout]
  · rw [if_pos h0]
    exact runSlot_jump h
  · rw [if_neg h0]
    let l := opened s last n (if rot then st.toNat else 1) rot
    let b := (s.logSlot { sr := [a.toNat] } (.go [.push l])).bun
    have hm : l.rot = true → l.mask = 1 := fun hr => if_pos hr
    have hk : (s.now.issued b).pushLevel l =
        { s.now.issued b with loops := s.now.loops ++ [l], preds := if l.rot then stagePreds s.now.preds l.s 1 else s.now.preds } :=
      (pushLevel_eq (t := s.now.issued b) hf hm).trans (pushes_eq (t := s.now.issued b) hf l)
    refine runSlot_moving (b := false) h rfl (control_push rfl rfl rfl) ((congrArg Task.redo hk).trans rfl) ((congrArg Task.core hk).trans rfl) ?_
    refine (follows_bump ((congrArg Task.flights hk).trans hf) ((congrArg Task.prods hk).trans hp)).of_alike ?_
    show Alike ((s.now.issued b).pushLevel l) _
    rw [hk, pushes_eq hf]
    exact ⟨⟨rfl, rfl, rfl, rfl, rfl⟩, rfl, ⟨⟨rfl, rfl, rfl, rfl, rfl⟩, ⟨rfl, rfl, rfl, rfl⟩, ⟨rfl, rfl, rfl, rfl⟩, ⟨rfl, rfl, rfl, rfl, rfl⟩,
      ⟨rfl, rfl, rfl, rfl, rfl, rfl⟩⟩, rfl⟩

/-! ### Closing a level -/

/-- Another iteration starts (01 R27). -/
def starts (l : LoopLevel) (go : Bool) : Bool := go && decide (1 < l.lc)
/-- The stage mask that the closure leaves (01 R27). -/
def maskAfter (l : LoopLevel) (go : Bool) : Nat := if l.rot then (2 * l.mask + if starts l go then 1 else 0) % 2 ^ l.s else 0
/-- The level goes on (01 R27). -/
def goesOn (l : LoopLevel) (go : Bool) : Bool := if l.rot then decide (maskAfter l go ≠ 0) else starts l go
/-- The level that goes on. -/
def levelAfter (l : LoopLevel) (go : Bool) : LoopLevel :=
  { l with li := (l.li + 1) % 2 ^ 64, lc := if starts l go then l.lc - 1 else 0, mask := maskAfter l go }
/-- The task `t` with its top level `l` closed, going on at `next` where the level ends. -/
def closed (t : Machine.Task) (l : LoopLevel) (go : Bool) (next : Nat) : Machine.Task :=
  { t with
    loops := t.loops.dropLast ++ if goesOn l go then [levelAfter l go] else []
    pc := if goesOn l go then l.first else next
    rotBase := if l.rot then rotReduce (t.rotBase + 1) t.rotSize else t.rotBase
    preds := if l.rot then stagePreds t.preds l.s (maskAfter l go) else t.preds }

theorem closes_eq {s : State} {t : Machine.Task} (hf : t.flights = []) (l : LoopLevel) (go : Bool) : closes s t l go = closed t l go s.bun.next := by
  unfold closes closed
  by_cases hr : l.rot = true
  · simp only [if_pos hr]
    rw [stagesOf_eq (t := { t with rotBase := if t.rotSize = 0 then 0 else (t.rotBase + 1) % t.rotSize }) hf]
    simp only [goesOn, levelAfter, maskAfter, if_pos hr]
    rfl
  · simp only [if_neg hr, goesOn, levelAfter, maskAfter]
    rfl

theorem closeLevel_eq {t : Machine.Task} {l : LoopLevel} (hf : t.flights = []) (hl : t.loops.getLast? = some l) (go : Bool) :
    t.closeLevel go = (closed t l go t.pc, goesOn l go) := by
  have hb : b2n (starts l go) = if starts l go = true then 1 else 0 := by cases starts l go <;> rfl
  have hmask : (if l.rot then (2 * l.mask + b2n (starts l go)) % 2 ^ l.s else 0) = maskAfter l go := by rw [hb, maskAfter]
  have hlive : (if l.rot then maskAfter l go != 0 else starts l go) = goesOn l go := by
    rw [goesOn]
    split
    · exact (decide_not (p := maskAfter l go = 0)).symm
    · rfl
  have hstages : t.advance.setStages l.s (maskAfter l go) = { t.advance with preds := stagePreds t.preds l.s (maskAfter l go) } :=
    (setStages_eq (t := t.advance) hf _ _).trans (stagesOf_eq (t := t.advance) hf _ _)
  unfold Task.closeLevel
  simp only [hl]
  rw [show (go && decide (1 < l.lc)) = starts l go from rfl, hmask, hlive, hstages]
  unfold closed
  by_cases hr : l.rot = true <;> cases hg : goesOn l go <;>
    simp [hr, levelAfter, Task.popLevel, Task.advance]

theorem alike_closed (s : State) (t : Machine.Task) (b : Bundle) (l : LoopLevel) (go : Bool) :
    Alike (closed (t.issued b) l go s.bun.next) (closed t l go s.bun.next) :=
  ⟨⟨rfl, rfl, rfl, rfl, rfl⟩, rfl, ⟨⟨rfl, rfl, rfl, rfl, rfl⟩, ⟨rfl, rfl, rfl, rfl⟩, ⟨rfl, rfl, rfl, rfl⟩, ⟨rfl, rfl, rfl, rfl, rfl⟩,
    ⟨rfl, rfl, rfl, rfl, rfl, rfl⟩⟩, rfl⟩

/-- A word at the end of its loop's body closes the level; an answer of its own to the closure makes the way back a transfer. -/
theorem runSlot_close {s : State} {sh : Shape} {es : List Effect} {l : LoopLevel} {go : Option Bool} (h : s.able sh = true)
    (hm : es.all Effect.moving = true) (he : es.foldl State.applyEffect (s.logSlot sh (.go es)) = s.logSlot sh (.go es))
    (h0 : findEff es Effect.lexitTo = none) (h1 : findEff es Effect.jumpTo = none) (h2 : findEff es Effect.pushed = none)
    (h3 : findEff es Effect.guarded = go) (hl : s.now.loops.getLast? = some l) (hpc : l.last = s.bun.pc) :
    ∃ t, s.runSlot sh (.go es) = .next t ∧
      s.Leads t (closes s s.now l (go.getD true)) none (if goesOn l (go.getD true) && go.isSome then stallOf s else 0) := by
  obtain ⟨-, -, hf, hp⟩ := (able_iff s sh).1 h
  have hend : (s.now.loops.getLast?.any fun x => x.last == s.bun.pc) = true := by
    rw [hl]; exact beq_iff_eq.2 hpc
  let b := (s.logSlot sh (.go es)).bun
  have hclose : (s.now.issued b).closeLevel (go.getD true) = (closed (s.now.issued b) l (go.getD true) s.bun.next, goesOn l (go.getD true)) :=
    closeLevel_eq (t := s.now.issued b) hf hl _
  have hctl := control_close (u := s.logSlot sh (.go es)) h0 h1 h2 hend
  rw [h3] at hctl
  refine runSlot_moving (k := closed (s.now.issued b) l (go.getD true) s.bun.next) h hm (by rw [he]; exact hctl.trans (by
    show State.pays (State.putTask _ _ ((s.now.issued b).closeLevel (go.getD true)).1) (((s.now.issued b).closeLevel (go.getD true)).2 && _) = _
    rw [hclose]
    rfl)) rfl rfl ?_
  rw [closes_eq hf]
  exact (follows_bump (t := closed (s.now.issued b) l (go.getD true) s.bun.next) hf hp).of_alike (alike_closed s s.now b l _)

/-- The level goes on exactly where the closure leaves as many levels. -/
theorem goesOn_iff_length {s : State} {l : LoopLevel} (go : Bool) (hf : s.now.flights = []) (hl : s.now.loops.getLast? = some l) :
    goesOn l go = true ↔ (closes s s.now l go).loops.length = s.now.loops.length := by
  have hne : s.now.loops ≠ [] := fun h => by rw [h] at hl; exact nomatch hl
  have hpos : 0 < s.now.loops.length := List.length_pos_iff.2 hne
  rw [closes_eq hf]
  show _ ↔ (s.now.loops.dropLast ++ _).length = _
  rw [List.length_append, List.length_dropLast]
  cases goesOn l go
  · simp; omega
  · simp; omega

/-- Settles O23: a closure answers `go` itself, or is answered by BRTOP; LEXIT takes the closure's place. -/
theorem loopsCloseOneLevel : Obligations.LoopsCloseOneLevel := by
  refine ⟨fun s l h hl hpc => ?_, fun s l p i h hl hpc hrot hback => ?_, fun s p i hon hne h => ?_⟩
  · have hclose := runSlot_close (es := []) (go := none) h rfl rfl rfl rfl rfl rfl hl hpc
    rw [Option.isSome_none, Bool.and_false] at hclose
    exact hclose
  · have hexec : exec (.brtop p i) s = s.runSlot {} (.go [.go (on s.now p)]) := by
      rw [exec_brtop, execBrtop, hl]
      simp only [hrot, hpc, BEq.rfl, Bool.and_self, if_true]
      rw [if_pos ((dispTarget_eq s i).trans hback)]
      rfl
    obtain ⟨-, -, hf, -⟩ := (able_iff s _).1 h
    have hclose := runSlot_close (es := [.go (on s.now p)]) (go := some (on s.now p)) h rfl rfl rfl rfl rfl rfl hl hpc
    rw [Runs, hexec]
    simp only [Option.getD_some, Option.isSome_some, Bool.and_true, goesOn_iff_length _ hf hl] at hclose
    exact hclose
  · have hexec : exec (.lexit p i) s = s.runSlot { target := some (reaches s i) } (.go [.lexit (reaches s i)]) := by
      have hbit : s.now.bit0 p = true := hon
      have hloops : s.now.loops.isEmpty = false := by simpa using hne
      rw [exec_lexit, execLexit, hbit, hloops, dispTarget_eq]
      rfl
    obtain ⟨-, -, hf, hp⟩ := (able_iff s _).1 h
    let b := (s.logSlot { target := some (reaches s i) } (.go [.lexit (reaches s i)])).bun
    rw [Runs, hexec]
    refine runSlot_moving (b := true) h rfl (control_lexit rfl) rfl rfl
      ((follows_bump (t := { (s.now.issued b).popLevel with pc := reaches s i }) hf hp).of_alike ?_)
    exact ⟨⟨rfl, rfl, rfl, rfl, rfl⟩, rfl, ⟨⟨rfl, rfl, rfl, rfl, rfl⟩, ⟨rfl, rfl, rfl, rfl⟩, ⟨rfl, rfl, rfl, rfl⟩, ⟨rfl, rfl, rfl, rfl, rfl⟩,
      ⟨rfl, rfl, rfl, rfl, rfl, rfl⟩⟩, rfl⟩

end Sys2Proof.Proofs

/-! The end of a task: what a task that ceases to exist leaves of its core and of the tables (04 R125; 09 R283). -/

namespace Sys2Proof.Machine

open Sys2Proof.Rules

/-! ### What a task keeps while its bundle commits -/

/-- Where a task stands and what it holds: the fields that no bundle of its own changes as it commits. -/
def Task.standing (t : Task) : Nat × TStatus × Nat × Nat × Nat × List LsAcc × Nat × Nat × Nat :=
  (t.core, t.status, t.part, t.region, t.qmask, t.lsq, t.subject, t.prio, t.run)

theorem foldl_standing {β : Type} (f : Task → β → Task) (h : ∀ t x, (f t x).standing = t.standing) (l : List β) (t : Task) :
    (l.foldl f t).standing = t.standing :=
  calc (l.foldl f t).standing = l.foldl (fun r _ => r) t.standing := (List.foldl_hom Task.standing fun t x => (h t x).symm).symm
    _ = t.standing := List.foldl_fixed l

theorem putS_standing (t : Task) (n : Nat) (v : W64) : (t.putS n v).standing = t.standing := by unfold Task.putS; split <;> rfl

theorem putP_standing (t : Task) (n : Nat) (v : BitVec 16) : (t.putP n v).standing = t.standing := by unfold Task.putP; split <;> rfl

theorem put_standing (t : Task) (d : Dest) (v : VReg) (m : BitVec 16) : (t.put d v m).standing = t.standing := by
  cases d with
  | s n => exact putS_standing ..
  | v n => rfl
  | p n => exact putP_standing ..
  | ib n => unfold Task.put; dsimp only; split <;> rfl

theorem setFull_standing (t : Task) (d : Dest) : (t.setFull d).standing = t.standing := by cases d <;> rfl

theorem fill_standing (t : Task) (p : Prod) (vs : List VReg) : (t.fill p vs).standing = t.standing :=
  foldl_standing _ (fun _ _ => by rw [setFull_standing, put_standing]) _ _

theorem landOne_standing (t : Task) (f : Flight) : (t.landOne f).standing = t.standing := by
  unfold Task.landOne
  split
  · rfl
  · exact put_standing ..

theorem land_standing (t : Task) : t.land.standing = t.standing := foldl_standing _ landOne_standing _ _

theorem landDrawn_standing (t : Task) : t.landDrawn.standing = t.standing := by
  refine foldl_standing _ (fun u p => ?_) _ _
  split
  · split
    · exact fill_standing ..
    · rfl
  · rfl

theorem bump_standing (t : Task) : t.bump.standing = t.standing := by
  unfold Task.bump
  dsimp only
  split
  · rw [landDrawn_standing]; rfl
  · rw [land_standing, landDrawn_standing]; rfl

theorem catchFlights_standing (t : Task) : t.catchFlights.standing = t.standing := land_standing t

theorem setStages_standing (t : Task) (n mask : Nat) : (t.setStages n mask).standing = t.standing :=
  foldl_standing (fun t j => t.setStage (8 + j) (mask / 2 ^ j % 2 == 1)) (fun _ _ => putP_standing ..) _ _

theorem closeLevel_standing (t : Task) (go : Bool) : (t.closeLevel go).1.standing = t.standing := by
  unfold Task.closeLevel
  split
  · rfl
  · next l _ =>
    extract_lets start l1 mask live t1 t2
    have h1 : t1.standing = t.standing := by
      show (if l.rot then _ else _ : Task).standing = _
      split
      · exact setStages_standing ..
      · rfl
    split
    · exact h1
    · exact h1

/-- Control without a transfer, a push or an answer to a closure changes the current task alone, and not where it stands. -/
theorem control_still {u : State} {es : List Effect} (h0 : findEff es Effect.lexitTo = none) (h1 : findEff es Effect.jumpTo = none)
    (h2 : findEff es Effect.pushed = none) (h3 : findEff es Effect.guarded = none) :
    ∃ k, u.control es = u.putTask u.tid k ∧ k.standing = u.now.standing := by
  cases hl : (u.now.loops.getLast?.any fun l => l.last == u.bun.pc) with
  | true =>
    have h := control_close h0 h1 h2 hl
    rw [h3] at h
    refine ⟨((u.now.issued u.bun).closeLevel true).1, h.trans ?_, closeLevel_standing _ _⟩
    simp only [Option.isSome_none, Bool.and_false]
    rfl
  | false =>
    have hl' : ((u.now.issued u.bun).loops.getLast?.any fun l => l.last == u.bun.pc) = false := hl
    refine ⟨u.now.issued u.bun, ?_, rfl⟩
    unfold State.control
    simp only [h0, h1, h2, now_putTask, hl']
    rfl

/-! ### A task that ceases to exist -/

/-- Its tasks and its cores are the same. -/
structure State.SameUnits (s u : State) : Prop where
  tasks : u.tasks = s.tasks
  cores : u.cores = s.cores

theorem State.SameUnits.trans {s u w : State} (h : s.SameUnits u) (k : u.SameUnits w) : s.SameUnits w :=
  ⟨k.tasks.trans h.tasks, k.cores.trans h.cores⟩

theorem State.Served.units {s u : State} (h : s.Served u) : s.SameUnits u := ⟨h.same.tasks, h.same.cores⟩

theorem served_joinUpdate (s : State) (part r core tid addr addend clk : Nat) : s.Served (s.joinUpdate part r core tid addr addend clk) := by
  unfold State.joinUpdate
  refine served_ite (.refl s) ?_
  extract_lets drop
  have hdrop : s.Served drop := served_error ..
  split
  · exact hdrop.trans (served_engFormat ..)
  · exact served_ite hdrop (served_homeWrite ..)

theorem firingDone_units (s : State) (f : Option (Nat × Nat × Nat)) : s.SameUnits (s.firingDone f) := by
  unfold State.firingDone
  split
  · exact ⟨rfl, rfl⟩
  · extract_lets u
    split
    · exact ⟨rfl, rfl⟩
    · split <;> exact ⟨rfl, rfl⟩

theorem settleRuns_units (s : State) (x : RunEnd) (kill : Bool) : s.SameUnits (s.settleRuns x kill) := by
  have h0 : s.SameUnits { s with runs := s.runs.filter fun r => r.twin != x.twin } := ⟨rfl, rfl⟩
  exact (h0.trans (served_joinUpdate ..).units).trans (firingDone_units ..)

theorem settleCut_units (s : State) (twin : Nat) : s.SameUnits (s.settleCut twin) := by
  unfold State.settleCut
  extract_lets l
  split
  · split
    · exact ⟨rfl, rfl⟩
    · exact settleRuns_units ..
  · exact ⟨rfl, rfl⟩

/-- What a core holds once a task has left it. -/
def Core.left (k : Core) (t : Task) (tid : Nat) : Core :=
  let mine := (k.alcoves.filter fun x => x.2.tid == tid).map Prod.fst
  let filling := mine.filter fun a => (k.alcove a).rows != 0
  let k1 := filling.foldl (fun k a => k.putAlcove a { k.alcove a with release := true, clk := t.pts }) (k.freeAlcoves (mine.filter fun a => !filling.contains a))
  { k1 with
    tasks := k.tasks.filter fun x => x != tid, cur := if k.cur = tid then 0 else k.cur, last := if k.cur = tid ∨ k.last = tid then 0 else k.last,
    scq := k.scq.filter fun x => x.1 != tid, mq := k.mq.filter fun x => x.tid != tid,
    tiles := k.tiles.filter fun x => x.2.owner != tid,
    chans := k.chans.filter fun x => t.qmask / 2 ^ x.1 % 2 == 0 }

theorem leaveCore_eq (s : State) (tid : Nat) : s.leaveCore tid = s.putCore (s.task tid).core ((s.core (s.task tid).core).left (s.task tid) tid) := rfl

theorem moveDraws_tasks (s : State) (core r : Nat) : (s.moveDraws core r).tasks = s.tasks := by
  unfold State.moveDraws
  split
  · rfl
  · dsimp only
    split
    · rfl
    · split <;> rfl

theorem moveDraws_core (s : State) (core r : Nat) : ∃ d, (s.moveDraws core r).core core = { s.core core with draws := d } := by
  unfold State.moveDraws
  split
  · exact ⟨_, rfl⟩
  · dsimp only
    split
    · exact ⟨_, rfl⟩
    · split
      · exact ⟨_, core_putCore_self s core _⟩
      · exact ⟨_, core_putCore_self s core _⟩

theorem core_of_cores {s u : State} (h : u.cores = s.cores) (c : Nat) : u.core c = s.core c := by unfold State.core; rw [h]

theorem task_of_tasks {s u : State} (h : u.tasks = s.tasks) (x : Nat) : u.task x = s.task x := by unfold State.task; rw [h]

/-- A task that has ended is no task; where it was resident, it has left its core. -/
theorem finishTask_leaves (s : State) (tid cause : Nat) (killed : Bool) :
    tabFind (s.finishTask tid cause killed).tasks tid = none ∧ ((s.task tid).resident = true →
      ∃ d, (s.finishTask tid cause killed).core (s.task tid).core = { (s.core (s.task tid).core).left (s.task tid) tid with draws := d }) := by
  unfold State.finishTask
  extract_lets t clk join s1 s2 s3 s4 g s5 s6
  have h1 : s.SameUnits s1 := by
    show s.SameUnits (if t.run = 0 then _ else _)
    split
    · exact (served_joinUpdate ..).units
    · exact ⟨rfl, rfl⟩
  have h3 : s2.SameUnits s3 := by
    show s2.SameUnits (if t.run = 0 then _ else _)
    split
    · exact firingDone_units ..
    · exact ⟨rfl, rfl⟩
  have h4 := settleCut_units { s3 with tasks := tabDel s3.tasks tid, rerr := tabDel s3.rerr tid } t.twin
  have h5 : s4.SameUnits s5 := by
    show s4.SameUnits (if _ then _ else _)
    split <;> exact ⟨rfl, rfl⟩
  have hgone : tabFind s6.tasks tid = none := by
    show tabFind s5.tasks tid = none
    rw [h5.tasks, h4.tasks]
    exact tabFind_tabDel_self _ _
  refine ⟨?_, fun hres => ?_⟩
  · rw [(served_writeUsage _ _).units.tasks]
    split
    · rw [moveDraws_tasks]; exact hgone
    · exact hgone
  · have hleft : s6.core t.core = (s.core t.core).left t tid := by
      have h2 : s2 = s1.leaveCore tid := if_pos hres
      have hcore : s6.core t.core = s2.core t.core := core_of_cores (h5.cores.trans (h4.cores.trans h3.cores)) _
      rw [hcore, h2, leaveCore_eq, task_of_tasks h1.tasks, core_of_cores h1.cores]
      exact core_putCore_self _ _ _
    obtain ⟨d, hd⟩ := moveDraws_core s6 t.core t.rkey
    refine ⟨d, ?_⟩
    rw [if_pos hres, core_of_cores (served_writeUsage _ _).units.cores, hd, hleft]

/-! ### What a task has left -/

theorem tabFind_filter {α : Type} {t : Tab α} {f : Nat × α → Bool} {k : Nat} {v : α} (h : tabFind (t.filter f) k = some v) : f (k, v) = true :=
  (List.mem_filter.1 (tabFind_mem _ _ _ h)).2

/-- A core that a task has left holds nothing of it. -/
theorem left_holds_nothing (k : Core) (t : Task) {tid : Nat} (h : tid ≠ 0) :
    (k.left t tid).cur ≠ tid ∧ tid ∉ (k.left t tid).tasks ∧ (∀ c, ((k.left t tid).tile c).owner ≠ tid) ∧
    (∀ q, t.qmask.testBit q = true → (k.left t tid).chan q = {}) ∧ (∀ e ∈ (k.left t tid).mq, e.tid ≠ tid) ∧ ∀ w ∈ (k.left t tid).scq, w.1 ≠ tid := by
  refine ⟨?_, ?_, fun c => ?_, fun q hq => ?_, fun e he => ?_, fun w hw => ?_⟩
  · show (if k.cur = tid then 0 else k.cur) ≠ tid
    split
    · exact h.symm
    · assumption
  · show tid ∉ k.tasks.filter fun x => x != tid
    simp
  · show (tabGet (k.tiles.filter fun x => x.2.owner != tid) {} c).owner ≠ tid
    unfold tabGet
    cases hf : tabFind (k.tiles.filter fun x => x.2.owner != tid) c with
    | none => exact h.symm
    | some x => exact bne_iff_ne.1 (tabFind_filter hf)
  · show tabGet (k.chans.filter fun x => t.qmask / 2 ^ x.1 % 2 == 0) {} q = {}
    unfold tabGet
    cases hf : tabFind (k.chans.filter fun x => t.qmask / 2 ^ x.1 % 2 == 0) q with
    | none => rfl
    | some x =>
      have h0 : t.qmask / 2 ^ q % 2 = 0 := beq_iff_eq.1 (tabFind_filter hf)
      rw [Nat.testBit_eq_decide_div_mod_eq, decide_eq_true_eq] at hq
      omega
  · exact bne_iff_ne.1 (List.mem_filter.1 he).2
  · exact bne_iff_ne.1 (List.mem_filter.1 hw).2

end Sys2Proof.Machine

/-! TRAP, END, ERET and YIELD (01 R33; 04 R124-R126; 09 R291). -/

namespace Sys2Proof.Proofs

open Sys2Proof Sys2Proof.Machine Sys2Proof.Rules
open Host (Outcome)

/-! ### The commit of a word that ends its bundle -/

/-- The commit of one effect that ends its bundle: control moves the current task on, and then the effect acts. -/
theorem commit_ending (s : State) {e : Effect} (h : e = .endTask ∨ e = .yield ∨ (∃ c v, e = .trap c v) ∨ ∃ d p, e = .eret d p) :
    ∃ k, k.standing = s.now.standing ∧ s.commit [e] = ((s.putTask s.tid k).finish s.tid [e]).tick 1 := by
  have hcontrol : ∃ k, s.control [e] = s.putTask s.tid k ∧ k.standing = s.now.standing := by
    rcases h with rfl | rfl | ⟨c, v, rfl⟩ | ⟨d, p, rfl⟩ <;> exact control_still rfl rfl rfl rfl
  obtain ⟨k, hk, hstand⟩ := hcontrol
  have hcommit : s.commit [e] = (((s.control [e]).putTask s.tid ((s.control [e]).task s.tid).bump).finish s.tid [e]).tick 1 := by
    rcases h with rfl | rfl | ⟨c, v, rfl⟩ | ⟨d, p, rfl⟩ <;> rfl
  exact ⟨k.bump, (bump_standing k).trans hstand, by rw [hcommit, hk, task_putTask_self, putTask_putTask]⟩

/-- The same where the bundle closes no loop level and its task has nothing on its way. -/
theorem commit_ending_straight (s : State) {e : Effect} (h : e = .yield ∨ ∃ c v, e = .trap c v) (hl : s.straight = true) :
    s.commit [e] = ((s.putTask s.tid (s.now.issued s.bun).bump).finish s.tid [e]).tick 1 := by
  have hl' : ((s.now.issued s.bun).loops.getLast?.any fun l => l.last == s.bun.pc) = false := by
    have h0 := hl
    rw [State.straight, Bool.not_eq_true'] at h0
    exact h0
  have hcontrol : s.control [e] = s.putTask s.tid (s.now.issued s.bun) := by
    unfold State.control
    rcases h with rfl | ⟨c, v, rfl⟩ <;> simp only [now_putTask, hl'] <;> rfl
  have hcommit : s.commit [e] = (((s.control [e]).putTask s.tid ((s.control [e]).task s.tid).bump).finish s.tid [e]).tick 1 := by
    rcases h with rfl | ⟨c, v, rfl⟩ <;> rfl
  rw [hcommit, hcontrol, task_putTask_self, putTask_putTask]

/-- What two tasks that stand alike have in common. -/
theorem standing_fields {t u : Machine.Task} (h : t.standing = u.standing) : t.core = u.core ∧ t.status = u.status ∧ t.part = u.part ∧
    t.region = u.region ∧ t.qmask = u.qmask ∧ t.lsq = u.lsq ∧ t.subject = u.subject ∧ t.prio = u.prio := by
  simp only [Task.standing, Prod.mk.injEq] at h
  obtain ⟨h1, h2, h3, h4, h5, h6, h7, h8, -⟩ := h
  exact ⟨h1, h2, h3, h4, h5, h6, h7, h8⟩

/-! ### END (04 R125) -/

theorem holdClears_ended_congr {s u : State} {tid : Nat} (hs : (u.task tid).standing = (s.task tid).standing) (hc : u.cores = s.cores) :
    u.holdClears tid .ended = s.holdClears tid .ended := by
  obtain ⟨hcore, -, -, -, hq, hlsq, -⟩ := standing_fields hs
  unfold State.holdClears
  simp only [Task.storesPending, hcore, hq, hlsq, core_of_cores hc]

theorem resident_congr {t u : Machine.Task} (h : t.standing = u.standing) : t.resident = u.resident := by
  obtain ⟨-, hstatus, -⟩ := standing_fields h
  rw [Task.resident, hstatus]
  rfl

/-- The commit of an END whose task holds nothing pending: the task is finished. -/
theorem commit_endTask {s : State} (hh : s.holdClears s.tid .ended = true) (hg : s.goStatus s.tid = .ready) :
    ∃ u : State, s.commit [.endTask] = (u.finishTask s.tid 0 false).tick 1 ∧ u.cores = s.cores ∧ (u.task s.tid).standing = s.now.standing := by
  obtain ⟨k, hk, hcommit⟩ := commit_ending s (e := .endTask) (.inl rfl)
  let u : State := s.putTask s.tid { k with idle := 0 }
  have htask : (u.task s.tid).standing = s.now.standing := by rw [task_putTask_self]; exact hk
  have hgo : (u.holdClears s.tid .ended && u.goStatus s.tid == .ready) = true := by
    rw [holdClears_ended_congr (s := s) htask rfl, hh]
    exact beq_iff_eq.2 hg
  have hfinish : (s.putTask s.tid k).finish s.tid [.endTask] = u.endTask s.tid := by
    show State.endTask ((s.putTask s.tid k).putTask s.tid { (s.putTask s.tid k).task s.tid with idle := 0 }) s.tid = _
    rw [task_putTask_self, putTask_putTask]
  exact ⟨u, by rw [hcommit, hfinish, State.endTask, if_pos hgo], rfl, htask⟩

theorem endsFreeTheCore : EndsFreeTheCore := by
  intro s h0 hres hh hg
  obtain ⟨u, hcommit, hcores, hstand⟩ := commit_endTask hh hg
  obtain ⟨hcore, -, -, -, hqmask, -⟩ := standing_fields hstand
  obtain ⟨hnone, hleft⟩ := finishTask_leaves u s.tid 0 false
  obtain ⟨d, hd⟩ := hleft ((resident_congr hstand).trans hres)
  obtain ⟨hcur, htasks, htiles, hchans, hmq, hscq⟩ := left_holds_nothing (u.core (u.task s.tid).core) (u.task s.tid) h0
  rw [hqmask] at hchans
  rw [hcore] at hd
  intro k
  have hk : k = { (u.core s.now.core).left (u.task s.tid) s.tid with draws := d } := by
    show (s.commit [.endTask]).core s.now.core = _
    rw [hcommit]
    exact hd
  rw [hcore] at hcur htasks htiles hchans hmq hscq
  rw [hk, hcommit]
  exact ⟨hnone, hcur, htasks, htiles, hchans, hmq, hscq⟩

/-! ### ERET (04 R126) -/

/-- A fold whose step for a number clears its mark, and sets none, clears the marks of its list. -/
theorem foldl_clears {α : Type} (marked : α → Nat → Bool) (f : α → Nat → α) (hself : ∀ t n, marked (f t n) n = false)
    (hkeep : ∀ t m n, marked t n = false → marked (f t m) n = false) (l : List Nat) : ∀ t n, n ∈ l ∨ marked t n = false →
    marked (l.foldl f t) n = false := by
  induction l with
  | nil => exact fun t n h => h.resolve_left (List.not_mem_nil)
  | cons m l ih =>
    intro t n h
    refine ih (f t m) n ?_
    rcases h with h | h
    · rcases List.mem_cons.1 h with rfl | h
      · exact .inr (hself t n)
      · exact .inl h
    · exact .inr (hkeep t m n h)

/-- A failed scalar register made zero and full (05 R151). -/
def clearS (t : Machine.Task) (n : Nat) : Machine.Task := if t.isFailed (.s n) then (t.putS n 0).setFull (.s n) else t
/-- A failed vector register made zero and full (05 R151). -/
def clearV (t : Machine.Task) (n : Nat) : Machine.Task := if t.isFailed (.v n) then (t.putV n 0).setFull (.v n) else t

theorem clearS_self (t : Machine.Task) (n : Nat) : (clearS t n).isFailed (.s n) = false := by
  unfold clearS
  by_cases h : t.isFailed (.s n) = true
  · have hn : n < 64 := by
      by_contra hn
      rw [Task.isFailed, BitVec.getLsbD_of_ge _ _ (by omega), Bool.and_false] at h
      exact Bool.noConfusion h
    rw [if_pos h, Task.setFull, Task.isFailed, BitVec.getLsbD_and, BitVec.getLsbD_not, getLsbD_two_pow hn, Bool.not_true, Bool.and_false,
      Bool.and_false, Bool.and_false]
  · rw [if_neg h, Bool.eq_false_iff]; exact h

theorem clearV_self (t : Machine.Task) (n : Nat) : (clearV t n).isFailed (.v n) = false := by
  unfold clearV
  by_cases h : t.isFailed (.v n) = true
  · have hn : n < 128 := by
      by_contra hn
      rw [Task.isFailed, BitVec.getLsbD_of_ge _ _ (by omega)] at h
      exact Bool.noConfusion h
    rw [if_pos h, Task.setFull, Task.isFailed, BitVec.getLsbD_and, BitVec.getLsbD_not, getLsbD_two_pow hn, Bool.not_true, Bool.and_false,
      Bool.and_false]
  · rw [if_neg h, Bool.eq_false_iff]; exact h

theorem clearS_keep (t : Machine.Task) (m n : Nat) (h : t.isFailed (.s n) = false) : (clearS t m).isFailed (.s n) = false := by
  unfold clearS
  split
  · rw [Task.isFailed] at h ⊢
    rw [Task.setFull, BitVec.getLsbD_and, putS_sFail, ← Bool.and_assoc, h, Bool.false_and]
  · exact h

theorem clearV_keep (t : Machine.Task) (m n : Nat) (h : t.isFailed (.v n) = false) : (clearV t m).isFailed (.v n) = false := by
  unfold clearV
  split
  · show (t.vFail &&& _).getLsbD n = false
    rw [BitVec.getLsbD_and, show t.vFail.getLsbD n = false from h, Bool.false_and]
  · exact h

theorem clearV_keeps_s (t : Machine.Task) (m n : Nat) (h : t.isFailed (.s n) = false) : (clearV t m).isFailed (.s n) = false := by
  unfold clearV
  split
  · exact h
  · exact h

/-- The registers of a task that returns from a trap, cleared of failure. -/
def cleared (t : Machine.Task) : Machine.Task := (List.range 128).foldl clearV ((List.range 64).foldl clearS t)

theorem cleared_isFailed (t : Machine.Task) : (∀ n < 64, (cleared t).isFailed (.s n) = false) ∧ ∀ n < 128, (cleared t).isFailed (.v n) = false := by
  refine ⟨fun n hn => ?_, fun n hn => ?_⟩
  · have hs := foldl_clears (fun t n => t.isFailed (.s n)) clearS clearS_self clearS_keep (List.range 64) t n (.inl (List.mem_range.2 hn))
    have hkeep : ∀ (l : List Nat) (u : Machine.Task), u.isFailed (.s n) = false → (l.foldl clearV u).isFailed (.s n) = false := by
      intro l
      induction l with
      | nil => exact fun u h => h
      | cons m l ih => exact fun u h => ih _ (clearV_keeps_s u m n h)
    exact hkeep _ _ hs
  · exact foldl_clears (fun t n => t.isFailed (.v n)) clearV clearV_self clearV_keep (List.range 128) _ n (.inl (List.mem_range.2 hn))

theorem trapReturn_eq (s : State) (tid pc : Nat) : s.trapReturn tid pc = s.putTask tid { cleared (s.task tid) with
    status := s.goStatus tid, trec := [], pc := pc, hold := none, held := 0 } := rfl

/-- A task that is killed is no task. -/
theorem killTask_none (s : State) (tid cause : Nat) : tabFind (s.killTask tid cause).tasks tid = none := by
  unfold State.killTask
  split
  · assumption
  · exact (finishTask_leaves _ tid cause true).1

theorem trapKill_none (s : State) (tid : Nat) : tabFind (s.trapKill tid).tasks tid = none := by
  unfold State.trapKill
  rw [(served_error _ _).units.tasks]
  exact killTask_none ..

/-- A handler that waits for its next record. -/
def waits (t : Machine.Task) : Machine.Task := { t with status := .await, subject := 0, rec8 := [] }

/-- The state in which the handler has let go of its record and its core. -/
def letGo (s : State) (tid : Nat) : State := (s.putTask tid (waits (s.task tid))).stopIssue tid

theorem task_letGo (s : State) (tid x : Nat) : (letGo s tid).task x = if x = tid then waits (s.task tid) else s.task x := by
  rw [letGo, stopIssue_form]
  show (s.putTask tid _).task x = _
  split
  · next h => rw [h, task_putTask_self]
  · next h => exact task_putTask_ne _ _ _ _ h

theorem core_letGo (s : State) {tid : Nat} (h0 : tid ≠ 0) : ((letGo s tid).core (s.task tid).core).cur ≠ tid := by
  rw [letGo, core_stopIssue, task_putTask_self, if_pos (show (s.task tid).core = (waits (s.task tid)).core from rfl), stoppedCore]
  split
  · exact h0.symm
  · assumption

/-- The commit of an ERET: its handler lets go, and the trapped task is disposed of. -/
theorem commit_eret {s : State} {d p : W64} : ∃ w : State, (w.task s.tid).standing = s.now.standing ∧ w.cores = s.cores ∧ w.rops = s.rops ∧
    (∀ x, x ≠ s.tid → tabFind w.tasks x = tabFind s.tasks x) ∧ s.commit [.eret d p] = (w.dispose s.tid d.toNat p.toNat).tick 1 := by
  obtain ⟨k, hk, hcommit⟩ := commit_ending s (e := .eret d p) (.inr (.inr (.inr ⟨d, p, rfl⟩)))
  refine ⟨s.putTask s.tid { k with idle := 0 }, ?_, rfl, rfl, fun x hx => tabFind_tabPut_ne _ _ _ _ hx, ?_⟩
  · rw [task_putTask_self]; exact hk
  · rw [hcommit]
    show (State.dispose ((s.putTask s.tid k).putTask s.tid { (s.putTask s.tid k).task s.tid with idle := 0 }) s.tid d.toNat p.toNat).tick 1 = _
    rw [task_putTask_self, putTask_putTask]

/-- What disposing of a record does to a trapped task that is still there. -/
theorem dispose_eq {w : State} {tid x d p : Nat} {r : Machine.Task} (hs : (w.task tid).subject = x) (hx : x ≠ tid) (hr : tabFind w.tasks x = some r) :
    w.dispose tid d p = if d = 1 then (letGo w tid).trapKill x else
      if r.status = .forwarded then (letGo w tid).trapReturn x (if d = 2 then p else trapPc r.trec)
      else (letGo w tid).putTask x { r with after := .ready, redo := some (if d = 2 then p else trapPc r.trec), trec := [] } := by
  have hfind : tabFind (letGo w tid).tasks x = some r := by
    rw [letGo, stopIssue_form]
    exact (tabFind_tabPut_ne _ _ _ _ hx).trans hr
  have hdef : w.dispose tid d p = (match tabFind (letGo w tid).tasks x with
      | none => letGo w tid
      | some t =>
        if d = 1 then (letGo w tid).trapKill x
        else match t.status with
          | .saved => (letGo w tid).putTask x { t with after := .ready, redo := some (if d = 2 then p else trapPc t.trec), trec := [] }
          | .forwarded => (letGo w tid).trapReturn x (if d = 2 then p else trapPc t.trec)
          | _ => (letGo w tid).putTask x { t with after := .ready, redo := some (if d = 2 then p else trapPc t.trec), trec := [] }) := by
    rw [← hs]; rfl
  rw [hdef, hfind]
  refine if_congr Iff.rfl rfl ?_
  cases hst : r.status <;> rfl

theorem returnsDispose : ReturnsDispose := by
  intro s x r d p h0 hsub hx hr
  obtain ⟨w, hstand, hcores, hrops, hother, hcommit⟩ := commit_eret (s := s) (d := d) (p := p)
  obtain ⟨hcore, -, -, -, -, -, hsubject, -⟩ := standing_fields hstand
  have hdis := dispose_eq (p := p.toNat) (d := d.toNat) (hsubject.trans hsub) hx ((hother x hx).trans hr)
  have hd1 : d = 1 ↔ d.toNat = 1 := BitVec.toNat_inj.symm
  have hd2 : d = 2 ↔ d.toNat = 2 := BitVec.toNat_inj.symm
  intro u pc
  have hu : u = (w.dispose s.tid d.toNat p.toNat).tick 1 := hcommit
  refine ⟨fun hd => ?_, fun hd => ?_⟩
  · rw [if_neg (mt hd1.2 hd)] at hdis
    have hpc : (if d.toNat = 2 then p.toNat else trapPc r.trec) = pc := if_congr hd2.symm rfl rfl
    rw [hpc] at hdis
    have hself : ∀ k, ((letGo w s.tid).putTask x k).task s.tid = waits (w.task s.tid) := fun k => by
      rw [task_putTask_ne _ _ _ _ hx.symm, task_letGo, if_pos rfl]
    have hlet : ((letGo w s.tid).core s.now.core).cur ≠ s.tid := hcore ▸ core_letGo w h0
    by_cases hf : r.status = .forwarded
    · rw [if_pos hf, trapReturn_eq] at hdis
      have hux : u.task x = { cleared ((letGo w s.tid).task x) with
          status := (letGo w s.tid).goStatus x, trec := [], pc := pc, hold := none, held := 0 } := by
        rw [hu, hdis]; exact task_putTask_self _ _ _
      have hself' : u.task s.tid = waits (w.task s.tid) := by rw [hu, hdis]; exact hself _
      have hgo : (letGo w s.tid).goStatus x = s.goStatus x := by
        unfold State.goStatus
        rw [letGo, stopIssue_form]
        show (if (w.rops.any _) then _ else _) = _
        rw [hrops]
      refine ⟨by rw [hself']; rfl, by rw [hself']; rfl, by rw [hu, hdis]; exact hlet, fun _ => ?_, fun h => absurd hf h⟩
      rw [hux]
      exact ⟨rfl, hgo, rfl, cleared_isFailed _⟩
    · rw [if_neg hf] at hdis
      have hself' : u.task s.tid = waits (w.task s.tid) := by rw [hu, hdis]; exact hself _
      refine ⟨by rw [hself']; rfl, by rw [hself']; rfl, by rw [hu, hdis]; exact hlet, fun h => absurd h hf, fun _ => ?_⟩
      rw [hu, hdis]
      exact congrArg Task.redo (task_putTask_self (letGo w s.tid) x _)
  · rw [if_pos (hd1.1 hd)] at hdis
    rw [hu, hdis, tick_tasks]
    exact trapKill_none _ _

end Sys2Proof.Proofs

/-! The four endings of a bundle together (04 R124-R126; 01 R33; 09 R291). -/

namespace Sys2Proof.Proofs

open Sys2Proof Sys2Proof.Machine Sys2Proof.Rules
open Host (Outcome)

/-! ### YIELD (01 R33; 09 R291) -/

/-- The task kept of two, by priority: the first of equal ones. -/
def better (s : State) (b : Option Nat) (x : Nat) : Option Nat :=
  match b with
  | none => some x
  | some y => if (s.task y).prio < (s.task x).prio then some x else some y

theorem foldl_better (s : State) (l : List Nat) : ∀ (b : Option Nat) (x : Nat), l.foldl (better s) b = some x →
    (x ∈ l ∨ b = some x) ∧ (∀ y, y ∈ l ∨ b = some y → (s.task y).prio ≤ (s.task x).prio) := by
  induction l with
  | nil =>
    intro b x h
    obtain rfl : b = some x := h
    exact ⟨.inr rfl, fun y hy => by rcases hy with hy | hy; exact absurd hy List.not_mem_nil; cases hy; exact Nat.le_refl _⟩
  | cons z l ih =>
    intro b x h
    obtain ⟨hmem, hmax⟩ := ih (better s b z) x h
    have hz : (s.task z).prio ≤ (s.task x).prio ∧ ∀ y, b = some y → (s.task y).prio ≤ (s.task x).prio := by
      cases b with
      | none => exact ⟨hmax z (.inr rfl), fun y hy => nomatch hy⟩
      | some y =>
        by_cases hlt : (s.task y).prio < (s.task z).prio
        · have hzx := hmax z (.inr (if_pos hlt))
          exact ⟨hzx, fun w hw => by cases hw; omega⟩
        · have hyx := hmax y (.inr (if_neg hlt))
          exact ⟨by omega, fun w hw => by cases hw; exact hyx⟩
    refine ⟨?_, fun y hy => ?_⟩
    · rcases hmem with hmem | hmem
      · exact .inl (List.mem_cons_of_mem _ hmem)
      · cases b with
        | none => exact .inl (by cases hmem; exact List.mem_cons_self)
        | some y =>
          by_cases hlt : (s.task y).prio < (s.task z).prio
          · obtain rfl : z = x := Option.some.inj ((if_pos hlt).symm.trans hmem)
            exact .inl List.mem_cons_self
          · exact .inr ((if_neg hlt).symm.trans hmem)
    · rcases hy with hy | hy
      · rcases List.mem_cons.1 hy with rfl | hy
        · exact hz.1
        · exact hmax y (.inl hy)
      · exact hz.2 y hy

/-- The task chosen is one of the list that can run, and none of these stands above it. -/
theorem readiest_some {s : State} {l : List Nat} {x : Nat} (h : s.readiest l = some x) :
    x ∈ l ∧ s.canRun x = true ∧ ∀ y ∈ l, s.canRun y = true → (s.task y).prio ≤ (s.task x).prio := by
  obtain ⟨hmem, hmax⟩ := foldl_better s (l.filter s.canRun) none x h
  have hx := List.mem_filter.1 (hmem.resolve_right (fun h => nomatch h))
  exact ⟨hx.1, hx.2, fun y hy hrun => hmax y (.inl (List.mem_filter.2 ⟨hy, hrun⟩))⟩

theorem mem_othersOf {s : State} {core after x : Nat} (h : x ∈ s.othersOf core after) : x ∈ (s.core core).tasks := by
  rcases List.mem_append.1 h with h | h
  · exact (List.dropWhile_sublist _).subset ((List.drop_sublist 1 _).subset h)
  · exact (List.takeWhile_sublist _).subset h

/-- Every other task of the core takes part. -/
theorem othersOf_complete {s : State} {core after y : Nat} (h : y ∈ (s.core core).tasks) (hne : y ≠ after) : y ∈ s.othersOf core after := by
  let p : Nat → Bool := fun x => x != after
  have hsplit : y ∈ (s.core core).tasks.takeWhile p ++ (s.core core).tasks.dropWhile p := by rw [List.takeWhile_append_dropWhile]; exact h
  rcases List.mem_append.1 hsplit with h | h
  · exact List.mem_append_right _ h
  · refine List.mem_append_left _ ?_
    have hhead := List.head?_dropWhile_not p (s.core core).tasks
    show y ∈ ((s.core core).tasks.dropWhile p).drop 1
    cases hd : (s.core core).tasks.dropWhile p with
    | nil => rw [hd] at h; exact absurd h List.not_mem_nil
    | cons z l =>
      rw [hd] at h hhead
      have hz : p z = false := hhead
      rcases List.mem_cons.1 h with rfl | h
      · exact absurd (bne_iff_ne.2 hne) (by rw [show (y != after) = p y from rfl, hz]; decide)
      · exact h

theorem yieldsSwitch : YieldsSwitch := by
  intro s h0 hl hcur k u t
  have hcore : (u.task s.tid).core = s.now.core := by
    rw [task_putTask_self]
    exact (standing_fields (bump_standing _)).1
  have ht : t = (u.switch s.now.core).tick 1 := by
    rw [← hcore]
    exact commit_ending_straight s (.inl rfl) hl
  have hk : u.core s.now.core = k := rfl
  have hswitch : u.switch s.now.core = match u.choose s.now.core s.tid with
      | none => u
      | some x =>
        if !u.replayFits s.now.core then u
        else
          let s1 := (u.putTask s.tid (u.task s.tid).catchFlights).runFrom s.now.core x
          s1.putCore s.now.core { s1.core s.now.core with wait := (s1.core s.now.core).wait + 4 } := by
    rw [← hcur]; rfl
  refine ⟨fun hnone => ?_, fun x hx => ?_⟩
  · rw [ht, hswitch, hnone]
    rfl
  · obtain ⟨hmem, hrun, hmax⟩ := readiest_some hx
    refine ⟨mem_othersOf hmem, hrun, fun y hy hne hy' => hmax y (othersOf_complete hy hne) hy', ?_, fun hfits => ?_⟩
    · rw [ht, hswitch, hx]
      cases hfits : u.replayFits s.now.core with
      | false => rfl
      | true =>
        refine (core_putCore_self _ _ _).trans ?_
        have h1 : ((u.putTask s.tid (u.task s.tid).catchFlights).runFrom s.now.core x).core s.now.core = { k with cur := x } :=
          core_putCore_self _ _ _
        rw [h1]
        rfl
    · rw [ht, hswitch, hx, hfits]
      exact congrArg Task.status (task_putTask_self (u.putTask s.tid (u.task s.tid).catchFlights) x _)

/-! ### TRAP (04 R124) -/

/-- The task that a TRAP stops. -/
def softly (s : State) (k : Machine.Task) (code : Nat) (v : W64) : Machine.Task :=
  { k.catchFlights with
    status := .trapped, trec := Trap.words { pc := k.pc, mask := 1, causes := 0x11, operand := v, code := code } s.tid (s.cycle - (s.core k.core).cycle0),
    trapAt := s.cycle, pc := k.pc, idle := 0, hold := none, held := 0, walks := [] }

theorem commit_trap (s : State) (code : Nat) (v : W64) (hl : s.straight = true) :
    s.commit [.trap code v] = ((s.putTask s.tid (softly s { (s.now.issued s.bun).bump with idle := 0 } code v)).stopIssue s.tid).tick 1 := by
  rw [commit_ending_straight s (.inr ⟨code, v, rfl⟩) hl]
  show (State.takeTrap ((s.putTask s.tid _).putTask s.tid { (s.putTask s.tid _).task s.tid with idle := 0 }) s.tid
    { pc := _, mask := 1, causes := 0x11, operand := v, code := code }).tick 1 = _
  rw [task_putTask_self, putTask_putTask, State.takeTrap]
  simp only [task_putTask_self, putTask_putTask]
  rfl

/-- A task stopped with nothing on its way holds the registers it had. -/
theorem sameRegs_softly (s : State) {k : Machine.Task} (hf : k.flights = []) (code : Nat) (v : W64) : (softly s k code v).SameRegs k := by
  have hland : k.land = k := by
    unfold Task.land
    rw [hf]
    show ({ k with flights := [] } : Machine.Task) = k
    rw [← hf]
  apply sameRegs_of <;> unfold softly <;> rw [catchFlights_form, hland] <;> rfl

theorem softly_redo (s : State) (k : Machine.Task) (code : Nat) (v : W64) : (softly s k code v).redo = k.redo := by
  unfold softly
  rw [catchFlights_form]
  rfl

/-- The words of a TRAP's record: the resume point, the slot's mask bit, the cause, the operand and the code (07 R205). -/
theorem soft_words (pc tid cycle : Nat) (v : W64) {code : Nat} (hc : code < 2 ^ 14) :
    let w := Trap.words { pc := pc, mask := 1, causes := 0x11, operand := v, code := code } tid cycle
    w.getD 0 0 = BitVec.ofNat 64 pc ∧ (w.getD 1 0).toNat % 256 = 1 ∧ w.getD 2 0 = 0x11 ∧ w.getD 5 0 = v ∧ (w.getD 6 0).toNat = code := by
  refine ⟨rfl, ?_, rfl, rfl, ?_⟩
  · show (BitVec.ofNat 64 (tid % 2 ^ 32 * 2 ^ 32 + 0 * 2 ^ 16 + 0 * 2 ^ 9 + 0 * 2 ^ 8 + 1)).toNat % 256 = 1
    rw [BitVec.toNat_ofNat]
    omega
  · show (BitVec.ofNat 64 (0 * 2 ^ 23 + 0 * 2 ^ 16 + code)).toNat = code
    rw [BitVec.toNat_ofNat]
    omega

theorem trap_stops {s : State} {a : BitVec 6} {i : BitVec 14} (h : s.able { sr := [a.toNat] } = true) (hl : s.straight = true) :
    Runs (.trap a i) s fun t => (t.task s.tid).status = .trapped ∧ (t.task s.tid).pc = s.bun.next ∧ (t.task s.tid).idle = 0 ∧
      (t.task s.tid).trec.getD 0 0 = BitVec.ofNat 64 s.bun.next ∧ ((t.task s.tid).trec.getD 1 0).toNat % 256 = 1 ∧
      (t.task s.tid).trec.getD 2 0 = 0x11 ∧ (t.task s.tid).trec.getD 5 0 = s.now.rs a ∧
      ((t.task s.tid).trec.getD 6 0).toNat = i.toNat ∧ (t.task s.tid).SameRegs s.now ∧ t.mem = s.mem := by
  obtain ⟨ha, hc, hf, hp⟩ := (able_iff s _).1 h
  let v := s.logSlot { sr := [a.toNat] } (.go [.trap i.toNat (s.now.rs a)])
  let k : Machine.Task := { (s.now.issued v.bun).skip 1 with idle := 0 }
  let w := softly v k i.toNat (s.now.rs a)
  have hbump : (s.now.issued v.bun).bump = (s.now.issued v.bun).skip 1 := bump_none (s.now.issued v.bun) hf hp
  have hcommit : v.commit [.trap i.toNat (s.now.rs a)] = ((v.putTask s.tid w).stopIssue s.tid).tick 1 := by
    refine (commit_trap v _ _ hl).trans ?_
    show State.tick (State.stopIssue (v.putTask s.tid (softly v { (s.now.issued v.bun).bump with idle := 0 } _ _)) s.tid) 1 = _
    rw [hbump]
  have hcalm : (((v.putTask s.tid w).stopIssue s.tid).tick 1).calm = true := by
    rw [stopIssue_form]
    refine calm_congr (v.putTask s.tid w) _ (calm_putTask _ _ _ (calm_congr s v hc rfl rfl rfl rfl) ?_) rfl rfl rfl rfl
    exact (softly_redo v k _ _).trans (redo_of_calm s s.tid hc)
  have htask : (((v.putTask s.tid w).stopIssue s.tid).tick 1).task s.tid = w := by
    rw [stopIssue_form]
    exact task_putTask_self v s.tid w
  have hshrink : s.now.shrinkAwaits [{ slot := s.bun.slot, shape := { sr := [a.toNat] }, out := .go [.trap i.toNat (s.now.rs a)] }] = [] :=
    shrinkAwaits_none _ _ _ _ fun e he => by rw [List.mem_singleton.1 he]; rfl
  refine ⟨((v.putTask s.tid w).stopIssue s.tid).tick 1, ?_, ?_⟩
  · rw [exec_trap, execTrap, runSlot_go s _ _ ha hshrink]
    exact congrArg Outcome.next ((congrArg State.settle hcommit).trans (settle_of_calm _ hcalm))
  · show (State.task (((v.putTask s.tid w).stopIssue s.tid).tick 1) s.tid).status = _ ∧ _
    rw [htask]
    have hregs : w.SameRegs s.now := sameRegs_trans (sameRegs_softly v (k := k) hf _ _) (sameRegs_of _ _ rfl rfl rfl rfl rfl)
    obtain ⟨h0, h1, h2, h5, h6⟩ := soft_words k.pc s.tid (v.cycle - (v.core k.core).cycle0) (s.now.rs a) i.isLt
    exact ⟨rfl, rfl, rfl, h0, h1, h2, h5, h6, hregs, by rw [stopIssue_form]; rfl⟩

/-! ### The commits -/

/-- A word with one effect that grants no allotment is its bundle's commit. -/
theorem commits_of_exec {i : Instr} {s : State} {sh : Shape} {e : Effect} (ha : s.admits sh = true) (he : e.allotted = none)
    (hexec : exec i s = s.runSlot sh (.go [e])) : Commits i s sh [e] := by
  rw [Commits, hexec]
  exact runSlot_go s sh [e] ha (shrinkAwaits_none _ _ _ _ fun x hx => by rw [List.mem_singleton.1 hx]; exact he)

/-- Settles O24: each word is the one effect of its bundle, and the effect comes after the commit. -/
theorem bundleEndings : Obligations.BundleEndings := by
  refine ⟨fun s a i h hl => trap_stops h hl, fun s h hh => ?_, fun s h hpriv hsub hd => ?_, fun s h => ?_, endsFreeTheCore, returnsDispose, yieldsSwitch⟩
  · refine commits_of_exec h rfl ?_
    rw [exec_endTask, execEndTask, State.orHold, if_pos hh]
  · refine commits_of_exec h rfl ?_
    have hno : (!s.privileged s.now || s.now.subject == 0) = false := by
      rw [hpriv, beq_eq_false_iff_ne.2 hsub]; rfl
    rw [exec_eret, execEret]
    simp only [hno, if_neg (Nat.not_lt.2 hd)]
  · exact commits_of_exec h rfl rfl

end Sys2Proof.Proofs

/-! The addresses of the LS slot: the checks of an access, and the addresses of each form (05 R149, R152-R155). -/

namespace Sys2Proof.Proofs

open Sys2Proof Sys2Proof.Machine Sys2Proof.Rules
open Host (Outcome)

/-! ### Addresses -/

theorem toNat_ofInt64 (z : Int) : (BitVec.ofInt 64 z).toNat = (z % 2 ^ 64).toNat := BitVec.toNat_ofInt z

theorem imm64_eq_ofInt {n : Nat} (i : BitVec n) : imm64 i = BitVec.ofInt 64 i.toInt := rfl

theorem ea_eq_effective (t : Machine.Task) (b : BitVec 6) (i : BitVec 11) (n : Nat) : t.ea b i n = effective (t.rs b) i.toInt n := by
  have h : t.rs b + imm64 i * BitVec.ofNat 64 n = BitVec.ofInt 64 ((t.rs b).toNat + i.toInt * n) := by
    rw [BitVec.ofInt_add, BitVec.ofInt_mul, BitVec.ofInt_natCast, BitVec.ofInt_natCast, BitVec.ofNat_toNat, BitVec.setWidth_eq, imm64_eq_ofInt]
  rw [Task.ea, h, toNat_ofInt64]
  rfl

theorem strided_eq_strides (t : Machine.Task) (b x : BitVec 6) (j : BitVec 7) : t.strided b x j = strides t b x j := by
  refine List.map_congr_left fun l _ => ?_
  have h : t.rs b + imm64 j * 4 + BitVec.ofNat 64 l * t.rs x = BitVec.ofInt 64 ((t.rs b).toNat + j.toInt * 4 + l * (t.rs x).toInt) := by
    rw [BitVec.ofInt_add, BitVec.ofInt_add, BitVec.ofInt_mul, BitVec.ofInt_mul, BitVec.ofInt_natCast, BitVec.ofInt_natCast, BitVec.ofNat_toNat,
      BitVec.setWidth_eq, imm64_eq_ofInt, BitVec.ofInt_toInt]
    rfl
  rw [h, toNat_ofInt64]

theorem rv_eq_readsVec (t : Machine.Task) (v : BitVec 7) : t.rv v.toNat = readsVec t v 0 0 := rfl

theorem gathered_eq_gathers (t : Machine.Task) (b x : BitVec 6) (sc : BitVec 2) : t.gathered b x.toNat sc.toNat = gathers t b x sc := by
  have hx : (x.setWidth 7).toNat = x.toNat := BitVec.toNat_setWidth_of_le (by decide)
  refine List.map_congr_left fun l _ => ?_
  rw [← hx, rv_eq_readsVec, BitVec.toNat_add, BitVec.toNat_ofNat, Nat.add_mod_mod]

/-! ### The checks -/

/-- Where an access may go, its checks before translation pass. -/
theorem dcheck_of_ownAt {s : State} {a n align : Nat} (h : OwnAt s a n align) : s.dcheck s.now a n align = none := by
  obtain ⟨off, hplace, halign, hreach⟩ := h
  unfold State.dcheck
  rw [hplace]
  simp only [halign, ne_eq, not_true_eq_false, if_false, hreach, if_true]

theorem own_of_ownAt {s : State} {a n align : Nat} (h : OwnAt s a n align) : s.now.own a n = true := by
  obtain ⟨off, hplace, -⟩ := h
  unfold Task.own
  rw [hplace]
  exact beq_self_eq_true _

/-- The scratchpad bytes of a core are in its address space. -/
theorem place_of_placeN_spad {a n c off : Nat} (h : placeN a n = some (.spad c off)) : place a = some (.spad c off) := by
  unfold placeN at h
  cases hp : place a with
  | none => rw [hp] at h; exact nomatch h
  | some p =>
    rw [hp] at h
    cases p with
    | global va => dsimp only at h; split at h <;> exact nomatch h
    | spad c' off' =>
      dsimp only at h
      split at h
      · exact h
      · exact nomatch h
    | alcove c' k => exact nomatch h

theorem isSpad_of_place {a c off : Nat} (h : place a = some (.spad c off)) : isSpad a = true := by
  unfold place at h
  rw [isSpad, beq_iff_eq]
  by_cases h0 : a / 2 ^ 56 = 0x00
  · rw [if_pos h0] at h
    split at h <;> exact nomatch h
  · rw [if_neg h0] at h
    by_cases h5 : a / 2 ^ 56 = 0xC5
    · exact h5
    · rw [if_neg h5] at h
      split at h
      · dsimp only at h
        split at h <;> exact nomatch h
      · exact nomatch h

theorem isHost_of_isSpad {a : Nat} (h : isSpad a = true) : isHost a = false := by
  rw [isSpad, beq_iff_eq] at h
  rw [isHost, decide_eq_false_iff_not]
  omega

theorem isSpad_of_ownAt {s : State} {a n align : Nat} (h : OwnAt s a n align) : isSpad a = true := by
  obtain ⟨off, hplace, -⟩ := h
  exact isSpad_of_place (place_of_placeN_spad hplace)

theorem globalOf_of_ownAt {s : State} {a n align : Nat} (h : OwnAt s a n align) : globalOf a = none := by
  obtain ⟨off, hplace, -⟩ := h
  rw [globalOf, place_of_placeN_spad hplace]

theorem daccess_of_ownAt {s : State} {a n align : Nat} (need : Nat) (h : OwnAt s a n align) : s.daccess s.now a n align need = .ok a := by
  unfold State.daccess
  rw [dcheck_of_ownAt h, globalOf_of_ownAt h]

theorem awaitsWalk_of_mapped {s : State} {a : Nat} (n align : Nat) (h : ∀ va, globalOf a = some va → s.misses s.now va = false) :
    s.awaitsWalk s.now a n align = none := by
  unfold State.awaitsWalk
  cases s.dcheck s.now a n align with
  | some c => rfl
  | none =>
    cases hg : globalOf a with
    | none => rfl
    | some va => exact if_neg (by rw [h va hg]; decide)

/-- A run of addresses that no walk holds and that pass their checks gives its pieces. -/
theorem lsParts_ok {s : State} {need n align : Nat} : ∀ {as ls : List Nat}, Mapped s as →
    as.map (fun a => s.daccess s.now a n align need) = ls.map .ok → s.lsParts s.now need n align as = .ok (ls.map fun l => (l, n))
  | [], [], _, _ => rfl
  | [], _ :: _, _, h => nomatch h
  | _ :: _, [], _, h => nomatch h
  | a :: as, l :: ls, hm, h => by
    obtain ⟨hd, ht⟩ := List.cons.inj h
    have hd : s.daccess s.now a n align need = .ok l := hd
    unfold State.lsParts
    rw [awaitsWalk_of_mapped n align (hm a List.mem_cons_self), hd, lsParts_ok (fun x hx => hm x (List.mem_cons_of_mem _ hx)) ht]
    rfl

/-- The first address of a run that fails its checks decides the fault. -/
theorem lsParts_fault {s : State} {need n align a c w : Nat} {post : List Nat} (ha : Mapped s [a]) (hf : s.daccess s.now a n align need = .error (c, w)) :
    ∀ {pre : List Nat}, Mapped s pre → (∀ y ∈ pre, ∃ l, s.daccess s.now y n align need = .ok l) →
    s.lsParts s.now need n align (pre ++ a :: post) = .error (.fault c w (some a) 0)
  | [], _, _ => by
    rw [List.nil_append]
    unfold State.lsParts
    rw [awaitsWalk_of_mapped n align (ha a List.mem_cons_self), hf]
  | y :: pre, hm, hok => by
    obtain ⟨l, hl⟩ := hok y List.mem_cons_self
    rw [List.cons_append]
    unfold State.lsParts
    rw [awaitsWalk_of_mapped n align (hm y List.mem_cons_self), hl,
      lsParts_fault ha hf (fun x hx => hm x (List.mem_cons_of_mem _ hx)) fun x hx => hok x (List.mem_cons_of_mem _ hx)]

/-- The first address of a run that misses the translation caches decides the hold. -/
theorem lsParts_walk {s : State} {need n align a va : Nat} {post : List Nat} (hc : s.dcheck s.now a n align = none)
    (hg : globalOf a = some va) (hv : s.misses s.now va = true) : ∀ {pre : List Nat}, Mapped s pre →
    (∀ y ∈ pre, ∃ l, s.daccess s.now y n align need = .ok l) → s.lsParts s.now need n align (pre ++ a :: post) = .error (.hold (.walk va) [])
  | [], _, _ => by
    have haw : s.awaitsWalk s.now a n align = some va := by
      unfold State.awaitsWalk
      rw [hc, hg]
      exact if_pos hv
    rw [List.nil_append]
    unfold State.lsParts
    rw [haw]
  | y :: pre, hm, hok => by
    obtain ⟨l, hl⟩ := hok y List.mem_cons_self
    rw [List.cons_append]
    unfold State.lsParts
    rw [awaitsWalk_of_mapped n align (hm y List.mem_cons_self), hl,
      lsParts_walk hc hg hv (fun x hx => hm x (List.mem_cons_of_mem _ hx)) fun x hx => hok x (List.mem_cons_of_mem _ hx)]

theorem lsParts_own {s : State} {n align : Nat} (need : Nat) {as : List Nat} (h : ∀ a ∈ as, OwnAt s a n align) :
    s.lsParts s.now need n align as = .ok (as.map fun l => (l, n)) := by
  refine lsParts_ok (fun a ha va hg => ?_) (List.map_congr_left fun a ha => daccess_of_ownAt need (h a ha))
  rw [globalOf_of_ownAt (h a ha)] at hg
  exact nomatch hg

theorem all_own {s : State} {n align : Nat} {as : List Nat} (h : ∀ a ∈ as, OwnAt s a n align) : (as.all fun a => s.now.own a n) = true :=
  List.all_eq_true.2 fun a ha => own_of_ownAt (h a ha)

/-! ### The forms -/

/-- Every load form is run as a load of its addresses. -/
theorem exec_loadForm {s : State} {d b x : BitVec 6} {v : BitVec 7} {sz : BitVec 2} {i : BitVec 11} {j : BitVec 7} :
    ∀ f ∈ loadForms s.now d b x v sz i j, exec f.instr s = s.runSlot f.shape (s.loadOut f.addrs f.size f.align f.kind f.dst) := by
  simp only [loadForms, List.forall_mem_cons, List.not_mem_nil, false_implies, implies_true, and_true]
  refine ⟨?_, ?_, ?_, ?_, ?_⟩
  · rw [exec_ld, execLd, ea_eq_effective]; rfl
  · rw [exec_ldz, execLdz, ea_eq_effective]; rfl
  · rw [exec_vld, execVld, ea_eq_effective]; rfl
  · rw [exec_vlds, execVlds, strided_eq_strides]; rfl
  · rw [exec_vgth, execVgth, gathered_eq_gathers]; rfl

/-- Every store form is run as a store at its addresses. -/
theorem exec_storeForm {s : State} {d b x : BitVec 6} {v : BitVec 7} {sz : BitVec 2} {i : BitVec 11} {j : BitVec 7} :
    ∀ f ∈ storeForms s.now d b x v sz i j, exec f.instr s = s.runSlot f.shape (s.storeOut f.addrs f.size f.align f.bytes) := by
  simp only [storeForms, List.forall_mem_cons, List.not_mem_nil, false_implies, implies_true, and_true]
  refine ⟨?_, ?_, ?_, ?_⟩
  · rw [exec_st, execSt, ea_eq_effective]
  · rw [exec_vst, execVst, ea_eq_effective]; rfl
  · rw [exec_vsts, execVsts, strided_eq_strides]; rfl
  · rw [exec_vsct, execVsct, gathered_eq_gathers]; rfl

end Sys2Proof.Proofs

/-! Faults, holds and effects of a word, and the order of an access's checks (05 R149). -/

namespace Sys2Proof.Proofs

open Sys2Proof Sys2Proof.Machine Sys2Proof.Rules
open Host (Outcome)

/-! ### Faults, holds and effects -/

/-- A word that comes to a fault traps. -/
theorem traps_of_exec {i : Instr} {s : State} {sh : Shape} {c d n : Nat} {a : Option Nat} (ha : s.admits sh = true)
    (h : exec i s = s.runSlot sh (.fault c d a n)) : Traps i s c d a :=
  ⟨sh, _, _, h.trans (runSlot_fault s sh c d n a ha)⟩

/-- A word that comes to a hold waits. -/
theorem waits_of_exec {i : Instr} {s : State} {sh : Shape} {x : Hold} (ha : s.admits sh = true)
    (h : exec i s = s.runSlot sh (.hold x [])) : Waits i s x :=
  ⟨sh, h.trans (runSlot_hold s sh x [] ha)⟩

/-- A word of plain effects that come to `F` does it, where it tries no memory. -/
theorem does_of_exec {i : Instr} {s : State} {sh : Shape} {es : List Effect} {F : State → State} (hr : s.ready sh = true)
    (h : exec i s = s.runSlot sh (.go es)) (hp : es.all Effect.plain = true)
    (hm : Bundle.triesMemory { logs := [{ slot := s.bun.slot, shape := sh, out := .go es }] } = false)
    (hF : es.foldl State.applyEffect (s.logSlot sh (.go es)) = F (s.logSlot sh (.go es)))
    (ht : (F (s.logSlot sh (.go es))).tid = s.tid) (hb : (F (s.logSlot sh (.go es))).bun = (s.logSlot sh (.go es)).bun)
    (hc : (F (s.logSlot sh (.go es))).calm = true) (hl : (F (s.logSlot sh (.go es))).now.loops = s.now.loops) : Does i s F := by
  obtain ⟨ha, -, hstraight⟩ := (ready_iff s sh).1 hr
  obtain ⟨-, -, hlogs, -⟩ := (admits_iff s sh).1 ha
  refine ⟨sh, es, ?_⟩
  rw [h, runSlot_plain ha hp hF ht hb hc (by rw [hl]; exact hstraight), State.passed, issued_logSlot s _ sh _ hlogs hm]
  rfl

/-! ### The checks of an address (05 R149) -/

theorem daccess_of_dcheck {s : State} {t : Machine.Task} {a n align c : Nat} (need : Nat) (h : s.dcheck t a n align = some c) :
    s.daccess t a n align need = .error (c, if need / 2 % 2 = 1 then 4 else 0) := by
  unfold State.daccess
  rw [h]

theorem dcheck_malformed {s : State} {t : Machine.Task} {a n : Nat} (align : Nat) (h : placeN a n = none) : s.dcheck t a n align = some 0x09 := by
  unfold State.dcheck
  rw [h]

theorem dcheck_misaligned {s : State} {t : Machine.Task} {a n align : Nat} {pl : Place} (h : placeN a n = some pl) (ha : a % align ≠ 0) :
    s.dcheck t a n align = some 0x0A := by
  unfold State.dcheck
  rw [h]
  exact if_pos ha

theorem dcheck_unreached {s : State} {t : Machine.Task} {a n align c off : Nat} (h : placeN a n = some (.spad c off)) (ha : a % align = 0)
    (hr : s.reachN t.rkey c off n = false) : s.dcheck t a n align = some 0x09 := by
  unfold State.dcheck
  rw [h]
  simp only [ha, ne_eq, not_true_eq_false, if_false, hr, Bool.false_eq_true]

theorem loadOut_error {s : State} {as : List Nat} {n align : Nat} {k : LsKind} {d : Dest} {o : SlotOut} (h : s.lsParts s.now 1 n align as = .error o) :
    s.loadOut as n align k d = o := by
  unfold State.loadOut
  simp only [h]

theorem storeOut_error {s : State} {as : List Nat} {n align : Nat} {bs : List Byte} {o : SlotOut} (h : s.lsParts s.now 2 n align as = .error o) :
    s.storeOut as n align bs = o := by
  unfold State.storeOut
  simp only [h]

/-- A fault of the lowest-numbered lane that fails, of a run of mapped addresses. -/
theorem lsParts_first {s : State} {need n align a c w : Nat} {as pre post : List Nat} (hm : Mapped s as) (has : as = pre ++ a :: post)
    (hok : ∀ y ∈ pre, ∃ l, s.daccess s.now y n align need = .ok l) (hf : s.daccess s.now a n align need = .error (c, w)) :
    s.lsParts s.now need n align as = .error (.fault c w (some a) 0) := by
  subst has
  refine lsParts_fault (fun y hy => hm y ?_) hf (fun y hy => hm y (List.mem_append_left _ hy)) hok
  rw [List.mem_singleton.1 hy]
  exact List.mem_append_right _ List.mem_cons_self

/-- Settles O28: each check comes before the next, and each lane before the next. -/
theorem accessChecksInOrder : Obligations.AccessChecksInOrder := by
  refine ⟨fun s t a n align need h => daccess_of_dcheck need (dcheck_malformed align h),
    fun s t a n align need pl h ha => daccess_of_dcheck need (dcheck_misaligned h ha),
    fun s t a n align need c off h ha hr => daccess_of_dcheck need (dcheck_unreached h ha hr),
    fun s d b x v sz i j f hf hr hm pre a post c w has hok herr => ?_, fun s d b x v sz i j f hf hr hm pre a post c w has hok herr => ?_⟩
  · exact traps_of_exec ((ready_iff s _).1 hr).1 ((exec_loadForm f hf).trans (congrArg _ (loadOut_error (lsParts_first hm has hok herr))))
  · exact traps_of_exec ((ready_iff s _).1 hr).1 ((exec_storeForm f hf).trans (congrArg _ (storeOut_error (lsParts_first hm has hok herr))))

end Sys2Proof.Proofs

/-! Loads and stores in the own scratchpad (05 R144, R145, R152-R156). -/

namespace Sys2Proof.Proofs

open Sys2Proof Sys2Proof.Machine Sys2Proof.Rules
open Host (Outcome)

/-! ### The pieces of an own access -/

/-- A state whose scratchpad rows have other timestamps and were last served otherwise. -/
def rowsSeen (s : State) (st : Tab (Nat × Nat)) (ra : Tab (Nat × Nat)) : State := { s with stamps := st, rowAt := ra }

theorem loadLine_spad {s : State} {loc : Nat} (cluster pts n : Nat) (h : isSpad loc = true) :
    ∃ p st ra, pts ≤ p ∧ s.loadLine cluster pts loc n = (p, memBytes s.mem loc n, rowsSeen s st ra) := by
  unfold State.loadLine
  rw [isHost_of_isSpad h, h]
  exact ⟨_, _, _, Nat.le_max_left _ _, rfl⟩

/-- The kind of a load. -/
def isLoad : LsKind → Bool
  | .load _ _ => true
  | .vload => true
  | _ => false

/-- The bytes at these places, in order. -/
def bytesAt (m : Memory) (n : Nat) (as : List Nat) : List Byte := (as.map fun a => memBytes m a n).flatten

/-- Loads in the scratchpad gather their bytes and move the clock on. -/
theorem doPieces_load {k : LsKind} (hk : isLoad k = true) (n : Nat) : ∀ (as : List Nat) (s : State) (t : Machine.Task) (data : List Byte),
    (∀ a ∈ as, isSpad a = true) → ∃ p st ra, t.pts ≤ p ∧
      s.doPieces t k data (as.map fun a => (a, n)) = ({ t with pts := p }, data ++ bytesAt s.mem n as, rowsSeen s st ra)
  | [], s, t, data, _ => ⟨t.pts, s.stamps, s.rowAt, Nat.le_refl _, by
      show (t, data, s) = (t, data ++ [], s)
      rw [List.append_nil]⟩
  | a :: as, s, t, data, h => by
    obtain ⟨p, st, ra, hp, hline⟩ := loadLine_spad (s := s) (clusterOf t.core) t.pts n (h a List.mem_cons_self)
    have hpiece : s.doPiece t k data (a, n) = ({ t with pts := p }, data ++ memBytes s.mem a n, rowsSeen s st ra) := by
      unfold State.doPiece
      cases k <;> first | exact Bool.noConfusion hk | simp only [hline]
    obtain ⟨q, su, rb, hq, hrest⟩ := doPieces_load hk n as (rowsSeen s st ra) { t with pts := p } (data ++ memBytes s.mem a n)
      fun x hx => h x (List.mem_cons_of_mem _ hx)
    refine ⟨q, su, rb, Nat.le_trans hp hq, ?_⟩
    rw [List.map_cons, State.doPieces, hpiece]
    simp only [hrest]
    rw [bytesAt, bytesAt, List.map_cons, List.flatten_cons, List.append_assoc]
    rfl

/-- A state after stores of its own scratchpad: its memory, its rows' timestamps and services, and what a partition has noted. -/
def rowsWritten (s : State) (m : Memory) (st ra : Tab (Nat × Nat)) (ps : Tab Part) : State :=
  { s with mem := m, stamps := st, rowAt := ra, parts := ps }

/-- No partition has a checkpoint pending. -/
def noCheckpoint (ps : Tab Part) : Prop := ∀ x ∈ ps, x.2.ck = none

theorem noCheckpoint_tabPut {ps : Tab Part} {p : Nat} {q : Part} (h : noCheckpoint ps) (hq : q.ck = none) : noCheckpoint (tabPut ps p q) := by
  have hall : (tabPut ps p q).all (fun x => x.2.ck.isNone) = true :=
    tabPut_all ps p q (fun x => x.2.ck.isNone) (List.all_eq_true.2 fun x hx => Option.isNone_iff_eq_none.2 (h x hx)) (Option.isNone_iff_eq_none.2 hq)
  exact fun x hx => Option.isNone_iff_eq_none.1 (List.all_eq_true.1 hall x hx)

theorem ck_part {s : State} (h : noCheckpoint s.parts) (p : Nat) : (s.part p).ck = none := by
  unfold State.part tabGet
  cases hf : tabFind s.parts p with
  | none => rfl
  | some q => exact h _ (tabFind_mem _ _ _ hf)

theorem noteWrite_parts (s : State) (loc w : Nat) (h : noCheckpoint s.parts) :
    ∃ ps, noCheckpoint ps ∧ s.noteWrite loc w = { s with parts := ps } := by
  unfold State.noteWrite
  split
  · next p _ => exact ⟨_, noCheckpoint_tabPut (q := { s.part p with raise := max (s.part p).raise w }) h (ck_part h p), rfl⟩
  · exact ⟨s.parts, h, rfl⟩

theorem writeLine_spad {s : State} {loc : Nat} (cluster pts : Nat) (bs : List Byte) (h : isSpad loc = true) (hc : noCheckpoint s.parts) :
    ∃ p st ra ps, pts ≤ p ∧ noCheckpoint ps ∧ s.writeLine cluster pts loc bs = (p, rowsWritten s (memPutBytes s.mem loc bs) st ra ps) := by
  have hfill : s.fillL2 loc = s := by unfold State.fillL2; rw [h]; rfl
  unfold State.writeLine
  rw [isHost_of_isSpad h, hfill]
  simp only [h, Bool.false_eq_true, if_false, if_true]
  obtain ⟨ps, hps, hnote⟩ := noteWrite_parts (State.serveRow { s with
    mem := memPutBytes s.mem loc bs,
    stamps := tabPut s.stamps (lineOf loc) (max pts ((s.stamp (lineOf loc)).2 + 1), max pts ((s.stamp (lineOf loc)).2 + 1)) } loc) loc
    (max pts ((s.stamp (lineOf loc)).2 + 1)) hc
  exact ⟨_, _, _, ps, Nat.le_max_left _ _, hps, Prod.ext rfl hnote⟩

/-- Stores in the scratchpad write their bytes in order and move the clock on. -/
theorem doPieces_store (n : Nat) : ∀ (as : List Nat) (s : State) (t : Machine.Task) (data : List Byte), noCheckpoint s.parts →
    (∀ a ∈ as, isSpad a = true) → ∃ p rest st ra ps, t.pts ≤ p ∧ noCheckpoint ps ∧
      s.doPieces t .store data (as.map fun a => (a, n)) = ({ t with pts := p }, rest, rowsWritten s (storedTo s.mem n as data) st ra ps)
  | [], s, t, data, hc, _ => ⟨t.pts, data, s.stamps, s.rowAt, s.parts, Nat.le_refl _, hc, rfl⟩
  | a :: as, s, t, data, hc, h => by
    have ha := h a List.mem_cons_self
    obtain ⟨p, st, ra, ps, hp, hps, hline⟩ := writeLine_spad (s := s) (clusterOf t.core) t.pts (data.take n) ha hc
    have hpiece : s.doPiece t .store data (a, n) =
        ({ t with pts := p }, data.drop n, rowsWritten s (memPutBytes s.mem a (data.take n)) st ra ps) := by
      unfold State.doPiece
      simp only [hline, isHost_of_isSpad ha, Bool.false_eq_true, if_false]
    obtain ⟨q, rest, su, rb, ps', hq, hps', hrest⟩ := doPieces_store n as (rowsWritten s (memPutBytes s.mem a (data.take n)) st ra ps)
      { t with pts := p } (data.drop n) hps fun x hx => h x (List.mem_cons_of_mem _ hx)
    refine ⟨q, rest, su, rb, ps', Nat.le_trans hp hq, hps', ?_⟩
    rw [List.map_cons, State.doPieces, hpiece]
    simp only [hrest]
    rfl

/-! ### The stall of the banks -/

/-- The cycles that the rows of an own access cost its core (05 R144). -/
def bankDelay (s : State) (core : Nat) (ps : List (Nat × Nat)) : Nat :=
  let rows := nodups (ps.map fun p => p.1 % 2 ^ 19 / 64)
  let banks := nodups (rows.map fun r => r / 512)
  let taken := banks.filter fun b => !(rows.all fun r => r / 512 != b || s.bankFree (spadAddr core (64 * r)))
  let rivals := banks.filter fun b => !taken.contains b && s.bankRival core b
  (rows.map fun r => (rows.filter fun q => q / 512 == r / 512).length).foldl max 1 - 1 +
    (taken.length + (rivals.filter fun b => Config.freeBit (s.free + b)).length)

/-- The core that has paid for its rows. -/
def delayed (k : Machine.Core) (n : Nat) : Machine.Core := { k with wait := k.wait + n }

/-- The cores after an own access's rows are paid for. -/
def delayedCores (s : State) (core n : Nat) : Tab Machine.Core := if n = 0 then s.cores else tabPut s.cores core (delayed (s.core core) n)

/-- The banks' stall makes the core wait; how far the free choices have been drawn also changes. -/
theorem bankStall_eq (s : State) (core : Nat) (ps : List (Nat × Nat)) :
    ∃ f, s.bankStall core ps = { s with free := f, cores := delayedCores s core (bankDelay s core ps) } := by
  have h1 : ∀ (b : Bool), ∃ f, (if b = true then s else { s with free := s.free + 16 } : State) = { s with free := f } := fun b => by
    cases b
    · exact ⟨_, rfl⟩
    · exact ⟨s.free, rfl⟩
  unfold State.bankStall
  extract_lets rows most banks taken rivals late s1 k
  obtain ⟨f, hf⟩ : ∃ f, s1 = { s with free := f } := h1 rivals.isEmpty
  have hk : k = s.core core := (congrArg (State.core · core) hf).trans rfl
  refine ⟨f, ?_⟩
  rw [hk, hf, delayedCores]
  by_cases h : bankDelay s core ps = 0
  · rw [if_pos h]
    exact if_pos h
  · rw [if_neg h]
    exact if_neg h

theorem delayedCores_cur (s : State) (core n c : Nat) : (tabGet (delayedCores s core n) {} c).cur = (s.core c).cur := by
  unfold delayedCores
  split
  · rfl
  · show ((s.putCore core (delayed (s.core core) n)).core c).cur = _
    rw [core_putCore]
    split
    · next hc => rw [hc]; rfl
    · rfl

theorem paid_eq (s : State) (ps : List (Nat × Nat)) : paid s ps = { s with cores := delayedCores s s.now.core (bankDelay s s.now.core ps) } := by
  obtain ⟨f, hf⟩ := bankStall_eq s s.now.core ps
  rw [paid, hf]

theorem paid_tid (s : State) (ps : List (Nat × Nat)) : (paid s ps).tid = s.tid := by
  rw [paid_eq]
  exact delayedCores_cur ..

end Sys2Proof.Proofs

/-! Own-scratchpad loads are usable from +6, and own-scratchpad stores write their bytes (05 R145, R152-R156). -/

namespace Sys2Proof.Proofs

open Sys2Proof Sys2Proof.Machine Sys2Proof.Rules
open Host (Outcome)

/-! ### A word whose effect is an own access -/

/-- A state after an own access of its current task: what the rows and banks show, and the task as it stands. -/
def accessed (s : State) (f n : Nat) (m : Memory) (st ra : Tab (Nat × Nat)) (ps : Tab Part) (k : Machine.Task) : State :=
  { rowsWritten s m st ra ps with free := f, cores := delayedCores s s.now.core n, tasks := tabPut s.tasks s.tid k }

theorem tid_accessed (s : State) (f n : Nat) (m : Memory) (st ra : Tab (Nat × Nat)) (ps : Tab Part) (k : Machine.Task) :
    (accessed s f n m st ra ps k).tid = s.tid := delayedCores_cur ..

theorem now_accessed (s : State) (f n : Nat) (m : Memory) (st ra : Tab (Nat × Nat)) (ps : Tab Part) (k : Machine.Task) :
    (accessed s f n m st ra ps k).now = k := by
  rw [State.now, tid_accessed]
  exact task_putTask_self s s.tid k

theorem calm_accessed {s : State} {f n : Nat} {m : Memory} {st ra : Tab (Nat × Nat)} {ps : Tab Part} {k : Machine.Task} (hc : s.calm = true)
    (hps : noCheckpoint ps) (hr : k.redo = s.now.redo) : (accessed s f n m st ra ps k).calm = true := by
  obtain ⟨hdoom, hregions, -, -⟩ := (calm_iff s).1 hc
  have hput : (s.putTask s.tid k).calm = true := calm_putTask s s.tid k hc (hr.trans (redo_of_calm s s.tid hc))
  obtain ⟨-, -, -, htasks⟩ := (calm_iff _).1 hput
  exact (calm_iff _).2 ⟨hdoom, hregions, hps, htasks⟩

/-- A word whose one effect is an own access: it acts, and its task moves on. -/
theorem runSlot_access {s : State} {sh : Shape} {e : Effect} {f n : Nat} {m : Memory} {st ra : Tab (Nat × Nat)} {ps : Tab Part} {k : Machine.Task}
    (h : s.clear sh = true) (hp : e.plain = true)
    (he : (s.logSlot sh (.go [e])).applyEffect e = accessed (s.logSlot sh (.go [e])) f n m st ra ps k)
    (hps : noCheckpoint ps) (hr : k.redo = s.now.redo) (hl : k.loops = s.now.loops) :
    s.runSlot sh (.go [e]) = .next ((accessed (s.logSlot sh (.go [e])) f n m st ra ps k).passed s.tid (s.logSlot sh (.go [e])).bun) := by
  obtain ⟨ha, hc, -, hstraight⟩ := (clear_iff s sh).1 h
  exact runSlot_plain (es := [e]) ha (by simp [hp]) he (tid_accessed ..) rfl (calm_accessed (calm_congr s _ hc rfl rfl rfl rfl) hps hr)
    (by rw [now_accessed, hl]; exact hstraight)

/-- What it leads to: the core has paid for the rows, and nothing else has moved but what an own access may move. -/
theorem leads_access {s : State} {sh : Shape} {o : SlotOut} {f : Nat} {m : Memory} {st ra : Tab (Nat × Nat)} {ps : Tab Part}
    {k u : Machine.Task} {r : Option Res} (pieces : List (Nat × Nat))
    (hk : Follows (k.issued (s.logSlot sh o).bun).bump u r) :
    (paid s pieces).Leads { (accessed (s.logSlot sh o) f (bankDelay s s.now.core pieces) m st ra ps k).passed s.tid (s.logSlot sh o).bun with
      mem := s.mem, stamps := s.stamps, parts := s.parts, rowAt := s.rowAt } u r 0 := by
  let w : State := { (accessed (s.logSlot sh o) f (bankDelay s s.now.core pieces) m st ra ps k).passed s.tid (s.logSlot sh o).bun with
      mem := s.mem, stamps := s.stamps, parts := s.parts, rowAt := s.rowAt }
  have htid := paid_tid s pieces
  have htask : w.task s.tid = (k.issued (s.logSlot sh o).bun).bump := by
    have hk : (accessed (s.logSlot sh o) f (bankDelay s s.now.core pieces) m st ra ps k).task s.tid = k := task_putTask_self s s.tid k
    show (State.putTask (accessed (s.logSlot sh o) f (bankDelay s s.now.core pieces) m st ra ps k) s.tid _).task s.tid = _
    rw [task_putTask_self, hk]
  refine leads_unstalled (t := w) (by rw [htid, htask]; exact hk) ?_
  rw [paid_eq] at htid ⊢
  refine ⟨rfl, rfl, fun x hx => ?_, ⟨rfl, rfl, rfl, rfl, rfl, rfl, rfl⟩, ⟨rfl, rfl, rfl, rfl, rfl, rfl⟩,
    ⟨rfl, rfl, rfl, rfl, rfl, rfl, rfl, rfl, rfl⟩, ⟨rfl, rfl, rfl, rfl, rfl, rfl, rfl, rfl, rfl⟩, ⟨rfl, rfl, rfl, rfl, rfl⟩⟩
  rw [htid] at hx
  exact (task_putTask_ne _ _ _ _ hx).trans (task_putTask_ne s s.tid x k hx)

end Sys2Proof.Proofs

/-! Own-scratchpad loads are usable from +6, and own-scratchpad stores write their bytes (05 R145, R152-R156). -/

namespace Sys2Proof.Proofs

open Sys2Proof Sys2Proof.Machine Sys2Proof.Rules
open Host (Outcome)

/-! ### Values of bytes -/

theorem leNat_append (xs ys : List Byte) : leNat (xs ++ ys) = leNat xs + 2 ^ (8 * xs.length) * leNat ys := by
  induction xs with
  | nil => simp [leNat]
  | cons x xs ih =>
    rw [List.cons_append, leNat, leNat, ih, List.length_cons, Nat.mul_add, ← Nat.mul_assoc, Nat.mul_succ, Nat.pow_add]
    ring

theorem leNat_lt (bs : List Byte) : leNat bs < 2 ^ (8 * bs.length) := by
  induction bs with
  | nil => simp [leNat]
  | cons b bs ih =>
    have hb : b.toNat < 2 ^ 8 := b.isLt
    rw [leNat, List.length_cons, Nat.mul_succ, Nat.pow_add, Nat.mul_comm]
    omega

theorem length_memBytes (m : Memory) (a n : Nat) : (memBytes m a n).length = n := by
  induction n generalizing a with
  | zero => rfl
  | succ n ih => rw [memBytes, List.length_cons, ih]

theorem memNat_lt (m : Memory) (a n : Nat) : memNat m a n < 2 ^ (8 * n) := by
  have h := leNat_lt (memBytes m a n)
  rwa [length_memBytes] at h

/-- Lanes gathered in order are the lanes of a register. -/
theorem leNat_bytesAt (m : Memory) (as : List Nat) : leNat (bytesAt m 4 as) = as.foldr (fun a acc => memNat m a 4 + 2 ^ 32 * acc) 0 := by
  induction as with
  | nil => rfl
  | cons a as ih =>
    rw [bytesAt, List.map_cons, List.flatten_cons, leNat_append, length_memBytes, List.foldr_cons, ← ih]
    rfl

theorem ofNat_leNat_bytesAt (m : Memory) {as : List Nat} (h : as.length = 16) : BitVec.ofNat 512 (leNat (bytesAt m 4 as)) = lanesAt as m := by
  have hlane : ∀ l, (BitVec.ofNat 32 (memNat m (as.getD l 0) 4)).toNat = memNat m (as.getD l 0) 4 := fun l => by
    rw [BitVec.toNat_ofNat, Nat.mod_eq_of_lt (memNat_lt m _ 4)]
  have has : as = (List.range 16).map fun l => as.getD l 0 := by
    refine List.ext_getElem (by simp [h]) fun l h1 h2 => ?_
    rw [List.getElem_map, List.getElem_range, List.getD_eq_getElem _ _ h1]
  rw [lanesAt, fromLanes]
  simp only [hlane]
  rw [leNat_bytesAt]
  conv_lhs => rw [has, List.foldr_map]

theorem signExtended (n v : Nat) (hn : 0 < n) : BitVec.ofNat 512 (extend true n v) = ((BitVec.ofNat (8 * n) v).signExtend 64).setWidth 512 := by
  rw [extend, if_pos rfl, signed_eq_toInt (by omega), intBits_eq_toNat]
  exact BitVec.ofNat_toNat 512 (BitVec.signExtend 64 _)

/-- What each load form's bytes give its register. -/
theorem value_loadForm {s : State} {d b x : BitVec 6} {v : BitVec 7} {sz : BitVec 2} {i : BitVec 11} {j : BitVec 7} (m : Memory) :
    ∀ f ∈ loadForms s.now d b x v sz i j, isLoad f.kind = true ∧ f.kind.value (bytesAt m f.size f.addrs) = f.value m := by
  have hone : ∀ a n, bytesAt m n [a] = memBytes m a n := fun a n => List.append_nil _
  simp only [loadForms, List.forall_mem_cons, List.not_mem_nil, false_implies, implies_true, and_true, hone]
  refine ⟨⟨rfl, ?_⟩, ⟨rfl, rfl⟩, ⟨rfl, rfl⟩, ⟨rfl, ?_⟩, ⟨rfl, ?_⟩⟩
  · exact signExtended (2 ^ sz.toNat) _ (Nat.two_pow_pos _)
  · exact ofNat_leNat_bytesAt m (by simp [strides])
  · exact ofNat_leNat_bytesAt m (by simp [gathers])

/-- The register of a load form is one that its shape writes. -/
theorem full_loadForm {s : State} {d b x : BitVec 6} {v : BitVec 7} {sz : BitVec 2} {i : BitVec 11} {j : BitVec 7} :
    ∀ f ∈ loadForms s.now d b x v sz i j, s.clear f.shape = true → s.now.isEmpty f.dst = false := by
  simp only [loadForms, List.forall_mem_cons, List.not_mem_nil, false_implies, implies_true, and_true]
  exact ⟨fun h => isEmpty_of_clear s _ _ h (List.mem_singleton_self _), fun h => isEmpty_of_clear s _ _ h (List.mem_singleton_self _),
    fun h => isEmpty_turned_of_clear s _ v h (List.mem_singleton_self _), fun h => isEmpty_turned_of_clear s _ v h (List.mem_singleton_self _),
    fun h => isEmpty_turned_of_clear s _ v h (List.mem_singleton_self _)⟩

/-! ### Loads -/

theorem noCheckpoint_of_calm {s : State} (h : s.calm = true) : noCheckpoint s.parts := ((calm_iff s).1 h).2.2.1

theorem loadOut_own {s : State} {as : List Nat} {n align : Nat} (k : LsKind) (d : Dest) (h : ∀ a ∈ as, OwnAt s a n align) (hq : s.now.lsq = []) :
    s.loadOut as n align k d = .go [.local_ k (as.map fun a => (a, n)) [] [d]] := by
  have hclears : s.holdClears s.tid .lsq = true := by
    show s.now.lsq.isEmpty = true
    rw [hq]; rfl
  unfold State.loadOut
  simp only [lsParts_own 1 h, all_own h, if_true]
  exact if_pos hclears

/-- The effect of an own load: its value leaves for the register. -/
theorem apply_local_load {s : State} {k : LsKind} (hk : isLoad k = true) (n : Nat) {as : List Nat} (d : Dest) (h : ∀ a ∈ as, isSpad a = true) :
    ∃ p st ra f, s.now.pts ≤ p ∧ s.applyEffect (.local_ k (as.map fun a => (a, n)) [] [d]) =
      accessed s f (bankDelay s s.now.core (as.map fun a => (a, n))) s.mem st ra s.parts
        (({ s.now with pts := p } : Machine.Task).launch d 6 (k.value (bytesAt s.mem n as)) 0xFFFF) := by
  obtain ⟨f, hf⟩ := bankStall_eq s s.now.core (as.map fun a => (a, n))
  obtain ⟨p, st, ra, hp, hpieces⟩ := doPieces_load hk n as (s.bankStall s.now.core (as.map fun a => (a, n))) s.now [] h
  refine ⟨p, st, ra, f, hp, ?_⟩
  unfold State.applyEffect
  simp only [hpieces, List.nil_append]
  simp only [hf]
  rfl

/-- Settles O25: the load is performed at issue, under the task's clock. -/
theorem ownLoadsAreUsableFromSix : Obligations.OwnLoadsAreUsableFromSix := by
  intro s d b x v sz i j f hf h hq hown
  obtain ⟨hkind, hvalue⟩ := value_loadForm s.mem f hf
  obtain ⟨-, hc, ⟨hflights, hprods⟩, -⟩ := (clear_iff s _).1 h
  let e : Effect := .local_ f.kind (f.addrs.map fun a => (a, f.size)) [] [f.dst]
  let u := s.logSlot f.shape (.go [e])
  obtain ⟨p, st, ra, fr, hp, happly⟩ := apply_local_load (s := u) hkind f.size f.dst fun a ha => isSpad_of_ownAt (hown a ha)
  rw [show f.kind.value (bytesAt u.mem f.size f.addrs) = f.value s.mem from hvalue] at happly
  let t0 : Machine.Task := { s.now with pts := p }
  let k := t0.launch f.dst 6 (f.value s.mem) 0xFFFF
  obtain ⟨hredo, -⟩ := launch_kept t0 f.dst 6 (f.value s.mem) 0xFFFF
  have hloops : k.loops = s.now.loops := by unfold k Task.launch; split <;> rfl
  have hrun := runSlot_access h rfl happly (noCheckpoint_of_calm hc) hredo hloops
  let pieces := f.addrs.map fun a => (a, f.size)
  refine ⟨(accessed u fr (bankDelay s s.now.core pieces) s.mem st ra s.parts k).passed s.tid u.bun, ?_, p, hp, ?_⟩
  · rw [exec_loadForm f hf, loadOut_own f.kind f.dst hown hq]
    exact hrun
  · refine leads_access pieces ?_
    have hk : k.issued u.bun = (t0.issued u.bun).launch f.dst 6 (f.value s.mem) 0xFFFF := launch_issued ..
    rw [hk]
    exact (follows_launch (t := t0.issued u.bun) (r := { dst := f.dst, off := 6, val := f.value s.mem }) hflights hprods (by show 1 ≤ 6; decide)
      (full_loadForm f hf h)).of_alike ⟨⟨rfl, rfl, rfl, rfl, rfl⟩, rfl, ⟨⟨rfl, rfl, rfl, rfl, rfl⟩, ⟨rfl, rfl, rfl, rfl⟩, ⟨rfl, rfl, rfl, rfl⟩,
        ⟨rfl, rfl, rfl, rfl, rfl⟩, ⟨rfl, rfl, rfl, rfl, rfl, rfl⟩⟩, rfl⟩

end Sys2Proof.Proofs

/-! Own-scratchpad stores write exactly their bytes (05 R145, R152-R156). -/

namespace Sys2Proof.Proofs

open Sys2Proof Sys2Proof.Machine Sys2Proof.Rules
open Host (Outcome)

/-- Stores leave a byte that stands outside all their places. -/
theorem memByte_storedTo_out {n c : Nat} : ∀ (as : List Nat) (m : Memory) (bs : List Byte), (∀ a ∈ as, c < a ∨ a + n ≤ c) →
    memByte (storedTo m n as bs) c = memByte m c
  | [], _, _, _ => rfl
  | a :: as, m, bs, h => by
    have hlen : (bs.take n).length ≤ n := List.length_take_le n bs
    have ha := h a List.mem_cons_self
    rw [storedTo, memByte_storedTo_out as _ _ fun x hx => h x (List.mem_cons_of_mem _ hx), memByte_memPutBytes_out _ _ _ _ (by omega)]

/-- Places whose rows are clear hold no store back. -/
theorem orRows_clear {s : State} {n : Nat} {as : List Nat} (o : SlotOut) (h : ∀ a ∈ as, s.holdClears s.tid (.rows a (a + n)) = true) :
    s.orRows (as.map fun a => (a, n)) o = o := by
  have hnone : (as.map fun a => (a, n)).find? (fun p => !s.holdClears s.tid (.rows p.1 (p.1 + p.2))) = none := by
    refine List.find?_eq_none.2 fun p hp => ?_
    obtain ⟨a, ha, rfl⟩ := List.mem_map.1 hp
    rw [h a ha]
    decide
  unfold State.orRows
  rw [hnone]

theorem storeOut_own {s : State} {as : List Nat} {n align : Nat} (data : List Byte) (h : ∀ a ∈ as, OwnAt s a n align) (hq : s.now.lsq = [])
    (hrun : s.now.run = 0) (hrows : ∀ a ∈ as, s.holdClears s.tid (.rows a (a + n)) = true) :
    s.storeOut as n align data = .go [.local_ .store (as.map fun a => (a, n)) data []] := by
  have hclears : s.holdClears s.tid .lsq = true := by
    show s.now.lsq.isEmpty = true
    rw [hq]; rfl
  unfold State.storeOut
  simp only [lsParts_own 2 h, all_own h, hrun, if_true, orRows_clear _ hrows]
  exact if_pos hclears

/-- The effect of an own store: its bytes stand in memory. -/
theorem apply_local_store {s : State} (n : Nat) {as : List Nat} (data : List Byte) (hc : noCheckpoint s.parts) (h : ∀ a ∈ as, isSpad a = true) :
    ∃ p st ra ps f, s.now.pts ≤ p ∧ noCheckpoint ps ∧ s.applyEffect (.local_ .store (as.map fun a => (a, n)) data []) =
      accessed s f (bankDelay s s.now.core (as.map fun a => (a, n))) (storedTo s.mem n as data) st ra ps { s.now with pts := p } := by
  obtain ⟨f, hf⟩ := bankStall_eq s s.now.core (as.map fun a => (a, n))
  have hparts : noCheckpoint (s.bankStall s.now.core (as.map fun a => (a, n))).parts := by rw [hf]; exact hc
  obtain ⟨p, rest, st, ra, ps, hp, hps, hpieces⟩ := doPieces_store n as (s.bankStall s.now.core (as.map fun a => (a, n))) s.now data hparts h
  refine ⟨p, st, ra, ps, f, hp, hps, ?_⟩
  unfold State.applyEffect
  simp only [hpieces]
  simp only [hf]
  rfl

/-- Settles O26: the store is performed at issue, under the task's clock. -/
theorem ownStoresWriteTheirBytes : Obligations.OwnStoresWriteTheirBytes := by
  intro s d b x v sz i j f hf h hq hrun hrows
  have hown := fun a ha => (hrows a ha).1
  obtain ⟨-, hc, ⟨hflights, hprods⟩, -⟩ := (clear_iff s _).1 h
  let pieces := f.addrs.map fun a => (a, f.size)
  let u := s.logSlot f.shape (.go [.local_ .store pieces f.bytes []])
  obtain ⟨p, st, ra, ps, fr, hp, hps, happly⟩ :=
    apply_local_store (s := u) f.size f.bytes (noCheckpoint_of_calm hc) fun a ha => isSpad_of_ownAt (hown a ha)
  let k : Machine.Task := { s.now with pts := p }
  refine ⟨(accessed u fr (bankDelay s s.now.core pieces) (storedTo s.mem f.size f.addrs f.bytes) st ra ps k).passed s.tid u.bun, ?_, rfl,
    fun c hc => memByte_storedTo_out _ _ _ hc, p, hp, leads_access pieces ?_⟩
  · rw [exec_storeForm f hf, storeOut_own f.bytes hown hq hrun fun a ha => (hrows a ha).2]
    exact runSlot_access h rfl happly hps rfl rfl
  · exact (follows_bump (t := k.issued u.bun) hflights hprods).of_alike ⟨⟨rfl, rfl, rfl, rfl, rfl⟩, rfl,
      ⟨⟨rfl, rfl, rfl, rfl, rfl⟩, ⟨rfl, rfl, rfl, rfl⟩, ⟨rfl, rfl, rfl, rfl⟩, ⟨rfl, rfl, rfl, rfl, rfl⟩, ⟨rfl, rfl, rfl, rfl, rfl, rfl⟩⟩, rfl⟩

end Sys2Proof.Proofs

/-! A handler's first access of memory (05 R170; 07 R208; 11 R337): why the bundles of accesses that join the LS queue do more than queue them. -/

namespace Sys2Proof.Proofs

open Sys2Proof Sys2Proof.Machine Sys2Proof.Rules
open Host (Outcome)

/-- Task 1, a handler that has made no access of memory since its last delivery (07 R208), on core 0, about to execute one LS word; s2 is an
address in the scratchpad of core 1, which its region may reach. -/
def firstAccess : State :=
  { State.reset with
    bun := { hdr := 2 ^ 5, pc := 1, next := 3, slot := 5 }
    regions := [(1, { id := 1, flags := 4, dies := 1 })]
    banks := [(16, 1)]
    tasks := [(1, Task.putS { tid := 1, region := 1, started := true, pc := 1, handler := true, untried := true } 2 (BitVec.ofNat 64 (spadAddr 1 0)))]
    cores := [(0, { tasks := [1], cur := 1 })] }

/-- Whether task 1, after a run that goes on, has made no access of memory since its last delivery. -/
def leavesUntried : Outcome State Fault Refusal → Option Bool
  | .next t => some (t.task 1).untried
  | _ => none

/-- The task after a bundle that only queues an access. -/
def queued (k : LsKind) (as : List Nat) (ps : List (Nat × Nat)) (ds : List Dest) : Machine.Task :=
  (((queues k as ps [] ds firstAccess).task 1).issued firstAccess.bun).bump

/-- A word that clears the mark of a handler's first access does not only queue its access. -/
theorem not_does_queues {i : Instr} {k : LsKind} {as : List Nat} {ps : List (Nat × Nat)} {ds : List Dest}
    (hdone : leavesUntried (exec i firstAccess) = some false) (hqueued : (queued k as ps ds).untried = true) :
    ¬ Does i firstAccess (queues k as ps [] ds) := by
  rintro ⟨sh, es, he⟩
  let u := queues k as ps [] ds (firstAccess.logSlot sh (.go es))
  have htask : (u.passed 1 firstAccess.bun).task 1 = queued k as ps ds := task_putTask_self u 1 _
  have hleft : leavesUntried (exec i firstAccess) = some true := by
    rw [he]
    exact congrArg some ((congrArg Task.untried htask).trans hqueued)
  exact nomatch hdone.symm.trans hleft

theorem mapped_of_none {s : State} {as : List Nat} (h : ∀ a ∈ as, globalOf a = none) : Mapped s as := fun a ha va hg => by
  rw [h a ha] at hg
  exact nomatch hg

/-- Refutes O27: a load's bundle also takes away the mark that its handler has made no access yet (07 R208). -/
theorem not_otherAccessesJoinTheQueue : ¬ Obligations.OtherAccessesJoinTheQueue := by
  rintro ⟨hload, -, -⟩
  exact not_does_queues (i := .ld 3 2 3 0) (by decide +kernel) (by decide +kernel)
    (hload firstAccess 3 2 0 0 3 0 0 _ List.mem_cons_self (by decide +kernel) (mapped_of_none (by decide +kernel))
      [spadAddr 1 0] (by decide +kernel) ⟨_, List.mem_singleton_self _, by decide +kernel⟩ (by decide +kernel))

/-- Refutes O32: an atomic's bundle also takes away the mark that its handler has made no access yet (07 R208). -/
theorem not_atomicsJoinTheQueue : ¬ Obligations.AtomicsJoinTheQueue := by
  intro h
  exact not_does_queues (i := .aadd 3 2 0 0 3) (by decide +kernel) (by decide +kernel)
    (h _ _ _ _ _ List.mem_cons_self firstAccess 3 2 0 3 (.inr rfl) (by decide +kernel) (by decide +kernel) (mapped_of_none (by decide +kernel))
      (spadAddr 1 0) (by decide +kernel) (by decide +kernel) (by decide +kernel))

end Sys2Proof.Proofs

/-! Fills and spills of the niche window (05 R157; 01 R28). -/

namespace Sys2Proof.Proofs

open Sys2Proof Sys2Proof.Machine Sys2Proof.Rules
open Host (Outcome)

theorem nicheCheck_inside {t : Machine.Task} {o n : Nat} (w : Nat) (ha : o % n = 0) (hin : o + n ≤ 1024 * t.nicheKiB) : t.nicheCheck o n w = none := by
  rw [Task.nicheCheck, if_neg (not_not.2 ha), if_neg (Nat.not_lt.2 hin)]

theorem nicheCheck_outside {t : Machine.Task} {o n : Nat} (w : Nat) (ha : o % n = 0) (hout : 1024 * t.nicheKiB < o + n) :
    t.nicheCheck o n w = some (.fault 0x0B w none 0) := by
  rw [Task.nicheCheck, if_neg (not_not.2 ha), if_pos hout]

theorem fillOut_inside {s : State} {o n : Nat} (res : Nat → Effect) (ha : o % n = 0) (hin : o + n ≤ 1024 * s.now.nicheKiB) :
    s.fillOut o n res = .go [res (memNat s.now.niche o n)] := by
  rw [State.fillOut, nicheCheck_inside 0 ha hin]

theorem fillOut_outside {s : State} {o n : Nat} (res : Nat → Effect) (ha : o % n = 0) (hout : 1024 * s.now.nicheKiB < o + n) :
    s.fillOut o n res = .fault 0x0B 0 none 0 := by
  rw [State.fillOut, nicheCheck_outside 0 ha hout]

theorem spillOut_inside {s : State} {o n : Nat} (bs : List Byte) (ha : o % n = 0) (hin : o + n ≤ 1024 * s.now.nicheKiB) :
    s.spillOut o n bs = .go [.niche o bs] := by
  rw [State.spillOut, nicheCheck_inside 4 ha hin]

/-- A spill inside the window writes its bytes there. -/
theorem runSlot_spill {s : State} {sh : Shape} {o n : Nat} (bs : List Byte) (h : s.clear sh = true) (ha : o % n = 0)
    (hin : o + n ≤ 1024 * s.now.nicheKiB) :
    ∃ t, s.runSlot sh (s.spillOut o n bs) = .next t ∧ s.Leads t { goesTo s.now s.bun.next with niche := memPutBytes s.now.niche o bs } none 0 := by
  obtain ⟨-, -, -, hl⟩ := (clear_iff s sh).1 h
  rw [spillOut_inside bs ha hin]
  exact leads_becomes (k := { s.now with niche := memPutBytes s.now.niche o bs }) h rfl rfl rfl rfl rfl hl (alike_refl _)

/-- A fill's bytes, sign-extended. -/
theorem filled_eq (n v : Nat) (hn : 0 < n) : BitVec.ofNat 64 (extend true n v) = BitVec.ofInt 64 (BitVec.ofNat (8 * n) v).toInt := by
  rw [extend, if_pos rfl, signed_eq_toInt (by omega), intBits_eq_toNat]
  exact (BitVec.ofNat_toNat 64 (BitVec.ofInt 64 _)).trans (BitVec.setWidth_eq _)

/-- Settles O29. -/
theorem nicheFillsAndSpills : Obligations.NicheFillsAndSpills := by
  refine ⟨fun s d b sz i => ?_, fun s d b i => ?_, fun s d b i h ha hout => ?_⟩
  · intro n o ha hin
    refine ⟨fun h => ?_, fun h => ?_⟩
    · rw [Runs, exec_fil, execFil]
      simp only [ea_eq_effective]
      rw [fillOut_inside _ ha hin, filled_eq _ _ (Nat.two_pow_pos _)]
      rw [reg64_eq d 1 _ _ rfl]
      exact runSlot_result s _ { dst := .s d.toNat, off := 1, val := _ } 0 h (Nat.le_refl 1)
        (isEmpty_of_clear s _ d.toNat h (List.mem_singleton_self _))
    · rw [Runs, exec_spl, execSpl]
      simp only [ea_eq_effective]
      exact runSlot_spill _ h ha hin
  · intro o ha hin
    refine ⟨fun h => ?_, fun h => ?_⟩
    · rw [Runs, exec_vfil, execVfil]
      simp only [ea_eq_effective]
      rw [fillOut_inside _ ha hin]
      exact runSlot_result s _ { dst := .v (turned s.now d), off := 1, val := BitVec.ofNat 512 (memNat s.now.niche o 64) } 0 h (Nat.le_refl 1)
        (isEmpty_turned_of_clear s _ d h (List.mem_singleton_self _))
    · rw [Runs, exec_vspl, execVspl]
      simp only [ea_eq_effective]
      exact runSlot_spill _ h ha hin
  · refine traps_of_exec ((ready_iff s _).1 h).1 (d := 0) (n := 0) ?_
    rw [exec_fil, execFil]
    simp only [ea_eq_effective]
    exact congrArg (s.runSlot _) (fillOut_outside _ ha hout)

end Sys2Proof.Proofs

/-! Alcoves by handle (05 R158, R160-R164). -/

namespace Sys2Proof.Proofs

open Sys2Proof Sys2Proof.Machine Sys2Proof.Rules
open Host (Outcome)

/-! ### Words that change a core and their task -/

/-- A word of plain effects that come to a calm state `v` with its task put at `k`. -/
theorem does_putCalm {i : Instr} {s v : State} {sh : Shape} {es : List Effect} {F : State → State} {k : Machine.Task} (hr : s.ready sh = true)
    (h : exec i s = s.runSlot sh (.go es)) (hp : es.all Effect.plain = true)
    (hm : Bundle.triesMemory { logs := [{ slot := s.bun.slot, shape := sh, out := .go es }] } = false)
    (hF : es.foldl State.applyEffect (s.logSlot sh (.go es)) = F (s.logSlot sh (.go es)))
    (hv : F (s.logSlot sh (.go es)) = v.putTask s.tid k) (ht : v.tid = s.tid) (hb : v.bun = (s.logSlot sh (.go es)).bun)
    (hc : v.calm = true) (hk : k.redo = s.now.redo) (hl : k.loops = s.now.loops) : Does i s F := by
  obtain ⟨-, hcalm, -⟩ := (ready_iff s sh).1 hr
  have hput : (v.putTask s.tid k).calm = true := calm_putTask v _ _ hc (hk.trans (redo_of_calm s s.tid hcalm))
  have hnow : (v.putTask s.tid k).now = k := by rw [← ht]; exact now_putTask v k
  exact does_of_exec hr h hp hm hF (by rw [hv]; exact ht) (by rw [hv]; exact hb) (by rw [hv]; exact hput) (by rw [hv, hnow, hl])

/-- A word of plain effects that come to `v` with its task put at `k`, where `v` differs in nothing that a commit looks at. -/
theorem does_put {i : Instr} {s v : State} {sh : Shape} {es : List Effect} {F : State → State} {k : Machine.Task} (hr : s.ready sh = true)
    (h : exec i s = s.runSlot sh (.go es)) (hp : es.all Effect.plain = true)
    (hm : Bundle.triesMemory { logs := [{ slot := s.bun.slot, shape := sh, out := .go es }] } = false)
    (hF : es.foldl State.applyEffect (s.logSlot sh (.go es)) = F (s.logSlot sh (.go es)))
    (hv : F (s.logSlot sh (.go es)) = v.putTask s.tid k) (ht : v.tid = s.tid) (hb : v.bun = (s.logSlot sh (.go es)).bun)
    (hs : v.doom = s.doom ∧ v.regions = s.regions ∧ v.parts = s.parts ∧ v.tasks = s.tasks) (hk : k.redo = s.now.redo)
    (hl : k.loops = s.now.loops) : Does i s F := by
  obtain ⟨-, hc, -⟩ := (ready_iff s sh).1 hr
  obtain ⟨hdoom, hregions, hparts, htasks⟩ := hs
  exact does_putCalm hr h hp hm hF hv ht hb (calm_congr s v hc hdoom hregions hparts htasks) hk hl

/-- A word of plain effects that change one core alone. -/
theorem does_putCore {i : Instr} {s : State} {sh : Shape} {es : List Effect} {F : State → State} {c : Nat} {k : Machine.Core} (hr : s.ready sh = true)
    (h : exec i s = s.runSlot sh (.go es)) (hp : es.all Effect.plain = true)
    (hm : Bundle.triesMemory { logs := [{ slot := s.bun.slot, shape := sh, out := .go es }] } = false)
    (hF : es.foldl State.applyEffect (s.logSlot sh (.go es)) = F (s.logSlot sh (.go es)))
    (hv : F (s.logSlot sh (.go es)) = (s.logSlot sh (.go es)).putCore c k) (hk : k.cur = (s.core c).cur) : Does i s F := by
  obtain ⟨-, hc, -⟩ := (ready_iff s sh).1 hr
  have ht : ((s.logSlot sh (.go es)).putCore c k).tid = s.tid := tid_putCore (s.logSlot sh (.go es)) hk
  refine does_of_exec hr h hp hm hF (by rw [hv]; exact ht) (by rw [hv]; rfl) (by rw [hv]; exact calm_congr s _ hc rfl rfl rfl rfl) ?_
  rw [hv, State.now, ht]
  rfl

/-! ### Alcoves -/

/-- Whether an alcove is FREE and granted to the task's region. -/
theorem freeAlcove_some {s : State} {core r a : Nat} (hfree : ((s.core core).alcove a).st = 0) (hg : tabFind s.algr (core * 32 + a) = some r)
    (ha : a < 32) (hlow : ∀ c < a, ¬ (((s.core core).alcove c).st = 0 ∧ tabFind s.algr (core * 32 + c) = some r)) : s.freeAlcove core r = some a := by
  rw [State.freeAlcove, List.find?_range_eq_some]
  refine ⟨by rw [hfree, hg]; simp, List.mem_range.2 ha, fun c hc => ?_⟩
  have := hlow c hc
  simpa [imp_iff_not_or] using this

theorem freeAlcove_none {s : State} {core r : Nat} (h : ∀ c < 32, ¬ (((s.core core).alcove c).st = 0 ∧ tabFind s.algr (core * 32 + c) = some r)) :
    s.freeAlcove core r = none := by
  rw [State.freeAlcove, List.find?_eq_none]
  intro c hc
  simpa using h c (List.mem_range.1 hc)

/-- The place of scratchpad bytes is the offset that their address ends in. -/
theorem off_of_placeN {a n c off : Nat} (h : placeN a n = some (.spad c off)) : off = a % 2 ^ 19 := by
  have hp := place_of_placeN_spad h
  unfold place at hp
  split at hp
  · split at hp <;> exact nomatch hp
  · split at hp
    · dsimp only at hp
      split at hp
      · injection hp with hp
        injection hp with _ hp
        exact hp.symm
      · exact nomatch hp
    · split at hp
      · dsimp only at hp
        split at hp <;> exact nomatch hp
      · exact nomatch hp

/-- OCLAIM, its checks passed (05 R161). -/
theorem exec_oclaim_ok {s : State} {k : BitVec 4} {d : BitVec 6} {f : BitVec 7} (hn : tabFind s.now.handles k.toNat = none)
    (hl : s.now.handles.length < 8) : exec (.oclaim k d f) s = s.runSlot { sw := [d.toNat] }
      (match s.freeAlcove s.now.core s.now.rkey with
       | some a => .go [.oclaim k.toNat f.toNat a, resS d.toNat 1 0]
       | none => .go [resS d.toNat 1 1]) := by
  rw [exec_oclaim, execOclaim]
  refine congrArg (s.runSlot _) (if_neg ?_)
  rw [hn, decide_eq_false (Nat.not_le.2 hl)]
  decide

/-- OFILL, its checks passed (05 R163). -/
theorem exec_ofill_ok {s : State} {k : BitVec 4} {b x : BitVec 6} {a : Nat} (hq : s.now.lsq = [])
    (hown : OwnAt s (s.now.rs b).toNat (s.now.rs x).toNat 64) (hn : (s.now.rs x).toNat % 64 = 0) (h64 : 64 ≤ (s.now.rs x).toNat)
    (hle : (s.now.rs x).toNat ≤ 4096) (hf : tabFind s.now.handles k.toNat = some a) (h2 : ((s.core s.now.core).alcove a).st ≠ 2)
    (h3 : ((s.core s.now.core).alcove a).st ≠ 3) :
    exec (.ofill k b x) s = s.runSlot { sr := [b.toNat, x.toNat] } (.go [.ofill k.toNat (s.now.rs b).toNat ((s.now.rs x).toNat / 64)]) := by
  have hclears : s.holdClears s.tid .lsq = true := by
    show s.now.lsq.isEmpty = true
    rw [hq]; rfl
  have hplace : s.now.own (s.now.rs b).toNat (max (s.now.rs x).toNat 1) = true := by
    rw [Nat.max_eq_left (by omega)]
    exact own_of_ownAt hown
  obtain ⟨off, hp, halign, hreach⟩ := hown
  rw [off_of_placeN hp] at hreach
  rw [exec_ofill, execOfill]
  refine congrArg (s.runSlot _) ?_
  rw [if_neg (by rw [hplace]; decide), if_neg (by omega), if_neg (by rw [hreach]; decide), hf]
  dsimp only
  rw [if_neg (by rintro (h | h); exacts [h2 h, h3 h])]
  exact if_pos hclears

theorem apply_ofill {u : State} {h a : Nat} (src rows : Nat) (hf : tabFind u.now.handles h = some a) :
    u.applyEffect (.ofill h src rows) = u.putCore u.now.core ((u.core u.now.core).putAlcove a
      { (u.core u.now.core).alcove a with st := 3, src := src, rows := rows, row := 0, from_ := u.cycle }) := by
  unfold State.applyEffect
  simp only [hf]

/-- A handle released: its alcove is FREE at once, or when its reads and its fill have ended (05 R160, R162). -/
theorem apply_orelease {u : State} {h a : Nat} (hf : tabFind u.now.handles h = some a) :
    u.applyEffect (.orelease h) = (u.putCore u.now.core ((u.core u.now.core).putAlcove a
      (if ((u.core u.now.core).alcove a).reads = 0 ∧ ((u.core u.now.core).alcove a).rows = 0 then {}
        else { (u.core u.now.core).alcove a with release := true }))).putTask u.tid { u.now with handles := tabDel u.now.handles h } := by
  show u.release u.tid h = _
  have hf : tabFind (u.task u.tid).handles h = some a := hf
  have hfree : ∀ x : Alcove, (if x.reads == 0 && x.rows == 0 then ({} : Alcove) else { x with release := true }) =
      if x.reads = 0 ∧ x.rows = 0 then {} else { x with release := true } := fun x =>
    if_congr (by rw [Bool.and_eq_true, beq_iff_eq, beq_iff_eq]) rfl rfl
  unfold State.release
  simp only [hf, hfree]
  rfl

/-- A claim binds the alcove and writes 0 (05 R161). -/
theorem does_oclaim {s : State} {k : BitVec 4} {d : BitVec 6} {f : BitVec 7} {a : Nat} (h : s.ready { sw := [d.toNat] } = true)
    (hn : tabFind s.now.handles k.toNat = none) (hl : s.now.handles.length < 8) (ha : s.freeAlcove s.now.core s.now.rkey = some a) :
    Does (.oclaim k d f) s fun u => sends d 0
      ((u.putCore u.now.core ((u.core u.now.core).putAlcove a { st := 1, kind := f.toNat, tid := u.tid, handle := k.toNat })).putTask u.tid
        { u.now with handles := tabPut u.now.handles k.toNat a }) := by
  have hex := exec_oclaim_ok (d := d) (f := f) hn hl
  rw [ha] at hex
  let es : List Effect := [.oclaim k.toNat f.toNat a, resS d.toNat 1 0]
  let u := s.logSlot { sw := [d.toNat] } (.go es)
  let v := u.putCore u.now.core ((u.core u.now.core).putAlcove a { st := 1, kind := f.toNat, tid := u.tid, handle := k.toNat })
  let t : Machine.Task := { u.now with handles := tabPut u.now.handles k.toNat a }
  have hv : v.tid = u.tid := tid_putCore u rfl
  have hw : (v.putTask u.tid t).tid = u.tid := hv
  have hnow : (v.putTask u.tid t).now = t := by rw [← hv]; exact now_putTask v t
  obtain ⟨hredo, -⟩ := launch_kept t (.s d.toNat) 1 (BitVec.setWidth 512 (0 : W64)) 0xFFFF
  refine does_put (v := v) (k := t.launch (.s d.toNat) 1 (BitVec.setWidth 512 (0 : W64)) 0xFFFF) h hex rfl rfl rfl ?_ hv rfl ⟨rfl, rfl, rfl, rfl⟩ hredo ?_
  · show sends d 0 (v.putTask u.tid t) = _
    rw [sends, hnow, hw, putTask_putTask]
    rfl
  · unfold Task.launch
    split <;> rfl

theorem does_orelease {s : State} {k : BitVec 4} {a : Nat} (h : s.ready {} = true) (hf : tabFind s.now.handles k.toNat = some a)
    (h2 : ((s.core s.now.core).alcove a).st ≠ 2) : Does (.orelease k) s fun u =>
      let c := u.core u.now.core
      let x := c.alcove a
      (u.putCore u.now.core (c.putAlcove a (if x.reads = 0 ∧ x.rows = 0 then {} else { x with release := true }))).putTask u.tid
        { u.now with handles := tabDel u.now.handles k.toNat } := by
  have hex : exec (.orelease k) s = s.runSlot {} (.go [.orelease k.toNat]) := by
    rw [exec_orelease, execOrelease]
    simp only [hf]
    exact congrArg (s.runSlot _) (if_neg h2)
  exact does_put h hex rfl rfl (apply_orelease hf) rfl (tid_putCore _ rfl) rfl ⟨rfl, rfl, rfl, rfl⟩ rfl rfl

/-- What OSTAT reads of a handle (05 R164). -/
def ostatWord (s : State) (k : BitVec 4) : Nat :=
  match tabFind s.now.handles k.toNat with
  | none => 0
  | some a =>
    let x := (s.core s.now.core).alcove a
    x.reads % 256 * 2 ^ 16 + a * 2 ^ 8 + x.kind * 2 ^ 4 + x.st

/-- Its fields, added as integers, are the same word. -/
theorem ofInt_ostatWord (s : State) (k : BitVec 4) : BitVec.ofInt 64 (match tabFind s.now.handles k.toNat with
    | none => 0
    | some a =>
      let x := (s.core s.now.core).alcove a
      (x.reads % 256 * 2 ^ 16 + a * 2 ^ 8 + x.kind * 2 ^ 4 + x.st : Int)) = BitVec.ofNat 64 (ostatWord s k) := by
  rw [← BitVec.ofInt_natCast]
  refine congrArg (BitVec.ofInt 64) ?_
  unfold ostatWord
  cases tabFind s.now.handles k.toNat with
  | none => rfl
  | some a => push_cast; rfl

/-- Settles O30. -/
theorem alcoveHandles : Obligations.AlcoveHandles := by
  refine ⟨fun s k d f a h hn hl hfree hg ha hlow => does_oclaim h hn hl (freeAlcove_some hfree hg ha hlow), fun s k d f h hn hl hnone => ?_,
    fun s k a h hf h2 => does_orelease h hf h2, fun s k b x a => ?_, fun s d k h => ?_⟩
  · rw [Runs, exec_oclaim_ok hn hl, freeAlcove_none hnone]
    exact runSlot_result s _ (reg64 d 1 1) 0 h (Nat.le_refl 1) (isEmpty_of_clear s _ d.toNat h (List.mem_singleton_self _))
  · intro src n h hq hown hn h64 hle hf h2 h3
    exact does_putCore h (exec_ofill_ok hq hown hn h64 hle hf h2 h3) rfl rfl (apply_ofill _ _ hf) rfl rfl
  · intro w
    have hw : BitVec.ofInt 64 w = BitVec.ofNat 64 (ostatWord s k) := ofInt_ostatWord s k
    rw [Runs, reg64_eq d 1 _ _ hw]
    exact runSlot_result s _ { dst := .s d.toNat, off := 1, val := (BitVec.ofNat 64 (ostatWord s k)).setWidth 512 } 0 h (Nat.le_refl 1)
      (isEmpty_of_clear s _ d.toNat h (List.mem_singleton_self _))

end Sys2Proof.Proofs

/-! Scale words and bank formats (05 R148, R166, R167). -/

namespace Sys2Proof.Proofs

open Sys2Proof Sys2Proof.Machine Sys2Proof.Rules
open Host (Outcome)

/-! ### The lines of an access -/

/-- Every piece of a run of bytes lies in it. -/
theorem splitLines_mem : ∀ (f loc n : Nat), ∀ p ∈ splitLines loc n f, loc ≤ p.1 ∧ p.1 < loc + n
  | 0, _, _, _, hp => nomatch hp
  | f + 1, loc, n, p, hp => by
    rw [splitLines] at hp
    split at hp
    · exact nomatch hp
    · split at hp
      · rw [List.mem_singleton.1 hp]
        exact ⟨Nat.le_refl _, show loc < loc + n by omega⟩
      · rcases List.mem_cons.1 hp with rfl | hp
        · exact ⟨Nat.le_refl _, show loc < loc + n by omega⟩
        · obtain ⟨hlow, hhigh⟩ := splitLines_mem f _ _ p hp
          omega

theorem le_of_placeN {a n c off : Nat} (h : placeN a n = some (.spad c off)) : off + n ≤ 2 ^ 19 := by
  have hp := place_of_placeN_spad h
  unfold placeN at h
  rw [hp] at h
  dsimp only at h
  split at h
  · assumption
  · exact nomatch h

/-- The pieces of an own access are in the scratchpad. -/
theorem isSpad_splitLines {s : State} {a n align : Nat} (f : Nat) (h : OwnAt s a n align) : ∀ p ∈ splitLines a n f, isSpad p.1 = true := by
  intro p hp
  obtain ⟨hlow, hhigh⟩ := splitLines_mem f a n p hp
  have hspad := isSpad_of_ownAt h
  obtain ⟨off, hplace, -⟩ := h
  have hoff := off_of_placeN hplace
  have hend : off + n ≤ 2 ^ 19 := le_of_placeN hplace
  rw [isSpad, beq_iff_eq] at hspad ⊢
  omega

/-- Pieces in the scratchpad are loaded under the task's clock. -/
theorem doPieces_vload : ∀ (ps : List (Nat × Nat)) (s : State) (t : Machine.Task) (data : List Byte), (∀ p ∈ ps, isSpad p.1 = true) →
    ∃ p bs st ra, t.pts ≤ p ∧ s.doPieces t .vload data ps = ({ t with pts := p }, bs, rowsSeen s st ra)
  | [], s, t, data, _ => ⟨t.pts, data, s.stamps, s.rowAt, Nat.le_refl _, rfl⟩
  | (a, n) :: ps, s, t, data, h => by
    obtain ⟨p, st, ra, hp, hline⟩ := loadLine_spad (s := s) (clusterOf t.core) t.pts n (h (a, n) List.mem_cons_self)
    have hpiece : s.doPiece t .vload data (a, n) = ({ t with pts := p }, data ++ memBytes s.mem a n, rowsSeen s st ra) := by
      unfold State.doPiece
      simp only [hline]
    obtain ⟨q, bs, su, rb, hq, hrest⟩ := doPieces_vload ps (rowsSeen s st ra) { t with pts := p } (data ++ memBytes s.mem a n)
      fun x hx => h x (List.mem_cons_of_mem _ hx)
    refine ⟨q, bs, su, rb, Nat.le_trans hp hq, ?_⟩
    rw [State.doPieces, hpiece]
    simp only [hrest]
    rfl

/-- The effect of an own access that fills no register. -/
theorem apply_local_vload {s : State} {ps : List (Nat × Nat)} (h : ∀ p ∈ ps, isSpad p.1 = true) :
    ∃ p st ra f, s.now.pts ≤ p ∧ s.applyEffect (.local_ .vload ps [] []) =
      accessed s f (bankDelay s s.now.core ps) s.mem st ra s.parts { s.now with pts := p } := by
  obtain ⟨f, hf⟩ := bankStall_eq s s.now.core ps
  obtain ⟨p, bs, st, ra, hp, hpieces⟩ := doPieces_vload ps (s.bankStall s.now.core ps) s.now [] h
  refine ⟨p, st, ra, f, hp, ?_⟩
  unfold State.applyEffect
  simp only [hpieces]
  simp only [hf]
  rfl

/-! ### Scale words -/

/-- SCLD, its checks passed and the queue with room (05 R167). -/
theorem exec_scld_ok {s : State} {b : BitVec 6} {sz : BitVec 2} {i : BitVec 11} (hq : s.now.lsq = [])
    (hown : OwnAt s (effective (s.now.rs b) i.toInt 32) (2 * (16 * 2 ^ sz.toNat)) 32) (hroom : (s.core s.now.core).scq.length + 16 * 2 ^ sz.toNat ≤ 512) :
    exec (.scld b sz i) s = s.runSlot { sr := [b.toNat] } (.go
      [.local_ .vload (splitLines (effective (s.now.rs b) i.toInt 32) (2 * (16 * 2 ^ sz.toNat)) 8) [] [],
       .scld ((List.range (16 * 2 ^ sz.toNat)).map fun j => memNat s.mem (effective (s.now.rs b) i.toInt 32 + 2 * j) 2)]) := by
  have hclears : s.holdClears s.tid .lsq = true := by
    show s.now.lsq.isEmpty = true
    rw [hq]; rfl
  have hwords : ((s.core s.now.core).ownWords s.tid).length ≤ (s.core s.now.core).scq.length := by
    rw [Core.ownWords, List.length_map]
    exact List.length_filter_le _ _
  have hplace := own_of_ownAt hown
  obtain ⟨off, hp, halign, hreach⟩ := hown
  rw [off_of_placeN hp] at hreach
  rw [exec_scld, execScld]
  simp only [ea_eq_effective]
  refine congrArg (s.runSlot _) ?_
  rw [if_neg (by rw [hplace]; decide), if_neg (by rw [halign]; decide), if_neg (by rw [hreach]; decide), if_neg (by omega), if_neg (by omega)]
  exact if_pos hclears

/-- Scale words pushed at the end of a core's queue. -/
def withWords (k : Machine.Core) (tid : Nat) (ws : List Nat) : Machine.Core := { k with scq := k.scq ++ ws.map fun w => (tid, w) }

theorem apply_scld (v : State) (ws : List Nat) :
    v.applyEffect (.scld ws) = v.putCore v.now.core (withWords (v.core v.now.core) v.tid ws) := rfl

theorem core_passed (v : State) (n c : Nat) (b : Bundle) : (v.passed n b).core c = v.core c := rfl

theorem mem_passed (v : State) (n : Nat) (b : Bundle) : (v.passed n b).mem = v.mem := rfl

theorem task_passed_self (v : State) (n : Nat) (b : Bundle) : (v.passed n b).task n = ((v.task n).issued b).bump := task_putTask_self v n _

theorem task_passed_ne (v : State) {n x : Nat} (b : Bundle) (h : x ≠ n) : (v.passed n b).task x = v.task x := task_putTask_ne v n x _ h

theorem delayedCores_ne (s : State) {core c : Nat} (n : Nat) (h : c ≠ core) : tabGet (delayedCores s core n) {} c = s.core c := by
  unfold delayedCores
  split
  · rfl
  · exact core_putCore_ne s core c _ h

/-- A state after an own access and the scale words that it pushed. -/
def scaled (s v : State) (ws : List Nat) : State := v.putCore s.now.core (withWords (v.core s.now.core) s.tid ws)

/-- A word whose effects are an access that comes to `v`, and scale words. -/
theorem runSlot_pushes {s v : State} {sh : Shape} {e : Effect} {ws : List Nat} (h : s.clear sh = true) (hp : e.plain = true)
    (he : (s.logSlot sh (.go [e, .scld ws])).applyEffect e = v) (ht : v.tid = s.tid) (hb : v.bun = (s.logSlot sh (.go [e, .scld ws])).bun)
    (hc : v.calm = true) (hcore : v.now.core = s.now.core) (hl : v.now.loops = s.now.loops) :
    s.runSlot sh (.go [e, .scld ws]) = .next ((scaled s v ws).passed s.tid (s.logSlot sh (.go [e, .scld ws])).bun) := by
  obtain ⟨ha, -, -, hstraight⟩ := (clear_iff s sh).1 h
  have htid : (scaled s v ws).tid = v.tid := tid_putCore v rfl
  have hnow : (scaled s v ws).now = v.now := congrArg v.task htid
  refine runSlot_plain (es := [e, .scld ws]) ha (by rw [List.all_cons, hp]; rfl) ?_ (htid.trans ht) hb (calm_congr v _ hc rfl rfl rfl rfl)
    (by rw [hnow, hl]; exact hstraight)
  rw [List.foldl_cons, he, List.foldl_cons, List.foldl_nil, apply_scld, hcore, ht]
  rfl

/-- What an SCLD comes to: its core has paid for its rows and has its words, and nothing else that a bundle sees has moved. -/
theorem pushes_own {s : State} {sh : Shape} {ps : List (Nat × Nat)} {ws : List Nat} (h : s.clear sh = true) (hps : ∀ p ∈ ps, isSpad p.1 = true) :
    ∃ t, s.runSlot sh (.go [.local_ .vload ps [] [], .scld ws]) = .next t ∧
      t.core s.now.core = withWords ((paid s ps).core s.now.core) s.tid ws ∧ (∀ c, c ≠ s.now.core → t.core c = s.core c) ∧ t.mem = s.mem ∧
      (∀ k, ((t.task s.tid).later k).SameRegs s.now) ∧ ∀ x, x ≠ s.tid → t.task x = s.task x := by
  obtain ⟨-, hc, ⟨hflights, hprods⟩, -⟩ := (clear_iff s sh).1 h
  obtain ⟨p, st, ra, f, -, happly⟩ := apply_local_vload (s := s.logSlot sh (.go [.local_ .vload ps [] [], .scld ws])) hps
  obtain ⟨v, hv⟩ : ∃ v, v = accessed (s.logSlot sh (.go [.local_ .vload ps [] [], .scld ws])) f (bankDelay s s.now.core ps) s.mem st ra s.parts
    { s.now with pts := p } := ⟨_, rfl⟩
  have happly : (s.logSlot sh (.go [.local_ .vload ps [] [], .scld ws])).applyEffect (.local_ .vload ps [] []) = v := happly.trans hv.symm
  have htid : v.tid = s.tid := by rw [hv]; exact tid_accessed ..
  have hnow : v.now = { s.now with pts := p } := by rw [hv]; exact now_accessed ..
  have hcalm : v.calm = true := by
    rw [hv]
    exact calm_accessed (calm_congr s _ hc rfl rfl rfl rfl) (noCheckpoint_of_calm hc) rfl
  have hrun := runSlot_pushes h rfl happly htid (by rw [hv]; rfl) hcalm (by rw [hnow]) (by rw [hnow])
  have hcores : ∀ c, v.core c = (paid s ps).core c := fun c => by rw [hv, paid_eq]; rfl
  refine ⟨_, hrun, ?_, fun c hne => ?_, ?_, fun j => ?_, fun x hx => ?_⟩
  · rw [core_passed, scaled, core_putCore, if_pos rfl, hcores]
  · rw [core_passed, scaled, core_putCore, if_neg hne, hcores, paid_eq]
    exact delayedCores_ne s _ hne
  · rw [mem_passed, hv]
    rfl
  · have hk : (scaled s v ws).task s.tid = { s.now with pts := p } := by
      rw [← hnow, ← htid]
      rfl
    rw [task_passed_self, hk]
    exact sameRegs_trans ((follows_bump (t := Task.issued { s.now with pts := p } _) hflights hprods).regs j) (sameRegs_of _ _ rfl rfl rfl rfl rfl)
  · rw [task_passed_ne _ _ hx, hv]
    exact task_putTask_ne s s.tid x _ hx

/-- A bank format read and then written (05 R148). -/
theorem does_bfmt {i : Instr} {s : State} {sh : Shape} {d : BitVec 6} {n v : Nat} (h : s.ready sh = true)
    (hex : exec i s = s.runSlot sh (.go [resS d.toNat 1 (BitVec.ofNat 64 (tabGet (s.core s.now.core).bankfmt 0 n)), .bfmt n v])) :
    Does i s fun u =>
      let u1 := sends d (BitVec.ofNat 64 (tabGet (u.core u.now.core).bankfmt 0 n)) u
      u1.putCore u1.now.core { u1.core u1.now.core with bankfmt := tabSet (u1.core u1.now.core).bankfmt 0 n v } := by
  let w := (BitVec.ofNat 64 (tabGet (s.core s.now.core).bankfmt 0 n)).setWidth 512
  let k := s.now.launch (.s d.toNat) 1 w 0xFFFF
  obtain ⟨hredo, hcore⟩ := launch_kept s.now (.s d.toNat) 1 w 0xFFFF
  have hput : ∀ u : State, u.tid = s.tid → (let u1 := u.putTask u.tid k
      u1.putCore u1.now.core { u1.core u1.now.core with bankfmt := tabSet (u1.core u1.now.core).bankfmt 0 n v }) =
      (u.putCore s.now.core { u.core s.now.core with bankfmt := tabSet (u.core s.now.core).bankfmt 0 n v }).putTask s.tid k := fun u hu => by
    have hnow : (u.putTask s.tid k).now.core = s.now.core := by rw [← hu, now_putTask]; exact hcore
    simp only [hu, hnow]
    rfl
  refine does_put (k := k) h hex rfl rfl rfl (hput _ rfl) (tid_putCore _ rfl) rfl ⟨rfl, rfl, rfl, rfl⟩ hredo ?_
  unfold k Task.launch
  split <;> rfl

/-- Settles O31. -/
theorem scaleWordsAndBankFormats : Obligations.ScaleWordsAndBankFormats := by
  refine ⟨fun s b sz i => ?_, fun s d a n h hreach hv hvalid => ?_⟩
  · intro n a h hq hown hroom
    rw [Runs, exec_scld_ok hq hown hroom]
    obtain ⟨t, ht, hcore, hrest⟩ := pushes_own (ws := (List.range n).map fun j => memNat s.mem (a + 2 * j) 2) h (isSpad_splitLines 8 hown)
    refine ⟨t, ht, ?_, hrest⟩
    rw [hcore, withWords, List.map_map]
    rfl
  · have hex : exec (.bfmt d a n) s = s.runSlot { sr := [a.toNat], sw := [d.toNat] }
        (.go [resS d.toNat 1 (BitVec.ofNat 64 (tabGet (s.core s.now.core).bankfmt 0 n.toNat)), .bfmt n.toNat (s.now.rs a).toNat]) := by
      rw [exec_bfmt, execBfmt]
      refine congrArg (s.runSlot _) ?_
      rw [if_neg (by rw [hreach]; decide), if_neg (by rw [hvalid]; simp; omega)]
    exact does_bfmt h hex

end Sys2Proof.Proofs

/-! Fences (05 R171, R172; 11 R341). -/

namespace Sys2Proof.Proofs

open Sys2Proof Sys2Proof.Machine Sys2Proof.Rules
open Host (Outcome)

theorem orHold_clear {s : State} {h : Hold} (out : SlotOut) (hc : s.holdClears s.tid h = true) : s.orHold h out = out := if_pos hc

theorem orHold_held {s : State} {h : Hold} (out : SlotOut) (hc : s.holdClears s.tid h = false) : s.orHold h out = .hold h [] :=
  if_neg (by rw [hc]; decide)

/-- The clocks that a FENCEX carries: its task's, and that of its partition's host traffic. -/
theorem fenceClocks_eq (s : State) (n e l : Nat) (hc : noCheckpoint s.parts) :
    ∃ p ps, noCheckpoint ps ∧ s.fenceClocks n e l = ({ s with parts := ps } : State).putTask n { s.task n with pts := p } := by
  unfold State.fenceClocks
  extract_lets t pts q pts' s1
  by_cases hl : l / 64 % 2 = 1
  · rw [if_pos hl]
    exact ⟨pts', _, noCheckpoint_tabPut (q := { q with hpts := max q.hpts pts' }) hc (ck_part hc t.part), rfl⟩
  · rw [if_neg hl]
    exact ⟨pts', s.parts, hc, rfl⟩

/-- A FENCEX that nothing holds. -/
theorem does_fencex {s : State} {e l : BitVec 7} (h : s.ready {} = true) (hd : s.classesDone s.tid e.toNat = true) :
    Does (.fencex e l) s fun u => u.fenceClocks u.tid e.toNat l.toNat := by
  obtain ⟨-, hc, -⟩ := (ready_iff s _).1 h
  have hex : exec (.fencex e l) s = s.runSlot {} (.go [.fencex e.toNat l.toNat]) := by
    rw [exec_fencex, execFencex]
    exact congrArg (s.runSlot _) (orHold_clear _ hd)
  obtain ⟨p, ps, hps, hf⟩ := fenceClocks_eq (s.logSlot {} (.go [.fencex e.toNat l.toNat])) s.tid e.toNat l.toNat (noCheckpoint_of_calm hc)
  obtain ⟨hdoom, hregions, -, htasks⟩ := (calm_iff s).1 hc
  exact does_putCalm h hex rfl rfl rfl hf rfl rfl ((calm_iff _).2 ⟨hdoom, hregions, hps, htasks⟩) rfl rfl

/-- Settles O34. -/
theorem fencesWaitThenGoOn : Obligations.FencesWaitThenGoOn := by
  refine ⟨fun s h hp => ?_, fun s h hp h0 => ?_, fun s e l h hd => does_fencex h hd, fun s h hp => ⟨?_, ?_⟩, fun s e l h hd => ?_⟩
  · have hclears : s.holdClears s.tid .stores = true := (congrArg not hp).trans rfl
    rw [Runs, exec_fencePackage, execFencePackage, orHold_clear _ hclears]
    exact runSlot_nothing s _ 0 h
  · have hclears : s.holdClears s.tid .system = true := by
      show (!s.now.storesPending && s.now.hostPend == 0) = true
      rw [hp, h0]; rfl
    rw [Runs, exec_fenceSystem, execFenceSystem, orHold_clear _ hclears]
    exact runSlot_nothing s _ 0 h
  · have hclears : s.holdClears s.tid .stores = false := (congrArg not hp).trans rfl
    refine waits_of_exec ((ready_iff s _).1 h).1 ?_
    rw [exec_fencePackage, execFencePackage, orHold_held _ hclears]
  · have hclears : s.holdClears s.tid .system = false := by
      show (!s.now.storesPending && s.now.hostPend == 0) = false
      rw [hp]; rfl
    refine waits_of_exec ((ready_iff s _).1 h).1 ?_
    rw [exec_fenceSystem, execFenceSystem, orHold_held _ hclears]
  · refine waits_of_exec ((ready_iff s _).1 h).1 ?_
    rw [exec_fencex, execFencex, orHold_held (h := .classes e.toNat) _ hd]

end Sys2Proof.Proofs

/-! The cycle from which a matrix queue entry may start (06 R174, R200): why an instruction that joins the queue does more than the entry
with its task's clock. -/

namespace Sys2Proof.Proofs

open Sys2Proof Sys2Proof.Machine Sys2Proof.Rules
open Host (Outcome)

/-- Task 1 in the first cycle after reset's, on core 0, about to execute one MX word: tile 3 accumulates F32 from F16 operands, and an A and a
B alcove are full and bound to handles 1 and 2. -/
def stepping : State :=
  { State.reset with
    cycle := 1
    bun := { hdr := 2 ^ 4 + 2 ^ 14, pc := 1, next := 3, slot := 4 }
    regions := [(1, { id := 1, flags := 4, dies := 1, maxk := 4096 })]
    tasks := [(1, { tid := 1, region := 1, started := true, pc := 1, cmask := 0xFF, handles := [(1, 4), (2, 5)] })]
    cores := [(0, { tasks := [1], cur := 1
                    alcoves := [(4, { st := 4, tid := 1, handle := 1 }), (5, { st := 4, kind := 1, tid := 1, handle := 2 })]
                    tiles := [(3, { owner := 1, issue := some (2 * 4 + 2 * 64 + 2 ^ 26), mode := some (2 * 4 + 2 * 64 + 2 ^ 26) })] })] }

/-- The cycles from which core 0's matrix queue entries may start, after a run that goes on. -/
def startCycles : Outcome State Fault Refusal → Option (List Nat)
  | .next t => some ((t.core 0).mq.map MxEnt.due)
  | _ => none

/-- A word whose entry may start from a later cycle does not do what enters one that may start from cycle 0. -/
theorem not_does_entered {i : Instr} {F : State → State} {n : Nat} (hdone : startCycles (exec i stepping) = some [n + 1])
    (hF : ∀ sh o, ((F (stepping.logSlot sh o)).core 0).mq.map MxEnt.due = [0]) : ¬ Does i stepping F := by
  rintro ⟨sh, es, he⟩
  have hleft : startCycles (exec i stepping) = some [0] := by
    rw [he]
    exact congrArg some (hF sh (.go es))
  exact nomatch hdone.symm.trans hleft

/-- The mode of tile 3. -/
def stepMode : Nat := 2 * 4 + 2 * 64 + 2 ^ 26

theorem stepping_ok : StepOk stepping 3 0 stepMode none [] where
  mode := by decide +kernel
  kind := by decide +kernel
  able := by decide +kernel
  sparse := fun _ h => nomatch h
  popped := by decide +kernel
  enough := by decide +kernel
  steps := by decide +kernel
  depth := by decide +kernel
  room := by decide +kernel

/-- Refutes O35: an MZERO that issues in cycle 1 may start from cycle 1 on. -/
theorem not_matrixOpsJoinTheQueue : ¬ Obligations.MatrixOpsJoinTheQueue := by
  rintro ⟨-, hzero, -⟩
  exact not_does_entered (n := 0) (by decide +kernel) (fun _ _ => rfl)
    (hzero stepping 3 (by decide +kernel) (by decide +kernel) (by decide +kernel))

/-- Refutes O36: a K-step that issues in cycle 1 reads its alcoves for 8 cycles, and may start from cycle 9 on (06 R200). -/
theorem not_matrixStepsJoinTheQueue : ¬ Obligations.MatrixStepsJoinTheQueue := by
  rintro ⟨hmma, -⟩
  exact not_does_entered (n := 8) (by decide +kernel) (fun _ _ => rfl)
    (hmma stepping 3 1 2 0 0 stepMode 4 5 [] (by decide +kernel) (by decide +kernel) (by decide +kernel) (by unfold fullOf; decide +kernel)
      (by unfold fullOf; decide +kernel) stepping_ok)

/-- Refutes O37: an MRET that issues in cycle 1 may start from cycle 1 on. -/
theorem not_retirementsEmptyTheirRegisters : ¬ Obligations.RetirementsEmptyTheirRegisters := by
  rintro ⟨hret, -⟩
  exact not_does_entered (n := 0) (by decide +kernel) (fun _ _ => rfl)
    (hret stepping 3 0 1 2 0 stepMode (by decide +kernel) (by decide +kernel) (by decide +kernel) (by decide +kernel) (by decide +kernel)
      (by decide +kernel))

end Sys2Proof.Proofs

/-! Residues and checked values of vector registers (06 R192-R194; 03 R79, R82, R92). -/

namespace Sys2Proof.Proofs

open Sys2Proof Sys2Proof.Machine Sys2Proof.Rules
open Host (Outcome)

/-! ### Residues -/

theorem modulus_bounds (j : Nat) : 0 < Config.modulus j ∧ Config.modulus j ≤ 256 := by
  by_cases hj : j < 21
  · exact (by decide : ∀ j < 21, 0 < Config.modulus j ∧ Config.modulus j ≤ 256) j hj
  · have h : Config.modulus j = 1 := List.getD_eq_default _ _ (by show 21 ≤ j; omega)
    rw [h]
    decide

theorem residue_lt (x : Int) (j : Nat) : residue x j < Config.modulus j := by
  have h := (modulus_bounds j).1
  have hlt := Int.emod_lt_of_pos x (b := (Config.modulus j : Int)) (by omega)
  have hnonneg := Int.emod_nonneg x (b := (Config.modulus j : Int)) (by omega)
  have he : residue x j = (x % (Config.modulus j : Int)).toNat := rfl
  omega

/-- Digits beyond the last are zero. -/
theorem digit_foldr_ge (B : Nat) (hB : 1 < B) (f : Nat → Nat) (hf : ∀ i, f i < B) {n i : Nat} (hi : n ≤ i) :
    (List.range n).foldr (fun i acc => f i + B * acc) 0 / B ^ i % B = 0 := by
  have hdigits : (List.range n).foldr (fun i acc => f i + B * acc) 0 = Nat.ofDigits B ((List.range n).map f) := by
    rw [Nat.ofDigits_eq_foldr, List.foldr_map]; rfl
  have hlt : Nat.ofDigits B ((List.range n).map f) < B ^ n := by
    have h := Nat.ofDigits_lt_base_pow_length (b := B) (l := (List.range n).map f) hB fun x hx => by
      obtain ⟨j, -, rfl⟩ := List.mem_map.1 hx
      exact hf j
    simpa using h
  rw [hdigits, Nat.div_eq_of_lt (Nat.lt_of_lt_of_le hlt (Nat.pow_le_pow_right (by omega) hi)), Nat.zero_mod]

/-- The register of an integer's residues, a byte a channel (06 R192). -/
def residueReg (x : Int) : VReg := BitVec.ofNat 512 ((List.range 21).foldr (fun j n => residue x j + 256 * n) 0)

theorem byte_residueReg (x : Int) {j : Nat} (hj : j < 64) : (residueReg x).toNat / 2 ^ (8 * j) % 256 = if j < 21 then residue x j else 0 := by
  have hb : ∀ i, residue x i < 2 ^ 8 := fun i => Nat.lt_of_lt_of_le (residue_lt x i) (modulus_bounds i).2
  rw [Nat.pow_mul]
  refine (digit_toNat_ofNat 8 _ hj).trans ?_
  split
  · next h => exact digit_foldr (2 ^ 8) (by decide) _ hb h
  · next h => exact digit_foldr_ge (2 ^ 8) (by decide) _ hb (Nat.not_lt.1 h)

/-! ### Checks -/

theorem inService_all (l : BitVec 2) : inService 0 l.toNat = (laneChans l.toNat, if l = 3 then 3 else 2) := by
  revert l
  decide

/-- A 192-bit value and what stands above it. -/
theorem ofNat_above (x : Int) (n : Nat) :
    BitVec.ofNat 512 (intBits 192 x + n * 2 ^ 192) = (BitVec.ofInt 192 x).setWidth 512 ||| BitVec.ofNat 512 (n * 2 ^ 192) := by
  have hor : (BitVec.ofInt 192 x).toNat + n * 2 ^ 192 = (BitVec.ofInt 192 x).toNat ||| n * 2 ^ 192 := by
    rw [Nat.add_comm, Nat.or_comm, ← Nat.shiftLeft_eq, Nat.shiftLeft_add_eq_or_of_lt (BitVec.ofInt 192 x).isLt]
  rw [intBits_eq_toNat, hor, BitVec.ofNat_or, BitVec.ofNat_toNat]

/-- What a check of a register of residues comes to, once no residue is at or above its modulus (06 R193). -/
theorem rchk_eq (l : BitVec 2) (v : Nat) : rchk l.toNat v =
    checkReg (if ∃ j ∈ laneChans l.toNat, Config.modulus j ≤ v / 2 ^ (8 * j) % 256 then Check.unlocated
      else checkLane (fun j => v / 2 ^ (8 * j) % 256) (laneChans l.toNat) (if l = 3 then 3 else 2) (half l.toNat)) := by
  have hany : ((laneChans l.toNat).any fun j => decide (Config.modulus j ≤ v / 2 ^ (8 * j) % 256)) = true ↔
      ∃ j ∈ laneChans l.toNat, Config.modulus j ≤ v / 2 ^ (8 * j) % 256 := by simp
  have hzero : ∀ n, BitVec.ofNat 512 (intBits 192 0 + n * 2 ^ 192) = BitVec.ofNat 512 (n * 2 ^ 192) := fun n => by
    rw [show intBits 192 0 = 0 from rfl, Nat.zero_add]
  unfold rchk
  rw [inService_all]
  simp only [hany]
  generalize (if ∃ j ∈ laneChans l.toNat, Config.modulus j ≤ v / 2 ^ (8 * j) % 256 then Check.unlocated
    else checkLane (fun j => v / 2 ^ (8 * j) % 256) (laneChans l.toNat) (if l = 3 then 3 else 2) (half l.toNat)) = c
  cases c with
  | ok x => exact (ofNat_above x 0).trans (BitVec.or_zero)
  | corrected i x => exact ofNat_above x (1 + 256 * i)
  | unlocated => exact hzero 2
  | overflow => exact hzero 3

/-! ### The slots -/

theorem noTile_of_holds {t : Machine.Task} {c : Nat} (h : holdsTiles t [c] = true) : t.noTile c = none := by
  have hbit : t.cmask.testBit c = true := by
    rw [holdsTiles, List.all_cons, Bool.and_eq_true] at h
    exact h.1
  rw [← testBit_eq_div, decide_eq_true_eq] at hbit
  exact if_pos hbit

theorem pendOf_of_loaded {s : State} {c : Nat} (h : (s.core s.now.core).loading c = false) : s.pendOf c = none :=
  if_neg (by rw [h]; decide)

/-- Settles O38. -/
theorem residueConversions : Obligations.ResidueConversions := by
  refine ⟨fun s d a h => ?_, fun s d a l h => ?_, fun s d h r c w hclear htiles hload hmode hacc hr hhold => ?_⟩
  · refine ⟨residueReg (elem (readsVec s.now a 0 0) 0).toInt, fun j hj => byte_residueReg _ hj, ?_⟩
    exact runSlot_result s _ { dst := .v (turned s.now d), off := 4, val := residueReg _ } 0 h (by show 1 ≤ 4; decide)
      (isEmpty_turned_of_clear s _ d h (List.mem_singleton_self _))
  · intro r c
    have hc : checkReg c = rchk l.toNat (readsVec s.now a 0 0).toNat := (rchk_eq l _).symm
    rw [hc]
    exact runSlot_result s _ { dst := .v (turned s.now d), off := 8, val := rchk l.toNat (readsVec s.now a 0 0).toNat } 0 h (by show 1 ≤ 8; decide)
      (isEmpty_turned_of_clear s _ d h (List.mem_singleton_self _))
  · refine ⟨fromElems fun e => BitVec.ofNat 64 ((s.core s.now.core).checkedElem w c.toNat (16 * r.toNat + 8 * h.toNat + e)),
      fun e he => elem_fromElems _ he, ?_⟩
    have hmode : ((s.core s.now.core).tile c.toNat).issue = some w := hmode
    rw [Runs, exec_rrev, execRrev]
    simp only [hmode, noTile_of_holds htiles, pendOf_of_loaded hload]
    rw [if_neg (by omega), orHold_clear _ hhold]
    exact runSlot_result s _ { dst := .v (turned s.now d), off := 8, val := _ } 0 hclear (by show 1 ≤ 8; decide)
      (isEmpty_turned_of_clear s _ d hclear (List.mem_singleton_self _))

end Sys2Proof.Proofs

/-! The residue code: reverse conversion gives back the integer in its range, and two changed channels are never taken for none
(03 R78-R82, R92). -/

namespace Sys2Proof.Proofs

open Sys2Proof Sys2Proof.Machine Sys2Proof.Rules

/-! ### Reverse conversion -/

theorem modInv_spec {a m : Nat} (hm : 0 < m) (h : Nat.Coprime a m) : a * modInv a m ≡ 1 [MOD m] := by
  obtain ⟨b, hb, hab⟩ := Nat.exists_mul_mod_eq_of_coprime 1 h (by omega)
  have hab : a % m * b % m = 1 % m := by rw [Nat.mod_mul_mod, hab]
  have hfind : ((List.range m).find? fun b => decide (a % m * b % m = 1 % m)).isSome = true :=
    List.find?_isSome.2 ⟨b, List.mem_range.2 hb, decide_eq_true hab⟩
  obtain ⟨c, hc⟩ := Option.isSome_iff_exists.1 hfind
  have hprop : a % m * c % m = 1 % m := by simpa using List.find?_some hc
  have hinv : modInv a m = c := by rw [modInv, hc]; rfl
  rw [hinv]
  show a * c % m = 1 % m
  rw [← hprop, Nat.mod_mul_mod]

/-- The mixed-radix step: the residues of the channels so far, and of one more. -/
theorem mixed_step {r x m mj : Nat} (hj : 0 < mj) (hc : Nat.Coprime m mj) :
    x + (r + mj - x % mj) % mj * modInv (m % mj) mj % mj * m ≡ r [MOD mj] := by
  have hinv : m * modInv (m % mj) mj ≡ 1 [MOD mj] := by
    have h := modInv_spec hj (a := m % mj) (by rw [Nat.Coprime, ← Nat.gcd_rec, Nat.gcd_comm]; exact hc)
    exact (Nat.ModEq.mul_right _ (Nat.mod_modEq m mj).symm).trans h
  have hx : x % mj ≤ r + mj := by have := Nat.mod_lt x hj; omega
  calc x + (r + mj - x % mj) % mj * modInv (m % mj) mj % mj * m
      ≡ x + (r + mj - x % mj) * modInv (m % mj) mj * m [MOD mj] := by
        refine Nat.ModEq.add_left x (Nat.ModEq.mul_right m ?_)
        exact (Nat.mod_modEq _ _).trans (Nat.ModEq.mul_right _ (Nat.mod_modEq _ _))
    _ = x + (r + mj - x % mj) * (m * modInv (m % mj) mj) := by ring
    _ ≡ x + (r + mj - x % mj) * 1 [MOD mj] := Nat.ModEq.add_left x (Nat.ModEq.mul_left _ hinv)
    _ ≡ x % mj + (r + mj - x % mj) [MOD mj] := by
        rw [Nat.mul_one]
        exact Nat.ModEq.add_right _ (Nat.mod_modEq x mj).symm
    _ = r + mj := by omega
    _ ≡ r [MOD mj] := Nat.add_mod_right r mj

/-- The product of the moduli of some channels. -/
def span (cs : List Nat) : Nat := (cs.map Config.modulus).prod

/-- What reverse conversion comes to. -/
theorem reconFrom_spec (r : Nat → Nat) : ∀ (cs : List Nat) (x m : Nat), 0 < m → x < m → (∀ j ∈ cs, Nat.Coprime m (Config.modulus j)) →
    cs.Pairwise (fun i j => Nat.Coprime (Config.modulus i) (Config.modulus j)) →
    (reconFrom r cs x m).2 = m * span cs ∧ (reconFrom r cs x m).1 < m * span cs ∧ (reconFrom r cs x m).1 ≡ x [MOD m] ∧
      ∀ j ∈ cs, (reconFrom r cs x m).1 ≡ r j [MOD Config.modulus j]
  | [], x, m, _, hx, _, _ => ⟨(Nat.mul_one m).symm, by rw [span, List.map_nil, List.prod_nil, Nat.mul_one]; exact hx, rfl, fun _ hj => nomatch hj⟩
  | j :: js, x, m, hm, hx, hc, hp => by
    obtain ⟨hpj, hps⟩ := List.pairwise_cons.1 hp
    have hj := (modulus_bounds j).1
    have hcj := hc j List.mem_cons_self
    obtain ⟨d, hd⟩ : ∃ d, d = (r j + Config.modulus j - x % Config.modulus j) % Config.modulus j * modInv (m % Config.modulus j) (Config.modulus j) %
      Config.modulus j := ⟨_, rfl⟩
    have hdlt : d < Config.modulus j := hd ▸ Nat.mod_lt _ hj
    have hnext : x + d * m < m * Config.modulus j := by
      calc x + d * m < m + d * m := by omega
        _ = m * (d + 1) := by ring
        _ ≤ m * Config.modulus j := Nat.mul_le_mul_left m hdlt
    obtain ⟨hM, hX, hxm, hrest⟩ := reconFrom_spec r js (x + d * m) (m * Config.modulus j) (Nat.mul_pos hm hj) hnext
      (fun k hk => Nat.Coprime.mul_left (hc k (List.mem_cons_of_mem _ hk)) (hpj k hk)) hps
    have hspan : m * Config.modulus j * span js = m * span (j :: js) := by
      rw [span, span, List.map_cons, List.prod_cons, Nat.mul_assoc]
    have hstep : reconFrom r (j :: js) x m = reconFrom r js (x + d * m) (m * Config.modulus j) := by rw [reconFrom, hd]
    rw [hstep, ← hspan]
    refine ⟨hM, hX, ?_, fun k hk => ?_⟩
    · exact (hxm.of_mul_right _).trans (by show (x + d * m) % m = x % m; rw [Nat.add_mul_mod_self_right])
    · rcases List.mem_cons.1 hk with rfl | hk
      · exact (hxm.of_mul_left _).trans (hd ▸ mixed_step hj hcj)
      · exact hrest k hk

end Sys2Proof.Proofs

/-! The residue code corrects one channel and is never fooled by two (03 R78-R82, R92). -/

namespace Sys2Proof.Proofs

open Sys2Proof Sys2Proof.Machine Sys2Proof.Rules

/-! ### Integers and their residues -/

/-- An integer has these residues in these channels. -/
def HasResidues (r : Nat → Nat) (cs : List Nat) (x : Int) : Prop := ∀ j ∈ cs, x ≡ r j [ZMOD Config.modulus j]

/-- Channels whose moduli are pairwise coprime. -/
def coprimes (cs : List Nat) : Prop := cs.Pairwise fun i j => Nat.Coprime (Config.modulus i) (Config.modulus j)

theorem coprimes_filter {cs : List Nat} (p : Nat → Bool) (h : coprimes cs) : coprimes (cs.filter p) := h.filter p

theorem span_pos (cs : List Nat) : 0 < span cs := List.prod_pos fun a ha => by
  obtain ⟨j, -, rfl⟩ := List.mem_map.1 ha
  exact (modulus_bounds j).1

theorem hasResidues_residue (cs : List Nat) (x : Int) : HasResidues (residue x) cs x := fun j _ => by
  have h := Int.emod_nonneg x (b := (Config.modulus j : Int)) (by have := (modulus_bounds j).1; omega)
  rw [residue, Int.toNat_of_nonneg h]
  exact (Int.mod_modEq x _).symm

/-- The integer rebuilt from the residues of some channels has them. -/
theorem reconstruct_spec (r : Nat → Nat) {cs : List Nat} (h : coprimes cs) :
    HasResidues r cs (reconstruct r cs) ∧ 2 * (reconstruct r cs).natAbs ≤ span cs := by
  obtain ⟨hM, hX, -, hres⟩ := reconFrom_spec r cs 0 1 Nat.one_pos Nat.one_pos (fun j _ => Nat.coprime_one_left _) h
  rw [Nat.one_mul] at hM hX
  have hdvd : ∀ j ∈ cs, (Config.modulus j : Int) ∣ span cs := fun j hj =>
    Int.natCast_dvd_natCast.2 (List.dvd_prod (List.mem_map_of_mem hj))
  unfold reconstruct
  dsimp only
  rw [hM]
  split
  · refine ⟨fun j hj => ?_, by omega⟩
    have hx : ((reconFrom r cs 0 1).1 : Int) ≡ r j [ZMOD Config.modulus j] := Int.natCast_modEq_iff.2 (hres j hj)
    refine Int.ModEq.trans ?_ hx
    exact (Int.modEq_iff_dvd.2 (by rw [sub_sub_cancel]; exact hdvd j hj))
  · exact ⟨fun j hj => Int.natCast_modEq_iff.2 (hres j hj), by omega⟩

/-- A product of pairwise coprime moduli divides what each of them divides. -/
theorem span_dvd {z : Int} : ∀ {cs : List Nat}, coprimes cs → (∀ j ∈ cs, (Config.modulus j : Int) ∣ z) → (span cs : Int) ∣ z
  | [], _, _ => ⟨z, (one_mul z).symm⟩
  | j :: js, hc, h => by
    obtain ⟨hj, hjs⟩ := List.pairwise_cons.1 hc
    have hcop : Nat.Coprime (Config.modulus j) (span js) := Nat.coprime_list_prod_right_iff.2 fun n hn => by
      obtain ⟨k, hk, rfl⟩ := List.mem_map.1 hn
      exact hj k hk
    rw [span, List.map_cons, List.prod_cons, Nat.cast_mul]
    exact (Nat.isCoprime_iff_coprime.2 hcop).mul_dvd (h j List.mem_cons_self) (span_dvd hjs fun k hk => h k (List.mem_cons_of_mem _ hk))

/-- Two integers of one range that the channels do not tell apart are equal. -/
theorem eq_of_hasResidues {r : Nat → Nat} {cs : List Nat} {x y : Int} (hc : coprimes cs) (hx : HasResidues r cs x) (hy : HasResidues r cs y)
    (hrange : x.natAbs + y.natAbs < span cs) : x = y := by
  have hdvd : (span cs : Int) ∣ x - y := span_dvd hc fun j hj => ((hy j hj).trans (hx j hj).symm).dvd
  have hzero : x - y = 0 := Int.eq_zero_of_abs_lt_dvd hdvd (by rw [abs_lt]; omega)
  omega

/-- An integer of a range is rebuilt from its residues. -/
theorem reconstruct_eq {r : Nat → Nat} {cs : List Nat} {x : Int} {H : Nat} (hc : coprimes cs) (hx : HasResidues r cs x) (hle : x.natAbs ≤ H)
    (hH : 2 * H < span cs) : reconstruct r cs = x := by
  obtain ⟨hres, hsize⟩ := reconstruct_spec r hc
  exact eq_of_hasResidues hc hres hx (by omega)

/-! ### The check -/

/-- Channels whose code corrects one of them: any two left out, the rest still tell the integers of the half-range apart. -/
structure Corrects (cs : List Nat) (H : Nat) : Prop where
  nodup : cs.Nodup
  coprime : coprimes cs
  span : ∀ i ∈ cs, ∀ k ∈ cs, 2 * H < span (cs.filter fun j => j != i && j != k)

theorem span_filter_le (cs : List Nat) (p : Nat → Bool) : span (cs.filter p) ≤ span cs :=
  Nat.le_of_dvd (span_pos cs) (List.filter_sublist.map Config.modulus).prod_dvd_prod

/-- What a check is OK with is rebuilt from every channel. -/
theorem reconstruct_of_ok {r : Nat → Nat} {cs : List Nat} {nq H : Nat} {y : Int} (h : checkLane r cs nq H = .ok y) :
    reconstruct r cs = y ∧ y.natAbs ≤ H := by
  unfold checkLane at h
  dsimp only at h
  split at h
  · next hle => 
    injection h with h
    exact ⟨h, h ▸ hle⟩
  · split at h
    · exact nomatch h
    · split at h <;> exact nomatch h

theorem filterMap_single {α β : Type} {f : α → Option β} {a : α} {b : β} : ∀ {l : List α}, l.Nodup → a ∈ l → f a = some b →
    (∀ c ∈ l, c ≠ a → f c = none) → l.filterMap f = [b]
  | [], _, h, _, _ => nomatch h
  | c :: l, hn, hm, ha, hne => by
    obtain ⟨hc, hl⟩ := List.nodup_cons.1 hn
    rcases List.mem_cons.1 hm with rfl | hm
    · have hnone : l.filterMap f = [] := List.filterMap_eq_nil_iff.2 fun c hcl => hne c (List.mem_cons_of_mem _ hcl) fun h => hc (h ▸ hcl)
      rw [List.filterMap_cons_some ha, hnone]
    · rw [List.filterMap_cons_none (hne c List.mem_cons_self fun h => hc (h ▸ hm))]
      exact filterMap_single hl hm ha fun d hd => hne d (List.mem_cons_of_mem _ hd)

theorem checkLane_corrected {r : Nat → Nat} {cs : List Nat} {nq H : Nat} {i : Nat} {x : Int} (hbad : ¬ (reconstruct r cs).natAbs ≤ H)
    (hnq : 2 ≤ nq) (hn : cs.Nodup) (hi : i ∈ cs) (hx : reconstruct r (cs.filter fun j => j != i) = x) (hle : x.natAbs ≤ H)
    (hothers : ∀ k ∈ cs, k ≠ i → ¬ (reconstruct r (cs.filter fun j => j != k)).natAbs ≤ H) : checkLane r cs nq H = .corrected i x := by
  have hone : (cs.filterMap fun i =>
      let xi := reconstruct r (cs.filter fun j => j != i)
      if xi.natAbs ≤ H then some (i, xi) else none) = [(i, x)] := by
    refine filterMap_single hn hi ?_ fun k hk hki => if_neg (hothers k hk hki)
    dsimp only
    rw [hx, if_pos hle]
  unfold checkLane
  dsimp only at hone ⊢
  rw [if_neg hbad, if_neg (by omega), hone]

section
variable {cs : List Nat} {H : Nat} {x : Int} (hcode : Corrects cs H) (hx : x.natAbs ≤ H)
include hcode hx

/-- What has the residues of `x` in all but two channels, and lies in the half-range, is `x`. -/
theorem eq_of_but_two {r : Nat → Nat} {i k : Nat} {y : Int} (hi : i ∈ cs) (hk : k ∈ cs) (hr : ∀ j ∈ cs, j ≠ i → j ≠ k → r j = residue x j)
    (hy : HasResidues r (cs.filter fun j => j != i && j != k) y) (hle : y.natAbs ≤ H) : y = x := by
  have hspan := hcode.span i hi k hk
  refine eq_of_hasResidues (coprimes_filter _ hcode.coprime) hy (fun j hj => ?_) (by omega)
  obtain ⟨hjcs, hne⟩ := List.mem_filter.1 hj
  rw [Bool.and_eq_true, bne_iff_ne, bne_iff_ne] at hne
  rw [hr j hjcs hne.1 hne.2]
  exact hasResidues_residue cs x j hjcs

/-- The residues of an integer of the half-range are found OK. -/
theorem check_ok {nq : Nat} (hne : cs ≠ []) : checkLane (residue x) cs nq H = .ok x := by
  obtain ⟨i, hi⟩ := List.exists_mem_of_ne_nil cs hne
  have hspan : 2 * H < span cs := Nat.lt_of_lt_of_le (hcode.span i hi i hi) (span_filter_le _ _)
  unfold checkLane
  dsimp only
  rw [reconstruct_eq hcode.coprime (hasResidues_residue cs x) hx hspan, if_pos hx]

/-- With one channel changed, the check names it and gives the integer. -/
theorem check_corrected {nq i e : Nat} (hnq : 2 ≤ nq) (hi : i ∈ cs) (he : e < Config.modulus i) (hne : e ≠ residue x i) :
    checkLane (fun j => if j = i then e else residue x j) cs nq H = .corrected i x := by
  let r : Nat → Nat := fun j => if j = i then e else residue x j
  have hr : ∀ j, j ≠ i → r j = residue x j := fun j hj => if_neg hj
  have hfooled : ∀ ds : List Nat, i ∈ ds → ¬ HasResidues r ds x := fun ds hids h => by
    have h1 := h i hids
    have h2 := hasResidues_residue cs x i hi
    rw [show r i = e from if_pos rfl] at h1
    exact hne (Nat.ModEq.eq_of_lt_of_lt (Int.natCast_modEq_iff.1 (h1.symm.trans h2)) he (residue_lt x i))
  refine checkLane_corrected (fun hle => ?_) hnq hcode.nodup hi ?_ hx fun k hk hki hle => ?_
  · have hres := (reconstruct_spec r hcode.coprime).1
    have heq := eq_of_but_two hcode hx hi hi (fun j _ hj _ => hr j hj) (fun j hj => hres j (List.mem_of_mem_filter hj)) hle
    exact hfooled cs hi (heq ▸ hres)
  · have hspan : 2 * H < span (cs.filter fun j => j != i) := by
      have h := hcode.span i hi i hi
      simpa only [Bool.and_self] using h
    refine reconstruct_eq (coprimes_filter _ hcode.coprime) (fun j hj => ?_) hx hspan
    obtain ⟨hjcs, hji⟩ := List.mem_filter.1 hj
    rw [if_neg (bne_iff_ne.1 hji)]
    exact hasResidues_residue cs x j hjcs
  · have hres := (reconstruct_spec r (coprimes_filter (fun j => j != k) hcode.coprime)).1
    have heq := eq_of_but_two hcode hx hi hk (fun j _ hj _ => hr j hj) (fun j hj => hres j ?_) hle
    · exact hfooled _ ((List.mem_filter (p := fun j => j != k)).2 ⟨hi, bne_iff_ne.2 (Ne.symm hki)⟩) (heq ▸ hres)
    · obtain ⟨hjcs, hjk⟩ := List.mem_filter.1 hj
      rw [Bool.and_eq_true] at hjk
      exact List.mem_filter.2 ⟨hjcs, hjk.2⟩

/-- With two channels changed, the check is not OK. -/
theorem check_not_ok {nq i k e g : Nat} {y : Int} (hi : i ∈ cs) (hk : k ∈ cs) (he : e < Config.modulus i) (hne : e ≠ residue x i) :
    checkLane (fun j => if j = i then e else if j = k then g else residue x j) cs nq H ≠ .ok y := fun hok => by
  obtain ⟨hy, hle⟩ := reconstruct_of_ok hok
  have hres := (reconstruct_spec (fun j => if j = i then e else if j = k then g else residue x j) hcode.coprime).1
  rw [hy] at hres
  have heq := eq_of_but_two hcode hx hi hk (fun j _ hj hjk => by rw [if_neg hj, if_neg hjk]) (fun j hj => hres j (List.mem_of_mem_filter hj)) hle
  have h1 := hres i hi
  rw [heq] at h1
  simp only [if_true] at h1
  exact hne (Nat.ModEq.eq_of_lt_of_lt (Int.natCast_modEq_iff.1 (h1.symm.trans (hasResidues_residue cs x i hi))) he (residue_lt x i))

end

/-- The code of every lane corrects one channel (03 R80). -/
theorem corrects_lane {l : Nat} (hl : l < 4) : Corrects (laneChans l) (half l) := by
  have h : ∀ l < 4, (laneChans l).Nodup ∧ (laneChans l).Pairwise (fun i j => Nat.Coprime (Config.modulus i) (Config.modulus j)) ∧
      ∀ i ∈ laneChans l, ∀ k ∈ laneChans l, 2 * half l < span ((laneChans l).filter fun j => j != i && j != k) := by decide +kernel
  obtain ⟨hnodup, hcoprime, hspan⟩ := h l hl
  exact ⟨hnodup, hcoprime, hspan⟩

/-- Settles O39. -/
theorem residueCodeCorrectsOneChannel : Obligations.ResidueCodeCorrectsOneChannel := by
  intro l hl x hx
  have hcode := corrects_lane hl
  have hne : laneChans l ≠ [] := (by decide : ∀ l < 4, laneChans l ≠ []) l hl
  refine ⟨check_ok hcode hx hne, fun i hi e he hei => ⟨check_corrected hcode hx ?_ hi he hei, fun k hk _ g _ _ y => check_not_ok hcode hx hi hk he hei⟩⟩
  split <;> decide

end Sys2Proof.Proofs

/-! What the array's entries do to their tiles (06 R173, R174, R176, R180, R189, R199). -/

namespace Sys2Proof.Proofs

open Sys2Proof Sys2Proof.Machine Sys2Proof.Rules

/-! ### Tiles -/

theorem tile_putTile (k : Machine.Core) (c x : Nat) (t : Tile) : (k.putTile c t).tile x = if x = c then t else k.tile x := by
  by_cases h : x = c
  · rw [if_pos h, h]
    exact tabGet_tabPut_self ..
  · rw [if_neg h]
    exact tabGet_tabPut_ne _ _ _ _ _ h

/-- Tiles changed one after another, each once. -/
theorem tile_foldl_changed (f : Tile → Tile) (x : Nat) : ∀ (l : List Nat) (k : Machine.Core), l.Nodup →
    (l.foldl (fun (k : Machine.Core) c => k.putTile c (f (k.tile c))) k).tile x = if x ∈ l then f (k.tile x) else k.tile x
  | [], k, _ => (if_neg List.not_mem_nil).symm
  | c :: l, k, h => by
    obtain ⟨hc, hl⟩ := List.nodup_cons.1 h
    rw [List.foldl_cons, tile_foldl_changed f x l _ hl, tile_putTile]
    by_cases hx : x = c
    · rw [if_neg (hx ▸ hc), if_pos hx, if_pos (hx ▸ List.mem_cons_self), hx]
    · rw [if_neg hx]
      simp only [List.mem_cons, hx, false_or]

theorem mq_foldl_changed (f : Machine.Core → Nat → Tile) (l : List Nat) (k : Machine.Core) :
    (l.foldl (fun (k : Machine.Core) c => k.putTile c (f k c)) k).mq = k.mq := by
  induction l generalizing k with
  | nil => rfl
  | cons c l ih => exact ih _

/-! ### A step of the array -/

/-- A step of the array that changes its core alone. -/
theorem mxStep_core {s : State} {f : MxOp → Bool} {g : Nat → MxEnt → State} {e : MxEnt} {k : Machine.Core} (hc : s.calm = true)
    (he : s.mxNext s.arg.unit f = some e) (hg : g s.arg.unit e = s.putCore s.arg.unit k) : s.mxStep f g = .next (s.putCore s.arg.unit k) := by
  rw [mxStep_eq, he]
  dsimp only
  rw [hg, settle_of_calm _ (calm_congr s (s.putCore s.arg.unit k) hc rfl rfl rfl rfl)]

theorem mq_mxDrop (k : Machine.Core) (e : MxEnt) (n : Nat) : (k.mxDrop e n).mq = k.mq.filter fun x => x.id ≠ e.id := by
  rw [mxDrop_mq]
  refine List.filter_congr fun x _ => ?_
  rw [decide_not, bne]
  rfl

/-- A K-step as it stands in the queue once it has started. -/
def startedStep (k : Machine.Core) (e : MxEnt) (a b : Nat) (m : Option Nat) (free : Nat) : MxEnt :=
  { e with phase := 1, due := free + 12, a := (k.alcove a).data, b := (k.alcove b).data
           m := match m with | some h => (k.alcove h).data | none => [] }

/-- A K-step starts: its entry goes to the array, with what it has read. -/
theorem kstepStart_eq (s : State) (core : Nat) (e : MxEnt) (a b : Nat) (m : Option Nat) :
    ∃ k, s.kstepStart core e a b m = s.putCore core k ∧ k.mq = (s.core core).mq.map fun x => if x.id == e.id then
      startedStep (s.core core) e a b m (s.cycle + if mSp ((((s.core core).tile (e.op.tiles.headD 0)).mode).getD 0) = 1 then 64 else 32) else x := by
  unfold State.kstepStart
  refine ⟨_, rfl, ?_⟩
  cases m <;> rfl

theorem exec_mset_entry {s : State} {e : MxEnt} {m w : Nat} (hc : s.calm = true) (he : s.mxNext s.arg.unit MxOp.isMset = some e) (hop : e.op = .mset m w) :
    exec .msetExecute s = .next (s.putCore s.arg.unit ((e.op.tiles.foldl (fun (k : Machine.Core) c =>
      k.putTile c { (k.tile c).zero with mode := some w }) (s.core s.arg.unit)).mxDrop e s.cycle)) := by
  refine mxStep_core hc he ?_
  unfold State.msetRun
  simp only [hop]

theorem exec_mzero_entry {s : State} {e : MxEnt} {c : Nat} (hc : s.calm = true) (he : s.mxNext s.arg.unit MxOp.isMzero = some e)
    (hop : e.op = .mzero c) : exec .mzeroExecute s =
      .next (s.putCore s.arg.unit (((s.core s.arg.unit).putTile c ((s.core s.arg.unit).tile c).zero).mxDrop e s.cycle)) := by
  rw [exec_mzeroExecute, execMzeroExecute]
  refine mxStep_core hc he ?_
  simp only [hop]

theorem exec_minj_entry {s : State} {e : MxEnt} {c ch d w : Nat} (hc : s.calm = true) (he : s.mxNext s.arg.unit MxOp.isMinj = some e)
    (hop : e.op = .minj c ch d w) : exec .minjExecute s = .next (s.putCore s.arg.unit
      (((s.core s.arg.unit).putTile c { (s.core s.arg.unit).tile c with inj := some (ch, d, w) }).mxDrop e s.cycle)) := by
  rw [exec_minjExecute, execMinjExecute]
  refine mxStep_core hc he ?_
  simp only [hop]

theorem exec_kstep_entry {s : State} {e : MxEnt} {c a b : Nat} {z n : Bool} {m : Option Nat} {ws : List Nat} (hc : s.calm = true)
    (he : s.mxNext s.arg.unit MxOp.isMma = some e) (hop : e.op = .mma c z n a b m ws) :
    ∃ k, exec .kstepStart s = .next (s.putCore s.arg.unit k) ∧ k.mq = (s.core s.arg.unit).mq.map fun x => if x.id == e.id then
      startedStep (s.core s.arg.unit) e a b m (s.cycle + if mSp ((((s.core s.arg.unit).tile c).mode).getD 0) = 1 then 64 else 32) else x := by
  obtain ⟨k, hk, hmq⟩ := kstepStart_eq s s.arg.unit e a b m
  have htile : e.op.tiles.headD 0 = c := by rw [hop]; rfl
  rw [htile] at hmq
  refine ⟨k, ?_, hmq⟩
  rw [exec_kstepStart, execKstepStart]
  refine mxStep_core hc he ?_
  simp only [hop]
  exact hk

/-- Settles O40. -/
theorem arrayEntriesExecute : Obligations.ArrayEntriesExecute := by
  refine ⟨fun s e m w hc he hop => ?_, fun s e c hc he hop => ?_, fun s e c ch d w hc he hop => ?_, fun s e c z n a b m ws hc he hop => ?_⟩
  · refine ⟨_, exec_mset_entry hc he hop, fun c hc => ?_, ?_, rfl, rfl⟩
    · have hmem : c ∈ e.op.tiles ↔ m.testBit c = true := by
        rw [hop]
        simp [MxOp.tiles, hc, ← testBit_eq_div]
      have hnodup : e.op.tiles.Nodup := by
        rw [hop]
        exact List.nodup_range.filter _
      rw [core_putCore, if_pos rfl, mxDrop_tile, tile_foldl_changed (fun t => { t.zero with mode := some w }) c _ _ hnodup]
      exact if_congr hmem rfl rfl
    · rw [core_putCore, if_pos rfl, mq_mxDrop, mq_foldl_changed]
  · refine ⟨_, exec_mzero_entry hc he hop, fun x => ?_, ?_, rfl, rfl⟩
    · rw [core_putCore, if_pos rfl, mxDrop_tile, tile_putTile]
    · rw [core_putCore, if_pos rfl, mq_mxDrop]
      rfl
  · refine ⟨_, exec_minj_entry hc he hop, ?_, ?_, rfl, rfl⟩
    · rw [core_putCore, if_pos rfl, mxDrop_tile, tile_putTile, if_pos rfl]
    · rw [core_putCore, if_pos rfl, mq_mxDrop]
      rfl
  · intro k
    obtain ⟨hmem, -⟩ := mxNext_some he
    obtain ⟨k2, hrun, hmq⟩ := exec_kstep_entry hc he hop
    refine ⟨_, hrun, ⟨startedStep k e a b m _, ?_, rfl, rfl, rfl, rfl, rfl, ?_, rfl⟩, rfl, rfl⟩
    · rw [core_putCore, if_pos rfl, hmq]
      exact List.mem_map.2 ⟨e, hmem, if_pos (beq_self_eq_true _)⟩
    · cases m <;> rfl

end Sys2Proof.Proofs

/-! Copy commands (08 R241, R250-R254), and words that leave their register empty until a wait comes about (01 R10). -/

namespace Sys2Proof.Proofs

open Sys2Proof Sys2Proof.Machine Sys2Proof.Rules
open Host (Outcome)

/-! ### Registers left empty -/

/-- A producer leaves what a commit looks at of its task, and where the task runs. -/
theorem produce_kept (t : Machine.Task) (ds : List Dest) (w : Wait) : (t.produce ds w).redo = t.redo ∧ (t.produce ds w).loops = t.loops ∧
    (t.produce ds w).core = t.core ∧ (t.produce ds w).pts = t.pts := by
  obtain ⟨x, y, h⟩ := foldl_setEmpty_eq ds { t with
    ntok := t.ntok + 1, prods := t.prods ++ [{ tok := t.ntok, dsts := ds, wait := w }]
    flights := t.flights.filter fun f => !(f.replay && ds.contains f.dst) }
  unfold Task.produce
  rw [h]
  exact ⟨rfl, rfl, rfl, rfl⟩

/-- A wait that no access follows and that draws nothing. -/
def Wait.apart (w : Wait) : Prop := w.ordered = false ∧ ∀ a b c, w ≠ .nextTile a b c

theorem apply_produce {w : Wait} (h : Wait.apart w) (u : State) (d : BitVec 6) : u.applyEffect (.produce [dstS d] w) = awaits d w u := by
  obtain ⟨hordered, hnext⟩ := h
  unfold State.applyEffect
  cases w with
  | nextTile a b c => exact absurd rfl (hnext a b c)
  | join a => exact nomatch hordered
  | watch a b c => exact nomatch hordered
  | barw a b => exact nomatch hordered
  | _ => rfl

/-- A word that leaves its register empty until a wait comes about. -/
theorem does_awaits {i : Instr} {s : State} {sh : Shape} {d : BitVec 6} {w : Wait} (hr : s.ready sh = true) (hw : Wait.apart w)
    (h : exec i s = s.runSlot sh (.go [.produce [dstS d] w])) : Does i s (awaits d w) := by
  obtain ⟨hredo, hloops, -⟩ := produce_kept s.now [dstS d] w
  exact does_put (v := s.logSlot sh (.go [.produce [dstS d] w])) hr h rfl rfl (apply_produce hw _ d) rfl rfl rfl ⟨rfl, rfl, rfl, rfl⟩ hredo hloops

/-- A word that leaves its register empty until a wait comes about that the task's later accesses follow. -/
theorem does_awaitsInOrder {i : Instr} {s : State} {sh : Shape} {d : BitVec 6} {w : Wait} (hr : s.ready sh = true) (hw : w.ordered = true)
    (h : exec i s = s.runSlot sh (.go [.produce [dstS d] w])) : Does i s (awaitsInOrder d w) := by
  obtain ⟨hredo, hloops, -⟩ := produce_kept s.now [dstS d] w
  have happly : ∀ u : State, u.applyEffect (.produce [dstS d] w) = awaitsInOrder d w u := fun u => by
    unfold State.applyEffect
    cases w with
    | join a => rfl
    | watch a b c => rfl
    | barw a b => rfl
    | _ => exact nomatch hw
  exact does_put (v := s.logSlot sh (.go [.produce [dstS d] w])) hr h rfl rfl (happly _) rfl rfl rfl ⟨rfl, rfl, rfl, rfl⟩ hredo hloops

/-! ### CGO (08 R250) -/

theorem testBit_four {x : Nat} : x.testBit 4 = decide (x / 16 % 2 = 1) := Nat.testBit_eq_decide_div_mod_eq

/-- A free channel's CGO, its alcove handle checked. -/
theorem exec_cgo_ok {s : State} {q : BitVec 2} {a b : BitVec 6} (hq : s.now.qmask.testBit q.toNat = true)
    (hfree : ((s.core s.now.core).chan q.toNat).cmd = none)
    (hok : (((s.core s.now.core).chan q.toNat).field 7).testBit 4 = false ∨ ∃ x,
      tabFind s.now.handles (((s.core s.now.core).chan q.toNat).field 7 % 16) = some x ∧
      (((s.core s.now.core).alcove x).st = 1 ∨ ((s.core s.now.core).alcove x).st = 4)) :
    exec (.cgo q a b) s = s.runSlot { sr := [a.toNat, b.toNat] }
      (.go [.cgo q.toNat ((s.now.rs a).toNat % 2 ^ 16) ((s.now.rs b).toNat % 2 ^ 16)]) := by
  have hclears : s.holdClears s.tid (.chan q.toNat) = true := Option.isNone_iff_eq_none.2 hfree
  rw [exec_cgo, execCgo, noChan_of_qmask hq]
  refine congrArg (s.runSlot _) ((orHold_clear _ hclears).trans (if_pos ?_))
  rcases hok with hbit | ⟨x, hx, hst⟩
  · rw [testBit_four, decide_eq_false_iff_not] at hbit
    rw [Bool.or_eq_true, beq_iff_eq]
    exact .inl (by omega)
  · rw [hx, Bool.or_eq_true]
    refine .inr ?_
    rw [Bool.or_eq_true, beq_iff_eq, beq_iff_eq]
    exact hst

/-- A channel with a command launched, its follow-on word taken. -/
def launched (c : Cmd) (ch : Chan) : Chan := { ch with cmd := some c, fields := tabSet ch.fields 0 6 (ch.field 6 % 2 ^ 32) }

theorem cgoEnter_plain {u : State} {q : BitVec 2} (id h : Nat) (hd : (((u.core u.now.core).chan q.toNat).field 7).testBit 4 = false) :
    u.cgoEnter u.tid q.toNat id h = withChan q (launched (snapshot u q id h)) u := by
  have hnone : (snapshot u q id h).alcoveDst = none := by
    rw [testBit_four, decide_eq_false_iff_not] at hd
    exact if_neg hd
  have hbind : ((snapshot u q id h).alcoveDst.bind fun x => tabFind u.now.handles x) = none := by rw [hnone]; rfl
  unfold State.cgoEnter
  extract_lets t k c ch ch1 k1
  have hc : c.alcoveDst.bind (fun h => tabFind t.handles h) = none := hbind
  simp only [hc]
  rfl

theorem chan_putChan (k : Machine.Core) (q r : Nat) (ch : Chan) : (k.putChan q ch).chan r = if r = q then ch else k.chan r := by
  by_cases h : r = q
  · rw [if_pos h, h]
    exact tabGet_tabPut_self ..
  · rw [if_neg h]
    exact tabGet_tabPut_ne _ _ _ _ _ h

theorem alcove_putAlcove_self (k : Machine.Core) (a : Nat) (x : Alcove) : (k.putAlcove a x).alcove a = x := tabGet_tabPut_self ..

/-- A CGO whose destination is an alcove: the channel has its command, and the alcove is being loaded. -/
theorem cgoEnter_alcove {u : State} {q : BitVec 2} (id h : Nat) {x : Nat} (hd : (((u.core u.now.core).chan q.toNat).field 7).testBit 4 = true)
    (hx : tabFind u.now.handles (((u.core u.now.core).chan q.toNat).field 7 % 16) = some x) :
    ∃ k, u.cgoEnter u.tid q.toNat id h = u.putCore u.now.core k ∧ (k.chan q.toNat).cmd = some (snapshot u q id h) ∧ (k.alcove x).st = 2 ∧
      k.cur = (u.core u.now.core).cur := by
  have hsome : (snapshot u q id h).alcoveDst = some (((u.core u.now.core).chan q.toNat).field 7 % 16) := by
    rw [testBit_four, decide_eq_true_eq] at hd
    exact if_pos hd
  have hbind : ((snapshot u q id h).alcoveDst.bind fun x => tabFind u.now.handles x) = some x := by rw [hsome]; exact hx
  unfold State.cgoEnter
  extract_lets t k c ch ch1 k1
  have hc : c.alcoveDst.bind (fun h => tabFind t.handles h) = some x := hbind
  simp only [hc]
  refine ⟨_, rfl, ?_, ?_, rfl⟩
  · show (k1.chan q.toNat).cmd = _
    rw [chan_putChan, if_pos rfl]
    rfl
  · rw [alcove_putAlcove_self]

theorem does_cgo {s : State} {q : BitVec 2} {a b : BitVec 6} (h : s.ready { sr := [a.toNat, b.toNat] } = true)
    (hq : s.now.qmask.testBit q.toNat = true) (hfree : ((s.core s.now.core).chan q.toNat).cmd = none)
    (hd : (((s.core s.now.core).chan q.toNat).field 7).testBit 4 = false) :
    Does (.cgo q a b) s (withChan q (launched (snapshot s q ((s.now.rs a).toNat % 2 ^ 16) ((s.now.rs b).toNat % 2 ^ 16)))) := by
  unfold Does
  rw [exec_cgo_ok hq hfree (.inl hd)]
  refine ⟨_, _, runSlot_cores _ h rfl rfl (cgoEnter_plain _ _ ?_) (tid_withChan q _ (s.logSlot _ _))⟩
  exact hd

theorem runs_cgo_alcove {s : State} {q : BitVec 2} {a b : BitVec 6} {x : Nat} (h : s.ready { sr := [a.toNat, b.toNat] } = true)
    (hq : s.now.qmask.testBit q.toNat = true) (hfree : ((s.core s.now.core).chan q.toNat).cmd = none)
    (hd : (((s.core s.now.core).chan q.toNat).field 7).testBit 4 = true)
    (hx : tabFind s.now.handles (((s.core s.now.core).chan q.toNat).field 7 % 16) = some x)
    (hst : ((s.core s.now.core).alcove x).st = 1 ∨ ((s.core s.now.core).alcove x).st = 4) :
    Runs (.cgo q a b) s fun t => ((t.core s.now.core).chan q.toNat).cmd =
        some (snapshot s q ((s.now.rs a).toNat % 2 ^ 16) ((s.now.rs b).toNat % 2 ^ 16)) ∧
      ((t.core s.now.core).alcove x).st = 2 ∧ t.mem = s.mem := by
  let e : Effect := .cgo q.toNat ((s.now.rs a).toNat % 2 ^ 16) ((s.now.rs b).toNat % 2 ^ 16)
  obtain ⟨k, hk, hcmd, halc, hcur⟩ := cgoEnter_alcove (u := s.logSlot { sr := [a.toNat, b.toNat] } (.go [e])) (q := q)
    ((s.now.rs a).toNat % 2 ^ 16) ((s.now.rs b).toNat % 2 ^ 16) hd hx
  have hrun := runSlot_cores (s := s) (es := [e]) (tabPut s.cores s.now.core k) h rfl rfl hk (tid_putCore s hcur)
  have hcore : (State.core { s with cores := tabPut s.cores s.now.core k } s.now.core) = k := core_putCore_self s s.now.core k
  rw [Runs, exec_cgo_ok hq hfree (.inr ⟨x, hx, hst⟩)]
  refine ⟨_, hrun, ?_, ?_, rfl⟩
  · rw [core_passed]
    exact (congrArg (fun k => (Core.chan k q.toNat).cmd) hcore).trans hcmd
  · rw [core_passed]
    exact (congrArg (fun k => (Core.alcove k x).st) hcore).trans halc

/-! ### Cancels (08 R241, R254) -/

/-- A command that a cancel has ended: its status, and nothing faulted. -/
def Cancelled (c d : Cmd) : Prop := d.ends = some (2, 0, 0) ∧ d.faulted = false ∧ d.id = c.id ∧ d.clk = c.clk

/-- A cancelled command ends; no other channel of its core changes, and nothing beside the core. -/
theorem endCopy_cancelled {s : State} {core q : Nat} {c : Cmd} (hc : ((s.core core).chan q).cmd = some c) (hm : c.multicast = false) :
    ∃ k d, s.endCopy core q (2, 0, 0) = s.putCore core k ∧ (k.chan q).cmd = some d ∧ Cancelled c d ∧ ∀ r, r ≠ q → k.chan r = (s.core core).chan r := by
  have hpeek : s.peekRecord core q c 2 = c := by unfold State.peekRecord; rw [hm]; rfl
  have htwice : ∀ k j : Machine.Core, (s.putCore core k).putCore core j = s.putCore core j := fun k j => by
    show ({ s with cores := tabPut (tabPut s.cores core k) core j } : State) = { s with cores := tabPut s.cores core j }
    rw [tabPut_tabPut]
  unfold State.endCopy
  simp only [hc, hpeek, hm, Bool.false_and, Bool.false_eq_true, if_false, core_putCore_self, chan_putChan, if_true, Option.getD_some, htwice]
  have hchan : ∀ (o : Option Nat) (k1 k0 : Machine.Core) (x : Alcove → Alcove) (r : Nat),
      Core.chan (match o with | some a => if (k0.alcove a).st = 2 then k1.putAlcove a (x (k0.alcove a)) else k1 | none => k1) r = k1.chan r := by
    intro o k1 k0 x r
    cases o with
    | none => rfl
    | some a => dsimp only; split <;> rfl
  refine ⟨_, { c with ends := some (2, 0, 0), faulted := false, shown := c.shown || true || c.followOn.isNone }, rfl, ?_, ⟨rfl, rfl, rfl, rfl⟩,
    fun r hr => ?_⟩
  · refine (congrArg Chan.cmd (hchan _ _ _ (fun x => { x with st := if 2 = 0 then 4 else 1 }) q)).trans ?_
    rw [chan_putChan, if_pos rfl]
    rfl
  · refine (hchan _ _ _ (fun x => { x with st := if 2 = 0 then 4 else 1 }) r).trans ?_
    rw [chan_putChan, if_neg hr, chan_putChan, if_neg hr]

/-- A pass over a list in which one element alone acts, once. -/
theorem foldl_one {σ β : Type} [DecidableEq β] {g : σ → β → σ} {s u : σ} {q : β} (hq : g s q = u) : ∀ {l : List β}, l.Nodup →
    (∀ r ∈ l, r ≠ q → g s r = s ∧ g u r = u) → l.foldl g s = if q ∈ l then u else s
  | [], _, _ => rfl
  | r :: l, hn, h => by
    obtain ⟨hr, hl⟩ := List.nodup_cons.1 hn
    have hrest := fun x hx => h x (List.mem_cons_of_mem r hx)
    by_cases hrq : r = q
    · have hstay : ∀ l' : List β, (∀ x ∈ l', g u x = u) → l'.foldl g u = u := fun l' hs => by
        induction l' with
        | nil => rfl
        | cons x l' ih =>
          rw [List.foldl_cons, hs x List.mem_cons_self]
          exact ih fun y hy => hs y (List.mem_cons_of_mem _ hy)
      rw [List.foldl_cons, hrq, hq, if_pos List.mem_cons_self]
      exact hstay l fun x hx => (hrest x hx fun he => hr (hrq ▸ he ▸ hx)).2
    · rw [List.foldl_cons, (h r List.mem_cons_self hrq).1, foldl_one hq hl hrest]
      exact if_congr ⟨fun hm => List.mem_cons_of_mem _ hm, fun hm => (List.mem_cons.1 hm).resolve_left (Ne.symm hrq)⟩ rfl rfl

/-- A cancel by handle is a cancel of the one channel that has it. -/
theorem cancelHandle_eq {s : State} {tid h q : Nat} {c : Cmd} (h0 : h ≠ 0) (hq : q < 4) (hmask : (s.task tid).qmask.testBit q = true)
    (hc : ((s.core (s.task tid).core).chan q).cmd = some c) (hh : c.handle = h)
    (hother : ∀ r < 4, r ≠ q → ∀ d, ((s.core (s.task tid).core).chan r).cmd = some d → d.handle ≠ h)
    (hstay : ∀ r, r ≠ q → ((s.cancelCopy (s.task tid).core q).core (s.task tid).core).chan r = (s.core (s.task tid).core).chan r) :
    s.cancelHandle tid h = s.cancelCopy (s.task tid).core q := by
  unfold State.cancelHandle
  rw [if_neg h0]
  refine (foldl_one (u := s.cancelCopy (s.task tid).core q) (q := q) ?_ List.nodup_range fun r hr hrq => ⟨?_, ?_⟩).trans
    (if_pos (List.mem_range.2 hq))
  · simp only [hc]
    exact if_pos ⟨bit_of_testBit hmask, hh⟩
  · cases hr' : ((s.core (s.task tid).core).chan r).cmd with
    | none => rfl
    | some d => exact if_neg fun hx => hother r (List.mem_range.1 hr) hrq d hr' hx.2
  · rw [hstay r hrq]
    cases hr' : ((s.core (s.task tid).core).chan r).cmd with
    | none => rfl
    | some d => exact if_neg fun hx => hother r (List.mem_range.1 hr) hrq d hr' hx.2

theorem cancelsEnd : CancelsEnd := by
  refine ⟨fun s tid => by unfold State.cancelHandle; exact if_pos rfl, fun s tid h q c h0 hq hmask hc hh hends hm hother => ?_⟩
  have hcancel : s.cancelCopy (s.task tid).core q = if c.data = true then s else s.endCopy (s.task tid).core q (2, 0, 0) := by
    unfold State.cancelCopy
    simp only [hc, hends, Option.isSome_none, Bool.false_or]
  obtain ⟨k, d, hk, hd, hcan, hrest⟩ := endCopy_cancelled hc hm
  by_cases hdata : c.data = true
  · rw [if_pos hdata] at hcancel
    have hall := cancelHandle_eq h0 hq hmask hc hh hother fun r _ => by rw [hcancel]
    rw [hall, hcancel]
    exact ⟨fun _ => rfl, fun hf => absurd hdata (by rw [hf]; decide), fun r _ => rfl, rfl⟩
  · rw [if_neg hdata, hk] at hcancel
    have hcore : (s.cancelCopy (s.task tid).core q).core (s.task tid).core = k := by rw [hcancel]; exact core_putCore_self ..
    have hall := cancelHandle_eq h0 hq hmask hc hh hother fun r hr => by rw [hcore]; exact hrest r hr
    rw [hall, hcore]
    exact ⟨fun ht => absurd ht hdata, fun _ => ⟨d, hd, hcan⟩, hrest, by rw [hcancel]; rfl⟩

/-- Settles O42. -/
theorem commandsLaunchAndAnswer : Obligations.CommandsLaunchAndAnswer := by
  refine ⟨fun s q a b h hq => ?_, fun s q d a h hq => ?_, fun s q d h hq => ?_, fun s a h => ?_, cancelsEnd⟩
  · intro ch id handle
    refine ⟨fun hfree hd => does_cgo h hq hfree hd, fun x hfree hd hx hst => runs_cgo_alcove h hq hfree hd hx hst, fun hbusy => ?_⟩
    have hheld : s.holdClears s.tid (.chan q.toNat) = false := Option.isNone_eq_false_iff.2 (Option.isSome_iff_ne_none.2 hbusy)
    refine waits_of_exec ((ready_iff s _).1 h).1 ?_
    rw [exec_cgo, execCgo, noChan_of_qmask hq]
    exact congrArg (s.runSlot _) (orHold_held _ hheld)
  · refine does_awaits h ⟨rfl, fun _ _ _ he => nomatch he⟩ ?_
    rw [exec_cwp, execCwp, noChan_of_qmask hq]
  · intro ch
    refine ⟨?_, fun hf => ?_, fun hf => ?_⟩
    · cases hc : ch.cmd with
      | none =>
        refine does_awaits h ⟨rfl, fun _ _ _ he => nomatch he⟩ ?_
        rw [exec_cwait, execCwait, noChan_of_qmask hq]
        simp only [show ((s.core s.now.core).chan q.toNat).cmd = none from hc]
        rfl
      | some c =>
        refine does_awaits h ⟨rfl, fun _ _ _ he => nomatch he⟩ ?_
        rw [exec_cwait, execCwait, noChan_of_qmask hq]
        simp only [show ((s.core s.now.core).chan q.toNat).cmd = some c from hc]
        rfl
    · refine does_awaits h ⟨rfl, fun _ _ _ he => nomatch he⟩ ?_
      rw [exec_crec, execCrec, noChan_of_qmask hq]
      exact congrArg (s.runSlot _) (if_neg hf)
    · refine traps_of_exec ((ready_iff s _).1 h).1 (n := 0) ?_
      rw [exec_crec, execCrec, noChan_of_qmask hq]
      exact congrArg (s.runSlot _) (if_pos hf)
  · exact commits_of_exec h rfl (exec_ccan ..)

end Sys2Proof.Proofs

/-! Barrier arrivals, arming and waits (08 R255-R258). -/

namespace Sys2Proof.Proofs

open Sys2Proof Sys2Proof.Machine Sys2Proof.Rules
open Host (Outcome)

/-! ### Tasks woken -/

/-- A state whose tasks have moved in nothing that a commit looks at, and that is otherwise the same. -/
structure Woken (s u : State) : Prop where
  same : ∃ ts, u = { s with tasks := ts }
  kept : ∀ n, (u.task n).redo = (s.task n).redo ∧ (u.task n).loops = (s.task n).loops
  calm : s.calm = true → u.calm = true

theorem woken_refl (s : State) : Woken s s := ⟨⟨s.tasks, rfl⟩, fun _ => ⟨rfl, rfl⟩, id⟩

theorem woken_trans {s u v : State} (h : Woken s u) (g : Woken u v) : Woken s v := by
  obtain ⟨⟨ts, rfl⟩, hkept, hcalm⟩ := h
  obtain ⟨⟨tu, rfl⟩, gkept, gcalm⟩ := g
  exact ⟨⟨tu, rfl⟩, fun n => ⟨(gkept n).1.trans (hkept n).1, (gkept n).2.trans (hkept n).2⟩, fun hc => gcalm (hcalm hc)⟩

theorem woken_putTask {s : State} {n : Nat} {k : Machine.Task} (hr : k.redo = (s.task n).redo) (hl : k.loops = (s.task n).loops) :
    Woken s (s.putTask n k) := by
  refine ⟨⟨_, rfl⟩, fun x => ?_, fun hc => calm_putTask s n k hc (hr.trans (redo_of_calm s n hc))⟩
  by_cases hx : x = n
  · rw [hx, task_putTask_self]
    exact ⟨hr, hl⟩
  · rw [task_putTask_ne _ _ _ _ hx]
    exact ⟨rfl, rfl⟩

theorem woken_foldl {β : Type} {f : State → β → State} (h : ∀ s x, Woken s (f s x)) (l : List β) (s : State) : Woken s (l.foldl f s) := by
  induction l generalizing s with
  | nil => exact woken_refl s
  | cons x l ih => exact woken_trans (h s x) (ih (f s x))

/-- Its current task, bundle and loops stay. -/
theorem does_woken {i : Instr} {s v : State} {sh : Shape} {es : List Effect} {F : State → State} (hr : s.ready sh = true)
    (h : exec i s = s.runSlot sh (.go es)) (hp : es.all Effect.plain = true)
    (hm : Bundle.triesMemory { logs := [{ slot := s.bun.slot, shape := sh, out := .go es }] } = false)
    (hF : es.foldl State.applyEffect (s.logSlot sh (.go es)) = F (s.logSlot sh (.go es)))
    (hw : Woken v (F (s.logSlot sh (.go es)))) (htid : v.tid = s.tid) (hbun : v.bun = (s.logSlot sh (.go es)).bun) (hc : v.calm = true)
    (hnow : v.now.loops = s.now.loops) : Does i s F := by
  obtain ⟨⟨ts, hsame⟩, hkept, hcalm⟩ := hw
  have ht : (F (s.logSlot sh (.go es))).tid = v.tid := by rw [hsame]; rfl
  refine does_of_exec hr h hp hm hF (ht.trans htid) (by rw [hsame]; exact hbun) (hcalm hc) ?_
  rw [State.now, ht]
  exact (hkept v.tid).2.trans hnow

/-! ### A barrier after an operation on it -/

/-- What a producer that waits at a barrier becomes, once the barrier stands as `x` (08 R258). -/
def wakeProd (key : Nat) (x : Barrier) (p : Prod) : Prod :=
  match p.wait with
  | .barw b g => if b = key ∧ x.gen ≠ g then { p with wait := .ready [BitVec.ofNat 512 x.gen] } else p
  | _ => p

theorem wakeProd_wait (key : Nat) (x : Barrier) (p : Prod) : { p with wait := (wakeProd key x p).wait } = wakeProd key x p := by
  obtain ⟨tok, dsts, w⟩ := p
  cases w with
  | barw b g =>
    by_cases h : b = key ∧ x.gen ≠ g
    · rw [show wakeProd key x { tok := tok, dsts := dsts, wait := .barw b g } = { tok := tok, dsts := dsts, wait := .ready [BitVec.ofNat 512 x.gen] }
        from if_pos h]
    · rw [show wakeProd key x { tok := tok, dsts := dsts, wait := .barw b g } = { tok := tok, dsts := dsts, wait := .barw b g } from if_neg h]
  | _ => rfl

theorem wakeProd_wake (key : Nat) (x : Barrier) (p : Prod) : wakeProd key x (wakeProd key x p) = wakeProd key x p := by
  obtain ⟨tok, dsts, w⟩ := p
  cases w with
  | barw b g =>
    by_cases h : b = key ∧ x.gen ≠ g
    · have hp : wakeProd key x { tok := tok, dsts := dsts, wait := .barw b g } = { tok := tok, dsts := dsts, wait := .ready [BitVec.ofNat 512 x.gen] } :=
        if_pos h
      rw [hp]
      rfl
    · have hp : wakeProd key x { tok := tok, dsts := dsts, wait := .barw b g } = { tok := tok, dsts := dsts, wait := .barw b g } := if_neg h
      rw [hp, hp]
  | _ => rfl

theorem barFill_some {s : State} {tid key gen : Nat} (h : (tabGet s.bars {} key).gen ≠ gen) :
    ∃ t, s.barFill tid key gen = some ((tabGet s.bars {} key).gen, s.putTask tid t) ∧ t.prods = (s.task tid).prods ∧ t.redo = (s.task tid).redo ∧
      t.loops = (s.task tid).loops := ⟨_, if_neg h, rfl, rfl, rfl⟩

theorem barFill_none {s : State} {tid key gen : Nat} (h : (tabGet s.bars {} key).gen = gen) : s.barFill tid key gen = none := if_pos h

/-- One pending producer of a task woken, or not: its task alone changes. -/
theorem barWake_eq (s : State) (key tid : Nat) (p : Prod) : s.barWake key tid p = s ∧ wakeProd key (tabGet s.bars {} key) p = p ∨
    ∃ t, s.barWake key tid p = s.putTask tid t ∧ t.redo = (s.task tid).redo ∧ t.loops = (s.task tid).loops ∧
      t.prods = (s.task tid).prods.map fun y => if y.tok == p.tok then { y with wait := (wakeProd key (tabGet s.bars {} key) p).wait } else y := by
  obtain ⟨tok, dsts, w⟩ := p
  cases w with
  | barw b g =>
    by_cases hb : b = key
    · by_cases hg : (tabGet s.bars {} key).gen = g
      · refine .inl ⟨?_, if_neg fun h => h.2 hg⟩
        unfold State.barWake
        simp only [hb, if_true, barFill_none hg]
      · obtain ⟨t, ht, hprods, hredo, hloops⟩ := barFill_some (tid := tid) hg
        refine .inr ⟨t.setWait tok (.ready [BitVec.ofNat 512 (tabGet s.bars {} key).gen]), ?_, hredo, hloops, ?_⟩
        · unfold State.barWake
          simp only [hb, if_true, ht]
          rw [task_putTask_self, putTask_putTask]
        · have hwake : (wakeProd key (tabGet s.bars {} key) { tok := tok, dsts := dsts, wait := .barw b g }).wait =
              .ready [BitVec.ofNat 512 (tabGet s.bars {} key).gen] := congrArg Prod.wait (if_pos ⟨hb, hg⟩)
          rw [hwake, ← hprods]
          rfl
    · exact .inl ⟨if_neg hb, if_neg fun h => hb h.1⟩
  | _ => exact .inl ⟨rfl, rfl⟩

theorem woken_barWake (s : State) (key tid : Nat) (p : Prod) : Woken s (s.barWake key tid p) := by
  rcases barWake_eq s key tid p with ⟨h, -⟩ | ⟨t, h, hr, hl, -⟩
  · rw [h]
    exact woken_refl s
  · rw [h]
    exact woken_putTask hr hl

/-- Another task's producers leave a task alone. -/
theorem task_foldl_barWake {key n tid : Nat} (h : tid ≠ n) (l : List Prod) (u : State) :
    (l.foldl (fun s p => s.barWake key n p) u).task tid = u.task tid := by
  induction l generalizing u with
  | nil => rfl
  | cons p l ih =>
    rw [List.foldl_cons, ih]
    rcases barWake_eq u key n p with ⟨he, -⟩ | ⟨t, he, -⟩
    · rw [he]
    · rw [he, task_putTask_ne _ _ _ _ h]

/-- A barrier operation changes its barrier, and wakes tasks. -/
theorem woken_setBar (s : State) (cluster b : Nat) (x : Barrier) : Woken (s.putBar cluster b x) (s.setBar cluster b x) :=
  woken_foldl (fun s (t : Nat × Machine.Task) => woken_foldl (fun s p => woken_barWake s _ t.1 p) (s.task t.1).prods s) _ _

/-- A task's one producer, once some tasks' have been looked at. -/
theorem prods_wakes {key tid : Nat} {x : Barrier} : ∀ (l : List (Nat × Machine.Task)) (u : State) (p : Prod), tabGet u.bars {} key = x →
    (u.task tid).prods = [p] →
    ((l.foldl (fun s t => (s.task t.1).prods.foldl (fun s p => s.barWake key t.1 p) s) u).task tid).prods =
      [if tid ∈ l.map Prod.fst then wakeProd key x p else p]
  | [], _, _, _, hp => by rw [List.map_nil, if_neg List.not_mem_nil]; exact hp
  | t :: l, u, p, hx, hp => by
    let v := (u.task t.1).prods.foldl (fun s p => s.barWake key t.1 p) u
    have hbars : tabGet v.bars {} key = x := by
      obtain ⟨⟨ts, hv⟩, -, -⟩ := woken_foldl (fun s p => woken_barWake s key t.1 p) (u.task t.1).prods u
      show tabGet (State.bars (List.foldl _ u _)) {} key = x
      rw [hv]
      exact hx
    rw [List.foldl_cons]
    by_cases ht : tid = t.1
    · have hv : (v.task tid).prods = [wakeProd key x p] := by
        have hfold : v = u.barWake key tid p := by
          show List.foldl _ u (u.task t.1).prods = _
          rw [← ht, hp]
          rfl
        rw [hfold]
        rcases barWake_eq u key tid p with ⟨h, hsame⟩ | ⟨k, h, -, -, hprods⟩
        · rw [h, hp, ← hx, hsame]
        · rw [h, task_putTask_self, hprods, hp, ← hx, ← wakeProd_wait]
          simp
      refine (prods_wakes l v _ hbars hv).trans ?_
      rw [wakeProd_wake, ite_self, List.map_cons, if_pos (ht ▸ List.mem_cons_self)]
    · have hv : (v.task tid).prods = [p] := by
        show (State.task (List.foldl _ u _) tid).prods = _
        rw [task_foldl_barWake ht]
        exact hp
      refine (prods_wakes l v _ hbars hv).trans ?_
      simp only [List.map_cons, List.mem_cons, ht, false_or]

theorem phasesWake : PhasesWake := by
  intro s c b x tid t p g ht hp hw
  have hprods : (s.task tid).prods = [p] := by
    rw [State.task, tabGet, ht]
    exact hp
  have hmem : tid ∈ s.tasks.map Prod.fst := List.mem_map_of_mem (tabFind_mem _ _ _ ht)
  have hbar : tabGet (s.putBar c b x).bars {} (c * 32 + b) = x := tabGet_tabPut_self ..
  have hwake : wakeProd (c * 32 + b) x p = if x.gen = g then p else { p with wait := .ready [BitVec.ofNat 512 x.gen] } := by
    unfold wakeProd
    rw [hw]
    by_cases hg : x.gen = g
    · simp [hg]
    · simp [hg]
  refine (prods_wakes s.tasks (s.putBar c b x) p hbar hprods).trans ?_
  rw [if_pos hmem, hwake]
  split <;> rfl

/-! ### The slots -/

/-- An arrival at an armed barrier is counted, and the last one of a phase begins the next (08 R257). -/
theorem arrive_armed {b : Barrier} {clk : Nat} (h : b.target ≠ 0) : (b.arrive clk false).target = b.target ∧
    if b.arrived + 1 = b.target then (b.arrive clk false).gen = (b.gen + 1) % 2 ^ 32 ∧ (b.arrive clk false).arrived = 0
      else (b.arrive clk false).gen = b.gen ∧ (b.arrive clk false).arrived = b.arrived + 1 := by
  unfold Barrier.arrive
  by_cases hlast : b.arrived + 1 = b.target
  · simp [h, hlast]
  · simp [h, hlast]

theorem barSlot_granted {s : State} {n : Nat} (out : SlotOut) (h : s.barGranted (clusterOf s.now.core) n s.now.rkey = true) :
    s.barSlot n out = out := if_pos h

/-- A word that comes to an operation on a barrier of its cluster. -/
theorem does_setBar {i : Instr} {s : State} {sh : Shape} {e : Effect} {n : Nat} {v : Barrier} (hr : s.ready sh = true)
    (h : exec i s = s.runSlot sh (.go [e])) (hp : e.plain = true)
    (hm : Bundle.triesMemory { logs := [{ slot := s.bun.slot, shape := sh, out := .go [e] }] } = false)
    (he : (s.logSlot sh (.go [e])).applyEffect e = (s.logSlot sh (.go [e])).setBar (clusterOf s.now.core) n v) :
    Does i s fun u => u.setBar (clusterOf u.now.core) n v := by
  obtain ⟨-, hc, -⟩ := (ready_iff s sh).1 hr
  exact does_woken (v := (s.logSlot sh (.go [e])).putBar (clusterOf s.now.core) n v) hr h (by simp [hp]) hm he (woken_setBar _ _ _ _) rfl rfl
    (calm_congr s _ hc rfl rfl rfl rfl) rfl

/-- Settles O43. -/
theorem barrierSlots : Obligations.BarrierSlots := by
  refine ⟨fun s n h hg hst => ?_, fun s a n h hg => ⟨fun h1 h2 => ?_, fun hbad => ?_⟩, fun s d a n h hg => ?_, fun s n h hg => ?_, phasesWake⟩
  · intro b
    have hclears : s.holdClears s.tid .stores = true := (congrArg not hst).trans rfl
    refine ⟨b.arrive s.now.pts false, fun h0 => if_pos h0, fun h0 => ?_, ?_⟩
    · exact arrive_armed h0
    · refine does_setBar (e := .bara n.toNat) h ?_ rfl rfl rfl
      rw [exec_bara, execBara, barSlot_granted _ hg, orHold_clear _ hclears]
  · refine does_setBar (e := .bari n.toNat (s.now.rs a).toNat) h ?_ rfl rfl rfl
    rw [exec_bari, execBari, barSlot_granted _ hg]
    exact congrArg (s.runSlot _) (if_neg (by omega))
  · refine traps_of_exec ((ready_iff s _).1 h).1 (n := 0) ?_
    rw [exec_bari, execBari, barSlot_granted _ hg]
    exact congrArg (s.runSlot _) (if_pos hbad)
  · refine does_awaitsInOrder h rfl ?_
    rw [exec_barw, execBarw, barSlot_granted _ hg]
  · refine traps_of_exec ((ready_iff s _).1 h).1 (n := 0) ?_
    rw [exec_bara, execBara]
    exact congrArg (s.runSlot _) (if_neg (by rw [hg]; decide))

end Sys2Proof.Proofs

/-! FORK, JOIN, NEXT, WATCH and HSIG (09 R274, R276, R283, R285, R288-R293; 13 R398). -/

namespace Sys2Proof.Proofs

open Sys2Proof Sys2Proof.Machine Sys2Proof.Rules
open Host (Outcome)

/-! ### Numbers in bytes -/

theorem length_natLe (n v : Nat) : (natLe n v).length = n := by
  induction n generalizing v with
  | zero => rfl
  | succ n ih => rw [natLe, List.length_cons, ih]

theorem leNat_natLe (n v : Nat) : leNat (natLe n v) = v % 2 ^ (8 * n) := by
  induction n generalizing v with
  | zero => rw [natLe, leNat, Nat.mul_zero, Nat.pow_zero, Nat.mod_one]
  | succ n ih =>
    have hpow : 2 ^ (8 * (n + 1)) = 256 * 2 ^ (8 * n) := by rw [Nat.mul_succ, Nat.pow_add, Nat.mul_comm]
    rw [natLe, leNat, ih, BitVec.toNat_ofNat, hpow, Nat.mod_mul]

/-- A field of a record that stands after others. -/
theorem fieldAt_append {xs ys : List Byte} {i n : Nat} (h : xs.length ≤ i) : fieldAt (xs ++ ys) i n = fieldAt ys (i - xs.length) n := by
  rw [fieldAt, fieldAt, List.drop_append, List.drop_eq_nil_of_le h, List.nil_append]

/-- A field that opens a record. -/
theorem fieldAt_natLe {n v : Nat} (ys : List Byte) : fieldAt (natLe n v ++ ys) 0 n = v % 2 ^ (8 * n) := by
  rw [fieldAt, List.drop_zero, List.take_left' (length_natLe n v), leNat_natLe]

/-! ### Commits -/

/-- A word of effects that change no allotment commits them. -/
theorem commits_of_effects {i : Instr} {s : State} {sh : Shape} {es : List Effect} (ha : s.admits sh = true) (he : ∀ e ∈ es, e.allotted = none)
    (hexec : exec i s = s.runSlot sh (.go es)) : Commits i s sh es := by
  rw [Commits, hexec]
  exact runSlot_go s sh es ha (shrinkAwaits_none _ _ _ _ he)

theorem unlessRedun_none {t : Machine.Task} (out : SlotOut) (h : t.run = 0) : t.unlessRedun out = out := if_pos h

theorem ownOperand_iff {s : State} {a n align : Nat} : ownOperand s a n align = true ↔
    s.now.own a n = true ∧ s.reachN s.now.rkey s.now.core (a % 2 ^ 24) n = true ∧ a % align = 0 := by
  rw [ownOperand, Bool.and_eq_true, Bool.and_eq_true, beq_iff_eq, and_assoc]

theorem ownCheck_operand {s : State} {a n align : Nat} (out : SlotOut) (h : ownOperand s a n align = true) : s.ownCheck a n align out = out := by
  obtain ⟨hown, hreach, halign⟩ := ownOperand_iff.1 h
  unfold State.ownCheck
  simp only [hown, hreach, halign, Bool.not_true, Bool.or_self, Bool.false_eq_true, if_false, ne_eq, not_true_eq_false]

theorem ownCheck149_operand {s : State} {a n align : Nat} (out : SlotOut) (h : ownOperand s a n align = true) : s.ownCheck149 a n align out = out := by
  obtain ⟨hown, hreach, halign⟩ := ownOperand_iff.1 h
  unfold State.ownCheck149
  simp only [hown, hreach, halign, Bool.not_true, Bool.false_eq_true, if_false, ne_eq, not_true_eq_false]

theorem lsq_clear {s : State} (h : s.now.lsq = []) : s.holdClears s.tid .lsq = true := by
  show s.now.lsq.isEmpty = true
  rw [h]
  rfl

theorem wordWait_ok {s : State} {a d : BitVec 6} {l : Nat} (w : Nat → Wait) (hm : Mapped s [(s.now.rs a).toNat])
    (hd : s.daccess s.now (s.now.rs a).toNat 8 8 1 = .ok l) : s.wordWait a d w = .go [.produce [dstS d] (w (s.now.rs a).toNat)] := by
  unfold State.wordWait
  simp only [lsParts_ok (ls := [l]) hm (congrArg (fun x => [x]) hd)]

/-! ### Join counters and deques -/

theorem joinsAdd : JoinsAdd := by
  intro s p r core tid a n clk loc ha hloc hbad
  obtain ⟨hsame, hmem⟩ := homeWrite_same s clk loc (natLe 8 ((memNat s.mem loc 8 + n) % 2 ^ 64))
  have hjoin : s.joinUpdate p r core tid a n clk = (s.homeWrite clk loc (natLe 8 ((memNat s.mem loc 8 + n) % 2 ^ 64))).2 := by
    unfold State.joinUpdate
    rw [if_neg ha]
    simp only [hloc, hbad, Bool.false_eq_true, if_false]
  have hlen := length_natLe 8 ((memNat s.mem loc 8 + n) % 2 ^ 64)
  rw [hjoin]
  refine ⟨?_, fun c hc => ?_, hsame.tasks, hsame.cores⟩
  · have hbytes : memBytes (memPutBytes s.mem loc (natLe 8 ((memNat s.mem loc 8 + n) % 2 ^ 64))) loc 8 =
        natLe 8 ((memNat s.mem loc 8 + n) % 2 ^ 64) := by
      conv_lhs => rw [← hlen]
      exact memBytes_memPutBytes ..
    rw [hmem, memNat, hbytes, leNat_natLe, Nat.mod_mod]
  · rw [hmem]
    exact memByte_memPutBytes_out _ _ _ _ (by rw [hlen]; exact hc)

theorem region_of_regions {s u : State} (h : u.regions = s.regions) (r : Nat) : u.region r = s.region r := by
  rw [State.region, State.region, h]

/-- The join counter of a FORK's child updated, as the FORK begins (09 R274). -/
def forkJoins (s : State) (tid : Nat) (b : List Byte) : State :=
  s.joinUpdate (s.task tid).part (s.task tid).rkey (s.task tid).core tid (fieldAt b 8 8) 1 (s.task tid).pts

/-- The record of a FORK. -/
def forkRec (s : State) (tid : Nat) (b : List Byte) (a : Nat) : Rec :=
  { bytes := b, addr := a, clk := (s.task tid).pts, part := (s.task tid).part, since := s.cycle }

theorem fork_room {s : State} {tid : Nat} (b : List Byte) (a : Nat) (h : ((forkJoins s tid b).core (s.task tid).core).deque.length < 16) :
    s.fork tid b a = (forkJoins s tid b).putCore (s.task tid).core { (forkJoins s tid b).core (s.task tid).core with
      deque := forkRec s tid b a :: ((forkJoins s tid b).core (s.task tid).core).deque } := if_pos h

theorem fork_full {s : State} {tid : Nat} (b : List Byte) (a : Nat) {r : List Rec} {y : Rec}
    (hd : ((forkJoins s tid b).core (s.task tid).core).deque = r ++ [y]) (h : 16 ≤ ((forkJoins s tid b).core (s.task tid).core).deque.length) :
    let s0 := forkJoins s tid b
    let g := s0.region y.rkey
    let w := g.ovbase + 64 * (g.ovn % max g.ovcap 1)
    s.fork tid b a = (((s0.putCore (s.task tid).core { s0.core (s.task tid).core with deque := forkRec s tid b a :: r }).putRegion y.rkey
      { g with oflow := g.oflow ++ [{ y with addr := w }], ovn := g.ovn + 1 }).svcWrite 3 g.part y.rkey w y.bytes) := by
  intro s0 g w
  unfold State.fork
  refine (if_neg (Nat.not_lt.2 h)).trans ?_
  have hlast : ((forkJoins s tid b).core (s.task tid).core).deque.getLast? = some y := by rw [hd, List.getLast?_append]; rfl
  have hinit : ((forkJoins s tid b).core (s.task tid).core).deque.dropLast = r := by rw [hd, List.dropLast_concat]
  unfold forkJoins at hlast hinit
  simp only [hlast, hinit]
  rfl

theorem forksPush : ForksPush := by
  intro s tid b a c d u
  have hjoin : s.SameButLines (forkJoins s tid b) := (served_joinUpdate ..).same
  have hcore : (forkJoins s tid b).core c = s.core c := core_of_cores hjoin.cores c
  refine ⟨forkRec s tid b a, rfl, rfl, rfl, rfl, fun hlen => ?_, fun r y hd hlen => ?_⟩
  · have hu : u = _ := fork_room (s := s) (tid := tid) b a (by rw [hcore]; exact hlen)
    rw [hu, core_putCore_self]
    exact congrArg (fun k : Machine.Core => forkRec s tid b a :: k.deque) hcore
  · have hu : u = _ := fork_full (s := s) (tid := tid) b a (r := r) (y := y) (by rw [hcore]; exact hd) (by rw [hcore]; exact hlen)
    rw [hu]
    refine ⟨?_, ?_⟩
    · rw [core_of_cores (served_svcWrite ..).same.cores c]
      exact congrArg Core.deque (core_putCore_self _ c _)
    · rw [region_of_regions (served_svcWrite ..).same.regions y.rkey]
      refine (congrArg Region.oflow (tabGet_tabPut_self ..)).trans ?_
      rw [region_of_regions hjoin.regions y.rkey]

/-! ### Tile sources (09 R285) -/

/-- A list gathered in passes that never empty it is empty only where every pass finds nothing. -/
theorem foldl_eq_nil {α β : Type} {f : List α → β → List α} {P : β → Prop} (hf : ∀ l x, f l x = [] → l = [] ∧ P x) :
    ∀ (xs : List β) (l : List α), xs.foldl f l = [] → l = [] ∧ ∀ x ∈ xs, P x
  | [], _, h => ⟨h, fun _ hx => nomatch hx⟩
  | x :: xs, l, h => by
    obtain ⟨h1, h2⟩ := foldl_eq_nil hf xs (f l x) h
    obtain ⟨h3, h4⟩ := hf l x h1
    exact ⟨h3, fun y hy => by rcases List.mem_cons.1 hy with rfl | hy; exacts [h4, h2 y hy]⟩

/-- Where no NEXT of a region waits on a die, none of its tasks there has one. -/
theorem noNext_of_waitingNexts {s : State} {die r : Nat} (h : s.waitingNexts die r = []) :
    ∀ x ∈ s.tasks, x.2.rkey = r → dieOf x.2.core = die → ∀ p ∈ x.2.prods, ∀ u a left, p.wait ≠ .nextTile u a left := by
  unfold State.waitingNexts at h
  refine (foldl_eq_nil (P := fun x : Nat × Machine.Task => x.2.rkey = r → dieOf x.2.core = die →
    ∀ p ∈ x.2.prods, ∀ u a left, p.wait ≠ .nextTile u a left) (fun l x hx => ?_) s.tasks [] h).2
  by_cases hskip : x.2.rkey ≠ r ∨ dieOf x.2.core ≠ die
  · rw [if_pos hskip] at hx
    exact ⟨hx, fun hr hd => (hskip.elim (fun hn => hn hr) fun hn => hn hd).elim⟩
  · rw [if_neg hskip] at hx
    have hprods := foldl_eq_nil (P := fun p : Prod => ∀ u a left, p.wait ≠ .nextTile u a left) (fun l p hp => ?_) x.2.prods l hx
    · exact ⟨hprods.1, fun _ _ => hprods.2⟩
    · cases hw : p.wait with
      | nextTile u a left =>
        rw [hw] at hp
        simp at hp
      | _ =>
        rw [hw] at hp
        exact ⟨hp, fun _ _ _ he => nomatch he⟩

theorem firstNext_of_waitingNexts {s : State} {core r : Nat} (n : Nat) (h : s.waitingNexts (dieOf core) r = []) : s.firstNext core r n = true := by
  unfold State.firstNext
  rw [Bool.not_eq_true', List.any_eq_false]
  intro x hx
  rw [Bool.and_eq_true, Bool.and_eq_true, Bool.and_eq_true, beq_iff_eq, beq_iff_eq]
  rintro ⟨⟨⟨hcore, hr⟩, -⟩, hany⟩
  obtain ⟨p, hp, hw⟩ := List.any_eq_true.1 hany
  have hnone := noNext_of_waitingNexts h x hx hr (congrArg dieOf hcore) p hp
  cases hwait : p.wait with
  | nextTile u a left => exact hnone u a left hwait
  | _ =>
    rw [hwait] at hw
    exact nomatch hw

theorem produce_prods (t : Machine.Task) (ds : List Dest) (w : Wait) :
    (t.produce ds w).prods = t.prods ++ [{ tok := t.ntok, dsts := ds, wait := w }] := by
  obtain ⟨x, y, h⟩ := foldl_setEmpty_eq ds { t with
    ntok := t.ntok + 1, prods := t.prods ++ [{ tok := t.ntok, dsts := ds, wait := w }]
    flights := t.flights.filter fun f => !(f.replay && ds.contains f.dst) }
  unfold Task.produce
  rw [h]

theorem nextsDraw : NextsDraw := by
  intro s tid ds v rest t hnone hreturns
  let g := s.region t.rkey
  let s1 := s.putRegion t.rkey { g with returns := tabPut g.returns (dieOf t.core) rest }
  have hserve : s.serveWaiting (dieOf t.core) t.rkey = s := by
    unfold State.serveWaiting
    rw [hnone]
    rfl
  have hdraw : s.draw t.core t.rkey = some (v, s1) := by
    unfold State.draw
    simp only [hreturns]
    rfl
  have hnext : s.serveNext tid s.cycle false = some (BitVec.ofNat 64 v, s1) := by
    unfold State.serveNext
    have hfirst : s.firstNext (s.task tid).core (s.task tid).rkey s.cycle = true := firstNext_of_waitingNexts _ hnone
    have hdraw : s.draw (s.task tid).core (s.task tid).rkey = some (v, s1) := hdraw
    simp only [hfirst, hdraw, Bool.false_eq_true, if_false, if_true]
  have henter : s.nextEnter tid ds = s1.putTask tid ((s1.task tid).produce ds (.drawn (t.nb + 24) (BitVec.ofNat 64 v))) := by
    have hserve : s.serveWaiting (dieOf (s.task tid).core) (s.task tid).rkey = s := hserve
    unfold State.nextEnter
    simp only [hserve, hnext]
    rfl
  have hregion : (s.nextEnter tid ds).region t.rkey = { g with returns := tabPut g.returns (dieOf t.core) rest } := by
    rw [henter]
    exact tabGet_tabPut_self ..
  rw [hregion]
  refine ⟨tabGet_tabPut_self .., ?_⟩
  rw [henter, task_putTask_self]
  exact produce_prods ..

/-! ### Events (13 R398) -/

/-- A field of a record beyond its first number. -/
theorem fieldAt_skip {k v i n : Nat} (ys : List Byte) (h : k ≤ i) : fieldAt (natLe k v ++ ys) i n = fieldAt ys (i - k) n := by
  rw [fieldAt_append (by rw [length_natLe]; exact h), length_natLe]

theorem eventBytes_eq (ns cls act src vec region die tid x y : Nat) : eventBytes ns cls act src vec region die tid x y =
    natLe 8 ns ++ (natLe 1 cls ++ (natLe 1 act ++ (natLe 1 src ++ (natLe 1 vec ++ (natLe 2 region ++ (natLe 2 die ++ (natLe 4 tid ++
      (natLe 4 x ++ (natLe 8 y ++ []))))))))) := by
  rw [List.append_nil]
  simp only [eventBytes, List.append_assoc]

theorem eventsPost : EventsPost := by
  refine ⟨fun ns cls act src vec region die tid x y => ?_, fun s p b vec hb => ?_⟩
  · intro b
    have hb : b = _ := eventBytes_eq ns cls act src vec region die tid x y
    rw [hb]
    refine ⟨by simp only [List.length_append, length_natLe, List.length_nil], ?_⟩
    simp (disch := decide) only [fieldAt_skip, fieldAt_natLe, Nat.reduceSub, Nat.reduceMul, Nat.reducePow, and_self]
  · intro q u a
    refine ⟨fun hroom => ?_, fun hfull => ?_⟩
    · have hu : u = { s with mem := memPutBytes s.mem a b }.putPart p { q with evqhead := (q.evqhead + 1) % 2 ^ 32, msix := q.msix ++ [vec] } :=
        if_neg hroom
      have hpart : u.part p = { q with evqhead := (q.evqhead + 1) % 2 ^ 32, msix := q.msix ++ [vec] } := by
        rw [hu]
        exact tabGet_tabPut_self ..
      have hmem : u.mem = memPutBytes s.mem a b := by rw [hu]; rfl
      refine ⟨?_, fun c hc => ?_, by rw [hpart], by rw [hpart]⟩
      · rw [hmem, ← hb]
        exact memBytes_memPutBytes ..
      · rw [hmem]
        exact memByte_memPutBytes_out _ _ _ _ (by rw [hb]; exact hc)
    · have hu : u = s.putPart p { q with evlost := q.evlost + 1 } := if_pos hfull
      rw [hu]
      exact ⟨rfl, tabGet_tabPut_self ..⟩

end Sys2Proof.Proofs

/-! FORK, JOIN, NEXT, WATCH and HSIG at issue (09 R288-R293). -/

namespace Sys2Proof.Proofs

open Sys2Proof Sys2Proof.Machine Sys2Proof.Rules
open Host (Outcome)

/-- Settles O44. -/
theorem taskSlots : Obligations.TaskSlots := by
  refine ⟨fun s a h hrun hq hop => ?_, fun s d a l h hm hd => ?_, fun s d a b n l h hm hd => ?_, fun s d h hrun => ?_, fun s a v h hrun hev => ?_,
    joinsAdd, forksPush, nextsDraw, eventsPost⟩
  · intro bs hok hroom
    refine commits_of_effects ((ready_iff s _).1 h).1 (fun e he => ?_) ?_
    · rcases List.mem_cons.1 he with rfl | he
      · rfl
      · rw [List.mem_singleton.1 he]; rfl
    · rw [exec_fork, execFork]
      refine congrArg (s.runSlot _) ?_
      rw [unlessRedun_none _ hrun, ownCheck149_operand _ hop, orHold_clear _ (lsq_clear hq), if_pos hok, orHold_clear _ hroom]
      rfl
  · refine does_awaitsInOrder h rfl ?_
    rw [exec_join, execJoin, wordWait_ok _ hm hd]
  · refine does_awaitsInOrder h rfl ?_
    have hn : n = 0 ↔ n.toNat = 0 := (BitVec.toNat_inj (y := 0)).symm
    rw [exec_watch, execWatch, wordWait_ok _ hm hd]
    simp only [hn]
  · refine commits_of_exec ((ready_iff s _).1 h).1 rfl ?_
    rw [exec_next, execNext, unlessRedun_none _ hrun]
    rfl
  · refine commits_of_exec ((ready_iff s _).1 h).1 rfl ?_
    rw [exec_hsig, execHsig, unlessRedun_none _ hrun, orHold_clear _ hev]

end Sys2Proof.Proofs

/-! Sumps: enqueues, configuration, reads, dispositions and prefetches (10 R299, R321-R328). -/

namespace Sys2Proof.Proofs

open Sys2Proof Sys2Proof.Machine Sys2Proof.Rules
open Host (Outcome)

/-! ### What requests make of their sump -/

theorem sump_putSump (s : State) (id : Nat) (x : Sump) : (s.putSump id x).sump id = x := tabGet_tabPut_self ..

/-- A sump's configuration by a region that it stands below, function by function (10 R322). -/
theorem sumpConfig_below {s : State} {r id : Nat} (bs : List Byte) (h : s.sumpBelow r id = true) :
    let x := s.sump id
    (x.st ≠ 0 → s.sumpConfig r id 0 bs = (s, 3)) ∧
    s.sumpConfig r id 1 bs = (if x.st = 1 then (s.putSump id { x with st := 2 }, 0) else (s, 3)) ∧
    s.sumpConfig r id 2 bs = (if x.st = 2 then (s.putSump id { x with st := 1, waited := 0 }, 0) else (s, 3)) ∧
    s.sumpConfig r id 3 bs = (if x.st = 2 then
      (s.putSump id { x with ents := [], purged := x.purged + x.ents.length, flush := none, due := false }, 0) else (s, 3)) ∧
    (x.st ≠ 2 → s.sumpConfig r id 4 bs = (s, 3)) ∧
    (x.st = 2 → x.ents = [] → x.slots ≠ [] → s.sumpConfig r id 4 bs = (s, 4)) ∧
    (x.st = 2 → x.ents = [] → x.slots = [] → ∃ u, s.sumpConfig r id 4 bs = (State.putSump u id { x with st := 0, pinned := false }, 0)) := by
  intro x
  have hgo : ∀ fn, s.sumpConfig r id fn bs = _ := fun fn => if_neg (by rw [h]; decide)
  refine ⟨fun h0 => (hgo 0).trans (if_pos h0), hgo 1, hgo 2, hgo 3, fun h2 => (hgo 4).trans (if_pos (.inl h2)), fun h2 he hs => ?_,
    fun h2 he hs => ?_⟩
  · have hempty : (s.sump id).ents.isEmpty = true := List.isEmpty_iff.2 he
    have hslots : (s.sump id).slots.isEmpty = false := Bool.eq_false_iff.2 fun ht => hs (List.isEmpty_iff.1 ht)
    refine (hgo 4).trans ((if_neg ?_).trans (if_pos hslots))
    rintro (h | h)
    · exact h h2
    · rw [hempty] at h
      exact nomatch h
  · have hempty : (s.sump id).ents.isEmpty = true := List.isEmpty_iff.2 he
    have hslots : (s.sump id).slots.isEmpty = true := List.isEmpty_iff.2 hs
    refine ⟨_, (hgo 4).trans ((if_neg ?_).trans (if_neg (by rw [hslots]; decide)))⟩
    rintro (h | h)
    · exact h h2
    · rw [hempty] at h
      exact nomatch h

/-! ### Cancels leave the dies -/

theorem dies_foldl {β : Type} {f : State → β → State} (h : ∀ u x, (f u x).dies = u.dies) (l : List β) (s : State) : (l.foldl f s).dies = s.dies := by
  induction l generalizing s with
  | nil => rfl
  | cons x l ih => exact (ih _).trans (h s x)

theorem dies_mcastArrive (s : State) (core q k : Nat) : (s.mcastArrive core q k).dies = s.dies := by
  unfold State.mcastArrive
  extract_lets ch
  split
  · rfl
  · extract_lets r
    split
    · split
      · obtain ⟨⟨ts, h⟩, -, -⟩ := woken_setBar _ _ _ _
        rw [h]
        rfl
      · rfl
    · rfl

theorem dies_endCopy (s : State) (core q : Nat) (x : Ending) : (s.endCopy core q x).dies = s.dies := by
  unfold State.endCopy
  extract_lets ch0
  split
  · rfl
  · extract_lets c sp s0
    show s0.dies = s.dies
    unfold s0
    split
    · exact dies_foldl (fun u k => dies_mcastArrive u core q k) _ sp
    · rfl

theorem dies_cancelHandle (s : State) (tid h : Nat) : (s.cancelHandle tid h).dies = s.dies := by
  have hcancel : ∀ (u : State) core q, (u.cancelCopy core q).dies = u.dies := fun u core q => by
    unfold State.cancelCopy
    split
    · split
      · rfl
      · exact dies_endCopy ..
    · rfl
  unfold State.cancelHandle
  dsimp only
  split
  · rfl
  · refine dies_foldl (fun u q => ?_) _ _
    split
    · split
      · exact hcancel ..
      · rfl
    · rfl

theorem sumpsFollow : SumpsFollow := by
  intro s r id bs x
  refine ⟨fun h fn => ?_, fun h => ?_, fun he => ?_, fun l e he hst => ?_, fun h y => ?_⟩
  · exact if_pos (by rw [h]; rfl)
  · obtain ⟨h0, h1, h2, h3, h4, hslots, hoff⟩ := sumpConfig_below bs h
    refine ⟨fun hx => ?_, fun hx => ?_, fun hx => ?_, fun hx he hs => ?_, fun hx he hs => hslots hx he hs, fun hx => ?_, fun hx fn hfn => ?_, h0⟩
    · rw [h1, if_pos hx]
      exact ⟨rfl, sump_putSump ..⟩
    · rw [h2, if_pos hx]
      exact ⟨rfl, sump_putSump ..⟩
    · rw [h3, if_pos hx]
      rw [sump_putSump]
      exact ⟨rfl, rfl, rfl⟩
    · obtain ⟨u, hu⟩ := hoff hx he hs
      rw [hu, sump_putSump]
      exact ⟨rfl, rfl⟩
    · rw [h1, if_neg hx]
    · simp only [List.mem_cons, List.not_mem_nil, or_false] at hfn
      rcases hfn with rfl | rfl | rfl
      · rw [h2, if_neg hx]
      · rw [h3, if_neg hx]
      · exact h4 hx
  · have he : (s.sump id).ents = [] := he
    unfold State.sumpFlush
    simp only [he, List.getLast?_nil]
  · have hlast : (s.sump id).ents.getLast? = some e := by rw [show (s.sump id).ents = l ++ [e] from he, List.getLast?_append]; rfl
    have hflush : s.sumpFlush id = s.putSump id { x with flush := some e.arr } := by
      unfold State.sumpFlush
      simp only [hlast]
      exact if_neg hst
    rw [hflush, sump_putSump]
  · let die := dieOf s.now.core
    let f : Xpref → Bool := fun x => h == 0 || !(x.region == s.now.rkey && x.handle == h)
    have hdie : (s.applyEffect (.xcan h)).die die = { s.die die with xprefs := (s.die die).xprefs.filter f } := by
      show State.die (State.cancelHandle (s.putDie die { s.die die with xprefs := (s.die die).xprefs.filter f }) s.tid h) die = _
      rw [State.die, dies_cancelHandle]
      exact tabGet_tabPut_self ..
    rw [hdie]
    simp only [List.mem_filter, f, Bool.or_eq_true, beq_iff_eq, Bool.not_eq_true', Bool.and_eq_false_iff, beq_eq_false_iff_ne, not_and_or, ne_eq]
    exact Iff.rfl

theorem enqueuesWait : EnqueuesWait := by
  intro s id bs d
  let die := id / 512 % 4
  let s1 := s.putTask s.tid (s.now.produce [d] .xenq)
  let e : Enq := { sump := id, tid := s.tid, tok := s.now.ntok, bytes := bs, clk := s.now.pts }
  have happly : s.applyEffect (.xenq id bs d) = s1.putDie die { s1.die die with enq := (s1.die die).enq ++ [e] } := rfl
  have hdie : (s.applyEffect (.xenq id bs d)).die die = { s1.die die with enq := (s1.die die).enq ++ [e] } := by
    rw [happly]
    exact tabGet_tabPut_self ..
  have htask : (s.applyEffect (.xenq id bs d)).task s.tid = s.now.produce [d] .xenq := by
    rw [happly]
    exact task_putTask_self s s.tid _
  refine ⟨e, by rw [hdie]; rfl, rfl, rfl, rfl, rfl, rfl, ?_⟩
  rw [htask]
  exact produce_prods ..

/-! ### The slots -/

theorem stores_clear {s : State} (h : s.now.storesPending = false) : s.holdClears s.tid .stores = true := (congrArg not h).trans rfl

theorem xcfgOut_ok {s : State} {d a : BitVec 6} (fn addr : Nat) (hid : sumpIdOk (s.now.rs a).toNat = true) (hst : s.now.storesPending = false)
    (hq : s.holdClears s.tid (.enqueued (s.now.rs a).toNat) = true) : s.xcfgOut d a fn addr = .go [.xcfg (s.now.rs a).toNat fn addr,
      resS d.toNat 1 (BitVec.ofNat 64 (s.sumpConfig s.now.rkey (s.now.rs a).toNat fn ((s.engRead s.now.part addr 256).getD [])).2)] := by
  unfold State.xcfgOut
  simp only [hid, Bool.not_true, Bool.false_eq_true, if_false]
  exact (orHold_clear _ (stores_clear hst)).trans (orHold_clear _ hq)

/-- Two effects that change no allotment. -/
theorem allotted_pair {e f : Effect} (he : e.allotted = none) (hf : f.allotted = none) : ∀ x ∈ [e, f], x.allotted = none := fun x hx => by
  rcases List.mem_cons.1 hx with rfl | hx
  · exact he
  · rw [List.mem_singleton.1 hx]
    exact hf

/-- The requests of a privileged task that XCFG takes. -/
theorem commits_sumpRequests {s : State} {d a : BitVec 6} : ∀ r ∈ sumpRequests s d a, s.admits r.2.1 = true → r.2.2.1 = true →
    Commits r.1 s r.2.1 r.2.2.2 := by
  have hcan : ∀ {sh : Shape}, (s.privileged s.now && !s.now.storesPending && sumpIdOk (s.now.rs a).toNat &&
      s.holdClears s.tid (.enqueued (s.now.rs a).toNat)) = true →
      s.privileged s.now = true ∧ ∀ fn, s.xcfgOut d a fn 0 = .go [.xcfg (s.now.rs a).toNat fn 0,
        resS d.toNat 1 (BitVec.ofNat 64 (s.sumpConfig s.now.rkey (s.now.rs a).toNat fn ((s.engRead s.now.part 0 256).getD [])).2)] := fun h => by
    rw [Bool.and_eq_true, Bool.and_eq_true, Bool.and_eq_true, Bool.not_eq_true'] at h
    obtain ⟨⟨⟨hpriv, hst⟩, hid⟩, hq⟩ := h
    exact ⟨hpriv, fun fn => xcfgOut_ok fn 0 hid hst hq⟩
  simp only [sumpRequests, List.forall_mem_cons, List.not_mem_nil, false_implies, implies_true, and_true]
  refine ⟨fun ha h => ?_, fun ha h => ?_, fun ha h => ?_, fun ha h => ?_⟩ <;> obtain ⟨hpriv, hout⟩ := hcan (sh := {}) h
  · exact commits_of_effects ha (allotted_pair rfl rfl) (by rw [exec_xcfgHalt, execXcfgHalt, hpriv, hout]; rfl)
  · exact commits_of_effects ha (allotted_pair rfl rfl) (by rw [exec_xcfgResume, execXcfgResume, hpriv, hout]; rfl)
  · exact commits_of_effects ha (allotted_pair rfl rfl) (by rw [exec_xcfgPurge, execXcfgPurge, hpriv, hout]; rfl)
  · exact commits_of_effects ha (allotted_pair rfl rfl) (by rw [exec_xcfgOff, execXcfgOff, hpriv, hout]; rfl)

/-- Settles O45. -/
theorem sumpSlots : Obligations.SumpSlots := by
  refine ⟨fun s d a b h hrun hq hst => ?_, fun s d a => commits_sumpRequests, fun s d a b h hpriv hst => ?_, fun s d a f h => ?_, fun s d a h => ?_,
    fun s a b l va h => ?_, fun s a h => commits_of_exec ((ready_iff s _).1 h).1 rfl (exec_xcan ..), enqueuesWait, sumpsFollow⟩
  · intro id x hop hid huse
    have hex : exec (.xenq d a b) s = s.runSlot { sr := [a.toNat, b.toNat], sw := [d.toNat] }
        (if s.sumpRoom id then .go [ownRead x 32, .xenq id (memBytes s.mem x 32) (dstS d)] else .fault 0x12 0 none id) := by
      have hok : (sumpIdOk id && s.sumpUsable s.now.rkey id) = true := by rw [hid, huse]; rfl
      rw [exec_xenq, execXenq]
      refine congrArg (s.runSlot _) ?_
      rw [unlessRedun_none _ hrun, ownCheck_operand _ hop, if_neg (by rw [hok]; decide), orHold_clear _ (stores_clear hst),
        orHold_clear _ (lsq_clear hq)]
    refine ⟨fun hroom => ?_, fun hfull => ?_⟩
    · rw [hroom] at hex
      exact commits_of_effects ((ready_iff s _).1 h).1 (allotted_pair rfl rfl) hex
    · rw [hfull] at hex
      exact traps_of_exec ((ready_iff s _).1 h).1 hex
  · intro id x va ls hid hq hplace hparts
    refine commits_of_effects ((ready_iff s _).1 h).1 (allotted_pair rfl rfl) ?_
    have hdesc : ∀ out, s.descCheck x out = out := fun out => by
      unfold State.descCheck
      simp only [hplace, hparts]
    have hid : sumpIdOk (s.now.rs a).toNat = true := hid
    rw [exec_xcfgLoad, execXcfgLoad, hpriv]
    refine congrArg (s.runSlot _) ?_
    rw [if_pos hid]
    exact (hdesc _).trans (xcfgOut_ok 0 x hid hst hq)
  · intro v hv hq
    have hv : f.toNat = 10 ∨ (sumpIdOk v && (s.sumpUsable s.now.rkey v || s.sumpBelow s.now.rkey v)) = true :=
      hv.imp_right fun ⟨hid, huse⟩ => by rw [hid, Bool.true_and, Bool.or_eq_true]; exact huse
    have hex : exec (.xstat d a f) s = s.runSlot { sr := [a.toNat], sw := [d.toNat] }
        (.go [resS d.toNat 1 (BitVec.ofNat 64 (s.sumpField s.now.rkey v f.toNat))]) := by
      rw [exec_xstat, execXstat]
      exact congrArg (s.runSlot _) ((if_pos hv).trans (orHold_clear _ hq))
    rw [Runs, hex, reg64_eq d 1 _ _ (BitVec.ofInt_natCast 64 _)]
    exact runSlot_result s _ { dst := .s d.toNat, off := 1, val := _ } 0 h (Nat.le_refl 1) (isEmpty_of_clear s _ d.toNat h (List.mem_singleton_self _))
  · intro v hid huse hq
    refine commits_of_effects ((ready_iff s _).1 h).1 (allotted_pair rfl rfl) ?_
    have hok : (sumpIdOk v && s.sumpUsable s.now.rkey v) = true := by rw [hid, huse]; rfl
    rw [exec_xdisp, execXdisp]
    exact congrArg (s.runSlot _) ((if_pos hok).trans (orHold_clear _ hq))
  · intro v hlt hpos hle hplace
    have hex : exec (.xpref a b l) s = s.runSlot { sr := [a.toNat, b.toNat] }
        (.go [.xpref (s.now.rs a).toNat (v % 2 ^ 32) (v / 2 ^ 32) l.toNat]) := by
      have hplace : placeN (s.now.rs a).toNat ((s.now.rs b).toNat % 2 ^ 32) = some (.global va) := hplace
      rw [exec_xpref, execXpref]
      simp only [hplace]
      exact congrArg (s.runSlot _) (if_neg (by omega))
    obtain ⟨-, hc, -⟩ := (ready_iff s _).1 h
    exact does_of_exec h hex rfl rfl rfl rfl rfl (calm_congr s _ hc rfl rfl rfl rfl) rfl

end Sys2Proof.Proofs

/-! Trees: the service's requests, posts, waits and queries (12 R381-R392). -/

namespace Sys2Proof.Proofs

open Sys2Proof Sys2Proof.Machine Sys2Proof.Rules
open Host (Outcome)

/-! ### What requests make of their tree -/

theorem tree_putTree (s : State) (key : Nat) (t : Tree) : (s.putTree key t).tree key = t := tabGet_tabPut_self ..

theorem tree_putTree_ne (s : State) {key k : Nat} (t : Tree) (h : k ≠ key) : (s.putTree key t).tree k = s.tree k := tabGet_tabPut_ne _ _ _ _ _ h

theorem trees_structFormat (s : State) (src p region a n : Nat) : (s.structFormat src p region a n).trees = s.trees :=
  (served_structFormat s src p region a n).same.trees

/-- TCREATE: a new tree under the lowest free handle, or a refusal. -/
theorem treeCreate_cases (s : State) (r a : Nat) :
    (∃ h < 65536, ∃ t : Tree, t.st = 1 ∧ t.c = 0 ∧ t.posts = [] ∧ (s.tree (treeKey (r / 65536) h)).st = 0 ∧
      (∀ i < h, (s.tree (treeKey (r / 65536) i)).st ≠ 0) ∧ s.treeCreate r a = (s.putTree (treeKey (r / 65536) h) t, treeWord 0 0 h)) ∨
    ∃ code u, 1 ≤ code ∧ code ≤ 9 ∧ u.trees = s.trees ∧ s.treeCreate r a = (u, treeWord code 0 0) := by
  unfold State.treeCreate
  extract_lets p
  split
  · exact .inr ⟨5, _, by decide, by decide, trees_structFormat .., rfl⟩
  extract_lets owner
  split
  · exact .inr ⟨5, _, by decide, by decide, trees_structFormat .., rfl⟩
  extract_lets m t
  split
  · exact .inr ⟨5, s, by decide, by decide, rfl, rfl⟩
  split
  · exact .inr ⟨1, s, by decide, by decide, rfl, rfl⟩
  split
  · exact .inr ⟨2, s, by decide, by decide, rfl, rfl⟩
  split
  · exact .inr ⟨3, s, by decide, by decide, rfl, rfl⟩
  rename_i h hfind
  split
  · exact .inr ⟨4, s, by decide, by decide, rfl, rfl⟩
  split
  · exact .inr ⟨9, s, by decide, by decide, rfl, rfl⟩
  obtain ⟨hfree, hlt, hlow⟩ := List.find?_range_eq_some.1 hfind
  refine .inl ⟨h, List.mem_range.1 hlt, _, rfl, rfl, rfl, beq_iff_eq.1 hfree, fun i hi hst => ?_, rfl⟩
  have hused := hlow i hi
  rw [show (s.tree (treeKey p i)).st = 0 from hst] at hused
  exact nomatch hused

/-- TSAVE: the tree saved, or a refusal. -/
theorem treeSave_cases (s : State) (key h a tid : Nat) :
    ((s.tree key).st = 2 ∧ ∃ u t, t.st = 3 ∧ t.slots = [] ∧ s.treeSave key h a tid = (State.putTree u key t, treeWord 0 0 h)) ∨
    ∃ code ∈ [5, 6, 0x0B], ∃ u, u.trees = s.trees ∧ s.treeSave key h a tid = (u, treeWord code 0 h) := by
  unfold State.treeSave
  extract_lets t bs
  split
  · exact .inr ⟨5, by decide, _, trees_structFormat .., rfl⟩
  split
  · exact .inr ⟨6, by decide, s, rfl, rfl⟩
  rename_i hst
  split
  · exact .inr ⟨0x0B, by decide, s, rfl, rfl⟩
  split
  · exact .inr ⟨5, by decide, s, rfl, rfl⟩
  · exact .inl ⟨not_not.1 hst, _, _, rfl, rfl, rfl⟩

/-- TEDIT: the edit pending, or a refusal. -/
theorem treeEdit_cases (s : State) (key h a : Nat) :
    (∃ m t, s.treeEdit key h a = ((s.putTree key t).dropRouters key, treeWord 0 m.e h) ∧ (s.tree key).st = 1 ∧ (s.tree key).bound ≤ m.e ∧
      (s.tree key).pending = none ∧ t.pending = some m ∧ t.ships = (s.tree key).ships ∧ t.posts = (s.tree key).posts) ∨
    ∃ code ∈ [1, 4, 5, 6, 7, 8, 9], ∃ u, u.trees = s.trees ∧ s.treeEdit key h a = (u, treeWord code 0 h) := by
  unfold State.treeEdit
  extract_lets p t
  split
  · exact .inr ⟨5, by decide, _, trees_structFormat .., rfl⟩
  split
  · exact .inr ⟨5, by decide, _, trees_structFormat .., rfl⟩
  extract_lets e0 e m
  split
  · exact .inr ⟨6, by decide, s, rfl, rfl⟩
  rename_i hst
  split
  · exact .inr ⟨1, by decide, s, rfl, rfl⟩
  split
  · exact .inr ⟨7, by decide, s, rfl, rfl⟩
  rename_i hbound
  split
  · exact .inr ⟨8, by decide, s, rfl, rfl⟩
  rename_i hpending
  split
  · exact .inr ⟨4, by decide, s, rfl, rfl⟩
  split
  · exact .inr ⟨9, by decide, s, rfl, rfl⟩
  exact .inl ⟨m, _, rfl, not_not.1 hst, Nat.not_lt.1 hbound, Option.not_isSome_iff_eq_none.1 hpending, rfl, rfl, rfl⟩

/-- A post: the tree that it makes. -/
theorem treePost_put (s : State) (key m g src tid : Nat) : ∃ t : Tree, s.treePost key m g src tid = s.putTree key t ∧
    t.posts = (s.tree key).posts ++ [{ mem := m, seg := g, src := src, tid := tid, clk := (s.task tid).pts }] ∧
    t.admitted = (s.tree key).admitted + 1 ∧ t.bound = max (s.tree key).bound (g + 1) ∧ t.c = (s.tree key).c := by
  unfold State.treePost
  extract_lets t m w later nx t1
  refine ⟨_, rfl, rfl, rfl, rfl, ?_⟩
  show t1.c = t.c
  dsimp only [t1]
  split
  · split <;> rfl
  · rfl

theorem treesFollow : TreesFollow := by
  refine ⟨fun s r a => ?_, fun s key => ⟨?_, fun k hk => ?_, rfl⟩, fun s key tid => ⟨tree_putTree .., fun k hk => tree_putTree_ne s _ hk⟩,
    fun s key h a tid => ?_, fun s key h a => ?_, fun s key m g src tid => ?_⟩
  · rcases treeCreate_cases s r a with ⟨h, hlt, t, hst, hc, hposts, hfree, hlow, heq⟩ | ⟨code, u, h1, h9, htrees, heq⟩
    · rw [heq]
      refine .inl ⟨h, hlt, rfl, hfree, hlow, ?_⟩
      rw [tree_putTree]
      exact ⟨hst, hc, hposts, rfl, fun k hk => tree_putTree_ne s t hk⟩
    · rw [heq]
      exact .inr ⟨code, h1, h9, rfl, htrees⟩
  · exact congrArg (Option.getD · _) (tabFind_tabDel_self s.trees key)
  · exact congrArg (Option.getD · _) (tabFind_tabDel_ne s.trees key k hk)
  · rcases treeSave_cases s key h a tid with ⟨hst, u, t, h3, hslots, heq⟩ | ⟨code, hcode, u, htrees, heq⟩
    · rw [heq]
      refine .inl ⟨hst, rfl, ?_⟩
      rw [tree_putTree]
      exact ⟨h3, hslots⟩
    · rw [heq]
      exact .inr ⟨code, hcode, rfl, htrees⟩
  · rcases treeEdit_cases s key h a with ⟨m, t, heq, hst, hbound, hnone, hpending, hships, hposts⟩ | ⟨code, hcode, u, htrees, heq⟩
    · rw [heq]
      refine .inl ⟨m.e, hst, hbound, hnone, rfl, ?_⟩
      unfold State.dropRouters
      simp only [tree_putTree, hpending, hships, hposts, Option.map_some, and_self]
    · rw [heq]
      exact .inr ⟨code, hcode, rfl, htrees⟩
  · obtain ⟨t, heq, hposts, hadmitted, hbound, hc⟩ := treePost_put s key m g src tid
    rw [heq, tree_putTree]
    exact ⟨hposts, hadmitted, hbound, hc, fun k hk => tree_putTree_ne s t hk, rfl⟩

/-! ### The slots -/

/-- No handle of an alcove names bytes. -/
theorem not_alcove_of_placeN {x n c w : Nat} (h : placeN x n = some (.alcove c w)) : False := by
  unfold placeN at h
  split at h
  · split at h <;> exact nomatch h
  · split at h <;> exact nomatch h
  · exact nomatch h

theorem treePlace_ok {x n : Nat} (out : SlotOut) (h : (placeN x n).isSome = true) : treePlace x n out = out := by
  unfold treePlace
  split
  · rename_i hp
    rw [hp] at h
    exact nomatch h
  · rename_i c w hp
    exact (not_alcove_of_placeN hp).elim
  · rfl

theorem treeMould_ok {s : State} {a : BitVec 6} (check : SlotOut → SlotOut) (out : Nat → Nat → SlotOut) (h : (s.now.rs a).toNat < 2 ^ 16)
    (hst : s.now.storesPending = false) :
    s.treeMould a check out = check (out (s.now.rs a).toNat (treeKey s.now.part (s.now.rs a).toNat)) :=
  (if_neg (Nat.not_le.2 h)).trans (congrArg check (orHold_clear _ (stores_clear hst)))

theorem orDrain_ok {s : State} {key : Nat} (out : SlotOut) (h : (s.tree key).st ≠ 2 ∨ s.treeDrained key = true) : s.orDrain key out = out :=
  if_neg fun ⟨h2, hd⟩ => h.elim (· h2) fun ht => by rw [ht] at hd; exact nomatch hd

/-- A request's one result. -/
theorem allotted_one {e : Effect} (he : e.allotted = none) : ∀ x ∈ [e], x.allotted = none := fun x hx => by
  rw [List.mem_singleton.1 hx]
  exact he

/-- A refusal with a code. -/
theorem commits_treeRefused {i : Instr} {s : State} {sh : Shape} {d : BitVec 6} {code h : Nat} (ha : s.admits sh = true)
    (hexec : exec i s = s.runSlot sh (treeRefused d code h)) : Commits i s sh [resS d.toNat 1 (treeWord code 0 h)] :=
  commits_of_effects ha (allotted_one rfl) hexec

theorem commits_treeRequests {s : State} {d a b : BitVec 6} : ∀ r ∈ treeRequests s d a b, s.admits r.2.1 = true → r.2.2.1 = true →
    Commits r.1 s r.2.1 r.2.2.2 := by
  simp only [treeRequests, List.forall_mem_cons, List.not_mem_nil, false_implies, implies_true, and_true, Bool.and_eq_true,
    Bool.not_eq_true', decide_eq_true_eq]
  refine ⟨fun ha h => ?_, fun ha h => ?_, fun ha h => ?_, fun ha h => ?_, fun ha h => ?_, fun ha h => ?_, fun ha h => ?_, fun ha h => ?_,
    fun ha h => ?_, fun ha h => ?_, fun ha h => ?_⟩
  · obtain ⟨⟨hpriv, hst⟩, hx⟩ := h
    refine commits_of_effects ha (allotted_pair rfl rfl) ?_
    rw [exec_tcreate, execTcreate, hpriv]
    exact congrArg (s.runSlot _) ((treePlace_ok _ hx).trans (orHold_clear _ (stores_clear hst)))
  · obtain ⟨⟨⟨hpriv, hh⟩, hst⟩, hmine⟩ := h
    refine commits_of_effects ha (allotted_pair rfl rfl) ?_
    rw [exec_tdestroy, execTdestroy, hpriv]
    exact congrArg (s.runSlot _) ((treeMould_ok _ _ hh hst).trans (if_pos hmine))
  · obtain ⟨⟨⟨hpriv, hh⟩, hst⟩, hnot⟩ := h
    refine commits_treeRefused ha ?_
    rw [exec_tdestroy, execTdestroy, hpriv]
    exact congrArg (s.runSlot _) ((treeMould_ok _ _ hh hst).trans (if_neg (by rw [hnot]; decide)))
  · obtain ⟨⟨⟨hh, hst⟩, hx⟩, huse⟩ := h
    refine commits_of_effects ha (allotted_pair rfl rfl) ?_
    rw [exec_tedit, execTedit]
    exact congrArg (s.runSlot _) ((treeMould_ok _ _ hh hst).trans ((treePlace_ok _ hx).trans (if_neg (by rw [huse]; decide))))
  · obtain ⟨⟨⟨hh, hst⟩, hx⟩, hnot⟩ := h
    refine commits_treeRefused ha ?_
    rw [exec_tedit, execTedit]
    exact congrArg (s.runSlot _) ((treeMould_ok _ _ hh hst).trans ((treePlace_ok _ hx).trans (if_pos (by rw [hnot]; rfl))))
  · obtain ⟨⟨⟨⟨⟨hpriv, hh⟩, hst⟩, hmine⟩, hact⟩, hdr⟩ := h
    refine commits_of_effects ha (List.forall_mem_cons.2 ⟨rfl, allotted_pair rfl rfl⟩) ?_
    rw [exec_tfreeze, execTfreeze, hpriv]
    exact congrArg (s.runSlot _) ((treeMould_ok _ _ hh hst).trans ((if_neg (by rw [hmine]; decide)).trans ((if_pos (beq_iff_eq.1 hact)).trans (if_pos hdr))))
  · obtain ⟨⟨⟨hpriv, hh⟩, hst⟩, hnot⟩ := h
    refine commits_treeRefused ha ?_
    rw [exec_tfreeze, execTfreeze, hpriv]
    exact congrArg (s.runSlot _) ((treeMould_ok _ _ hh hst).trans (if_pos (by rw [hnot]; rfl)))
  · obtain ⟨⟨⟨⟨hpriv, hh⟩, hst⟩, hmine⟩, hdr⟩ := h
    refine commits_of_effects ha (allotted_pair rfl rfl) ?_
    rw [exec_tsave, execTsave, hpriv]
    exact congrArg (s.runSlot _) ((treeMould_ok _ _ hh hst).trans ((if_neg (by rw [hmine]; decide)).trans
      (orDrain_ok _ ((Bool.or_eq_true _ _ ▸ hdr).imp_left bne_iff_ne.1))))
  · obtain ⟨⟨⟨hpriv, hh⟩, hst⟩, hnot⟩ := h
    refine commits_treeRefused ha ?_
    rw [exec_tsave, execTsave, hpriv]
    exact congrArg (s.runSlot _) ((treeMould_ok _ _ hh hst).trans (if_pos (by rw [hnot]; rfl)))
  · obtain ⟨⟨⟨⟨hpriv, hh⟩, hst⟩, hmine⟩, hx⟩ := h
    refine commits_of_effects ha (allotted_pair rfl rfl) ?_
    rw [exec_trestore, execTrestore, hpriv]
    exact congrArg (s.runSlot _) ((treeMould_ok _ _ hh hst).trans ((treePlace_ok _ hx).trans (if_neg (by rw [hmine]; decide))))
  · obtain ⟨⟨⟨⟨hpriv, hh⟩, hst⟩, hnot⟩, hx⟩ := h
    refine commits_treeRefused ha ?_
    rw [exec_trestore, execTrestore, hpriv]
    exact congrArg (s.runSlot _) ((treeMould_ok _ _ hh hst).trans ((treePlace_ok _ hx).trans (if_pos (by rw [hnot]; rfl))))

/-- Settles O46. -/
theorem treeSlots : Obligations.TreeSlots := by
  refine ⟨fun s d a b => commits_treeRequests, fun s a b h hrun => ?_, fun s d a h => ?_, fun s d a f h => ?_, treesFollow⟩
  · intro v x key m g hzero huse hop hpost hwin
    have hpost : s.postOk (s.tree (treeKey s.now.part ((s.now.rs a).toNat % 2 ^ 16))) s.now.core ((s.now.rs a).toNat / 2 ^ 16 % 2 ^ 10)
      ((s.now.rs a).toNat / 2 ^ 32) = true := hpost
    refine commits_of_effects ((ready_iff s _).1 h).1 (allotted_one rfl) ?_
    rw [exec_tpost, execTpost]
    refine congrArg (s.runSlot _) ((unlessRedun_none _ hrun).trans ((if_neg (not_not.2 hzero)).trans ((if_neg ?_).trans ((ownCheck_operand _ hop).trans
      ((if_neg ?_).trans (orHold_clear _ hwin))))))
    · exact huse.symm ▸ (by decide)
    · rw [hpost]
      decide
  · intro v key hzero huse
    refine does_awaits h ⟨rfl, fun _ _ _ he => nomatch he⟩ ?_
    rw [exec_twait, execTwait]
    exact congrArg (s.runSlot _) ((if_neg (not_not.2 hzero)).trans (if_neg (huse.symm ▸ (by decide))))
  · intro key hh huse
    have hex : exec (.tqry d a f) s = s.runSlot { sr := [a.toNat], sw := [d.toNat] } (.go [resS d.toNat 1 (BitVec.ofNat 64 (s.treeField key f.toNat))]) := by
      rw [exec_tqry, execTqry]
      exact congrArg (s.runSlot _) ((if_neg (Nat.not_le.2 hh)).trans (if_neg (huse.symm ▸ (by decide))))
    rw [Runs, hex, reg64_eq d 1 _ _ (BitVec.ofInt_natCast 64 _)]
    exact runSlot_result s _ { dst := .s d.toNat, off := 1, val := _ } 0 h (Nat.le_refl 1) (isEmpty_of_clear s _ d.toNat h (List.mem_singleton_self _))

end Sys2Proof.Proofs

/-! The fabric's slots: remote operations, RFENCE, FSEND and FCLK (14 R433-R446). -/

namespace Sys2Proof.Proofs

open Sys2Proof Sys2Proof.Machine Sys2Proof.Rules
open Host (Outcome)

/-! ### Remote operations that leave (14 R433) -/

/-- Some outstanding operation is the one that a task has just begun. -/
def Outstanding (u : State) (x : ROp) : Prop :=
  ∃ o ∈ u.rops, o.tid = x.tid ∧ o.tok = x.tok ∧ o.kind = x.kind ∧ o.pkg = x.pkg ∧ o.addr = x.addr ∧ o.data = x.data ∧ o.aux = x.aux

/-- One outstanding operation's turn to be sent (14 R436). -/
def sendRequest (s : State) (o : ROp) : State :=
  if o.sent || s.sendsOf o.tid o.pkg then s
  else
    let idx := match tabFind (s.part o.part).peers o.pkg with | some x => x.1 | none => 0
    ({ s with rops := s.rops.map fun x => if x == o then { o with sent := true, since := s.groupedTime o.pkg } else x }).emit (o.packet s.fab.pkg idx)

theorem sendRequests_eq (s : State) : s.sendRequests = s.rops.foldl sendRequest s := rfl

theorem sendRequest_kept (s : State) (o : ROp) :
    (sendRequest s o).tasks = s.tasks ∧ (sendRequest s o).cores = s.cores ∧ (sendRequest s o).mem = s.mem ∧ ∀ x, Outstanding s x → Outstanding (sendRequest s o) x := by
  unfold sendRequest
  split
  · exact ⟨rfl, rfl, rfl, fun x h => h⟩
  · refine ⟨rfl, rfl, rfl, fun x ⟨y, hy, hx⟩ => ?_⟩
    have hmem := List.mem_map_of_mem (f := fun x => if x == o then { o with sent := true, since := s.groupedTime o.pkg } else x) hy
    refine ⟨_, hmem, ?_⟩
    by_cases hyo : y = o
    · rw [if_pos (beq_iff_eq.2 hyo)]
      rw [hyo] at hx
      exact hx
    · rw [if_neg fun h => hyo (beq_iff_eq.1 h)]
      exact hx

theorem sendRequests_kept (l : List ROp) (s : State) :
    (l.foldl sendRequest s).tasks = s.tasks ∧ (l.foldl sendRequest s).cores = s.cores ∧ (l.foldl sendRequest s).mem = s.mem ∧
      ∀ x, Outstanding s x → Outstanding (l.foldl sendRequest s) x := by
  induction l generalizing s with
  | nil => exact ⟨rfl, rfl, rfl, fun x h => h⟩
  | cons o l ih =>
    obtain ⟨ht, hc, hm, ho⟩ := ih (sendRequest s o)
    obtain ⟨ht1, hc1, hm1, ho1⟩ := sendRequest_kept s o
    exact ⟨ht.trans ht1, hc.trans hc1, hm.trans hm1, fun x h => ho x (ho1 x h)⟩

theorem remoteIssue_kept (s : State) (tid : Nat) (o : ROp) :
    ((s.remoteIssue tid o).task tid) = { s.task tid with status := .remote } ∧ (s.remoteIssue tid o).mem = s.mem ∧ Outstanding (s.remoteIssue tid o) o := by
  let u := ({ s with rops := s.rops ++ [o] }.putTask tid { s.task tid with status := .remote }).stopIssue tid
  have hu : u = { ({ s with rops := s.rops ++ [o] }.putTask tid { s.task tid with status := .remote }) with cores := u.cores } := stopIssue_form _ tid
  obtain ⟨ht, -, hm, ho⟩ := sendRequests_kept u.rops u
  have htask : u.task tid = { s.task tid with status := .remote } := by
    rw [hu]
    exact task_putTask_self { s with rops := s.rops ++ [o] } tid _
  have hrops : u.rops = s.rops ++ [o] := by rw [hu]; rfl
  refine ⟨(congrArg (tabGet · ({} : Machine.Task) tid) ht).trans htask, hm.trans (by rw [hu]; rfl), ho o ⟨o, ?_, rfl, rfl, rfl, rfl, rfl, rfl, rfl⟩⟩
  rw [hrops]
  exact List.mem_append_right _ (List.mem_singleton_self o)

theorem ntok_produce (t : Machine.Task) (ds : List Dest) (w : Wait) : (t.produce ds w).ntok = t.ntok + 1 := by
  obtain ⟨x, y, h⟩ := foldl_setEmpty_eq ds { t with
    ntok := t.ntok + 1, prods := t.prods ++ [{ tok := t.ntok, dsts := ds, wait := w }]
    flights := t.flights.filter fun f => !(f.replay && ds.contains f.dst) }
  unfold Task.produce
  rw [h]

theorem remotesPark : RemotesPark := by
  refine ⟨fun s tid kind pkg a data aux ds => ?_, fun s tid b => ⟨fun hne => if_pos hne, fun n h0 hn => ?_⟩⟩
  · intro t u
    let t1 := if ds.isEmpty then { t with ntok := t.ntok + 1 } else t.produce ds .remote
    let o : ROp := { tid := tid, tok := t.ntok, kind := kind, pkg := pkg, addr := a, data := data, aux := aux, part := t.part, since := s.ftime }
    obtain ⟨ht, hm, ho⟩ := remoteIssue_kept (s.putTask tid t1.catchFlights) tid o
    have hntok : t1.ntok = t.ntok + 1 := by
      by_cases hds : ds.isEmpty = true
      · exact congrArg Task.ntok (if_pos hds)
      · exact (congrArg Task.ntok (if_neg hds)).trans (ntok_produce t ds .remote)
    have hu : u.tasks = ((s.putTask tid t1.catchFlights).remoteIssue tid o).tasks ∧ u.mem = ((s.putTask tid t1.catchFlights).remoteIssue tid o).mem ∧
        u.rops = ((s.putTask tid t1.catchFlights).remoteIssue tid o).rops := by
      by_cases hfits : s.replayFits t.core = true
      · rw [show u = (s.putTask tid t1.catchFlights).remoteIssue tid o from if_pos hfits]
        exact ⟨rfl, rfl, rfl⟩
      · rw [show u = ((s.putTask tid t1.catchFlights).remoteIssue tid o).putCore t.core _ from if_neg hfits]
        exact ⟨rfl, rfl, rfl⟩
    obtain ⟨hutasks, humem, hurops⟩ := hu
    have hut : u.task tid = { t1.catchFlights with status := .remote } := by
      refine (congrArg (tabGet · ({} : Machine.Task) tid) hutasks).trans (ht.trans ?_)
      rw [task_putTask_self]
    rw [hut, humem, hurops]
    refine ⟨rfl, ?_, hm, ho⟩
    rw [catchFlights_form]
    exact hntok
  · intro q
    have hcode : ¬ s.sendCode (s.task tid).part b ≠ 0 := not_not.2 h0
    let y : Send := { ticket := q.next, no := s.fab.sends + 1, tid := tid, part := (s.task tid).part, src := fieldAt b 0 8, dst := fieldAt b 8 8
                      len := fieldAt b 16 4, dnote := if fieldAt b 22 1 % 2 = 1 then some (fieldAt b 24 8) else none
                      snote := if fieldAt b 22 1 / 2 = 1 then some (fieldAt b 32 8) else none, priv := s.privileged (s.task tid)
                      clk := (s.task tid).pts, core := (s.task tid).core, since := s.groupedTime (fieldAt b 20 2) }
    have hx : s.sendQueue tid b = ({ s with
        fab := { s.fab with sends := s.fab.sends + 1 }
        sendqs := tabPut s.sendqs n { q with next := (q.next + 1) % 2 ^ 32, list := q.list ++ [y] } }, BitVec.ofNat 64 (q.next * 2 ^ 32 + n * 2 ^ 16)) := by
      unfold State.sendQueue
      refine (if_neg hcode).trans ?_
      rcases hn with hq | ⟨hq, hf⟩
      · simp only [hq]
        rfl
      · simp only [hq, hf]
        rfl
    simp only [hx, tabGet_tabPut_self, true_and]
    exact ⟨y, rfl, rfl, rfl, rfl, rfl, rfl⟩

/-! ### The slots -/

theorem remoteCheck_ok {s : State} {a pkg n align write : Nat} (out : SlotOut) (hlt : pkg < 2 ^ 12) (hplace : (placeN a n).isSome = true)
    (halign : a % align = 0) (hpeer : pkg ≠ s.fab.pkg ∧ pkg ≠ 0xFFF ∧ s.peerFlag s.now.part pkg 0 = true) (hgroup : s.grouped pkg = true) :
    s.remoteCheck s.now a pkg n align write out = out := by
  obtain ⟨hself, hall, hflag⟩ := hpeer
  unfold State.remoteCheck
  rw [if_neg (Nat.not_le.2 hlt)]
  split
  · rename_i hp
    rw [hp] at hplace
    exact nomatch hplace
  · rename_i c w hp
    exact (not_alcove_of_placeN hp).elim
  · rw [if_neg (not_not.2 halign), if_neg (by rintro (h | h | h); exacts [hself h, hall h, by rw [hflag] at h; exact nomatch h])]
    exact if_neg (by rw [hgroup]; decide)

/-- RFENCE's end, its operations over. -/
theorem does_fence {i : Instr} {s : State} {sh : Shape} {d : BitVec 6} (hr : s.ready sh = true)
    (h : exec i s = s.runSlot sh (.go [.rfence, resS d.toNat 1 (BitVec.ofNat 64 (tabGet s.rerr 0 s.tid))])) :
    Does i s fun u => sends d (BitVec.ofNat 64 (tabGet s.rerr 0 s.tid)) { u with rerr := tabDel u.rerr u.tid } := by
  let k := s.now.launch (.s d.toNat) 1 ((BitVec.ofNat 64 (tabGet s.rerr 0 s.tid)).setWidth 512) 0xFFFF
  obtain ⟨hredo, -⟩ := launch_kept s.now (.s d.toNat) 1 ((BitVec.ofNat 64 (tabGet s.rerr 0 s.tid)).setWidth 512) 0xFFFF
  refine does_put (v := { s.logSlot sh (.go [.rfence, resS d.toNat 1 (BitVec.ofNat 64 (tabGet s.rerr 0 s.tid))]) with rerr := tabDel s.rerr s.tid })
    (k := k) hr h rfl rfl rfl rfl rfl rfl ⟨rfl, rfl, rfl, rfl⟩ hredo ?_
  unfold k Task.launch
  split <;> rfl

/-- Settles O47. -/
theorem fabricSlots : Obligations.FabricSlots := by
  refine ⟨fun s a pkg => ?_, fun s d a h hlt hdone => ?_, fun s d h hdone => ?_, fun s d a h hrun hq => ?_, fun s d a f h hlt => ?_, remotesPark⟩
  · intro x hpkg hlt hself hall hflag hgroup
    have hpkg : (s.now.getS (2 * a.toNat + 1)).toNat = pkg := by
      rw [hpkg, BitVec.toNat_ofNat]
      exact Nat.mod_eq_of_lt (by omega)
    have hok : ∀ n align write out, (placeN x n).isSome = true → x % align = 0 →
        s.remoteCheck s.now x (s.now.getS (2 * a.toNat + 1)).toNat n align write out = out := fun n align write out hplace halign => by
      rw [hpkg]
      exact remoteCheck_ok out hlt hplace halign ⟨hself, hall, hflag⟩ hgroup
    refine ⟨fun d => ?_, fun d => ?_, fun d b u z o => ?_⟩
    · intro sh h hplace halign
      refine commits_of_effects ((ready_iff s _).1 h).1 (allotted_one rfl) ?_
      rw [exec_rld, execRld]
      refine congrArg (s.runSlot _) ((hok 128 64 0 _ hplace halign).trans ?_)
      rw [hpkg]
    · intro sh h hrun hplace halign
      refine commits_of_effects ((ready_iff s _).1 h).1 (allotted_one rfl) ?_
      rw [exec_rst, execRst]
      refine congrArg (s.runSlot _) ((unlessRedun_none _ hrun).trans ((hok 128 64 1 _ hplace halign).trans ?_))
      rw [hpkg]
      rfl
    · intro sh h hrun hplace halign
      refine commits_of_effects ((ready_iff s _).1 h).1 (allotted_one rfl) ?_
      rw [exec_ratom, execRatom]
      refine congrArg (s.runSlot _) ((unlessRedun_none _ hrun).trans ((hok _ _ 1 _ hplace halign).trans ?_))
      rw [hpkg]
      rfl
  · refine does_fence h ?_
    rw [exec_rfence, execRfence]
    exact congrArg (s.runSlot _) ((if_neg (Nat.not_le.2 hlt)).trans (orHold_clear _ hdone))
  · refine does_fence h ?_
    rw [exec_rfenceAll, execRfenceAll]
    exact congrArg (s.runSlot _) (orHold_clear _ hdone)
  · intro x bs hop hroom
    by_cases hcode : s.sendCode s.now.part bs = 0
    · rw [if_pos hcode]
      refine commits_of_effects ((ready_iff s _).1 h).1 (List.forall_mem_cons.2 ⟨rfl, allotted_pair rfl rfl⟩) ?_
      rw [exec_fsend, execFsend]
      exact congrArg (s.runSlot _) ((unlessRedun_none _ hrun).trans ((ownCheck_operand _ hop).trans ((orHold_clear _ (lsq_clear hq)).trans
        ((if_neg (not_not.2 hcode)).trans (orHold_clear _ (hroom hcode))))))
    · rw [if_neg hcode]
      refine commits_of_effects ((ready_iff s _).1 h).1 (allotted_pair rfl rfl) ?_
      rw [exec_fsend, execFsend]
      exact congrArg (s.runSlot _) ((unlessRedun_none _ hrun).trans ((ownCheck_operand _ hop).trans ((orHold_clear _ (lsq_clear hq)).trans (if_pos hcode))))
  · have hf : ∀ n < 128, f.toNat = n ↔ f = BitVec.ofNat 7 n := fun n hn => by
      rw [← BitVec.toNat_inj, BitVec.toNat_ofNat, Nat.mod_eq_of_lt (by omega)]
    have hshape : (f.toNat = 4 ∨ f.toNat = 5) = (f = 4 ∨ f = 5) := propext (or_congr (hf 4 (by decide)) (hf 5 (by decide)))
    have hex : exec (.fclk d a f) s = s.runSlot { sr := if f = 4 ∨ f = 5 then [a.toNat] else [], sw := [d.toNat] }
        (.go [resS d.toNat 1 (s.fclk s.now f.toNat (s.now.rs a).toNat)]) := by
      rw [exec_fclk, execFclk]
      simp only [hshape]
      exact congrArg (s.runSlot _) (if_neg fun ⟨hn, hle⟩ => absurd (hlt hn) (Nat.not_lt.2 hle))
    rw [Runs, hex, reg64_eq d 1 _ _ (BitVec.ofInt_natCast 64 _), BitVec.ofNat_toNat, BitVec.setWidth_eq]
    exact runSlot_result s _ { dst := .s d.toNat, off := 1, val := _ } 0 h (Nat.le_refl 1) (isEmpty_of_clear s _ d.toNat h (List.mem_singleton_self _))

end Sys2Proof.Proofs

/-! Engine steps take effect where they can happen (01 R10, R32; 02 R43; 05 R163; 06 R173-R197; 07 R207-R223; 08 R230-R245; 09 R270-R287; 10 R308-R327;
11 R332-R351; 12 R375-R380). -/

namespace Sys2Proof.Proofs

open Sys2Proof Sys2Proof.Machine Sys2Proof.Rules
open Host (Outcome)

/-! ### Forms of a step -/

theorem stepsTo_some {i : Instr} {s t : State} (h : exec i s = .next t.settle) : StepsTo i s (some t) := h

theorem stepsTo_none {i : Instr} {s : State} (h : exec i s = .next s) : StepsTo i s none := h

/-- A step taken under a condition. -/
theorem stepsTo_of_stepIf {i : Instr} {s t : State} {can can' : Bool} (h : exec i s = s.stepIf can t) (hc : can = can') : StepsTo i s (due can' t) := by
  subst hc
  cases can with
  | true => exact stepsTo_some h
  | false => exact stepsTo_none h

/-- A step written as its outcome under a condition. -/
theorem stepsTo_of_ite {i : Instr} {s t : State} {can : Bool} (h : exec i s = .next (if can then t.settle else s)) : StepsTo i s (due can t) :=
  stepsTo_of_stepIf h rfl

/-- A step of something that may be there. -/
theorem stepsTo_of_map {α : Type} {i : Instr} {s : State} {x : Option α} {f : α → State}
    (hsome : ∀ y, x = some y → exec i s = .next (f y).settle) (hnone : x = none → exec i s = .next s) : StepsTo i s (x.map f) := by
  cases x with
  | none => exact stepsTo_none (hnone rfl)
  | some y => exact stepsTo_some (hsome y rfl)

/-- A step that is one of two by a flag. -/
theorem stepsTo_of_cond {i : Instr} {s : State} {c : Bool} {x y : Option State} (h1 : c = true → StepsTo i s x) (h2 : c = false → StepsTo i s y) :
    StepsTo i s (if c then x else y) := by
  cases c with
  | true => exact h1 rfl
  | false => exact h2 rfl

theorem stepsTo_arrayStep {i : Instr} {s : State} {kind : MxOp → Bool} {f : Nat → MxEnt → State} (h : exec i s = s.mxStep kind f) :
    StepsTo i s (arrayStep s kind f) := by
  unfold State.mxStep at h
  exact stepsTo_of_map (fun e he => by rw [h, he]) fun he => by rw [h, he]

/-! ### Cores and their queues -/

theorem stepsTo_retirement (s : State) : StepsTo .retirement s ((s.retireNext s.arg.unit).bind fun e =>
    match e.op with
    | .mret c d f k => some ((s.mretRun s.arg.unit e c d f k).retireEnd s.arg.unit c)
    | .mretv c f k => some ((s.mretvRun s.arg.unit e c f k).retireEnd s.arg.unit c)
    | _ => none) := by
  have hex := exec_retirement s
  unfold execRetirement at hex
  cases hn : s.retireNext s.arg.unit with
  | none =>
    simp only [hn] at hex
    exact stepsTo_none hex
  | some e =>
    simp only [hn] at hex
    rw [Option.bind_some]
    cases ho : e.op <;> simp only [ho] at hex <;> exact hex

/-- What a producer's wait comes to lands. -/
theorem stepsTo_arrive {i : Instr} {s : State} (x : Prod → Option (Option (List VReg) × State))
    (hnone : s.prodOf s.arg.unit s.arg.num = none → exec i s = .next s)
    (hwait : ∀ p, s.prodOf s.arg.unit s.arg.num = some p → x p = none → exec i s = .next s)
    (hcome : ∀ p y s1, s.prodOf s.arg.unit s.arg.num = some p → x p = some (y, s1) → exec i s = .next (s1.arrive s.arg.unit p y).settle) :
    StepsTo i s ((s.prodOf s.arg.unit s.arg.num).bind fun p => (x p).map fun y => y.2.arrive s.arg.unit p y.1) := by
  cases hp : s.prodOf s.arg.unit s.arg.num with
  | none => exact stepsTo_none (hnone hp)
  | some p => exact stepsTo_of_map (fun y hy => hcome p y.1 y.2 hp hy) fun hx => hwait p hp hx

theorem pageWalk_eq (s : State) (p core va : Nat) (engine : Bool) : s.pageWalk p core va engine =
    let s1 := match s.walked p va with
      | some x => s.cacheLeaf core va x engine
      | none => if (s.pinOf p va).isSome then s else s.wordsFormat p core va
    if engine then s1 else s1.walkEnds core va := by
  unfold State.pageWalk
  cases s.walked p va <;> rfl

theorem coreEvents_step (s : State) : ∀ r ∈ coreEvents s, StepsTo r.1 s r.2 := by
  simp only [coreEvents, List.forall_mem_cons, List.not_mem_nil, false_implies, implies_true, and_true]
  refine ⟨stepsTo_of_stepIf (exec_idleBundle s) rfl, stepsTo_of_stepIf (exec_ofillRow s) rfl, stepsTo_arrayStep (exec_msetExecute s),
    stepsTo_of_map (fun e he => ?_) fun he => ?_, stepsTo_arrayStep (exec_mldaExecute s), stepsTo_arrayStep (exec_mstaExecute s),
    stepsTo_arrayStep (exec_mchanExecute s), stepsTo_retirement s, stepsTo_arrive (s.arrival s.arg.unit · s.arg.bytes) (fun hp => ?_) (fun p hp hx => ?_) fun p y s1 hp hx => ?_,
    stepsTo_arrive (s.watchOver s.arg.unit) (fun hp => ?_) (fun p hp hx => ?_) fun p y s1 hp hx => ?_,
    stepsTo_of_stepIf (exec_holdSuspend s) rfl, stepsTo_of_stepIf (exec_replayEntryInject s) rfl, stepsTo_of_stepIf (exec_lsAccessSend s) rfl,
    stepsTo_of_map (fun p hp => ?_) fun hp => ?_, stepsTo_of_stepIf (exec_pclkTick s) rfl, stepsTo_of_stepIf (exec_pclkRaise s) rfl,
    stepsTo_of_stepIf (exec_taskClockTick s) rfl, stepsTo_of_cond (fun h => ?_) fun h => ?_, stepsTo_of_stepIf (exec_xprefUnit s) rfl⟩
  · rw [exec_kstepMerge, execKstepMerge, he]
  · rw [exec_kstepMerge, execKstepMerge, he]
  · rw [exec_resultArrival, execResultArrival, hp]
  · rw [exec_resultArrival, execResultArrival, hp]
    simp only [hx]
  · rw [exec_resultArrival, execResultArrival, hp]
    simp only [hx]
  · rw [exec_watchTimeout, execWatchTimeout, hp]
  · rw [exec_watchTimeout, execWatchTimeout, hp]
    simp only [hx]
  · rw [exec_watchTimeout, execWatchTimeout, hp]
    simp only [hx]
  · rw [exec_pageWalk, execPageWalk, hp]
    exact congrArg (fun u => Outcome.next (State.settle u)) (pageWalk_eq ..)
  · rw [exec_pageWalk, execPageWalk, hp]
  · exact stepsTo_some ((exec_l2Eviction s).trans (if_pos h))
  · exact stepsTo_of_stepIf ((exec_l2Eviction s).trans (if_neg (by rw [h]; decide))) rfl

/-! ### The copy engine, the die scheduler and the fault service -/

theorem dieEvents_step (s : State) : ∀ r ∈ dieEvents s, StepsTo r.1 s r.2 := by
  have hfreeze : ∀ late, s.freezeReady s.arg.unit late = ((tabFind s.tasks s.arg.unit).isSome && (s.task s.arg.unit).canFreeze &&
      if late then (s.task s.arg.unit).preempt.any fun d => (s.task s.arg.unit).steps != 0 && decide (d ≤ s.cycle)
      else (s.task s.arg.unit).preempt.isSome && (s.task s.arg.unit).steps == 0) := fun late => by
    unfold State.freezeReady
    cases hp : (s.task s.arg.unit).preempt <;> simp only [hp] <;> cases late <;> rfl
  have hsave : s.saveStep s.arg.unit = let s1 := ((s.freeArea (s.task s.arg.unit).rkey).map (s.saveTask s.arg.unit)).getD s
      if (s.task s.arg.unit).doomed then s1.killTask s.arg.unit 0 else s1 := by
    unfold State.saveStep
    cases hf : s.freeArea (s.task s.arg.unit).rkey <;> simp only [hf, Option.map_none, Option.map_some, Option.getD_none, Option.getD_some]
  simp only [dieEvents, List.forall_mem_cons, List.not_mem_nil, false_implies, implies_true, and_true]
  refine ⟨?_, ?_, ?_, ?_, ?_, ?_, ?_, ?_, ?_, ?_, ?_, ?_, ?_, ?_, ?_, ?_, ?_, ?_, ?_, ?_, ?_, ?_, ?_, ?_, ?_, ?_⟩
  · exact stepsTo_of_ite (exec_copyRecordRead s)
  · exact stepsTo_of_ite (exec_selectTileRead s)
  · exact stepsTo_of_ite (exec_copySectorWrite s)
  · exact stepsTo_of_ite (exec_copyFaultResolved s)
  · exact stepsTo_of_map (fun x hx => by rw [exec_followOnPresent, execFollowOnPresent, hx]) fun hx => by rw [exec_followOnPresent, execFollowOnPresent, hx]
  · exact stepsTo_of_ite (exec_copyCompletion s)
  · exact stepsTo_of_stepIf (exec_trapAction s) rfl
  · exact stepsTo_of_stepIf (exec_replayResume s) rfl
  · exact stepsTo_of_stepIf (exec_forwardDelivery s) rfl
  · exact stepsTo_of_stepIf (exec_preemptRequest s) rfl
  · exact stepsTo_of_stepIf (exec_freeze s) ((hfreeze false).trans (Bool.and_assoc ..).symm)
  · exact stepsTo_of_stepIf (exec_lateFreeze s) (hfreeze true)
  · rw [← hsave]
    exact stepsTo_of_stepIf (exec_taskSave s) rfl
  · exact stepsTo_of_map (fun x hx => by rw [exec_taskRestore, execTaskRestore, hx]) fun hx => by rw [exec_taskRestore, execTaskRestore, hx]
  · cases hw : s.placeStep s.arg.unit with
    | none => exact stepsTo_none (by rw [exec_taskPlacement, execTaskPlacement, hw])
    | some u => exact stepsTo_some (by rw [exec_taskPlacement, execTaskPlacement, hw])
  · exact stepsTo_of_map (fun x hx => by rw [exec_quantumExpiry, execQuantumExpiry, hx]) fun hx => by rw [exec_quantumExpiry, execQuantumExpiry, hx]
  · exact stepsTo_of_map (fun x hx => by rw [exec_joinRelief, execJoinRelief, hx]) fun hx => by rw [exec_joinRelief, execJoinRelief, hx]
  · exact stepsTo_of_stepIf (exec_tileRefill s) rfl
  · exact stepsTo_of_stepIf (exec_redunCompare s) rfl
  · exact stepsTo_of_stepIf (exec_faultSlotOpen s) rfl
  · exact stepsTo_of_stepIf (exec_faultDisposition s) rfl
  · exact stepsTo_of_stepIf (exec_sumpAdmit s) rfl
  · exact stepsTo_of_stepIf (exec_sumpAgeDue s) rfl
  · exact stepsTo_of_stepIf (exec_firingDecision s) rfl
  · exact stepsTo_of_stepIf (exec_controlDiverge s) rfl
  · exact stepsTo_of_stepIf (exec_clusterFailure s) rfl

/-! ### The tree service and its routers -/

/-- A step that is one of two by a flag, each taken where it can happen. -/
theorem stepsTo_of_flag {i : Instr} {s t u : State} {c can can' : Bool} (h : exec i s = if c then s.stepIf can t else s.stepIf can' u) :
    StepsTo i s (if c then due can t else due can' u) :=
  stepsTo_of_cond (fun hc => stepsTo_of_stepIf (h.trans (if_pos hc)) rfl)
    fun hc => stepsTo_of_stepIf (h.trans (if_neg fun ht => Bool.false_ne_true (hc.symm.trans ht))) rfl

theorem treeEvents_step (s : State) : ∀ r ∈ treeEvents s, StepsTo r.1 s r.2 := by
  simp only [treeEvents, List.forall_mem_cons, List.not_mem_nil, false_implies, implies_true, and_true]
  refine ⟨stepsTo_of_stepIf (exec_treeSourceRead s) rfl, stepsTo_of_flag (exec_treeChunkArrive s), stepsTo_of_stepIf (exec_treeSlotRefill s) rfl,
    stepsTo_of_flag (exec_treeReplicate s), stepsTo_of_flag (exec_treeDelivery s), stepsTo_of_cond (fun hf => ?_) fun hf => ?_⟩
  · have hex := exec_treeDataError s
    unfold execTreeDataError at hex
    by_cases haux : s.arg.aux = 0
    · rw [if_neg (not_not.2 haux)]
      refine stepsTo_of_stepIf (hex.trans ((if_neg ?_).trans (if_pos hf))) rfl
      rw [haux]
      simp
    · rw [if_pos haux]
      refine stepsTo_of_stepIf (hex.trans (if_pos ?_)) rfl
      rw [hf, bne_iff_ne.2 haux]
      rfl
  · have hex := exec_treeDataError s
    unfold execTreeDataError at hex
    refine stepsTo_of_stepIf (hex.trans ((if_neg ?_).trans (if_neg ?_))) rfl
    · rw [hf, Bool.false_and]
      decide
    · rw [hf]
      decide

end Sys2Proof.Proofs

/-! What an engine's service writes, error records and events leave alone: any property of the state that a write of lines, a partition's
fields, the host's memory and the list of domains to be reset leave alone (13 R404, R405). -/

namespace Sys2Proof.Machine

/-- A property of the state that nothing which a service's write consists of takes away. -/
structure ServiceClosed (P : State → Prop) : Prop where
  write : ∀ s clk loc bs, P s → P (s.homeWrite clk loc bs).2
  part  : ∀ s p q, P s → P (s.putPart p q)
  event : ∀ (s : State) a bs, P s → P { s with mem := memPutBytes s.mem a bs }
  doom  : ∀ (s : State) l, P s → P { s with doom := l }

namespace ServiceClosed

variable {P : State → Prop} (hP : ServiceClosed P)
include hP

theorem pieces (ps : List (Nat × Nat)) (x : State × Nat × List Byte) (h : P x.1) : P (ps.foldl writePiece x).1 := by
  induction ps generalizing x with
  | nil => exact h
  | cons y ps ih => exact ih (writePiece x y) (hP.write _ _ _ _ h)

theorem engWriteClk {s u : State} {p clk a c : Nat} {bs : List Byte} (h : s.engWriteClk p clk a bs = some (c, u)) (hs : P s) : P u := by
  rw [engWriteClk_eq] at h
  obtain ⟨ps, -, hps⟩ := Option.map_eq_some_iff.1 h
  cases hps
  exact hP.pieces ps (s, clk, bs) hs

theorem engWrite {s u : State} {p clk a : Nat} {bs : List Byte} (h : s.engWrite p clk a bs = some u) (hs : P s) : P u := by
  obtain ⟨⟨c, w⟩, hw, rfl⟩ := Option.map_eq_some_iff.1 h
  exact hP.engWriteClk hw hs

theorem engWrite' {s : State} (p a : Nat) (bs : List Byte) (hs : P s) : P (s.engWrite' p a bs) := by
  rw [State.engWrite']
  cases h : s.engWrite p (s.part p).pclk a bs with
  | none => exact hs
  | some u => exact hP.engWrite h hs

theorem postEvent {s : State} (p : Nat) (rec : List Byte) (vec : Nat) (hs : P s) : P (s.postEvent p rec vec) := by
  unfold State.postEvent
  extract_lets q
  split
  · exact hP.part _ _ _ hs
  · exact hP.part _ _ _ (hP.event _ _ _ hs)

theorem error {s : State} (x : Err) (hs : P s) : P (s.error x) := by
  unfold State.error
  extract_lets q want act idx s2 vec s3 src s4
  have hlog : P s2 := hP.part _ _ _ (hP.engWrite' _ _ _ hs)
  have hpost : P s3 := by
    unfold s3
    split
    · exact hlog
    · exact hP.postEvent _ _ _ hlog
  have hcount : P s4 := hP.part _ _ _ hpost
  split
  · exact hs
  split
  · exact hlog
  split
  · exact hP.doom _ _ hcount
  split
  · exact hP.doom _ _ hcount
  · exact hcount

theorem formatError {s : State} (cause src p region core tid va : Nat) (hs : P s) : P (s.formatError cause src p region core tid va) := by
  unfold State.formatError
  split
  · exact hP.error _ hs
  · exact hs

theorem structFormat {s : State} (src p region a n : Nat) (hs : P s) : P (s.structFormat src p region a n) := by
  unfold State.structFormat State.pagesFormat
  split
  · exact hs
  split
  · exact hP.formatError _ _ _ _ _ _ _ hs
  · exact hs

theorem engFormat {s : State} (src p region core a : Nat) (hs : P s) : P (s.engFormat src p region core a) := by
  unfold State.engFormat
  split
  · exact hs
  split
  · exact hP.formatError _ _ _ _ _ _ _ hs
  · exact hs

theorem svcWrite {s : State} (src p region a : Nat) (bs : List Byte) (hs : P s) : P (s.svcWrite src p region a bs) := by
  unfold State.svcWrite
  split
  · exact hP.engWrite ‹_› hs
  · exact hP.structFormat _ _ _ _ _ hs

theorem putRcb {s : State} (r off n v : Nat) (hs : P s) : P (s.putRcb r off n v) := by
  unfold State.putRcb
  split
  · exact hP.svcWrite _ _ _ _ _ hs
  · exact hs

end ServiceClosed

/-- What a service's write leaves alone beside what `SameButLines` names: the next task identifier, and a die but for its minimum timestamp. -/
def State.SameDies (s u : State) : Prop := u.ntid = s.ntid ∧ ∀ i, ∃ m, u.die i = { s.die i with mts := m }

theorem State.SameDies.refl (s : State) : s.SameDies s := ⟨rfl, fun i => ⟨(s.die i).mts, rfl⟩⟩

theorem State.SameDies.trans {s u w : State} (h : s.SameDies u) (k : u.SameDies w) : s.SameDies w := by
  obtain ⟨hn, hd⟩ := h
  obtain ⟨kn, kd⟩ := k
  refine ⟨kn.trans hn, fun i => ?_⟩
  obtain ⟨m, hm⟩ := hd i
  obtain ⟨n, hn⟩ := kd i
  exact ⟨n, by rw [hn, hm]⟩

theorem State.SameDies.of_eq {s u : State} (hn : u.ntid = s.ntid) (hd : u.dies = s.dies) : s.SameDies u :=
  ⟨hn, fun i => ⟨(s.die i).mts, congrArg (fun t => tabGet t ({} : Die) i) hd⟩⟩

theorem sameDies_evict (s : State) (line : Nat) : s.SameDies (s.evict line) := by
  refine ⟨rfl, fun i => ?_⟩
  by_cases hi : i = homeDie (line * 64)
  · subst hi
    exact ⟨_, tabGet_tabPut_self ..⟩
  · exact ⟨(s.die i).mts, tabGet_tabPut_ne _ _ _ _ _ hi⟩

theorem sameDies_fillL2 (s : State) (loc : Nat) : s.SameDies (s.fillL2 loc) := by
  unfold State.fillL2
  split
  · exact .refl s
  · extract_lets ls s1
    refine .trans ?_ (.of_eq (s := s1) rfl rfl)
    dsimp only [s1]
    split
    · exact .refl s
    · exact .trans (.of_eq (u := { s with free := s.free + 1 }) rfl rfl) (sameDies_evict ..)

theorem sameDies_noteWrite (s : State) (loc w : Nat) : s.SameDies (s.noteWrite loc w) := by
  unfold State.noteWrite
  split <;> exact .of_eq rfl rfl

theorem sameDies_writeLine (s : State) (cl pts loc : Nat) (bs : List Byte) : s.SameDies (s.writeLine cl pts loc bs).2 := by
  unfold State.writeLine
  split
  · exact .of_eq rfl rfl
  · refine (sameDies_fillL2 s loc).trans (.trans ?_ (sameDies_noteWrite ..))
    split <;> exact .of_eq rfl rfl

theorem sameDies_writeAll (ps : List (Nat × Nat)) (s : State) (cl pts : Nat) (bs : List Byte) : s.SameDies (s.writeAll cl pts bs ps).2 := by
  induction ps generalizing s pts bs with
  | nil => exact .refl s
  | cons p ps ih => exact (sameDies_writeLine ..).trans (ih ..)

theorem serviceClosed_sameDies (s : State) : ServiceClosed s.SameDies where
  write u _ _ _ h := h.trans (.trans (.of_eq (u := u.noteHeld _ _) rfl rfl) (sameDies_writeAll ..))
  part _ _ _ h := h.trans (.of_eq rfl rfl)
  event _ _ _ h := h.trans (.of_eq rfl rfl)
  doom _ _ h := h.trans (.of_eq rfl rfl)

end Sys2Proof.Machine

/-! Traps and tasks: dispositions, freezes, saves, placements and pre-emption requests (07 R207-R219; 09 R265-R281). -/

namespace Sys2Proof.Proofs

open Sys2Proof Sys2Proof.Machine Sys2Proof.Rules
open Host (Outcome)

/-! ### A task that is killed -/

theorem tasks_error (s : State) (x : Err) : (s.error x).tasks = s.tasks := (served_error s x).same.tasks

theorem tasks_writeUsage (s : State) (r : Nat) : (s.writeUsage r).tasks = s.tasks := (served_writeUsage s r).same.tasks

theorem tasks_joinUpdate (s : State) (p r core tid a n clk : Nat) : (s.joinUpdate p r core tid a n clk).tasks = s.tasks :=
  (served_joinUpdate s p r core tid a n clk).same.tasks

theorem tasks_firingDone (s : State) (f : Option (Nat × Nat × Nat)) : (s.firingDone f).tasks = s.tasks := by
  unfold State.firingDone
  split
  · rfl
  · extract_lets u
    split
    · rfl
    · split <;> rfl

theorem tasks_settleCut (s : State) (twin : Nat) : (s.settleCut twin).tasks = s.tasks := by
  unfold State.settleCut
  extract_lets l
  split
  · split
    · rfl
    · exact (tasks_firingDone ..).trans (tasks_joinUpdate ..)
  · rfl

theorem moveDraws_kept (s : State) (core r : Nat) : (s.moveDraws core r).tasks = s.tasks ∧ ∀ c, ((s.moveDraws core r).core c).tasks = (s.core c).tasks := by
  unfold State.moveDraws
  split
  · exact ⟨rfl, fun _ => rfl⟩
  · extract_lets k
    split
    · exact ⟨rfl, fun _ => rfl⟩
    · rename_i d hd
      have hcore : ∀ c, ((s.putCore core { s.core core with draws := tabDel (s.core core).draws r }).core c).tasks = (s.core c).tasks := fun c => by
        by_cases hc : c = core
        · subst hc
          rw [core_putCore_self]
        · rw [core_putCore_ne _ _ _ _ hc]
      dsimp only
      split
      · exact ⟨rfl, hcore⟩
      · exact ⟨rfl, hcore⟩

theorem finishTask_gone (s : State) (tid cause : Nat) (killed : Bool) : tabFind (s.finishTask tid cause killed).tasks tid = none := by
  unfold State.finishTask
  extract_lets t clk join s1 s2 s3 s4 g s5 s6
  have h4 : tabFind s4.tasks tid = none := by
    rw [show s4.tasks = tabDel s3.tasks tid from tasks_settleCut ..]
    exact tabFind_tabDel_self ..
  have h6 : s6.tasks = s4.tasks := by
    show s5.tasks = s4.tasks
    unfold s5
    split <;> rfl
  rw [tasks_writeUsage]
  split
  · rw [(moveDraws_kept ..).1, h6]
    exact h4
  · rw [h6]
    exact h4

theorem killTask_gone {s : State} {tid : Nat} {t : Machine.Task} (h : tabFind s.tasks tid = some t) (cause : Nat) :
    tabFind (s.killTask tid cause).tasks tid = none := by
  unfold State.killTask
  simp only [h]
  exact finishTask_gone ..

/-! ### Dispositions (07 R207; 09 R281) -/

theorem mem_insertTrap (s : State) (tid : Nat) (l : List Nat) : tid ∈ s.insertTrap tid l :=
  List.mem_append_right _ List.mem_cons_self

theorem region_putRegion (s : State) (r : Nat) (g : Region) : (s.putRegion r g).region r = g := tabGet_tabPut_self ..

/-- A task's record as a trap that waits for a disposition keeps it. -/
def replaying (t : Machine.Task) : Machine.Task := { t with status := .replay, verdict := 0 }

/-- A task that is no handler has no double fault. -/
theorem noDoubleFault {s : State} {tid : Nat} (action : Nat) (h : (s.task tid).handler = false) :
    ¬((s.task tid).handler && (action == 0 || (s.task tid).firstFault)) = true := by
  rw [h, Bool.false_and]
  decide

theorem applyAction_kill {s : State} {tid : Nat} (h : (s.task tid).handler = false) : s.applyAction tid 0 = s.trapKill tid :=
  if_neg (noDoubleFault 0 h)

theorem applyAction_replay {s : State} {tid : Nat} (h : (s.task tid).handler = false) :
    (s.applyAction tid 1).tasks = (s.putTask tid (replaying (s.task tid))).tasks ∧ (s.applyAction tid 1).mem = s.mem := by
  by_cases hc : trapCause (s.task tid).trec = 0x08
  · rw [show s.applyAction tid 1 = (s.putTask tid (replaying (s.task tid))).faultReq _ _ _ _ _ _ from (if_neg (noDoubleFault 1 h)).trans (if_pos hc)]
    exact ⟨rfl, rfl⟩
  · rw [show s.applyAction tid 1 = s.putTask tid (replaying (s.task tid)) from (if_neg (noDoubleFault 1 h)).trans (if_neg hc)]
    exact ⟨rfl, rfl⟩

theorem applyAction_park {s : State} {tid : Nat} (h : (s.task tid).handler = false) :
    s.applyAction tid 2 = s.putTask tid { s.task tid with status := .parked } :=
  if_neg (noDoubleFault 2 h)

/-- A trap whose action's owner has no handler parks its task. -/
theorem applyAction_noHandler {s : State} {tid n : Nat} (h : (s.task tid).handler = false) {o : Region}
    (hown : s.region (s.region (s.task tid).rkey).actOwner = o) (ho : o.handler = 0 ∨ tabFind s.tasks o.handler = none) :
    (s.applyAction tid (n + 3)).tasks = (s.putTask tid { s.task tid with status := .parked }).tasks := by
  subst hown
  rw [show s.applyAction tid (n + 3) = (s.putTask tid { s.task tid with status := .parked }).error _ from
    (if_neg (noDoubleFault (n + 3) h)).trans (if_pos (ho.imp_right Option.isNone_iff_eq_none.2))]
  exact tasks_error ..

/-- A trap is forwarded to the handler of its action's owner. -/
theorem applyAction_forward {s : State} {tid n : Nat} (h : (s.task tid).handler = false) {o : Region}
    (hown : s.region (s.region (s.task tid).rkey).actOwner = o) (ho : ¬(o.handler = 0 ∨ tabFind s.tasks o.handler = none)) :
    s.applyAction tid (n + 3) = (s.putTask tid { s.task tid with status := .forwarded }).putRegion (s.region (s.task tid).rkey).actOwner
      { o with traps := s.insertTrap tid o.traps } := by
  subst hown
  exact (if_neg (noDoubleFault (n + 3) h)).trans (if_neg fun hn => ho (hn.imp_right Option.isNone_iff_eq_none.1))

theorem task_of_tasks_eq {s u : State} (h : u.tasks = s.tasks) (tid : Nat) : u.task tid = s.task tid := congrArg (fun t => tabGet t ({} : Machine.Task) tid) h

/-- The task that a handler becomes as it takes a record (09 R281). -/
def delivered (s : State) (h : Machine.Task) (tid x : Nat) : Machine.Task :=
  { h with status := s.goStatus tid, rec8 := (s.task x).trec, subject := x, fresh := true, untried := true }

theorem forward_eq {s : State} {r x : Nat} {rest : List Nat} (h : (s.region r).traps = x :: rest) : s.forward r =
    (s.putTask (s.region r).handler (delivered s (s.task (s.region r).handler) (s.region r).handler x)).putRegion r { s.region r with traps := rest } := by
  unfold State.forward
  simp only [h]
  rfl

theorem trapsAreDisposed : TrapsAreDisposed := by
  refine ⟨fun s tid t ht hh => ?_, fun s r x rest => ?_, fun s tid never => ?_⟩
  · have hget : t = s.task tid := by rw [State.task, tabGet, ht]; rfl
    rw [hget] at hh ⊢
    intro g o u
    show match g.action (trapCause (s.task tid).trec) with | 0 => _ | 1 => _ | 2 => _ | _ => _
    have hu : u = s.applyAction tid (g.action (trapCause (s.task tid).trec)) := rfl
    generalize u = w at hu ⊢
    generalize g.action (trapCause (s.task tid).trec) = a at hu ⊢
    subst hu
    match a with
    | 0 =>
      rw [applyAction_kill hh]
      exact (congrArg (tabFind · tid) (tasks_error ..)).trans (killTask_gone ht _)
    | 1 =>
      obtain ⟨htasks, hmem⟩ := applyAction_replay hh
      refine ⟨?_, hmem⟩
      rw [task_of_tasks_eq htasks, task_putTask_self]
      rfl
    | 2 =>
      rw [applyAction_park hh]
      exact ⟨task_putTask_self .., rfl⟩
    | n + 3 =>
      show if o.handler = 0 ∨ tabFind s.tasks o.handler = none then _ else _
      split
      · rename_i ho
        rw [task_of_tasks_eq (applyAction_noHandler hh rfl ho), task_putTask_self]
      · rename_i ho
        rw [applyAction_forward hh rfl ho, region_putRegion]
        exact ⟨congrArg Task.status (task_putTask_self ..), mem_insertTrap .., rfl⟩
  · intro g htraps h
    have hh : h = delivered s (s.task g.handler) g.handler x := by
      unfold h
      rw [forward_eq htraps]
      exact task_putTask_self ..
    rw [hh, forward_eq htraps, region_putRegion]
    exact ⟨rfl, rfl, rfl, rfl⟩
  · intro t hdenied hnever
    rw [show s.replayResume tid never = s.putTask tid { t with status := s.goStatus tid, trec := [], verdict := 0 } from
      if_neg fun h => h.elim hdenied hnever]
    exact task_putTask_self ..

end Sys2Proof.Proofs

/-! Tasks that are frozen, saved, placed and asked to leave their cores (07 R214-R219; 09 R265-R272). -/

namespace Sys2Proof.Proofs

open Sys2Proof Sys2Proof.Machine Sys2Proof.Rules
open Host (Outcome)

/-! ### Freezes and saves (07 R214-R219) -/

theorem freezeTask_eq (s : State) (tid : Nat) (late : Bool) : ∃ k : Machine.Task, k.status = .frozen ∧ k.core = (s.task tid).core ∧
    s.freezeTask tid late = (s.putTask tid k).stopIssue tid := by
  refine ⟨{ (s.task tid).catchFlights with
    status := .frozen, after := match (s.task tid).status with | .suspended => .ready | x => x
    late := late, frozeAt := s.cycleOf (s.task tid).core, hold := none, held := 0, walks := [] }, rfl, ?_, rfl⟩
  rw [catchFlights_form]
  rfl

theorem task_stopIssue (s : State) (tid x : Nat) : (s.stopIssue tid).task x = s.task x := by
  rw [stopIssue_form]
  rfl

/-- A range's pins belong to its partition. -/
theorem pinRange_kept (s : State) (r lo n : Nat) : (s.pinRange r lo n).1.tasks = s.tasks ∧ (s.pinRange r lo n).1.cores = s.cores := by
  unfold State.pinRange
  extract_lets p
  split
  · rename_i c va _
    have h := (served_formatError s c 3 p r 0 0 va).same
    exact ⟨h.tasks, h.cores⟩
  · extract_lets q fresh oflow
    split <;> exact ⟨rfl, rfl⟩

theorem leaveCore_tasks (s : State) (tid : Nat) : (s.leaveCore tid).tasks = s.tasks ∧ tid ∉ ((s.leaveCore tid).core (s.task tid).core).tasks := by
  refine ⟨rfl, ?_⟩
  unfold State.leaveCore
  rw [core_putCore_self]
  intro h
  have := (List.mem_filter.1 h).2
  simp at this

theorem cores_writeUsage (s : State) (r : Nat) : (s.writeUsage r).cores = s.cores := (served_writeUsage s r).same.cores

theorem core_of_cores_eq {s u : State} (h : u.cores = s.cores) (c : Nat) : u.core c = s.core c := congrArg (fun t => tabGet t ({} : Machine.Core) c) h

/-- A save: the area written, the task's place on its core given up, the task without its registers. -/
theorem saveTask_eq (s : State) (tid a : Nat) : ∃ (s1 : State) (k : Machine.Task), s1.tasks = s.tasks ∧ s1.cores = s.cores ∧ k.status = .saved ∧ k.area = a ∧
    s.saveTask tid a = (((s1.leaveCore tid).putTask tid k).moveDraws (s.task tid).core (s.task tid).rkey).writeUsage (s.task tid).rkey := by
  obtain ⟨hpinTasks, hpinCores⟩ := pinRange_kept s (s.task tid).rkey a areaSize
  have hwrite := (served_engWrite' (s.pinRange (s.task tid).rkey a areaSize).1 (s.task tid).part a (s.saveBytes (s.task tid))).same
  exact ⟨_, _, hwrite.tasks.trans hpinTasks, hwrite.cores.trans hpinCores, rfl, rfl, rfl⟩

theorem saveTask_kept (s : State) (tid a : Nat) : ((s.saveTask tid a).task tid).status = .saved ∧ ((s.saveTask tid a).task tid).area = a ∧
    tid ∉ ((s.saveTask tid a).core (s.task tid).core).tasks := by
  obtain ⟨s1, k, htasks, hcores, hst, ha, heq⟩ := saveTask_eq s tid a
  obtain ⟨hdrawTasks, hdrawCores⟩ := moveDraws_kept ((s1.leaveCore tid).putTask tid k) (s.task tid).core (s.task tid).rkey
  have hleft := (leaveCore_tasks s1 tid).2
  rw [task_of_tasks_eq htasks] at hleft
  rw [heq, task_of_tasks_eq (tasks_writeUsage ..), task_of_tasks_eq hdrawTasks, task_putTask_self, core_of_cores_eq (cores_writeUsage ..), hdrawCores]
  exact ⟨hst, ha, hleft⟩

/-! ### Placements (09 R265-R272) -/

/-- What the launch of records leaves alone: every task, every core's tasks, and the next task identifier. -/
def State.SamePlaces (s u : State) : Prop := u.tasks = s.tasks ∧ (∀ c, (u.core c).tasks = (s.core c).tasks) ∧ u.ntid = s.ntid

theorem samePlaces_trans {s u w : State} (h : State.SamePlaces s u) (k : State.SamePlaces u w) : State.SamePlaces s w := by
  obtain ⟨ht, hc, hn⟩ := h
  obtain ⟨kt, kc, kn⟩ := k
  exact ⟨kt.trans ht, fun c => (kc c).trans (hc c), kn.trans hn⟩

theorem serviceClosed_samePlaces (s : State) : ServiceClosed (State.SamePlaces s) where
  write u clk loc bs h := by
    obtain ⟨hsame, -⟩ := homeWrite_same u clk loc bs
    exact samePlaces_trans h ⟨hsame.tasks, fun c => congrArg Machine.Core.tasks (core_of_cores_eq hsame.cores c),
      ((serviceClosed_sameDies u).write u clk loc bs (.refl u)).1⟩
  part _ _ _ h := h
  event _ _ _ h := h
  doom _ _ h := h

theorem samePlaces_launchHead {w : State} (n : Nat) : ∀ (s : State) (r : Nat), State.SamePlaces w s → State.SamePlaces w (s.launchHead r n) := by
  have hP := serviceClosed_samePlaces w
  induction n with
  | zero => exact fun s r h => h
  | succ n ih =>
    intro s r h
    unfold State.launchHead
    extract_lets g a reject
    have hreject : ∀ u, State.SamePlaces w u → State.SamePlaces w (reject u) := fun u hu =>
      ih _ _ (hP.error _ (hP.putRcb (s := u.putRegion r g.advance) _ _ _ _ hu))
    split
    · exact h
    split
    · exact hreject _ (hP.engFormat _ _ _ _ _ h)
    split
    · exact hreject _ (hP.error _ h)
    split
    · exact hreject _ h
    split
    · exact h
    · exact hreject _ h

theorem samePlaces_putCore (s : State) (c : Nat) (k : Machine.Core) (h : k.tasks = (s.core c).tasks) : State.SamePlaces s (s.putCore c k) := by
  refine ⟨rfl, fun x => ?_, rfl⟩
  rw [core_putCore]
  split
  · rename_i hx
    rw [h, hx]
  · rfl

theorem samePlaces_takeFrom (s : State) (die : Nat) (w : Waiting) : State.SamePlaces s (s.takeFrom die w) := by
  have hself : State.SamePlaces s s := ⟨rfl, fun _ => rfl, rfl⟩
  unfold State.takeFrom
  split
  · exact hself
  · exact samePlaces_putCore s _ _ rfl
  · exact hself
  · exact hself
  · exact samePlaces_launchHead _ _ _ ((serviceClosed_samePlaces s).putRcb (s := s.putRegion _ _) _ _ _ _ hself)

theorem ntid_turnTaken (s : State) (die r : Nat) : (s.turnTaken die r).ntid = s.ntid := by
  unfold State.turnTaken
  extract_lets able d
  generalize hu : s.putDie die { d with rr := tabPut d.rr (s.region r).prio r } = u
  have hnu : u.ntid = s.ntid := by rw [← hu]; rfl
  rw [← hnu]
  clear hu hnu
  induction able generalizing u with
  | nil => rfl
  | cons w l ih =>
    refine (ih (u.anew die w)).trans ?_
    unfold State.anew
    extract_lets f
    split <;> rfl

theorem tasks_foldl_putTile (l : List Nat) (tid : Nat) (k : Machine.Core) : (l.foldl (fun k c => k.putTile c { owner := tid }) k).tasks = k.tasks := by
  induction l generalizing k with
  | nil => rfl
  | cons c l ih => exact (ih _).trans rfl

theorem tasks_foldl_putChan (l : List Nat) (k : Machine.Core) : (l.foldl (fun k q => k.putChan q {}) k).tasks = k.tasks := by
  induction l generalizing k with
  | nil => rfl
  | cons q l ih => exact (ih _).trans rfl

/-- A record becomes a task of its core at its entry (09 R265). -/
theorem startTask_places (s : State) (x : Rec) (core run twin : Nat) : let u := s.startTask x core run twin
    (u.task s.ntid).core = core ∧ (u.task s.ntid).pc = fieldAt x.bytes 0 8 ∧ s.ntid ∈ (u.core core).tasks ∧ u.ntid = s.ntid + 1 := by
  intro u
  unfold u State.startTask
  extract_lets b r n k ts tid cm qm h arg regs t k1 k2 k3 s1 s2 g s3
  have hk3 : tid ∈ k3.tasks := by
    rw [show k3.tasks = k1.tasks from (tasks_foldl_putChan ..).trans (tasks_foldl_putTile ..)]
    exact List.mem_append_right _ (List.mem_singleton_self tid)
  have h3 : State.SamePlaces s2 s3 := by
    unfold s3
    split <;> exact ⟨rfl, fun _ => rfl, rfl⟩
  obtain ⟨htasks, hcores, hntid⟩ := (serviceClosed_samePlaces s2).putRcb r 144 8 (s3.usage r) h3
  have htask : (s3.writeUsage r).task s.ntid = t := (task_of_tasks_eq htasks _).trans (task_putTask_self s1 tid t)
  rw [htask]
  refine ⟨rfl, rfl, ?_, hntid⟩
  rw [State.writeUsage, hcores core]
  show tid ∈ (s1.core core).tasks
  rw [show s1.core core = k3 from core_putCore_self ..]
  exact hk3

theorem tasksMove : TasksMove := by
  refine ⟨fun s tid late htid => ?_, fun s tid a => saveTask_kept s tid a, fun s die w c hat => ?_, fun s tid hst => ?_⟩
  · obtain ⟨k, hk, hcore, heq⟩ := freezeTask_eq s tid late
    intro u
    have hput : (s.putTask tid k).task tid = k := task_putTask_self ..
    unfold u
    rw [heq]
    refine ⟨?_, ?_, ?_, fun x hx => ?_⟩
    · rw [task_stopIssue, hput]
      exact hk
    · rw [core_stopIssue, hput, hcore, if_pos rfl, stoppedCore]
      split
      · exact fun h => htid h.symm
      · assumption
    · rw [stopIssue_form]
      rfl
    · rw [task_stopIssue]
      exact task_putTask_ne s tid x _ hx
  · have hplace : s.placeRec die w = ((s.turnTaken die w.r).startTask w.x c 0 0).takeFrom die w := by
      unfold State.placeRec
      simp only [hat]
    intro u
    unfold u
    obtain ⟨hcore, hpc, hmem, hntid⟩ := startTask_places (s.turnTaken die w.r) w.x c 0 0
    obtain ⟨htasks, hcores, hnext⟩ := samePlaces_takeFrom ((s.turnTaken die w.r).startTask w.x c 0 0) die w
    rw [ntid_turnTaken] at hcore hpc hmem hntid
    rw [hplace, task_of_tasks_eq htasks, hcores, hnext]
    exact ⟨hcore, hpc, hmem, hntid⟩
  · unfold State.requestPreempt
    extract_lets t
    split
    · rename_i h
      exact fun hn => h.elim (fun hs => by rw [show t.preempt = none from hn] at hs; exact nomatch hs) hst
    · rw [task_putTask_self]
      exact nofun

end Sys2Proof.Proofs

/-! Sumps, the fault service and the trees' chunks from other packages (10 R308; 11 R349; 12 R370). -/

namespace Sys2Proof.Proofs

open Sys2Proof Sys2Proof.Machine Sys2Proof.Rules
open Host (Outcome)

/-! ### Sumps (10 R308) -/

/-- The answer to an enqueue, which its task alone sees. -/
def enqueueAnswer (e : Enq) (s : State) (v : Nat) : State :=
  match tabFind s.tasks e.tid with
  | some t => s.putTask e.tid { (t.setWait e.tok (.ready [BitVec.ofNat 512 v])) with clks := tabPut t.clks 4 (max (tabGet t.clks 0 4) e.clk) }
  | none => s

theorem enqueueAnswer_kept (e : Enq) (s : State) (v : Nat) : (enqueueAnswer e s v).dies = s.dies ∧ (enqueueAnswer e s v).sumps = s.sumps := by
  unfold enqueueAnswer
  split <;> exact ⟨rfl, rfl⟩

theorem sumpAdmit_eq {s : State} {die : Nat} {e : Enq} {rest : List Enq} (h : (s.die die).enq = e :: rest) : s.sumpAdmit die =
    let s1 := s.putDie die { s.die die with enq := rest }
    let x := s.sump e.sump
    if x.st = 0 then enqueueAnswer e s1 2
    else if x.ents.any fun y => keyOf y.bytes == keyOf e.bytes then enqueueAnswer e (s1.putSump e.sump { x with dups := x.dups + 1 }) 1
    else
      let s2 := if x.ents.length < 1024 then s1 else s1.spill x x.next
      enqueueAnswer e (s2.putSump e.sump { x with
        ents := x.ents ++ [{ bytes := e.bytes, arr := x.next, time := s.ns }], next := (x.next + 1) % 2 ^ 32
        accepted := x.accepted + 1, clk := max x.clk e.clk }) (x.next * 2 ^ 32) := by
  unfold State.sumpAdmit
  simp only [h]
  rfl

theorem die_putDie (s : State) (d : Nat) (k : Die) : (s.putDie d k).die d = k := tabGet_tabPut_self ..

/-- A record that is written out leaves the dies' queues alone. -/
theorem sameDies_spill (s : State) (x : Sump) (arr : Nat) : s.SameDies (s.spill x arr) :=
  ((serviceClosed_sameDies s).svcWrite _ _ _ _ _ (.refl s)).trans (.of_eq rfl rfl)

theorem sump_of_sumps {s u : State} (h : u.sumps = s.sumps) (id : Nat) : u.sump id = s.sump id := congrArg (fun t => tabGet t ({} : Sump) id) h

theorem die_of_dies {s u : State} (h : u.dies = s.dies) (d : Nat) : u.die d = s.die d := congrArg (fun t => tabGet t ({} : Die) d) h

theorem sumpAdmit_takes {s : State} {die : Nat} {e : Enq} {rest : List Enq} (h : (s.die die).enq = e :: rest) :
    let x := s.sump e.sump
    let u := s.sumpAdmit die
    (u.die die).enq = rest ∧
    (x.st ≠ 0 → (x.ents.any fun y => keyOf y.bytes == keyOf e.bytes) = true → u.sump e.sump = { x with dups := x.dups + 1 }) ∧
    (x.st ≠ 0 → (x.ents.any fun y => keyOf y.bytes == keyOf e.bytes) = false →
      (u.sump e.sump).ents = x.ents ++ [{ bytes := e.bytes, arr := x.next, time := s.ns }] ∧ (u.sump e.sump).next = (x.next + 1) % 2 ^ 32 ∧
      (u.sump e.sump).accepted = x.accepted + 1) := by
  intro x u
  let s1 := s.putDie die { s.die die with enq := rest }
  have henq1 : (s1.die die).enq = rest := congrArg Die.enq (die_putDie ..)
  have hu : u = _ := sumpAdmit_eq h
  by_cases hst : x.st = 0
  · rw [if_pos hst] at hu
    refine ⟨?_, fun hn => absurd hst hn, fun hn => absurd hst hn⟩
    rw [hu, die_of_dies (enqueueAnswer_kept ..).1]
    exact henq1
  rw [if_neg hst] at hu
  cases hdup : x.ents.any fun y => keyOf y.bytes == keyOf e.bytes with
  | true =>
    rw [if_pos hdup] at hu
    obtain ⟨hd, hs⟩ := enqueueAnswer_kept e (s1.putSump e.sump { x with dups := x.dups + 1 }) 1
    refine ⟨?_, fun _ _ => ?_, fun _ hn => Bool.noConfusion hn⟩
    · rw [hu, die_of_dies hd]
      exact henq1
    · rw [hu, sump_of_sumps hs]
      exact sump_putSump ..
  | false =>
    rw [if_neg (by rw [hdup]; decide)] at hu
    let s2 := if x.ents.length < 1024 then s1 else s1.spill x x.next
    have hdie : (s2.die die).enq = rest := by
      unfold s2
      split
      · exact henq1
      · obtain ⟨m, hm⟩ := (sameDies_spill s1 x x.next).2 die
        rw [hm]
        exact henq1
    let y : Sump := { x with ents := x.ents ++ [{ bytes := e.bytes, arr := x.next, time := s.ns }], next := (x.next + 1) % 2 ^ 32
                             accepted := x.accepted + 1, clk := max x.clk e.clk }
    obtain ⟨hd, hs⟩ := enqueueAnswer_kept e (s2.putSump e.sump y) (x.next * 2 ^ 32)
    have hsump : u.sump e.sump = y := by
      rw [hu]
      exact (sump_of_sumps hs _).trans (sump_putSump ..)
    refine ⟨?_, fun _ hn => Bool.noConfusion hn, fun _ _ => ?_⟩
    · rw [hu]
      exact (congrArg Die.enq (die_of_dies hd die)).trans hdie
    · rw [hsump]
      exact ⟨rfl, rfl, rfl⟩

/-! ### The fault service (11 R349) -/

theorem slotOpen_takes {s : State} {die n : Nat} {x : FSlot} (hwait : (s.die die).waitq = [x]) (hnext : (s.die die).nextWaiter = some 0)
    (hnew : (s.die die).openFor x = none) (hfree : ((List.range 256).find? fun i => (tabFind (s.die die).slots i).isNone) = some n) :
    tabFind ((s.slotOpen die).die die).slots n = some x ∧ ((s.slotOpen die).die die).waitq = [] ∧
    ((s.slotOpen die).die die).fseq = ((s.die die).fseq + 1) % 2 ^ 32 := by
  let s1 := s.putDie die { s.die die with slots := tabPut (s.die die).slots n x, waitq := [], fseq := ((s.die die).fseq + 1) % 2 ^ 32 }
  have hkept : s1.SameDies (s.slotOpen die) := by
    have hbind : ((s.die die).nextWaiter.bind fun i => ((s.die die).waitq[i]?).map fun x => (x, (s.die die).waitq.eraseIdx i)) = some (x, []) := by
      rw [hnext, hwait]
      rfl
    unfold State.slotOpen
    simp only [hbind, hnew, hfree]
    have hP := serviceClosed_sameDies s1
    exact hP.error _ (hP.svcWrite _ _ _ _ _ (.refl s1))
  obtain ⟨m, hm⟩ := hkept.2 die
  rw [hm, die_putDie]
  exact ⟨tabFind_tabPut_self .., rfl, rfl⟩

/-! ### Chunks from other packages (12 R370) -/

theorem farMark_tree {s : State} {key : Nat} (h : (s.tree key).st ≠ 0) : (s.farMark key).tree key = { s.tree key with farAt := s.ftime } := by
  unfold State.farMark
  rw [if_neg h]
  exact tree_putTree ..

theorem treeFar_takes {s : State} {key : Nat} (pkg g k mask : Nat) (bs : List Byte) (h : (s.tree key).st ≠ 0) :
    (∃ x, ((s.treeFar key pkg g k mask true bs).tree key).down = (s.tree key).down ++ [x] ∧ x.seg = g ∧ x.chunk = k ∧ x.mask = mask ∧
      x.data = bs.drop 8 ∧ x.clk = leNat (bs.take 8)) ∧
    ∃ x, ((s.treeFar key pkg g k mask false bs).tree key).up = (s.tree key).up ++ [x] ∧ x.seg = g ∧ x.chunk = k ∧ x.mask = mask ∧
      x.data = bs.drop 8 ∧ x.clk = leNat (bs.take 8) := by
  have hput : ∀ t : Tree, t.st = (s.tree key).st → ((s.putTree key t).farMark key).tree key = { t with farAt := s.ftime } := fun t ht => by
    rw [farMark_tree (by rw [tree_putTree, ht]; exact h), tree_putTree]
    rfl
  refine ⟨?_, ?_⟩
  · obtain ⟨t, heq, hst, x, hdown, hx⟩ : ∃ t : Tree, s.treeFar key pkg g k mask true bs = (s.putTree key t).farMark key ∧ t.st = (s.tree key).st ∧
        ∃ x : Chunk, t.down = (s.tree key).down ++ [x] ∧ x.seg = g ∧ x.chunk = k ∧ x.mask = mask ∧ x.data = bs.drop 8 ∧ x.clk = leNat (bs.take 8) :=
      ⟨_, if_neg h, rfl, _, rfl, rfl, rfl, rfl, rfl, rfl⟩
    rw [heq, hput t hst]
    exact ⟨x, hdown, hx⟩
  · obtain ⟨t, heq, hst, x, hup, hx⟩ : ∃ t : Tree, s.treeFar key pkg g k mask false bs = (s.putTree key t).farMark key ∧ t.st = (s.tree key).st ∧
        ∃ x : Chunk, t.up = (s.tree key).up ++ [x] ∧ x.seg = g ∧ x.chunk = k ∧ x.mask = mask ∧ x.data = bs.drop 8 ∧ x.clk = leNat (bs.take 8) :=
      ⟨_, if_neg h, rfl, _, rfl, rfl, rfl, rfl, rfl, rfl⟩
    rw [heq, hput t hst]
    exact ⟨x, hup, hx⟩

theorem enginesTake : EnginesTake :=
  ⟨fun _ _ _ _ h => sumpAdmit_takes h, fun _ _ _ _ hwait hnext hnew hfree => slotOpen_takes hwait hnext hnew hfree,
    fun _ _ pkg g k mask bs h => treeFar_takes pkg g k mask bs h⟩

end Sys2Proof.Proofs

/-! Sectors and completions of the copy engine (08 R226, R231, R234). -/

namespace Sys2Proof.Proofs

open Sys2Proof Sys2Proof.Machine Sys2Proof.Rules
open Host (Outcome)

/-! ### What a command's progress leaves alone -/

theorem mem_foldl {β : Type} {f : State → β → State} (h : ∀ u x, (f u x).mem = u.mem) (l : List β) (s : State) : (l.foldl f s).mem = s.mem := by
  induction l generalizing s with
  | nil => rfl
  | cons x l ih => exact (ih _).trans (h s x)

theorem mem_mcastArrive (s : State) (core q k : Nat) : (s.mcastArrive core q k).mem = s.mem := by
  unfold State.mcastArrive
  extract_lets ch
  split
  · rfl
  · extract_lets r
    split
    · split
      · obtain ⟨⟨ts, h⟩, -, -⟩ := woken_setBar _ _ _ _
        rw [h]
        rfl
      · rfl
    · rfl

theorem mem_endCopy (s : State) (core q : Nat) (x : Ending) : (s.endCopy core q x).mem = s.mem := by
  unfold State.endCopy
  extract_lets ch0
  split
  · rfl
  · extract_lets c sp s0
    show s0.mem = s.mem
    unfold s0
    split
    · exact mem_foldl (fun u k => mem_mcastArrive u core q k) _ sp
    · rfl

theorem mem_copyAdvance (s : State) (core q n written : Nat) : (s.copyAdvance core q n written).mem = s.mem := by
  unfold State.copyAdvance
  extract_lets k ch
  split
  · rfl
  · extract_lets r off c1 c2 s1
    split
    · rfl
    split
    · split <;> rfl
    · exact mem_endCopy ..

theorem addDigest_kept (s : State) (tid a : Nat) (bs : List Byte) : (s.addDigest tid a bs).mem = s.mem ∧ (s.addDigest tid a bs).cores = s.cores := by
  unfold State.addDigest
  split <;> exact ⟨rfl, rfl⟩

/-! ### A sector (08 R226, R231) -/

/-- A command's bytes put in memory at one place. -/
theorem copyPut_mem {s : State} {core q : Nat} {c : Cmd} (hal : s.copyAlcove core q c = none) (scale : Bool) (a clk l : Nat) (bs : List Byte) :
    (s.copyPut core q c scale a clk [(l, bs.length)] bs).2.mem = memPutBytes s.mem l bs := by
  have hnone : (if scale then none else s.copyAlcove core q c) = none := by
    rw [hal]
    split <;> rfl
  unfold State.copyPut
  simp only [hnone, List.foldr_cons, List.foldr_nil, List.append_nil]
  rw [(addDigest_kept ..).1]
  exact (store_same ..).2

/-- A sector of a command that is no MULTICAST, its source read and its destination found at one place. -/
theorem copySector_writes {s : State} {core q : Nat} {c : Cmd} {u : CUnit} {bs : List Byte} {clk : Nat} {s1 : State} {out : List Byte} {l : Nat}
    (hcmd : ((s.core core).chan q).cmd = some c) (hm : c.multicast = false)
    (hunit : unitAt (c.units (shapeRec c.image) (c.placeFor (shapeRec c.image) 0 / c.runBytes (shapeRec c.image)))
      (c.placeFor (shapeRec c.image) 0 % c.runBytes (shapeRec c.image)) = some u)
    (hsrc : s.copySource core c (s.task (s.chanOwner core q)) (c.placeFor (shapeRec c.image) 0 / c.runBytes (shapeRec c.image)) u = .ok (bs, clk, s1))
    (hdata : c.unitData u bs = some out) (hal : s1.copyAlcove core q c = none)
    (hdst : s1.copyPieces (s.task (s.chanOwner core q)) (clusterOf core) 2 2 u.addr u.n = .ok [(l, u.n)]) (hheld : s1.hostHeld l u.n = []) :
    (s.copySector core q 0).mem = (s1.copyPut core q c u.scale.isSome u.addr clk [(l, u.n)] out).2.mem := by
  have hsome : ((s1.copyAlcove core q c).isSome && u.scale.isNone) = false := by rw [hal]; rfl
  have hnone : (!(s1.hostHeld l u.n ++ []).isEmpty) = false := by rw [hheld]; rfl
  unfold State.copySector
  simp only [hcmd, hm, hunit, hsrc, hdata, hsome, hdst, hnone, Bool.false_eq_true, if_false, List.foldr_cons, List.foldr_nil]
  exact mem_copyAdvance ..

/-! ### A completion (08 R234) -/

theorem length_recordBytes (c : Cmd) (x : Ending) : (c.recordBytes x).length = 16 := by
  simp only [Cmd.recordBytes, List.length_append, length_natLe]

/-- A completion's record, in its ring where it has one. -/
theorem writeRecord_mem (s : State) (cluster tid : Nat) (ch : Chan) (c : Cmd) (x : Ending) : (s.writeRecord cluster tid ch c x).mem =
    if ch.field 1 = 0 ∨ ch.ringOver = true then s.mem else memPutBytes s.mem ch.ringAddr (c.recordBytes x) := by
  unfold State.writeRecord
  extract_lets bs
  by_cases h : ch.field 1 = 0 ∨ ch.ringOver = true
  · rw [if_pos h, if_pos h]
    rfl
  · rw [if_neg h, if_neg h]
    obtain ⟨-, hmem⟩ := store_same s cluster c.clk ch.ringAddr bs
    generalize s.store cluster c.clk ch.ringAddr bs = y at hmem ⊢
    exact (addDigest_kept ..).1.trans hmem

theorem copyComplete_eq {s : State} {core q : Nat} {c : Cmd} {x : Ending} (hcmd : ((s.core core).chan q).cmd = some c) (hend : c.ends = some x) :
    let ch := (s.core core).chan q
    let s1 := s.writeRecord (clusterOf core) (s.chanOwner core q) ch c (ch.finalEnd x)
    s.copyComplete core q = s1.putCore core ((s1.core core).putChan q { ch with
      cmd := none, last := leNat ((c.recordBytes (ch.finalEnd x)).take 8), ended := ch.ended + 1
      head := if ch.field 1 = 0 ∨ ch.ringOver = true then ch.head else ch.head + 1 }) := by
  intro ch s1
  unfold State.copyComplete
  extract_lets
  split
  · rename_i h
    exact nomatch h.symm.trans hcmd
  · rename_i d h
    cases h.symm.trans hcmd
    split
    · rename_i h
      exact nomatch h.symm.trans hend
    · rename_i y h
      cases h.symm.trans hend
      rfl

theorem copiesWrite : CopiesWrite := by
  refine ⟨fun s core q c u bs clk s1 out l hcmd hm => ?_, fun s core q c x => ?_⟩
  · intro r t at_ hunit hsrc hdata hlen hal hdst hheld
    rw [copySector_writes hcmd hm hunit hsrc hdata hal hdst hheld, ← hlen, copyPut_mem hal]
    exact ⟨memBytes_memPutBytes .., fun b hb => memByte_memPutBytes_out _ _ _ _ hb⟩
  · intro ch hcmd hend bs u ch1
    let s1 := s.writeRecord (clusterOf core) (s.chanOwner core q) ch c (ch.finalEnd x)
    have hu : u = _ := copyComplete_eq hcmd hend
    have hch : ch1 = { ch with
        cmd := none, last := leNat (bs.take 8), ended := ch.ended + 1
        head := if ch.field 1 = 0 ∨ ch.ringOver = true then ch.head else ch.head + 1 } := by
      unfold ch1
      rw [hu, core_putCore_self, chan_putChan]
      exact if_pos rfl
    have hmem : u.mem = if ch.field 1 = 0 ∨ ch.ringOver = true then s.mem else memPutBytes s.mem ch.ringAddr bs := by
      rw [hu]
      exact writeRecord_mem ..
    have hbs : bs.length = 16 := length_recordBytes ..
    rw [hch, hmem]
    refine ⟨hbs, rfl, rfl, rfl, fun hring hover => ?_, fun hnone => ?_⟩
    · have hno : ¬(ch.field 1 = 0 ∨ ch.ringOver = true) := by rintro (h | h); exacts [hring h, by rw [hover] at h; exact nomatch h]
      rw [if_neg hno, if_neg hno, ← hbs]
      exact ⟨rfl, memBytes_memPutBytes .., fun b hb => memByte_memPutBytes_out _ _ _ _ hb⟩
    · rw [if_pos hnone, if_pos hnone]
      exact ⟨rfl, rfl⟩

/-- Settles O50. -/
theorem engineStepsTakeEffect : Obligations.EngineStepsTakeEffect := by
  refine ⟨fun s r hr => ?_, trapsAreDisposed, tasksMove, copiesWrite, enginesTake⟩
  rcases List.mem_append.1 hr with hr | hr
  · exact (List.mem_append.1 hr).elim (coreEvents_step s r) (dieEvents_step s r)
  · exact treeEvents_step s r hr

end Sys2Proof.Proofs

/-! Steps of the host, the monitors and the fabric take effect where they can happen (11 R359-R361; 13 R393-R418; 14 R419-R446). -/

namespace Sys2Proof.Proofs

open Sys2Proof Sys2Proof.Machine Sys2Proof.Rules
open Host (Outcome)

/-! ### The fabric (14 R419-R446) -/

theorem stops_eq (n i : Nat) (stop : Bool) : (if stop && !(n / 2 ^ i % 2 == 1) then n + 2 ^ i else if !stop && n / 2 ^ i % 2 == 1 then n - 2 ^ i else n) =
    if stop = n.testBit i then n else if stop then n + 2 ^ i else n - 2 ^ i := by
  rw [show n.testBit i = (n / 2 ^ i % 2 == 1) from Nat.testBit_eq_decide_div_mod_eq]
  cases stop <;> cases n / 2 ^ i % 2 == 1 <;> rfl

theorem reached_eq (p : Port) (x : Option (Nat × Nat)) : p.reached x = x.any fun y => decide (y.1 ≤ p.rx) := by
  cases x <;> rfl

/-- What the peer of a port announces of its map. -/
theorem stepsTo_mapped {i : Instr} {s u : State} {can : Bool} {p : Port} (hp : s.port s.arg.unit = p)
    (h : exec i s = if s.arg.flag then s.stepIf p.up (s.peerMap s.arg.unit s.arg.num s.arg.bytes) else s.stepIf can u) :
    StepsTo i s (if s.arg.flag then due (p.st == 2 || p.st == 3) (s.putPort s.arg.unit { p with tnew := some (max s.arg.num p.tx, peerStripes s.arg.bytes) })
      else due can u) := by
  subst hp
  exact stepsTo_of_flag h

theorem fabricEvents_step (s : State) : ∀ r ∈ fabricEvents s, StepsTo r.1 s r.2 := by
  simp only [fabricEvents, List.forall_mem_cons, List.not_mem_nil, false_implies, implies_true, and_true]
  refine ⟨stepsTo_of_stepIf (exec_remoteRequest s) rfl, stepsTo_of_flag (exec_remoteErrorReply s), stepsTo_of_flag (exec_remoteUnreachable s),
    stepsTo_of_flag (exec_remoteAcknowledgement s), ?_, stepsTo_of_stepIf (exec_sendLinePerform s) rfl, stepsTo_of_stepIf (exec_snoteAdd s) rfl,
    stepsTo_of_stepIf (exec_flitReceive s) rfl, ?_, stepsTo_of_stepIf (exec_wavelengthWindow s) rfl, stepsTo_of_stepIf (exec_retrainTrigger s) rfl,
    ?_, ?_, stepsTo_of_stepIf (exec_retrainAdaptationEnd s) rfl, stepsTo_of_stepIf (exec_retrainTestEnd s) rfl, ?_,
    stepsTo_of_stepIf (exec_slotBoundary s) rfl, stepsTo_of_stepIf (exec_guardEnd s) rfl, stepsTo_of_stepIf (exec_windowClose s) rfl,
    stepsTo_of_stepIf (exec_transitReinject s) rfl, stepsTo_of_stepIf (exec_ftimeLock s) rfl, stepsTo_of_stepIf (exec_lockLoss s) rfl,
    stepsTo_of_stepIf (exec_slotTable s) rfl, stepsTo_of_stepIf (exec_tableActivation s) rfl, stepsTo_of_stepIf (exec_packageIdentifier s) rfl,
    stepsTo_of_stepIf (exec_peerTable s) rfl⟩
  · refine stepsTo_of_cond (fun h => stepsTo_of_stepIf ((exec_sendFlit s).trans (if_pos h)) rfl) fun h => stepsTo_of_flag ((exec_sendFlit s).trans (if_neg ?_))
    rw [h]
    decide
  · rw [← stops_eq]
    exact stepsTo_of_stepIf (exec_stopGoSignal s) rfl
  · rw [← reached_eq]
    exact stepsTo_mapped rfl (exec_stripeSwitch s)
  · refine stepsTo_of_cond (fun h => stepsTo_of_stepIf ((exec_wavelengthWithdraw s).trans (if_pos h)) rfl) fun h => ?_
    have hex : exec .wavelengthWithdraw s = match (s.port s.arg.unit).toWithdraw with
        | some (f, w) => .next (s.putPort s.arg.unit ((s.port s.arg.unit).withdraw f w s.ftime)).settle
        | none => .next s := (exec_wavelengthWithdraw s).trans (if_neg (by rw [h]; decide))
    exact stepsTo_of_map (fun x hx => by rw [hex, hx]) fun hx => by rw [hex, hx]
  · rw [← reached_eq]
    exact stepsTo_mapped rfl (exec_wavelengthHandback s)

/-! ### Mailbox commands (13 R395, R396) -/

/-- A command word other than LAUNCH's and RESYNC's, as the mailbox's own rules take it. -/
theorem stepsTo_commanded {i : Instr} {s : State} {w code : Nat} {bad : Bool} {run : State} (hex : exec i s = s.command w)
    (hword : w % 2 ^ 64 / 2 ^ 56 = code) (hst : code ≠ 5)
    (hmail : (s.part s.arg.unit).st ≠ 1 → s.mailWord s.arg.unit (w % 2 ^ 64) = if (s.part s.arg.unit).busy then
      s.putPart s.arg.unit { s.part s.arg.unit with refused := (s.part s.arg.unit).refused + 1 }
      else if bad then s.mailDone s.arg.unit code stBad else run) : StepsTo i s (commanded s code bad run) := by
  have hrun : s.mailWord s.arg.unit (w % 2 ^ 64) =
      if (s.part s.arg.unit).st = 1 then s.mailNote s.arg.unit code stResetting
      else if (s.part s.arg.unit).busy then s.putPart s.arg.unit { s.part s.arg.unit with refused := (s.part s.arg.unit).refused + 1 }
      else if bad then s.mailDone s.arg.unit code stBad else run := by
    by_cases h : (s.part s.arg.unit).st = 1
    · rw [if_pos h]
      refine (if_pos h).trans ((if_neg ?_).trans ?_)
      · rw [hword]
        exact fun hn => hst hn.1
      · rw [hword, if_neg hst]
    · rw [if_neg h]
      exact hmail h
  have hcan : (s.link.up && s.mailOpen s.arg.unit) = (s.link.up && s.boot.stage == 3 && (tabFind s.parts s.arg.unit).isSome) := (Bool.and_assoc ..).symm
  have hto := stepsTo_of_stepIf hex hcan
  rw [hrun] at hto
  exact hto

/-- A command word's code and its other bits. -/
theorem word_parts {code low : Nat} (hc : code < 256) (hl : low < 2 ^ 56) :
    (code * 2 ^ 56 + low) % 2 ^ 64 / 2 ^ 56 = code ∧ (code * 2 ^ 56 + low) % 2 ^ 64 % 2 ^ 56 = low := by omega

/-- A partition that is not being reset answers a command word by its code. -/
theorem mailWord_open {s : State} {p w : Nat} (h : (s.part p).st ≠ 1) : s.mailWord p w = match w / 2 ^ 56 with
    | 1 => s.mailLaunch p (w % 2 ^ 56 % 2 ^ 16) (decide (2 ^ 16 ≤ w % 2 ^ 56))
    | 2 => s.mail p 2 (w % 2 ^ 56 != 0) fun s1 => s1.mailRequest p 2 0 (s.part p).mbarg
    | 3 => s.mail p 3 (decide (2 ^ 24 ≤ w % 2 ^ 56) || w % 2 ^ 56 / 2 ^ 16 % 256 == 0 || decide (7 < w % 2 ^ 56 / 2 ^ 16 % 256))
        fun s => s.mailRequest p 3 (w % 2 ^ 56 / 2 ^ 16 % 256) (w % 2 ^ 56 % 2 ^ 16)
    | 4 => s.mail p 4 (decide (256 ≤ w % 2 ^ 56)) fun s1 =>
        let (s2, st) := s1.param p (w % 2 ^ 56) (s.part p).mbarg
        s2.mailDone p 4 st
    | 5 => s.mail p 5 (w % 2 ^ 56 != 0) fun s =>
        let (s1, st) := s.resync p
        s1.mailDone p 5 st
    | 6 => s.mail p 6 (decide (2 ≤ w % 2 ^ 56)) fun s => s.resetPart p (w % 2 ^ 56 == 1) true
    | 7 => s.mail p 7 (w % 2 ^ 56 != 0) fun s => s.checkpoint p
    | 8 => s.mail p 8 (w % 2 ^ 56 != 0) fun s => s.restore p
    | c => s.mail p c true id := if_neg h

/-- A command that runs at its word's code with the word's other bits zero, or else answers BAD-COMMAND. -/
theorem stepsTo_plainCommand {i : Instr} {s : State} {code n : Nat} {run : State} (hex : exec i s = s.command (code * 2 ^ 56 + n % 2 ^ 56))
    (hc : code < 256) (h5 : code ≠ 5)
    (hrun : ∀ w, w / 2 ^ 56 = code → (s.part s.arg.unit).st ≠ 1 → s.mailWord s.arg.unit w = s.mail s.arg.unit code (w % 2 ^ 56 != 0) fun _ => run) :
    StepsTo i s (commanded s code (n % 2 ^ 56 != 0) run) := by
  obtain ⟨hcode, hlow⟩ := word_parts hc (Nat.mod_lt n (by decide : 0 < 2 ^ 56))
  refine stepsTo_commanded hex hcode h5 fun hst => ?_
  rw [hrun _ hcode hst, hlow]
  rfl

theorem stepsTo_control {i : Instr} {s : State} {fn : Nat} (hex : exec i s = s.command (controlWord fn s.arg.num)) (h0 : 0 < fn) (h7 : fn ≤ 7) :
    StepsTo i s (commanded s 3 (decide (s.arg.num / 2 ^ 24 % 2 ^ 32 ≠ 0)) (s.mailRequest s.arg.unit 3 fn (s.arg.num % 2 ^ 16))) := by
  obtain ⟨low, hdef⟩ : ∃ low, low = s.arg.num / 2 ^ 24 % 2 ^ 32 * 2 ^ 24 + fn * 2 ^ 16 + s.arg.num % 2 ^ 16 := ⟨_, rfl⟩
  have hlow : low < 2 ^ 56 := by omega
  have hw : controlWord fn s.arg.num = 3 * 2 ^ 56 + low := by
    unfold controlWord
    omega
  obtain ⟨hcode, hrest⟩ := word_parts (code := 3) (by decide) hlow
  rw [hw] at hex
  refine stepsTo_commanded hex hcode (by decide) fun hst => ?_
  have hfn : low / 2 ^ 16 % 256 = fn := by omega
  have hreg : low % 2 ^ 16 = s.arg.num % 2 ^ 16 := by omega
  have hbad : (decide (2 ^ 24 ≤ low) || fn == 0 || decide (7 < fn)) = decide (s.arg.num / 2 ^ 24 % 2 ^ 32 ≠ 0) := by
    rw [beq_eq_false_iff_ne.2 (by omega : fn ≠ 0), decide_eq_false (by omega : ¬ 7 < fn), Bool.or_false, Bool.or_false]
    exact decide_eq_decide.2 (by omega)
  rw [mailWord_open hst, hcode]
  dsimp only
  rw [hrest, hfn, hreg, hbad]
  rfl

theorem stepsTo_param {i : Instr} {s : State} {idx : Nat} (hex : exec i s = s.command (paramWord idx s.arg.num)) (hidx : idx < 256) :
    StepsTo i s (commanded s 4 (decide (s.arg.num / 2 ^ 8 % 2 ^ 48 ≠ 0)) (paramRun s idx)) := by
  obtain ⟨low, hdef⟩ : ∃ low, low = s.arg.num / 2 ^ 8 % 2 ^ 48 * 2 ^ 8 + idx := ⟨_, rfl⟩
  have hlow : low < 2 ^ 56 := by omega
  have hw : paramWord idx s.arg.num = 4 * 2 ^ 56 + low := by
    unfold paramWord
    omega
  obtain ⟨hcode, hrest⟩ := word_parts (code := 4) (by decide) hlow
  rw [hw] at hex
  refine stepsTo_commanded hex hcode (by decide) fun hst => ?_
  rw [mailWord_open hst, hcode]
  dsimp only
  rw [hrest]
  by_cases hbits : s.arg.num / 2 ^ 8 % 2 ^ 48 = 0
  · have hl : low = idx := by omega
    rw [hl, decide_eq_false (by omega : ¬ 256 ≤ idx), decide_eq_false (not_not.2 hbits)]
    rfl
  · rw [decide_eq_true (by omega : 256 ≤ low), decide_eq_true hbits]
    rfl

theorem commandEvents_step (s : State) : ∀ r ∈ commandEvents s, StepsTo r.1 s r.2 := by
  simp only [commandEvents, List.forall_mem_cons, List.not_mem_nil, false_implies, implies_true, and_true]
  refine ⟨stepsTo_plainCommand (exec_createRoot s) (by decide) (by decide) fun w hw hst => ?_,
    stepsTo_control (exec_controlDestroy s) (by decide) (by decide), stepsTo_control (exec_controlLaunch s) (by decide) (by decide),
    stepsTo_control (exec_controlPreempt s) (by decide) (by decide), stepsTo_control (exec_controlPark s) (by decide) (by decide),
    stepsTo_control (exec_controlResume s) (by decide) (by decide), stepsTo_control (exec_controlKill s) (by decide) (by decide),
    stepsTo_control (exec_controlReload s) (by decide) (by decide), stepsTo_param (exec_paramPtroot s) (by decide),
    stepsTo_param (exec_paramFqbase s) (by decide), stepsTo_param (exec_paramTtbase s) (by decide), stepsTo_param (exec_paramLease s) (by decide),
    stepsTo_param (exec_paramEvqbase s) (by decide), stepsTo_param (exec_paramEvqlen s) (by decide), stepsTo_param (exec_paramErrbase s) (by decide),
    stepsTo_param (exec_paramErrlen s) (by decide), stepsTo_param (exec_paramSevmat s) (by decide), stepsTo_param (exec_paramPcap s) (by decide),
    stepsTo_plainCommand (exec_checkpoint s) (by decide) (by decide) fun w hw hst => ?_,
    stepsTo_plainCommand (exec_restore s) (by decide) (by decide) fun w hw hst => ?_⟩
  · rw [mailWord_open hst, hw]
    rfl
  · rw [mailWord_open hst, hw]
    rfl
  · rw [mailWord_open hst, hw]
    rfl

end Sys2Proof.Proofs

/-! Resets, launches and what the host and the monitors bring, and what the fabric's steps change (11 R359-R361; 13 R393-R416; 14 R424-R442). -/

namespace Sys2Proof.Proofs

open Sys2Proof Sys2Proof.Machine Sys2Proof.Rules
open Host (Outcome)

/-! ### RESYNC, RESET and LAUNCH (13 R395, R412, R413) -/

/-- A command word reaches an enabled function. -/
theorem stepsTo_command {i : Instr} {s t : State} {w : Nat} (hex : exec i s = s.command w) (h : s.mailWord s.arg.unit (w % 2 ^ 64) = t) :
    StepsTo i s (due (s.link.up && s.boot.stage == 3 && (tabFind s.parts s.arg.unit).isSome) t) := by
  subst h
  exact stepsTo_of_stepIf hex (Bool.and_assoc ..).symm

/-- A command of a partition that is not being reset. -/
theorem commanded_open {s : State} {code : Nat} {bad : Bool} {run : State} (h : (s.part s.arg.unit).st ≠ 1) : commanded s code bad run =
    due (s.link.up && s.boot.stage == 3 && (tabFind s.parts s.arg.unit).isSome) (s.mail s.arg.unit code bad fun _ => run) :=
  congrArg (due _) (if_neg h)

theorem resetEvents_step (s : State) : ∀ r ∈ resetEvents s, StepsTo r.1 s r.2 := by
  have hlow : s.arg.num % 2 ^ 56 < 2 ^ 56 := Nat.mod_lt _ (by decide)
  simp only [resetEvents, List.forall_mem_cons, List.not_mem_nil, false_implies, implies_true, and_true]
  refine ⟨?_, ?_, ?_⟩
  · obtain ⟨hcode, hrest⟩ := word_parts (code := 5) (by decide) hlow
    have hword : ∀ t, s.mailWord s.arg.unit ((5 * 2 ^ 56 + s.arg.num % 2 ^ 56) % 2 ^ 64) = t →
        StepsTo .resync s (due (s.link.up && s.boot.stage == 3 && (tabFind s.parts s.arg.unit).isSome) t) :=
      fun t h => stepsTo_command (exec_resync s) h
    by_cases hst : (s.part s.arg.unit).st = 1
    · rw [if_pos hst]
      refine hword _ ((if_pos hst).trans ?_)
      by_cases h0 : s.arg.num % 2 ^ 56 = 0
      · rw [hcode, hrest, if_pos h0, if_pos ⟨rfl, h0⟩]
        rfl
      · rw [hcode, hrest, if_neg h0, if_neg fun h => h0 h.2]
        rfl
    · rw [if_neg hst]
      have hrun := mailWord_open (w := (5 * 2 ^ 56 + s.arg.num % 2 ^ 56) % 2 ^ 64) hst
      rw [hcode, hrest] at hrun
      rw [commanded_open hst]
      exact hword _ hrun
  · by_cases hsub : s.arg.sub = 0
    · rw [if_pos hsub]
      obtain ⟨hcode, hrest⟩ := word_parts (code := 6) (by decide) hlow
      refine stepsTo_commanded ((exec_reset s).trans (if_pos hsub)) hcode (by decide) fun hst => ?_
      rw [mailWord_open hst, hcode]
      dsimp only
      rw [hrest]
      rfl
    · rw [if_neg hsub]
      exact stepsTo_of_stepIf ((exec_reset s).trans (if_neg hsub)) rfl
  · obtain ⟨hcode, hrest⟩ := word_parts (code := 1) (by decide) hlow
    refine stepsTo_command (exec_launch s) ?_
    by_cases hst : (s.part s.arg.unit).st = 1
    · rw [if_pos hst]
      refine (if_pos hst).trans ((if_neg ?_).trans ?_)
      · rw [hcode]
        exact fun h => nomatch h.1
      · rw [hcode]
        rfl
    · have hrun := mailWord_open (w := (1 * 2 ^ 56 + s.arg.num % 2 ^ 56) % 2 ^ 64) hst
      rw [hcode, hrest] at hrun
      rw [if_neg hst]
      refine hrun.trans ?_
      show s.mailLaunch s.arg.unit (s.arg.num % 2 ^ 56 % 2 ^ 16) (decide (2 ^ 16 ≤ s.arg.num % 2 ^ 56)) = _
      by_cases hbad : 2 ^ 16 ≤ s.arg.num % 2 ^ 56
      · rw [if_pos hbad]
        exact if_pos (decide_eq_true hbad)
      · rw [if_neg hbad, Nat.mod_eq_of_lt (Nat.not_le.1 hbad)]
        exact if_neg (by rw [decide_eq_false hbad]; decide)

/-! ### The host and the monitors (11 R359-R361; 13 R393-R416) -/

theorem hostEvents_step (s : State) : ∀ r ∈ hostEvents s, StepsTo r.1 s r.2 := by
  simp only [hostEvents, List.forall_mem_cons, List.not_mem_nil, false_implies, implies_true, and_true]
  refine ⟨?_, ?_, stepsTo_some ((exec_moduleBoot s).trans rfl), stepsTo_of_stepIf (exec_recoveryImage s) rfl, stepsTo_of_stepIf (exec_capBroadcast s) rfl,
    stepsTo_of_stepIf (exec_rankSet s) rfl, stepsTo_of_stepIf (exec_ownCap s) rfl, stepsTo_of_stepIf (exec_clockLimit s) rfl,
    stepsTo_of_stepIf (exec_regulatorPhaseFailure s) rfl, stepsTo_of_stepIf (exec_linkRetry s) rfl, stepsTo_of_stepIf (exec_linkDown s) rfl,
    stepsTo_of_stepIf (exec_linkRecovery s) rfl, stepsTo_of_stepIf (exec_backInvalidationResponse s) rfl, stepsTo_of_stepIf (exec_hostRead s) rfl,
    stepsTo_of_flag (exec_hostWrite s), stepsTo_of_stepIf (exec_hostWriteCompletion s) rfl, stepsTo_of_stepIf (exec_memoryError s) rfl⟩
  · by_cases hsub : s.arg.sub = 0
    · rw [if_pos hsub]
      exact stepsTo_of_stepIf ((exec_attest s).trans (if_pos hsub)) rfl
    · rw [if_neg hsub]
      exact stepsTo_of_stepIf ((exec_attest s).trans (if_neg hsub)) rfl
  · by_cases hunit : s.arg.unit = 0
    · rw [if_pos hunit]
      exact stepsTo_of_stepIf ((exec_registerWrite s).trans (if_pos hunit)) rfl
    · rw [if_neg hunit]
      exact stepsTo_of_stepIf ((exec_registerWrite s).trans (if_neg hunit)) (Bool.and_assoc ..).symm

end Sys2Proof.Proofs

/-! What the fabric's steps change: the module's time, its table and slot, a task whose RST is acknowledged, a transferred line, the note of a
transfer, and a partition that is being reset (13 R412; 14 R424-R442). -/

namespace Sys2Proof.Proofs

open Sys2Proof Sys2Proof.Machine Sys2Proof.Rules
open Host (Outcome)

/-! ### Flits and slots (14 R427, R430) -/

/-- The ports' stop signals change no slot and no memory. -/
theorem signalAll_kept (s : State) : s.signalAll.fab = s.fab ∧ s.signalAll.mem = s.mem := by
  have hfold : ∀ (l : List Nat) (u : State), (l.foldl State.signal u).fab = u.fab ∧ (l.foldl State.signal u).mem = u.mem := fun l => by
    induction l with
    | nil => exact fun u => ⟨rfl, rfl⟩
    | cons j l ih => exact fun u => ih (u.signal j)
  exact hfold _ s

theorem takeFlits_form (s : State) (cls n : Nat) : s.takeFlits cls n = { s with ports := (s.takeFlits cls n).ports } := by
  unfold State.takeFlits
  generalize List.range n = l
  generalize hf : (fun (s : State) (_ : Nat) => match s.ports.find? fun p => p.2.inbox.any fun f => f.1 / 4 == cls with
    | some (j, p) => (s.putPort j { p with inbox := p.inbox.eraseP fun f => f.1 / 4 == cls }).signal j
    | none => s) = f
  have hstep : ∀ u x, f u x = { u with ports := (f u x).ports } := fun u x => by
    rw [← hf]
    dsimp only
    split <;> rfl
  induction l generalizing s with
  | nil => rfl
  | cons x l ih => rw [List.foldl_cons, ih, hstep s x]

theorem slotBoundary_acts {s : State} {i st : Nat} (h : slotAt s.fab.table s.ftime = some (i, st)) :
    s.slotBoundary.fab.slot = some i ∧ s.slotBoundary.fab.start = st ∧ s.slotBoundary.mem = s.mem := by
  have hports : ∀ (l : List Nat) (u : State), (l.foldl (fun s j => s.putPort j (s.portSlot i j st)) u).mem = u.mem :=
    fun l u => mem_foldl (f := fun s j => s.putPort j (s.portSlot i j st)) (fun _ _ => rfl) l u
  obtain ⟨w, heq, hslot, hstart, hmem⟩ : ∃ w : State, s.slotBoundary = w.signalAll ∧ w.fab.slot = some i ∧ w.fab.start = st ∧ w.mem = s.mem := by
    unfold State.slotBoundary
    simp only [h]
    split
    · exact ⟨_, rfl, rfl, rfl, hports _ s⟩
    · exact ⟨_, rfl, rfl, rfl, hports _ s⟩
  obtain ⟨hf, hm⟩ := signalAll_kept w
  rw [heq, hf, hm]
  exact ⟨hslot, hstart, hmem⟩

/-! ### Remote operations and transfers (14 R434-R442) -/

theorem acknowledged_acts {s : State} {tid : Nat} {t : Machine.Task} (h : tabFind s.tasks tid = some t) (hst : t.status = .remote) :
    let u := ((s.takeFlits 1 1).ropDone tid).unpark tid
    (u.task tid).status = .ready ∧ (∀ o ∈ u.rops, o.tid ≠ tid) ∧ u.mem = s.mem := by
  intro u
  have hu : u = (((s.takeFlits 1 1).ropDone tid).putTask tid { t with status := .ready, waitFrom := s.cycle }) := by
    unfold u State.unpark
    rw [takeFlits_form]
    simp only [State.ropDone, h, hst, if_true]
  rw [hu, task_putTask_self]
  refine ⟨rfl, fun o ho => ?_, ?_⟩
  · exact bne_iff_ne.1 (List.mem_filter.1 ho).2
  · rw [takeFlits_form]
    rfl

/-- The value of eight bytes just written. -/
theorem memNat_written (m : Memory) (a v : Nat) : memNat (memPutBytes m a (natLe 8 (v % 2 ^ 64))) a 8 = v % 2 ^ 64 := by
  have hbytes : memBytes (memPutBytes m a (natLe 8 (v % 2 ^ 64))) a 8 = natLe 8 (v % 2 ^ 64) := by
    conv_lhs => rw [← length_natLe 8 (v % 2 ^ 64)]
    exact memBytes_memPutBytes ..
  rw [memNat, hbytes, leNat_natLe, Nat.mod_mod]

theorem mem_sendDone (s : State) (n : Nat) : (s.sendDone n).mem = s.mem := by
  unfold State.sendDone
  split
  · rfl
  · extract_lets s1 s2
    rw [sendRequests_eq]
    obtain ⟨-, -, hmem, -⟩ := sendRequests_kept s2.rops s2
    refine hmem.trans ?_
    unfold s2
    split <;> rfl

theorem noteAdd_acts {s : State} {n : Nat} {x : Send} {a loc : Nat} (hx : s.sendAt n 0 = some x) (hnote : x.snote = some a)
    (hok : ¬(x.fault = true ∧ 2 ≤ x.verdict)) (hloc : s.sendLoc x a 8 3 = .ok loc) (hbad : s.badAt loc 8 = false) :
    (s.noteAdd n).mem = memPutBytes s.mem loc (natLe 8 ((memNat s.mem loc 8 + 1) % 2 ^ 64)) := by
  have hfault : (x.fault && decide (2 ≤ x.verdict)) = false := by
    rw [Bool.and_eq_false_iff, decide_eq_false_iff_not]
    exact (not_and_or.1 hok).imp_left Bool.eq_false_iff.2
  unfold State.noteAdd
  simp only [hx, hnote, hfault, hloc, hbad, Bool.false_eq_true, if_false]
  rw [mem_sendDone]
  exact (homeWrite_same ..).2

/-- A transferred line is performed at its place (14 R439). -/
theorem sendLine_eq {s : State} {x : StepArgs} {loc : Nat} (hdone : x.aux / 4 % 2 = 0) (hflag : x.flag = false)
    (hpast : ((s.takeFlits 3 (x.aux / 2 % 2)).recv x.unit).past x = false) (hpart : (tabFind (s.takeFlits 3 (x.aux / 2 % 2)).parts x.sub).isSome = true)
    (hloc : (s.takeFlits 3 (x.aux / 2 % 2)).farLoc x.sub x.addr 64 2 = .ok loc) :
    s.sendLine x = ((s.takeFlits 3 (x.aux / 2 % 2)).farWrite x.unit loc x.bytes).putRecv x.unit { no := x.xfer, line := x.line + 1, st := 1 } := by
  have hnone : (tabFind (s.takeFlits 3 (x.aux / 2 % 2)).parts x.sub).isNone = false := by
    rw [← Option.not_isSome, hpart]
    rfl
  have h1 : ¬ x.aux / 4 % 2 = 1 := by rw [hdone]; decide
  unfold State.sendLine
  simp only [if_neg h1, hpast, hnone, hloc, hflag, Bool.false_eq_true, if_false, Bool.not_false, if_true]
  rfl

theorem mem_farWrite (s : State) (pkg loc : Nat) (bs : List Byte) : (s.farWrite pkg loc bs).mem = memPutBytes s.mem loc bs := (homeWrite_same ..).2

/-! ### A partition that is being reset (13 R412) -/

theorem resetPart_acts {s : State} {p : Nat} (clear : Bool) (h : (s.part p).st ≠ 1) : let u := s.resetPart p clear true
    (u.part p).st = 1 ∧ (u.part p).busy = true ∧ (∀ x ∈ u.tasks, x.2.part ≠ p) ∧ (∀ x ∈ u.regions, x.2.part ≠ p) ∧
    (∀ x ∈ u.trees, x.1 / 65536 ≠ p) ∧ (∀ x ∈ u.rops, x.part ≠ p) ∧ (u.part p).pins = [] := by
  obtain ⟨w, q, heq, htasks, hregions, htrees, hrops, hst, hpins⟩ : ∃ (w : State) (q : Part), s.resetPart p clear true = (w.putPart p q).mailBusy p 6 ∧
      (∃ l : List (Nat × Machine.Task), w.tasks = l.filter fun x => x.2.part != p) ∧ (∃ l : List (Nat × Region), w.regions = l.filter fun x => x.2.part != p) ∧
      (∃ l : List (Nat × Tree), w.trees = l.filter fun x => x.1 / 65536 != p) ∧ (∃ l : List ROp, w.rops = l.filter fun x => x.part != p) ∧
      q.st = 1 ∧ q.pins = [] := ⟨_, _, if_neg h, ⟨_, rfl⟩, ⟨_, rfl⟩, ⟨_, rfl⟩, ⟨_, rfl⟩, rfl, rfl⟩
  obtain ⟨lt, ht⟩ := htasks
  obtain ⟨lr, hr⟩ := hregions
  obtain ⟨le, he⟩ := htrees
  obtain ⟨lo, ho⟩ := hrops
  have hpart : ((w.putPart p q).mailBusy p 6).part p = { q with busy := true, code := 6 } := by
    have hq : (w.putPart p q).part p = q := tabGet_tabPut_self ..
    rw [State.mailBusy, hq]
    exact tabGet_tabPut_self ..
  intro u
  have hu : u = (w.putPart p q).mailBusy p 6 := heq
  rw [hu, hpart]
  refine ⟨hst, rfl, fun x hx => ?_, fun x hx => ?_, fun x hx => ?_, fun x hx => ?_, hpins⟩
  · exact bne_iff_ne.1 (List.mem_filter.1 (ht ▸ hx : x ∈ lt.filter _)).2
  · exact bne_iff_ne.1 (List.mem_filter.1 (hr ▸ hx : x ∈ lr.filter _)).2
  · exact bne_iff_ne.1 (List.mem_filter.1 (he ▸ hx : x ∈ le.filter _)).2
  · exact bne_iff_ne.1 (List.mem_filter.1 (ho ▸ hx : x ∈ lo.filter _)).2

theorem fabricActs : FabricActs := by
  refine ⟨fun s ft hft => ⟨?_, rfl, rfl⟩, fun s => ⟨rfl, rfl, rfl, rfl, rfl⟩, fun s i st h => slotBoundary_acts h,
    fun s tid t h hst => acknowledged_acts h hst, fun s x loc hdone hflag hlen _ _ => ?_, fun s n x a loc hx hnote hok hloc hbad => ?_,
    fun s p clear h => resetPart_acts clear h⟩
  · show (s.ns + (ft + 2 ^ 64 - s.ns % 2 ^ 64) % 2 ^ 64) % 2 ^ 64 = ft
    omega
  · intro s1 hpast hpart hloc
    have hmem : (s.sendLine x).mem = memPutBytes s.mem loc x.bytes := by
      rw [sendLine_eq hdone hflag hpast hpart hloc]
      refine (mem_farWrite ..).trans ?_
      rw [takeFlits_form]
    rw [hmem, sendLine_eq hdone hflag hpast hpart hloc, ← hlen]
    exact ⟨memBytes_memPutBytes .., fun b hb => memByte_memPutBytes_out _ _ _ _ hb, tabGet_tabPut_self ..⟩
  · have hlen := length_natLe 8 ((memNat s.mem loc 8 + 1) % 2 ^ 64)
    rw [noteAdd_acts hx hnote hok hloc hbad]
    exact ⟨memNat_written .., fun b hb => memByte_memPutBytes_out _ _ _ _ (by rw [hlen]; exact hb)⟩

/-- Settles O51. -/
theorem outsideStepsTakeEffect : Obligations.OutsideStepsTakeEffect := by
  refine ⟨fun s r hr => ?_, fabricActs⟩
  rcases List.mem_append.1 hr with hr | hr
  · rcases List.mem_append.1 hr with hr | hr
    · exact (List.mem_append.1 hr).elim (fabricEvents_step s r) (commandEvents_step s r)
    · exact resetEvents_step s r hr
  · exact hostEvents_step s r hr

end Sys2Proof.Proofs

/-! Memory keeps its canonical form (notes/assumptions/8), part 1: memory under branches and folds, the entries of the tables, the memory
operations, and what the services write. An operation that leaves the memory as it is has an equation `mem_…`; one that writes it has a rule
`wf_…`. -/

namespace Sys2Proof.Machine.State

open Sys2Proof Sys2Proof.Machine Sys2Proof.Rules

variable {α β : Type} {s : State}

/-! ### Branches and folds -/

@[simp] theorem mem_ite {c : Prop} [Decidable c] (a b : State) : (if c then a else b).mem = if c then a.mem else b.mem := apply_ite ..

@[simp] theorem fst_mem_ite {c : Prop} [Decidable c] (a b : State × α) : (if c then a else b).1.mem = if c then a.1.mem else b.1.mem :=
  apply_ite (fun x : State × α => x.1.mem) c a b

@[simp] theorem snd_mem_ite {c : Prop} [Decidable c] (a b : α × State) : (if c then a else b).2.mem = if c then a.2.mem else b.2.mem :=
  apply_ite (fun x : α × State => x.2.mem) c a b

@[simp] theorem snd_snd_mem_ite {c : Prop} [Decidable c] (a b : α × β × State) :
    (if c then a else b).2.2.mem = if c then a.2.2.mem else b.2.2.mem :=
  apply_ite (fun x : α × β × State => x.2.2.mem) c a b

@[simp] theorem wf_ite {c : Prop} [Decidable c] (a b : Memory) : Memory.wf (if c then a else b) = if c then Memory.wf a else Memory.wf b :=
  apply_ite ..

/-- A fold keeps a property of its accumulator, when every step does. -/
theorem foldl_preserves {γ : Type} (P : γ → Prop) (f : γ → α → γ) (hf : ∀ u x, P u → P (f u x)) (l : List α) (z : γ) (h : P z) :
    P (l.foldl f z) := by
  induction l generalizing z with
  | nil => exact h
  | cons x l ih => exact ih _ (hf z x h)

@[simp] theorem mem_foldl_of (f : State → α → State) (l : List α) (hf : ∀ u x, (f u x).mem = u.mem) : (l.foldl f s).mem = s.mem :=
  Proofs.mem_foldl hf l s

@[simp] theorem wf_foldl (f : State → α → State) (l : List α) (hf : ∀ u x, Memory.wf u.mem → Memory.wf (f u x).mem) (h : Memory.wf s.mem) :
    Memory.wf (l.foldl f s).mem :=
  foldl_preserves (fun u => Memory.wf u.mem) f hf l s h

@[simp] theorem fst_wf_foldl (f : State × β → α → State × β) (l : List α) (z : State × β)
    (hf : ∀ u x, Memory.wf u.1.mem → Memory.wf (f u x).1.mem) (h : Memory.wf z.1.mem) : Memory.wf (l.foldl f z).1.mem :=
  foldl_preserves (fun u => Memory.wf u.1.mem) f hf l z h

/-! ### Entries of the tables

The equations that hold by unfolding are proved by `(rfl)`, so that `simp` rewrites with them as with the others. -/

@[simp] theorem mem_putCore (c k) : (s.putCore c k).mem = s.mem := (rfl)
@[simp] theorem mem_putTask (t k) : (s.putTask t k).mem = s.mem := (rfl)
@[simp] theorem mem_putDie (d k) : (s.putDie d k).mem = s.mem := (rfl)
@[simp] theorem mem_putPart (p k) : (s.putPart p k).mem = s.mem := (rfl)
@[simp] theorem mem_putRegion (r k) : (s.putRegion r k).mem = s.mem := (rfl)
@[simp] theorem mem_putSump (x k) : (s.putSump x k).mem = s.mem := (rfl)
@[simp] theorem mem_putTree (x k) : (s.putTree x k).mem = s.mem := (rfl)
@[simp] theorem mem_putPort (x k) : (s.putPort x k).mem = s.mem := (rfl)
@[simp] theorem mem_evict (line) : (s.evict line).mem = s.mem := (rfl)
@[simp] theorem mem_fillL2 (loc) : (s.fillL2 loc).mem = s.mem := (fillL2_same s loc).2
@[simp] theorem mem_placeCopy (cache loc n w r) : (s.placeCopy cache loc n w r).mem = s.mem := (rfl)
@[simp] theorem mem_serveRow (loc) : (s.serveRow loc).mem = s.mem := (rfl)

@[simp] theorem mem_loadLine (cluster pts loc n) : (s.loadLine cluster pts loc n).2.2.mem = s.mem := by
  unfold State.loadLine
  repeat' split
  all_goals simp

@[simp] theorem wf_writeLine (h : Memory.wf s.mem) (cluster pts loc bs) : Memory.wf (s.writeLine cluster pts loc bs).2.mem := by
  rw [(writeLine_same s cluster pts loc bs).2]
  exact memPutBytes_wf _ _ _ h

@[simp] theorem mem_loadAll (cluster pts : Nat) (a : List (Nat × Nat)) : (s.loadAll cluster pts a).2.2.mem = s.mem := by
  induction a generalizing s pts with
  | nil => rfl
  | cons y ys ih => exact (ih _).trans (mem_loadLine ..)

@[simp] theorem wf_writeAll (h : Memory.wf s.mem) (cluster pts : Nat) (bs : List Byte) (a : List (Nat × Nat)) :
    Memory.wf (s.writeAll cluster pts bs a).2.mem := by
  induction a generalizing s pts bs with
  | nil => exact h
  | cons y ys ih => exact ih (wf_writeLine h ..) _ _

@[simp] theorem mem_load (cluster pts loc n) : (s.load cluster pts loc n).2.2.mem = s.mem := by simp [State.load]

@[simp] theorem wf_store (h : Memory.wf s.mem) (cluster pts loc bs) : Memory.wf (s.store cluster pts loc bs).2.mem := by
  rw [(store_same s cluster pts loc bs).2]
  exact memPutBytes_wf _ _ _ h

@[simp] theorem mem_noteHeld (loc n) : (s.noteHeld loc n).mem = s.mem := (rfl)
@[simp] theorem mem_backInv (tid ls) : (s.backInv tid ls).mem = s.mem := (rfl)

@[simp] theorem mem_stopIssue (tid) : (s.stopIssue tid).mem = s.mem := by simp [State.stopIssue]

@[simp] theorem mem_takeTrap (tid x) : (s.takeTrap tid x).mem = s.mem := by simp [State.takeTrap]

@[simp] theorem mem_trapReturn (tid pc) : (s.trapReturn tid pc).mem = s.mem := (rfl)
@[simp] theorem mem_tick (n) : (s.tick n).mem = s.mem := (rfl)

@[simp] theorem wf_clusterWrite (h : Memory.wf s.mem) (cluster clk loc bs) : Memory.wf (s.clusterWrite cluster clk loc bs).2.mem := by
  simp [State.clusterWrite, h]

@[simp] theorem wf_homeWrite (h : Memory.wf s.mem) (clk loc bs) : Memory.wf (s.homeWrite clk loc bs).2.mem := (served_homeWrite ..).inv h

theorem wf_engWriteClk {u : State} {p clk a c : Nat} {bs : List Byte} (e : s.engWriteClk p clk a bs = some (c, u)) (h : Memory.wf s.mem) :
    Memory.wf u.mem :=
  (served_engWriteClk e).inv h

theorem wf_engWrite {u : State} {p clk a : Nat} {bs : List Byte} (e : s.engWrite p clk a bs = some u) (h : Memory.wf s.mem) : Memory.wf u.mem :=
  (served_engWrite e).inv h

@[simp] theorem wf_engWrite' (h : Memory.wf s.mem) (p a bs) : Memory.wf (s.engWrite' p a bs).mem := (served_engWrite' ..).inv h
@[simp] theorem wf_postEvent (h : Memory.wf s.mem) (p rec vec) : Memory.wf (s.postEvent p rec vec).mem := (served_postEvent ..).inv h
@[simp] theorem wf_logError (h : Memory.wf s.mem) (x) : Memory.wf (s.logError x).mem := (served_logError ..).inv h
@[simp] theorem wf_error (h : Memory.wf s.mem) (x) : Memory.wf (s.error x).mem := (served_error ..).inv h

@[simp] theorem wf_formatError (h : Memory.wf s.mem) (cause src p region core tid va) :
    Memory.wf (s.formatError cause src p region core tid va).mem :=
  (served_formatError ..).inv h

@[simp] theorem wf_engFormat (h : Memory.wf s.mem) (src p region core a) : Memory.wf (s.engFormat src p region core a).mem :=
  (served_engFormat ..).inv h

@[simp] theorem wf_pagesFormat (h : Memory.wf s.mem) (src p region core tid a n) : Memory.wf (s.pagesFormat src p region core tid a n).mem :=
  (served_pagesFormat ..).inv h

@[simp] theorem wf_structFormat (h : Memory.wf s.mem) (src p region a n) : Memory.wf (s.structFormat src p region a n).mem :=
  (served_structFormat ..).inv h

@[simp] theorem wf_svcWrite (h : Memory.wf s.mem) (src p region a bs) : Memory.wf (s.svcWrite src p region a bs).mem := (served_svcWrite ..).inv h
@[simp] theorem wf_svcRead (h : Memory.wf s.mem) (src p region a n) : Memory.wf (s.svcRead src p region a n).mem := (served_svcRead ..).inv h
@[simp] theorem wf_taskError (h : Memory.wf s.mem) (tid cls src tail) : Memory.wf (s.taskError tid cls src tail).mem := (served_taskError ..).inv h
@[simp] theorem mem_putBar (cluster b x) : (s.putBar cluster b x).mem = s.mem := (rfl)

theorem mem_barFill {tid key gen : Nat} {x : Nat × State} (e : s.barFill tid key gen = some x) : x.2.mem = s.mem := by
  simp only [State.barFill, Option.ite_none_left_eq_some, Option.some.injEq] at e
  obtain ⟨-, rfl⟩ := e
  rfl

@[simp] theorem mem_barWake (key tid p) : (s.barWake key tid p).mem = s.mem := by
  unfold State.barWake
  split
  · split
    · split
      · exact (mem_putTask ..).trans (mem_barFill ‹_›)
      · rfl
    · rfl
  · rfl

@[simp] theorem mem_setBar (cluster b x) : (s.setBar cluster b x).mem = s.mem := by simp [State.setBar]

end Sys2Proof.Machine.State

/-! Memory keeps its canonical form, part 2: a core's queues, its array and its copy engine. -/

namespace Sys2Proof.Machine.State

open Sys2Proof Sys2Proof.Machine Sys2Proof.Rules

variable {s : State}

@[simp] theorem wf_sliceError (h : Memory.wf s.mem) (core cls sl ch b15) : Memory.wf (s.sliceError core cls sl ch b15).mem := by
  unfold State.sliceError
  split <;> simp [h]

@[simp] theorem wf_markSlice (h : Memory.wf s.mem) (core sl b15) : Memory.wf (s.markSlice core sl b15).mem := by simp [State.markSlice, h]

@[simp] theorem mem_countSlice (core sl) : (s.countSlice core sl).mem = s.mem := (rfl)

@[simp] theorem wf_markAt (h : Memory.wf s.mem) (core sl b15) : Memory.wf (s.markAt core sl b15).mem := by simp [State.markAt, h]

@[simp] theorem wf_checkEvent (h : Memory.wf s.mem) (core tile owner x ret inj) : Memory.wf (s.checkEvent core tile owner x ret inj).mem := by
  unfold State.checkEvent
  extract_lets cls chs s1 cnt bits s2
  have h1 : Memory.wf s1.mem := by simpa [s1] using h
  have h2 : Memory.wf s2.mem := by
    unfold s2
    split
    · exact h1
    · exact wf_error h1 _
  split
  · exact h
  · exact wf_foldl _ _ (fun u _ hu => wf_markAt hu ..) h2

@[simp] theorem wf_kstepMerge (h : Memory.wf s.mem) (core e) : Memory.wf (s.kstepMerge core e).mem := by
  unfold State.kstepMerge
  dsimp only
  repeat' split
  all_goals simp [h]

@[simp] theorem mem_kstepStart (core e ha hb hm) : (s.kstepStart core e ha hb hm).mem = s.mem := (rfl)

@[simp] theorem wf_remapSlices (h : Memory.wf s.mem) (core cd due) : Memory.wf (s.remapSlices core cd due).mem := by
  refine wf_foldl _ _ (fun u x hu => ?_) h
  dsimp only
  split
  · exact hu
  · split <;> exact wf_sliceError (by simpa using hu) ..

@[simp] theorem wf_doPiece (h : Memory.wf s.mem) (t k data p) : Memory.wf (s.doPiece t k data p).2.2.mem := by
  unfold State.doPiece
  split <;> simp [h]

@[simp] theorem wf_doPieces (h : Memory.wf s.mem) (t : Task) (k : LsKind) (data : List Byte) (ps : List (Nat × Nat)) :
    Memory.wf (s.doPieces t k data ps).2.2.mem := by
  induction ps generalizing s t data with
  | nil => exact h
  | cons p ps ih => exact ih (wf_doPiece h ..) ..

@[simp] theorem wf_lsPiece (h : Memory.wf s.mem) (tid a p) : Memory.wf (s.lsPiece tid a p).2.mem := by
  unfold State.lsPiece
  dsimp only
  repeat' split
  all_goals simp [h]

@[simp] theorem wf_lsPieces (h : Memory.wf s.mem) (tid : Nat) (a : LsAcc) (ps : List (Nat × Nat)) : Memory.wf (s.lsPieces tid a ps).mem := by
  induction ps generalizing s a with
  | nil => exact h
  | cons p ps ih => exact ih (wf_lsPiece h ..) _

@[simp] theorem wf_lsSend (h : Memory.wf s.mem) (tid) : Memory.wf (s.lsSend tid).mem := by
  unfold State.lsSend
  dsimp only
  repeat' split
  all_goals simp [h]

@[simp] theorem mem_ofillRow (core a) : (s.ofillRow core a).mem = s.mem := by simp [State.ofillRow]

@[simp] theorem mem_release (tid hd) : (s.release tid hd).mem = s.mem := by
  unfold State.release
  extract_lets
  split <;> simp

@[simp] theorem mem_fillLoad (t loc n) : (s.fillLoad t loc n).2.2.mem = s.mem := by simp [State.fillLoad]

@[simp] theorem mem_mcastArrive (core q k) : (s.mcastArrive core q k).mem = s.mem := Proofs.mem_mcastArrive ..
@[simp] theorem mem_endCopy (core q x) : (s.endCopy core q x).mem = s.mem := Proofs.mem_endCopy ..

@[simp] theorem mem_cancelCopy (core q) : (s.cancelCopy core q).mem = s.mem := by
  unfold State.cancelCopy
  split <;> simp

@[simp] theorem wf_copyRecordRead (h : Memory.wf s.mem) (core q) : Memory.wf (s.copyRecordRead core q).mem := by
  unfold State.copyRecordRead
  dsimp only
  repeat' split
  all_goals simp [h]

@[simp] theorem mem_selectRead (core q) : (s.selectRead core q).mem = s.mem := by
  unfold State.selectRead
  dsimp only
  repeat' split
  all_goals simp

@[simp] theorem mem_faultReq (core part va access cause x) : (s.faultReq core part va access cause x).mem = s.mem := (rfl)

@[simp] theorem wf_copyFault (h : Memory.wf s.mem) (core q cause a write) : Memory.wf (s.copyFault core q cause a write).mem := by
  unfold State.copyFault
  extract_lets
  split <;> simp [h]

@[simp] theorem mem_serve (core q) : (s.serve core q).mem = s.mem := (rfl)
@[simp] theorem mem_copyAdvance (core q n written) : (s.copyAdvance core q n written).mem = s.mem := Proofs.mem_copyAdvance ..

theorem mem_copySource {core : Nat} {c : Cmd} {t : Task} {iter : Nat} {u : CUnit} {x : List Byte × Nat × State}
    (e : s.copySource core c t iter u = .ok x) :
    x.2.2.mem = s.mem := by
  unfold State.copySource at e
  extract_lets r i1 src runs rs at e
  split at e
  · cases e
    rfl
  split at e
  · cases e
  split at e
  · cases e
  split at e
  · cases e
  split at e
  · cases e
  split at e
  · cases e
  · cases e
    exact mem_loadAll ..

@[simp] theorem mem_addDigest (tid a bs) : (s.addDigest tid a bs).mem = s.mem := by simp [State.addDigest]

@[simp] theorem wf_copyPut (h : Memory.wf s.mem) (core q c scale a clk ps bs) : Memory.wf (s.copyPut core q c scale a clk ps bs).2.mem := by
  unfold State.copyPut
  split <;> simp [h]

/-- A unit's bytes come from the buffer of a multicast or from its source; the memory is as it was. -/
theorem mem_ofSource {core clk : Nat} {c : Cmd} {t : Task} {iter : Nat} {u : CUnit} {b : Option (List Byte)} {x : List Byte × Nat × State}
    (e : (match b with | some bs => .ok (bs, clk, s) | none => s.copySource core c t iter u : Except CopyBad (List Byte × Nat × State)) = .ok x) :
    x.2.2.mem = s.mem := by
  cases b with
  | some bs =>
    cases e
    rfl
  | none => exact mem_copySource e

@[simp] theorem wf_copySector (h : Memory.wf s.mem) (core q target) : Memory.wf (s.copySector core q target).mem := by
  unfold State.copySector
  dsimp only
  split
  · exact h
  split
  · simp [h]
  split
  · split
    · simp [h]
    · split <;> simp [h]
  · rename_i s1 hgot
    have h1 : Memory.wf s1.mem := (mem_ofSource hgot).symm ▸ h
    repeat' split
    all_goals simp [h, h1]

@[simp] theorem mem_copyResolve (core q) : (s.copyResolve core q).mem = s.mem := by
  unfold State.copyResolve
  extract_lets
  split <;> simp

@[simp] theorem wf_writeRecord (h : Memory.wf s.mem) (cluster tid ch c x) : Memory.wf (s.writeRecord cluster tid ch c x).mem := by
  simp [State.writeRecord, h]

@[simp] theorem wf_copyComplete (h : Memory.wf s.mem) (core q) : Memory.wf (s.copyComplete core q).mem := by
  unfold State.copyComplete
  dsimp only
  repeat' split
  all_goals simp [h]

@[simp] theorem mem_ringsFollow : (s.ringsFollow).mem = s.mem := by simp [State.ringsFollow]

@[simp] theorem wf_abandonCopy (h : Memory.wf s.mem) (core q) : Memory.wf (s.abandonCopy core q).mem := by
  unfold State.abandonCopy
  split <;> simp [h]

end Sys2Proof.Machine.State

/-! Memory keeps its canonical form, part 3: pins, records, regions and the fault service. -/

namespace Sys2Proof.Machine.State

open Sys2Proof Sys2Proof.Machine Sys2Proof.Rules

variable {s : State}

@[simp] theorem mem_invalidate (p lo len) : (s.invalidate p lo len).mem = s.mem := (rfl)

@[simp] theorem wf_pinRange (h : Memory.wf s.mem) (r lo len) : Memory.wf (s.pinRange r lo len).1.mem := by
  unfold State.pinRange
  extract_lets
  split <;> simp [h]

@[simp] theorem mem_sweepPins (p) : (s.sweepPins p).mem = s.mem := by simp [State.sweepPins]

@[simp] theorem mem_unpinFrom (r stop n va st : Nat) : (s.unpinFrom r stop n va st).1.mem = s.mem := by
  induction n generalizing s va st with
  | zero => rfl
  | succ n ih =>
    unfold State.unpinFrom
    dsimp only
    split
    · rfl
    split
    · split
      · exact ih ..
      · exact ih ..
    · exact ih ..

@[simp] theorem mem_unpinRange (r lo len) : (s.unpinRange r lo len).1.mem = s.mem := by simp [State.unpinRange]

@[simp] theorem mem_dropPins (r) : (s.dropPins r).mem = s.mem := by simp [State.dropPins]

@[simp] theorem wf_putRcb (h : Memory.wf s.mem) (r off n v) : Memory.wf (s.putRcb r off n v).mem := (served_putRcb ..).inv h
@[simp] theorem wf_writeUsage (h : Memory.wf s.mem) (r) : Memory.wf (s.writeUsage r).mem := (served_writeUsage ..).inv h

@[simp] theorem mem_moveDraws (core r) : (s.moveDraws core r).mem = s.mem := by
  unfold State.moveDraws
  dsimp only
  repeat' split
  all_goals simp

@[simp] theorem wf_joinUpdate (h : Memory.wf s.mem) (part r core tid addr addend clk) :
    Memory.wf (s.joinUpdate part r core tid addr addend clk).mem := by
  unfold State.joinUpdate
  repeat' split
  all_goals simp [h]

@[simp] theorem wf_discardRec (h : Memory.wf s.mem) (r x) : Memory.wf (s.discardRec r x).mem := by simp [State.discardRec, h]

@[simp] theorem mem_leaveCore (tid) : (s.leaveCore tid).mem = s.mem := (rfl)

@[simp] theorem mem_firingDone (f) : (s.firingDone f).mem = s.mem := by
  unfold State.firingDone
  dsimp only
  repeat' split
  all_goals simp

@[simp] theorem wf_settleRuns (h : Memory.wf s.mem) (x kill) : Memory.wf (s.settleRuns x kill).mem := by simp [State.settleRuns, h]

@[simp] theorem wf_settleCut (h : Memory.wf s.mem) (twin) : Memory.wf (s.settleCut twin).mem := by
  unfold State.settleCut
  extract_lets
  split <;> simp [h]

@[simp] theorem wf_finishTask (h : Memory.wf s.mem) (tid cause killed) : Memory.wf (s.finishTask tid cause killed).mem := by
  unfold State.finishTask
  extract_lets t clk join s1 s2 s3 s4 g s5 s6
  have h1 : Memory.wf s1.mem := by
    unfold s1
    split
    · exact wf_joinUpdate h ..
    · exact h
  have h4 : Memory.wf s4.mem := wf_settleCut (by simp [s3, s2, h1]) _
  have h5 : Memory.wf s5.mem := by
    unfold s5
    split <;> exact h4
  exact wf_writeUsage (by simp [s6, h5]) _

@[simp] theorem wf_abandonSaved (h : Memory.wf s.mem) (t q) : Memory.wf (s.abandonSaved t q).mem := by
  unfold State.abandonSaved
  extract_lets bs s0 ch
  have h0 : Memory.wf s0.mem := wf_svcRead h ..
  split
  · exact h0
  extract_lets x sr b s1 s2
  have h1 : Memory.wf s1.mem := by
    unfold s1
    split
    · have hr : Memory.wf sr.mem := wf_svcRead h0 ..
      split
      · split
        · simpa using hr
        · exact hr
      · exact hr
    · exact h0
  have h2 : Memory.wf s2.mem := h1
  split
  · exact h2
  · exact wf_writeRecord h2 ..

@[simp] theorem mem_forceRelease (p) : (s.forceRelease p).mem = s.mem := by
  refine mem_foldl_of _ _ fun u x => ?_
  rfl

@[simp] theorem mem_forceGiveUp (p tid) : (s.forceGiveUp p tid).mem = s.mem := by simp [State.forceGiveUp]

@[simp] theorem wf_drainLs (h : Memory.wf s.mem) (tid) : Memory.wf (s.drainLs tid).mem := by
  unfold State.drainLs
  extract_lets s1
  refine wf_foldl (s := s) _ _ (fun u a hu => ?_) h
  split
  · exact hu
  · exact wf_lsPieces (by simp [hu]) ..
  · exact wf_lsPieces (by simp [hu]) ..
  · exact wf_lsPieces hu ..

@[simp] theorem wf_mergeStarted (h : Memory.wf s.mem) (core tid) : Memory.wf (s.mergeStarted core tid).mem := by
  simp +contextual [State.mergeStarted, h]

@[simp] theorem mem_unpinArea (t) : (s.unpinArea t).mem = s.mem := by simp [State.unpinArea]

@[simp] theorem wf_killTask (h : Memory.wf s.mem) (tid cause) : Memory.wf (s.killTask tid cause).mem := by
  unfold State.killTask
  split
  · exact h
  rename_i t0 _
  extract_lets s1 t qs s1' s2 s3 s3'
  have h1 : Memory.wf s1.mem := by simp [s1, apply_ite, h]
  have h1' : Memory.wf s1'.mem := by simp [s1', h1]
  have h2 : Memory.wf s2.mem := wf_foldl _ _ (fun u q hu => by simp [hu]) h1'
  exact wf_finishTask (by simpa using h2) ..

@[simp] theorem mem_freezeTask (tid late) : (s.freezeTask tid late).mem = s.mem := by simp [State.freezeTask]

@[simp] theorem wf_saveTask (h : Memory.wf s.mem) (tid area) : Memory.wf (s.saveTask tid area).mem := by
  unfold State.saveTask
  extract_lets t pin s1 s2 kept t1
  have h1 : Memory.wf s1.mem := wf_engWrite' (wf_pinRange h ..) ..
  exact wf_writeUsage (by simpa [s2] using h1) _

@[simp] theorem wf_installSaved (h : Memory.wf s.mem) (tid core) : Memory.wf (s.installSaved tid core).mem := by
  unfold State.installSaved
  extract_lets t kill
  have hkill : Memory.wf kill.mem := wf_killTask (wf_error (wf_svcRead h ..) _) ..
  split
  · exact hkill
  split
  · exact hkill
  extract_lets t1 hs as k1 k2 pts k3 n k4 t2 s1 s2 s3
  have h2 : s2.mem = s.mem := by
    unfold s2
    split <;> rfl
  have h3 : s3.mem = s2.mem := by
    refine mem_foldl_of _ _ fun u q => ?_
    dsimp only
    split
    · split
      · rfl
      · split <;> rfl
    · rfl
  exact wf_writeUsage (by simp [h3, h2, h]) _

/-- A word of a saved task's masks is rewritten, or its fault reported. -/
theorem wf_savedBits (h : Memory.wf s.mem) (o : Option (List Byte)) (part r a n : Nat) (f : List Byte → List Byte) :
    Memory.wf (match o with | some b => s.svcWrite 3 part r a (f b) | none => s.svcRead 3 part r a n).mem := by
  cases o with
  | none => exact wf_svcRead h ..
  | some b => exact wf_svcWrite h ..

@[simp] theorem wf_fillTask (h : Memory.wf s.mem) (tid p vals) : Memory.wf (s.fillTask tid p vals).mem := by
  unfold State.fillTask
  extract_lets t s1
  split
  · exact h
  refine wf_foldl _ _ (fun u x hu => ?_) (s := s1) h
  split
  · exact hu
  · exact wf_savedBits (wf_svcWrite hu ..) _ _ _ _ _ fun b => natLe 8 _
  · exact wf_savedBits (wf_svcWrite hu ..) _ _ _ _ _ fun b => natLe 16 _
  · exact hu

@[simp] theorem wf_failTask (h : Memory.wf s.mem) (tid p) : Memory.wf (s.failTask tid p).mem := by
  unfold State.failTask
  extract_lets t s1
  split
  · exact h
  refine wf_foldl _ _ (fun u x hu => ?_) (s := s1) h
  split
  · exact hu
  · exact wf_savedBits hu _ _ _ _ _ fun b => natLe 8 _
  · exact wf_savedBits hu _ _ _ _ _ fun b => natLe 16 _
  · exact hu

@[simp] theorem mem_invRange (p lo len) : (s.invRange p lo len).1.mem = s.mem := (rfl)

@[simp] theorem mem_forcePark (p lo len tid) : (s.forcePark p lo len tid).mem = s.mem := by simp [State.forcePark]

@[simp] theorem mem_forceInv (p lo len core tid) : (s.forceInv p lo len core tid).mem = s.mem := by simp [State.forceInv]

@[simp] theorem wf_forcedPage (h : Memory.wf s.mem) (p core va verdict) : Memory.wf (s.forcedPage p core va verdict).mem := by
  unfold State.forcedPage
  dsimp only
  repeat' split
  all_goals simp [h]

theorem wf_tabClear {m : Memory} (h : Memory.wf m) (lo n : Nat) : Memory.wf (tabClear m lo n) := filter_wf _ _ h

@[simp] theorem wf_grant (h : Memory.wf s.mem) (r x) : Memory.wf (s.grant r x).mem := by
  obtain ⟨banks, alcs, bars, sumps⟩ := x
  unfold State.grant
  exact wf_foldl _ _ (fun _ _ hu => hu) (wf_foldl _ _ (fun _ _ hu => hu) (wf_foldl _ _ (fun _ _ hu => hu)
    (wf_foldl _ _ (fun _ _ hu => wf_tabClear hu ..) h)))

@[simp] theorem mem_ungrant (r) : (s.ungrant r).mem = s.mem := (rfl)

@[simp] theorem wf_createRegion (h : Memory.wf s.mem) (p issuer addr) : Memory.wf (s.createRegion p issuer addr).1.mem := by
  have hgrant (key g gr) : Memory.wf ((((s.putRegion key g).grant key gr).putRcb key 21 1 0).writeUsage key).mem :=
    wf_writeUsage (wf_putRcb (wf_grant (by simpa using h) ..) ..) _
  unfold State.createRegion
  dsimp only
  repeat' split
  all_goals simp [h, hgrant]

@[simp] theorem wf_reloadRegion (h : Memory.wf s.mem) (r) : Memory.wf (s.reloadRegion r).1.mem := by
  unfold State.reloadRegion
  dsimp only
  repeat' split
  all_goals simp [h]

@[simp] theorem wf_launchHead (h : Memory.wf s.mem) (r n : Nat) : Memory.wf (s.launchHead r n).mem := by
  induction n generalizing s with
  | zero => exact h
  | succ n ih =>
    unfold State.launchHead
    extract_lets g a reject
    split
    · exact h
    have hreject : ∀ u : State, Memory.wf u.mem → Memory.wf (reject u).mem := fun u hu => ih (wf_error (wf_putRcb (by simpa using hu) ..) _)
    split
    · exact hreject _ (wf_engFormat h ..)
    split
    · exact hreject _ (wf_error h _)
    split
    · exact hreject _ h
    · split
      · exact h
      · exact hreject _ h

@[simp] theorem wf_doorbell (h : Memory.wf s.mem) (r clk) : Memory.wf (s.doorbell r clk).mem := by
  unfold State.doorbell
  extract_lets
  split <;> simp [h]

@[simp] theorem wf_launchTaken (h : Memory.wf s.mem) (r) : Memory.wf (s.launchTaken r).mem := by simp [State.launchTaken, h]

@[simp] theorem mem_requestPreempt (tid) : (s.requestPreempt tid).mem = s.mem := by simp [State.requestPreempt]

@[simp] theorem wf_ctlstatAt (h : Memory.wf s.mem) (p r addr fn st) : Memory.wf (s.ctlstatAt p r addr fn st).mem := by simp [State.ctlstatAt, h]

@[simp] theorem wf_killOrMark (h : Memory.wf s.mem) (tid) : Memory.wf (s.killOrMark tid).mem := by simp [State.killOrMark, h]

@[simp] theorem wf_cutRuns (h : Memory.wf s.mem) (r) : Memory.wf (s.cutRuns r).mem := by
  refine wf_foldl _ _ (fun u x hu => ?_) h
  split
  · exact hu
  split
  · split
    · exact hu
    · exact wf_settleRuns hu ..
  · exact hu

@[simp] theorem wf_discardQueues (h : Memory.wf s.mem) (r) : Memory.wf (s.discardQueues r).mem := by
  unfold State.discardQueues
  extract_lets mine fired recs s1 s1' s2
  have h1 : Memory.wf s1.mem := wf_foldl _ _ (fun u x hu => by simp [hu]) h
  exact h1

@[simp] theorem mem_purgeSumps (r) : (s.purgeSumps r).mem = s.mem := (rfl)

@[simp] theorem wf_skipList (h : Memory.wf s.mem) (r) : Memory.wf (s.skipList r).mem := by
  unfold State.skipList
  dsimp only
  split
  · exact wf_svcRead (by simpa using h) ..
  · refine wf_putRcb ?_ ..
    rw [mem_putRegion]
    refine wf_foldl _ _ (fun u i hu => ?_) h
    split
    · exact wf_discardRec hu ..
    · exact wf_svcRead hu ..

@[simp] theorem mem_waitAnew (r) : (s.waitAnew r).mem = s.mem := (rfl)

@[simp] theorem wf_resumeRegion (h : Memory.wf s.mem) (r) : Memory.wf (s.resumeRegion r).mem := by
  unfold State.resumeRegion
  extract_lets g s0 s1
  have h0 : Memory.wf s0.mem := wf_putRcb (by simpa using h) ..
  have h1 : Memory.wf s1.mem := by simp [s1, h0]
  refine wf_foldl _ _ (fun u tid hu => ?_) h1
  dsimp only
  split <;> exact hu

@[simp] theorem wf_startDestroy (h : Memory.wf s.mem) (r) : Memory.wf (s.startDestroy r).mem := by
  unfold State.startDestroy
  extract_lets s1 s2
  have h1 : Memory.wf s1.mem := wf_cutRuns (wf_foldl _ _ (fun u tid hu => wf_killOrMark hu _) h) _
  have h2 : Memory.wf s2.mem := wf_skipList (wf_discardQueues h1 _) _
  simpa using h2

@[simp] theorem wf_endDestroy (h : Memory.wf s.mem) (r) : Memory.wf (s.endDestroy r).mem := by simp [State.endDestroy, h]

@[simp] theorem mem_mailDone (p code st) : (s.mailDone p code st).mem = s.mem := (rfl)

@[simp] theorem wf_finishWaiting (h : Memory.wf s.mem) (r) : Memory.wf (s.finishWaiting r).mem := by
  refine wf_foldl _ _ (fun u w hu => ?_) h
  extract_lets left g keep s0 s1
  have h0 : Memory.wf (if w.1 = 1 then s0.endDestroy r else s0).mem := by simp [s0, hu]
  have h1 : Memory.wf s1.mem := wf_ctlstatAt h0 ..
  split
  · split
    · exact h1
    · exact h1
  · exact hu

@[simp] theorem wf_request (h : Memory.wf s.mem) (fn r b clk) : Memory.wf (s.request fn r b clk).1.mem := by
  unfold State.request
  extract_lets g
  split
  · split
    · exact h
    · exact wf_startDestroy h _
  · exact wf_doorbell h ..
  · simp [h]
  · exact (mem_foldl_of _ _ fun u t => mem_requestPreempt t).symm ▸ wf_putRcb (by simpa using h) ..
  · exact wf_resumeRegion h _
  · refine wf_foldl _ _ (fun u x hu => ?_) (wf_foldl _ _ (fun u x hu => wf_cutRuns hu x) (wf_foldl _ _ (fun u t hu => wf_killOrMark hu t) h))
    simp [hu]
  · exact wf_reloadRegion h _
  · split
    · exact wf_engWrite ‹_› h
    · exact wf_structFormat h ..

@[simp] theorem wf_rgnctl (h : Memory.wf s.mem) (p issuer fn a b clk) : Memory.wf (s.rgnctl p issuer fn a b clk).1.mem := by simp [State.rgnctl, h]

@[simp] theorem wf_killDomain (h : Memory.wf s.mem) (dk) : Memory.wf (s.killDomain dk).mem := by
  unfold State.killDomain
  extract_lets rs s1
  have h1 : Memory.wf s1.mem := by
    refine wf_foldl _ _ (fun u r hu => ?_) h
    exact wf_cutRuns (wf_foldl _ _ (fun v t hv => wf_killTask (by simpa using hv) ..) hu) _
  exact wf_foldl _ _ (fun u r hu => wf_putRcb (by simpa using hu) ..) h1

@[simp] theorem wf_slotOpen (h : Memory.wf s.mem) (die) : Memory.wf (s.slotOpen die).mem := by
  unfold State.slotOpen
  dsimp only
  repeat' split
  all_goals simp [h]

@[simp] theorem mem_refuseFar (line a reason) : (s.refuseFar line a reason).mem = s.mem := (rfl)

@[simp] theorem wf_tell (h : Memory.wf s.mem) (p core v r) : Memory.wf (s.tell p core v r).mem := by
  unfold State.tell
  dsimp only
  repeat' split
  all_goals simp [h]

@[simp] theorem wf_slotClose (h : Memory.wf s.mem) (die n) : Memory.wf (s.slotClose die n).mem := by
  unfold State.slotClose
  dsimp only
  repeat' split
  all_goals simp +contextual [h]

@[simp] theorem wf_trapKill (h : Memory.wf s.mem) (tid) : Memory.wf (s.trapKill tid).mem := by simp [State.trapKill, h]

@[simp] theorem wf_doubleFault (h : Memory.wf s.mem) (tid) : Memory.wf (s.doubleFault tid).mem := by
  unfold State.doubleFault
  extract_lets t g q a rec_ s1 s2 s3 s4
  have h1 : Memory.wf s1.mem := wf_error h _
  have h2 : Memory.wf s2.mem := by simp [s2, h1]
  have h3 : Memory.wf s3.mem := wf_foldl _ _ (fun u x hu => wf_logError hu _) h2
  exact wf_foldl _ _ (fun u x hu => wf_killTask hu ..) h3

@[simp] theorem wf_applyAction (h : Memory.wf s.mem) (tid action) : Memory.wf (s.applyAction tid action).mem := by
  unfold State.applyAction
  split <;> simp [h]

@[simp] theorem wf_trapAction (h : Memory.wf s.mem) (tid) : Memory.wf (s.trapAction tid).mem := by simp [State.trapAction, h]

@[simp] theorem wf_replayResume (h : Memory.wf s.mem) (tid never) : Memory.wf (s.replayResume tid never).mem := by simp [State.replayResume, h]

@[simp] theorem mem_forward (r) : (s.forward r).mem = s.mem := by
  unfold State.forward
  extract_lets
  split <;> simp

@[simp] theorem wf_dispose (h : Memory.wf s.mem) (handler disp target) : Memory.wf (s.dispose handler disp target).mem := by
  unfold State.dispose
  dsimp only
  repeat' split
  all_goals simp [h]

@[simp] theorem mem_takeRedo (tid) : (s.takeRedo tid).mem = s.mem := by
  unfold State.takeRedo
  split <;> simp

end Sys2Proof.Machine.State

/-! Memory keeps its canonical form, part 4: sumps, prefetches, tasks and their start. -/

namespace Sys2Proof.Machine.State

open Sys2Proof Sys2Proof.Machine Sys2Proof.Rules

variable {s : State}

@[simp] theorem wf_spill (h : Memory.wf s.mem) (x arr) : Memory.wf (s.spill x arr).mem := by simp [State.spill, h]

@[simp] theorem wf_sumpAdmit (h : Memory.wf s.mem) (die) : Memory.wf (s.sumpAdmit die).mem := by
  unfold State.sumpAdmit
  dsimp only
  repeat' split
  all_goals simp [h]

@[simp] theorem wf_entryLost (h : Memory.wf s.mem) (id) : Memory.wf (s.entryLost id).mem := by simp [State.entryLost, h]

@[simp] theorem wf_moveIn (h : Memory.wf s.mem) (id f n : Nat) : Memory.wf (s.moveIn id f n).mem := by
  induction f generalizing s n with
  | zero => exact h
  | succ f ih =>
    unfold State.moveIn
    dsimp only
    split
    · exact h
    split
    · exact ih (wf_entryLost (by simpa using h) _) _
    · exact ih (wf_svcRead h ..) _

@[simp] theorem wf_storeError (h : Memory.wf s.mem) (id) : Memory.wf (s.storeError id).mem := by
  unfold State.storeError
  dsimp only
  split
  · exact wf_moveIn (wf_entryLost (by simpa using h) _) ..
  · exact h

/-- An engine's write, or the state as it was where a page of it is missing. -/
theorem wf_engWriteClk_getD (h : Memory.wf s.mem) (p clk a c : Nat) (bs : List Byte) : Memory.wf ((s.engWriteClk p clk a bs).getD (c, s)).2.mem := by
  cases e : s.engWriteClk p clk a bs with
  | none => exact h
  | some x => exact wf_engWriteClk e h

@[simp] theorem wf_fireEntries (h : Memory.wf s.mem) (id) : Memory.wf (s.fireEntries id).mem := by
  unfold State.fireEntries
  dsimp only
  split
  · refine wf_error ?_ _
    rw [mem_putSump]
    split
    · exact wf_engFormat h ..
    · exact h
  · rw [mem_putSump]
    refine wf_moveIn ?_ ..
    rw [mem_putSump, mem_putDie]
    exact wf_joinUpdate (wf_engWriteClk_getD (wf_engWriteClk_getD h ..) ..) ..

@[simp] theorem wf_fire (h : Memory.wf s.mem) (id) : Memory.wf (s.fire id).mem := by
  unfold State.fire
  extract_lets s1
  have h1 : Memory.wf s1.mem := by
    unfold s1
    split
    · exact wf_storeError h _
    · exact h
  clear_value s1
  split
  · rwa [mem_putSump]
  · exact wf_fireEntries h1 _

@[simp] theorem wf_firingDecision (h : Memory.wf s.mem) (die) : Memory.wf (s.firingDecision die).mem := by
  unfold State.firingDecision
  dsimp only
  repeat' split
  all_goals simp +contextual [h]

@[simp] theorem wf_sumpConfig (h : Memory.wf s.mem) (r id fn desc) : Memory.wf (s.sumpConfig r id fn desc).1.mem := by
  unfold State.sumpConfig
  repeat' split
  all_goals simp [h]

@[simp] theorem mem_sumpFlush (id) : (s.sumpFlush id).mem = s.mem := by
  unfold State.sumpFlush
  extract_lets
  split <;> simp

@[simp] theorem mem_prefetchLine (x loc n) : (s.prefetchLine x loc n).mem = s.mem := by simp [State.prefetchLine]

@[simp] theorem wf_prefetchUnit (h : Memory.wf s.mem) (die) : Memory.wf (s.prefetchUnit die).mem := by
  unfold State.prefetchUnit
  dsimp only
  repeat' split
  all_goals simp [h]

@[simp] theorem wf_startTask (h : Memory.wf s.mem) (x core run twin) : Memory.wf (s.startTask x core run twin).mem := by simp [State.startTask, h]

@[simp] theorem mem_anew (die w) : (s.anew die w).mem = s.mem := by
  unfold State.anew
  split <;> simp

@[simp] theorem wf_takeFrom (h : Memory.wf s.mem) (die w) : Memory.wf (s.takeFrom die w).mem := by
  unfold State.takeFrom
  split <;> simp [h]

@[simp] theorem wf_turnTaken (h : Memory.wf s.mem) (die r) : Memory.wf (s.turnTaken die r).mem := by simp [State.turnTaken, h]

@[simp] theorem wf_placeRec (h : Memory.wf s.mem) (die w) : Memory.wf (s.placeRec die w).mem := by
  have h0 : Memory.wf (s.turnTaken die w.r).mem := wf_turnTaken h ..
  unfold State.placeRec
  dsimp only
  split
  · exact wf_takeFrom (wf_startTask h0 ..) ..
  · exact wf_takeFrom (wf_startTask (wf_startTask h0 ..) ..) ..
  · exact h

@[simp] theorem wf_fork (h : Memory.wf s.mem) (tid b addr) : Memory.wf (s.fork tid b addr).mem := by
  unfold State.fork
  dsimp only
  repeat' split
  all_goals simp [h]

@[simp] theorem wf_tileRefill (h : Memory.wf s.mem) (core r) : Memory.wf (s.tileRefill core r).mem := by
  unfold State.tileRefill
  extract_lets g k d put b fail
  have hput (u : State) (x) : (put u x).mem = u.mem := mem_putCore ..
  have hfail (u : State) (a) (hu : Memory.wf u.mem) : Memory.wf (fail u a).mem := wf_error hu _
  split
  · exact wf_engFormat (hfail _ _ (by simpa [hput] using h)) ..
  split
  · exact hfail _ _ (by simpa [hput] using h)
  · refine wf_foldl _ _ (fun u x hu => wf_svcRead (hfail _ _ hu) ..) ?_
    rw [hput]
    exact wf_homeWrite h ..

theorem mem_draw {core r : Nat} {x : Nat × State} (e : s.draw core r = some x) : x.2.mem = s.mem := by
  unfold State.draw at e
  dsimp only at e
  split at e
  · cases e
    rfl
  split at e
  · cases e
    rfl
  · cases e

theorem mem_drawAny {die r : Nat} {x : Nat × State} (e : s.drawAny die r = some x) : x.2.mem = s.mem := by
  unfold State.drawAny at e
  dsimp only at e
  split at e
  · cases e
    rfl
  · obtain ⟨b, -, hb⟩ := Option.bind_eq_some_iff.1 e
    exact mem_draw hb

/-- What a NEXT takes: a value drawn, or the end of a dry source. -/
theorem mem_drawn {o : Option (Nat × State)} {dry : Prop} [Decidable dry] {x : W64 × State}
    (e : (match o with | some (v, s1) => some (BitVec.ofNat 64 v, s1) | none => if dry then some (exhausted, s) else none) = some x)
    (ho : ∀ y, o = some y → y.2.mem = s.mem) : x.2.mem = s.mem := by
  cases o with
  | some y =>
    cases e
    exact ho y rfl
  | none =>
    obtain ⟨-, hx⟩ := Option.ite_none_right_eq_some.1 e
    cases hx
    rfl

theorem mem_serveNext {tid at_ : Nat} {left : Bool} {x : W64 × State} (e : s.serveNext tid at_ left = some x) : x.2.mem = s.mem := by
  unfold State.serveNext at e
  dsimp only at e
  split at e
  · exact mem_drawn e fun y hy => mem_drawAny hy
  split at e
  · exact mem_drawn e fun y hy => mem_draw hy
  · cases e

@[simp] theorem mem_serveWaiting (die r) : (s.serveWaiting die r).mem = s.mem := by
  refine mem_foldl_of _ _ fun u x => ?_
  split
  · exact (mem_putTask ..).trans (mem_serveNext ‹_›)
  · rfl

@[simp] theorem wf_undefine (h : Memory.wf s.mem) (part as) : Memory.wf (s.undefine part as).mem := by
  simp +contextual [State.undefine, h]

@[simp] theorem wf_redunCompare (h : Memory.wf s.mem) (twin) : Memory.wf (s.redunCompare twin).mem := by
  unfold State.redunCompare
  split
  · split
    · exact wf_settleRuns h ..
    · split
      · exact wf_startTask h ..
      · exact h
  · dsimp only
    split
    · exact wf_error (wf_undefine (wf_settleRuns h ..) ..) _
    · exact wf_error (wf_settleRuns h ..) _
  · exact h

end Sys2Proof.Machine.State

/-! Memory keeps its canonical form, part 5: trees. -/

namespace Sys2Proof.Machine.State

open Sys2Proof Sys2Proof.Machine Sys2Proof.Rules

variable {s : State}

@[simp] theorem mem_emit (x) : (s.emit x).mem = s.mem := (rfl)

@[simp] theorem wf_treeCreate (h : Memory.wf s.mem) (r addr) : Memory.wf (s.treeCreate r addr).1.mem := by
  unfold State.treeCreate
  dsimp only
  repeat' split
  all_goals simp [h]

@[simp] theorem mem_treeDestroy (key) : (s.treeDestroy key).mem = s.mem := (rfl)
@[simp] theorem mem_dropRouters (key) : (s.dropRouters key).mem = s.mem := (rfl)

@[simp] theorem wf_treeEdit (h : Memory.wf s.mem) (key hd addr) : Memory.wf (s.treeEdit key hd addr).1.mem := by
  unfold State.treeEdit
  dsimp only
  repeat' split
  all_goals simp [h]

@[simp] theorem mem_treePost (key mem g src tid) : (s.treePost key mem g src tid).mem = s.mem := (rfl)

@[simp] theorem mem_farMark (key) : (s.farMark key).mem = s.mem := by simp [State.farMark]

@[simp] theorem mem_treeSend (key pkg g k mask clk bs) : (s.treeSend key pkg g k mask clk bs).mem = s.mem := by simp [State.treeSend]

@[simp] theorem mem_treeReport (key g mark) : (s.treeReport key g mark).mem = s.mem := by simp [State.treeReport]

@[simp] theorem mem_nodePassed (key node g k) : (s.nodePassed key node g k).mem = s.mem := (rfl)

@[simp] theorem mem_topSend (key b) : (s.topSend key b).mem = s.mem := by simp [State.topSend]

@[simp] theorem mem_nodeSend (key node b) : (s.nodeSend key node b).mem = s.mem := by simp [State.nodeSend]

@[simp] theorem mem_releaseAt (key node n : Nat) : (s.releaseAt key node n).mem = s.mem := by
  induction n generalizing s with
  | zero => rfl
  | succ n ih =>
    unfold State.releaseAt
    dsimp only
    split
    · rfl
    split
    · rfl
    · exact ih.trans (by simp)

@[simp] theorem mem_releaseAll (key) : (s.releaseAll key).mem = s.mem := by simp [State.releaseAll]

@[simp] theorem mem_treeGiveUp (key g) : (s.treeGiveUp key g).mem = s.mem := by simp [State.treeGiveUp]

@[simp] theorem wf_treeFail (h : Memory.wf s.mem) (key g) : Memory.wf (s.treeFail key g).mem := by simp [State.treeFail, h]

@[simp] theorem mem_postClock (tid clk) : (s.postClock tid clk).mem = s.mem := by
  unfold State.postClock
  split <;> simp

@[simp] theorem wf_treeRead (h : Memory.wf s.mem) (key i) : Memory.wf (s.treeRead key i).mem := by
  unfold State.treeRead
  extract_lets
  split <;> simp [h]

@[simp] theorem mem_askRefill (key node) : (s.askRefill key node).mem = s.mem := by simp [State.askRefill]

@[simp] theorem mem_treeArrive (key i) : (s.treeArrive key i).mem = s.mem := by
  unfold State.treeArrive
  extract_lets
  split <;> simp

@[simp] theorem mem_treeRefill (key node) : (s.treeRefill key node).mem = s.mem := (rfl)
@[simp] theorem mem_unloadSlot (key node) : (s.unloadSlot key node).mem = s.mem := (rfl)

@[simp] theorem mem_treeReplicate (key i space) : (s.treeReplicate key i space).mem = s.mem := by
  unfold State.treeReplicate
  extract_lets
  split <;> simp

@[simp] theorem mem_treeAdvance (key n : Nat) : (s.treeAdvance key n).mem = s.mem := by
  induction n generalizing s with
  | zero => rfl
  | succ n ih =>
    unfold State.treeAdvance
    dsimp only
    split
    · exact ih.trans (by simp)
    · rfl

@[simp] theorem wf_treeDeliver (h : Memory.wf s.mem) (key core) : Memory.wf (s.treeDeliver key core).mem := by
  unfold State.treeDeliver
  split <;> simp [h]

@[simp] theorem mem_treeFreeze (key tid) : (s.treeFreeze key tid).mem = s.mem := (rfl)

@[simp] theorem wf_treeSave (h : Memory.wf s.mem) (key hd addr tid) : Memory.wf (s.treeSave key hd addr tid).1.mem := by
  unfold State.treeSave
  dsimp only
  split
  · exact wf_structFormat h ..
  split
  · exact h
  split
  · exact h
  split
  · exact h
  · simpa using wf_engWriteClk ‹_› h

/-- A branch whose taken side leaves the state as it is. -/
theorem wf_else {α : Type} {c : Prop} [Decidable c] {x : α} {y : State × α} (h : Memory.wf s.mem) (hy : ¬c → Memory.wf y.1.mem) :
    Memory.wf (if c then (s, x) else y).1.mem := by
  split
  · exact h
  · exact hy ‹_›

@[simp] theorem wf_treeRestore (h : Memory.wf s.mem) (key hd addr clk) : Memory.wf (s.treeRestore key hd addr clk).1.mem := by
  unfold State.treeRestore
  extract_lets p t img nm k size o1
  refine wf_else h fun _ => wf_else h fun _ => ?_
  cases s.engPieces p 1 (t.saveSize / 4096 + 2) addr 128 with
  | none => exact wf_structFormat h ..
  | some ps0 =>
    dsimp -zeta only
    cases s.engPieces p 1 (size / 4096 + 2) addr size with
    | none => exact wf_structFormat h ..
    | some ps =>
      dsimp -zeta only
      refine wf_else h fun _ => ?_
      extract_lets b old pe pn pending o3 parts la desc new
      clear_value new desc o3 parts
      refine wf_else h fun _ => wf_else h fun _ => ?_
      cases new with
      | none => exact wf_structFormat h ..
      | some ws =>
        dsimp -zeta only
        extract_lets sub m0 t1 all rs seg0 next bufs bufs1
        clear_value t1 bufs1
        refine wf_else h fun _ => wf_else h fun _ => wf_else h fun _ => wf_else h fun _ => ?_
        simpa using h

@[simp] theorem mem_treeFar (key pkg g k mask down data) : (s.treeFar key pkg g k mask down data).mem = s.mem := by simp [State.treeFar]

@[simp] theorem wf_treeHear (h : Memory.wf s.mem) (key pkg g mark clk) : Memory.wf (s.treeHear key pkg g mark clk).mem := by simp [State.treeHear, h]

@[simp] theorem wf_pkgError (h : Memory.wf s.mem) (cls src tail) : Memory.wf (s.pkgError cls src tail).mem := by
  simp +contextual [State.pkgError, h]

@[simp] theorem mem_sendRequests : (s.sendRequests).mem = s.mem := by simp [State.sendRequests]

@[simp] theorem mem_remoteIssue (tid o) : (s.remoteIssue tid o).mem = s.mem := by simp [State.remoteIssue]

@[simp] theorem mem_unpark (tid) : (s.unpark tid).mem = s.mem := by
  unfold State.unpark
  split <;> simp

@[simp] theorem mem_remoteError (tid pkg reason kind) : (s.remoteError tid pkg reason kind).mem = s.mem := by simp [State.remoteError]

end Sys2Proof.Machine.State

/-! Memory keeps its canonical form, part 6: remote operations, transfers, flits and the links. -/

namespace Sys2Proof.Machine.State

open Sys2Proof Sys2Proof.Machine Sys2Proof.Rules

variable {s : State}

@[simp] theorem mem_ropDone (tid) : (s.ropDone tid).mem = s.mem := (rfl)

@[simp] theorem wf_ropFail (h : Memory.wf s.mem) (tid reason) : Memory.wf (s.ropFail tid reason).mem := by
  unfold State.ropFail
  dsimp only
  repeat' split
  all_goals simp [h]

@[simp] theorem mem_sendQueue (tid b) : (s.sendQueue tid b).1.mem = s.mem := by
  unfold State.sendQueue
  dsimp only
  repeat' split
  all_goals simp

@[simp] theorem mem_putSends (n l) : (s.putSends n l).mem = s.mem := (rfl)
@[simp] theorem mem_putSend (n i x) : (s.putSend n i x).mem = s.mem := (rfl)

@[simp] theorem mem_sendFail (n i reason) : (s.sendFail n i reason).mem = s.mem := by
  unfold State.sendFail
  split <;> simp

@[simp] theorem wf_sendFault (h : Memory.wf s.mem) (n i x a need c) : Memory.wf (s.sendFault n i x a need c).mem := by simp [State.sendFault, h]

@[simp] theorem mem_sendDone (n) : (s.sendDone n).mem = s.mem := Proofs.mem_sendDone ..

@[simp] theorem wf_noteAdd (h : Memory.wf s.mem) (n) : Memory.wf (s.noteAdd n).mem := by
  unfold State.noteAdd
  repeat' split
  all_goals simp [h]

@[simp] theorem mem_signal (j) : (s.signal j).mem = s.mem := (rfl)

@[simp] theorem mem_signalAll : (s.signalAll).mem = s.mem := by simp [State.signalAll]

@[simp] theorem mem_takeFlits (cls n) : (s.takeFlits cls n).mem = s.mem := (congrArg mem (Proofs.takeFlits_form s cls n)).trans rfl

@[simp] theorem mem_sendWaiting (j) : (s.sendWaiting j).mem = s.mem := by
  unfold State.sendWaiting
  repeat' split
  all_goals simp

@[simp] theorem wf_sendFlit (h : Memory.wf s.mem) (n) : Memory.wf (s.sendFlit n).mem := by
  unfold State.sendFlit
  dsimp only
  repeat' split
  all_goals simp [h]

@[simp] theorem wf_farFault (h : Memory.wf s.mem) (p a need line x) : Memory.wf (s.farFault p a need line x).mem := by simp [State.farFault, h]

@[simp] theorem mem_farRead (pkg loc n) : (s.farRead pkg loc n).2.mem = s.mem := by simp [State.farRead]

@[simp] theorem wf_farWrite (h : Memory.wf s.mem) (pkg loc bs) : Memory.wf (s.farWrite pkg loc bs).mem := by simp [State.farWrite, h]

@[simp] theorem mem_reply (pkg kind reason tid bs) : (s.reply pkg kind reason tid bs).mem = s.mem := (rfl)

@[simp] theorem wf_remoteRequest (h : Memory.wf s.mem) (x) : Memory.wf (s.remoteRequest x).mem := by
  unfold State.remoteRequest
  dsimp only
  repeat' split
  all_goals simp [h]

@[simp] theorem mem_putRecv (pkg r) : (s.putRecv pkg r).mem = s.mem := (rfl)

@[simp] theorem wf_sendLine (h : Memory.wf s.mem) (x) : Memory.wf (s.sendLine x).mem := by
  unfold State.sendLine
  dsimp only
  repeat' split
  all_goals simp [h]

@[simp] theorem mem_handOver (j n : Nat) : (s.handOver j n).mem = s.mem := by
  induction n generalizing s with
  | zero => rfl
  | succ n ih =>
    unfold State.handOver
    dsimp only
    split
    · rfl
    split
    · rfl
    split
    · exact ih.trans (by simp)
    · exact ih.trans (by simp)

@[simp] theorem wf_flitReceive (h : Memory.wf s.mem) (j f b tries cc bad bs route) : Memory.wf (s.flitReceive j f b tries cc bad bs route).mem := by
  simp [State.flitReceive, h]

@[simp] theorem wf_retrain (h : Memory.wf s.mem) (j w) : Memory.wf (s.retrain j w).mem := by simp [State.retrain, h]

@[simp] theorem wf_testEnd (h : Memory.wf s.mem) (j w cc ub) : Memory.wf (s.testEnd j w cc ub).mem := by simp [State.testEnd, h]

@[simp] theorem mem_slotBoundary : (s.slotBoundary).mem = s.mem := by
  unfold State.slotBoundary
  split
  · rfl
  · extract_lets s1 _ s2 keep gone
    have h1 : s2.mem = s.mem := mem_foldl_of _ _ fun u j => mem_putPort ..
    split
    · exact (mem_signalAll ..).trans h1
    · exact (mem_signalAll ..).trans h1

@[simp] theorem wf_guardEnd (h : Memory.wf s.mem) (j flight mismatch stripes) : Memory.wf (s.guardEnd j flight mismatch stripes).mem := by
  simp [State.guardEnd, h]

@[simp] theorem mem_transitInject : (s.transitInject).mem = s.mem := by simp [State.transitInject]

@[simp] theorem wf_slotTable (h : Memory.wf s.mem) (tb) : Memory.wf (s.slotTable tb).mem := by simp [State.slotTable, h]

@[simp] theorem wf_peerTable (h : Memory.wf s.mem) (p b) : Memory.wf (s.peerTable p b).mem := by
  simp +contextual [State.peerTable, h]

end Sys2Proof.Machine.State

/-! Memory keeps its canonical form, part 7: power, the service controller, reset, boot, checkpoint and restore. -/

namespace Sys2Proof.Machine.State

open Sys2Proof Sys2Proof.Machine Sys2Proof.Rules

variable {s : State}

@[simp] theorem mem_mailNote (p code st) : (s.mailNote p code st).mem = s.mem := (rfl)
@[simp] theorem mem_mailBusy (p code) : (s.mailBusy p code).mem = s.mem := (rfl)

/-- A mailbox command does what it does, or is refused and leaves memory as it is. -/
theorem wf_mail (h : Memory.wf s.mem) (p code : Nat) (badBits : Bool) (run : State → State) (hrun : Memory.wf (run s).mem) :
    Memory.wf (s.mail p code badBits run).mem := by
  unfold State.mail
  dsimp only
  split
  · exact h
  split
  · exact h
  · exact hrun

@[simp] theorem wf_mailLaunch (h : Memory.wf s.mem) (p r badBits) : Memory.wf (s.mailLaunch p r badBits).mem := by simp [State.mailLaunch, h]

@[simp] theorem wf_mailRequest (h : Memory.wf s.mem) (p code fn a) : Memory.wf (s.mailRequest p code fn a).mem := by
  have h1 := wf_rgnctl h p none fn a 0 (s.part p).hpts
  unfold State.mailRequest
  dsimp only
  split
  · exact h1
  · exact h1

@[simp] theorem wf_capRaised (h : Memory.wf s.mem) : Memory.wf (s.capRaised).mem := by simp [State.capRaised, h]

@[simp] theorem mem_applyPower : (s.applyPower).mem = s.mem := by
  unfold State.applyPower
  extract_lets lim s2 al s3
  refine mem_foldl_of (s := s3) _ _ fun u d => ?_
  dsimp only
  split
  · rfl
  · exact mem_foldl_of _ _ fun v c => mem_putCore ..

@[simp] theorem wf_capBroadcast (h : Memory.wf s.mem) (b) : Memory.wf (s.capBroadcast b).mem := by
  unfold State.capBroadcast
  extract_lets seq later n o
  split
  · exact h
  · exact wf_capRaised (by simpa using h)

@[simp] theorem wf_param (h : Memory.wf s.mem) (p idx v) : Memory.wf (s.param p idx v).1.mem := by
  unfold State.param
  repeat' split
  all_goals simp [h]

@[simp] theorem wf_resync (h : Memory.wf s.mem) (p) : Memory.wf (s.resync p).1.mem := by
  unfold State.resync
  dsimp only
  split
  · exact h
  · simp [memPutBytes_wf, h]

/-- Clearing several ranges keeps the form. -/
theorem wf_clearRanges {m : Memory} (h : Memory.wf m) (lo : Nat → Nat) (n : Nat) (l : List Nat) :
    Memory.wf (l.foldl (fun m i => tabClear m (lo i) n) m) :=
  foldl_preserves (fun m => Memory.wf m) _ (fun _ _ hm => wf_tabClear hm ..) l m h

@[simp] theorem wf_takeOver (h : Memory.wf s.mem) (cl) : Memory.wf (s.takeOver cl).mem := by simp [State.takeOver, wf_clearRanges, h]

@[simp] theorem mem_refuseWaiting (d) : (s.refuseWaiting d).mem = s.mem := by
  refine mem_foldl_of _ _ fun u x => mem_foldl_of _ _ fun v r => ?_
  split
  · exact mem_refuseFar ..
  · rfl

@[simp] theorem mem_resetPart (p clear cmd) : (s.resetPart p clear cmd).mem = s.mem := by
  unfold State.resetPart
  split
  · rfl
  extract_lets s0 q on ds s1 s2 s3
  have h0 : s0.mem = s.mem := by
    unfold s0
    split <;> rfl
  have h1 : s1.mem = s.mem := by simp [s1, h0]
  split <;> exact h1

@[simp] theorem wf_resetEnd (h : Memory.wf s.mem) (p) : Memory.wf (s.resetEnd p).mem := by
  unfold State.resetEnd
  extract_lets q on ds gone s0 s1 s2
  have h0 : Memory.wf s0.mem := wf_foldl _ _ (fun u c hu => wf_takeOver hu c) h
  have h1 : Memory.wf s1.mem := by
    have : Memory.wf (if q.rclear then s0.mem.filter fun c => !gone c.1 else s0.mem) := by
      split
      · exact filter_wf _ _ h0
      · exact h0
    exact this
  refine wf_logError ?_ _
  split <;> exact h1

@[simp] theorem wf_clusterFail (h : Memory.wf s.mem) (die c) : Memory.wf (s.clusterFail die c).mem := by
  unfold State.clusterFail
  split <;> simp [h]

@[simp] theorem wf_controlDiverge (h : Memory.wf s.mem) (die) : Memory.wf (s.controlDiverge die).mem := by
  unfold State.controlDiverge
  split <;> simp [h]

@[simp] theorem wf_testCluster (h : Memory.wf s.mem) (cl) : Memory.wf (s.testCluster cl).mem := by
  unfold State.testCluster
  dsimp only
  repeat' split
  all_goals simp [h]

@[simp] theorem wf_selfTest (h : Memory.wf s.mem) (n : Nat) (b : List Byte) : Memory.wf (s.selfTest n b).mem := by
  induction n generalizing s b with
  | zero => exact h
  | succ n ih =>
    unfold State.selfTest
    split
    · exact h
    refine ih ?_ _
    split
    · dsimp only
      split
      · split <;> exact h
      · exact h
    · exact wf_testCluster h _
    · exact wf_testCluster h _
    · exact wf_testCluster h _
    · exact h

@[simp] theorem wf_bootWith (h : Memory.wf s.mem) (b fatal) : Memory.wf (s.bootWith b fatal).mem := by
  unfold State.bootWith
  dsimp only
  split
  · exact h
  split
  · exact h
  split
  · exact h
  · rw [mem_applyPower]
    exact wf_selfTest (by exact h) ..

@[simp] theorem mem_mailDone0 (code st) : (s.mailDone0 code st).mem = s.mem := (rfl)

@[simp] theorem wf_attest (h : Memory.wf s.mem) : Memory.wf (s.attest).mem := by
  unfold State.attest
  split
  · exact h
  split
  · exact h
  · simp [memPutBytes_wf, h]

@[simp] theorem mem_mail0 (w) : (s.mail0 w).mem = s.mem := by simp [State.mail0]

@[simp] theorem wf_dequesOut (h : Memory.wf s.mem) (p) : Memory.wf (s.dequesOut p).mem := by
  simp +contextual [State.dequesOut, h]

@[simp] theorem wf_checkpoint (h : Memory.wf s.mem) (p) : Memory.wf (s.checkpoint p).mem := by
  unfold State.checkpoint
  dsimp only
  repeat' split
  all_goals simp +contextual [h]

/-- Putting bytes one by one keeps the form. -/
theorem wf_putCells {m : Memory} (h : Memory.wf m) (at_ : Host.Cell → Nat) (l : List Host.Cell) :
    Memory.wf (l.foldl (fun t c => memPut t (at_ c) c.2) m) :=
  foldl_preserves (fun m => Memory.wf m) _ (fun _ _ hm => memPut_wf _ _ _ hm) l m h

@[simp] theorem wf_checkpointEnd (h : Memory.wf s.mem) (p) : Memory.wf (s.checkpointEnd p).mem := by
  unfold State.checkpointEnd
  split
  · exact h
  extract_lets s1 q s2 m base cleared data mem'
  have h1 : Memory.wf s1.mem := wf_dequesOut h _
  have hcleared : Memory.wf cleared := wf_tabClear h1 ..
  exact wf_putCells (memPutBytes_wf _ _ _ hcleared) Prod.fst data

@[simp] theorem wf_queueSaved (h : Memory.wf s.mem) (r t) : Memory.wf (s.queueSaved r t).mem := by simp [State.queueSaved, h]

@[simp] theorem wf_restoreRegion (h : Memory.wf s.mem) (p addr) : Memory.wf (s.restoreRegion p addr).1.mem := by
  unfold State.restoreRegion
  extract_lets parent
  have h1 := wf_createRegion h p parent addr
  dsimp only
  split
  · exact h1
  split
  · exact h1
  · exact wf_foldl _ _ (fun u t hu => wf_queueSaved hu ..) (wf_putRcb (by simpa using h1) ..)

/-- What is read back of a shard keeps the form: the chunk's places are cleared, and its bytes put one by one. -/
theorem wf_restoreChunks (dies base mlen dig : Nat) (host : Memory) (l : List Nat) (m : Memory) (h : Memory.wf m) :
    Memory.wf (restoreChunks dies base mlen dig host l m).1 := by
  induction l generalizing m with
  | nil => exact h
  | cons i r ih =>
    rw [restoreChunks]
    split
    · exact ih _ (wf_putCells (filter_wf _ _ h) ..)
    · exact wf_putCells (filter_wf _ _ h) ..

theorem wf_of_restoreChunks {dies base mlen dig : Nat} {host m m' : Memory} {l : List Nat} {ok : Bool} (h : Memory.wf m)
    (e : restoreChunks dies base mlen dig host l m = (m', ok)) : Memory.wf m' := by
  have hm := wf_restoreChunks dies base mlen dig host l m h
  rwa [e] at hm

@[simp] theorem wf_restore (h : Memory.wf s.mem) (p) : Memory.wf (s.restore p).mem := by
  fun_cases State.restore s p with
  | case1 => exact h
  | case2 => exact wf_svcRead h ..
  | case3 => exact h
  | case4 _ _ _ _ _ _ _ _ _ _ _ _ _ hmem s1 _ =>
    have h1 : Memory.wf s1.mem := wf_of_restoreChunks h hmem
    exact h1
  | case5 _ _ _ _ _ _ _ _ _ _ _ _ _ hmem s1 _ s2 rcbs s3 st hfold =>
    have h1 : Memory.wf s1.mem := wf_of_restoreChunks h hmem
    have h3 := fst_wf_foldl (fun x a => if x.2 ≠ 0 then x else x.1.restoreRegion p a) rcbs (s2, 0)
      (fun u a hu => by split <;> [exact hu; exact wf_restoreRegion hu ..]) h1
    rw [hfold] at h3
    exact h3

@[simp] theorem wf_mailWord (h : Memory.wf s.mem) (p w) : Memory.wf (s.mailWord p w).mem := by
  unfold State.mailWord
  extract_lets q code low fn
  split
  · split
    · simpa using wf_resync h p
    · exact h
  generalize code = code'
  split
  · exact wf_mailLaunch h ..
  · exact wf_mail h _ _ _ _ (wf_mailRequest h ..)
  · exact wf_mail h _ _ _ _ (wf_mailRequest h ..)
  · exact wf_mail h _ _ _ _ (by simpa using wf_param h ..)
  · exact wf_mail h _ _ _ _ (by simpa using wf_resync h p)
  · exact wf_mail h _ _ _ _ (by simpa using h)
  · exact wf_mail h _ _ _ _ (wf_checkpoint h _)
  · exact wf_mail h _ _ _ _ (wf_restore h _)
  · exact wf_mail h _ _ _ _ h

@[simp] theorem wf_runDoom (h : Memory.wf s.mem) (n : Nat) : Memory.wf (s.runDoom n).mem := by
  induction n generalizing s with
  | zero => exact h
  | succ n ih =>
    unfold State.runDoom
    split
    · exact h
    extract_lets s1
    have h1 : Memory.wf s1.mem := h
    refine ih ?_
    split
    · exact wf_killDomain h1 _
    · simpa using h1

@[simp] theorem wf_settle (h : Memory.wf s.mem) : Memory.wf (s.settle).mem := by
  unfold State.settle
  extract_lets s1 s2 s3
  have h1 : Memory.wf s1.mem := by
    unfold s1
    split
    · exact h
    · exact wf_runDoom h _
  have h2 : Memory.wf s2.mem := by
    refine wf_foldl _ _ (fun u r hu => ?_) h1
    split
    · exact hu
    · exact wf_finishWaiting hu _
  have h3 : Memory.wf s3.mem := by
    refine wf_foldl _ _ (fun u p hu => ?_) h2
    split
    · exact wf_checkpointEnd hu _
    · exact hu
  refine wf_foldl _ _ (fun u t hu => ?_) h3
  split
  · simpa using hu
  · exact hu

end Sys2Proof.Machine.State

/-! Memory keeps its canonical form, part 8: what a bundle's effects do, its commit, and the turn of a core. -/

namespace Sys2Proof.Machine.State

open Sys2Proof Sys2Proof.Machine Sys2Proof.Rules
open Host (Outcome)

variable {s : State}

@[simp] theorem mem_setSpecial (tid n v) : (s.setSpecial tid n v).mem = s.mem := by simp [State.setSpecial]

@[simp] theorem mem_mxEnter (tid op ds) : (s.mxEnter tid op ds).mem = s.mem := by
  unfold State.mxEnter
  extract_lets
  split <;> simp

@[simp] theorem mem_lsEnter (tid k vas parts data ds) : (s.lsEnter tid k vas parts data ds).mem = s.mem := (rfl)

@[simp] theorem mem_bankStall (core ps) : (s.bankStall core ps).mem = s.mem := by simp [State.bankStall]

@[simp] theorem mem_waitEnter (tid ds w) : (s.waitEnter tid ds w).mem = s.mem := (rfl)

@[simp] theorem mem_nextEnter (tid ds) : (s.nextEnter tid ds).mem = s.mem := by
  unfold State.nextEnter
  dsimp only
  split
  · exact (mem_serveNext ‹_›).trans (mem_serveWaiting ..)
  · rw [mem_putTask, mem_serveWaiting]

@[simp] theorem mem_cgoEnter (tid q id handle) : (s.cgoEnter tid q id handle).mem = s.mem := (rfl)

@[simp] theorem mem_cancelHandle (tid hd) : (s.cancelHandle tid hd).mem = s.mem := by
  unfold State.cancelHandle
  dsimp only
  split
  · rfl
  · refine mem_foldl_of _ _ fun u q => ?_
    split
    · split
      · exact mem_cancelCopy ..
      · rfl
    · rfl

@[simp] theorem mem_fenceClocks (tid e l) : (s.fenceClocks tid e l).mem = s.mem := by simp [State.fenceClocks]

@[simp] theorem mem_remoteEnter (tid kind pkg addr data aux ds) : (s.remoteEnter tid kind pkg addr data aux ds).mem = s.mem := by
  simp [State.remoteEnter]

@[simp] theorem wf_applyEffect (h : Memory.wf s.mem) (e) : Memory.wf (s.applyEffect e).mem := by
  unfold State.applyEffect
  dsimp only
  repeat' split
  all_goals simp [h]

@[simp] theorem mem_stallFor (idle) : (s.stallFor idle).mem = s.mem := (rfl)

@[simp] theorem mem_control (es) : (s.control es).mem = s.mem := by
  unfold State.control
  repeat' split
  all_goals simp

@[simp] theorem mem_runFrom (core tid) : (s.runFrom core tid).mem = s.mem := (rfl)

@[simp] theorem mem_switch (core) : (s.switch core).mem = s.mem := by
  unfold State.switch
  extract_lets
  split <;> simp

@[simp] theorem wf_endTask (h : Memory.wf s.mem) (tid) : Memory.wf (s.endTask tid).mem := by simp [State.endTask, h]

@[simp] theorem wf_finish (h : Memory.wf s.mem) (tid es) : Memory.wf (s.finish tid es).mem := by
  unfold State.finish
  repeat' split
  all_goals simp [h]

@[simp] theorem mem_reallot (tid es) : (s.reallot tid es).mem = s.mem := by
  unfold State.reallot
  split <;> simp

theorem wf_applyEffects (h : Memory.wf s.mem) (es : List Effect) : Memory.wf (es.foldl State.applyEffect s).mem :=
  wf_foldl _ _ (fun _ e hu => wf_applyEffect hu e) h

@[simp] theorem wf_commit (h : Memory.wf s.mem) (es) : Memory.wf (s.commit es).mem := by
  unfold State.commit
  extract_lets s1 s2 s3 s4 s5
  have h2 : Memory.wf s2.mem := wf_applyEffects (wf_applyEffects h _) _
  have h4 : Memory.wf s4.mem := by simpa [s4, s3] using h2
  have h5 : Memory.wf s5.mem := wf_applyEffects h4 _
  rw [mem_tick]
  exact wf_finish (by simpa using h5) ..

@[simp] theorem mem_heldCycle (hd) : (s.heldCycle hd).mem = s.mem := (rfl)

@[simp] theorem wf_trapNow (h : Memory.wf s.mem) (x need) : Memory.wf (s.trapNow x need).mem := by
  unfold State.trapNow
  dsimp only
  repeat' split
  all_goals simp [h]

@[simp] theorem wf_closeBundle (h : Memory.wf s.mem) : Memory.wf (s.closeBundle).mem := by
  unfold State.closeBundle
  refine wf_settle ?_
  split
  · exact wf_trapNow h ..
  · exact wf_applyEffects h _
  · exact wf_commit h _

@[simp] theorem mem_logSlot (sh out) : (s.logSlot sh out).mem = s.mem := (rfl)

@[simp] theorem mem_pick : (s.pick).mem = s.mem := by
  unfold State.pick
  dsimp only
  repeat' split
  all_goals simp

@[simp] theorem mem_followPresent (core q w) : (s.followPresent core q w).mem = s.mem := by
  unfold State.followPresent
  split <;> simp

/-! ### Outcomes -/

/-- Where an outcome is a next state, that state's memory has its form. -/
def Formed (o : Outcome State Fault Refusal) : Prop := ∀ u, o = .next u → Memory.wf u.mem

theorem formed_next {u : State} (h : Memory.wf u.mem) : Formed (.next u) := by
  rintro _ ⟨⟩
  exact h

theorem formed_runSlot (h : Memory.wf s.mem) (sh : Shape) (out : SlotOut) : Formed (s.runSlot sh out) := by
  unfold State.runSlot
  split
  · rintro u ⟨⟩
  · refine formed_next ?_
    split
    · exact wf_closeBundle (by simpa using h)
    · simpa using h

theorem formed_stepIf (h : Memory.wf s.mem) {t : State} (ht : Memory.wf t.mem) (can : Bool) : Formed (s.stepIf can t) := by
  refine formed_next ?_
  split
  · exact wf_settle ht
  · exact h

end Sys2Proof.Machine.State

/-! Memory keeps its canonical form, part 9: what the steps of the engines, the host and the fabric do. -/

namespace Sys2Proof.Machine.State

open Sys2Proof Sys2Proof.Machine Sys2Proof.Rules
open Host (Outcome)

variable {s : State}

@[simp] theorem mem_idleBundle : (s.idleBundle).mem = s.mem := (rfl)

theorem wf_wordArrival (h : Memory.wf s.mem) {tid a : Nat} {p : Prod} {ok : Nat → Bool} {x : Option (List VReg) × State}
    (e : s.wordArrival tid p a ok = some x) :
    Memory.wf x.2.mem := by
  unfold State.wordArrival at e
  dsimp only at e
  split at e
  · cases e
  split at e
  · cases e
  split at e
  · cases e
    exact wf_taskError h ..
  split at e
  · cases e
  · cases e
    simpa using h

theorem wf_arrival (h : Memory.wf s.mem) {tid : Nat} {p : Prod} {bytes : List Byte} {x : Option (List VReg) × State}
    (e : s.arrival tid p bytes = some x) :
    Memory.wf x.2.mem := by
  unfold State.arrival at e
  dsimp only at e
  split at e
  · cases e
    exact h
  · cases e
    exact h
  · cases e
  · exact wf_wordArrival h e
  · exact wf_wordArrival h e
  · obtain ⟨y, hy, hx⟩ := Option.bind_eq_some_iff.1 e
    cases hx
    exact (mem_barFill hy).symm ▸ h
  · obtain ⟨-, hx⟩ := Option.ite_none_right_eq_some.1 e
    cases hx
    exact h
  · obtain ⟨-, hx⟩ := Option.ite_none_right_eq_some.1 e
    cases hx
    exact h
  · obtain ⟨-, hx⟩ := Option.ite_none_right_eq_some.1 e
    cases hx
    exact h
  · obtain ⟨y, hy, rfl⟩ := Option.map_eq_some_iff.1 e
    exact (mem_serveNext hy).symm ▸ h
  · obtain ⟨-, hx⟩ := Option.ite_none_right_eq_some.1 e
    cases hx
    exact h
  · cases e
  · cases e
  · obtain ⟨c, -, rfl⟩ := Option.map_eq_some_iff.1 e
    exact h
  · split at e
    · obtain ⟨-, hx⟩ := Option.ite_none_right_eq_some.1 e
      cases hx
      simpa using h
    · cases e

@[simp] theorem wf_arrive (h : Memory.wf s.mem) (tid p x) : Memory.wf (s.arrive tid p x).mem := by
  unfold State.arrive
  split <;> simp [h]

@[simp] theorem wf_capture (h : Memory.wf s.mem) (tid tok) : Memory.wf (s.capture tid tok).mem := by
  unfold State.capture
  split
  · exact h
  split
  · exact h
  split
  · exact h
  · rw [mem_putTask]
    exact wf_arrival h ‹_›

@[simp] theorem wf_captureAll (h : Memory.wf s.mem) : Memory.wf (s.captureAll).mem := by
  unfold State.captureAll
  rw [mem_ringsFollow]
  exact wf_foldl _ _ (fun u x hu => wf_foldl _ _ (fun v p hv => wf_capture hv ..) hu) h

theorem wf_watchOver (h : Memory.wf s.mem) {tid : Nat} {p : Prod} {x : Option (List VReg) × State} (e : s.watchOver tid p = some x) :
    Memory.wf x.2.mem := by
  unfold State.watchOver at e
  split at e
  · exact wf_wordArrival h (Option.ite_none_right_eq_some.1 e).2
  · cases e

@[simp] theorem mem_suspend (core) : (s.suspend core).mem = s.mem := (rfl)

@[simp] theorem mem_cacheLeaf (core va x engine) : (s.cacheLeaf core va x engine).mem = s.mem := by simp [State.cacheLeaf]

@[simp] theorem mem_walkEnds (core va) : (s.walkEnds core va).mem = s.mem := by simp [State.walkEnds]

@[simp] theorem wf_wordsFormat (h : Memory.wf s.mem) (p core va) : Memory.wf (s.wordsFormat p core va).mem := by
  unfold State.wordsFormat
  split
  · exact wf_foldl _ _ (fun u t hu => wf_formatError hu ..) h
  · exact h

@[simp] theorem wf_pageWalk (h : Memory.wf s.mem) (p core va engine) : Memory.wf (s.pageWalk p core va engine).mem := by
  unfold State.pageWalk
  extract_lets s1
  have h1 : Memory.wf s1.mem := by
    unfold s1
    split
    · split
      · exact h
      · exact wf_wordsFormat h ..
    · simpa using h
  split
  · exact h1
  · simpa using h1

@[simp] theorem mem_liveFail (n reason) : (s.liveFail n reason).mem = s.mem := by
  unfold State.liveFail
  split <;> simp

@[simp] theorem mem_ackSend (n upTo) : (s.ackSend n upTo).mem = s.mem := by
  unfold State.ackSend
  split <;> simp

@[simp] theorem mem_peerMap (j f bs) : (s.peerMap j f bs).mem = s.mem := (rfl)
@[simp] theorem mem_lock (ft) : (s.lock ft).mem = s.mem := (rfl)
@[simp] theorem mem_unlock : (s.unlock).mem = s.mem := (rfl)
@[simp] theorem mem_activate : (s.activate).mem = s.mem := (rfl)
theorem formed_command (h : Memory.wf s.mem) (w) : Formed (s.command w) := formed_stepIf h (wf_mailWord h ..) _

@[simp] theorem mem_reg0 (off v) : (s.reg0 off v).mem = s.mem := by simp [State.reg0]

@[simp] theorem wf_regPart (h : Memory.wf s.mem) (p off v) : Memory.wf (s.regPart p off v).mem := by simp [State.regPart, h]

@[simp] theorem wf_clockLimit (h : Memory.wf s.mem) (d mhz draw thermal) : Memory.wf (s.clockLimit d mhz draw thermal).mem := by
  unfold State.clockLimit
  repeat' split
  all_goals simp [h]

@[simp] theorem wf_rangeFormat (h : Memory.wf s.mem) (tid a n) : Memory.wf (s.rangeFormat tid a n).mem := by simp [State.rangeFormat, h]

@[simp] theorem mem_msetRun (core e) : (s.msetRun core e).mem = s.mem := by
  unfold State.msetRun
  split <;> simp

@[simp] theorem wf_scrubError (h : Memory.wf s.mem) (core sl) : Memory.wf (s.scrubError core sl).mem := by
  unfold State.scrubError
  split <;> simp [h]

@[simp] theorem wf_mchanRun (h : Memory.wf s.mem) (core fn arg errs) : Memory.wf (s.mchanRun core fn arg errs).mem := by
  unfold State.mchanRun
  dsimp only
  split
  · refine wf_foldl _ _ (fun u sl hu => ?_) h
    split
    · exact wf_markAt (wf_scrubError (by simpa using hu) ..) ..
    · exact hu
  · refine wf_foldl _ _ (fun u sl hu => ?_) (by simpa using h)
    split
    · exact wf_markSlice hu ..
    · exact hu
  · simpa using h
  · exact wf_markSlice h ..

@[simp] theorem wf_clusterWrites (h : Memory.wf s.mem) (cluster clk : Nat) (bs : List Byte) (ps : List (Nat × Nat)) :
    Memory.wf (s.clusterWrites cluster clk bs ps).2.mem := by
  induction ps generalizing s clk bs with
  | nil => exact h
  | cons p ps ih => exact ih (wf_clusterWrite h ..) _ _

@[simp] theorem wf_mldaRun (h : Memory.wf s.mem) (core e) : Memory.wf (s.mldaRun core e).mem := by
  unfold State.mldaRun
  dsimp only
  repeat' split
  all_goals simp [h]

@[simp] theorem wf_mstaRun (h : Memory.wf s.mem) (core e) : Memory.wf (s.mstaRun core e).mem := by
  unfold State.mstaRun
  split <;> simp [h]

@[simp] theorem mem_mretDone (e vals clk) : (s.mretDone e vals clk).mem = s.mem := (rfl)

@[simp] theorem wf_retireTake (h : Memory.wf s.mem) (core e c t ev) : Memory.wf (s.retireTake core e c t ev).mem := by simp [State.retireTake, h]

@[simp] theorem wf_mretRun (h : Memory.wf s.mem) (core e c d fmt keep) : Memory.wf (s.mretRun core e c d fmt keep).mem := by
  unfold State.mretRun
  dsimp only
  repeat' split
  all_goals simp [h]

@[simp] theorem wf_mretvRun (h : Memory.wf s.mem) (core e c fmt keep) : Memory.wf (s.mretvRun core e c fmt keep).mem := by simp [State.mretvRun, h]

@[simp] theorem wf_retireEnd (h : Memory.wf s.mem) (core cd) : Memory.wf (s.retireEnd core cd).mem := by
  unfold State.retireEnd
  dsimp only
  split
  · exact wf_remapSlices (wf_foldl _ _ (fun u x hu => wf_kstepMerge hu ..) h) ..
  · exact h

@[simp] theorem wf_saveStep (h : Memory.wf s.mem) (tid) : Memory.wf (s.saveStep tid).mem := by
  unfold State.saveStep
  dsimp only
  repeat' split
  all_goals simp [h]

theorem wf_placeStep (h : Memory.wf s.mem) {die : Nat} {u : State} (e : s.placeStep die = some u) : Memory.wf u.mem := by
  unfold State.placeStep at e
  split at e
  · obtain ⟨w, -, rfl⟩ := Option.map_eq_some_iff.1 e
    exact wf_placeRec h ..
  · obtain ⟨vs, -, rfl⟩ := Option.map_eq_some_iff.1 e
    simpa using h

@[simp] theorem mem_waitsOut : (s.waitsOut).mem = s.mem := by
  unfold State.waitsOut
  split <;> simp

@[simp] theorem wf_conclude (h : Memory.wf s.mem) (t : State) (ht : Memory.wf t.mem) : Memory.wf (s.conclude t).mem := by simp [State.conclude, h, ht]

@[simp] theorem mem_hostKeeps (line keep) : (s.hostKeeps line keep).mem = s.mem := (rfl)

@[simp] theorem mem_hostRead (p loc keep) : (s.hostRead p loc keep).mem = s.mem := by simp [State.hostRead]

@[simp] theorem wf_hostWrite (h : Memory.wf s.mem) (p loc bs keep) : Memory.wf (s.hostWrite p loc bs keep).mem := by simp [State.hostWrite, h]

@[simp] theorem wf_memError (h : Memory.wf s.mem) (loc tid bad) : Memory.wf (s.memError loc tid bad).mem := by
  unfold State.memError
  split <;> simp [h]

end Sys2Proof.Machine.State

/-! Memory keeps its canonical form, part 10: every instruction, and the step. -/

namespace Sys2Proof.Machine.State

open Sys2Proof Sys2Proof.Machine Sys2Proof.Rules
open Host (Outcome)

variable {s : State}

theorem formed_ite {c : Prop} [Decidable c] {x y : Outcome State Fault Refusal} (hx : Formed x) (hy : Formed y) : Formed (if c then x else y) := by
  split
  · exact hx
  · exact hy

theorem formed_mxStep (h : Memory.wf s.mem) (kind : MxOp → Bool) {run : Nat → MxEnt → State} (hrun : ∀ c e, Memory.wf (run c e).mem) :
    Formed (s.mxStep kind run) := by
  unfold State.mxStep
  split
  · exact formed_next (wf_settle (hrun ..))
  · exact formed_next h

theorem formed_kstepStart (h : Memory.wf s.mem) : Formed (execKstepStart s) := by
  refine formed_mxStep h _ fun c e => ?_
  split
  · simpa using h
  · exact h

theorem formed_mzeroExecute (h : Memory.wf s.mem) : Formed (execMzeroExecute s) := by
  refine formed_mxStep h _ fun c e => ?_
  split <;> exact h

theorem formed_mchanExecute (h : Memory.wf s.mem) : Formed (execMchanExecute s) := by
  refine formed_mxStep h _ fun c e => ?_
  split
  · exact wf_mchanRun (by simpa using h) ..
  · exact h

theorem formed_minjExecute (h : Memory.wf s.mem) : Formed (execMinjExecute s) := by
  refine formed_mxStep h _ fun c e => ?_
  split <;> exact h

theorem formed_kstepMerge (h : Memory.wf s.mem) : Formed (execKstepMerge s) := by
  unfold execKstepMerge
  split
  · exact formed_next (wf_settle (wf_kstepMerge h ..))
  · exact formed_next h

theorem formed_retirement (h : Memory.wf s.mem) : Formed (execRetirement s) := by
  unfold execRetirement
  dsimp only
  split
  · split
    · exact formed_next (wf_settle (wf_retireEnd (wf_mretRun h ..) ..))
    · exact formed_next (wf_settle (wf_retireEnd (wf_mretvRun h ..) ..))
    · exact formed_next h
  · exact formed_next h

theorem formed_followOnPresent (h : Memory.wf s.mem) : Formed (execFollowOnPresent s) := by
  refine formed_next ?_
  split
  · exact wf_settle (by simpa using h)
  · exact h

theorem formed_watchTimeout (h : Memory.wf s.mem) : Formed (execWatchTimeout s) := by
  unfold execWatchTimeout
  split
  · exact formed_next h
  · split
    · exact formed_next h
    · rename_i s1 he
      have h1 : Memory.wf s1.mem := wf_watchOver h he
      exact formed_next (wf_settle (wf_arrive h1 ..))

theorem formed_resultArrival (h : Memory.wf s.mem) : Formed (execResultArrival s) := by
  unfold execResultArrival
  split
  · exact formed_next h
  · split
    · exact formed_next h
    · rename_i s1 he
      have h1 : Memory.wf s1.mem := wf_arrival h he
      exact formed_next (wf_settle (wf_arrive h1 ..))

theorem formed_taskRestore (h : Memory.wf s.mem) : Formed (execTaskRestore s) := by
  unfold execTaskRestore
  split
  · exact formed_next (wf_settle (wf_installSaved (wf_turnTaken h ..) ..))
  · exact formed_next h

theorem formed_taskPlacement (h : Memory.wf s.mem) : Formed (execTaskPlacement s) := by
  unfold execTaskPlacement
  split
  · exact formed_next (wf_settle (wf_placeStep h ‹_›))
  · exact formed_next h

theorem formed_quantumExpiry (h : Memory.wf s.mem) : Formed (execQuantumExpiry s) := by
  unfold execQuantumExpiry
  split
  · exact formed_next (wf_settle (by simpa using h))
  · exact formed_next h

theorem formed_joinRelief (h : Memory.wf s.mem) : Formed (execJoinRelief s) := by
  unfold execJoinRelief
  split
  · exact formed_next (wf_settle (by simpa using h))
  · exact formed_next h

theorem formed_pageWalk (h : Memory.wf s.mem) : Formed (execPageWalk s) := by
  unfold execPageWalk
  split
  · exact formed_next h
  · exact formed_next (wf_settle (wf_pageWalk h ..))

theorem formed_wavelengthWithdraw (h : Memory.wf s.mem) : Formed (execWavelengthWithdraw s) := by
  refine formed_ite (formed_stepIf h (by simpa using h) _) ?_
  split
  · exact formed_next (wf_settle h)
  · exact formed_next h

theorem formed_hostWrite (h : Memory.wf s.mem) : Formed (execHostWrite s) :=
  formed_ite (formed_stepIf h (by simp [memPutBytes_wf, h]) _) (formed_stepIf h (wf_hostWrite h ..) _)

theorem formed_treeDataError (h : Memory.wf s.mem) : Formed (execTreeDataError s) :=
  formed_ite (formed_stepIf h (by simp [h]) _) (formed_ite (formed_stepIf h (by simp [h]) _) (formed_stepIf h (by simp [h]) _))

theorem formed_sendFlit (h : Memory.wf s.mem) : Formed (execSendFlit s) :=
  formed_ite (formed_stepIf h (by simp [h]) _) (formed_ite (formed_stepIf h (by simp [h]) _) (formed_stepIf h (by simp [h]) _))

/-- A STEP of an engine, of the host or of the fabric keeps memory in its form. -/
theorem formed_event (i : Instr) (hk : i.slotKind = .event) (h : Memory.wf s.mem) : Formed (exec i s) := by
  cases i
  case msetExecute => exact formed_mxStep h _ fun c e => by simpa using h
  case mldaExecute => exact formed_mxStep h _ fun c e => wf_mldaRun h ..
  case mstaExecute => exact formed_mxStep h _ fun c e => wf_mstaRun h ..
  case kstepStart => exact formed_kstepStart h
  case mzeroExecute => exact formed_mzeroExecute h
  case mchanExecute => exact formed_mchanExecute h
  case minjExecute => exact formed_minjExecute h
  case kstepMerge => exact formed_kstepMerge h
  case retirement => exact formed_retirement h
  case followOnPresent => exact formed_followOnPresent h
  case watchTimeout => exact formed_watchTimeout h
  case resultArrival => exact formed_resultArrival h
  case taskRestore => exact formed_taskRestore h
  case taskPlacement => exact formed_taskPlacement h
  case quantumExpiry => exact formed_quantumExpiry h
  case joinRelief => exact formed_joinRelief h
  case pageWalk => exact formed_pageWalk h
  case wavelengthWithdraw => exact formed_wavelengthWithdraw h
  case hostWrite => exact formed_hostWrite h
  case treeDataError => exact formed_treeDataError h
  case sendFlit => exact formed_sendFlit h
  case launch | createRoot | controlDestroy | controlLaunch | controlPreempt | controlPark | controlResume | controlKill |
    controlReload | paramPtroot | paramFqbase | paramTtbase | paramLease | paramEvqbase | paramEvqlen | paramErrbase | paramErrlen |
    paramSevmat | paramPcap | resync | checkpoint | restore =>
    exact formed_command h _
  case treeChunkArrive | treeReplicate | treeDelivery | l2Eviction | remoteErrorReply | remoteUnreachable | stripeSwitch |
    wavelengthHandback | reset | attest | registerWrite | remoteAcknowledgement =>
    exact formed_ite (formed_stepIf h (by simp [h]) _) (formed_stepIf h (by simp [h]) _)
  case idleBundle | ofillRow | copyRecordRead | selectTileRead | copySectorWrite | copyFaultResolved | copyCompletion | xprefUnit |
    sumpAdmit | sumpAgeDue | firingDecision | treeSourceRead | treeSlotRefill | holdSuspend | replayEntryInject | trapAction |
    replayResume | forwardDelivery | preemptRequest | freeze | lateFreeze | taskSave | tileRefill | controlDiverge | lsAccessSend |
    pclkTick | pclkRaise | taskClockTick | backInvalidationResponse | hostRead | faultSlotOpen | faultDisposition | remoteRequest |
    sendLinePerform | snoteAdd | flitReceive | stopGoSignal | wavelengthWindow | retrainTrigger | retrainAdaptationEnd |
    retrainTestEnd | slotBoundary | guardEnd | windowClose | transitReinject | ftimeLock | lockLoss | slotTable | tableActivation |
    packageIdentifier | peerTable | moduleBoot | recoveryImage | capBroadcast | rankSet | clockLimit | linkRetry | linkDown |
    clusterFailure | memoryError | redunCompare | linkRecovery | hostWriteCompletion | regulatorPhaseFailure | ownCap =>
    exact formed_stepIf h (by simp [h]) _
  all_goals cases hk

/-! ### The step -/

theorem formed_exec (i : Instr) (h : Memory.wf s.mem) : Formed (exec i s) := by
  by_cases hk : i.slotKind = .event
  · exact formed_event i hk h
  · obtain ⟨sh, out, hslot⟩ := Proofs.exec_slot i s hk
    rw [hslot]
    exact formed_runSlot h _ _

theorem formed_runWord (sl : Slot) (w : BitVec 32) (h : Memory.wf s.mem) : Formed (Proofs.runWord sl w s) := by
  unfold Proofs.runWord
  split
  · exact formed_exec _ h
  · exact formed_runSlot h _ _

theorem formed_runSlots (ws : List (Slot × BitVec 32)) (h : Memory.wf s.mem) : Formed (State.runSlots exec ws s) := by
  induction ws generalizing s with
  | nil => exact formed_next h
  | cons w ws ih =>
    have hword := formed_runWord w.1 w.2 (s := Proofs.State.atSlot s w.1 ws.length) h
    rw [Proofs.runSlots_cons]
    split
    · exact ih (hword _ ‹_›)
    · exact hword

theorem formed_takeTurn (h : Memory.wf s.mem) : Formed (State.takeTurn exec s) := by
  unfold State.takeTurn
  split
  · exact formed_next h
  · exact formed_exec _ h
  · exact formed_next (by simpa using h)
  · exact formed_next (wf_settle (wf_trapNow h ..))
  · exact formed_next (wf_settle (by simpa using wf_finishTask h ..))
  · exact formed_next (wf_closeBundle (by exact h))
  · exact formed_runSlots _ (by exact h)

theorem formed_coreTurn (h : Memory.wf s.mem) : ∀ o, s.coreTurn = some o → Formed o := by
  intro o ho
  obtain ⟨c, -, rfl⟩ := Option.map_eq_some_iff.1 ho
  exact formed_takeTurn (by simpa using h)

theorem formed_ownTurn (h : Memory.wf s.mem) : ∀ o, s.ownTurn = some o → Formed o := by
  intro o ho
  obtain ⟨x, -, rfl⟩ := Option.map_eq_some_iff.1 ho
  exact formed_exec _ (by exact h)

theorem formed_oneOf (h : Memory.wf s.mem) {a b : Option (Outcome State Fault Refusal)} (ha : ∀ o, a = some o → Formed o)
    (hb : ∀ o, b = some o → Formed o) : Formed (s.oneOf a b) := by
  unfold State.oneOf
  split
  · exact ha _ rfl
  · exact hb _ rfl
  · exact formed_next h

theorem formed_concluded (h : Memory.wf s.mem) {o : Outcome State Fault Refusal} (ho : Formed o) : Formed (s.concluded o) := by
  unfold State.concluded
  split
  · exact formed_next (wf_conclude h _ (ho _ rfl))
  · exact ho

theorem formed_step (h : Memory.wf s.mem) : Formed (step s) := by
  unfold step
  split
  · split
    · exact formed_concluded h (formed_exec _ h)
    · exact formed_next h
  · extract_lets s1
    have h1 : Memory.wf s1.mem := h
    refine formed_concluded h1 ?_
    split
    · exact formed_oneOf h1 (formed_coreTurn h1) (formed_ownTurn h1)
    · exact formed_oneOf h1 (formed_ownTurn h1) (formed_coreTurn h1)

end Sys2Proof.Machine.State

namespace Sys2Proof.Proofs

/-- Settles O54: every branch of every function that a step runs writes memory by `memPut`, clears it by a filter, or leaves it. -/
theorem stepKeepsMemoryForm : Obligations.StepKeepsMemoryForm := fun _ t h => Machine.State.formed_step h t

end Sys2Proof.Proofs
